-- ==== Sys2Proof/Word.lean ====
section
/-! DEFINITION. The word types of the HM8 (00 R12, 03 R65, R77) and the machine's plainest arithmetic. -/

namespace Sys2Proof

/-- A byte of memory (R12). -/
abbrev Byte := BitVec 8
/-- A 32-bit register or instruction word (R65, R77). -/
abbrev Word := BitVec 32
/-- A 64-bit value: a register pair, an address operand, a device register (R12). -/
abbrev DWord := BitVec 64
/-- A program counter: 55 bits (R47). -/
abbrev Pc := BitVec 55
/-- A v register number, 0 to 2047 (R69). -/
abbrev VReg := BitVec 11
/-- A predicate number, p0 to p7 (R69). -/
abbrev PReg := BitVec 3

end Sys2Proof
end

