-- ==== Sys2Proof/Config.lean ====
section
/-! DEFINITION. What the part's manufacture or the world outside fixes, and the values the spec leaves open. Each is an
opaque constant: nothing can be proved of its value. -/

namespace Sys2Proof.Config

/-- The n-th value the spec leaves unspecified (R4, R6): applied to the counter `State.fresh` (log 5). -/
opaque freeWord : Nat → BitVec 64
/-- What a register of an MACRD's quad holds once its thread has written it before the covering MWAIT (R372): of the MACRD's
window and the register (log 5). -/
opaque macrdWord : Nat → Nat → BitVec 32
/-- Register-cache lines, as (block, register), that a group drawn at a clk on a core finds absent: which lines are present is
not stated (R187; log 5). -/
opaque absentLines : Nat → Nat → List (Nat × Nat)
/-- The fused harvest step of core c, 0 to 15 (R191, log 4). -/
opaque harvestStep : Nat → BitVec 4
/-- The array rows of core c disabled by fuse, as a mask of its 528 physical rows (R351, log 4). -/
opaque fusedRows : Nat → BitVec 528
/-- The n-th key the root's generator draws (R438; log 16). -/
opaque rootKey : Nat → BitVec 256
/-- The n-th 32-bit salt the root's generator draws (R438; log 16). -/
opaque rootSalt : Nat → BitVec 32
/-- The key and salt that a port's session gives a direction (true: away from this package) for a rollover number (R438; log 8). -/
opaque sessionKey : Nat → Nat → Bool → BitVec 288
/-- The root's answer to a data-object-exchange SPDM request (R442; log 8). -/
opaque spdmAnswer : Nat → List Byte → List Byte

end Sys2Proof.Config
end

