-- ==== Sys2Proof/Machine/Tbl.lean ====
section
/-! DEFINITION. Sparse tables: plain data keyed by a number, in one canonical form (keys strictly rising). -/

namespace Sys2Proof.Machine

/-- A table from numbers to values: entries in strictly rising key order. -/
abbrev Tbl (α : Type) := List (Nat × α)

namespace Tbl

variable {α : Type}

/-- The entry at `k`. -/
def find (t : Tbl α) (k : Nat) : Option α :=
  match t with
  | [] => none
  | (j, x) :: r => if j = k then some x else find r k

/-- The entry at `k`, or `d` where there is none. -/
def get (t : Tbl α) (k : Nat) (d : α) : α := (find t k).getD d

/-- `t` with `x` at `k`. -/
def put (t : Tbl α) (k : Nat) (x : α) : Tbl α :=
  match t with
  | [] => [(k, x)]
  | (j, y) :: r => if k < j then (k, x) :: (j, y) :: r else if j = k then (k, x) :: r else (j, y) :: put r k x

/-- `t` without an entry at `k`. -/
def drop (t : Tbl α) (k : Nat) : Tbl α := t.filter fun e => e.1 != k

/-- Each entry replaced by `f` of its key and value. -/
def mapKV (f : Nat → α → α) (t : Tbl α) : Tbl α := t.map fun e => (e.1, f e.1 e.2)

/-- The values, in key order. -/
def vals (t : Tbl α) : List α := t.map (·.2)

/-- The keys, rising. -/
def keys (t : Tbl α) : List Nat := t.map (·.1)

/-- The keys rise strictly. -/
def wf (t : Tbl α) : Bool :=
  match t with
  | [] => true
  | (_, _) :: [] => true
  | (j, _) :: (k, y) :: r => decide (j < k) && wf ((k, y) :: r)

end Tbl

/-- The list with element `n` replaced (nothing where it has no element `n`). -/
def setAt {α : Type} : List α → Nat → α → List α
  | [], _, _ => []
  | _ :: r, 0, x => x :: r
  | y :: r, n + 1, x => y :: setAt r n x

/-- The list with `f` applied to element `n`. -/
def modAt {α : Type} : List α → Nat → (α → α) → List α
  | [], _, _ => []
  | y :: r, 0, f => f y :: r
  | y :: r, n + 1, f => y :: modAt r n f

/-- The list without element `n`. -/
def dropAt {α : Type} : List α → Nat → List α
  | [], _ => []
  | _ :: r, 0 => r
  | y :: r, n + 1 => y :: dropAt r n

/-- Insertion into a list kept in rising order of `key`. -/
def insertBy {α : Type} (key : α → Nat) (x : α) : List α → List α
  | [] => [x]
  | y :: r => if key x ≤ key y then x :: y :: r else y :: insertBy key x r

/-- A stable sort in rising order of `key`. -/
def sortBy {α : Type} (key : α → Nat) (l : List α) : List α := l.foldr (insertBy key) []

/-- The elements of a list of numbers without later repeats. -/
def distinct : List Nat → List Nat
  | [] => []
  | x :: r => x :: (distinct r).filter (· != x)

/-- Numbers from 0 to n − 1, in order. -/
def upTo (n : Nat) : List Nat := List.range n

/-- Apply `f` `n` times. -/
def iter {α : Type} (f : α → α) : Nat → α → α
  | 0, x => x
  | n + 1, x => iter f n (f x)

end Sys2Proof.Machine
end

