-- ==== Sys2Proof/Machine/Bits.lean ====
section
/-! DEFINITION. Bit fields, byte order and checks shared by all engines (R4, R12). -/

namespace Sys2Proof.Machine

/-- Bits [hi:lo] of a number. -/
def bits (x : Nat) (hi lo : Nat) : Nat := (x >>> lo) % 2 ^ (hi + 1 - lo)

/-- Bit n of a number. -/
def bitOf (x n : Nat) : Bool := x.testBit n

/-- Bits [hi:lo] set. -/
def maskOf (hi lo : Nat) : Nat := (2 ^ (hi + 1 - lo) - 1) * 2 ^ lo

/-- 1 for true, 0 for false. -/
def b2n (b : Bool) : Nat := if b then 1 else 0

/-- A 32-bit 1 for true, 0 for false. -/
def b2w (b : Bool) : Word := if b then 1 else 0

/-- Little-endian bytes to a number (R12). -/
def ofBytes : List Byte → Nat
  | [] => 0
  | b :: r => b.toNat + 256 * ofBytes r

/-- The n little-endian bytes of a number (R12). -/
def toBytes : Nat → Nat → List Byte
  | 0, _ => []
  | n + 1, x => BitVec.ofNat 8 x :: toBytes n (x / 256)

/-- x rounded down to a multiple of n. -/
def alignDown (x n : Nat) : Nat := x / n * n

/-- x rounded up to a multiple of n. -/
def alignUp (x n : Nat) : Nat := (x + n - 1) / n * n

/-- The quotient of x by n, rounded up. -/
def ceilDiv (x n : Nat) : Nat := (x + n - 1) / n

/-- A signed number from its low n bits. -/
def signed (n x : Nat) : Int := if x % 2 ^ n < 2 ^ (n - 1) then (x % 2 ^ n : Nat) else (x % 2 ^ n : Nat) - (2 ^ n : Nat)

/-- The low n bits of an integer. -/
def wrapInt (n : Nat) (x : Int) : Nat := (x % (2 ^ n : Nat)).toNat

/-- The number of binary digits of x. -/
def bitLen (x : Nat) : Nat := if x = 0 then 0 else Nat.log2 x + 1

/-- Ones among the low n bits of x. -/
def popCount : Nat → Nat → Nat
  | 0, _ => 0
  | n + 1, x => x % 2 + popCount n (x / 2)

/-- A 64-bit value from a pair of registers, low word first. -/
def pairOf (lo hi : Word) : DWord := hi ++ lo

/-- The low word of a 64-bit value. -/
def loW (x : DWord) : Word := x.setWidth 32

/-- The high word of a 64-bit value. -/
def hiW (x : DWord) : Word := (x >>> 32).setWidth 32

/-- (G − g) mod 2^32 lies from 1 to 2^31 − 1 (R248, R338). -/
def doneGen (G g : Word) : Bool := 1 ≤ (G - g).toNat && (G - g).toNat ≤ 2 ^ 31 - 1

/-- One bit of the remainder of CRC-32C (R227, R387). -/
def crcBit (c : BitVec 32) : BitVec 32 := if c.getLsbD 0 then (c >>> 1) ^^^ 0x82F63B78 else c >>> 1

end Sys2Proof.Machine
end

