-- ==== Sys2Proof/Syntax.lean ====
section
/-! DEFINITION. The syntax of the machine's steps: one constructor of `Instr` per row of spec/opcode_table.json, the
instructions with their operands as decoded (03), the rows that are steps of an engine or of an outside party with the
instance and the outside data they need (95). -/

namespace Sys2Proof

/-- Guard and hints common to S and L forms (R66 to R68). -/
structure Hdr where
  gp : PReg
  gn : Bool
  la : BitVec 4
  yh : Bool
  ru : Bool
deriving DecidableEq, Repr

/-- Operand B in the forms S, L with a literal, and L with an extension word (R66, R71 to R73). -/
inductive SrcB where
  | reg (r : VReg)        -- S form
  | lit (w : Word)        -- L form, X = 1
  | xreg (r : VReg)       -- L form, extension word, CLS = 0b00
  | xk (k : BitVec 6)     -- L form, extension word, CLS = 0b01
deriving DecidableEq, Repr

/-- Operand B under an extension word that must be present (R72, R73). -/
inductive ExtB where
  | v (r : VReg)
  | k (k : BitVec 6)
deriving DecidableEq, Repr

/-- Two-source shape: D, A, B (R202). -/
structure Two where
  h : Hdr
  d : VReg
  a : VReg
  b : SrcB
deriving DecidableEq, Repr

/-- Three-source shape: D, A, B, C, always with an extension word (R92, R202). -/
structure Three where
  h : Hdr
  d : VReg
  a : VReg
  b : ExtB
  c : VReg
deriving DecidableEq, Repr

/-- One-source shape: D, A; `ext` is the L form with an all-zero extension word (R202). -/
structure One where
  h : Hdr
  d : VReg
  a : VReg
  ext : Bool
deriving DecidableEq, Repr

/-- C-form operands D, A, B in v0 to v63 and the guard (R75). -/
structure CTwo where
  gp : PReg
  d : BitVec 6
  a : BitVec 6
  b : BitVec 6
deriving DecidableEq, Repr

/-- C-form operands of an equivalent that uses no operand B (R76). -/
structure COne where
  gp : PReg
  d : BitVec 6
  a : BitVec 6
deriving DecidableEq, Repr

/-- Scope codes 0 to 6 (R23). -/
inductive Scope where
  | core | clus | die | stk | ipo | pkg | sys
deriving DecidableEq, Repr

/-- Order codes of R132 (for FENCE, `rlx` is .sc). -/
inductive Order where
  | rlx | acq | rel | ar
deriving DecidableEq, Repr

/-- Orders of FENCE (R132). -/
inductive FenceOrder where
  | sc | acq | rel
deriving DecidableEq, Repr

/-- Rounding codes 0 to 5 (R112). -/
inductive RoundCode where
  | fpctl | rn | rz | ru | rd | sr
deriving DecidableEq, Repr

/-- Integer types of R206. -/
inductive IntTy where
  | i32 | n32 | i64 | n64
deriving DecidableEq, Repr

/-- Conditions of ICMP (R206). -/
inductive ICond where
  | eq | ne | lt | le | gt | ge
deriving DecidableEq, Repr

/-- Conditions of FCMP and DCMP (R216). -/
inductive FCond where
  | eq | ne | lt | le | gt | ge | un | ord
deriving DecidableEq, Repr

/-- Sign fields of a floating instruction's A and B (R213). -/
structure FMods where
  na : Bool
  nb : Bool
  aa : Bool
  ab : Bool
deriving DecidableEq, Repr

/-- Rounding field and sign fields (R213). -/
structure FRm where
  rm : RoundCode
  m : FMods
deriving DecidableEq, Repr

/-- The C operand's sign fields of FFMA and DFMA (R214). -/
structure FCm where
  nc : Bool
  ac : Bool
deriving DecidableEq, Repr

/-- Widths of MOV (R212). -/
inductive MovW where
  | b32 | b64 | b128
deriving DecidableEq, Repr

/-- Types of MOVL (R212). -/
inductive MovlTy where
  | b32 | i64 | n64
deriving DecidableEq, Repr

/-- Floating formats named by CVTI's SRC and CVTF's DST (R222, R223). -/
inductive FName where
  | f32 | f64 | f16 | bf16
deriving DecidableEq, Repr

/-- Source types of CVTF (R223). -/
inductive CvtSrc where
  | i32 | n32 | i64 | n64 | f32 | f64 | f16 | bf16
deriving DecidableEq, Repr

/-- Destination formats of CVTQ (R224). -/
inductive QFmt where
  | e4m3 | e5m2 | e2m1
deriving DecidableEq, Repr

/-- Operations of CVTP (R225). -/
inductive CvtpOp where
  | wideE4m3 | wideE5m2 | wideE2m1 | packF16 | packBf16 | wideF16 | wideBf16
deriving DecidableEq, Repr

/-- Data widths of CRC32C (R227). -/
inductive CrcW where
  | b32 | b8 | b16
deriving DecidableEq, Repr

/-- The special registers of R78. -/
inductive SReg where
  | tid | lane | slot | team | nteams | gwidth | core | clus | die | pkg | ctxid
  | clock | fpctl | part | flags | rngkey | region | tdm
  | mgnCtl | mgnStat | mgnLimit | parkTh | ageLimit
deriving DecidableEq, Repr

/-- Destinations of MOVK (R154). -/
inductive MovkDst where
  | k (i : BitVec 6)
  | mb (i : BitVec 4)
  | ml (i : BitVec 4)
deriving DecidableEq, Repr

/-- Memory operands (R84 to R86). `lit` is the L form with a literal offset. -/
inductive MemOp where
  | base
  | off (imm : Word)
  | index (b : ExtB) (s : BitVec 3)
  | post (inc : BitVec 13)
  | modulo (m : BitVec 4) (inc : BitVec 13)
deriving DecidableEq, Repr

/-- Fields common to the memory instructions of R272 with an order and a scope. -/
structure MemIns where
  h : Hdr
  d : VReg
  a : VReg
  mem : MemOp
  ord : Order
  scope : Scope
deriving DecidableEq, Repr

/-- Access codes AC of LD and ST (R274). -/
inductive AccCode where
  | b32 | b64 | b128 | b64a8 | b128a16 | prv | prvB64 | prvB128
deriving DecidableEq, Repr

/-- Access codes SC of LDS and STS (R274). -/
inductive SpCode where
  | b32 | b64 | b128 | b64a8 | b128a16 | b8 | b16
deriving DecidableEq, Repr

/-- Prefetch hints (R294). -/
inductive PfHint where
  | page | ef | el
deriving DecidableEq, Repr

/-- CCTL operations (R295). -/
inductive CctlOp where
  | wb | wbinv | ef | el | nrm
deriving DecidableEq, Repr

/-- ATOM operations (R285). -/
inductive AtomOp where
  | add | addB64 | exch | exchB64 | minI32 | maxI32 | and | or
deriving DecidableEq, Repr

/-- RED operations (R285). -/
inductive RedOp where
  | add | addB64 | addF32 | minI32 | maxI32 | and | or | xor
deriving DecidableEq, Repr

/-- Conditions of WAITW (R291). -/
inductive WCond where
  | eq | ne | lt | ge | ltu | geu | any | none
deriving DecidableEq, Repr

/-- PART queries (R240). -/
inductive PartOp where
  | pos | tile | live | size
deriving DecidableEq, Repr

/-- VOTE operations (R241). -/
inductive VoteOp where
  | all | any | uni | ballot
deriving DecidableEq, Repr

/-- PICK modes (R242). -/
inductive PickMode where
  | at | below | above | flip
deriving DecidableEq, Repr

/-- Operations of TRED and TSCAN (R239, R243). -/
inductive RedKind where
  | add | min | max | and | or | xor
deriving DecidableEq, Repr

/-- Types of TRED and TSCAN (R239). -/
inductive RedTy where
  | i32 | n32 | f32
deriving DecidableEq, Repr

/-- Barrier levels (R246). -/
inductive BarLevel where
  | team | clus | die | pkg
deriving DecidableEq, Repr

/-- Operand formats FMT of the matrix engine (R362). -/
inductive MFmt where
  | e4m3 | e5m2 | e2m1 | bf16 | f16 | i8
deriving DecidableEq, Repr

/-- Output formats of MACST (R362). -/
inductive OFmt where
  | f32 | bf16 | f16 | e4m3 | e5m2
deriving DecidableEq, Repr

/-- Reductions of MROW (R371). -/
inductive RowOp where
  | max | sum | amax
deriving DecidableEq, Repr

/-- S form, or L form with an extension word carrying the convergence field of R363. -/
inductive CvForm where
  | s
  | x (cv : Option (BitVec 4))
deriving DecidableEq, Repr

/-- Rounding field RM of MACST (R363). -/
inductive StRm where
  | dflt | rn | rz | ru | rd
deriving DecidableEq, Repr

/-- The kinds a non-instruction bit pattern faults with at decode (R94). -/
inductive EncFault where
  | illegalEncoding | illegalOpcode
deriving DecidableEq, Repr

/-! ### Operands of the rows that are not instructions -/

/-- A barrier: a team's own, or a cohort's of a launch (R246). -/
inductive BarRef where
  | team (team : Nat) (idx : Nat)
  | cohort (lid : Nat) (cohort : Nat) (idx : Nat)
deriving DecidableEq, Repr

/-- A cache: the L1 of a core, the L2 of a C-die, the crown cache of a crown. -/
inductive CacheRef where
  | l1 (core : Nat)
  | l2 (die : Nat)
  | crown (n : Nat)
deriving DecidableEq, Repr

/-- A directory (R308). -/
inductive DirRef where
  | cluster (n : Nat)
  | die (n : Nat)
  | package (crown : Nat)
deriving DecidableEq, Repr

/-- A holder that a directory tracks (R308): a core's L1, a cluster, a C-die's L2, a crown cache, the host. -/
inductive Holder where
  | l1 (core : Nat)
  | cluster (n : Nat)
  | l2 (die : Nat)
  | crown (n : Nat)
  | host
deriving DecidableEq, Repr

/-- Where an error is found (R408, R418). -/
inductive ErrLoc where
  | cacheLine (c : CacheRef) (pa : Nat) (way : Nat)
  | dram (pa : Nat)
  | register (team : Nat) (tid : Nat) (reg : Nat)
  | predicates (team : Nat) (tid : Nat)
  | scratch (team : Nat) (off : Nat)
  | accumulator (team : Nat) (engine : Nat) (row : Nat) (col : Nat)
  | plane (team : Nat) (engine : Nat) (shadow : Bool) (byte : Nat)
  | storeQueue (core : Nat) (idx : Nat)
  | storeLog (team : Nat) (idx : Nat)
  | fixedMargin (team : Nat) (tid : Nat)
deriving DecidableEq, Repr

/-- Message kinds of R397. -/
inductive MsgKind where
  | read | write | atomic | cas | chunk | landing | response | ack | refusal | respAck
deriving DecidableEq, Repr

/-- A Kalsy message: the header of R397 and its data units as bytes; `scr`: a chunk for a team's scratchpad. -/
structure Msg where
  kind : MsgKind
  dpkg : Nat
  spkg : Nat
  sctx : Nat
  hops : Nat
  rid : Nat
  op : BitVec 8
  addr : BitVec 52
  data : List Byte
  scr : Bool
deriving DecidableEq, Repr

/-- The outcome of measuring a die (R436, R442 WHY). -/
inductive Measured where
  | accepted | certificate | firmware | measurement | session
deriving DecidableEq, Repr

/-- A link whose keys the root installs: a die link (R17) or a Kalsy port. -/
inductive LinkRef where
  | die (n : Nat)
  | port (n : Nat)
deriving DecidableEq, Repr

/-- The operands of a row that is not an instruction: the instance it acts on and the data that reaches it from outside.
Each such row reads only the fields its meaning names. -/
structure Ev where
  core : Nat := 0
  slot : Nat := 0
  team : Nat := 0
  tid : Nat := 0
  win : Nat := 0
  lid : Nat := 0
  block : Nat := 0
  reg : Nat := 0
  port : Nat := 0
  hport : Nat := 0
  q : Nat := 0
  ctx : Nat := 0
  die : Nat := 0
  link : Nat := 0
  dir : Nat := 0
  row : Nat := 0
  chunk : Nat := 0
  req : Nat := 0
  idx : Nat := 0
  pa : Nat := 0
  frame : Nat := 0
  rid : Nat := 0
  off : Nat := 0
  size : Nat := 0
  cause : Nat := 0
  v : DWord := 0
  temp : BitVec 16 := 0
  flag : Bool := false
  only : Option Nat := none
  write : Option DWord := none
  tids : List Nat := []
  bytes : List Byte := []
  bar : BarRef := .team 0 0
  dref : DirRef := .cluster 0
  holder : Holder := .host
  holders : List Holder := []
  cache : CacheRef := .crown 0
  loc : ErrLoc := .dram 0
  measured : Measured := .accepted
  lref : LinkRef := .die 0
deriving DecidableEq, Repr

/-- One step of the part: one constructor per row of the opcode table. The instructions come first, with their operands as
decoded; then the rows that are steps of an engine or of an outside party, whose operands (the instance they act on and
what arrives from outside) stand in the record `Ev` of the state. -/
inductive Instr where
  -- sequencer
  | nonInstructionEncoding (e : EncFault) (len : Nat)
  | nop (h : Hdr)
  | bra (h : Hdr) (off : Word)
  | brx (h : Hdr) (a : VReg)
  | call (h : Hdr) (off : Word)
  | callx (h : Hdr) (a : VReg)
  | ret (h : Hdr)
  | reform (h : Hdr)
  | exit (h : Hdr)
  | yield (h : Hdr)
  | sleep (h : Hdr) (b : SrcB)
  | rgn (h : Hdr)
  | trap (h : Hdr) (b : SrcB)
  | trapRgn (h : Hdr) (b : SrcB)
  | tret (h : Hdr)
  | tretSkip (h : Hdr)
  | tretRgn (h : Hdr)
  | tretRd (h : Hdr) (d : VReg)
  | bkpt (h : Hdr) (b : SrcB)
  | gets (h : Hdr) (d : VReg) (sel : SReg)
  | sets (h : Hdr) (sel : SReg) (b : SrcB)
  | movk (h : Hdr) (dst : MovkDst) (b : SrcB)
  -- integer
  | iadd (o : Two) (ty : IntTy) (sat : Bool)
  | iadd3 (o : Three) (ty : IntTy) (sat : Bool)
  | isub (o : Two) (ty : IntTy) (sat : Bool)
  | imul (o : Two) (ty : IntTy) (sat : Bool)
  | imulh (o : Two) (ty : IntTy)
  | imad (o : Three) (ty : IntTy) (sat : Bool)
  | imadw (o : Three) (ty : IntTy) (sat : Bool)
  | imin (o : Two) (ty : IntTy)
  | imax (o : Two) (ty : IntTy)
  | iabs (o : One) (ty : IntTy) (sat : Bool)
  | ineg (o : One) (ty : IntTy) (sat : Bool)
  | isad (o : Three) (ty : IntTy)
  | icmp (o : Two) (cc : ICond) (ty : IntTy)
  | iaddc (o : Two) (sub : Bool) (p : PReg) (ty : IntTy)
  -- logic and bit fields
  | and (o : Two) (w64 : Bool)
  | or (o : Two) (w64 : Bool)
  | xor (o : Two) (w64 : Bool)
  | not (o : One) (w64 : Bool)
  | tern (o : Three) (tbl : BitVec 8) (w64 : Bool)
  | shl (o : Two) (w64 : Bool)
  | shr (o : Two) (w64 : Bool)
  | sar (o : Two) (w64 : Bool)
  | rotl (o : Two) (w64 : Bool)
  | fshl (o : Three)
  | popc (o : One) (w64 : Bool)
  | clz (o : One) (w64 : Bool)
  | ctz (o : One) (w64 : Bool)
  | brev (o : One) (w64 : Bool)
  | bfx (o : Two) (sx : Bool)
  | bfi (o : Three)
  | prmt (o : Three)
  -- moves and predicates
  | mov (o : One) (w : MovW)
  | movl (h : Hdr) (d : VReg) (lit : Word) (ty : MovlTy)
  | sel (o : Two) (p : PReg) (neg : Bool) (w64 : Bool)
  | lea (o : Two) (s : BitVec 3) (w64 : Bool) (zx : Bool)
  | pset (o : Two) (z : Bool) (w64 : Bool)
  | plop (h : Hdr) (d a b : PReg) (lut : BitVec 4)
  | p2v (h : Hdr) (d : VReg) (ext : Bool)
  | v2p (h : Hdr) (a : VReg) (mask : BitVec 7) (ext : Bool)
  -- FP32 and FP64
  | fadd (o : Two) (m : FRm)
  | fmul (o : Two) (m : FRm)
  | ffma (o : Three) (m : FRm) (c : FCm)
  | fmin (o : Two) (m : FMods)
  | fmax (o : Two) (m : FMods)
  | fcmp (o : Two) (cc : FCond) (m : FMods)
  | fclass (o : One)
  | frnd (o : One) (rm : RoundCode)
  | fscale (o : Two) (rm : RoundCode) (na aa : Bool)
  | ffrexp (o : One) (exp : Bool)
  | dadd (o : Two) (m : FRm)
  | dmul (o : Two) (m : FRm)
  | dfma (o : Three) (m : FRm) (c : FCm)
  | dmin (o : Two) (m : FMods)
  | dmax (o : Two) (m : FMods)
  | dcmp (o : Two) (cc : FCond) (m : FMods)
  -- packed pairs
  | hadd2 (o : Two) (bf : Bool) (rm : RoundCode) (na nb : Bool)
  | hmul2 (o : Two) (bf : Bool) (rm : RoundCode) (na nb : Bool)
  | hfma2 (o : Three) (bf : Bool) (rm : RoundCode) (na nb nc : Bool)
  | hmin2 (o : Two) (bf : Bool) (na nb : Bool)
  | hmax2 (o : Two) (bf : Bool) (na nb : Bool)
  -- special functions
  | rcp (o : One)
  | rsq (o : One)
  | sqrt (o : One)
  | exp2 (o : One)
  | log2 (o : One)
  | sin (o : One)
  | cos (o : One)
  | tanh (o : One)
  -- conversions
  | cvti (o : One) (src : FName) (ty : IntTy) (rm : RoundCode)
  | cvtf (o : One) (src : CvtSrc) (dst : FName) (rm : RoundCode)
  | cvtq (o : Two) (fmt : QFmt) (sat : Bool) (rm : RoundCode)
  | cvtp (o : Two) (op : CvtpOp) (rm : RoundCode)
  -- hash, CRC, random numbers, 2:4 packing
  | hash (o : Two) (k64 h64 : Bool)
  | crc32c (o : Two) (w : CrcW)
  | rand (h : Hdr) (d : VReg) (b64 : Bool) (ext : Bool)
  | spack (o : One) (e5m2 : Bool)
  -- C forms
  | iaddC (c : CTwo)
  | isubC (c : CTwo)
  | imulC (c : CTwo)
  | iminI32C (c : CTwo)
  | iminN32C (c : CTwo)
  | imaxI32C (c : CTwo)
  | imaxN32C (c : CTwo)
  | iabsC (c : COne)
  | inegC (c : COne)
  | imulhI32C (c : CTwo)
  | imulhN32C (c : CTwo)
  | iaddSatI32C (c : CTwo)
  | isubSatI32C (c : CTwo)
  | iaddSatN32C (c : CTwo)
  | isubSatN32C (c : CTwo)
  | andC (c : CTwo)
  | orC (c : CTwo)
  | xorC (c : CTwo)
  | notC (c : COne)
  | shlC (c : CTwo)
  | shrC (c : CTwo)
  | sarC (c : CTwo)
  | rotlC (c : CTwo)
  | popcC (c : COne)
  | clzC (c : COne)
  | ctzC (c : COne)
  | brevC (c : COne)
  | movC (c : COne)
  | faddC (c : CTwo)
  | fmulC (c : CTwo)
  | fminC (c : CTwo)
  | fmaxC (c : CTwo)
  | fscaleC (c : CTwo)
  | frndRnC (c : COne)
  | hadd2F16C (c : CTwo)
  | hmul2F16C (c : CTwo)
  | hmin2F16C (c : CTwo)
  | hmax2F16C (c : CTwo)
  | hadd2Bf16C (c : CTwo)
  | hmul2Bf16C (c : CTwo)
  | hmin2Bf16C (c : CTwo)
  | hmax2Bf16C (c : CTwo)
  | cvtfF32I32C (c : COne)
  | cvtfF32N32C (c : COne)
  | cvtiI32F32RzC (c : COne)
  | cvtiN32F32RzC (c : COne)
  | crc32cC (c : CTwo)
  -- lane exchange and barriers
  | part (h : Hdr) (op : PartOp) (d : VReg)
  | vote (h : Hdr) (op : VoteOp) (neg : Bool) (d : VReg) (pa : PReg) (b : SrcB)
  | pick (h : Hdr) (mode : PickMode) (delta : BitVec 6) (d a : VReg) (b : SrcB)
  | tred (h : Hdr) (op : RedKind) (ty : RedTy) (d a : VReg) (b : SrcB)
  | tscan (h : Hdr) (op : RedKind) (ty : RedTy) (exc : Bool) (d a : VReg) (b : SrcB)
  | matchEq (h : Hdr) (w64 : Bool) (d a : VReg) (b : SrcB)
  | barArv (h : Hdr) (lvl : BarLevel) (idx : BitVec 4) (d : VReg)
  | barWait (h : Hdr) (lvl : BarLevel) (idx : BitVec 4) (a : VReg)
  | barSync (h : Hdr) (lvl : BarLevel) (idx : BitVec 4)
  | barQ (h : Hdr) (lvl : BarLevel) (idx : BitVec 4) (d : VReg)
  -- launch engine
  | launch (h : Hdr) (sys res : Bool) (d a : VReg) (b : SrcB)
  | qres (h : Hdr) (d : VReg) (b : SrcB)
  | qfree (h : Hdr)
  -- load-store engine
  | ld (m : MemIns) (ac : AccCode)
  | st (m : MemIns) (ac : AccCode)
  | lds (m : MemIns) (sc : SpCode)
  | sts (m : MemIns) (sc : SpCode)
  | pfch (h : Hdr) (a : VReg) (mem : MemOp) (ex : Bool) (hint : PfHint) (scope : Scope)
  | cctl (h : Hdr) (a : VReg) (mem : MemOp) (op : CctlOp) (scope : Scope)
  | pin (h : Hdr) (a b : VReg) (idx : BitVec 2)
  | unpin (h : Hdr) (idx : BitVec 2)
  | fence (h : Hdr) (ord : FenceOrder) (scope : Scope)
  | atom (m : MemIns) (op : AtomOp)
  | cas (m : MemIns) (w64 : Bool) (c : VReg)
  | red (m : MemIns) (op : RedOp)
  | waitw (h : Hdr) (cond : WCond) (ord : Order) (scope : Scope) (d a b : VReg)
  | txq (h : Hdr) (d a : VReg)
  | frq (h : Hdr) (d a : VReg)
  -- copy and binning engine
  | kick (h : Hdr) (a : VReg) (mem : MemOp)
  | landi (h : Hdr) (scope : Scope) (a : VReg) (b : SrcB)
  | lwait (h : Hdr) (d a : VReg) (b : SrcB)
  | lpoll (h : Hdr) (d a : VReg) (b : SrcB)
  | binc (h : Hdr) (d a : VReg) (b : SrcB)
  | bhold (h : Hdr) (slot : BitVec 4) (a : VReg)
  | brel (h : Hdr) (clr : Bool) (b : SrcB)
  | cpyq (h : Hdr) (d : VReg)
  -- matrix engine
  | mldw (h : Hdr) (fmt : MFmt) (ns e : Bool) (d a : VReg) (b : SrcB) (cv : Option (BitVec 4))
  | mldws (h : Hdr) (e5m2 e : Bool) (d a : VReg) (b : SrcB) (cv : Option (BitVec 4))
  | mswap (h : Hdr) (e : Bool) (f : CvForm)
  | mma (h : Hdr) (fmt : MFmt) (ns z e : Bool) (d a : VReg) (b : ExtB) (c : VReg) (cv : Option (BitVec 4))
  | mgmm (h : Hdr) (fmt : MFmt) (ns bin e : Bool) (d a : VReg) (b : ExtB) (c : VReg) (cv : Option (BitVec 4))
  | mclr (h : Hdr) (e : Bool) (d : VReg) (f : CvForm)
  | macld (h : Hdr) (acc e : Bool) (d a : VReg) (b : SrcB) (cv : Option (BitVec 4))
  | macst (h : Hdr) (ofmt : OFmt) (sx e sat clr : Bool) (d a : VReg) (b : ExtB) (c : VReg) (cv : Option (BitVec 4)) (rm : StRm)
  | macrd (h : Hdr) (e : Bool) (d a : VReg) (b : SrcB)
  | mrow (h : Hdr) (op : RowOp) (acc e : Bool) (d a : VReg) (f : CvForm)
  | mfence (h : Hdr)
  | mwait (h : Hdr) (e : Bool)
  | mwaitCv (h : Hdr) (e : Bool) (n : BitVec 4) (b : SrcB)
  | mqry (h : Hdr) (clr e : Bool) (d : VReg)
  | cvset (h : Hdr) (d : BitVec 4) (b : SrcB)
  | sign (h : Hdr) (d : VReg) (a : BitVec 4)
  -- steps of the engines and of outside parties
  | trapDelivery
  | longLatencyResult
  | cardingDraw
  | strayDraw
  | issue
  | overdueDraw
  | stallSwap
  | rotationSwap
  | yieldHoldEnd
  | sleepEnd
  | registerCacheFill
  | replay
  | marginWindowEnd
  | silentError
  | mgnCtlWrite
  | mgnLimitWrite
  | quarantineClear
  | collectiveResult
  | barrierPhaseComplete
  | launchRecordCopy
  | launchStart
  | teamPlacement
  | teamRetire
  | launchRetire
  | timeSliceEnd
  | switchOut
  | switchIn
  | contextCreate
  | contextDestroy
  | eqctlWrite
  | hresRead
  | hostPost
  | faultRecordEnter
  | storeAccepted
  | impreciseStoreFault
  | storeLogFlush
  | watchWake
  | watchPoll
  | directoryRequest
  | probe
  | probeAcknowledgement
  | entryMerge
  | cacheSleep
  | cacheWake
  | hostSnoop
  | backInvalidateResponse
  | shoot
  | flush
  | wake
  | rangeCommandComplete
  | lwaitRecheck
  | copyRequestStart
  | chunkRead
  | chunkWrite
  | landingEvent
  | chunkAcknowledgement
  | chunkResend
  | heldDelivery
  | matrixOperationStart
  | matrixOperationComplete
  | checksumMismatch
  | logicalMapRebuild
  | dieLinkDataFlit
  | dieLinkTagFlit
  | dieLinkControlFlit
  | dieLinkReplay
  | dieLinkOpenGroup
  | entryRebuild
  | kalsyDataFlit
  | kalsyTagFlit
  | kalsyControlFlit
  | kalsyReplay
  | ackTimeout
  | kalsyOpenGroup
  | portEnable
  | portDisable
  | train
  | trainingLock
  | trainingTimeout
  | lossOfLight
  | pathWaitExpire
  | readMessage
  | writeMessage
  | atomicMessage
  | casMessage
  | chunkWriteMessage
  | landingMessage
  | response
  | acknowledgement
  | refusal
  | responseAcknowledgement
  | klctlWrite
  | uncorrectableError
  | errorWindowEnd
  | patrolScrub
  | dramScrub
  | teamKill
  | contextFault
  | frameRetirement
  | frameRetired
  | fretGo
  | sparePush
  | dieLoss
  | census
  | thermalThrottle
  | thermalReset
  | powerThrottle
  | powerThrottleDeep
  | atdieRst
  | stackZeroing
  | dieMeasurement
  | keyInstall
  | keyRollover
  | rolloverAbandon
  | packageStart
  | dieStart
  | cxlMemRead
  | cxlMemWrite
  | doeSpdmRequest
  | mctpRequest
  | registerWrite
  | lifetimeLimit
  | dieLinkIdleFlit
  | kalsyIdleFlit
  | correctedError
  | thermalThrottleEnd
  | powerThrottleEnd
deriving DecidableEq, Repr

end Sys2Proof
end

