-- ==== Sys2Proof/Machine/State.lean ====
section
/-! DEFINITION. The state of one package: threads, teams, cores, dies, crowns, links, contexts, registers, queues and
memory, all plain data, and the state after a package reset. -/

namespace Sys2Proof.Machine

/-- Why a step ends in a fault. No instruction or event of this spec stops the machine: traps, page faults and context
faults are effects on the state. The one constructor is kept for a malformed state (raised by `step` alone; safe: the
machine stops where the hardware has no such state). -/
inductive Fault where
  /-- `issueQ` names a core or slot that holds no group: raised by no run. Safe. -/
  | noSuchGroup
deriving DecidableEq, Repr

/-- Why a step is refused. -/
inductive Refusal where
  /-- The instruction has no meaning in the model yet: raised by an arm of `exec`. Safe. -/
  | notModelled (mnemonic : String)
deriving DecidableEq, Repr

/-! ### Threads and teams -/

/-- Thread states (R47). -/
inductive TState where
  | running | filed | parked | exited
deriving DecidableEq, Repr

/-- A trap: kind code, INFO, address and length of the trapping instruction (R166, R167), and the instruction's place in
program order among the thread's windows (R168). -/
structure Trap where
  kind : Nat
  info : DWord
  pc : Pc
  len : Nat
  seq : Nat
deriving DecidableEq, Repr

/-- What a wait instruction or a collective waits for (R47 WAIT). -/
inductive Wait where
  /-- BAR.WAIT or BAR.SYNC on phase `gen` (R248). -/
  | bar (b : BarRef) (gen : Word)
  /-- WAITW on a word (R291): address, condition, comparand, deadline, acquire, scope, destination, next poll, polled. -/
  | watch (va : DWord) (cond : WCond) (x : Word) (deadline : Option Nat) (acq : Bool) (sc : Scope) (dst : Nat)
      (poll : Nat) (line : Option Nat)
  /-- LWAIT on a landing word (R338): offset, generation, destination, next check. -/
  | land (off : Nat) (gen : Word) (dst : Nat) (poll : Nat)
  /-- MWAIT: until CMP of engine e reaches `ent` (R378). -/
  | matrix (e : Nat) (ent : Nat)
  /-- MWAIT.cv on register n and generation `gen` (R378). -/
  | conv (n : Nat) (gen : Word)
  /-- SLEEP until the clk given (R164). -/
  | sleep (till : Nat)
  /-- LAUNCH waiting for a slot of queue q (R260, R261): launch record bytes, destination, scope .sys, time parked. -/
  | launch (q : Nat) (rec : List Byte) (dst : Nat) (sys : Bool) (since : Nat)
  /-- A collective's instance, not yet issued (R236). -/
  | coll (inst : Nat)
deriving DecidableEq, Repr

/-- What produces the result a window awaits (R184). -/
inductive WinKind where
  | alu | mem | coll | sync | engine | post | fence
  /-- An MACRD on engine e: its quad is not yet read (R372). -/
  | macrd (e : Nat)
  /-- An MACRD on engine e whose writes landed before a region entry, and which no MWAIT has covered (R157, R372). -/
  | landed (e : Nat)
  | remote (rid : Nat)
deriving DecidableEq, Repr

/-- A long-latency instruction of a thread that has not reached its completion point, or still has registers to write
(R184, R185): how many instructions of its window may still issue, the registers and predicates it still has to write
with their values, the FLAGS conditions and the late fault it brings (R109, R168), and what it waits for. -/
structure Window where
  id : Nat
  kind : WinKind
  left : Nat
  ready : Bool
  regs : List (Nat × Word)
  preds : List (Nat × Bool)
  flags : BitVec 6
  late : Option Trap
  canLate : Bool
  wait : Option Wait
  pc : Pc
  yh : Bool
  /-- Registers of an MACRD's quad that the thread has written since it issued (R372). -/
  dirty : List Nat := []
deriving DecidableEq, Repr

/-- An arrival record (R237, R266). -/
structure Arrival where
  pci : Pc
  rcnt : Word
  result : DWord
deriving DecidableEq, Repr

/-- The state of one thread (R47, R77, R105, R107, R237, R266). -/
structure Thread where
  pc : Pc
  rpc : Pc
  rcnt : Word
  csp : Nat
  preds : BitVec 8
  st : TState
  wait : BitVec 4
  frec : Bool
  rngctr : BitVec 40
  rngent : BitVec 40
  regs : List Word
  fpctl : Word
  flags : Word
  slot : Nat
  lane : Nat
  /-- Windows open, oldest first (R184). -/
  wins : List Window
  /-- A trap taken and not yet delivered (R167). -/
  trap : Option Trap
  /-- A region entry that waits for earlier instructions (R157). -/
  entry : Option Pc
  /-- The faulting address of a page fault the thread is parked on (R323). -/
  pfva : Option DWord
  arr : Option Arrival
  /-- The PCIs of collectives at which the thread abstained since it last executed one (R234). -/
  abst : List Pc
  barv : BitVec 16
  /-- The queue of the reservation held (R259). -/
  rsv : Option Nat
  /-- Registers and the predicate line holding poison (R409). -/
  poisoned : List Nat
  predPoison : Bool
  /-- PCI and RCNT of the convergence operation whose checks the thread has passed, while it waits for a queue entry
  (R358, R375). -/
  mchk : Option (Pc × Word)
  /-- The PC after a KICK whose request the thread has entered while its group waits for entries for other lanes (R336). -/
  kicked : Option Pc
deriving DecidableEq, Repr

/-- A launch record's fields (R253). -/
structure LaunchRec where
  kentry : Nat
  tvec : Nat
  args : Nat
  hoods : Nat
  saves : Nat
  done : Nat
  nteams : Nat
  tsize : Nat
  gw : Nat
  pair : Bool
  res : Bool
  rln : Bool
  ser : Bool
  mx : Bool
  prio : Nat
  nreg : Nat
  calld : Nat
  scratch : Nat
  priv : Nat
  clvl : Nat
  cn : Nat
  bclus : Nat
  bdie : Nat
  bpkg : Nat
  accrows : Nat
  hslots : Nat
  rlimit : Nat
  tag : DWord
deriving DecidableEq, Repr

/-- A convergence register (R373). -/
structure CReg where
  size : Word
  count : Word
  gen : Word
  done : Word
deriving DecidableEq, Repr

/-- A plane: its state and its image with side data from byte 131,072 (R354, R361, R383). -/
structure Plane where
  valid : Bool
  fmt : Nat
  ns : Bool
  sparse : Bool
deriving DecidableEq, Repr

/-- What a team holds on one matrix engine (R350 to R361, R379): counters, status, the issue-side state of the front and
shadow planes, the planes' own states and images, and the accumulator rows (bits of row r, column c at 256 r + c). -/
structure Engine where
  ent : Nat
  cmp : Nat
  mstat : BitVec 5
  front : Plane
  shadow : Plane
  frontImg : Tbl Byte
  shadowImg : Tbl Byte
  acc : Tbl Word
  poisonAcc : List Nat
  poisonFront : List Nat
  poisonShadow : List Nat
deriving DecidableEq, Repr

/-- An engine of a team at its creation (R255, R361). -/
def Engine.init : Engine :=
  { ent := 0, cmp := 0, mstat := 0, front := { valid := false, fmt := 0, ns := false, sparse := false }
    shadow := { valid := false, fmt := 0, ns := false, sparse := false }, frontImg := [], shadowImg := [], acc := []
    poisonAcc := [], poisonFront := [], poisonShadow := [] }

/-- A store held back by a team's log (R282, R415) or by a core's store queue (R280, R281). -/
structure StoreReq where
  id : Nat
  core : Nat
  team : Nat
  tid : Nat
  lane : Nat
  pc : Pc
  ctx : Nat
  va : DWord
  pa : Nat
  data : List Byte
  /-- The atomic a RED performs; none for a store. -/
  red : Option RedOp
  rel : Bool
  sc : Scope
  cls : Nat
  hint : Nat
  cmp : Bool
  /-- The retention range, by its key, that the access lay in when it issued (R298). -/
  rng : Option Nat
deriving DecidableEq, Repr

/-- A scratchpad write that no MFENCE or signature covers yet (R150, R377): its offset, the bytes before it, the threads that it happens
before, and whether a release has told of it. -/
structure Unfenced where
  off : Nat
  old : List Byte
  seen : List Nat
  told : Bool
deriving DecidableEq, Repr

/-- One team (R37, R46, R255). Its handle, the key in `State.teams`, is LID × 2^24 + TEAM. -/
structure Team where
  lid : Nat
  n : Nat
  ctx : Nat
  lr : LaunchRec
  hslot : Nat
  retry : Nat
  saved : Bool
  killed : Bool
  lcore : Nat
  resident : Bool
  /-- What the engine wrote to the save area of a team that is away (R268). -/
  image : List Byte
  /-- The core, or the lower core of the pair, and the slot bases on it and on the upper core. -/
  core : Nat
  base0 : Nat
  base1 : Nat
  k : List Word
  mreg : List (Word × Word)
  c : List CReg
  /-- The base-2 logarithm of the tile's threads (R232); a pair's two cores hold one PART between them (R173, log 10). -/
  part : Nat
  /-- Team barriers: generations 0 to 15 (R247). -/
  tbg : List Word
  scratch : Tbl Byte
  poisonScratch : List Nat
  /-- Writes of the scratchpad that no MFENCE or signature covers yet (R150, R377; log 20). -/
  unfenced : List Unfenced
  bins : List Word
  hold : List Word
  hvalid : BitVec 16
  eng : List Engine
  /-- The relaunch window is open (R59). -/
  window : Bool
  /-- The store log, oldest first (R282, R415). -/
  log : List StoreReq
  /-- Bytes of its hood, by offset, that system software wrote while the team was resident and the team has not written since (R48). -/
  upset : List Nat
deriving DecidableEq, Repr

/-! ### Cores -/

/-- A group: threads of one team with one program counter, as (lane, TID) in lane order (R37, R178). -/
structure Group where
  team : Nat
  lanes : List (Nat × Nat)
  width : Nat
  stray : Bool
  since : Nat
  stall : Option Nat
  notBefore : Nat
  /-- The clk in which it was drawn (R180); the parts of a diverged group keep it. -/
  drawn : Nat
  /-- Registers of operand A of an instruction with the reuse hint that nothing has written since (R188). -/
  latch : List Nat
  /-- Register-cache lines (block, register) the group waits for (R187). -/
  awaits : List (Nat × Nat)
deriving DecidableEq, Repr

/-- A member of a batt: TID, clk of filing, clk before which it is not eligible (R163). -/
structure Member where
  team : Nat
  tid : Nat
  filed : Nat
  hold : Nat
deriving DecidableEq, Repr

/-- A batt: its key's program counter and its members in filing order (R176). -/
structure Batt where
  team : Nat
  pc : Pc
  members : List Member
deriving DecidableEq, Repr

/-- One operation of a collective (R241 to R244). -/
inductive CollOp where
  | vote (op : VoteOp) (neg : Bool)
  | pick (mode : PickMode) (delta : Nat)
  | tred (op : RedKind) (ty : RedTy)
  | tscan (op : RedKind) (ty : RedTy) (exc : Bool)
  | matchEq (w64 : Bool)
deriving DecidableEq, Repr

/-- A member that arrived at an instance: TID, its values of A (pair: low and high), its predicate, its window, its
destination. -/
structure CollMember where
  tid : Nat
  a : DWord
  p : Bool
  win : Nat
  dst : Nat
deriving DecidableEq, Repr

/-- A collective instance (R233). -/
structure Coll where
  id : Nat
  team : Nat
  size : Nat
  tile : Nat
  pci : Pc
  mask : DWord
  op : CollOp
  members : List CollMember
  /-- TIDs of named members that abstained: they count as exited here (R234). -/
  gone : List Nat
deriving DecidableEq, Repr

/-- A request block's fields (R330). -/
structure Blk where
  kind : Nat
  scope : Nat
  ssp : Nat
  dsp : Nat
  lbin : Bool
  slv : Bool
  dlv : Bool
  len : Nat
  nrow : Nat
  idx : Nat
  src : Nat
  dst : Nat
  sstr : Nat
  dstr : Nat
  dlid : Nat
  dteam : Nat
  dpkg : Nat
  sland : Nat
  dland : Nat
  rtag : Word
deriving DecidableEq, Repr

/-- A chunk of a request (R332, R345): its row, its number within the row, its bytes, which the retry store holds until the
chunk is acknowledged, the read replies still awaited, and which of its effects have happened. -/
structure Chunk where
  row : Nat
  n : Nat
  data : List Byte
  awaits : Nat
  /-- Its write message is on its way (R403). -/
  sent : Bool
  written : Bool
  landed : Bool
  acked : Bool
deriving DecidableEq, Repr

/-- A copy request (R330, R336, R344). -/
structure CopyReq where
  id : Nat
  team : Nat
  tid : Nat
  ctx : Nat
  pc : Pc
  raw : List Byte
  blk : Blk
  accepted : Nat
  started : Bool
  chunks : List Chunk
  /-- The index entries of the rows started (R331). -/
  idxs : Tbl Nat
  /-- The row suspended on a page fault and its faulting page (R344). -/
  suspended : Option (Nat × Nat)
deriving DecidableEq, Repr

/-- Matrix operations with the operand values they took (R357, R365 to R372). -/
inductive MKind where
  | mldw (fmt : MFmt) (ns : Bool) (side img stride : Nat)
  | mldws (e5m2 : Bool) (side img stride : Nat)
  | mswap
  | mma (pl : Plane) (fmt : MFmt) (ns z : Bool) (row0 m a stride sc : Nat)
  | mgmm (pl : Plane) (fmt : MFmt) (ns : Bool) (g q n a stride sc : Nat)
  | mclr (row0 m : Nat)
  | macld (acc : Bool) (row0 m a stride : Nat)
  | macst (ofmt : OFmt) (sx sat clr : Bool) (rm : StRm) (row0 m a stride vec : Nat)
  | macrd (lanes : List (Nat × Nat × Nat × Nat × Nat))
  | mrow (op : RowOp) (acc : Bool) (row0 m a : Nat)
deriving DecidableEq, Repr

/-- An operation of a core's matrix queue (R360). -/
structure MOp where
  id : Nat
  team : Nat
  e : Nat
  kind : MKind
  owner : Option Nat
  /-- The convergence register and generation it belongs to (R375). -/
  conv : Option (Nat × Word)
  entered : Nat
  started : Bool
  /-- Writes not covered by a fence when it entered, as offset and bytes before: it may read those (R377). -/
  stale : List (Nat × List Byte)
  /-- Writes that have met the scratchpad bytes it reads since, so that its destination rows are unspecified (R151). -/
  spoiled : List (Nat × List Byte)
  pc : Pc
deriving DecidableEq, Repr

/-- Cache-line states (R310); `ro` and `si` for the classes without a directory (R309). -/
inductive LineState where
  | s | e | m | o | si | ro
deriving DecidableEq, Repr

/-- A line of a cache (R293, R303, R316): number (physical address / 128), state, owner context (R40) and whether the tag
is valid (R410), hint, the key of the range that retains it, the mask of dirty bytes, whether its page allows compression and whether it
is compressed, the bytes of an SI line, clk of filling, way. Lines stand in order of last use, most recent first. -/
structure Line where
  ln : Nat
  st : LineState
  ctx : Nat
  tagv : Bool
  hint : Nat
  retained : Option Nat
  dirty : Nat
  cmp : Bool
  comp : Bool
  data : List Byte
  filled : Nat
  way : Nat
  poison : Bool
deriving DecidableEq, Repr

/-- A cache: its lines, whether it sleeps (R316), and its ways' error counts and quarantined ways (R424). -/
structure Cache where
  lines : List Line
  asleep : Bool
  wayErrs : Tbl Nat
  badWays : List Nat
  windowStart : Nat
deriving DecidableEq, Repr

/-- A translation (R305, R318, R320, R321). -/
structure Xlat where
  ctx : Nat
  vpn : Nat
  log2 : Nat
  pa : Nat
  cls : Nat
  w : Bool
  xp : Bool
  cmp : Bool
  hint : Nat
  rlog : Bool
  mism : Bool
deriving DecidableEq, Repr

/-- One core (R153). -/
structure Core where
  /-- CLOCK less the package time: the clk that replays have added, less the clk of the core's reset (R78, R190). -/
  clock : DWord
  wlen : Nat
  quar : Bool
  cur : Nat
  en : Bool
  target : Nat
  serr : Nat
  esc : Nat
  cnt : Nat
  relax : Nat
  limit : Nat
  winStart : Nat
  cleanWins : Nat
  serrWin : Nat
  parkTh : Nat
  ageLimit : Nat
  /-- Batts 0 to 63, by number; one not listed is empty. -/
  batts : Tbl Batt
  /-- The active set, slots 0 to 7. -/
  active : Tbl Group
  /-- The pending set, oldest draw first. -/
  pending : List Group
  rr : Nat
  overdueSince : Option Nat
  colls : List Coll
  storeq : List StoreReq
  tlb : List Xlat
  l1 : Cache
  copyq : List CopyReq
  matq : List MOp
  /-- Physical array rows disabled in service, mismatches per physical row in the window, and the disabled rows that the
  logical map in force leaves out (R351, R425). -/
  badRows : List Nat
  rowErrs : Tbl Nat
  rowWin : Nat
  rowMap : List Nat
  /-- A quarantined core whose teams are being drained, and the drained teams that stand on no other core yet (R196). -/
  draining : Bool
  leftBehind : List Nat
deriving DecidableEq, Repr

/-! ### Directories, dies and crowns -/

/-- Entry states of a directory (R310). -/
inductive DirState where
  | i | s | x | o
deriving DecidableEq, Repr

/-- A directory entry (R308, R310): base address and log2 of its size, state, holders, the owner under O, BUSY with the
acknowledgements awaited, queued requests, last request's clk, poisoned-pending (R426). -/
structure DirEntry where
  base : Nat
  log2 : Nat
  st : DirState
  holders : List Holder
  owner : Option Holder
  busy : List Holder
  queue : List (Nat × Holder × Bool)
  last : Nat
  poisonPend : Bool
deriving DecidableEq, Repr

/-- A retention range of a context on a die (R297, R299). -/
structure Retain where
  base : Nat
  len : Nat
  v : Bool
  fill : Nat
  ovf : Nat
  hit : Nat
deriving DecidableEq, Repr

/-- Die states of R442. -/
structure AtDie where
  st : Nat
  why : Nat
  nrst : Nat
deriving DecidableEq, Repr

/-- One C-die, crown or brim (dies 0 to 13, R16): L2 or crown cache, translations, directories, retention ranges, log
base (R416), monitors (R430), and what the containment engine holds of it. -/
structure Die where
  cache : Cache
  tlb : List Xlat
  /-- Export bits set, by 64 KiB region of the stack (R309). -/
  export_ : List Nat
  retain : Tbl Retain
  logBase : Nat
  logEn : Bool
  monproc : Nat
  monvmin : Nat
  montemp : Nat
  tcrit : Nat
  twarn : Nat
  lost : Bool
  throttled : Bool
  /-- Its stack has been zeroed, or its steps of start-up are done (R429, R449). -/
  zeroed : Bool
  /-- A lost crown whose directory half waits for its census, since the clk given (R428). -/
  census : Option Nat
  attested : AtDie
  /-- A brim's far memory is trained (R447 FAR). -/
  farOk : Bool
  /-- Clk since which TEMP has exceeded TCRIT (R431). -/
  critSince : Option Nat
deriving DecidableEq, Repr

/-- A crown's page-walk-cache entry (R321): context, level, virtual prefix, next table. -/
structure WalkEntry where
  crown : Nat
  ctx : Nat
  level : Nat
  idx : Nat
  next : Nat
deriving DecidableEq, Repr

/-! ### Contexts, edge queues and launches -/

/-- Context states (R41). -/
inductive CtxState where
  | free | active | switchedOut | faulted
deriving DecidableEq, Repr

/-- A context (R40, R257) and its time slices on cores (R60, R63). -/
structure Ctx where
  st : CtxState
  prio : Nat
  priv : Bool
  slice : Nat
  rngkey : Word
  ptroot : Nat
  tdm : BitVec 14
  sliceStart : Tbl Nat
  /-- Cores the context is switched out of (R60). -/
  outCores : List Nat
  /-- Threads of the context that were parked on a core when its teams last came there (R60; log 36). -/
  cameParked : Tbl Nat
  /-- Queues of the reservations that its threads held when it faulted; its destruction releases them (R259, R414). -/
  rsvs : List Nat
deriving DecidableEq, Repr

/-- A record accepted by a queue and not yet copied (R260 to R263): who posted it (a thread as team and TID, or the host), its bytes,
whether .sys, the clk of its slot, and, for a resident launch, the claim found when it was posted. -/
structure Post where
  poster : Option (Nat × Nat)
  raw : List Byte
  sys : Bool
  at_ : Nat
  claim : List (Nat × Nat × Nat × Nat)
  insts : List Nat
  /-- Memory when it was posted: what its threads' fetches read (R97). -/
  code : List Host.Cell
deriving DecidableEq, Repr

/-- An edge queue's descriptor (R256), its ring slots' launches, reservations of threads and of host ports. -/
structure Queue where
  size : Nat
  xpost : Bool
  ctx : Nat
  en : Bool
  base : Nat
  err : Nat
  slots : Tbl Nat
  rsvs : Nat
  hostRsv : List Nat
  /-- The records of threads parked on the queue, in order (R261). -/
  parked : List Post
  /-- Records granted a slot, waiting to be copied. -/
  posts : List Post
deriving DecidableEq, Repr

/-- A cohort barrier: generation and the threads arrived in the open phase (R247). -/
structure CBar where
  gen : Word
  arr : List (Nat × Nat)
deriving DecidableEq, Repr

/-- A placed cohort: the instance it stands in, its barriers, its teams removed from them (R44, R250). -/
structure Cohort where
  inst : Nat
  bars : List CBar
  gone : List Nat
deriving DecidableEq, Repr

/-- A launch posted and not retired. -/
structure Launch where
  lr : LaunchRec
  /-- The record's 128 bytes as the engine last read them from the ring (R260). -/
  raw : List Byte
  q : Nat
  slot : Nat
  ctx : Nat
  posted : Nat
  started : Bool
  next : Nat
  /-- Hood slots held: slot and team number (R254). -/
  slots : Tbl Nat
  retired : List Nat
  cohorts : Tbl Cohort
  /-- A resident launch's claim: for each team number its core and slot bases (R262). -/
  claim : List (Nat × Nat × Nat × Nat)
  /-- The instances that the claim gives its cohorts (R262). -/
  claimInst : List Nat
  /-- The status with which the launch ends, and whether its completion word is on its way (R269). -/
  ended : Option Nat
  worded : Bool
  /-- Memory when it was posted: what its threads' fetches read (R97; log 18). -/
  code : List Host.Cell
deriving DecidableEq, Repr

/-! ### Links -/

/-- A key slot of one direction: key and salt (R391, R438). -/
structure KeySlot where
  key : BitVec 256
  salt : BitVec 32
deriving DecidableEq, Repr

/-- A flit kept by a transmitter until it is acknowledged (R20, R389): sequence number, TYPE, KI and payload as sent. -/
structure Flit where
  seq : Nat
  type : Nat
  ki : Nat
  payload : List Byte
deriving DecidableEq, Repr

/-- One direction of a link (R19, R20, R387 to R392, R438). The transmitter: next SEQ, EPOCH, slot in use, key slots, flits
kept, open plaintext and the clk it was opened, ACK last received and its clk, the SEQ that the last NAK named with its
consecutive failed replays, a replay asked for, and the flits put on the link, oldest first (an output). The receiver: next
expected SEQ, EPOCH, slot in use, key slots, the flits of the group being received, whether it discards until a replay, and
the bytes passed on. Of both: the last installation, and a rollover in progress. -/
structure Chan where
  txSeq : Nat
  txEpoch : Nat
  txKi : Nat
  txKeys : List (Option KeySlot)
  kept : List Flit
  open_ : List Byte
  openSince : Nat
  lastAck : Nat
  ackClk : Nat
  nakAt : Option Nat
  fails : Nat
  replay : Option Nat
  wire : List (List Byte)
  rxSeq : Nat
  rxEpoch : Nat
  rxKi : Nat
  rxKeys : List (Option KeySlot)
  group : List Flit
  discard : Bool
  delivered : List Byte
  /-- A rollover in progress: the slot installed at the receiver, its key, and the clk (R391, R440). -/
  roll : Option (Nat × KeySlot × Nat)
  lastKey : Nat
  /-- Rollovers started on the link (R438). -/
  nroll : Nat
  /-- The session that a port's keys come from (R438). -/
  session : Nat
deriving DecidableEq, Repr

/-- A die link (R17): its two directions and whether it has failed (R20). -/
structure DieLink where
  dirs : List Chan
  failed : Bool
deriving DecidableEq, Repr

/-- States of a Kalsy port (R390). -/
inductive PortState where
  | off | training | attest | up | failed
deriving DecidableEq, Repr

/-- A Kalsy port (R390, R406): the direction to and from the partner in one record, state, counters and messages received
in part. -/
structure Port where
  en : Bool
  st : PortState
  peer : Nat
  ch : Chan
  corr : Nat
  drop : Nat
  rpl : Nat
  auth : Nat
  since : Nat
  /-- Messages sent on the port, oldest first (an output). -/
  sent : List Msg
  /-- Messages whose units have arrived whole, oldest first, waiting for their row. -/
  inbox : List Msg
deriving DecidableEq, Repr

/-- What an outstanding request of this package does with its reply (R400, R401, R403). -/
inductive ReqWhat where
  /-- Lanes that read: TID, offset of its bytes in the data, their number, destination register. -/
  | load (team win : Nat) (lanes : List (Nat × Nat × Nat × Nat)) (acq : Bool)
  /-- A WAITW's read of its word (R291). -/
  | watch (team tid win : Nat)
  | store (rs : List StoreReq)
  | rmw (team tid win : Nat) (dst : Nat) (w64 : Bool) (acq : Bool)
  | red (r : StoreReq)
  | chunkRead (core req row n off : Nat)
  | chunkWrite (core req row n : Nat)
  | landing
  /-- Half of a launch's completion word (R269). -/
  | done (lid : Nat)
  /-- The launch record that a LAUNCH reads (R260): window, destination, words of the instruction, queue, .sys, .res. -/
  | record (team tid win dst len q : Nat) (sys res : Bool)
deriving DecidableEq, Repr

/-- A request this package keeps until it is answered (R400): its message, the port it was sent on, its purpose, and, while it
waits for a port, the clk until which it does (R394); with neither it waits for an earlier request to its line. -/
structure RemReq where
  rid : Nat
  msg : Msg
  port : Option Nat
  what : ReqWhat
  team : Nat
  tid : Nat
  ctx : Nat
  waitTill : Option Nat
deriving DecidableEq, Repr

/-- A performed request of another package, kept until its response acknowledgement (R400). -/
structure DoneReq where
  spkg : Nat
  rid : Nat
  reply : Msg
deriving DecidableEq, Repr

/-- A delivery held at the crown for a team that is not resident (R348): the team, the message, and the chunk of this package
that it carries, as core, request, row and number. -/
structure Held where
  team : Nat
  msg : Msg
  chunk : Option (Nat × Nat × Nat × Nat)
deriving DecidableEq, Repr

/-- A message that waits for a port of its route (R394, R395): the port it came in on, the message as it is to go on, the clk until
which it waits. -/
structure Transit where
  via : Nat
  msg : Msg
  till : Nat
deriving DecidableEq, Repr

/-- An import window (R398). -/
structure ImpWin where
  base : Nat
  last : Nat
  ctl : DWord
deriving DecidableEq, Repr

/-- A route entry (R405). -/
structure Route where
  ports : DWord
  v : Bool
deriving DecidableEq, Repr

/-! ### Registers of the crowns, the root and the host interface -/

/-- The translation engine's registers on crown[0], kept identical on crown[1] (R325, R429). -/
structure XRegs where
  cmdaddr : DWord
  cmdctl : DWord
  cmderr : Bool
  fctBase : Nat
  fctEn : Bool
  pfqBase : Nat
  pfqSize : Nat
  pfqHead : Nat
  pfqTail : Nat
  quiet : Nat
  merge : Bool
deriving DecidableEq, Repr

/-- A range command in progress (R325): OP, context, first page or frame, count, whether it names the whole context, clk. -/
structure Cmd where
  op : Nat
  ctx : Nat
  first : Nat
  count : Nat
  all : Bool
  since : Nat
  /-- Its effects have happened; it waits to complete (R326). -/
  ran : Bool
deriving DecidableEq, Repr

/-- A page-fault record (R323), as its 256 bits. -/
abbrev PfRec := BitVec 256

/-- An event record (R417): its 1024 bits. -/
abbrev EvRec := BitVec 1024

/-- The containment engine's registers on crown[0], kept identical on crown[1] (R420). -/
structure CnRegs where
  evBase : Nat
  evSize : Nat
  evHead : Nat
  evTail : Nat
  lost : Nat
  fceth : Nat
  rowth : Nat
  wayth : Nat
  fetBase : Nat
  fetEn : Bool
  spares : List Nat
  /-- Spares that a context mapped when they were pushed (R422). -/
  mapped : List Nat
deriving DecidableEq, Repr

/-- The state of a frame (R306, R422): retired, migrating, remapped to a spare. -/
structure FrameSt where
  ret : Bool
  mig : Bool
  spare : Option Nat
  cause : Nat
deriving DecidableEq, Repr

/-- A CXL.mem access of the host: a read of bytes, or a write (R315). -/
structure HostAcc where
  pa : Nat
  size : Nat
  data : Option (List Byte)
deriving DecidableEq, Repr

/-- A host port (R445, R447, R448): HIERR, the posting-window buffers, the vectors raised, the replies sent, and the accesses that wait at
the crown directory, in order (R152, R315; log 87). -/
structure HPort where
  hierrV : Bool
  hierrCause : Nat
  hierrOff : Nat
  bufs : Tbl (List Byte)
  raised : List Nat
  replies : List (List Byte)
  waits : List HostAcc
deriving DecidableEq, Repr

/-- What happens next: a row of the opcode table with its operands, or the passing of time (log 1). -/
inductive Happening where
  | row (i : Instr) (e : Ev)
  | pass (n : Nat)
deriving DecidableEq, Repr

/-! ### The package -/

/-- The state of one package. -/
structure State where
  /-- Package time in clk since reset (R417). -/
  clk : Nat
  /-- The package id (R405 KLCTL.PKGID) and HOPMAX. -/
  pkgid : Nat
  hopmax : Nat
  threads : Tbl Thread
  teams : Tbl Team
  cores : Tbl Core
  dies : Tbl Die
  dirs : List (DirRef × DirEntry)
  walkc : List WalkEntry
  ctxs : Tbl Ctx
  queues : Tbl Queue
  launches : Tbl Launch
  nextLid : Word
  /-- Round-robin pointer of each context's queues (R264). -/
  rrq : Tbl Nat
  xregs : XRegs
  cmd : Option Cmd
  pfWait : List PfRec
  cn : CnRegs
  fslots : Tbl EvRec
  bfl : List (BitVec 128)
  frames : Tbl FrameSt
  links : Tbl DieLink
  ports : Tbl Port
  routes : Tbl Route
  iwins : Tbl ImpWin
  reqs : List RemReq
  nextRid : Nat
  doneReqs : List DoneReq
  /-- Messages of and for other packages that wait for a port (R394, R395). -/
  transit : List Transit
  /-- Deliveries held at the crown for a team that is not resident (R348). -/
  held : List Held
  keyint : Nat
  anchok : Bool
  keysDrawn : Nat
  hports : Tbl HPort
  ready : Bool
  pwrLimit : Nat
  power : Nat
  thr : Bool
  thrDeep : Bool
  /-- The clk since which POWER has exceeded LIMIT (R453). -/
  thrSince : Nat
  /-- Replies to the management controller and to DOE (R442, R452). -/
  mctp : List (List Byte)
  doe : List (List Byte)
  /-- Bytes of physical memory that are not zero, addresses rising (R32, R12). -/
  mem : List Host.Cell
  /-- Poisoned 128-byte lines at their homes (R409). -/
  poison : List Nat
  /-- The model's own: what happens next, the groups selected in this clk, the group executing, the operands of the
  executing row, free values drawn, identifiers given. -/
  agenda : List Happening
  issueQ : List (Nat × Nat)
  cur : Option (Nat × Nat)
  ev : Ev
  fresh : Nat
  nextId : Nat
deriving DecidableEq, Repr

/-! ### Reset -/

/-- A cache at reset: empty and awake. -/
def Cache.init : Cache := { lines := [], asleep := false, wayErrs := [], badWays := [], windowStart := 0 }

/-- Core c at reset (R191 to R193, R174, R175). -/
def Core.init (c : Nat) : Core :=
  { clock := 0, wlen := 0, quar := false, cur := 0, en := true, target := (Config.harvestStep c).toNat, serr := 0
    esc := 0, cnt := 0, relax := 16, limit := 64, winStart := 0, cleanWins := 0, serrWin := 0, parkTh := 32
    ageLimit := 512, batts := [], active := [], pending := [], rr := 0, overdueSince := none, colls := [], storeq := []
    tlb := [], l1 := Cache.init, copyq := [], matq := [], badRows := [], rowErrs := [], rowWin := 0, rowMap := []
    draining := false, leftBehind := [] }

/-- A die at reset (R430, R442, R447). -/
def Die.init : Die :=
  { cache := Cache.init, tlb := [], export_ := [], retain := [], logBase := 0, logEn := false, monproc := 0, monvmin := 0
    montemp := 0, tcrit := 110, twarn := 95, lost := false, throttled := false, zeroed := false, census := none
    attested := { st := 0, why := 0, nrst := 0 }, farOk := false, critSince := none }

/-- A context's descriptor at reset (R257). -/
def Ctx.init : Ctx :=
  { st := .free, prio := 0, priv := false, slice := 256, rngkey := 0, ptroot := 0, tdm := 0, sliceStart := [], outCores := []
    cameParked := [], rsvs := [] }

/-- An edge queue's descriptor at reset (R256). -/
def Queue.init : Queue :=
  { size := 0, xpost := false, ctx := 0, en := false, base := 0, err := 0, slots := [], rsvs := 0, hostRsv := []
    parked := [], posts := [] }

/-- A channel before its first key (R19, R388, R438). -/
def Chan.init : Chan :=
  { txSeq := 0, txEpoch := 0, txKi := 0, txKeys := [none, none], kept := [], open_ := [], openSince := 0, lastAck := 0
    ackClk := 0, nakAt := none, fails := 0, replay := none, wire := [], rxSeq := 0, rxEpoch := 0, rxKi := 0
    rxKeys := [none, none], group := [], discard := false, delivered := [], roll := none, lastKey := 0, nroll := 0, session := 0 }

/-- A die link at reset. -/
def DieLink.init : DieLink := { dirs := [Chan.init, Chan.init], failed := false }

/-- A Kalsy port at reset (R406). -/
def Port.init : Port :=
  { en := false, st := .off, peer := 0, ch := Chan.init, corr := 0, drop := 0, rpl := 0, auth := 0, since := 0
    sent := [], inbox := [] }

/-- A route entry at reset (R405). -/
def Route.init : Route := { ports := 0, v := false }

/-- An import window at reset (R398). -/
def ImpWin.init : ImpWin := { base := 0, last := 0, ctl := 0 }

/-- A retention range's registers at reset (R299). -/
def Retain.init : Retain := { base := 0, len := 0, v := false, fill := 0, ovf := 0, hit := 0 }

/-- A frame that is neither retired nor migrating. -/
def FrameSt.init : FrameSt := { ret := false, mig := false, spare := none, cause := 0 }

/-- A host port at reset (R447, R448). -/
def HPort.init : HPort := { hierrV := false, hierrCause := 0, hierrOff := 0, bufs := [], raised := [], replies := [], waits := [] }

/-- The translation engine's registers at reset (R325). -/
def XRegs.init : XRegs :=
  { cmdaddr := 0, cmdctl := 0, cmderr := false, fctBase := 0, fctEn := false, pfqBase := 0, pfqSize := 0, pfqHead := 0
    pfqTail := 0, quiet := 64, merge := true }

/-- The containment engine's registers at reset (R420). -/
def CnRegs.init : CnRegs :=
  { evBase := 0, evSize := 0, evHead := 0, evTail := 0, lost := 0, fceth := 64, rowth := 3, wayth := 16, fetBase := 0
    fetEn := false, spares := [], mapped := [] }

/-- A package right after its reset. Tables list only what differs from the entry's own reset value: no core, die, queue,
context or port is listed. -/
def State.reset : State :=
  { clk := 0, pkgid := 0, hopmax := 2, threads := [], teams := [], cores := [], dies := [], dirs := [], walkc := []
    ctxs := [], queues := [], launches := [], nextLid := 0, rrq := [], xregs := XRegs.init, cmd := none
    pfWait := [], cn := CnRegs.init, fslots := [], bfl := [], frames := [], links := [], ports := [], routes := []
    iwins := [], reqs := [], nextRid := 0, doneReqs := [], transit := [], held := [], keyint := 36, anchok := false, keysDrawn := 0
    hports := [], ready := false, pwrLimit := 4200, power := 0, thr := false, thrDeep := false, thrSince := 0, mctp := [], doe := []
    mem := [], poison := [], agenda := [], issueQ := [], cur := none, ev := {}, fresh := 0, nextId := 0 }

end Sys2Proof.Machine
end

