-- ==== Sys2Proof/Machine/Base.lean ====
section
/-! DEFINITION. Accessors of the state's tables, sparse stores in canonical form, physical memory, and the numbering of
places (00 R7, R8; 01 R16, R32, R33). -/

namespace Sys2Proof.Machine

/-! ### Tables of the state -/

/-- The key of a thread: its team's handle and its TID. -/
def tkey (team tid : Nat) : Nat := team * 4096 + tid

/-- The handle of a team: launch id and team number. -/
def tHandle (lid n : Nat) : Nat := lid * 2 ^ 24 + n

def State.core (s : State) (c : Nat) : Core := s.cores.get c (Core.init c)
def State.setCore (s : State) (c : Nat) (k : Core) : State := { s with cores := s.cores.put c k }
def State.modCore (s : State) (c : Nat) (f : Core → Core) : State := s.setCore c (f (s.core c))

/-- CLOCK of a core (R78). -/
def State.clockOf (s : State) (c : Nat) : DWord := (s.core c).clock + BitVec.ofNat 64 s.clk

def State.die (s : State) (d : Nat) : Die := s.dies.get d Die.init
def State.setDie (s : State) (d : Nat) (x : Die) : State := { s with dies := s.dies.put d x }
def State.modDie (s : State) (d : Nat) (f : Die → Die) : State := s.setDie d (f (s.die d))

def State.ctx (s : State) (c : Nat) : Ctx := s.ctxs.get c Ctx.init
def State.setCtx (s : State) (c : Nat) (x : Ctx) : State := { s with ctxs := s.ctxs.put c x }
def State.modCtx (s : State) (c : Nat) (f : Ctx → Ctx) : State := s.setCtx c (f (s.ctx c))

def State.queue (s : State) (q : Nat) : Queue := s.queues.get q Queue.init
def State.setQueue (s : State) (q : Nat) (x : Queue) : State := { s with queues := s.queues.put q x }
def State.modQueue (s : State) (q : Nat) (f : Queue → Queue) : State := s.setQueue q (f (s.queue q))

def State.port (s : State) (p : Nat) : Port := s.ports.get p Port.init
def State.setPort (s : State) (p : Nat) (x : Port) : State := { s with ports := s.ports.put p x }
def State.modPort (s : State) (p : Nat) (f : Port → Port) : State := s.setPort p (f (s.port p))

def State.hport (s : State) (p : Nat) : HPort := s.hports.get p HPort.init
def State.modHPort (s : State) (p : Nat) (f : HPort → HPort) : State := { s with hports := s.hports.put p (f (s.hport p)) }

def State.link (s : State) (n : Nat) : DieLink := s.links.get n DieLink.init
def State.setLink (s : State) (n : Nat) (x : DieLink) : State := { s with links := s.links.put n x }

def State.frame (s : State) (f : Nat) : FrameSt := s.frames.get f FrameSt.init
def State.modFrame (s : State) (f : Nat) (g : FrameSt → FrameSt) : State := { s with frames := s.frames.put f (g (s.frame f)) }

def State.thread? (s : State) (team tid : Nat) : Option Thread := s.threads.find (tkey team tid)

/-- The state with thread `tid` of `team` changed by `f`, where there is such a thread. -/
def State.modThread (s : State) (team tid : Nat) (f : Thread → Thread) : State :=
  match s.threads.find (tkey team tid) with
  | some t => { s with threads := s.threads.put (tkey team tid) (f t) }
  | none => s

def State.team? (s : State) (team : Nat) : Option Team := s.teams.find team

/-- The state with team `team` changed by `f`, where there is such a team. -/
def State.modTeam (s : State) (team : Nat) (f : Team → Team) : State :=
  match s.teams.find team with
  | some t => { s with teams := s.teams.put team (f t) }
  | none => s

def State.launch? (s : State) (lid : Nat) : Option Launch := s.launches.find lid

def State.modLaunch (s : State) (lid : Nat) (f : Launch → Launch) : State :=
  match s.launches.find lid with
  | some l => { s with launches := s.launches.put lid (f l) }
  | none => s

/-- The TIDs of a team's threads, rising. -/
def State.tidsOf (s : State) (team : Nat) : List Nat :=
  match s.team? team with
  | some t => upTo t.lr.tsize
  | none => []

/-- The threads of a team, with their TIDs. -/
def State.threadsOf (s : State) (team : Nat) : List (Nat × Thread) :=
  (s.tidsOf team).filterMap fun i => (s.thread? team i).map fun t => (i, t)

/-- The state with every thread of a team changed by `f` of its TID. -/
def State.modThreads (s : State) (team : Nat) (f : Nat → Thread → Thread) : State :=
  { s with threads := s.threads.mapKV fun k t => if k / 4096 = team then f (k % 4096) t else t }

/-- The next value the spec leaves unspecified (log 5): 64 bits, and the counter advanced. -/
def State.free (s : State) : DWord × State := (Config.freeWord s.fresh, { s with fresh := s.fresh + 1 })

/-- The next identifier of the model's own. -/
def State.takeId (s : State) : Nat × State := (s.nextId, { s with nextId := s.nextId + 1 })

/-- Happenings put before the next passing of time of an agenda. -/
def beforePass (new : List Happening) : List Happening → List Happening
  | [] => new
  | .row i e :: r => .row i e :: beforePass new r
  | .pass n :: r => new ++ .pass n :: r

/-- Happenings that follow in this clk (log 1). -/
def State.soon (s : State) (l : List Happening) : State := { s with agenda := beforePass l s.agenda }

/-- n unspecified bytes (log 5). -/
def State.freeBytes (s : State) (n : Nat) : List Byte × State :=
  ((upTo n).map fun i => (Config.freeWord (s.fresh + i)).setWidth 8, { s with fresh := s.fresh + n })

/-- Bytes read where the engine wrote `a`: one that another agent has changed is unspecified (R6; log 5). -/
def State.changed (s : State) (a b : List Byte) : List Byte × State :=
  if a = b then (b, s)
  else
    let (f, s) := s.freeBytes b.length
    ((b.zip f).mapIdx fun i x => if a[i]? = some x.1 then x.1 else x.2, s)

/-! ### Sparse stores: numbers to words, zero where nothing is listed, in canonical form -/

/-- The word at `k`. -/
def spGet {w : Nat} : List (Nat × BitVec w) → Nat → BitVec w
  | [], _ => 0
  | (j, x) :: r, k => if k < j then 0 else if j = k then x else spGet r k

/-- The store with `x` at `k`; a zero is not listed. -/
def spPut {w : Nat} : List (Nat × BitVec w) → Nat → BitVec w → List (Nat × BitVec w)
  | [], k, x => if x = 0 then [] else [(k, x)]
  | (j, y) :: r, k, x =>
    if k < j then (if x = 0 then (j, y) :: r else (k, x) :: (j, y) :: r)
    else if j = k then (if x = 0 then r else (k, x) :: r)
    else (j, y) :: spPut r k x

/-- The store with nothing listed from `lo` to `lo + n − 1`. -/
def spClear {w : Nat} (t : List (Nat × BitVec w)) (lo n : Nat) : List (Nat × BitVec w) :=
  t.filter fun e => e.1 < lo || lo + n ≤ e.1

/-- Consecutive words from `k`. -/
def spGetN {w : Nat} (t : List (Nat × BitVec w)) (k n : Nat) : List (BitVec w) := (upTo n).map fun i => spGet t (k + i)

/-- The store with consecutive words from `k`. -/
def spPutN {w : Nat} : List (Nat × BitVec w) → Nat → List (BitVec w) → List (Nat × BitVec w)
  | t, _, [] => t
  | t, k, x :: r => spPutN (spPut t k x) (k + 1) r

/-- Every key is above `lo` and rises, and no zero is listed. -/
def spWfFrom {w : Nat} : Nat → List (Nat × BitVec w) → Bool
  | _, [] => true
  | lo, (j, x) :: r => decide (lo ≤ j) && x != 0 && spWfFrom (j + 1) r

/-- The canonical form of a sparse store. -/
def spWf {w : Nat} (t : List (Nat × BitVec w)) : Bool := spWfFrom 0 t

/-- The canonical form of physical memory: addresses strictly rising, no byte listed that an unlisted address reads as. -/
def Memory.wf (m : List Host.Cell) : Bool := spWf m

/-! ### Places (R7, R8, R16) -/

/-- The C-die of a core. -/
def dieOf (core : Nat) : Nat := core / 16
/-- The cluster of a core. -/
def clusOf (core : Nat) : Nat := core / 4
/-- The interposer of a die. -/
def ipoOfDie (d : Nat) : Nat :=
  if d < 8 then d / 4 else if d < 10 then d - 8 else (d - 10) / 2
/-- The crown, as a die number, of a die's interposer. -/
def crownOf (d : Nat) : Nat := 8 + ipoOfDie d
/-- The brim, as a die number, of a Kalsy port. -/
def brimOfPort (p : Nat) : Nat := 10 + p / 16

/-- What lies at a local physical address (R32). -/
inductive Region where
  | near | far | host (brim : Nat) | device | none
deriving DecidableEq, Repr

/-- The region of a local physical address (R32). -/
def regionOf (pa : Nat) : Region :=
  if pa < 0x06000000000 then .near
  else if pa < 0x20000000000 then .none
  else if pa < 0x40000000000 then .far
  else if pa < 0x50000000000 then .host 10
  else if pa < 0x60000000000 then .host 12
  else if pa < 0x7F000000000 then .none
  else if pa < 0x80000000000 then .device
  else .none

/-- Near or far memory. -/
def isDram (pa : Nat) : Bool :=
  match regionOf pa with
  | .near => true
  | .far => true
  | .host _ => false
  | .device => false
  | .none => false

/-- The crown half that homes a far or host line (R32). -/
def crownHalf (pa : Nat) : Nat := (b2n (bitOf pa 12) + b2n (bitOf pa 20) + b2n (bitOf pa 28)) % 2

/-- The brim that serves a far address (R32). -/
def brimOfFar (pa : Nat) : Nat := 10 + bits pa 17 16

/-- The dies an access homed at a local physical address reaches (R30, R32): home and controller. -/
def homeDies (pa : Nat) : List Nat :=
  match regionOf pa with
  | .near => [pa / 0x0C00000000]
  | .far => [8 + crownHalf pa, brimOfFar pa]
  | .host b => [8 + crownHalf pa, b]
  | .device => []
  | .none => []

/-- The package id of a global physical address (R33). -/
def pkgOf (gpa : Nat) : Nat := gpa / 2 ^ 43
/-- The local part of a global physical address (R33). -/
def localOf (gpa : Nat) : Nat := gpa % 2 ^ 43

/-! ### Physical memory (R12, R32, R422) -/

/-- Where an access to a local address is served: a retired frame's spare, or the address itself (R422). -/
def State.home (s : State) (pa : Nat) : Nat :=
  match (s.frame (pa / 65536)).spare with
  | some f => f * 65536 + pa % 65536
  | none => pa

/-- The byte at a local physical address. -/
def State.peek (s : State) (pa : Nat) : Byte := spGet s.mem (s.home pa)

/-- The state with a byte written at a local physical address. -/
def State.poke (s : State) (pa : Nat) (b : Byte) : State := { s with mem := spPut s.mem (s.home pa) b }

/-- Consecutive bytes. -/
def State.peekN (s : State) (pa n : Nat) : List Byte := (upTo n).map fun i => s.peek (pa + i)

/-- Consecutive bytes written. -/
def State.pokeN (s : State) : Nat → List Byte → State
  | _, [] => s
  | pa, b :: r => State.pokeN (s.poke pa b) (pa + 1) r

/-- A little-endian number of n bytes (R12). -/
def State.peekNat (s : State) (pa n : Nat) : Nat := ofBytes (s.peekN pa n)

/-- A little-endian number of n bytes written (R12). -/
def State.pokeNat (s : State) (pa n x : Nat) : State := s.pokeN pa (toBytes n x)

/-- n bytes set to zero. -/
def State.clear (s : State) (pa n : Nat) : State := { s with mem := spClear s.mem (s.home pa) n }

/-- A line of a byte address. -/
def lineOf (pa : Nat) : Nat := pa / 128

/-- The line of a local address is poisoned at its home (R409). -/
def State.poisonedAt (s : State) (pa : Nat) : Bool := s.poison.contains (lineOf (s.home pa))

/-- Lines that bytes pa to pa + n − 1 touch. -/
def linesOf (pa n : Nat) : List Nat := if n = 0 then [] else (upTo (lineOf (pa + n - 1) + 1 - lineOf pa)).map (lineOf pa + ·)

/-- Some byte of the range lies in a poisoned line. -/
def State.poisonedIn (s : State) (pa n : Nat) : Bool := (linesOf pa n).any fun l => s.poisonedAt (l * 128)

/-- A write covering whole lines clears their poison (R409). -/
def State.clearPoison (s : State) (pa n : Nat) : State :=
  let full := (linesOf pa n).filter fun l => pa ≤ l * 128 && l * 128 + 128 ≤ pa + n
  { s with poison := s.poison.filter fun l => !(full.any fun f => lineOf (s.home (f * 128)) == l) }

/-- The line of a local address becomes poisoned (R409). -/
def State.setPoison (s : State) (pa : Nat) : State :=
  let l := lineOf (s.home pa)
  { s with poison := if s.poison.contains l then s.poison else s.poison ++ [l] }

/-- A context has touched a die (R30): its TDM bit, and for a brim its crown's. -/
def State.touch (s : State) (c d : Nat) : State :=
  let one (x : BitVec 14) (n : Nat) : BitVec 14 := x ||| (1#14 <<< n)
  s.modCtx c fun k => { k with tdm := if 10 ≤ d then one (one k.tdm d) (crownOf d) else one k.tdm d }

/-- The crown die that holds an edge queue (R16, R256). -/
def crownOfQueue (q : Nat) : Nat := 8 + q / 512

/-- A context has touched dies (R30). -/
def State.touchAll (s : State) (c : Nat) (ds : List Nat) : State := ds.foldl (fun s d => s.touch c d) s

/-! ### Writes through the device register window (R5, R445) -/

/-- The offsets at which crown[1] keeps what crown[0] holds (R429): the registers of R257, R325 and R420, and the fault slots. -/
def mirrored (off : Nat) : Bool :=
  (decide (0x20000 ≤ off) && decide (off < 0x20400)) || (decide (0x300000 ≤ off) && decide (off < 0x300038))
    || (decide (0x400000 ≤ off) && decide (off < 0x400040)) || (decide (0x410000 ≤ off) && decide (off < 0x412000))

/-- The device registers of a die take accesses (R445); crown[1] answers for what it keeps of a lost crown[0] (R429). -/
def State.dieAnswers (s : State) (d off : Nat) : Bool :=
  (s.die d).attested.st == 3 || (d == 10 && s.anchok) || (d == 8 && (s.die 8).lost && (s.die 9).attested.st == 3 && mirrored off)

/-- A rejection held in the port's HIERR unless one is held already; a rejected read returns all ones (R445, R447). -/
def State.reject (s : State) (p cause off size : Nat) (read : Bool) : State :=
  s.modHPort p fun h =>
    let h := if h.hierrV then h else { h with hierrV := true, hierrCause := cause, hierrOff := off }
    if read then { h with replies := h.replies ++ [List.replicate size 0xFF] } else h

/-- A write of a register at an offset of die d through port `ev.hport`: rejected where the die does not answer, or where it sets a
reserved bit; otherwise it acts (R5, R445). -/
def State.windowWrite (s : State) (d off res v : Nat) (put : State → State) : State :=
  if 2 ≤ s.ev.hport then s
  else if !s.dieAnswers d off then s.reject s.ev.hport 3 (d * 2 ^ 32 + off) 8 false
  else if v &&& res ≠ 0 then s.reject s.ev.hport 1 (d * 2 ^ 32 + off) 8 false
  else put s

end Sys2Proof.Machine
end

