-- ==== Sys2Proof/Machine/Fec.lean ====
section
/-! DEFINITION. The codes of the links: CRC-16 and CRC-32C over flits, and the Reed-Solomon code of a Kalsy flit (01 R18;
14 R387). -/

namespace Sys2Proof.Machine

/-! ### CRCs -/

/-- One bit of the remainder of CRC-16, polynomial 0x1021, most significant bit first (R18). -/
def crc16Bit (c : BitVec 16) : BitVec 16 := if c.getLsbD 15 then (c <<< 1) ^^^ 0x1021 else c <<< 1

/-- CRC-16 of bytes in ascending order: initial 0xFFFF, no final inversion (R18, R19). -/
def crc16 (b : List Byte) : BitVec 16 :=
  b.foldl (fun c x => iter crc16Bit 8 (c ^^^ ((x.setWidth 16 : BitVec 16) <<< (8 : Nat)))) 0xFFFF

/-- CRC-32C of bytes in ascending order: initial 0xFFFF_FFFF, final inversion (R387). -/
def crc32c (b : List Byte) : BitVec 32 :=
  ~~~(b.foldl (fun c x => iter crcBit 8 (c ^^^ x.setWidth 32)) 0xFFFFFFFF)

/-! ### GF(2^8) with x^8 + x^4 + x^3 + x^2 + 1 (R387) -/

/-- Multiplication by α. -/
def gfTimes2 (a : Nat) : Nat := if a < 128 then 2 * a else (2 * a) ^^^ 0x11D

/-- The product of a and the low n bits of b. -/
def gfMulN : Nat → Nat → Nat → Nat
  | 0, _, _ => 0
  | n + 1, a, b => (if b % 2 = 1 then a else 0) ^^^ gfMulN n (gfTimes2 a) (b / 2)

def gfMul (a b : Nat) : Nat := gfMulN 8 a b

def gfPow (a : Nat) : Nat → Nat
  | 0 => 1
  | n + 1 => gfMul a (gfPow a n)

/-- The inverse of a non-zero element. -/
def gfInv (a : Nat) : Nat := gfPow a 254

/-- A polynomial, highest coefficient first, at x. -/
def gfEval (p : List Nat) (x : Nat) : Nat := p.foldl (fun a c => gfMul a x ^^^ c) 0

/-- Solves n equations in n unknowns over the field; each row holds its n coefficients and then its right-hand side. -/
def gfSolve : Nat → List (List Nat) → Option (List Nat)
  | 0, _ => some []
  | n + 1, rows =>
    match rows.find? fun r => r.headD 0 != 0 with
    | none => none
    | some p =>
      let q := p.tail.map (gfMul (gfInv (p.headD 0)))
      let rest := (rows.erase p).map fun r => List.zipWith (fun a b => a ^^^ gfMul (r.headD 0) b) r.tail q
      match gfSolve n rest with
      | none => none
      | some xs => some (((List.zipWith gfMul q xs).foldl (· ^^^ ·) (q.getD n 0)) :: xs)

/-! ### RS(136,128), generator roots α^0 to α^7: the first byte of a codeword is its highest coefficient, the parity its last
eight bytes (R387; log 28) -/

/-- The generator polynomial, highest coefficient first. -/
def rsGen : List Nat :=
  (upTo 8).foldl (fun g i => List.zipWith (fun a b => a ^^^ b) (g ++ [0]) (0 :: g.map (gfMul (gfPow 2 i)))) [1]

/-- The eight parity bytes of a codeword's data. -/
def rsParity (d : List Nat) : List Nat :=
  d.foldl (fun r x => List.zipWith (fun a b => a ^^^ gfMul (x ^^^ r.headD 0) b) (r.tail ++ [0]) rsGen.tail) (List.replicate 8 0)

/-- The syndromes of a codeword. -/
def rsSyndromes (c : List Nat) : List Nat := (upTo 8).map fun i => gfEval c (gfPow 2 i)

/-- The locators of ν errors: the error positions as powers of the last byte, where the syndromes determine them. -/
def rsLocate (s : List Nat) (v : Nat) : Option (List Nat) :=
  match gfSolve v ((upTo v).map fun i => (s.drop i).take (v + 1)) with
  | none => none
  | some l =>
    let at_ := (upTo 136).filter fun d => gfEval ([1] ++ l.reverse) (gfPow 2 d) == 0
    if at_.length = v then some at_ else none

/-- The codeword with the bytes at the powers `at_` corrected. -/
def rsCorrect (c s at_ : List Nat) : Option (List Nat) :=
  match gfSolve at_.length ((upTo at_.length).map fun i => (at_.map fun d => gfPow (gfPow 2 d) i) ++ [s.getD i 0]) with
  | none => none
  | some ys => some ((at_.zip ys).foldl (fun c e => modAt c (135 - e.1) (· ^^^ e.2)) c)

/-- A codeword decoded: its 128 data bytes, with up to 4 byte errors corrected, and whether any were; none where it cannot be. -/
def rsDecode (c : List Nat) : Option (List Nat × Bool) :=
  let s := rsSyndromes c
  if s.all (· == 0) then some (c.take 128, false)
  else
    [1, 2, 3, 4].findSome? fun v =>
      match rsLocate s v with
      | none => none
      | some at_ =>
        match rsCorrect c s at_ with
        | none => none
        | some c' => if (rsSyndromes c').all (· == 0) then some (c'.take 128, true) else none

/-- The even- or odd-numbered elements of a list. -/
def everySecond (p : Nat) (b : List Byte) : List Nat := (upTo (b.length / 2)).map fun i => (b.getD (2 * i + p) 0).toNat

/-- Two lists interleaved. -/
def interleave (a b : List Nat) : List Byte := (a.zip b).flatMap fun e => [BitVec.ofNat 8 e.1, BitVec.ofNat 8 e.2]

/-- The 272 bytes of a 256-byte flit on the fibre. -/
def fecEncode (b : List Byte) : List Byte :=
  b ++ interleave (rsParity (everySecond 0 b)) (rsParity (everySecond 1 b))

/-- The 256 bytes of a flit received as 272, and whether any byte was corrected; none where a codeword cannot be. -/
def fecDecode (b : List Byte) : Option (List Byte × Bool) :=
  if b.length ≠ 272 then none
  else
    match rsDecode (everySecond 0 b), rsDecode (everySecond 1 b) with
    | some (x, p), some (y, q) => some (interleave x y, p || q)
    | _, _ => none

end Sys2Proof.Machine
end

