-- ==== Sys2Proof/Machine/Gcm.lean ====
section
/-! DEFINITION. AES-256-GCM, with which the links encrypt and authenticate their groups (01 R18, R19; 14 R388). The spec names the
algorithm and does not define it: this is the public standard's (FIPS 197, SP 800-38D; log 8), with keys, IVs and blocks written as
numbers whose most significant byte is the first. -/

namespace Sys2Proof.Machine

/-! ### AES-256 -/

/-- The S-box, 32 entries in a number, the first most significant. -/
def aesRows : List Nat :=
  [0x637c777bf26b6fc53001672bfed7ab76ca82c97dfa5947f0add4a2af9ca472c0
   , 0xb7fd9326363ff7cc34a5e5f171d8311504c723c31896059a071280e2eb27b275
   , 0x09832c1a1b6e5aa0523bd6b329e32f8453d100ed20fcb15b6acbbe394a4c58cf
   , 0xd0efaafb434d338545f9027f503c9fa851a3408f929d38f5bcb6da2110fff3d2
   , 0xcd0c13ec5f974417c4a77e3d645d197360814fdc222a908846eeb814de5e0bdb
   , 0xe0323a0a4906245cc2d3ac629195e479e7c8376d8dd54ea96c56f4ea657aae08
   , 0xba78252e1ca6b4c6e8dd741f4bbd8b8a703eb5664803f60e613557b986c11d9e
   , 0xe1f8981169d98e949b1e87e9ce5528df8ca1890dbfe6426841992d0fb054bb16]

/-- The S-box at a byte. -/
def aesSub (b : Nat) : Nat := ((aesRows.getD (b / 32) 0) >>> (8 * (31 - b % 32))) % 256

/-- Multiplication by x modulo x^8 + x^4 + x^3 + x + 1. -/
def aesTimes2 (a : Nat) : Nat := if a < 128 then 2 * a else (2 * a) ^^^ 0x11B

/-- The n bytes of a number, most significant first. -/
def beBytes : Nat → Nat → List Nat
  | 0, _ => []
  | n + 1, x => x / 256 ^ n % 256 :: beBytes n x

/-- Bytes, most significant first, as a number. -/
def ofBe (b : List Nat) : Nat := b.foldl (fun x c => x * 256 + c) 0

/-- Two lists of bytes, one by one, exclusive or. -/
def xorBytes (a b : List Nat) : List Nat := List.zipWith (fun x y => x ^^^ y) a b

/-- Word i of the key schedule, from those before it, the last one first. -/
def aesWord (i : Nat) (ws : List (List Nat)) : List Nat :=
  let last := ws.headD []
  let t :=
    if i % 8 = 0 then xorBytes ((last.tail ++ last.take 1).map aesSub) [iter aesTimes2 (i / 8 - 1) 1, 0, 0, 0]
    else if i % 8 = 4 then last.map aesSub
    else last
  xorBytes (ws.getD 7 []) t

/-- The 60 words of the key schedule, in order. -/
def aesKeys (key : BitVec 256) : List (List Nat) :=
  let first := (upTo 8).map fun i => beBytes 4 (key.toNat / 2 ^ (32 * (7 - i)) % 2 ^ 32)
  ((upTo 52).foldl (fun ws i => aesWord (i + 8) ws :: ws) first.reverse).reverse

/-- The 16 bytes of round key r. -/
def roundKey (ks : List (List Nat)) (r : Nat) : List Nat := ((ks.drop (4 * r)).take 4).flatten

/-- The rows of a state, of columns one after another, shifted. -/
def aesShift (s : List Nat) : List Nat := (upTo 16).map fun i => s.getD ((i + 4 * (i % 4)) % 16) 0

/-- The columns of a state mixed. -/
def aesMix (s : List Nat) : List Nat :=
  (upTo 16).map fun i =>
    let a (j : Nat) : Nat := s.getD (i / 4 * 4 + (i + j) % 4) 0
    aesTimes2 (a 0) ^^^ aesTimes2 (a 1) ^^^ a 1 ^^^ a 2 ^^^ a 3

/-- A block encrypted under a key schedule. -/
def aesBlock (ks : List (List Nat)) (x : Nat) : Nat :=
  let s := xorBytes (beBytes 16 x) (roundKey ks 0)
  let s := (upTo 13).foldl (fun s r => xorBytes (aesMix (aesShift (s.map aesSub))) (roundKey ks (r + 1))) s
  ofBe (xorBytes (aesShift (s.map aesSub)) (roundKey ks 14))

/-! ### GCM -/

/-- n steps of the product of two elements of GF(2^128), bit 127 the coefficient of 1: the bits of x still to take, y times the
power reached, and the sum. -/
def ghashMulN : Nat → Nat → Nat → Nat → Nat
  | 0, _, _, z => z
  | n + 1, x, v, z =>
    ghashMulN n x (if v % 2 = 1 then (v / 2) ^^^ (0xE1 <<< 120) else v / 2) (if x.testBit n then z ^^^ v else z)

/-- The 16-byte blocks of a string, the last completed with zeros. -/
def gcmBlocks (b : List Byte) : List Nat :=
  (upTo (ceilDiv b.length 16)).map fun i => ofBe ((upTo 16).map fun j => (b.getD (16 * i + j) 0).toNat)

/-- GHASH of blocks under H. -/
def ghash (h : Nat) (bs : List Nat) : Nat := bs.foldl (fun y x => ghashMulN 128 (y ^^^ x) h 0) 0

/-- The keystream of n bytes: the blocks of the counters from 2. -/
def gcmStream (ks : List (List Nat)) (iv : BitVec 96) (n : Nat) : List Nat :=
  ((upTo (ceilDiv n 16)).flatMap fun i => beBytes 16 (aesBlock ks (iv.toNat * 2 ^ 32 + (i + 2) % 2 ^ 32))).take n

/-- Encryption under a key and an IV, which is decryption too. -/
def gcmCrypt (key : BitVec 256) (iv : BitVec 96) (b : List Byte) : List Byte :=
  List.zipWith (fun x y => x ^^^ BitVec.ofNat 8 y) b (gcmStream (aesKeys key) iv b.length)

/-- The 16-byte tag over additional data and ciphertext. -/
def gcmTag (key : BitVec 256) (iv : BitVec 96) (aad c : List Byte) : List Byte :=
  let ks := aesKeys key
  let s := ghash (aesBlock ks 0) (gcmBlocks aad ++ gcmBlocks c ++ [8 * aad.length * 2 ^ 64 + 8 * c.length])
  (beBytes 16 (s ^^^ aesBlock ks (iv.toNat * 2 ^ 32 + 1))).map (BitVec.ofNat 8)

end Sys2Proof.Machine
end

