-- ==== Sys2Proof/Machine/Flit.lean ====
section
/-! DEFINITION. Flits, groups and messages: their layouts, the transmitter and the receiver of one direction of a link (01 R18
to R20; 14 R387 to R392, R397). -/

namespace Sys2Proof.Machine

/-! ### Layouts (R19, R387) -/

/-- A kind of link: payload bytes of a flit and bytes of a sequence number. -/
structure LinkFmt where
  pay : Nat
  seqB : Nat
deriving DecidableEq, Repr

/-- A die link (R19) and a Kalsy port (R387). -/
def dieFmt : LinkFmt := { pay := 54, seqB := 3 }
def kalsyFmt : LinkFmt := { pay := 240, seqB := 4 }

/-- Sequence numbers are taken modulo this. -/
def LinkFmt.seqs (f : LinkFmt) : Nat := 2 ^ (8 * f.seqB)

/-- The largest EPOCH (R19, R392). -/
def LinkFmt.epochMax (f : LinkFmt) : Nat := 2 ^ (64 - 8 * f.seqB) - 1

/-- Sequence number b lies at or after a. -/
def LinkFmt.after (f : LinkFmt) (a b : Nat) : Bool := (b + f.seqs - a) % f.seqs < f.seqs / 2

/-- The sequence number n past a. -/
def LinkFmt.plus (f : LinkFmt) (a n : Nat) : Nat := (a + n) % f.seqs

/-- A flit as received: sequence number, ACK, TYPE, KI, NAK and payload. -/
structure RxFlit where
  seq : Nat
  ack : Nat
  type : Nat
  ki : Nat
  nak : Bool
  payload : List Byte
deriving DecidableEq, Repr

/-- A list of exactly n bytes. -/
def padTo (n : Nat) (b : List Byte) : List Byte := (b ++ List.replicate (n - b.length) 0).take n

/-- The bytes of a flit before its CRC. A die link has one byte of CTL and one reserved, a Kalsy port four of CTL. -/
def LinkFmt.body (f : LinkFmt) (x : RxFlit) : List Byte :=
  toBytes f.seqB x.seq ++ toBytes f.seqB x.ack ++ toBytes (2 * (f.seqB - 2)) (x.type + 4 * x.ki + 8 * b2n x.nak) ++ padTo f.pay x.payload

/-- The bytes of a flit on its link (R18, R387). -/
def LinkFmt.encode (f : LinkFmt) (x : RxFlit) : List Byte :=
  let b := f.body x
  if f.seqB = 3 then b ++ toBytes 2 (crc16 b).toNat else fecEncode (b ++ toBytes 4 (crc32c b).toNat)

/-- The fields of a flit's bytes; none where a reserved bit is set (R19, R387). -/
def LinkFmt.fields (f : LinkFmt) (b : List Byte) : Option RxFlit :=
  let n := f.seqB
  let c := 2 * (n - 2)
  let ctl := ofBytes ((b.drop (2 * n)).take c)
  if ctl ≥ 16 then none
  else some { seq := ofBytes (b.take n), ack := ofBytes ((b.drop n).take n), type := ctl % 4, ki := bits ctl 2 2
              nak := bitOf ctl 3, payload := (b.drop (2 * n + c)).take f.pay }

/-- A flit taken from its link: whether FEC corrected it, and its fields; none where it is to be discarded (R18, R19, R389). -/
def LinkFmt.decode (f : LinkFmt) (b : List Byte) : Option (Bool × RxFlit) :=
  if f.seqB = 3 then
    if b.length ≠ 64 ∨ ofBytes (b.drop 62) ≠ (crc16 (b.take 62)).toNat then none else (f.fields b).map fun x => (false, x)
  else
    match fecDecode b with
    | none => none
    | some (b, c) => if ofBytes (b.drop 252) ≠ (crc32c (b.take 252)).toNat then none else (f.fields b).map fun x => (c, x)

/-! ### Groups (R19, R388) -/

/-- The additional authenticated data of a group. -/
def LinkFmt.aad (f : LinkFmt) (base ki : Nat) : List Byte :=
  (upTo 15).flatMap fun i => toBytes f.seqB (base + i) ++ [BitVec.ofNat 8 (4 * ki)]

/-- The IV of a group: SALT, EPOCH and 16g. -/
def LinkFmt.iv (f : LinkFmt) (k : KeySlot) (epoch base : Nat) : BitVec 96 :=
  BitVec.ofNat 96 (k.salt.toNat * 2 ^ 64 + epoch * f.seqs + base)

/-- The flits of a group: fifteen data flits of ciphertext and the tag flit. -/
def LinkFmt.seal (f : LinkFmt) (k : KeySlot) (epoch base ki : Nat) (plain : List Byte) : List Flit :=
  let iv := f.iv k epoch base
  let aad := f.aad base ki
  let c := gcmCrypt k.key iv plain
  (upTo 15).map (fun i => { seq := base + i, type := 0, ki := ki, payload := (c.drop (i * f.pay)).take f.pay })
    ++ [{ seq := base + 15, type := 1, ki := ki, payload := padTo f.pay (gcmTag k.key iv aad c) }]

/-- The plaintext of a group received under a key, where its tag verifies. -/
def LinkFmt.open (f : LinkFmt) (k : KeySlot) (epoch base ki : Nat) (g : List Flit) (tag : List Byte) : Option (List Byte) :=
  let iv := f.iv k epoch base
  let aad := f.aad base ki
  let c := g.flatMap (·.payload)
  if gcmTag k.key iv aad c = tag.take 16 then some (gcmCrypt k.key iv c) else none

/-! ### The transmitter -/

/-- A kept flit put on the link again or for the first time: the same bytes, with ACK and NAK as they stand (R389). -/
def LinkFmt.wireOf (f : LinkFmt) (ack : Nat) (x : Flit) : List Byte :=
  f.encode { seq := x.seq, ack := ack, type := x.type, ki := x.ki, nak := false, payload := x.payload }

/-- An idle flit: the next sequence number, ACK, and a NAK where one is due (R19, R387). -/
def Chan.idle (f : LinkFmt) (ack : Nat) (nak : Bool) (h : Chan) : Chan :=
  { h with wire := h.wire ++ [f.encode { seq := h.txSeq, ack := ack, type := 3, ki := 0, nak := nak, payload := [] }] }

/-- The transmitter may send a group: a key in use, an EPOCH below its limit, and room in the retry buffer (R19, R389, R392). -/
def Chan.maySeal (f : LinkFmt) (h : Chan) : Bool :=
  (h.txKeys.getD h.txKi none).isSome && decide (h.txEpoch < f.epochMax) && (f.seqB == 3 || decide (h.kept.length + 16 ≤ 4096))

/-- A group is sent with the plaintext given (R19, R388). -/
def Chan.sendGroup (f : LinkFmt) (now ack : Nat) (plain : List Byte) (h : Chan) : Chan :=
  match h.txKeys.getD h.txKi none with
  | none => h
  | some k =>
    let g := f.seal k h.txEpoch h.txSeq h.txKi plain
    let next := f.plus h.txSeq 16
    { h with txSeq := next, txEpoch := if next = 0 then h.txEpoch + 1 else h.txEpoch, kept := h.kept ++ g
             wire := h.wire ++ g.map (f.wireOf ack), ackClk := if h.kept.isEmpty then now else h.ackClk }

/-- Every full group of the open plaintext is sent. -/
def Chan.sendFull (f : LinkFmt) (now ack : Nat) : Nat → Chan → Chan
  | 0, h => h
  | n + 1, h =>
    if h.open_.length < 15 * f.pay ∨ !h.maySeal f then h
    else Chan.sendFull f now ack n (Chan.sendGroup f now ack (h.open_.take (15 * f.pay)) { h with open_ := h.open_.drop (15 * f.pay) })

/-- Bytes are handed to the transmitter: they join the open group, and full groups are sent. -/
def Chan.push (f : LinkFmt) (now ack : Nat) (b : List Byte) (h : Chan) : Chan :=
  let o := h.open_ ++ b
  Chan.sendFull f now ack (o.length / (15 * f.pay)) { h with open_ := o, openSince := if h.open_.isEmpty then now else h.openSince }

/-- The open group is completed with payload of zeros (R19, R388). -/
def Chan.complete (f : LinkFmt) (now ack : Nat) (h : Chan) : Chan :=
  let h := h.push f now ack []
  if h.open_.isEmpty ∨ !h.maySeal f then h
  else Chan.sendGroup f now ack (padTo (15 * f.pay) h.open_) { h with open_ := [] }

/-- ACK = a arrives: groups wholly before it are no longer kept, and once one under the slot in use is, the other slot's key is
retired (R20, R389, R391; log 29). -/
def Chan.acked (f : LinkFmt) (now a : Nat) (h : Chan) : Chan :=
  let gone (x : Flit) : Bool := f.after (f.plus (x.seq - x.seq % 16) 16) a
  let new := h.kept.any fun x => gone x && x.ki == h.txKi
  let moved := f.after h.lastAck a && h.lastAck != a && !h.kept.isEmpty
  { h with kept := h.kept.filter fun x => !gone x
           txKeys := if new then setAt h.txKeys (1 - h.txKi) none else h.txKeys
           lastAck := if moved then a else h.lastAck, ackClk := if moved then now else h.ackClk
           fails := if moved then 0 else h.fails, nakAt := if moved then none else h.nakAt }

/-- Kept flits are sent again from `a`; a second request for the same sequence number counts the earlier replay as failed
(R20, R389; log 29). -/
def Chan.sendAgain (f : LinkFmt) (now ack a : Nat) (failed : Bool) (h : Chan) : Chan :=
  { h with wire := h.wire ++ (h.kept.filter fun x => f.after a x.seq).map (f.wireOf ack), replay := none, ackClk := now
           nakAt := some a, fails := if failed || h.nakAt == some a then h.fails + 1 else 0 }

/-! ### The receiver -/

/-- What a receiver does with a data or tag flit: nothing more, a request for replay, or the discard of a group whose tag failed
(which asks for replay too). -/
inductive RxEnd where
  | taken | nak | badTag
deriving DecidableEq, Repr

/-- A flit out of order: a later one asks for replay once, an earlier one is dropped (R20, R389). -/
def Chan.outOfOrder (f : LinkFmt) (x : RxFlit) (h : Chan) : Chan × RxEnd :=
  if h.discard || !f.after h.rxSeq x.seq then (h, .taken) else ({ h with discard := true }, .nak)

/-- A data flit at the receiver (R19, R389). -/
def Chan.rxData (f : LinkFmt) (x : RxFlit) (h : Chan) : Chan × RxEnd :=
  if x.seq = h.rxSeq ∧ x.seq % 16 ≠ 15 then
    ({ h with group := h.group ++ [{ seq := x.seq, type := 0, ki := x.ki, payload := x.payload }]
              rxSeq := f.plus h.rxSeq 1, discard := false }, .taken)
  else h.outOfOrder f x

/-- A tag flit at the receiver: its group's payloads are passed on, and the first group under a new slot retires the old one; or
the group is discarded (R20, R389, R391). -/
def Chan.rxTag (f : LinkFmt) (x : RxFlit) (h : Chan) : Chan × RxEnd :=
  if x.seq = h.rxSeq ∧ x.seq % 16 = 15 then
    let base := x.seq - 15
    let epoch := if x.ki = h.rxKi then h.rxEpoch else 0
    let plain : Option (List Byte) :=
      if h.group.all (fun y => y.ki == x.ki) then
        (h.rxKeys.getD x.ki none).bind fun k => f.open k epoch base x.ki h.group x.payload
      else none
    match plain with
    | none => ({ h with rxSeq := base, group := [], discard := true }, .badTag)
    | some p =>
      let next := f.plus h.rxSeq 1
      ({ h with rxSeq := next, rxEpoch := if next = 0 then epoch + 1 else epoch, group := [], discard := false
                rxKi := x.ki, rxKeys := if x.ki = h.rxKi then h.rxKeys else setAt h.rxKeys h.rxKi none
                delivered := h.delivered ++ p }, .taken)
  else h.outOfOrder f x

/-! ### Messages (R397) -/

/-- KIND of a message. -/
def kindCode : MsgKind → Nat
  | .read => 0
  | .write => 1
  | .atomic => 2
  | .cas => 3
  | .chunk => 4
  | .landing => 5
  | .response => 6
  | .ack => 7
  | .refusal => 8
  | .respAck => 9

def msgKind (n : Nat) : Option MsgKind :=
  [MsgKind.read, .write, .atomic, .cas, .chunk, .landing, .response, .ack, .refusal, .respAck].find? fun k => kindCode k == n

/-- Bits set in byte 12 of a chunk's data, that of DLV. -/
def markUnit (b : List Byte) (n : Nat) : List Byte := setAt b 12 ((b.getD 12 0) ||| BitVec.ofNat 8 n)

/-- ADDR of a chunk for package d could be a scratchpad offset: [51:32] are zero (R397). -/
def likeOffset (d addr : Nat) : Bool := d == 0 && decide (addr < 2 ^ 32)

/-- ADDR as it travels: the scratchpad offset of a delivery, otherwise the global physical address. Of a chunk for memory, a multiple
of 8, bit 1 says that its data end in the middle of a unit, and bit 0 that an ADDR like an offset is none (R397; log 30). -/
def addrBits (m : Msg) : Nat :=
  if m.kind = .chunk ∧ !m.scr then
    m.addr.toNat + 2 * b2n (decide (m.data.length % 16 ≠ 0)) + b2n (likeOffset m.dpkg m.addr.toNat)
  else m.addr.toNat

/-- A message's units: the header and its data, padded. Bit 1 of a delivery's byte 12 says that its data end in the middle of a unit (R397;
log 30). -/
def msgBytes (m : Msg) : List Byte :=
  let u := ceilDiv m.data.length 16
  let data := if m.kind = .chunk ∧ m.scr ∧ m.data.length % 16 ≠ 0 then markUnit m.data 2 else m.data
  toBytes 16 (kindCode m.kind * 2 ^ 124 + m.dpkg * 2 ^ 115 + m.spkg * 2 ^ 106 + m.sctx * 2 ^ 100 + m.hops * 2 ^ 96 + m.rid * 2 ^ 72
      + u * 2 ^ 64 + m.op.toNat * 2 ^ 56 + addrBits m)
    ++ padTo (16 * u) data

/-- The address, data and kind of destination of a chunk write from ADDR and its units (R397; log 30). -/
def chunkOf (dpkg addr : Nat) (data : List Byte) : Nat × List Byte × Bool :=
  let short (odd : Bool) (b : List Byte) : List Byte := if odd then b.take (b.length - 8) else b
  if addr < 2 ^ 32 && !(dpkg == 0 && bitOf addr 0) then
    let flags := (data.getD 12 0).toNat
    (addr, short (bitOf flags 1) (setAt data 12 (BitVec.ofNat 8 (flags - flags / 2 % 2 * 2))), true)
  else (alignDown addr 8, short (bitOf addr 1) data, false)

/-- The message that a header and its data units hold; none where KIND is reserved, UNITS is above 33 or a reserved bit is set. -/
def msgOf (h : Nat) (data : List Byte) : Option Msg :=
  match msgKind (bits h 127 124) with
  | none => none
  | some k =>
    if bits h 55 52 ≠ 0 ∨ bits h 71 64 > 33 then none
    else
      let d := bits h 123 115
      let (addr, data, scr) := if k = .chunk then chunkOf d (bits h 51 0) data else (bits h 51 0, data, false)
      some { kind := k, dpkg := d, spkg := bits h 114 106, sctx := bits h 105 100, hops := bits h 99 96
             rid := bits h 95 72, op := BitVec.ofNat 8 (bits h 63 56), addr := BitVec.ofNat 52 addr, data := data, scr := scr }

/-- The messages that a run of units holds whole, how many were discarded, and the units left over; units of zeros between
messages are the padding of a group (R388, R397; log 30). -/
def parseMsgs : Nat → List Byte → List Msg × Nat × List Byte
  | 0, b => ([], 0, b)
  | n + 1, b =>
    if b.length < 16 then ([], 0, b)
    else
      let h := ofBytes (b.take 16)
      let u := bits h 71 64
      if h = 0 then parseMsgs n (b.drop 16)
      else if b.length < 16 + 16 * u then ([], 0, b)
      else
        let (ms, bad, r) := parseMsgs n (b.drop (16 + 16 * u))
        match msgOf h ((b.drop 16).take (16 * u)) with
        | some m => (m :: ms, bad, r)
        | none => (ms, bad + 1, r)

end Sys2Proof.Machine
end

