-- ==== Sys2Proof/Decode.lean ====
section
/-! DEFINITION. Decoding of instruction words (03, R65 to R96, and the encoding tables of 06 to 13), total on any words,
and the encoder written from the same tables. -/

namespace Sys2Proof

/-- What follows the second word: nothing, a literal (X = 1), or an extension word (X = 0) (R71, R72). -/
inductive Third where
  | none
  | lit (w : Word)
  | ext (xmod : BitVec 19) (cls : BitVec 2) (c : BitVec 11)
deriving DecidableEq, Repr

/-- The fields of an S-form or L-form instruction (R66, R72). -/
structure Fields where
  opc : BitVec 10
  h : Hdr
  d : BitVec 11
  a : BitVec 11
  b : BitVec 11
  md : BitVec 8
  t : Third
deriving DecidableEq, Repr

/-! ### Words and fields -/

/-- One bit as a vector. -/
def bit1 (b : Bool) : BitVec 1 := BitVec.ofBool b

/-- The 64 bits of the first two words: X, MOD, B, A, D, RU, YH, LA, GN, GP, OPC and the form (R66). -/
def packTwo (f : Fields) (x : Bool) (form : BitVec 2) : BitVec 64 :=
  bit1 x ++ f.md ++ f.b ++ f.a ++ f.d ++ bit1 f.h.ru ++ bit1 f.h.yh ++ f.h.la ++ bit1 f.h.gn ++ f.h.gp ++ f.opc ++ form

/-- The words of the fields (R65, R66, R71, R72). -/
def wordsOf (f : Fields) : List Word :=
  match f.t with
  | .none =>
    let v := packTwo f false 0b01#2
    [v.extractLsb' 0 32, v.extractLsb' 32 32]
  | .lit w =>
    let v := packTwo f true 0b10#2
    [v.extractLsb' 0 32, v.extractLsb' 32 32, w]
  | .ext xm cls c =>
    let v := packTwo f false 0b10#2
    [v.extractLsb' 0 32, v.extractLsb' 32 32, xm ++ cls ++ c]

/-- The fields in the first two words, given the third (R66). -/
def unpackTwo (v : BitVec 64) (t : Third) : Fields :=
  { opc := v.extractLsb' 2 10
    h := { gp := v.extractLsb' 12 3, gn := v.getLsbD 15, la := v.extractLsb' 16 4, yh := v.getLsbD 20, ru := v.getLsbD 21 }
    d := v.extractLsb' 22 11
    a := v.extractLsb' 33 11
    b := v.extractLsb' 44 11
    md := v.extractLsb' 55 8
    t := t }

/-- The third word under X (R71, R72). -/
def thirdOf (x : Bool) (w2 : Word) : Third :=
  if x then .lit w2 else .ext (w2.extractLsb' 13 19) (w2.extractLsb' 11 2) (w2.extractLsb' 0 11)

/-- The length of an instruction in words, from its first word (R65). A word whose bits [1:0] are 0b11 is counted as one
word (log 13). -/
def lenOf (w0 : Word) : Nat :=
  if w0.extractLsb' 0 2 = 0b01#2 then 2 else if w0.extractLsb' 0 2 = 0b10#2 then 3 else 1

/-! ### Codes -/

def scopeOf (x : BitVec 3) : Option Scope :=
  match x.toNat with
  | 0 => some .core | 1 => some .clus | 2 => some .die | 3 => some .stk
  | 4 => some .ipo | 5 => some .pkg | 6 => some .sys | _ => none

/-- Scope codes (R23). -/
def Scope.code : Scope → BitVec 3
  | .core => 0 | .clus => 1 | .die => 2 | .stk => 3 | .ipo => 4 | .pkg => 5 | .sys => 6

def orderOf (x : BitVec 2) : Order :=
  match x.toNat with
  | 0 => .rlx | 1 => .acq | 2 => .rel | _ => .ar

/-- Order codes (R132). -/
def Order.code : Order → BitVec 2
  | .rlx => 0 | .acq => 1 | .rel => 2 | .ar => 3

def fenceOrderOf (x : BitVec 2) : Option FenceOrder :=
  match x.toNat with
  | 0 => some .sc | 1 => some .acq | 2 => some .rel | _ => none

/-- Orders of FENCE (R132). -/
def FenceOrder.code : FenceOrder → BitVec 2
  | .sc => 0 | .acq => 1 | .rel => 2

def roundOf (x : BitVec 3) : Option RoundCode :=
  match x.toNat with
  | 0 => some .fpctl | 1 => some .rn | 2 => some .rz | 3 => some .ru | 4 => some .rd | 5 => some .sr | _ => none

/-- Rounding codes (R112). -/
def RoundCode.code : RoundCode → BitVec 3
  | .fpctl => 0 | .rn => 1 | .rz => 2 | .ru => 3 | .rd => 4 | .sr => 5

def intTyOf (x : BitVec 2) : IntTy :=
  match x.toNat with
  | 0 => .i32 | 1 => .n32 | 2 => .i64 | _ => .n64

/-- Integer type codes (R206). -/
def IntTy.code : IntTy → BitVec 2
  | .i32 => 0 | .n32 => 1 | .i64 => 2 | .n64 => 3

/-- The type's operands are pairs (R206). -/
def IntTy.w64 : IntTy → Bool
  | .i32 => false | .n32 => false | .i64 => true | .n64 => true

def icondOf (x : BitVec 3) : Option ICond :=
  match x.toNat with
  | 0 => some .eq | 1 => some .ne | 2 => some .lt | 3 => some .le | 4 => some .gt | 5 => some .ge | _ => none

/-- Conditions of ICMP (R206). -/
def ICond.code : ICond → BitVec 3
  | .eq => 0 | .ne => 1 | .lt => 2 | .le => 3 | .gt => 4 | .ge => 5

def fcondOf (x : BitVec 3) : FCond :=
  match x.toNat with
  | 0 => .eq | 1 => .ne | 2 => .lt | 3 => .le | 4 => .gt | 5 => .ge | 6 => .un | _ => .ord

/-- Conditions of FCMP and DCMP (R216). -/
def FCond.code : FCond → BitVec 3
  | .eq => 0 | .ne => 1 | .lt => 2 | .le => 3 | .gt => 4 | .ge => 5 | .un => 6 | .ord => 7

def fnameOf (x : BitVec 2) : FName :=
  match x.toNat with
  | 0 => .f32 | 1 => .f64 | 2 => .f16 | _ => .bf16

/-- Formats of CVTI's SRC and CVTF's DST (R222, R223). -/
def FName.code : FName → BitVec 2
  | .f32 => 0 | .f64 => 1 | .f16 => 2 | .bf16 => 3

def cvtSrcOf (x : BitVec 3) : CvtSrc :=
  match x.toNat with
  | 0 => .i32 | 1 => .n32 | 2 => .i64 | 3 => .n64 | 4 => .f32 | 5 => .f64 | 6 => .f16 | _ => .bf16

/-- Sources of CVTF (R223). -/
def CvtSrc.code : CvtSrc → BitVec 3
  | .i32 => 0 | .n32 => 1 | .i64 => 2 | .n64 => 3 | .f32 => 4 | .f64 => 5 | .f16 => 6 | .bf16 => 7

/-- The source is a pair (R223). -/
def CvtSrc.w64 : CvtSrc → Bool
  | .i64 => true | .n64 => true | .f64 => true
  | .i32 => false | .n32 => false | .f32 => false | .f16 => false | .bf16 => false

/-- The format's operand is a pair. -/
def FName.w64 : FName → Bool
  | .f64 => true | .f32 => false | .f16 => false | .bf16 => false

def qfmtOf (x : BitVec 2) : Option QFmt :=
  match x.toNat with
  | 0 => some .e4m3 | 1 => some .e5m2 | 2 => some .e2m1 | _ => none

/-- Formats of CVTQ (R224). -/
def QFmt.code : QFmt → BitVec 2
  | .e4m3 => 0 | .e5m2 => 1 | .e2m1 => 2

def cvtpOf (x : BitVec 3) : Option CvtpOp :=
  match x.toNat with
  | 0 => some .wideE4m3 | 1 => some .wideE5m2 | 2 => some .wideE2m1 | 3 => some .packF16 | 4 => some .packBf16
  | 5 => some .wideF16 | 6 => some .wideBf16 | _ => none

/-- Operations of CVTP (R225). -/
def CvtpOp.code : CvtpOp → BitVec 3
  | .wideE4m3 => 0 | .wideE5m2 => 1 | .wideE2m1 => 2 | .packF16 => 3 | .packBf16 => 4 | .wideF16 => 5 | .wideBf16 => 6

/-- Alignment of D in CVTP (R225). -/
def CvtpOp.dAlign : CvtpOp → Nat
  | .wideE4m3 => 4 | .wideE5m2 => 4 | .wideE2m1 => 8 | .packF16 => 1 | .packBf16 => 1 | .wideF16 => 2 | .wideBf16 => 2

/-- The operation takes a rounding code (R225). -/
def CvtpOp.packs : CvtpOp → Bool
  | .packF16 => true | .packBf16 => true
  | .wideE4m3 => false | .wideE5m2 => false | .wideE2m1 => false | .wideF16 => false | .wideBf16 => false

/-- The operation takes operand B (R225). -/
def CvtpOp.usesB : CvtpOp → Bool
  | .wideF16 => false | .wideBf16 => false
  | .wideE4m3 => true | .wideE5m2 => true | .wideE2m1 => true | .packF16 => true | .packBf16 => true

def crcWOf (x : BitVec 2) : Option CrcW :=
  match x.toNat with
  | 0 => some .b32 | 1 => some .b8 | 2 => some .b16 | _ => none

/-- Data widths of CRC32C (R227). -/
def CrcW.code : CrcW → BitVec 2
  | .b32 => 0 | .b8 => 1 | .b16 => 2

def movWOf (x : BitVec 2) : Option MovW :=
  match x.toNat with
  | 0 => some .b32 | 1 => some .b64 | 2 => some .b128 | _ => none

/-- Widths of MOV (R212). -/
def MovW.code : MovW → BitVec 2
  | .b32 => 0 | .b64 => 1 | .b128 => 2

/-- Registers of a MOV operand. -/
def MovW.regs : MovW → Nat
  | .b32 => 1 | .b64 => 2 | .b128 => 4

def movlTyOf (x : BitVec 2) : Option MovlTy :=
  match x.toNat with
  | 0 => some .b32 | 1 => some .i64 | 2 => some .n64 | _ => none

/-- Types of MOVL (R212). -/
def MovlTy.code : MovlTy → BitVec 2
  | .b32 => 0 | .i64 => 1 | .n64 => 2

/-- Registers of a MOVL destination. -/
def MovlTy.regs : MovlTy → Nat
  | .b32 => 1 | .i64 => 2 | .n64 => 2

def sregOf (x : BitVec 8) : Option SReg :=
  match x.toNat with
  | 0x00 => some .tid | 0x01 => some .lane | 0x02 => some .slot | 0x03 => some .team | 0x04 => some .nteams
  | 0x05 => some .gwidth | 0x06 => some .core | 0x07 => some .clus | 0x08 => some .die | 0x09 => some .pkg
  | 0x0A => some .ctxid | 0x10 => some .clock | 0x11 => some .fpctl | 0x12 => some .part | 0x13 => some .flags
  | 0x14 => some .rngkey | 0x15 => some .region | 0x16 => some .tdm | 0x80 => some .mgnCtl | 0x81 => some .mgnStat
  | 0x82 => some .mgnLimit | 0x83 => some .parkTh | 0x84 => some .ageLimit | _ => none

/-- Selectors (R78). -/
def SReg.code : SReg → BitVec 8
  | .tid => 0x00 | .lane => 0x01 | .slot => 0x02 | .team => 0x03 | .nteams => 0x04 | .gwidth => 0x05 | .core => 0x06
  | .clus => 0x07 | .die => 0x08 | .pkg => 0x09 | .ctxid => 0x0A | .clock => 0x10 | .fpctl => 0x11 | .part => 0x12
  | .flags => 0x13 | .rngkey => 0x14 | .region => 0x15 | .tdm => 0x16 | .mgnCtl => 0x80 | .mgnStat => 0x81
  | .mgnLimit => 0x82 | .parkTh => 0x83 | .ageLimit => 0x84

/-- Selectors that SETS accepts (R78, R79). -/
def SReg.settable : SReg → Bool
  | .fpctl => true | .part => true | .flags => true | .mgnCtl => true | .mgnStat => true | .mgnLimit => true
  | .parkTh => true | .ageLimit => true
  | .tid => false | .lane => false | .slot => false | .team => false | .nteams => false | .gwidth => false
  | .core => false | .clus => false | .die => false | .pkg => false | .ctxid => false | .clock => false
  | .rngkey => false | .region => false | .tdm => false

/-- Privileged selectors (R78, R79). -/
def SReg.privileged : SReg → Bool
  | .mgnCtl => true | .mgnStat => true | .mgnLimit => true | .parkTh => true | .ageLimit => true
  | .fpctl => false | .part => false | .flags => false
  | .tid => false | .lane => false | .slot => false | .team => false | .nteams => false | .gwidth => false
  | .core => false | .clus => false | .die => false | .pkg => false | .ctxid => false | .clock => false
  | .rngkey => false | .region => false | .tdm => false

/-- Registers of a GETS destination (R78). -/
def SReg.regs (s : SReg) : Nat := if s = .clock then 2 else 1

def accOf (x : BitVec 3) : AccCode :=
  match x.toNat with
  | 0 => .b32 | 1 => .b64 | 2 => .b128 | 3 => .b64a8 | 4 => .b128a16 | 5 => .prv | 6 => .prvB64 | _ => .prvB128

/-- Access codes AC (R274). -/
def AccCode.code : AccCode → BitVec 3
  | .b32 => 0 | .b64 => 1 | .b128 => 2 | .b64a8 => 3 | .b128a16 => 4 | .prv => 5 | .prvB64 => 6 | .prvB128 => 7

/-- Registers of an LD or ST operand (R274). -/
def AccCode.regs : AccCode → Nat
  | .b32 => 1 | .b64 => 2 | .b128 => 4 | .b64a8 => 2 | .b128a16 => 4 | .prv => 1 | .prvB64 => 2 | .prvB128 => 4

/-- The thread-private codes (R275). -/
def AccCode.isPrv : AccCode → Bool
  | .prv => true | .prvB64 => true | .prvB128 => true
  | .b32 => false | .b64 => false | .b128 => false | .b64a8 => false | .b128a16 => false

def spOf (x : BitVec 3) : Option SpCode :=
  match x.toNat with
  | 0 => some .b32 | 1 => some .b64 | 2 => some .b128 | 3 => some .b64a8 | 4 => some .b128a16 | 5 => some .b8
  | 6 => some .b16 | _ => none

/-- Access codes SC (R274). -/
def SpCode.code : SpCode → BitVec 3
  | .b32 => 0 | .b64 => 1 | .b128 => 2 | .b64a8 => 3 | .b128a16 => 4 | .b8 => 5 | .b16 => 6

/-- Registers of an LDS or STS operand (R274). -/
def SpCode.regs : SpCode → Nat
  | .b32 => 1 | .b64 => 2 | .b128 => 4 | .b64a8 => 2 | .b128a16 => 4 | .b8 => 1 | .b16 => 1

def pfHintOf (x : BitVec 2) : Option PfHint :=
  match x.toNat with
  | 0 => some .page | 1 => some .ef | 2 => some .el | _ => none

/-- Hints of PFCH (R294). -/
def PfHint.code : PfHint → BitVec 2
  | .page => 0 | .ef => 1 | .el => 2

def cctlOf (x : BitVec 3) : Option CctlOp :=
  match x.toNat with
  | 0 => some .wb | 1 => some .wbinv | 2 => some .ef | 3 => some .el | 4 => some .nrm | _ => none

/-- Operations of CCTL (R295). -/
def CctlOp.code : CctlOp → BitVec 3
  | .wb => 0 | .wbinv => 1 | .ef => 2 | .el => 3 | .nrm => 4

def atomOf (x : BitVec 3) : AtomOp :=
  match x.toNat with
  | 0 => .add | 1 => .addB64 | 2 => .exch | 3 => .exchB64 | 4 => .minI32 | 5 => .maxI32 | 6 => .and | _ => .or

/-- Operations of ATOM (R285). -/
def AtomOp.code : AtomOp → BitVec 3
  | .add => 0 | .addB64 => 1 | .exch => 2 | .exchB64 => 3 | .minI32 => 4 | .maxI32 => 5 | .and => 6 | .or => 7

/-- The operation's width is 64 bits (R285). -/
def AtomOp.w64 : AtomOp → Bool
  | .addB64 => true | .exchB64 => true
  | .add => false | .exch => false | .minI32 => false | .maxI32 => false | .and => false | .or => false

def redOf (x : BitVec 3) : RedOp :=
  match x.toNat with
  | 0 => .add | 1 => .addB64 | 2 => .addF32 | 3 => .minI32 | 4 => .maxI32 | 5 => .and | 6 => .or | _ => .xor

/-- Operations of RED (R285). -/
def RedOp.code : RedOp → BitVec 3
  | .add => 0 | .addB64 => 1 | .addF32 => 2 | .minI32 => 3 | .maxI32 => 4 | .and => 5 | .or => 6 | .xor => 7

/-- The operation's width is 64 bits (R285). -/
def RedOp.w64 : RedOp → Bool
  | .addB64 => true
  | .add => false | .addF32 => false | .minI32 => false | .maxI32 => false | .and => false | .or => false | .xor => false

def wcondOf (x : BitVec 3) : WCond :=
  match x.toNat with
  | 0 => .eq | 1 => .ne | 2 => .lt | 3 => .ge | 4 => .ltu | 5 => .geu | 6 => .any | _ => .none

/-- Conditions of WAITW (R291). -/
def WCond.code : WCond → BitVec 3
  | .eq => 0 | .ne => 1 | .lt => 2 | .ge => 3 | .ltu => 4 | .geu => 5 | .any => 6 | .none => 7

def partOf (x : BitVec 2) : PartOp :=
  match x.toNat with
  | 0 => .pos | 1 => .tile | 2 => .live | _ => .size

/-- Queries of PART (R239). -/
def PartOp.code : PartOp → BitVec 2
  | .pos => 0 | .tile => 1 | .live => 2 | .size => 3

def voteOf (x : BitVec 2) : VoteOp :=
  match x.toNat with
  | 0 => .all | 1 => .any | 2 => .uni | _ => .ballot

/-- Operations of VOTE (R239). -/
def VoteOp.code : VoteOp → BitVec 2
  | .all => 0 | .any => 1 | .uni => 2 | .ballot => 3

def pickOf (x : BitVec 2) : PickMode :=
  match x.toNat with
  | 0 => .at | 1 => .below | 2 => .above | _ => .flip

/-- Modes of PICK (R239). -/
def PickMode.code : PickMode → BitVec 2
  | .at => 0 | .below => 1 | .above => 2 | .flip => 3

def redKindOf (x : BitVec 3) : Option RedKind :=
  match x.toNat with
  | 0 => some .add | 1 => some .min | 2 => some .max | 3 => some .and | 4 => some .or | 5 => some .xor | _ => none

/-- Operations of TRED and TSCAN (R239). -/
def RedKind.code : RedKind → BitVec 3
  | .add => 0 | .min => 1 | .max => 2 | .and => 3 | .or => 4 | .xor => 5

/-- The bitwise operations of TRED and TSCAN, which take ty = 0 only (R239). -/
def RedKind.bitwise : RedKind → Bool
  | .and => true | .or => true | .xor => true | .add => false | .min => false | .max => false

def redTyOf (x : BitVec 2) : Option RedTy :=
  match x.toNat with
  | 0 => some .i32 | 1 => some .n32 | 2 => some .f32 | _ => none

/-- Types of TRED and TSCAN (R239). -/
def RedTy.code : RedTy → BitVec 2
  | .i32 => 0 | .n32 => 1 | .f32 => 2

def barLevelOf (x : BitVec 2) : BarLevel :=
  match x.toNat with
  | 0 => .team | 1 => .clus | 2 => .die | _ => .pkg

/-- Levels of the barriers (R246). -/
def BarLevel.code : BarLevel → BitVec 2
  | .team => 0 | .clus => 1 | .die => 2 | .pkg => 3

def mfmtOf (x : BitVec 4) : Option MFmt :=
  match x.toNat with
  | 0 => some .e4m3 | 1 => some .e5m2 | 2 => some .e2m1 | 3 => some .bf16 | 4 => some .f16 | 5 => some .i8 | _ => none

/-- Formats FMT (R362). -/
def MFmt.code : MFmt → BitVec 4
  | .e4m3 => 0 | .e5m2 => 1 | .e2m1 => 2 | .bf16 => 3 | .f16 => 4 | .i8 => 5

/-- The format carries scales (R354, R362). -/
def MFmt.scaled : MFmt → Bool
  | .e4m3 => true | .e5m2 => true | .e2m1 => true | .bf16 => false | .f16 => false | .i8 => false

def ofmtOf (x : BitVec 3) : Option OFmt :=
  match x.toNat with
  | 0 => some .f32 | 1 => some .bf16 | 2 => some .f16 | 3 => some .e4m3 | 4 => some .e5m2 | _ => none

/-- Output formats (R362). -/
def OFmt.code : OFmt → BitVec 3
  | .f32 => 0 | .bf16 => 1 | .f16 => 2 | .e4m3 => 3 | .e5m2 => 4

def rowOpOf (x : BitVec 2) : Option RowOp :=
  match x.toNat with
  | 0 => some .max | 1 => some .sum | 2 => some .amax | _ => none

/-- Operations of MROW (R362). -/
def RowOp.code : RowOp → BitVec 2
  | .max => 0 | .sum => 1 | .amax => 2

def stRmOf (x : BitVec 3) : Option StRm :=
  match x.toNat with
  | 0 => some .dflt | 1 => some .rn | 2 => some .rz | 3 => some .ru | 4 => some .rd | _ => none

/-- RM of MACST (R363). -/
def StRm.code : StRm → BitVec 3
  | .dflt => 0 | .rn => 1 | .rz => 2 | .ru => 3 | .rd => 4

/-! ### Operand forms -/

/-- The register starts a set of n (1, 2, 4 or 8) registers (R69, R203). -/
def algn (n : Nat) (r : BitVec 11) : Bool := r.toNat % n == 0

/-- The alignment of a 32-bit or 64-bit operand. -/
def wAl (w64 : Bool) : Nat := if w64 then 2 else 1

/-- Answer x where the check holds, else IllegalEncoding. -/
def chk {α : Type} (b : Bool) (x : Option α) : Option α := if b then x else none

/-- Operand B under an extension word: CLS selects v or k (R73). -/
def extBOf (w64 : Bool) (b : BitVec 11) (cls : BitVec 2) : Option ExtB :=
  if cls = 0 then chk (algn (wAl w64) b) (some (.v b))
  else if cls = 1 then chk (decide (b.toNat < 64) && algn (wAl w64) b) (some (.k (b.setWidth 6)))
  else none

/-- The fields B and CLS of an operand B under an extension word. -/
def ExtB.enc : ExtB → BitVec 11 × BitVec 2
  | .v r => (r, 0)
  | .k i => (i.setWidth 11, 1)

/-- The alignment an operand B of the given width needs (R69, R73). -/
def ExtB.ok (w64 : Bool) : ExtB → Bool
  | .v r => algn (wAl w64) r
  | .k i => algn (wAl w64) (i.setWidth 11)

/-- Operand B as a value: v, literal, or v or k under an extension word with XMOD = 0 and C = 0 (R71 to R73). -/
def srcBOf (w64 : Bool) (f : Fields) : Option SrcB :=
  match f.t with
  | .none => chk (algn (wAl w64) f.b) (some (.reg f.b))
  | .lit w => chk (f.b == 0) (some (.lit w))
  | .ext xm cls c => chk (xm == 0 && c == 0)
      (match extBOf w64 f.b cls with
       | some (.v r) => some (.xreg r)
       | some (.k i) => some (.xk i)
       | none => none)

/-- The fields B and the third word of an operand B. -/
def SrcB.enc : SrcB → BitVec 11 × Third
  | .reg r => (r, .none)
  | .lit w => (0, .lit w)
  | .xreg r => (r, .ext 0 0 0)
  | .xk i => (i.setWidth 11, .ext 0 1 0)

/-- The alignment an operand B of the given width needs (R69, R73). -/
def SrcB.ok (w64 : Bool) : SrcB → Bool
  | .reg r => algn (wAl w64) r
  | .lit _ => true
  | .xreg r => algn (wAl w64) r
  | .xk i => algn (wAl w64) (i.setWidth 11)

/-- The form of a one-source instruction: S, or L with an all-zero extension word (R202). -/
def oneExtOf (f : Fields) : Option Bool :=
  match f.t with
  | .none => chk (f.b == 0) (some false)
  | .lit _ => none
  | .ext xm cls c => chk (f.b == 0 && xm == 0 && cls == 0 && c == 0) (some true)

/-- The third word of a one-source form. -/
def oneExtEnc (e : Bool) : Third := if e then .ext 0 0 0 else .none

/-- A two-source instruction with the alignments of D and A and the width of B. -/
def twoOf (dA aA : Nat) (b64 : Bool) (f : Fields) (k : Two → Option Instr) : Option Instr :=
  match srcBOf b64 f with
  | some b => chk (algn dA f.d && algn aA f.a) (k { h := f.h, d := f.d, a := f.a, b := b })
  | none => none

/-- The alignments of a two-source instruction. -/
def Two.ok (dA aA : Nat) (b64 : Bool) (o : Two) : Bool := algn dA o.d && algn aA o.a && o.b.ok b64

/-- The fields of a two-source instruction. -/
def Two.enc (o : Two) (opc : BitVec 10) (md : BitVec 8) : Fields :=
  { opc := opc, h := o.h, d := o.d, a := o.a, b := o.b.enc.1, md := md, t := o.b.enc.2 }

/-- A three-source instruction: an extension word is required (R92, R202). -/
def threeOf (al : Nat) (b64 : Bool) (cA : Nat) (f : Fields) (k : Three → BitVec 19 → Option Instr) : Option Instr :=
  match f.t with
  | .ext xm cls c =>
    match extBOf b64 f.b cls with
    | some b => chk (algn al f.d && algn (wAl b64) f.a && algn cA c) (k { h := f.h, d := f.d, a := f.a, b := b, c := c } xm)
    | none => none
  | .none => none
  | .lit _ => none

/-- The alignments of a three-source instruction. -/
def Three.ok (al : Nat) (b64 : Bool) (cA : Nat) (o : Three) : Bool :=
  algn al o.d && algn (wAl b64) o.a && o.b.ok b64 && algn cA o.c

/-- The fields of a three-source instruction. -/
def Three.enc (o : Three) (opc : BitVec 10) (md : BitVec 8) (xm : BitVec 19) : Fields :=
  { opc := opc, h := o.h, d := o.d, a := o.a, b := o.b.enc.1, md := md, t := .ext xm o.b.enc.2 o.c }

/-- A one-source instruction. -/
def oneOf (dA aA : Nat) (f : Fields) (k : One → Option Instr) : Option Instr :=
  match oneExtOf f with
  | some e => chk (algn dA f.d && algn aA f.a) (k { h := f.h, d := f.d, a := f.a, ext := e })
  | none => none

/-- The alignments of a one-source instruction. -/
def One.ok (dA aA : Nat) (o : One) : Bool := algn dA o.d && algn aA o.a

/-- The fields of a one-source instruction. -/
def One.enc (o : One) (opc : BitVec 10) (md : BitVec 8) : Fields :=
  { opc := opc, h := o.h, d := o.d, a := o.a, b := 0, md := md, t := oneExtEnc o.ext }

/-- The S form with no third word. -/
def isS (f : Fields) : Bool := f.t == .none

/-- The S form with B reserved. -/
def sB0 (f : Fields) : Bool := f.t == .none && f.b == 0

/-- The S form with D, A and B reserved. -/
def s000 (f : Fields) : Bool := f.t == .none && f.b == 0 && f.d == 0 && f.a == 0

/-- Plain fields of an S-form instruction. -/
def sEnc (opc : BitVec 10) (h : Hdr) (d a b : BitVec 11) (md : BitVec 8) : Fields :=
  { opc := opc, h := h, d := d, a := a, b := b, md := md, t := .none }

/-- Plain fields of an instruction with a value B. -/
def bEnc (opc : BitVec 10) (h : Hdr) (d a : BitVec 11) (b : SrcB) (md : BitVec 8) : Fields :=
  { opc := opc, h := h, d := d, a := a, b := b.enc.1, md := md, t := b.enc.2 }

/-- The two lowest bits of a branch offset are zero (R154). -/
def brOk (w : Word) : Bool := w.extractLsb' 0 2 == 0

/-- Memory forms an instruction accepts (R84, R272). -/
structure MemForms where
  base : Bool
  off : Bool
  idx : Bool
  post : Bool
  modl : Bool
deriving DecidableEq, Repr

/-- The memory operand of the fields (R84, R85); C must be zero but for CAS. -/
def memOf (m : MemForms) (cas : Bool) (f : Fields) : Option MemOp :=
  match f.t with
  | .none => chk (m.base && f.b == 0) (some .base)
  | .lit w => chk (m.off && f.b == 0) (some (.off w))
  | .ext xm cls c =>
    chk (cas || c == 0)
      (match (xm.extractLsb' 17 2).toNat with
       | 0 =>
         match extBOf false f.b cls with
         | some b => chk (m.idx && decide ((xm.extractLsb' 14 3).toNat ≤ 4) && xm.extractLsb' 0 14 == 0)
             (some (.index b (xm.extractLsb' 14 3)))
         | none => none
       | 1 => chk (m.post && f.b == 0 && cls == 0 && xm.extractLsb' 13 4 == 0) (some (.post (xm.extractLsb' 0 13)))
       | 2 => chk (m.modl && f.b == 0 && cls == 0) (some (.modulo (xm.extractLsb' 13 4) (xm.extractLsb' 0 13)))
       | _ => none)

/-- The fields B and the third word of a memory operand, with operand C (zero but for CAS). -/
def MemOp.enc (c : BitVec 11) : MemOp → BitVec 11 × Third
  | .base => (0, .none)
  | .off w => (0, .lit w)
  | .index b s => (b.enc.1, .ext (0#2 ++ s ++ 0#14) b.enc.2 c)
  | .post inc => (0, .ext (1#2 ++ 0#4 ++ inc) 0 c)
  | .modulo m inc => (0, .ext (2#2 ++ m ++ inc) 0 c)

/-- A memory operand an instruction accepts. -/
def MemOp.ok (m : MemForms) : MemOp → Bool
  | .base => m.base
  | .off _ => m.off
  | .index b s => m.idx && b.ok false && decide (s.toNat ≤ 4)
  | .post _ => m.post
  | .modulo _ _ => m.modl

/-- The operand updates its base register (R86). -/
def MemOp.updates : MemOp → Bool
  | .post _ => true | .modulo _ _ => true | .base => false | .off _ => false | .index _ _ => false

/-- Registers d to d + n − 1 and a to a + m − 1 share a register (R87). -/
def overlap (d n a m : Nat) : Bool := decide (d < a + m ∧ a < d + n)

/-- The forms of LD, ST, ATOM and RED (R272). -/
def ldForms : MemForms := ⟨true, true, true, true, false⟩
/-- The forms of LDS and STS (R272). -/
def ldsForms : MemForms := ⟨true, true, true, true, true⟩
/-- The forms of PFCH and CCTL (R272). -/
def pfForms : MemForms := ⟨true, true, true, false, false⟩
/-- The forms of CAS (R272). -/
def casForms : MemForms := ⟨false, false, true, true, false⟩
/-- The forms of KICK (R335). -/
def kickForms : MemForms := ⟨true, true, false, false, false⟩

/-- The memory fields of MOD: an option field, the order and the scope (R273). -/
def memIns (m : MemForms) (cas : Bool) (ok : Order → Bool) (f : Fields) (k : MemIns → Option Instr) : Option Instr :=
  match memOf m cas f, scopeOf (f.md.extractLsb' 0 3) with
  | some mo, some sc =>
    chk (ok (orderOf (f.md.extractLsb' 3 2)))
      (k { h := f.h, d := f.d, a := f.a, mem := mo, ord := orderOf (f.md.extractLsb' 3 2), scope := sc })
  | _, _ => none

/-- MOD of a memory instruction (R273). -/
def memMd (op : BitVec 3) (o : Order) (s : Scope) : BitVec 8 := op ++ o.code ++ s.code

/-- The fields of a memory instruction. -/
def MemIns.enc (m : MemIns) (opc : BitVec 10) (op : BitVec 3) (c : BitVec 11) : Fields :=
  { opc := opc, h := m.h, d := m.d, a := m.a, b := (m.mem.enc c).1, md := memMd op m.ord m.scope, t := (m.mem.enc c).2 }

/-- Orders of reads (R132). -/
def Order.read : Order → Bool
  | .rlx => true | .acq => true | .rel => false | .ar => false
/-- Orders of writes (R132). -/
def Order.write : Order → Bool
  | .rlx => true | .rel => true | .acq => false | .ar => false
/-- Orders of read-modify-writes (R132). -/
def Order.rmw : Order → Bool
  | .rlx => true | .acq => true | .rel => true | .ar => true

/-- The conditions on LD (R274, R275, R87). -/
def ldOk (m : MemIns) (ac : AccCode) : Bool :=
  algn ac.regs m.d && algn (wAl (!ac.isPrv)) m.a && (!ac.isPrv || m.ord == .rlx) &&
    (!m.mem.updates || !overlap m.d.toNat ac.regs m.a.toNat (wAl (!ac.isPrv)))
/-- The conditions on ST (R274, R275). -/
def stOk (m : MemIns) (ac : AccCode) : Bool :=
  algn ac.regs m.d && algn (wAl (!ac.isPrv)) m.a && (!ac.isPrv || m.ord == .rlx)
/-- The conditions on LDS (R274, R87). -/
def ldsOk (m : MemIns) (sc : SpCode) : Bool :=
  algn sc.regs m.d && (!m.mem.updates || !overlap m.d.toNat sc.regs m.a.toNat 1)
/-- The conditions on ATOM (R285, R87). -/
def atomOk (m : MemIns) (op : AtomOp) : Bool :=
  algn (wAl op.w64) m.d && algn 2 m.a && (!m.mem.updates || !overlap m.d.toNat (wAl op.w64) m.a.toNat 2)
/-- The conditions on CAS (R272, R87). -/
def casOk (m : MemIns) (w64 : Bool) (c : VReg) : Bool :=
  algn (wAl w64) m.d && algn 2 m.a && algn (2 * wAl w64) c &&
    (!m.mem.updates || !overlap m.d.toNat (wAl w64) m.a.toNat 2)

/-- The convergence field of XMOD (R363): CV in [18], CIDX in [17:14]; the other bits but RM are reserved. -/
def cvOf (xm : BitVec 19) : Option (Option (BitVec 4)) :=
  if xm.getLsbD 18 then some (some (xm.extractLsb' 14 4))
  else chk (xm.extractLsb' 14 4 == 0) (some none)

/-- XMOD of a convergence field and RM (R363). -/
def cvEnc (cv : Option (BitVec 4)) (rm : BitVec 3) : BitVec 19 :=
  match cv with
  | some n => 1#1 ++ n ++ 0#11 ++ rm
  | none => 0#1 ++ 0#4 ++ 0#11 ++ rm

/-- S form, or an extension word with a convergence field and B, CLS, C reserved (R362, R363). -/
def cvFormOf (f : Fields) : Option CvForm :=
  match f.t with
  | .none => chk (f.b == 0) (some .s)
  | .lit _ => none
  | .ext xm cls c =>
    chk (f.b == 0 && cls == 0 && c == 0 && xm.extractLsb' 0 14 == 0)
      (match cvOf xm with
       | some cv => some (.x cv)
       | none => none)

/-- The third word of a `CvForm`. -/
def CvForm.enc : CvForm → Third
  | .s => .none
  | .x cv => .ext (cvEnc cv 0) 0 0

/-- Operand B and the convergence field of MLDW, MLDWS and MACLD (R362, R363). -/
def cvSrcOf (f : Fields) : Option (SrcB × Option (BitVec 4)) :=
  match f.t with
  | .none => some (.reg f.b, none)
  | .lit w => chk (f.b == 0) (some (.lit w, none))
  | .ext xm cls c =>
    chk (c == 0 && xm.extractLsb' 0 14 == 0)
      (match extBOf false f.b cls, cvOf xm with
       | some (.v r), some cv => some (.xreg r, cv)
       | some (.k i), some cv => some (.xk i, cv)
       | _, _ => none)

/-- Fields B and the third word of an operand B with a convergence field. -/
def cvSrcEnc (b : SrcB) (cv : Option (BitVec 4)) : BitVec 11 × Third :=
  match b with
  | .reg r => (r, .none)
  | .lit w => (0, .lit w)
  | .xreg r => (r, .ext (cvEnc cv 0) 0 0)
  | .xk i => (i.setWidth 11, .ext (cvEnc cv 0) 1 0)

/-- A convergence field needs an extension word. -/
def cvSrcOk (b : SrcB) (cv : Option (BitVec 4)) : Bool :=
  match b with
  | .reg _ => cv == none
  | .lit _ => cv == none
  | .xreg _ => true
  | .xk _ => true

/-- The floating sign and rounding fields (R213). -/
def fmodsOf (md : BitVec 8) : FMods := { na := md.getLsbD 3, nb := md.getLsbD 4, aa := md.getLsbD 5, ab := md.getLsbD 6 }

/-- MOD of the sign fields above a 3-bit code (R213). -/
def FMods.enc (m : FMods) (rm : BitVec 3) : BitVec 8 :=
  0#1 ++ bit1 m.ab ++ bit1 m.aa ++ bit1 m.nb ++ bit1 m.na ++ rm

/-- A floating instruction's RM and sign fields. -/
def frmOf (md : BitVec 8) (k : FRm → Option Instr) : Option Instr :=
  match roundOf (md.extractLsb' 0 3) with
  | some r => chk (!md.getLsbD 7) (k { rm := r, m := fmodsOf md })
  | none => none

/-- MOD of `FRm`. -/
def FRm.enc (m : FRm) : BitVec 8 := m.m.enc m.rm.code

/-- NC and AC of FFMA and DFMA (R214). -/
def fcmOf (xm : BitVec 19) (k : FCm → Option Instr) : Option Instr :=
  chk (xm.extractLsb' 2 17 == 0) (k { nc := xm.getLsbD 0, ac := xm.getLsbD 1 })

/-- XMOD of `FCm`. -/
def FCm.enc (c : FCm) : BitVec 19 := 0#17 ++ bit1 c.ac ++ bit1 c.nc

/-- MOD of the integer instructions: SUB, CC, SAT, TY (R206). -/
def intMd (sub : Bool) (cc : BitVec 3) (sat : Bool) (ty : IntTy) : BitVec 8 :=
  0#1 ++ bit1 sub ++ cc ++ bit1 sat ++ ty.code

/-- Integer options without a condition: bits [7:3] zero. -/
def intOpt (md : BitVec 8) : Bool := md.extractLsb' 3 5 == 0

/-! ### Opcodes -/

/-- The sequencer instructions, 0x001 to 0x011 (R154). -/
def decSeq (f : Fields) : Option Instr :=
  match f.opc.toNat with
  | 0x001 => chk (s000 f && f.md == 0) (some (.nop f.h))
  | 0x002 => match f.t with
    | .lit w => chk (f.d == 0 && f.a == 0 && f.b == 0 && f.md == 0 && brOk w) (some (.bra f.h w))
    | .none => none
    | .ext _ _ _ => none
  | 0x003 => chk (sB0 f && f.d == 0 && f.md == 0 && algn 2 f.a) (some (.brx f.h f.a))
  | 0x004 => match f.t with
    | .lit w => chk (f.d == 0 && f.a == 0 && f.b == 0 && f.md == 0 && brOk w) (some (.call f.h w))
    | .none => none
    | .ext _ _ _ => none
  | 0x005 => chk (sB0 f && f.d == 0 && f.md == 0 && algn 2 f.a) (some (.callx f.h f.a))
  | 0x006 => chk (s000 f && f.md == 0) (some (.ret f.h))
  | 0x007 => chk (s000 f && f.md == 0) (some (.reform f.h))
  | 0x008 => chk (s000 f && f.md == 0) (some (.exit f.h))
  | 0x009 => chk (s000 f && f.md == 0) (some (.yield f.h))
  | 0x00A => match srcBOf false f with
    | some b => chk (f.d == 0 && f.a == 0 && f.md == 0) (some (.sleep f.h b))
    | none => none
  | 0x00B => chk (s000 f && f.md == 0) (some (.rgn f.h))
  | 0x00C => match srcBOf false f with
    | some b => chk (f.d == 0 && f.a == 0)
        (if f.md = 0 then some (.trap f.h b) else if f.md = 1 then some (.trapRgn f.h b) else none)
    | none => none
  | 0x00D =>
    if f.md = 0 then chk (s000 f) (some (.tret f.h))
    else if f.md = 1 then chk (s000 f) (some (.tretSkip f.h))
    else if f.md = 2 then chk (s000 f) (some (.tretRgn f.h))
    else if f.md = 3 then chk (sB0 f && f.a == 0 && algn 4 f.d) (some (.tretRd f.h f.d))
    else none
  | 0x00E => match srcBOf false f with
    | some b => chk (f.d == 0 && f.a == 0 && f.md == 0) (some (.bkpt f.h b))
    | none => none
  | 0x00F => match sregOf f.md with
    | some s => chk (sB0 f && f.a == 0 && algn s.regs f.d) (some (.gets f.h f.d s))
    | none => none
  | 0x010 => match sregOf f.md, srcBOf false f with
    | some s, some b => chk (s.settable && f.d == 0 && f.a == 0) (some (.sets f.h s b))
    | _, _ => none
  | 0x011 => match srcBOf false f with
    | some b => chk (f.a == 0)
        (if f.md = 0 then chk (decide (f.d.toNat < 64)) (some (.movk f.h (.k (f.d.setWidth 6)) b))
         else if f.md = 1 then chk (decide (f.d.toNat < 16)) (some (.movk f.h (.mb (f.d.setWidth 4)) b))
         else if f.md = 2 then chk (decide (f.d.toNat < 16)) (some (.movk f.h (.ml (f.d.setWidth 4)) b))
         else none)
    | none => none
  | _ => none

/-- The integer instructions, 0x080 to 0x08D (R206, R207). -/
def decInt (f : Fields) : Option Instr :=
  let ty := intTyOf (f.md.extractLsb' 0 2)
  let sat := f.md.getLsbD 2
  let w := wAl ty.w64
  match f.opc.toNat with
  | 0x080 => twoOf w w ty.w64 f fun o => chk (intOpt f.md) (some (.iadd o ty sat))
  | 0x081 => threeOf w ty.w64 w f fun o xm => chk (intOpt f.md && xm == 0) (some (.iadd3 o ty sat))
  | 0x082 => twoOf w w ty.w64 f fun o => chk (intOpt f.md) (some (.isub o ty sat))
  | 0x083 => twoOf w w ty.w64 f fun o => chk (intOpt f.md) (some (.imul o ty sat))
  | 0x084 => twoOf w w ty.w64 f fun o => chk (intOpt f.md && !sat) (some (.imulh o ty))
  | 0x085 => threeOf w ty.w64 w f fun o xm => chk (intOpt f.md && xm == 0) (some (.imad o ty sat))
  | 0x086 => threeOf 2 ty.w64 2 f fun o xm => chk (intOpt f.md && xm == 0 && !ty.w64) (some (.imadw o ty sat))
  | 0x087 => twoOf w w ty.w64 f fun o => chk (intOpt f.md && !sat) (some (.imin o ty))
  | 0x088 => twoOf w w ty.w64 f fun o => chk (intOpt f.md && !sat) (some (.imax o ty))
  | 0x089 => oneOf w w f fun o => chk (intOpt f.md && (ty == .i32 || ty == .i64)) (some (.iabs o ty sat))
  | 0x08A => oneOf w w f fun o => chk (intOpt f.md && (ty == .i32 || ty == .i64)) (some (.ineg o ty sat))
  | 0x08B => threeOf w ty.w64 w f fun o xm => chk (intOpt f.md && xm == 0 && !sat) (some (.isad o ty))
  | 0x08C => match icondOf (f.md.extractLsb' 3 3) with
    | some cc => twoOf 1 w ty.w64 f fun o =>
        chk (f.md.extractLsb' 6 2 == 0 && !sat && decide (f.d.toNat < 8)) (some (.icmp o cc ty))
    | none => none
  | 0x08D => twoOf w w ty.w64 f fun o =>
      chk (!f.md.getLsbD 7 && !sat && (ty == .i32 || ty == .i64))
        (some (.iaddc o (f.md.getLsbD 6) (f.md.extractLsb' 3 3) ty))
  | _ => none

/-- MOD holds W64 in bit 0 and nothing else. -/
def only0 (md : BitVec 8) : Bool := md.extractLsb' 1 7 == 0

/-- MOD of one option bit. -/
def md0 (b : Bool) : BitVec 8 := 0#7 ++ bit1 b

/-- The logic and bit-field instructions, 0x0C0 to 0x0D0 (R210). -/
def decLogic (f : Fields) : Option Instr :=
  let x := f.md.getLsbD 0
  let w := wAl x
  match f.opc.toNat with
  | 0x0C0 => twoOf w w x f fun o => chk (only0 f.md) (some (.and o x))
  | 0x0C1 => twoOf w w x f fun o => chk (only0 f.md) (some (.or o x))
  | 0x0C2 => twoOf w w x f fun o => chk (only0 f.md) (some (.xor o x))
  | 0x0C3 => oneOf w w f fun o => chk (only0 f.md) (some (.not o x))
  | 0x0C4 => match f.t with
    | .ext xm _ _ => threeOf (wAl (xm.getLsbD 8)) (xm.getLsbD 8) (wAl (xm.getLsbD 8)) f fun o xm =>
        chk (f.md == 0 && xm.extractLsb' 9 10 == 0) (some (.tern o (xm.extractLsb' 0 8) (xm.getLsbD 8)))
    | .none => none
    | .lit _ => none
  | 0x0C5 => twoOf w w false f fun o => chk (only0 f.md) (some (.shl o x))
  | 0x0C6 => twoOf w w false f fun o => chk (only0 f.md) (some (.shr o x))
  | 0x0C7 => twoOf w w false f fun o => chk (only0 f.md) (some (.sar o x))
  | 0x0C8 => twoOf w w false f fun o => chk (only0 f.md) (some (.rotl o x))
  | 0x0C9 => threeOf 1 false 1 f fun o xm => chk (f.md == 0 && xm == 0) (some (.fshl o))
  | 0x0CA => oneOf 1 w f fun o => chk (only0 f.md) (some (.popc o x))
  | 0x0CB => oneOf 1 w f fun o => chk (only0 f.md) (some (.clz o x))
  | 0x0CC => oneOf 1 w f fun o => chk (only0 f.md) (some (.ctz o x))
  | 0x0CD => oneOf w w f fun o => chk (only0 f.md) (some (.brev o x))
  | 0x0CE => twoOf 1 1 false f fun o => chk (only0 f.md) (some (.bfx o x))
  | 0x0CF => threeOf 1 false 1 f fun o xm => chk (f.md == 0 && xm == 0) (some (.bfi o))
  | 0x0D0 => threeOf 1 false 1 f fun o xm => chk (f.md == 0 && xm == 0) (some (.prmt o))
  | _ => none

/-- The move and predicate instructions, 0x100 to 0x107 (R212). -/
def decMove (f : Fields) : Option Instr :=
  match f.opc.toNat with
  | 0x100 => match movWOf (f.md.extractLsb' 0 2) with
    | some w => oneOf w.regs w.regs f fun o => chk (f.md.extractLsb' 2 6 == 0) (some (.mov o w))
    | none => none
  | 0x101 => match f.t, movlTyOf (f.md.extractLsb' 0 2) with
    | .lit w, some ty => chk (f.md.extractLsb' 2 6 == 0 && f.a == 0 && f.b == 0 && algn ty.regs f.d) (some (.movl f.h f.d w ty))
    | _, _ => none
  | 0x102 => let w := f.md.getLsbD 4
    twoOf (wAl w) (wAl w) w f fun o =>
      chk (f.md.extractLsb' 5 3 == 0) (some (.sel o (f.md.extractLsb' 0 3) (f.md.getLsbD 3) w))
  | 0x103 => let w := f.md.getLsbD 3
    twoOf (wAl w) (wAl w) false f fun o =>
      chk (f.md.extractLsb' 5 3 == 0) (some (.lea o (f.md.extractLsb' 0 3) w (f.md.getLsbD 4)))
  | 0x104 => let w := f.md.getLsbD 1
    twoOf 1 (wAl w) w f fun o =>
      chk (f.md.extractLsb' 2 6 == 0 && decide (f.d.toNat < 8)) (some (.pset o (f.md.getLsbD 0) w))
  | 0x105 => chk (isS f && f.md.extractLsb' 4 4 == 0 && decide (f.d.toNat < 8 ∧ f.a.toNat < 8 ∧ f.b.toNat < 8))
      (some (.plop f.h (f.d.setWidth 3) (f.a.setWidth 3) (f.b.setWidth 3) (f.md.extractLsb' 0 4)))
  | 0x106 => match oneExtOf f with
    | some e => chk (f.md == 0 && f.a == 0) (some (.p2v f.h f.d e))
    | none => none
  | 0x107 => match oneExtOf f with
    | some e => chk (!f.md.getLsbD 7 && f.d == 0) (some (.v2p f.h f.a (f.md.extractLsb' 0 7) e))
    | none => none
  | _ => none

/-- The FP32 and FP64 instructions, 0x180 to 0x189 and 0x1C0 to 0x1C5 (R213, R214). -/
def decFp (f : Fields) : Option Instr :=
  let rm0 := f.md.extractLsb' 0 3 == 0 && !f.md.getLsbD 7
  match f.opc.toNat with
  | 0x180 => twoOf 1 1 false f fun o => frmOf f.md fun m => some (.fadd o m)
  | 0x181 => twoOf 1 1 false f fun o => frmOf f.md fun m => some (.fmul o m)
  | 0x182 => threeOf 1 false 1 f fun o xm => frmOf f.md fun m => fcmOf xm fun c => some (.ffma o m c)
  | 0x183 => twoOf 1 1 false f fun o => chk rm0 (some (.fmin o (fmodsOf f.md)))
  | 0x184 => twoOf 1 1 false f fun o => chk rm0 (some (.fmax o (fmodsOf f.md)))
  | 0x185 => twoOf 1 1 false f fun o => chk (!f.md.getLsbD 7 && decide (f.d.toNat < 8))
      (some (.fcmp o (fcondOf (f.md.extractLsb' 0 3)) (fmodsOf f.md)))
  | 0x186 => oneOf 1 1 f fun o => chk (f.md == 0) (some (.fclass o))
  | 0x187 => match roundOf (f.md.extractLsb' 0 3) with
    | some r => oneOf 1 1 f fun o => chk (f.md.extractLsb' 3 5 == 0) (some (.frnd o r))
    | none => none
  | 0x188 => match roundOf (f.md.extractLsb' 0 3) with
    | some r => twoOf 1 1 false f fun o => chk (!f.md.getLsbD 4 && f.md.extractLsb' 6 2 == 0)
        (some (.fscale o r (f.md.getLsbD 3) (f.md.getLsbD 5)))
    | none => none
  | 0x189 => oneOf 1 1 f fun o => chk (only0 f.md) (some (.ffrexp o (f.md.getLsbD 0)))
  | 0x1C0 => twoOf 2 2 true f fun o => frmOf f.md fun m => some (.dadd o m)
  | 0x1C1 => twoOf 2 2 true f fun o => frmOf f.md fun m => some (.dmul o m)
  | 0x1C2 => threeOf 2 true 2 f fun o xm => frmOf f.md fun m => fcmOf xm fun c => some (.dfma o m c)
  | 0x1C3 => twoOf 2 2 true f fun o => chk rm0 (some (.dmin o (fmodsOf f.md)))
  | 0x1C4 => twoOf 2 2 true f fun o => chk rm0 (some (.dmax o (fmodsOf f.md)))
  | 0x1C5 => twoOf 1 2 true f fun o => chk (!f.md.getLsbD 7 && decide (f.d.toNat < 8))
      (some (.dcmp o (fcondOf (f.md.extractLsb' 0 3)) (fmodsOf f.md)))
  | _ => none

/-- MOD of the packed instructions (R219). -/
def packMd (nb na : Bool) (rm : BitVec 3) (bf : Bool) : BitVec 8 := 0#2 ++ bit1 nb ++ bit1 na ++ rm ++ bit1 bf

/-- The packed instructions, special functions, conversions and 0x2C0 to 0x2C3 (R219 to R229). -/
def decPacked (f : Fields) : Option Instr :=
  let bf := f.md.getLsbD 0
  let na := f.md.getLsbD 4
  let nb := f.md.getLsbD 5
  let hi := f.md.extractLsb' 6 2 == 0
  let rm := roundOf (f.md.extractLsb' 1 3)
  match f.opc.toNat with
  | 0x200 => match rm with
    | some r => twoOf 1 1 false f fun o => chk hi (some (.hadd2 o bf r na nb))
    | none => none
  | 0x201 => match rm with
    | some r => twoOf 1 1 false f fun o => chk hi (some (.hmul2 o bf r na nb))
    | none => none
  | 0x202 => match rm with
    | some r => threeOf 1 false 1 f fun o xm => chk (hi && xm.extractLsb' 1 18 == 0) (some (.hfma2 o bf r na nb (xm.getLsbD 0)))
    | none => none
  | 0x203 => twoOf 1 1 false f fun o => chk (hi && f.md.extractLsb' 1 3 == 0) (some (.hmin2 o bf na nb))
  | 0x204 => twoOf 1 1 false f fun o => chk (hi && f.md.extractLsb' 1 3 == 0) (some (.hmax2 o bf na nb))
  | 0x240 => oneOf 1 1 f fun o => chk (f.md == 0) (some (.rcp o))
  | 0x241 => oneOf 1 1 f fun o => chk (f.md == 0) (some (.rsq o))
  | 0x242 => oneOf 1 1 f fun o => chk (f.md == 0) (some (.sqrt o))
  | 0x243 => oneOf 1 1 f fun o => chk (f.md == 0) (some (.exp2 o))
  | 0x244 => oneOf 1 1 f fun o => chk (f.md == 0) (some (.log2 o))
  | 0x245 => oneOf 1 1 f fun o => chk (f.md == 0) (some (.sin o))
  | 0x246 => oneOf 1 1 f fun o => chk (f.md == 0) (some (.cos o))
  | 0x247 => oneOf 1 1 f fun o => chk (f.md == 0) (some (.tanh o))
  | _ => none

/-- MOD of CVTI (R222). -/
def cvtiMd (src : FName) (ty : IntTy) (rm : RoundCode) : BitVec 8 := 0#1 ++ src.code ++ ty.code ++ rm.code
/-- MOD of CVTF (R223). -/
def cvtfMd (src : CvtSrc) (dst : FName) (rm : RoundCode) : BitVec 8 := src.code ++ dst.code ++ rm.code
/-- MOD of CVTQ (R224). -/
def cvtqMd (sat : Bool) (fmt : QFmt) (rm : RoundCode) : BitVec 8 := 0#2 ++ bit1 sat ++ fmt.code ++ rm.code
/-- MOD of CVTP (R225). -/
def cvtpMd (op : CvtpOp) (rm : RoundCode) : BitVec 8 := 0#2 ++ op.code ++ rm.code

/-- The registers of A in CVTQ: a quad, or an octet for FP4 (R224). -/
def QFmt.regs : QFmt → Nat
  | .e4m3 => 4 | .e5m2 => 4 | .e2m1 => 8

/-- The two-source forms CVTP may take: B is reserved in the exact wide forms (R225). -/
def cvtpB (op : CvtpOp) (b : SrcB) : Bool := op.usesB || b == .reg 0 || b == .xreg 0

/-- Conversions and the hash family, 0x280 to 0x283 and 0x2C0 to 0x2C3 (R222 to R229). -/
def decConv (f : Fields) : Option Instr :=
  let rm := roundOf (f.md.extractLsb' 0 3)
  match f.opc.toNat with
  | 0x280 => match rm with
    | some r =>
      let src := fnameOf (f.md.extractLsb' 5 2)
      let ty := intTyOf (f.md.extractLsb' 3 2)
      oneOf (wAl ty.w64) (wAl src.w64) f fun o => chk (!f.md.getLsbD 7) (some (.cvti o src ty r))
    | none => none
  | 0x281 => match rm with
    | some r =>
      let src := cvtSrcOf (f.md.extractLsb' 5 3)
      let dst := fnameOf (f.md.extractLsb' 3 2)
      oneOf (wAl dst.w64) (wAl src.w64) f fun o => some (.cvtf o src dst r)
    | none => none
  | 0x282 => match rm, qfmtOf (f.md.extractLsb' 3 2) with
    | some r, some q => twoOf 1 q.regs false f fun o =>
        chk (f.md.extractLsb' 6 2 == 0) (some (.cvtq o q (f.md.getLsbD 5) r))
    | _, _ => none
  | 0x283 => match rm, cvtpOf (f.md.extractLsb' 3 3) with
    | some r, some op => twoOf op.dAlign 1 false f fun o =>
        chk (f.md.extractLsb' 6 2 == 0 && (op.packs || r == .fpctl) && cvtpB op o.b) (some (.cvtp o op r))
    | _, _ => none
  | 0x2C0 => let k := f.md.getLsbD 0
    let h := f.md.getLsbD 1
    twoOf (wAl h) (wAl k) false f fun o => chk (f.md.extractLsb' 2 6 == 0) (some (.hash o k h))
  | 0x2C1 => match crcWOf (f.md.extractLsb' 0 2) with
    | some w => twoOf 1 1 false f fun o => chk (f.md.extractLsb' 2 6 == 0) (some (.crc32c o w))
    | none => none
  | 0x2C2 => match oneExtOf f with
    | some e => chk (only0 f.md && f.a == 0 && algn (wAl (f.md.getLsbD 0)) f.d) (some (.rand f.h f.d (f.md.getLsbD 0) e))
    | none => none
  | 0x2C3 => oneOf 1 1 f fun o => chk (only0 f.md) (some (.spack o (f.md.getLsbD 0)))
  | _ => none

/-- TRED and TSCAN's MOD (R239). -/
def tredMd (op : RedKind) (ty : RedTy) (exc : Bool) : BitVec 8 := op.code ++ ty.code ++ bit1 exc ++ 0#2
/-- The MOD of a barrier instruction (R247). -/
def barMd (l : BarLevel) (i : BitVec 4) : BitVec 8 := 0#2 ++ l.code ++ i

/-- A barrier index exists at its level (R247). -/
def barOk (l : BarLevel) (i : BitVec 4) : Bool := l != .pkg || decide (i.toNat < 8)

/-- Lane exchange and barriers, 0x380 to 0x385 and 0x390 to 0x393 (R239, R247). -/
def decLane (f : Fields) : Option Instr :=
  let lvl := barLevelOf (f.md.extractLsb' 4 2)
  let idx := f.md.extractLsb' 0 4
  let bok := f.md.extractLsb' 6 2 == 0 && barOk lvl idx
  match f.opc.toNat with
  | 0x380 => let op := partOf (f.md.extractLsb' 0 2)
    chk (sB0 f && f.a == 0 && f.md.extractLsb' 2 6 == 0 && algn (wAl (op == .live)) f.d) (some (.part f.h op f.d))
  | 0x381 => match srcBOf true f with
    | some b => let op := voteOf (f.md.extractLsb' 0 2)
      chk (f.md.extractLsb' 3 5 == 0 && decide (f.a.toNat < 8) &&
          (if op = .ballot then algn 2 f.d else decide (f.d.toNat < 8)))
        (some (.vote f.h op (f.md.getLsbD 2) f.d (f.a.setWidth 3) b))
    | none => none
  | 0x382 => match srcBOf true f with
    | some b => let mode := pickOf (f.md.extractLsb' 6 2)
      chk ((mode != .at || (f.md.extractLsb' 0 6 == 0 && algn 2 f.a)))
        (some (.pick f.h mode (f.md.extractLsb' 0 6) f.d f.a b))
    | none => none
  | 0x383 => match srcBOf true f, redKindOf (f.md.extractLsb' 5 3), redTyOf (f.md.extractLsb' 3 2) with
    | some b, some op, some ty => chk (f.md.extractLsb' 0 3 == 0 && (!op.bitwise || ty == .i32))
        (some (.tred f.h op ty f.d f.a b))
    | _, _, _ => none
  | 0x384 => match srcBOf true f, redKindOf (f.md.extractLsb' 5 3), redTyOf (f.md.extractLsb' 3 2) with
    | some b, some op, some ty => chk (f.md.extractLsb' 0 2 == 0 && (!op.bitwise || ty == .i32))
        (some (.tscan f.h op ty (f.md.getLsbD 2) f.d f.a b))
    | _, _, _ => none
  | 0x385 => match srcBOf true f with
    | some b => chk (only0 f.md && algn 2 f.d && algn (wAl (f.md.getLsbD 0)) f.a)
        (some (.matchEq f.h (f.md.getLsbD 0) f.d f.a b))
    | none => none
  | 0x390 => chk (sB0 f && f.a == 0 && bok) (some (.barArv f.h lvl idx f.d))
  | 0x391 => chk (sB0 f && f.d == 0 && bok) (some (.barWait f.h lvl idx f.a))
  | 0x392 => chk (s000 f && bok) (some (.barSync f.h lvl idx))
  | 0x393 => chk (sB0 f && f.a == 0 && bok && algn 2 f.d) (some (.barQ f.h lvl idx f.d))
  | _ => none

/-- The launch instructions, 0x040 to 0x042 (R258). -/
def decLaunch (f : Fields) : Option Instr :=
  match f.opc.toNat with
  | 0x040 => match srcBOf false f with
    | some b => chk (f.md.extractLsb' 2 6 == 0 && algn 2 f.a)
        (some (.launch f.h (f.md.getLsbD 0) (f.md.getLsbD 1) f.d f.a b))
    | none => none
  | 0x041 => match srcBOf false f with
    | some b => chk (f.md == 0 && f.a == 0) (some (.qres f.h f.d b))
    | none => none
  | 0x042 => chk (s000 f && f.md == 0) (some (.qfree f.h))
  | _ => none

/-- The load-store instructions, 0x300 to 0x30C, and 0x360, 0x361 (R272 to R275, R285, R291, R294, R295). -/
def decMem (f : Fields) : Option Instr :=
  let op := f.md.extractLsb' 5 3
  match f.opc.toNat with
  | 0x300 => memIns ldForms false Order.read f fun m => chk (ldOk m (accOf op)) (some (.ld m (accOf op)))
  | 0x301 => memIns ldForms false Order.write f fun m => chk (stOk m (accOf op)) (some (.st m (accOf op)))
  | 0x302 => match spOf op with
    | some sc => memIns ldsForms false Order.read f fun m => chk (ldsOk m sc) (some (.lds m sc))
    | none => none
  | 0x303 => match spOf op with
    | some sc => memIns ldsForms false Order.write f fun m => chk (algn sc.regs m.d) (some (.sts m sc))
    | none => none
  | 0x304 => match memOf pfForms false f, scopeOf (f.md.extractLsb' 0 3), pfHintOf (f.md.extractLsb' 5 2) with
    | some mo, some sc, some hint => chk (f.d == 0 && f.md.extractLsb' 3 2 == 0 && algn 2 f.a)
        (some (.pfch f.h f.a mo (f.md.getLsbD 7) hint sc))
    | _, _, _ => none
  | 0x305 => match memOf pfForms false f, scopeOf (f.md.extractLsb' 0 3), cctlOf op with
    | some mo, some sc, some c => chk (f.d == 0 && f.md.extractLsb' 3 2 == 0 && algn 2 f.a) (some (.cctl f.h f.a mo c sc))
    | _, _, _ => none
  | 0x306 => chk (isS f && f.d == 0 && algn 2 f.a && f.md.extractLsb' 0 5 == 0 && !f.md.getLsbD 7)
      (some (.pin f.h f.a f.b (f.md.extractLsb' 5 2)))
  | 0x307 => chk (s000 f && f.md.extractLsb' 0 5 == 0 && !f.md.getLsbD 7) (some (.unpin f.h (f.md.extractLsb' 5 2)))
  | 0x308 => match scopeOf (f.md.extractLsb' 0 3), fenceOrderOf (f.md.extractLsb' 3 2) with
    | some sc, some o => chk (s000 f && op == 0) (some (.fence f.h o sc))
    | _, _ => none
  | 0x309 => memIns ldForms false Order.rmw f fun m => chk (atomOk m (atomOf op)) (some (.atom m (atomOf op)))
  | 0x30A => match f.t with
    | .ext _ _ c => memIns casForms true Order.rmw f fun m =>
        chk (casOk m (f.md.getLsbD 5) c && f.md.extractLsb' 6 2 == 0) (some (.cas m (f.md.getLsbD 5) c))
    | .none => none
    | .lit _ => none
  | 0x30B => memIns ldForms false Order.write f fun m =>
      chk (algn (wAl (redOf op).w64) m.d && algn 2 m.a) (some (.red m (redOf op)))
  | 0x30C => match scopeOf (f.md.extractLsb' 0 3) with
    | some sc => chk (isS f && algn 2 f.a && (orderOf (f.md.extractLsb' 3 2)).read)
        (some (.waitw f.h (wcondOf op) (orderOf (f.md.extractLsb' 3 2)) sc f.d f.a f.b))
    | none => none
  | 0x360 => chk (sB0 f && f.md == 0 && algn 4 f.d && algn 2 f.a) (some (.txq f.h f.d f.a))
  | 0x361 => chk (sB0 f && f.md == 0 && algn 4 f.d && algn 2 f.a) (some (.frq f.h f.d f.a))
  | _ => none

/-- The copy and binning instructions, 0x3E0 to 0x3E7 (R335). -/
def decCopy (f : Fields) : Option Instr :=
  match f.opc.toNat with
  | 0x3E0 => match memOf kickForms false f with
    | some mo => chk (f.d == 0 && f.md == 0) (some (.kick f.h f.a mo))
    | none => none
  | 0x3E1 => match srcBOf false f, scopeOf (f.md.extractLsb' 0 3) with
    | some b, some sc => chk (f.d == 0 && f.md.extractLsb' 3 5 == 0) (some (.landi f.h sc f.a b))
    | _, _ => none
  | 0x3E2 => match srcBOf false f with
    | some b => chk (f.md == 0 && algn 2 f.d) (some (.lwait f.h f.d f.a b))
    | none => none
  | 0x3E3 => match srcBOf false f with
    | some b => chk (f.md == 0 && algn 2 f.d) (some (.lpoll f.h f.d f.a b))
    | none => none
  | 0x3E4 => match srcBOf false f with
    | some b => chk (f.md == 0) (some (.binc f.h f.d f.a b))
    | none => none
  | 0x3E5 => chk (sB0 f && f.d == 0 && f.md.extractLsb' 4 4 == 0) (some (.bhold f.h (f.md.extractLsb' 0 4) f.a))
  | 0x3E6 => match srcBOf false f with
    | some b => chk (only0 f.md && f.d == 0 && f.a == 0) (some (.brel f.h (f.md.getLsbD 0) b))
    | none => none
  | 0x3E7 => chk (sB0 f && f.a == 0 && f.md == 0 && algn 4 f.d) (some (.cpyq f.h f.d))
  | _ => none

/-- MOD of MLDW, MMA and MGMM: option bits [7:6], NS, E, FMT (R362). -/
def mmaMd (top : BitVec 2) (ns e : Bool) (fmt : MFmt) : BitVec 8 := top ++ bit1 ns ++ bit1 e ++ fmt.code
/-- MOD of an engine bit [4] over four option bits (R362). -/
def eMd (e : Bool) (lo : BitVec 4) : BitVec 8 := 0#3 ++ bit1 e ++ lo
/-- MOD of MACST (R362). -/
def macstMd (clr sat e sx : Bool) (o : OFmt) : BitVec 8 := 0#1 ++ bit1 clr ++ bit1 sat ++ bit1 e ++ bit1 sx ++ o.code

/-- The operand that carries scales is used (R362). -/
def scaleUsed (fmt : MFmt) (ns : Bool) : Bool := fmt.scaled && !ns

/-- Extension operands of MMA, MGMM and MACST: B, C and XMOD (R362, R363). -/
def mExtOf (f : Fields) (k : ExtB → BitVec 11 → BitVec 19 → Option Instr) : Option Instr :=
  match f.t with
  | .ext xm cls c =>
    match extBOf false f.b cls with
    | some b => k b c xm
    | none => none
  | .none => none
  | .lit _ => none

/-- The matrix instructions, CVSET and SIGN (R362, R363). That MWAIT without CV needs MOD[3:0] = 0 is the model's (log 85). -/
def decMat (f : Fields) : Option Instr :=
  let e := f.md.getLsbD 4
  let ns := f.md.getLsbD 5
  let fmt := mfmtOf (f.md.extractLsb' 0 4)
  let top := f.md.extractLsb' 5 3 == 0
  match f.opc.toNat with
  | 0x3C0 => match fmt, cvSrcOf f with
    | some m, some (b, cv) => chk (f.md.extractLsb' 6 2 == 0 && (!ns || m.scaled) && (scaleUsed m ns || f.d == 0))
        (some (.mldw f.h m ns e f.d f.a b cv))
    | _, _ => none
  | 0x3C1 => match cvSrcOf f with
    | some (b, cv) => chk (top && f.md.extractLsb' 1 3 == 0) (some (.mldws f.h (f.md.getLsbD 0) e f.d f.a b cv))
    | none => none
  | 0x3C2 => match cvFormOf f with
    | some x => chk (top && f.md.extractLsb' 0 4 == 0 && f.d == 0 && f.a == 0) (some (.mswap f.h e x))
    | none => none
  | 0x3C3 => match fmt with
    | some m => mExtOf f fun b c xm =>
        match cvOf xm with
        | some cv => chk (!f.md.getLsbD 7 && (!ns || m.scaled) && (scaleUsed m ns || c == 0) && xm.extractLsb' 0 14 == 0)
            (some (.mma f.h m ns (f.md.getLsbD 6) e f.d f.a b c cv))
        | none => none
    | none => none
  | 0x3C4 => match fmt with
    | some m => mExtOf f fun b c xm =>
        match cvOf xm with
        | some cv => chk (!f.md.getLsbD 7 && (!ns || m.scaled) && (scaleUsed m ns || c == 0) && xm.extractLsb' 0 14 == 0 &&
              algn 2 f.d)
            (some (.mgmm f.h m ns (f.md.getLsbD 6) e f.d f.a b c cv))
        | none => none
    | none => none
  | 0x3C5 => match cvFormOf f with
    | some x => chk (top && f.md.extractLsb' 0 4 == 0 && f.a == 0) (some (.mclr f.h e f.d x))
    | none => none
  | 0x3C6 => match cvSrcOf f with
    | some (b, cv) => chk (top && f.md.extractLsb' 1 3 == 0) (some (.macld f.h (f.md.getLsbD 0) e f.d f.a b cv))
    | none => none
  | 0x3C7 => match ofmtOf (f.md.extractLsb' 0 3) with
    | some o => mExtOf f fun b c xm =>
        match cvOf xm, stRmOf (xm.extractLsb' 0 3) with
        | some cv, some rm => chk (!f.md.getLsbD 7 && xm.extractLsb' 3 11 == 0 && (f.md.getLsbD 3 || c == 0) &&
              !(f.md.getLsbD 5 && o == .f32))
            (some (.macst f.h o (f.md.getLsbD 3) e (f.md.getLsbD 5) (f.md.getLsbD 6) f.d f.a b c cv rm))
        | _, _ => none
    | none => none
  | 0x3C8 => match f.t, srcBOf false f with
    | .lit _, _ => none
    | _, some b => chk (top && f.md.extractLsb' 0 4 == 0 && algn 4 f.d) (some (.macrd f.h e f.d f.a b))
    | _, none => none
  | 0x3C9 => match cvFormOf f, rowOpOf (f.md.extractLsb' 0 2) with
    | some x, some op => chk (top && !f.md.getLsbD 3) (some (.mrow f.h op (f.md.getLsbD 2) e f.d f.a x))
    | _, _ => none
  | 0x3CA => chk (s000 f && f.md == 0) (some (.mfence f.h))
  | 0x3CB =>
    if f.md.getLsbD 5 then
      match srcBOf false f with
      | some b => chk (f.md.extractLsb' 6 2 == 0 && f.d == 0 && f.a == 0) (some (.mwaitCv f.h e (f.md.extractLsb' 0 4) b))
      | none => none
    else chk (s000 f && f.md.extractLsb' 6 2 == 0 && f.md.extractLsb' 0 4 == 0) (some (.mwait f.h e))
  | 0x3CC => chk (sB0 f && f.a == 0 && top && f.md.extractLsb' 1 3 == 0 && algn 4 f.d) (some (.mqry f.h (f.md.getLsbD 0) e f.d))
  | 0x3A0 => match srcBOf false f with
    | some b => chk (f.md == 0 && f.a == 0 && decide (f.d.toNat < 16)) (some (.cvset f.h (f.d.setWidth 4) b))
    | none => none
  | 0x3A1 => chk (sB0 f && f.md == 0 && decide (f.a.toNat < 16)) (some (.sign f.h f.d (f.a.setWidth 4)))
  | _ => none

/-- The opcodes R91 assigns. -/
def assigned (n : Nat) : Bool :=
  decide (0x001 ≤ n ∧ n ≤ 0x011) || decide (0x040 ≤ n ∧ n ≤ 0x042) || decide (0x080 ≤ n ∧ n ≤ 0x08D) ||
  decide (0x0C0 ≤ n ∧ n ≤ 0x0D0) || decide (0x100 ≤ n ∧ n ≤ 0x107) || decide (0x180 ≤ n ∧ n ≤ 0x189) ||
  decide (0x1C0 ≤ n ∧ n ≤ 0x1C5) || decide (0x200 ≤ n ∧ n ≤ 0x204) || decide (0x240 ≤ n ∧ n ≤ 0x247) ||
  decide (0x280 ≤ n ∧ n ≤ 0x283) || decide (0x2C0 ≤ n ∧ n ≤ 0x2C3) || decide (0x300 ≤ n ∧ n ≤ 0x30C) ||
  decide (0x360 ≤ n ∧ n ≤ 0x361) || decide (0x380 ≤ n ∧ n ≤ 0x385) || decide (0x390 ≤ n ∧ n ≤ 0x393) ||
  decide (0x3A0 ≤ n ∧ n ≤ 0x3A1) || decide (0x3C0 ≤ n ∧ n ≤ 0x3CC) || decide (0x3E0 ≤ n ∧ n ≤ 0x3E7)

/-- The guard p7 negated is no guard (R67). -/
def guardOk (h : Hdr) : Bool := !(h.gp == 7 && h.gn)

/-- The instruction in the fields of an assigned opcode, none where it is IllegalEncoding (R94). -/
def decFields (f : Fields) : Option Instr :=
  chk (guardOk f.h)
    (match (f.opc.extractLsb' 6 4).toNat with
     | 0x0 => decSeq f
     | 0x1 => decLaunch f
     | 0x2 => decInt f
     | 0x3 => decLogic f
     | 0x4 => decMove f
     | 0x6 => decFp f
     | 0x7 => decFp f
     | 0x8 => decPacked f
     | 0x9 => decPacked f
     | 0xA => decConv f
     | 0xB => decConv f
     | 0xC => decMem f
     | 0xD => decMem f
     | 0xE => if f.opc = 0x3A0 ∨ f.opc = 0x3A1 then decMat f else decLane f
     | 0xF => if f.opc.toNat < 0x3E0 then decMat f else decCopy f
     | _ => none)

/-! ### The C form -/

/-- A two-source C-form instruction. -/
def cTwo (w : Word) (k : CTwo → Instr) : Option Instr :=
  chk (!w.getLsbD 13)
    (some (k { gp := w.extractLsb' 10 3, d := w.extractLsb' 14 6, a := w.extractLsb' 20 6, b := w.extractLsb' 26 6 }))

/-- A one-source C-form instruction, with B reserved (R76). -/
def cOne (w : Word) (k : COne → Instr) : Option Instr :=
  chk (!w.getLsbD 13 && w.extractLsb' 26 6 == 0)
    (some (k { gp := w.extractLsb' 10 3, d := w.extractLsb' 14 6, a := w.extractLsb' 20 6 }))

/-- The short opcodes of R93 with the C-form instruction; the outer none is IllegalOpcode, the inner one
IllegalEncoding. -/
def decShort (w : Word) : Option (Option Instr) :=
  match (w.extractLsb' 2 8).toNat with
  | 0x01 => some (cTwo w .iaddC)
  | 0x02 => some (cTwo w .isubC)
  | 0x03 => some (cTwo w .imulC)
  | 0x04 => some (cTwo w .iminI32C)
  | 0x05 => some (cTwo w .iminN32C)
  | 0x06 => some (cTwo w .imaxI32C)
  | 0x07 => some (cTwo w .imaxN32C)
  | 0x08 => some (cOne w .iabsC)
  | 0x09 => some (cOne w .inegC)
  | 0x0A => some (cTwo w .imulhI32C)
  | 0x0B => some (cTwo w .imulhN32C)
  | 0x0C => some (cTwo w .iaddSatI32C)
  | 0x0D => some (cTwo w .isubSatI32C)
  | 0x0E => some (cTwo w .iaddSatN32C)
  | 0x0F => some (cTwo w .isubSatN32C)
  | 0x10 => some (cTwo w .andC)
  | 0x11 => some (cTwo w .orC)
  | 0x12 => some (cTwo w .xorC)
  | 0x13 => some (cOne w .notC)
  | 0x14 => some (cTwo w .shlC)
  | 0x15 => some (cTwo w .shrC)
  | 0x16 => some (cTwo w .sarC)
  | 0x17 => some (cTwo w .rotlC)
  | 0x18 => some (cOne w .popcC)
  | 0x19 => some (cOne w .clzC)
  | 0x1A => some (cOne w .ctzC)
  | 0x1B => some (cOne w .brevC)
  | 0x20 => some (cOne w .movC)
  | 0x28 => some (cTwo w .faddC)
  | 0x29 => some (cTwo w .fmulC)
  | 0x2A => some (cTwo w .fminC)
  | 0x2B => some (cTwo w .fmaxC)
  | 0x2C => some (cTwo w .fscaleC)
  | 0x2D => some (cOne w .frndRnC)
  | 0x30 => some (cTwo w .hadd2F16C)
  | 0x31 => some (cTwo w .hmul2F16C)
  | 0x32 => some (cTwo w .hmin2F16C)
  | 0x33 => some (cTwo w .hmax2F16C)
  | 0x34 => some (cTwo w .hadd2Bf16C)
  | 0x35 => some (cTwo w .hmul2Bf16C)
  | 0x36 => some (cTwo w .hmin2Bf16C)
  | 0x37 => some (cTwo w .hmax2Bf16C)
  | 0x38 => some (cOne w .cvtfF32I32C)
  | 0x39 => some (cOne w .cvtfF32N32C)
  | 0x3A => some (cOne w .cvtiI32F32RzC)
  | 0x3B => some (cOne w .cvtiN32F32RzC)
  | 0x3C => some (cTwo w .crc32cC)
  | _ => none

/-- The word of a two-source C-form instruction (R75). -/
def cTwoEnc (sopc : BitVec 8) (c : CTwo) : Word := c.b ++ c.a ++ c.d ++ 0#1 ++ c.gp ++ sopc ++ 0#2
/-- The word of a one-source C-form instruction (R75). -/
def cOneEnc (sopc : BitVec 8) (c : COne) : Word := 0#6 ++ c.a ++ c.d ++ 0#1 ++ c.gp ++ sopc ++ 0#2

/-! ### Whole words -/

/-- The instruction that words w0, w1, w2 (as many as its length) decode to. A pattern that is no instruction decodes to
the row that faults with its first fault (R94, R95). -/
def decode (w0 w1 w2 : Word) : Instr :=
  if w0.extractLsb' 0 2 = 0b00#2 then
    match decShort w0 with
    | none => .nonInstructionEncoding .illegalOpcode 1
    | some none => .nonInstructionEncoding .illegalEncoding 1
    | some (some i) => i
  else if w0.extractLsb' 0 2 = 0b11#2 then .nonInstructionEncoding .illegalEncoding 1
  else
    let s := w0.extractLsb' 0 2 = 0b01#2
    let v : BitVec 64 := w1 ++ w0
    let x := v.getLsbD 63
    let f := unpackTwo v (if s then .none else thirdOf x w2)
    if !assigned f.opc.toNat then .nonInstructionEncoding .illegalOpcode (lenOf w0)
    else if s ∧ x then .nonInstructionEncoding .illegalEncoding (lenOf w0)
    else
      match decFields f with
      | some i => i
      | none => .nonInstructionEncoding .illegalEncoding (lenOf w0)

/-- The instruction my decoder reads from bits numbered as the opcode table numbers them; none where it refuses. -/
def decodeTableWord (_nbits w : Nat) : Option Instr :=
  match decode (BitVec.ofNat 32 w) (BitVec.ofNat 32 (w / 2 ^ 32)) (BitVec.ofNat 32 (w / 2 ^ 64)) with
  | .nonInstructionEncoding _ _ => none
  | i => some i

/-! ### The encoder -/

/-- The fields of an S-form or L-form instruction; none for C forms and for rows that are not instructions. -/
def encFields : Instr → Option Fields
  | .nop h => some (sEnc 0x001 h 0 0 0 0)
  | .bra h w => some { opc := 0x002, h := h, d := 0, a := 0, b := 0, md := 0, t := .lit w }
  | .brx h a => some (sEnc 0x003 h 0 a 0 0)
  | .call h w => some { opc := 0x004, h := h, d := 0, a := 0, b := 0, md := 0, t := .lit w }
  | .callx h a => some (sEnc 0x005 h 0 a 0 0)
  | .ret h => some (sEnc 0x006 h 0 0 0 0)
  | .reform h => some (sEnc 0x007 h 0 0 0 0)
  | .exit h => some (sEnc 0x008 h 0 0 0 0)
  | .yield h => some (sEnc 0x009 h 0 0 0 0)
  | .sleep h b => some (bEnc 0x00A h 0 0 b 0)
  | .rgn h => some (sEnc 0x00B h 0 0 0 0)
  | .trap h b => some (bEnc 0x00C h 0 0 b 0)
  | .trapRgn h b => some (bEnc 0x00C h 0 0 b 1)
  | .tret h => some (sEnc 0x00D h 0 0 0 0)
  | .tretSkip h => some (sEnc 0x00D h 0 0 0 1)
  | .tretRgn h => some (sEnc 0x00D h 0 0 0 2)
  | .tretRd h d => some (sEnc 0x00D h d 0 0 3)
  | .bkpt h b => some (bEnc 0x00E h 0 0 b 0)
  | .gets h d s => some (sEnc 0x00F h d 0 0 s.code)
  | .sets h s b => some (bEnc 0x010 h 0 0 b s.code)
  | .movk h (.k i) b => some (bEnc 0x011 h (i.setWidth 11) 0 b 0)
  | .movk h (.mb i) b => some (bEnc 0x011 h (i.setWidth 11) 0 b 1)
  | .movk h (.ml i) b => some (bEnc 0x011 h (i.setWidth 11) 0 b 2)
  | .iadd o ty sat => some (o.enc 0x080 (intMd false 0 sat ty))
  | .iadd3 o ty sat => some (o.enc 0x081 (intMd false 0 sat ty) 0)
  | .isub o ty sat => some (o.enc 0x082 (intMd false 0 sat ty))
  | .imul o ty sat => some (o.enc 0x083 (intMd false 0 sat ty))
  | .imulh o ty => some (o.enc 0x084 (intMd false 0 false ty))
  | .imad o ty sat => some (o.enc 0x085 (intMd false 0 sat ty) 0)
  | .imadw o ty sat => some (o.enc 0x086 (intMd false 0 sat ty) 0)
  | .imin o ty => some (o.enc 0x087 (intMd false 0 false ty))
  | .imax o ty => some (o.enc 0x088 (intMd false 0 false ty))
  | .iabs o ty sat => some (o.enc 0x089 (intMd false 0 sat ty))
  | .ineg o ty sat => some (o.enc 0x08A (intMd false 0 sat ty))
  | .isad o ty => some (o.enc 0x08B (intMd false 0 false ty) 0)
  | .icmp o cc ty => some (o.enc 0x08C (intMd false cc.code false ty))
  | .iaddc o sub p ty => some (o.enc 0x08D (intMd sub p false ty))
  | .and o w => some (o.enc 0x0C0 (md0 w))
  | .or o w => some (o.enc 0x0C1 (md0 w))
  | .xor o w => some (o.enc 0x0C2 (md0 w))
  | .not o w => some (o.enc 0x0C3 (md0 w))
  | .tern o tbl w => some (o.enc 0x0C4 0 (0#10 ++ bit1 w ++ tbl))
  | .shl o w => some (o.enc 0x0C5 (md0 w))
  | .shr o w => some (o.enc 0x0C6 (md0 w))
  | .sar o w => some (o.enc 0x0C7 (md0 w))
  | .rotl o w => some (o.enc 0x0C8 (md0 w))
  | .fshl o => some (o.enc 0x0C9 0 0)
  | .popc o w => some (o.enc 0x0CA (md0 w))
  | .clz o w => some (o.enc 0x0CB (md0 w))
  | .ctz o w => some (o.enc 0x0CC (md0 w))
  | .brev o w => some (o.enc 0x0CD (md0 w))
  | .bfx o sx => some (o.enc 0x0CE (md0 sx))
  | .bfi o => some (o.enc 0x0CF 0 0)
  | .prmt o => some (o.enc 0x0D0 0 0)
  | .mov o w => some (o.enc 0x100 (0#6 ++ w.code))
  | .movl h d w ty => some { opc := 0x101, h := h, d := d, a := 0, b := 0, md := 0#6 ++ ty.code, t := .lit w }
  | .sel o p neg w => some (o.enc 0x102 (0#3 ++ bit1 w ++ bit1 neg ++ p))
  | .lea o s w zx => some (o.enc 0x103 (0#3 ++ bit1 zx ++ bit1 w ++ s))
  | .pset o z w => some (o.enc 0x104 (0#6 ++ bit1 w ++ bit1 z))
  | .plop h d a b lut => some (sEnc 0x105 h (d.setWidth 11) (a.setWidth 11) (b.setWidth 11) (0#4 ++ lut))
  | .p2v h d e => some { opc := 0x106, h := h, d := d, a := 0, b := 0, md := 0, t := oneExtEnc e }
  | .v2p h a m e => some { opc := 0x107, h := h, d := 0, a := a, b := 0, md := 0#1 ++ m, t := oneExtEnc e }
  | .fadd o m => some (o.enc 0x180 m.enc)
  | .fmul o m => some (o.enc 0x181 m.enc)
  | .ffma o m c => some (o.enc 0x182 m.enc c.enc)
  | .fmin o m => some (o.enc 0x183 (m.enc 0))
  | .fmax o m => some (o.enc 0x184 (m.enc 0))
  | .fcmp o cc m => some (o.enc 0x185 (m.enc cc.code))
  | .fclass o => some (o.enc 0x186 0)
  | .frnd o rm => some (o.enc 0x187 (0#5 ++ rm.code))
  | .fscale o rm na aa => some (o.enc 0x188 (0#2 ++ bit1 aa ++ 0#1 ++ bit1 na ++ rm.code))
  | .ffrexp o e => some (o.enc 0x189 (md0 e))
  | .dadd o m => some (o.enc 0x1C0 m.enc)
  | .dmul o m => some (o.enc 0x1C1 m.enc)
  | .dfma o m c => some (o.enc 0x1C2 m.enc c.enc)
  | .dmin o m => some (o.enc 0x1C3 (m.enc 0))
  | .dmax o m => some (o.enc 0x1C4 (m.enc 0))
  | .dcmp o cc m => some (o.enc 0x1C5 (m.enc cc.code))
  | .hadd2 o bf rm na nb => some (o.enc 0x200 (packMd nb na rm.code bf))
  | .hmul2 o bf rm na nb => some (o.enc 0x201 (packMd nb na rm.code bf))
  | .hfma2 o bf rm na nb nc => some (o.enc 0x202 (packMd nb na rm.code bf) (0#18 ++ bit1 nc))
  | .hmin2 o bf na nb => some (o.enc 0x203 (packMd nb na 0 bf))
  | .hmax2 o bf na nb => some (o.enc 0x204 (packMd nb na 0 bf))
  | .rcp o => some (o.enc 0x240 0)
  | .rsq o => some (o.enc 0x241 0)
  | .sqrt o => some (o.enc 0x242 0)
  | .exp2 o => some (o.enc 0x243 0)
  | .log2 o => some (o.enc 0x244 0)
  | .sin o => some (o.enc 0x245 0)
  | .cos o => some (o.enc 0x246 0)
  | .tanh o => some (o.enc 0x247 0)
  | .cvti o src ty rm => some (o.enc 0x280 (cvtiMd src ty rm))
  | .cvtf o src dst rm => some (o.enc 0x281 (cvtfMd src dst rm))
  | .cvtq o fmt sat rm => some (o.enc 0x282 (cvtqMd sat fmt rm))
  | .cvtp o op rm => some (o.enc 0x283 (cvtpMd op rm))
  | .hash o k h => some (o.enc 0x2C0 (0#6 ++ bit1 h ++ bit1 k))
  | .crc32c o w => some (o.enc 0x2C1 (0#6 ++ w.code))
  | .rand h d b e => some { opc := 0x2C2, h := h, d := d, a := 0, b := 0, md := md0 b, t := oneExtEnc e }
  | .spack o e => some (o.enc 0x2C3 (md0 e))
  | .part h op d => some (sEnc 0x380 h d 0 0 (0#6 ++ op.code))
  | .vote h op neg d p b => some (bEnc 0x381 h d (p.setWidth 11) b (0#5 ++ bit1 neg ++ op.code))
  | .pick h mode delta d a b => some (bEnc 0x382 h d a b (mode.code ++ delta))
  | .tred h op ty d a b => some (bEnc 0x383 h d a b (tredMd op ty false))
  | .tscan h op ty exc d a b => some (bEnc 0x384 h d a b (tredMd op ty exc))
  | .matchEq h w d a b => some (bEnc 0x385 h d a b (md0 w))
  | .barArv h l i d => some (sEnc 0x390 h d 0 0 (barMd l i))
  | .barWait h l i a => some (sEnc 0x391 h 0 a 0 (barMd l i))
  | .barSync h l i => some (sEnc 0x392 h 0 0 0 (barMd l i))
  | .barQ h l i d => some (sEnc 0x393 h d 0 0 (barMd l i))
  | .launch h sys res d a b => some (bEnc 0x040 h d a b (0#6 ++ bit1 res ++ bit1 sys))
  | .qres h d b => some (bEnc 0x041 h d 0 b 0)
  | .qfree h => some (sEnc 0x042 h 0 0 0 0)
  | .ld m ac => some (m.enc 0x300 ac.code 0)
  | .st m ac => some (m.enc 0x301 ac.code 0)
  | .lds m sc => some (m.enc 0x302 sc.code 0)
  | .sts m sc => some (m.enc 0x303 sc.code 0)
  | .pfch h a mo ex hint sc => some { opc := 0x304, h := h, d := 0, a := a, b := (mo.enc 0).1, md := bit1 ex ++ hint.code ++ 0#2 ++ sc.code, t := (mo.enc 0).2 }
  | .cctl h a mo op sc => some { opc := 0x305, h := h, d := 0, a := a, b := (mo.enc 0).1, md := op.code ++ 0#2 ++ sc.code, t := (mo.enc 0).2 }
  | .pin h a b i => some (sEnc 0x306 h 0 a b (0#1 ++ i ++ 0#5))
  | .unpin h i => some (sEnc 0x307 h 0 0 0 (0#1 ++ i ++ 0#5))
  | .fence h o sc => some (sEnc 0x308 h 0 0 0 (0#3 ++ o.code ++ sc.code))
  | .atom m op => some (m.enc 0x309 op.code 0)
  | .cas m w c => some (m.enc 0x30A (0#2 ++ bit1 w) c)
  | .red m op => some (m.enc 0x30B op.code 0)
  | .waitw h cond o sc d a b => some (sEnc 0x30C h d a b (memMd cond.code o sc))
  | .txq h d a => some (sEnc 0x360 h d a 0 0)
  | .frq h d a => some (sEnc 0x361 h d a 0 0)
  | .kick h a mo => some { opc := 0x3E0, h := h, d := 0, a := a, b := (mo.enc 0).1, md := 0, t := (mo.enc 0).2 }
  | .landi h sc a b => some (bEnc 0x3E1 h 0 a b (0#5 ++ sc.code))
  | .lwait h d a b => some (bEnc 0x3E2 h d a b 0)
  | .lpoll h d a b => some (bEnc 0x3E3 h d a b 0)
  | .binc h d a b => some (bEnc 0x3E4 h d a b 0)
  | .bhold h i a => some (sEnc 0x3E5 h 0 a 0 (0#4 ++ i))
  | .brel h clr b => some (bEnc 0x3E6 h 0 0 b (md0 clr))
  | .cpyq h d => some (sEnc 0x3E7 h d 0 0 0)
  | .mldw h fmt ns e d a b cv => some { opc := 0x3C0, h := h, d := d, a := a, b := (cvSrcEnc b cv).1, md := mmaMd 0 ns e fmt, t := (cvSrcEnc b cv).2 }
  | .mldws h e5 e d a b cv => some { opc := 0x3C1, h := h, d := d, a := a, b := (cvSrcEnc b cv).1, md := eMd e (0#3 ++ bit1 e5), t := (cvSrcEnc b cv).2 }
  | .mswap h e f => some { opc := 0x3C2, h := h, d := 0, a := 0, b := 0, md := eMd e 0, t := f.enc }
  | .mma h fmt ns z e d a b c cv => some { opc := 0x3C3, h := h, d := d, a := a, b := b.enc.1, md := mmaMd (0#1 ++ bit1 z) ns e fmt, t := .ext (cvEnc cv 0) b.enc.2 c }
  | .mgmm h fmt ns bin e d a b c cv => some { opc := 0x3C4, h := h, d := d, a := a, b := b.enc.1, md := mmaMd (0#1 ++ bit1 bin) ns e fmt, t := .ext (cvEnc cv 0) b.enc.2 c }
  | .mclr h e d f => some { opc := 0x3C5, h := h, d := d, a := 0, b := 0, md := eMd e 0, t := f.enc }
  | .macld h acc e d a b cv => some { opc := 0x3C6, h := h, d := d, a := a, b := (cvSrcEnc b cv).1, md := eMd e (0#3 ++ bit1 acc), t := (cvSrcEnc b cv).2 }
  | .macst h o sx e sat clr d a b c cv rm => some { opc := 0x3C7, h := h, d := d, a := a, b := b.enc.1, md := macstMd clr sat e sx o, t := .ext (cvEnc cv rm.code) b.enc.2 c }
  | .macrd h e d a b => some (bEnc 0x3C8 h d a b (eMd e 0))
  | .mrow h op acc e d a f => some { opc := 0x3C9, h := h, d := d, a := a, b := 0, md := eMd e (0#1 ++ bit1 acc ++ op.code), t := f.enc }
  | .mfence h => some (sEnc 0x3CA h 0 0 0 0)
  | .mwait h e => some (sEnc 0x3CB h 0 0 0 (eMd e 0))
  | .mwaitCv h e n b => some (bEnc 0x3CB h 0 0 b (0#2 ++ 1#1 ++ bit1 e ++ n))
  | .mqry h clr e d => some (sEnc 0x3CC h d 0 0 (eMd e (0#3 ++ bit1 clr)))
  | .cvset h d b => some (bEnc 0x3A0 h (d.setWidth 11) 0 b 0)
  | .sign h d a => some (sEnc 0x3A1 h d (a.setWidth 11) 0 0)
  | _ => none

/-- The word of a C-form instruction; none for the others (R75, R93). -/
def encShort : Instr → Option Word
  | .iaddC c => some (cTwoEnc 0x01 c)
  | .isubC c => some (cTwoEnc 0x02 c)
  | .imulC c => some (cTwoEnc 0x03 c)
  | .iminI32C c => some (cTwoEnc 0x04 c)
  | .iminN32C c => some (cTwoEnc 0x05 c)
  | .imaxI32C c => some (cTwoEnc 0x06 c)
  | .imaxN32C c => some (cTwoEnc 0x07 c)
  | .iabsC c => some (cOneEnc 0x08 c)
  | .inegC c => some (cOneEnc 0x09 c)
  | .imulhI32C c => some (cTwoEnc 0x0A c)
  | .imulhN32C c => some (cTwoEnc 0x0B c)
  | .iaddSatI32C c => some (cTwoEnc 0x0C c)
  | .isubSatI32C c => some (cTwoEnc 0x0D c)
  | .iaddSatN32C c => some (cTwoEnc 0x0E c)
  | .isubSatN32C c => some (cTwoEnc 0x0F c)
  | .andC c => some (cTwoEnc 0x10 c)
  | .orC c => some (cTwoEnc 0x11 c)
  | .xorC c => some (cTwoEnc 0x12 c)
  | .notC c => some (cOneEnc 0x13 c)
  | .shlC c => some (cTwoEnc 0x14 c)
  | .shrC c => some (cTwoEnc 0x15 c)
  | .sarC c => some (cTwoEnc 0x16 c)
  | .rotlC c => some (cTwoEnc 0x17 c)
  | .popcC c => some (cOneEnc 0x18 c)
  | .clzC c => some (cOneEnc 0x19 c)
  | .ctzC c => some (cOneEnc 0x1A c)
  | .brevC c => some (cOneEnc 0x1B c)
  | .movC c => some (cOneEnc 0x20 c)
  | .faddC c => some (cTwoEnc 0x28 c)
  | .fmulC c => some (cTwoEnc 0x29 c)
  | .fminC c => some (cTwoEnc 0x2A c)
  | .fmaxC c => some (cTwoEnc 0x2B c)
  | .fscaleC c => some (cTwoEnc 0x2C c)
  | .frndRnC c => some (cOneEnc 0x2D c)
  | .hadd2F16C c => some (cTwoEnc 0x30 c)
  | .hmul2F16C c => some (cTwoEnc 0x31 c)
  | .hmin2F16C c => some (cTwoEnc 0x32 c)
  | .hmax2F16C c => some (cTwoEnc 0x33 c)
  | .hadd2Bf16C c => some (cTwoEnc 0x34 c)
  | .hmul2Bf16C c => some (cTwoEnc 0x35 c)
  | .hmin2Bf16C c => some (cTwoEnc 0x36 c)
  | .hmax2Bf16C c => some (cTwoEnc 0x37 c)
  | .cvtfF32I32C c => some (cOneEnc 0x38 c)
  | .cvtfF32N32C c => some (cOneEnc 0x39 c)
  | .cvtiI32F32RzC c => some (cOneEnc 0x3A c)
  | .cvtiN32F32RzC c => some (cOneEnc 0x3B c)
  | .crc32cC c => some (cTwoEnc 0x3C c)
  | _ => none

/-- The words of an instruction, as many as its length; none for a row that is not an instruction. -/
def encode (i : Instr) : Option (List Word) :=
  match encShort i with
  | some w => some [w]
  | none =>
    match encFields i with
    | some f => some (wordsOf f)
    | none => none

/-- The instruction the words decode to; words beyond the instruction's own are ignored. -/
def decodeWords (ws : List Word) : Instr := decode (ws.getD 0 0) (ws.getD 1 0) (ws.getD 2 0)

end Sys2Proof
end

