-- ==== Sys2Proof/Machine/Translate.lean ====
section
/-! DEFINITION. Translation of global addresses: page tables, class table, TLBs, walk cache and the checks of an access
(05 R126, R130; 10 R276; 11 R317 to R322; 01 R33, R34). -/

namespace Sys2Proof.Machine

/-- Page-fault causes (R323). -/
abbrev pfNotMapped : Nat := 1
abbrev pfNonCanonical : Nat := 2
abbrev pfUnpopulated : Nat := 3
abbrev pfProtection : Nat := 4
abbrev pfClosed : Nat := 5

/-- The outcome of a walk. -/
inductive Walk where
  | ok (x : Xlat)
  | fault (cause : Nat)
  /-- The walk read a poisoned line (R412). -/
  | poison (pa : Nat)
deriving DecidableEq, Repr

/-- log2 of the block a leaf of a level maps (R317). -/
def leafLog (level : Nat) : Nat := if level = 0 then 42 else if level = 1 then 29 else 16

/-- The byte number of a frame's class byte and error counts (R320, R421). -/
def frameNo (pa : Nat) : Nat :=
  match regionOf pa with
  | .near => pa / 65536
  | .far => 6291456 + (pa / 65536 - 0x2000000)
  | .host _ => 0
  | .device => 0
  | .none => 0

/-- Some die that an access to a local address needs is lost (R427). -/
def State.homeLost (s : State) (pa : Nat) : Bool :=
  match regionOf pa with
  | .near => (s.die (pa / 0x0C00000000)).lost
  | .far => ((s.die 8).lost && (s.die 9).lost) || (s.die (brimOfFar pa)).lost
  | .host b => ((s.die 8).lost && (s.die 9).lost) || (s.die b).lost
  | .device => false
  | .none => false

/-- A die serves no access: once start-up has begun, one that is not Keyed (R28, R435; log 2). -/
def State.mute (s : State) (d : Nat) : Bool := s.anchok && (s.die d).attested.st != 3

/-- Local memory that does not answer: its home is lost (R427), a die that serves it is not Keyed (R435), or it is far memory whose brim
has not trained it (R450). -/
def State.absent (s : State) (pa : Nat) : Bool :=
  s.homeLost pa || (match regionOf pa with
    | .near => s.mute (pa / 0x0C00000000)
    | .far => !(s.die (brimOfFar pa)).farOk || s.mute (brimOfFar pa)
    | .host b => s.mute b
    | .device => false
    | .none => false)

/-- A local address that no program may reach (R34): its range is unpopulated or a device's, or its memory does not answer. -/
def State.unpopulated (s : State) (pa : Nat) : Bool :=
  match regionOf pa with
  | .none => true
  | .device => true
  | .near => s.absent pa
  | .far => s.absent pa
  | .host _ => s.absent pa

/-- The end of a walk at a leaf entry (R318 to R320, R34). -/
def leafXlat (s : State) (ctx level va e : Nat) : Walk :=
  let n := leafLog level
  let gpa := bits e 51 16 * 65536
  if gpa % 2 ^ n ≠ 0 then .fault pfNotMapped
  else
    let here := pkgOf gpa = s.pkgid
    let at' := localOf gpa + va % 2 ^ n
    let x : Xlat :=
      { ctx := ctx, vpn := va / 2 ^ n, log2 := n, pa := gpa, cls := bits e 3 2, w := bitOf e 4, xp := bitOf e 5
        cmp := bitOf e 6, hint := bits e 8 7, rlog := bitOf e 9, mism := false }
    if ¬ here then .ok x
    else if s.unpopulated at' then .fault pfUnpopulated
    else if ¬ isDram at' ∨ ¬ s.xregs.fctEn then .ok x
    else
      let b := (s.peek (s.xregs.fctBase + frameNo at')).toNat
      if bits b 7 3 ≠ 0 then .fault pfNotMapped
      else if bitOf b 2 then .fault pfClosed
      else .ok { x with mism := decide (bits b 1 0 ≠ x.cls) }

/-- The entry of a table that a walk reads at a level (R317). -/
def entryAddr (table level va : Nat) : Nat := table + 8 * (va / 2 ^ leafLog level % 8192)

/-- A walk from a table at a level, with `fuel` levels left; the second component lists what enters the walk cache (R317,
R319, R321). -/
def walkFrom (s : State) (crown ctx va : Nat) : Nat → Nat → Nat → List WalkEntry → Walk × List WalkEntry
  | 0, _, _, acc => (.fault pfNotMapped, acc)
  | fuel + 1, level, table, acc =>
    if ¬ isDram table then (.fault pfNotMapped, acc)
    else
      match s.walkc.find? fun w => w.crown == crown && w.ctx == ctx && w.level == level && w.idx == va / 2 ^ leafLog level with
      | some w => walkFrom s crown ctx va fuel (level + 1) w.next acc
      | none =>
        let a := entryAddr table level va
        if s.poisonedAt a then (.poison a, acc)
        else
          let e := s.peekNat a 8
          if ¬ bitOf e 0 then (.fault pfNotMapped, acc)
          else if bits e 63 52 ≠ 0 ∨ bits e 15 10 ≠ 0 then (.fault pfNotMapped, acc)
          else if bitOf e 1 then (leafXlat s ctx level va e, acc)
          else if level = 2 ∨ bits e 9 2 ≠ 0 ∨ bits e 51 43 ≠ 0 then (.fault pfNotMapped, acc)
          else
            let next := bits e 42 16 * 65536
            if ¬ isDram next then (.fault pfNotMapped, acc)
            else walkFrom s crown ctx va fuel (level + 1) next
              ({ crown := crown, ctx := ctx, level := level, idx := va / 2 ^ leafLog level, next := next } :: acc)

/-- A walk for a context through the walk cache of a crown (R321). Its reads of tables and class bytes touch no die for the context
(log 42). -/
def State.walk (s : State) (crown ctx va : Nat) : Walk × State :=
  let (r, new) := walkFrom s crown ctx va 3 0 (s.ctx ctx).ptroot []
  let mine := (new ++ s.walkc.filter fun w => w.crown == crown).take 8192
  (r, { s with walkc := mine ++ s.walkc.filter fun w => w.crown != crown })

/-- A translation that a TLB holds for a context and address. -/
def tlbFind (t : List Xlat) (ctx va : Nat) : Option Xlat := t.find? fun x => x.ctx == ctx && x.vpn == va / 2 ^ x.log2

/-- Two translations share a set of a die's TLB (R321; log 80). -/
def Xlat.sameSet (x y : Xlat) : Bool := x.log2 == y.log2 && x.vpn % 2048 == y.vpn % 2048

/-- A die's TLB with a translation: eight ways of each set and leaf size, 16,384 entries (R321; log 80). -/
def tlbAdd (x : Xlat) (t : List Xlat) : List Xlat :=
  let out := (t.filter x.sameSet).drop 7
  (x :: t.filter fun y => !out.contains y).take 16384

/-- Translation on a die, for a core if there is one: its TLBs first, then a walk that fills them (R321). -/
def State.translate (s : State) (die : Nat) (core : Option Nat) (ctx va : Nat) : Walk × State :=
  let inCore := match core with
    | some c => tlbFind (s.core c).tlb ctx va
    | none => none
  match inCore with
  | some x => (.ok x, s)
  | none =>
    match tlbFind (s.die die).tlb ctx va with
    | some x => (.ok x, (match core with
      | some c => s.modCore c fun k => { k with tlb := (x :: k.tlb).take 256 }
      | none => s))
    | none =>
      let (r, s) := s.walk (crownOf die) ctx va
      match r with
      | .ok x =>
        let s := s.modDie die fun d => { d with tlb := tlbAdd x d.tlb }
        (r, match core with
          | some c => s.modCore c fun k => { k with tlb := (x :: k.tlb).take 256 }
          | none => s)
      | .fault _ => (r, s)
      | .poison _ => (r, s)

/-! ### Trap kinds (R166) -/

abbrev kIllegalEncoding : Nat := 1
abbrev kIllegalOpcode : Nat := 2
abbrev kRegisterRange : Nat := 3
abbrev kPrivilege : Nat := 4
abbrev kFPException : Nat := 5
abbrev kMisaligned : Nat := 6
abbrev kSpaceRange : Nat := 7
abbrev kClassFault : Nat := 8
abbrev kRemoteFault : Nat := 9
abbrev kCollectiveMask : Nat := 10
abbrev kQueueFault : Nat := 11
abbrev kCallStack : Nat := 12
abbrev kTrap : Nat := 13
abbrev kBreakpoint : Nat := 14
abbrev kRegionAbort : Nat := 15
abbrev kCopyFault : Nat := 16
abbrev kMatrixFault : Nat := 17

/-- The outcome of the checks of one global access (R276): the global physical address and its translation, a page fault,
a trap, or consumption of poison. -/
inductive Access where
  | ok (pa : Nat) (x : Xlat)
  | pageFault (cause : Nat)
  | trap (kind : Nat) (info : DWord)
  | poison (pa : Nat)
deriving DecidableEq, Repr

/-- What an access does: reads, writes, fetches, or neither checks nor needs permission. -/
inductive AccKind where
  | read | write | fetch
deriving DecidableEq, Repr

/-- The checks of R276, items 3 to 5, on a translation. -/
def accessOf (s : State) (k : AccKind) (va : DWord) (x : Xlat) : Access :=
  let gpa := x.pa + va.toNat % 2 ^ x.log2
  let remote := pkgOf gpa ≠ s.pkgid
  let denied : Bool := match k with
    | .read => false
    | .write => !x.w || x.cls == 3
    | .fetch => !x.xp
  if ¬ remote ∧ s.unpopulated (localOf gpa) then .pageFault pfUnpopulated
  else if denied then .pageFault pfProtection
  else if x.mism then .trap kClassFault va
  else if remote ∧ (x.cls = 1 ∨ x.cls = 2) then .trap kClassFault va
  else if 288 ≤ pkgOf gpa then .trap kRemoteFault (BitVec.ofNat 64 gpa)
  else if remote ∧ regionOf (localOf gpa) = .device then .trap kRemoteFault (BitVec.ofNat 64 gpa)
  else .ok gpa x

/-- The checks of a global access of a context from a die: translation and R276, items 3 to 5. No access is made. -/
def State.check (s : State) (die : Nat) (core : Option Nat) (ctx : Nat) (k : AccKind) (va : DWord) : Access × State :=
  if 2 ^ 55 ≤ va.toNat then (.pageFault pfNonCanonical, s)
  else
    match s.translate die core ctx va.toNat with
    | (.fault c, s) => (.pageFault c, s)
    | (.poison pa, s) => (.poison pa, s)
    | (.ok x, s) => (accessOf s k va x, s)

/-- A context makes an access homed at a global address of this package: the dies that it reaches are touched (R30). -/
def State.reached (s : State) (ctx gpa : Nat) : State :=
  if pkgOf gpa = s.pkgid then s.touchAll ctx (homeDies (localOf gpa)) else s

/-- A global access of a context from a die: its checks, and where they pass the dies it reaches are touched (R30, R276). -/
def State.access (s : State) (die : Nat) (core : Option Nat) (ctx : Nat) (k : AccKind) (va : DWord) : Access × State :=
  match s.check die core ctx k va with
  | (.ok gpa x, s) => (.ok gpa x, s.reached ctx gpa)
  | r => r

/-! ### Engine accesses to a context's memory: hood, save area, completion word -/

/-- The local address that a context's virtual address maps to for the launch engine, writable if asked (R254, R269). -/
def State.engineVa (s : State) (ctx : Nat) (write : Bool) (va : Nat) : Option Nat × State :=
  match s.access 8 none ctx (if write then .write else .read) (BitVec.ofNat 64 va) with
  | (.ok gpa _, s) => if pkgOf gpa = s.pkgid then (some (localOf gpa), s) else (none, s)
  | (.pageFault _, s) => (none, s)
  | (.trap _ _, s) => (none, s)
  | (.poison _, s) => (none, s)

/-- Pieces of a virtual range that lie each in one 64 KiB page: address and length. `n` bounds their number. -/
def pagePieces : Nat → Nat → Nat → List (Nat × Nat)
  | 0, _, _ => []
  | n + 1, va, len =>
    if len = 0 then []
    else
      let k := min len (65536 - va % 65536)
      (va, k) :: pagePieces n (va + k) (len - k)


/-- Bytes of a context's memory; none where a page is missing. -/
def State.vRead (s : State) (ctx va len : Nat) : Option (List Byte) × State :=
  (pagePieces (len / 65536 + 2) va len).foldl
    (fun r p => match r.1, r.2.engineVa ctx false p.1 with
      | some l, (some pa, s) => (some (l ++ s.peekN pa p.2), s)
      | _, (_, s) => (none, s)) (some [], s)

/-- Bytes written to a context's memory, page by page; false where a page is missing (that page is not written). Lines written whole
lose their poison (R409). -/
def State.vWrite (s : State) (ctx va : Nat) (b : List Byte) : Bool × State :=
  (pagePieces (b.length / 65536 + 2) va b.length).foldl
    (fun r p => match r.2.engineVa ctx true p.1 with
      | (some pa, s) => (r.1, (s.clearPoison pa p.2).pokeN pa ((b.drop (p.1 - va)).take p.2))
      | (none, s) => (false, s)) (true, s)

/-- A range of a context's memory set to zero. -/
def State.vClear (s : State) (ctx va len : Nat) : Bool × State :=
  (pagePieces (len / 65536 + 2) va len).foldl
    (fun r p => match r.2.engineVa ctx true p.1 with
      | (some pa, s) => (r.1, (s.clearPoison pa p.2).clear pa p.2)
      | (none, s) => (false, s)) (true, s)

end Sys2Proof.Machine
end

