-- ==== Sys2Proof/Machine/Events.lean ====
section
/-! DEFINITION. Event records and page-fault records, their rings and interrupts (15 R417 to R419; 11 R323; 17 R451). -/

namespace Sys2Proof.Machine

/-- A vector raised on both host ports (R451). -/
def State.raiseV (s : State) (v : Nat) : State :=
  (s.modHPort 0 fun p => { p with raised := p.raised ++ [v] }).modHPort 1 fun p => { p with raised := p.raised ++ [v] }

/-- The fields of an event record (R417). -/
structure Event where
  kind : Nat
  orph : Bool := false
  vt : Bool := false
  vl : Bool := false
  ctx : Nat := 0
  core : Nat := 0
  die : Nat := 0
  lid : Nat := 0
  team : Nat := 0
  tid : Nat := 0
  pc : Nat := 0
  info : Nat := 0
  clock : Nat := 0
  pa : Nat := 0
  aux : Nat := 0
  block : List Byte := []
deriving DecidableEq, Repr

/-- The 128 bytes of an event record (R417). -/
def Event.encode (e : Event) : EvRec :=
  BitVec.ofNat 1024
    (e.kind % 256 * 2 ^ 504 + b2n e.orph * 2 ^ 503 + b2n e.vt * 2 ^ 502 + b2n e.vl * 2 ^ 501 + e.ctx % 64 * 2 ^ 495
      + e.core % 128 * 2 ^ 488 + e.die % 16 * 2 ^ 484 + e.lid % 2 ^ 32 * 2 ^ 416 + e.team % 2 ^ 32 * 2 ^ 384
      + e.tid % 2 ^ 32 * 2 ^ 352 + e.pc % 2 ^ 55 * 2 ^ 297 + e.info % 2 ^ 64 * 2 ^ 192 + e.clock % 2 ^ 64 * 2 ^ 128
      + e.pa % 2 ^ 52 * 2 ^ 76 + e.aux % 2 ^ 32 * 2 ^ 32 + ofBytes (e.block.take 64) * 2 ^ 512)

/-- The ring of a size is full. -/
def ringFull (tail head size : Nat) : Bool := (tail + 1) % 2 ^ size == head % 2 ^ size

/-- The event record written to the ring with its interrupt, or dropped and counted (R417). -/
def State.eventRec (s : State) (r : EvRec) : State :=
  let k := s.cn
  if k.evSize = 0 ∨ ringFull k.evTail k.evHead k.evSize then { s with cn := { k with lost := (k.lost + 1) % 2 ^ 32 } }
  else
    let s := s.pokeNat (k.evBase + 128 * k.evTail) 128 r.toNat
    { s with cn := { k with evTail := (k.evTail + 1) % 2 ^ k.evSize } }.raiseV 0

/-- An event of the package, stamped with the package time (R417). -/
def State.event (s : State) (e : Event) : State := s.eventRec { e with clock := s.clk }.encode

/-- An event of a core, stamped with the core's CLOCK (R199, R417). -/
def State.coreEvent (s : State) (core kind info aux : Nat) : State :=
  s.eventRec (Event.encode
    { kind := kind, core := core, die := dieOf core, info := info, aux := aux, clock := (s.clockOf core).toNat })

/-! ### Page-fault records (R323) -/

/-- The fields of a page-fault record (R323). -/
structure PfFields where
  cause : Nat
  ctx : Nat
  core : Nat
  wr : Bool
  xf : Bool
  rep : Bool
  lid : Nat
  team : Nat
  tid : Nat
  pc : Nat
  va : Nat
deriving DecidableEq, Repr

/-- The 32 bytes of a page-fault record (R323). -/
def PfFields.encode (e : PfFields) : PfRec :=
  BitVec.ofNat 256
    (e.cause % 256 * 2 ^ 240 + e.ctx % 64 * 2 ^ 234 + e.core % 128 * 2 ^ 227 + b2n e.wr * 2 ^ 226 + b2n e.xf * 2 ^ 225
      + b2n e.rep * 2 ^ 224 + e.lid % 2 ^ 32 * 2 ^ 192 + e.team % 2 ^ 32 * 2 ^ 160 + e.tid % 2 ^ 32 * 2 ^ 128
      + e.pc % 2 ^ 55 * 2 ^ 64 + e.va % 2 ^ 55)

/-- What makes two records duplicates: context, 64 KiB page and cause (R323). -/
def pfKey (r : PfRec) : Nat × Nat × Nat := (bits r.toNat 239 234, bits r.toNat 54 16, bits r.toNat 247 240)

/-- The indices of the ring from HEAD up to TAIL. -/
def ringIdx (head tail size : Nat) : List Nat :=
  (upTo ((tail + 2 ^ size - head % 2 ^ size) % 2 ^ size)).map fun i => (head + i) % 2 ^ size

/-- A record of the ring, or one that waits, has the key (R323). -/
def State.pfDup (s : State) (key : Nat × Nat × Nat) (waiting : List PfRec) : Bool :=
  let x := s.xregs
  (waiting.any fun r => pfKey r == key)
    || (x.pfqSize != 0 && (ringIdx x.pfqHead x.pfqTail x.pfqSize).any fun i =>
          pfKey (BitVec.ofNat 256 (s.peekNat (x.pfqBase + 32 * i) 32)) == key)

/-- The ring has room for a record. -/
def State.pfRoom (s : State) : Bool :=
  s.xregs.pfqSize != 0 && !ringFull s.xregs.pfqTail s.xregs.pfqHead s.xregs.pfqSize

/-- A record written at TAIL with its interrupt (R323, R451). -/
def State.pfPut (s : State) (r : PfRec) : State :=
  let x := s.xregs
  let s := s.pokeNat (x.pfqBase + 32 * x.pfqTail) 32 r.toNat
  { s with xregs := { x with pfqTail := (x.pfqTail + 1) % 2 ^ x.pfqSize } }.raiseV 1

/-- A page-fault record enters the ring, waits with a FaultRingFull event, or is dropped as a duplicate (R323). -/
def State.pfRecord (s : State) (e : PfFields) : State :=
  let r := e.encode
  if s.pfDup (pfKey r) s.pfWait then s
  else if s.pfRoom && s.pfWait.isEmpty then s.pfPut r
  else
    let s := { s with pfWait := s.pfWait ++ [r] }
    s.event { kind := 0x11, info := s.pfWait.length }

end Sys2Proof.Machine
end

