-- ==== Sys2Proof/Machine/Sched.lean ====
section
/-! DEFINITION. Threads as the sequencer moves them: registers under open windows, region entry, filing, waking and removal
from groups (02 R43, R50, R57; 06 R157, R161, R176, R179, R184, R185). -/

namespace Sys2Proof.Machine

/-! ### Registers of one thread -/

/-- A v register; a number at or above NREG reads 0 and is never reached (R39). -/
def Thread.reg (t : Thread) (n : Nat) : Word := t.regs.getD n 0

/-- The pair n, n + 1, low word first (R12). -/
def Thread.reg64 (t : Thread) (n : Nat) : DWord := pairOf (t.reg n) (t.reg (n + 1))

/-- A predicate; p7 reads 1 (R77). -/
def Thread.pred (t : Thread) (p : Nat) : Bool := p == 7 || t.preds.getLsbD p

/-- A v register set, whatever windows are open. -/
def Thread.putReg (t : Thread) (n : Nat) (w : Word) : Thread := { t with regs := setAt t.regs n w }

/-- A predicate set; a write to p7 is ignored (R77). -/
def Thread.putPred (t : Thread) (p : Nat) (b : Bool) : Thread :=
  if 7 ≤ p then t else { t with preds := if b then t.preds ||| (1#8 <<< p) else t.preds &&& ~~~(1#8 <<< p) }

/-- A window without register n among those it still writes. -/
def Window.dropReg (w : Window) (n : Nat) : Window := { w with regs := w.regs.filter fun r => r.1 != n }
/-- A window without predicate p among those it still writes. -/
def Window.dropPred (w : Window) (p : Nat) : Window := { w with preds := w.preds.filter fun r => r.1 != p }

/-- The window is an MACRD's (R372). -/
def WinKind.isMacrd : WinKind → Bool
  | .macrd _ => true
  | .landed _ => true
  | .alu => false
  | .mem => false
  | .coll => false
  | .sync => false
  | .engine => false
  | .post => false
  | .fence => false
  | .remote _ => false

/-- The window holds back a region entry of its thread: an MACRD's does until its quad is read (R157, R372). -/
def Window.blocks (w : Window) : Bool :=
  match w.kind with
  | .macrd _ => !w.ready
  | .landed _ => false
  | .alu => true
  | .mem => true
  | .coll => true
  | .sync => true
  | .engine => true
  | .post => true
  | .fence => true
  | .remote _ => true

/-- The window of an MACRD whose writes landed in an earlier region: a restart leaves it (R161, R372). -/
def Window.landed (w : Window) : Bool :=
  match w.kind with
  | .landed _ => true
  | .macrd _ => false
  | .alu => false
  | .mem => false
  | .coll => false
  | .sync => false
  | .engine => false
  | .post => false
  | .fence => false
  | .remote _ => false

/-- The window at a region entry: an MACRD's writes land (R157). -/
def Window.land (w : Window) : Window :=
  match w.kind with
  | .macrd e => { w with kind := .landed e }
  | .landed _ => w
  | .alu => w
  | .mem => w
  | .coll => w
  | .sync => w
  | .engine => w
  | .post => w
  | .fence => w
  | .remote _ => w

/-- A write of register n in program order reaches an open window: it no longer writes the register, or, an MACRD's, leaves it
unspecified (R185, R372). -/
def Window.overwrite (w : Window) (n : Nat) : Window :=
  if w.kind.isMacrd then (if w.regs.any fun r => r.1 == n then { w with dirty := n :: w.dirty } else w) else w.dropReg n

/-- What a write leaves in a register: in the quad of an MACRD that no MWAIT has covered, an unspecified value (R372). -/
def Thread.written (t : Thread) (n : Nat) (w : Word) : Word :=
  match t.wins.find? fun x => x.kind.isMacrd && x.regs.any fun r => r.1 == n with
  | some x => Config.macrdWord x.id n
  | none => w

/-- A register written in program order: the write prevails over the results of open windows (R185); a full write clears
the word's poison (R409). -/
def Thread.writeReg (t : Thread) (n : Nat) (w : Word) : Thread :=
  { t.putReg n (t.written n w) with wins := t.wins.map fun x => x.overwrite n, poisoned := t.poisoned.filter (· != n) }

/-- A predicate written in program order (R185). -/
def Thread.writePred (t : Thread) (p : Nat) (b : Bool) : Thread :=
  { t.putPred p b with wins := t.wins.map fun x => x.dropPred p }

def Thread.writeRegs (t : Thread) (l : List (Nat × Word)) : Thread := l.foldl (fun t r => t.writeReg r.1 r.2) t
def Thread.writePreds (t : Thread) (l : List (Nat × Bool)) : Thread := l.foldl (fun t r => t.writePred r.1 r.2) t

/-- FLAGS with conditions set (R107). -/
def Thread.orFlags (t : Thread) (c : BitVec 6) : Thread := { t with flags := t.flags ||| c.setWidth 32 }

/-! ### Regions and windows -/

/-- EnterRegion(e), without its wait (R157). -/
def Thread.enterRegion (t : Thread) (e : Pc) : Thread :=
  { t with rpc := e, rngent := t.rngctr, frec := false, rcnt := t.rcnt + 1, entry := none, wins := t.wins.map Window.land }

/-- EnterRegion(e): at once if no earlier result is outstanding, otherwise when the last arrives (R157). -/
def Thread.startEntry (t : Thread) (e : Pc) : Thread :=
  if !(t.wins.any Window.blocks) then t.enterRegion e else { t with entry := some e }

/-- An instruction issues: PC advances and every open window counts down (R184); nothing waits for a queue entry (R358). -/
def Thread.issue (t : Thread) (next : Pc) : Thread :=
  { t with pc := next, mchk := none, kicked := none, wins := t.wins.map fun w => { w with left := w.left - 1 } }

/-- A window opens; an earlier window's result for the same register or predicate is discarded, an MACRD's quad left unspecified
(R185, R372). -/
def Thread.openWin (t : Thread) (w : Window) (dsts : List Nat) (preds : List Nat) : Thread :=
  let clear (x : Window) : Window := { dsts.foldl Window.overwrite x with preds := x.preds.filter fun r => !preds.contains r.1 }
  { t with wins := t.wins.map clear ++ [w] }

/-- The window with an identifier. -/
def Thread.win? (t : Thread) (id : Nat) : Option Window := t.wins.find? fun w => w.id == id

/-- The window with an identifier replaced. -/
def Thread.modWin (t : Thread) (id : Nat) (f : Window → Window) : Thread :=
  { t with wins := t.wins.map fun w => if w.id == id then f w else w }

/-- What follows when a result has come: a region entry that waited happens when nothing holds it back (R157). -/
def Thread.afterWin (t : Thread) : Thread :=
  match t.entry with
  | some e => if t.wins.any Window.blocks then t else t.enterRegion e
  | none => t

/-- The trap a thread takes of two: the earlier in program order (R168). -/
def Thread.addTrap (t : Thread) (x : Trap) : Thread :=
  match t.trap with
  | some y => if y.seq ≤ x.seq then t else { t with trap := some x }
  | none => { t with trap := some x }

/-- A window closed: its flags set, or its late fault found (R109, R168, R184). -/
def Thread.closeWin (t : Thread) (w : Window) : Thread :=
  let t := { t with wins := t.wins.filter fun x => x.id != w.id }
  let t := match w.late with
    | some x => t.addTrap x
    | none => t.orFlags w.flags
  t.afterWin

/-- The value that a window's result leaves in a register: unspecified in the quad of an MACRD that the thread has written since, or
that no MWAIT has covered (R372). -/
def Thread.arrived (t : Thread) (w : Window) (r : Nat × Word) : Word :=
  if w.kind.isMacrd then (if w.dirty.contains r.1 then Config.macrdWord w.id r.1 else r.2) else t.written r.1 r.2

/-- The results of a ready window written: all of them, or register `only` (R184, R185). With none left the window closes. -/
def Thread.deliver (t : Thread) (id : Nat) (only : Option Nat) : Thread :=
  match t.win? id with
  | none => t
  | some w =>
    if !w.ready then t
    else if w.late.isSome then t.closeWin w
    else
      let now : List (Nat × Word) := match only with
        | some n => w.regs.filter fun r => r.1 == n
        | none => w.regs
      let t := now.foldl (fun t r => { t.putReg r.1 (t.arrived w r) with poisoned := t.poisoned.filter (· != r.1) }) t
      match only with
      | some n =>
        let w' := w.dropReg n
        if w'.regs.isEmpty && w'.preds.isEmpty then t.closeWin w' else t.modWin id fun _ => w'
      | none => (w.preds.foldl (fun t p => t.putPred p.1 p.2) t).closeWin w

/-- A result that arrives for a window: its registers are those the window still writes (R185). -/
def Thread.result (t : Thread) (id : Nat) (regs : List (Nat × Word)) : Thread :=
  t.modWin id fun w =>
    { w with ready := true, wait := none, regs := w.regs.map fun r => (r.1, ((regs.find? fun x => x.1 == r.1).map (·.2)).getD r.2) }

/-- The state a restart gives a thread, before it is filed (R57, R161). -/
def Thread.restarted (t : Thread) : Thread :=
  { t with pc := t.rpc, rngctr := t.rngent, mchk := none, kicked := none, wins := t.wins.filter Window.landed, trap := none, entry := none, pfva := none, wait := 0 }

/-! ### Where a thread is -/

/-- The TIDs below this lie on the lower core of a pair (R43). -/
def pairSplit (n : Nat) : Nat := alignUp ((n + 1) / 2) 32

/-- The core that holds thread `tid` of a team (R43). -/
def Team.coreOf (t : Team) (tid : Nat) : Nat := if t.lr.pair && decide (pairSplit t.lr.tsize ≤ tid) then t.core + 1 else t.core

/-- The thread slot of `tid` (R43). -/
def Team.slotOf (t : Team) (tid : Nat) : Nat :=
  if t.lr.pair && decide (pairSplit t.lr.tsize ≤ tid) then t.base1 + tid - pairSplit t.lr.tsize else t.base0 + tid

/-- The cores that hold a team. -/
def Team.cores (t : Team) : List Nat := if t.lr.pair then [t.core, t.core + 1] else [t.core]

/-- The group width of a team's launch (R253). -/
def Team.width (t : Team) : Nat := 16 * 2 ^ t.lr.gw

/-- A core's sequencer without the threads that `p` names (team, TID). -/
def Core.unsched (k : Core) (p : Nat → Nat → Bool) : Core :=
  let grp (g : Group) : Group := { g with lanes := g.lanes.filter fun l => !p g.team l.2, latch := [] }
  { k with
    batts := (k.batts.mapKV fun _ b => { b with members := b.members.filter fun m => !p m.team m.tid }).filter
      fun e => !e.2.members.isEmpty
    active := (k.active.map fun e => if e.2.lanes.any (fun l => p e.2.team l.2) then (e.1, grp e.2) else e).filter
      fun e => !e.2.lanes.isEmpty
    pending := (k.pending.map fun g => if g.lanes.any (fun l => p g.team l.2) then grp g else g).filter
      fun g => !g.lanes.isEmpty }

/-- A thread leaves its batt or group (R161); the rest continue. -/
def State.unsched (s : State) (team tid : Nat) : State :=
  match s.team? team with
  | some t => s.modCore (t.coreOf tid) fun k => k.unsched fun a b => a == team && b == tid
  | none => s

/-- The batt that takes a thread of a key: the lowest-numbered with that key and room, else the lowest empty, else the
stray batt (R51, R176). -/
def battFor (bs : Tbl Batt) (team : Nat) (pc : Pc) : Nat :=
  match bs.find? fun e => e.1 < 63 && e.2.team == team && e.2.pc == pc && e.2.members.length < 256 with
  | some e => e.1
  | none => ((upTo 63).find? fun i => (bs.find i).isNone).getD 63

/-- A core's batts with a thread added (R176). The stray batt takes threads of any team and context: R41 lets no batt hold threads of
two, R176 gives the stray batt no key, and the model follows R176 (log 84). -/
def Core.addBatt (k : Core) (team : Nat) (pc : Pc) (m : Member) : Core :=
  let i := battFor k.batts team pc
  let b := k.batts.get i { team := team, pc := pc, members := [] }
  { k with batts := k.batts.put i { b with members := b.members ++ [m] } }

/-- A thread whose KICK has entered its request goes on after the KICK (R336). -/
def Thread.pastKick (t : Thread) : Thread := { t with pc := t.kicked.getD t.pc, kicked := none }

/-- A resident thread that is in no group and no batt is filed under its PC, not eligible before `hold` (R51, R163, R176). -/
def State.fileRaw (s : State) (team tid hold : Nat) : State :=
  let s := s.modThread team tid Thread.pastKick
  match s.team? team, s.thread? team tid with
  | some tm, some t =>
    let s := s.modThread team tid fun t => { t with st := .filed, wait := 0 }
    if tm.resident then
      s.modCore (tm.coreOf tid) fun k => k.addBatt team t.pc { team := team, tid := tid, filed := s.clk, hold := hold }
    else s
  | _, _ => s

/-- The threads of a group filed, each under its PC. -/
def State.fileGroup (s : State) (g : Group) : State := g.lanes.foldl (fun s l => s.fileRaw g.team l.2 0) s

/-- While the stray batt holds a thread, an ordinary group in slot 7 moves to the pending set or is filed (R179). -/
def State.strayRoom (s : State) (c : Nat) : State :=
  let k := s.core c
  match k.batts.find 63, k.active.find 7 with
  | some _, some g =>
    if g.stray then s
    else if k.pending.length < 56 then
      s.setCore c { k with active := k.active.drop 7, pending := k.pending ++ [{ g with latch := [], since := s.clk }] }
    else (s.setCore c { k with active := k.active.drop 7 }).fileGroup g
  | _, _ => s

/-- A thread is filed under its PC (R51, R176, R179). The group that executes keeps its slot until its instruction is done. -/
def State.file (s : State) (team tid hold : Nat) : State :=
  match s.team? team with
  | some tm =>
    if tm.resident && s.cur != some (tm.coreOf tid, 7) then (s.fileRaw team tid hold).strayRoom (tm.coreOf tid)
    else s.fileRaw team tid hold
  | none => s

/-- A restart of a thread (R161). -/
def State.restart (s : State) (team tid : Nat) : State :=
  match s.thread? team tid with
  | some t => if t.st = .exited then s else ((s.unsched team tid).modThread team tid Thread.restarted).file team tid 0
  | none => s

/-- The team is saved and on no core (R60). -/
def State.away (s : State) (team : Nat) : Bool := !((s.team? team).map (·.resident)).getD true

/-- A wait ends: results for its window; a thread parked on it is filed and its registers are written, one still in its
window, or whose team is away, has the result waiting (R50, R61, R184, R186). -/
def State.waitDone (s : State) (team tid id : Nat) (regs : List (Nat × Word)) : State :=
  match s.thread? team tid with
  | none => s
  | some t =>
    let s := s.modThread team tid fun t => t.result id regs
    if t.st = .parked ∧ (t.win? id).isSome ∧ t.wait ≠ 6 ∧ ((s.team? team).map (·.resident)).getD false then
      (s.modThread team tid fun t => t.deliver id none).file team tid 0
    else s

/-- The window of a thread that waits for what `p` says. -/
def Thread.waiting (t : Thread) (p : Wait → Bool) : Option Window :=
  t.wins.find? fun w => match w.wait with
    | some x => p x
    | none => false

/-- The threads of a team with a window that waits for what `p` says: TID and window. -/
def State.waiters (s : State) (team : Nat) (p : Wait → Bool) : List (Nat × Window) :=
  (s.threadsOf team).filterMap fun x => (x.2.waiting p).map fun w => (x.1, w)

end Sys2Proof.Machine
end

