-- ==== Sys2Proof/Machine/Scratch.lean ====
section
/-! DEFINITION. A team's scratchpad bytes, and what a matrix operation reads of them (05 R125, R150, R151; 13 R353 to R356,
R365 to R371). -/

namespace Sys2Proof.Machine

/-- n scratchpad bytes from an offset. -/
def Team.sRead (t : Team) (off n : Nat) : List Byte := spGetN t.scratch off n

/-- A number of n scratchpad bytes. -/
def Team.sNat (t : Team) (off n : Nat) : Nat := ofBytes (t.sRead off n)

/-- Scratchpad bytes written; a fully overwritten 8-byte word loses its poison (R409). -/
def Team.sWrite (t : Team) (off : Nat) (b : List Byte) : Team :=
  { t with scratch := spPutN t.scratch off b
           poisonScratch := t.poisonScratch.filter fun w => !(off ≤ w * 8 && w * 8 + 8 ≤ off + b.length) }

/-- Some scratchpad word of the bytes is poisoned (R408). -/
def Team.sPoisoned (t : Team) (off n : Nat) : Bool := t.poisonScratch.any fun w => w * 8 < off + n && off < w * 8 + 8

/-- A word of the bytes is poisoned, and they do not cover it (R412). -/
def Team.sPartPoison (t : Team) (off n : Nat) : Bool :=
  t.poisonScratch.any fun w => w * 8 < off + n && off < w * 8 + 8 && !(off ≤ w * 8 && w * 8 + 8 ≤ off + n)

/-! ### What a matrix operation reads (R354, R355, R365 to R371) -/

/-- Bytes of an A row under a front plane (R355). -/
def Plane.rowBytes (p : Plane) : Nat := if p.sparse then 1024 else 512

/-- Bytes of the scales of an A row of a format (R355). -/
def Plane.scaleBytes (p : Plane) (fmt : MFmt) : Nat := if p.sparse || fmt == .e2m1 then 32 else 16

/-- Bytes of a dense image's side data (R354). -/
def sideBytes (fmt : MFmt) (ns : Bool) : Nat :=
  if scaleUsed fmt ns then (if fmt = .e2m1 then 8192 else 4096) else 0

/-- `count` pieces of n bytes from `base`, `stride` apart. -/
def pieces (base stride count n : Nat) : List (Nat × Nat) := (upTo count).map fun i => (base + stride * i, n)

/-- The scratchpad bytes that an operation reads, in pieces of offset and length. -/
def MKind.reads (t : Team) : MKind → List (Nat × Nat)
  | .mldw fmt ns side img stride => (side, sideBytes fmt ns) :: pieces img stride 256 512
  | .mldws _ side img stride => (side, 32768) :: pieces img stride 256 512
  | .mswap => []
  | .mma pl fmt ns _ _ m a stride sc =>
    pieces a stride m pl.rowBytes ++ (if scaleUsed fmt ns then pieces sc 32 m (pl.scaleBytes fmt) else [])
  | .mgmm pl fmt ns g q n a stride sc =>
    (g, 4 * n) :: (q, 4 * n) :: (upTo n).flatMap fun i =>
      let k := t.sNat (g + 4 * i) 4
      (a + k * stride, pl.rowBytes) :: (if scaleUsed fmt ns then [(sc + 32 * k, pl.scaleBytes fmt)] else [])
  | .mclr _ _ => []
  | .macld _ _ m a stride => pieces a stride m 1024
  | .macst _ sx _ _ _ _ m _ _ vec => if sx then [(vec, 4 * m)] else []
  | .macrd _ => []
  | .mrow _ acc _ m a => if acc then [(a, 4 * m)] else []

/-- Two ranges of bytes meet. -/
def meets (a b : Nat × Nat) : Bool := a.1 < b.1 + b.2 && b.1 < a.1 + a.2

/-- The team uses a matrix engine. -/
def Team.usesMatrix (t : Team) : Bool := t.lr.mx || t.lr.accrows != 0

/-- A scratchpad write meets the team's queued matrix operations: one that reads its bytes is spoiled (R151). -/
def State.spoil (s : State) (team : Nat) (t : Team) (off n : Nat) : State :=
  t.cores.foldl (fun s c => s.modCore c fun k =>
    { k with matq := k.matq.map fun o =>
        if o.team == team && (o.kind.reads t).any (meets (off, n)) then { o with spoiled := (off, t.sRead off n) :: o.spoiled } else o }) s

/-- Scratchpad bytes written by a thread, or by an engine, whose writes any thread's acquire may learn of (R125, R150, R151). -/
def State.sPutBy (s : State) (writer : Option Nat) (team off : Nat) (b : List Byte) : State :=
  match s.team? team with
  | none => s
  | some t =>
    if t.usesMatrix then
      (s.spoil team t off b.length).modTeam team fun t =>
        { t.sWrite off b with unfenced := { off := off, old := t.sRead off b.length, seen := writer.toList, told := writer.isNone } :: t.unfenced }
    else s.modTeam team fun t => t.sWrite off b

/-- Scratchpad bytes written by the copy engine or by a landing event. -/
def State.sPut (s : State) (team off : Nat) (b : List Byte) : State := s.sPutBy none team off b

/-- The write after a release of a thread, and after an acquire of one (R138). -/
def Unfenced.toldBy (tid : Nat) (u : Unfenced) : Unfenced := if u.seen.contains tid then { u with told := true } else u
def Unfenced.learnt (tid : Nat) (u : Unfenced) : Unfenced :=
  if u.told && !u.seen.contains tid then { u with seen := tid :: u.seen } else u

/-- A release of a thread: the scratchpad writes that happen before it may be learnt of (R138, R150). -/
def State.tells (s : State) (team tid : Nat) : State :=
  s.modTeam team fun t => { t with unfenced := t.unfenced.map (Unfenced.toldBy tid) }

/-- An acquire of a thread: the scratchpad writes released before it happen before what follows (R138, R150; log 20). -/
def State.learns (s : State) (team tid : Nat) : State :=
  s.modTeam team fun t => { t with unfenced := t.unfenced.map (Unfenced.learnt tid) }

/-- An MFENCE or a signature of a thread covers its writes and those that happen before it (R150, R376, R377). -/
def State.matFence (s : State) (team tid : Nat) : State :=
  s.modTeam team fun t => { t with unfenced := t.unfenced.filter fun (u : Unfenced) => !u.seen.contains tid }

end Sys2Proof.Machine
end

