-- ==== Sys2Proof/Machine/Landing.lean ====
section
/-! DEFINITION. Landing words of a team's scratchpad (12 R333, R334, R337, R338; 05 R125). -/

namespace Sys2Proof.Machine

/-- A landing word's fields (R333). -/
structure LandWord where
  count : Word
  target : Word
  gen : Word
  hi : Word
deriving DecidableEq, Repr

/-- The landing word at an offset (R333). -/
def Team.landAt (t : Team) (off : Nat) : LandWord :=
  let w (i : Nat) : Word := BitVec.ofNat 32 (ofBytes (t.sRead (off + 4 * i) 4))
  { count := w 0, target := w 1, gen := w 2, hi := w 3 }

/-- The 16 bytes of a landing word. -/
def LandWord.bytes (w : LandWord) : List Byte :=
  toBytes 4 w.count.toNat ++ toBytes 4 w.target.toNat ++ toBytes 4 w.gen.toNat ++ toBytes 4 w.hi.toNat

/-- Land(w, n, abort): ERR is bit 104 and OVR bit 105 of the word (R334). -/
def LandWord.land (w : LandWord) (n : Nat) (abort : Bool) : LandWord :=
  if abort then { w with hi := w.hi ||| 0x100, gen := w.gen + 1 }
  else
    let c := w.count + BitVec.ofNat 32 n
    if w.target ≤ c then
      let c' := c - w.target
      { w with count := c', gen := w.gen + 1, hi := if w.target ≤ c' then w.hi ||| 0x200 else w.hi }
    else { w with count := c }

/-- The registers an LWAIT writes: GEN and bits [127:96] of the word (R338). -/
def LandWord.result (w : LandWord) (dst : Nat) : List (Nat × Word) := [(dst, w.gen), (dst + 1, w.hi)]

/-- Threads that wait on a word are due to read it again (R338). -/
def State.landWake (s : State) (team off : Nat) : State :=
  let due := s.waiters team fun w => match w with
    | .land o _ _ _ => o == off
    | _ => false
  due.foldl (fun s x =>
    let s := s.modThread team x.1 fun t => t.modWin x.2.id fun w => match w.wait with
      | some (.land o g d _) => { w with wait := some (.land o g d s.clk) }
      | _ => w
    s.soon [Happening.row .lwaitRecheck { team := team, tid := x.1 }]) s

/-- A landing event on the word at an offset of a team's scratchpad (R334): held at the crown while the team is away
(R348); nothing for a team that is no longer living, and none on a poisoned word (R412). -/
def State.landEvent (s : State) (team off n : Nat) (abort : Bool) : State :=
  match s.team? team with
  | none => s
  | some t =>
    if t.resident then
      if off + 16 ≤ t.lr.scratch ∧ ¬ t.sPoisoned off 16 then
        (s.sPut team off ((t.landAt off).land n abort).bytes).landWake team off
      else s
    else
      { s with held := s.held ++ [{ team := team, chunk := none, msg :=
          { kind := .landing, dpkg := s.pkgid, spkg := s.pkgid, sctx := t.ctx, hops := 0, rid := 0
            op := if abort then 1 else 0, addr := BitVec.ofNat 52 off, data := toBytes 4 n, scr := true } }] }

end Sys2Proof.Machine
end

