-- ==== Sys2Proof/Machine/Send.lean ====
section
/-! DEFINITION. Requests to other packages: route, port and request id (14 R394, R397, R400 to R402). -/

namespace Sys2Proof.Machine

/-- Where a request for another package goes (R394, R402). -/
inductive Path where
  | port (p : Nat)
  /-- Waits for a port, at most until the clk given. -/
  | wait (till : Nat)
  | failed
  /-- KROUTE[d].V = 0. -/
  | noRoute
deriving DecidableEq, Repr

/-- The selection hash of R394. -/
def portHash (pa : Nat) : Nat := bits pa 12 7 ^^^ bits pa 18 13 ^^^ bits pa 24 19 ^^^ bits pa 30 25

/-- A port carries messages: it is Up, and its brim is reachable (R390, R427). -/
def State.carriesNow (s : State) (n : Nat) : Bool := (s.port n).st == .up && !(s.die (brimOfPort n)).lost

/-- The ports of a route entry in a state, ascending; those of a lost brim are none (R394, R427). -/
def State.routePorts (s : State) (d : Nat) (p : PortState → Bool) : List Nat :=
  let r := s.routes.get d Route.init
  (upTo 64).filter fun n => r.ports.getLsbD n && p (s.port n).st && !(s.die (brimOfPort n)).lost

/-- The path of a request for package d and an address (R394). -/
def State.path (s : State) (d pa : Nat) : Path :=
  if !(s.routes.get d Route.init).v then .noRoute
  else
    match s.routePorts d (· == .up) with
    | [] =>
      if (s.routePorts d fun x => x == .training || x == .attest).isEmpty then .failed else .wait (s.clk + 2 ^ 24)
    | u => .port (u.getD (portHash pa % u.length) 0)

/-- A message handed to a port's transmitter. -/
def State.transmit (s : State) (port : Nat) (m : Msg) : State :=
  s.modPort port fun p =>
    { p with sent := p.sent ++ [m], ch := if p.st = .up then p.ch.push kalsyFmt s.clk p.ch.rxSeq (msgBytes m) else p.ch }

/-- A message that answers a request. -/
def State.answerTo (s : State) (m : Msg) (kind : MsgKind) (op : Nat) (data : List Byte) : Msg :=
  { kind := kind, dpkg := m.spkg, spkg := s.pkgid, sctx := m.sctx, hops := 0, rid := m.rid, op := BitVec.ofNat 8 op
    addr := m.addr, data := data, scr := false }

/-- The message is a request. -/
def isRequest : MsgKind → Bool
  | .read => true
  | .write => true
  | .atomic => true
  | .cas => true
  | .chunk => true
  | .landing => true
  | .response => false
  | .ack => false
  | .refusal => false
  | .respAck => false

/-- A message of this package leaves for another: on the port given while that is Up, otherwise by the route, waiting as a request does
(R394; log 33). -/
def State.sendMsg (s : State) (via : Nat) (m : Msg) : State :=
  if s.carriesNow via then s.transmit via m
  else match s.path m.dpkg m.addr.toNat with
    | .port q => s.transmit q m
    | .wait t => { s with transit := s.transit ++ [{ via := via, msg := m, till := t }] }
    | .failed => s
    | .noRoute => s

/-- A message whose path has failed in transit: a request of another package is refused with cause 2 (R395). -/
def State.turnBack (s : State) (t : Transit) : State :=
  if isRequest t.msg.kind then s.sendMsg t.via (s.answerTo t.msg .refusal 2 []) else s

/-- A message for another package goes on by the route, waits for a port, or is turned back (R394, R395). -/
def State.sendOnward (s : State) (t : Transit) : State :=
  match s.path t.msg.dpkg t.msg.addr.toNat with
  | .port q => s.transmit q t.msg
  | .wait _ => { s with transit := s.transit ++ [t] }
  | .failed => s.turnBack t
  | .noRoute => s.turnBack t

/-- The messages that wait for a port try again, in order (R394, R395). -/
def State.moveTransit (s : State) : State := s.transit.foldl State.sendOnward { s with transit := [] }

/-- The lines that a request names: those of a chunk's block in memory, or its one line; a scratchpad has none (R394). -/
def msgLines (m : Msg) : List Nat :=
  match m.kind with
  | .chunk => if m.scr then [] else linesOf m.addr.toNat m.data.length
  | .landing => []
  | _ => [lineOf m.addr.toNat]

/-- An earlier request to one of the same lines went by another port, or still waits: a later one waits (R394). -/
def lineBusy (earlier : List RemReq) (m : Msg) (port : Nat) : Bool :=
  earlier.any fun r => r.msg.dpkg == m.dpkg && r.port != some port && (msgLines r.msg).any (msgLines m).contains

/-- A request id that no outstanding request uses (R397, R400). -/
def State.takeRid (s : State) : Nat × State :=
  let rid := ((upTo (s.reqs.length + 1)).map fun i => (s.nextRid + i) % 2 ^ 24).find? fun n => !(s.reqs.any fun r => r.rid == n)
  let rid := rid.getD s.nextRid
  (rid, { s with nextRid := (rid + 1) % 2 ^ 24 })

/-- A kept request replaced. -/
def State.modReq (s : State) (rid : Nat) (f : RemReq → RemReq) : State :=
  { s with reqs := s.reqs.map fun (r : RemReq) => if r.rid == rid then f r else r }

/-- A kept request goes out on a port; its context touches the brim (R30). -/
def State.sendOn (s : State) (r : RemReq) (port : Nat) : State :=
  ((s.modReq r.rid fun x => { x with port := some port, waitTill := none }).transmit port r.msg).touch r.ctx (brimOfPort port)

/-- A kept request takes its path: a port, unless an earlier request to its line holds it back; or it waits for one (R394). -/
def State.sendKept (s : State) (r : RemReq) : State :=
  match s.path r.msg.dpkg r.msg.addr.toNat with
  | .port p => if lineBusy (s.reqs.takeWhile fun x => x.rid != r.rid) r.msg p then s.modReq r.rid fun x => { x with waitTill := none } else s.sendOn r p
  | .wait t => s.modReq r.rid fun x => { x with waitTill := some (x.waitTill.getD t) }
  | .failed => s.modReq r.rid fun x => { x with waitTill := some s.clk }
  | .noRoute => s.modReq r.rid fun x => { x with waitTill := some s.clk }

/-- A request kept under a fresh id and sent, or kept waiting (R394, R400). -/
def State.sendReq (s : State) (m : Msg) (what : ReqWhat) (team tid ctx : Nat) : Nat × State :=
  let (rid, s) := s.takeRid
  let r : RemReq :=
    { rid := rid, msg := { m with rid := rid, spkg := s.pkgid, sctx := ctx, hops := 0 }, port := none, what := what
      team := team, tid := tid, ctx := ctx, waitTill := none }
  (rid, { s with reqs := s.reqs ++ [r] }.sendKept r)

/-- Kept requests that have no port, and messages that wait for one, take their path as the ports now stand, in order (R394, R395). -/
def State.sendWaiting (s : State) : State :=
  ((s.reqs.filter fun r => r.port.isNone).foldl (fun s r => s.sendKept r) s).moveTransit

/-- The first data unit of a delivery: DLID, DTEAM, DLAND and DLV (R397). -/
def deliveryUnit (dlid dteam dland : Nat) (dlv : Bool) : List Byte :=
  toBytes 4 dlid ++ toBytes 4 dteam ++ toBytes 4 dland ++ toBytes 4 (b2n dlv)

/-- A message without its transport fields. -/
def bareMsg (kind : MsgKind) (dpkg : Nat) (op : Nat) (addr : Nat) (data : List Byte) : Msg :=
  { kind := kind, dpkg := dpkg, spkg := 0, sctx := 0, hops := 0, rid := 0, op := BitVec.ofNat 8 op
    addr := BitVec.ofNat 52 addr, data := data, scr := false }

end Sys2Proof.Machine
end

