-- ==== Sys2Proof/Machine/Hood.lean ====
section
/-! DEFINITION. The hood's layout, thread records and call frames (02 R46, R47; 06 R156; 09 R253 to R255). -/

namespace Sys2Proof.Machine

/-- Blocks of 32 TIDs (R46). -/
def LaunchRec.blocks (l : LaunchRec) : Nat := ceilDiv l.tsize 32
/-- Offset of the register lines (R46). -/
def LaunchRec.regBase (l : LaunchRec) : Nat := 0x400 + 0x400 * l.blocks
/-- Offset of the call stacks (R46). -/
def LaunchRec.callBase (l : LaunchRec) : Nat := l.regBase + 128 * l.blocks * (l.nreg + 2)
/-- Offset of the thread-private section (R46). -/
def LaunchRec.privBase (l : LaunchRec) : Nat := alignUp (l.callBase + 16 * l.calld * 32 * l.blocks) 128
/-- Bytes of a hood (R46). -/
def LaunchRec.hoodEnd (l : LaunchRec) : Nat := l.privBase + l.priv * 32 * l.blocks
/-- The stride of the hood arena (R254). -/
def LaunchRec.hstride (l : LaunchRec) : Nat := alignUp l.hoodEnd 65536

/-- The virtual address of a team's hood (R254). -/
def Team.hood (t : Team) : Nat := t.lr.hoods + t.hslot * t.lr.hstride
/-- The address of frame i of thread `tid` (R46). -/
def Team.frameVa (t : Team) (tid i : Nat) : Nat := t.hood + t.lr.callBase + 16 * (tid * t.lr.calld + i)
/-- The address of private byte x of thread `tid` (R46). -/
def Team.privVa (t : Team) (tid x : Nat) : Nat := t.hood + t.lr.privBase + tid * t.lr.priv + x

/-- STATE of a thread record (R47). -/
def TState.code : TState → Nat
  | .running => 0
  | .filed => 1
  | .parked => 2
  | .exited => 3

/-- The thread record (R47). -/
def Thread.record (t : Thread) : Nat :=
  t.rngent.toNat * 2 ^ 216 + t.rngctr.toNat * 2 ^ 176 + b2n t.frec * 2 ^ 172 + t.wait.toNat * 2 ^ 168
    + t.st.code * 2 ^ 166 + (t.preds ||| 0x80).toNat * 2 ^ 158 + t.csp % 65536 * 2 ^ 142 + t.rcnt.toNat * 2 ^ 110
    + t.rpc.toNat * 2 ^ 55 + t.pc.toNat

/-- The records of a team's threads written to its hood (R47, R153). -/
def State.writeRecords (s : State) (team : Nat) : State :=
  match s.team? team with
  | none => s
  | some tm =>
    (s.threadsOf team).foldl (fun s x => (s.vWrite tm.ctx (tm.hood + 0x400 + 32 * x.1) (toBytes 32 x.2.record)).2) s

/-! ### Frames (R156) -/

/-- The call layout. -/
def callFrame (ret : Pc) : BitVec 128 := ret.setWidth 128

/-- The save layout. -/
def saveFrame (t : Thread) : BitVec 128 :=
  BitVec.ofNat 128 (b2n t.frec * 2 ^ 95 + t.rngent.toNat * 2 ^ 55 + t.rpc.toNat)

/-- The trap layout. -/
def trapFrame (x : Trap) : BitVec 128 :=
  BitVec.ofNat 128 (x.info.toNat * 2 ^ 64 + x.kind % 128 * 2 ^ 57 + x.len % 4 * 2 ^ 55 + x.pc.toNat)

/-- System software has written some of n bytes of the team's hood from an address, and the team has not written them since (R48). -/
def Team.upsetAt (t : Team) (va n : Nat) : Bool := t.upset.any fun o => decide (va ≤ t.hood + o) && decide (t.hood + o < va + n)

/-- The team has written n bytes of its hood from an address (R48). -/
def Team.mend (t : Team) (va n : Nat) : Team :=
  { t with upset := t.upset.filter fun o => !(decide (va ≤ t.hood + o) && decide (t.hood + o < va + n)) }

/-- A team's write of n bytes of its hood ends what system software's writes left unspecified there (R48). -/
def State.mendHood (s : State) (tm : Team) (va n : Nat) : State :=
  if tm.upset.isEmpty then s else s.modTeam (tHandle tm.lid tm.n) fun t => t.mend va n

/-- A frame of a thread, read from the hood; none where the hood is not mapped. Where system software has written it, it is an
unspecified value (R48; log 62). -/
def State.frameAt (s : State) (tm : Team) (tid i : Nat) : Option (BitVec 128) × State :=
  let (r, s) := s.vRead tm.ctx (tm.frameVa tid i) 16
  if r.isSome && tm.upsetAt (tm.frameVa tid i) 16 then
    let (b, s) := s.freeBytes 16
    (some (BitVec.ofNat 128 (ofBytes b)), s)
  else (r.map fun l => BitVec.ofNat 128 (ofBytes l), s)

/-- A frame of a thread written to the hood; false where the hood is not mapped writable. -/
def State.setFrame (s : State) (tm : Team) (tid i : Nat) (f : BitVec 128) : Bool × State :=
  let (ok, s) := s.vWrite tm.ctx (tm.frameVa tid i) (toBytes 16 f.toNat)
  (ok, s.mendHood tm (tm.frameVa tid i) 16)

/-- KIND of a frame: non-zero exactly for a trap frame (R156). -/
def frameKind (f : BitVec 128) : Nat := bits f.toNat 63 57

end Sys2Proof.Machine
end

