-- ==== Sys2Proof/Machine/Stop.lean ====
section
/-! DEFINITION. Ends: aborted copies, freed queue slots, retired launches, teams taken off their cores, and the context fault
(09 R259 to R261, R269, R271; 12 R334, R344; 15 R413, R414, R419). -/

namespace Sys2Proof.Machine

/-! ### Aborted copies -/

/-- The fields of an import window's IWCTL (R398). -/
def ImpWin.on (w : ImpWin) : Bool := w.ctl.getLsbD 0
def ImpWin.from_ (w : ImpWin) (spkg sctx : Nat) : Bool :=
  (w.ctl.getLsbD 39 || bits w.ctl.toNat 48 40 == spkg) && (w.ctl.getLsbD 31 || bits w.ctl.toNat 37 32 == sctx)
def ImpWin.lctx (w : ImpWin) : Nat := bits w.ctl.toNat 13 8

/-- Some import window admits a delivery into the scratchpads of a local context (R331, R398). -/
def State.deliveryOk (s : State) (spkg sctx lctx : Nat) : Bool :=
  (upTo 32).any fun i =>
    let w := s.iwins.get i ImpWin.init
    w.on && w.ctl.getLsbD 4 && w.ctl.getLsbD 2 && w.lctx == lctx && w.from_ spkg sctx

/-- The destination team of a request, where it is of this package. -/
def CopyReq.destTeam (r : CopyReq) (pkg : Nat) : Option Nat :=
  if r.blk.dsp = 2 ∧ r.blk.dpkg = pkg then some (tHandle r.blk.dlid r.blk.dteam) else none

/-- Why a request may not reach its destination team of this package: it is not living, or the peer rules refuse its context (R331,
R344, R455). -/
def State.destFault (s : State) (r : CopyReq) : Option Nat :=
  match r.destTeam s.pkgid with
  | none => none
  | some h =>
    match s.team? h with
    | none => some 0x18
    | some t => if t.ctx ≠ r.ctx ∧ ¬ s.deliveryOk s.pkgid r.ctx t.ctx then some 0x19 else none

/-- The abort event of R334 on each valid landing word of a request that can be reached: one of a team of this package under its peer
rules, one of another package by a landing message (R331, R403). -/
def State.landAborts (s : State) (r : CopyReq) : State :=
  let s := if r.blk.slv then s.landEvent r.team r.blk.sland 0 true else s
  if r.blk.dlv then
    if r.blk.dsp ≠ 2 then s.landEvent r.team r.blk.dland 0 true
    else if r.blk.dpkg = s.pkgid then
      (if (s.destFault r).isNone then s.landEvent (tHandle r.blk.dlid r.blk.dteam) r.blk.dland 0 true else s)
    else
      (s.sendReq
        (bareMsg .landing r.blk.dpkg 1 0 (deliveryUnit r.blk.dlid r.blk.dteam r.blk.dland true)) .landing r.team r.tid r.ctx).2
  else s

/-- A request leaves its core's queue. -/
def State.dropCopy (s : State) (core id : Nat) : State :=
  s.modCore core fun k => { k with copyq := k.copyq.filter fun r => r.id != id }

/-- The requests that `p` names end where they are, each with its abort event (R414). -/
def State.dropCopies (s : State) (p : CopyReq → Bool) : State :=
  s.cores.keys.foldl (fun s k => ((s.core k).copyq.filter p).foldl (fun s r => (s.dropCopy k r.id).landAborts r) s) s

/-- A request is aborted (R344, R455): abort events and a CopyAbort record; rows written stand. -/
def State.copyAbort (s : State) (core : Nat) (r : CopyReq) (cause row : Nat) : State :=
  let s := (s.dropCopy core r.id).landAborts r
  s.event { kind := 0x07, vt := true, vl := true, ctx := r.ctx, core := core, die := dieOf core, lid := r.team / 2 ^ 24
            team := r.team % 2 ^ 24, tid := r.tid, pc := r.pc.toNat, info := r.blk.rtag.toNat
            aux := row % 2 ^ 24 * 256 + cause, block := r.raw }

/-! ### Queue slots and reservations -/

/-- QUEUED: launches posted and not retired, and records granted a slot (R256, R260). -/
def Queue.queued (q : Queue) : Nat := q.slots.length + q.posts.length

/-- FREE: SIZE − QUEUED − reservations held (R256). -/
def Queue.free (q : Queue) : Nat := q.size - q.queued - q.rsvs - q.hostRsv.length

/-- A slot of the queue has become free: it goes to the thread parked first, if any (R261). -/
def State.freeSlot (s : State) (n : Nat) : State :=
  let q := s.queue n
  match q.parked with
  | [] => s
  | p :: r =>
    let s := s.setQueue n { q with parked := r, posts := q.posts ++ [{ p with at_ := s.clk }] }
    match p.poster with
    | none => s
    | some (team, tid) =>
      match (s.thread? team tid).bind fun t => t.waiting fun w => match w with
          | .launch _ _ _ _ _ => true
          | _ => false with
      | some w => (s.modThread team tid fun t => t.modWin w.id fun v => { v with wait := none }).file team tid 0
      | none => s

/-- A thread's reservation is released (R259). -/
def State.freeRsv (s : State) (team tid : Nat) : State :=
  match (s.thread? team tid).bind (·.rsv) with
  | some q =>
    ((s.modThread team tid fun t => { t with rsv := none }).modQueue q fun d => { d with rsvs := d.rsvs - 1 }).freeSlot q
  | none => s

/-- A thread leaves its batt or group with a trap to be delivered (R167, R168). -/
def State.pendTrap (s : State) (team tid : Nat) (x : Trap) : State :=
  (s.unsched team tid).modThread team tid fun t => { t.addTrap x with st := .running, wait := 0 }

/-- A thread's LAUNCH that has not been copied faults with QueueFault (R271). -/
def State.launchFault (s : State) (q : Nat) (team tid : Nat) : State :=
  match s.thread? team tid with
  | none => s
  | some t =>
    match t.wins.find? fun w => w.kind == .post with
    | none => s
    | some w =>
      let x : Trap := { kind := kQueueFault, info := BitVec.ofNat 64 q, pc := w.pc, len := (t.pc - w.pc).toNat / 4, seq := w.id }
      (s.modThread team tid fun t => { t with wins := t.wins.filter fun v => v.id != w.id, entry := none }).pendTrap team tid x

/-- The poster of a record that is not copied faults; a host's record is dropped (log 75). -/
def State.posterFault (s : State) (q : Nat) (p : Post) : State :=
  match p.poster with
  | some (t, i) => s.launchFault q t i
  | none => s

/-- EN := 0: parked posters fault with cause 1, host reservations are released (R256, R271, R448). -/
def State.disableQueue (s : State) (n : Nat) : State :=
  let q := s.queue n
  let s := s.setQueue n { q with en := false, hostRsv := [], parked := [], err := if q.parked.isEmpty then q.err else 1 }
  q.parked.foldl (fun s p => s.posterFault n p) s

/-! ### Teams leaving -/

/-- A queue that no thread of a team waits for. -/
def Queue.forget (q : Queue) (team : Nat) : Queue :=
  { q with parked := q.parked.filter fun p => p.poster.all fun x => x.1 != team
           posts := q.posts.map fun p => { p with poster := p.poster.filter fun x => x.1 != team } }

/-- A team's threads and what its cores hold of them are gone; the team itself stays listed. -/
def State.clearThreads (s : State) (team : Nat) : State :=
  match s.team? team with
  | none => s
  | some tm =>
    let s := (s.threadsOf team).foldl (fun s x => s.freeRsv team x.1) s
    let s := { s with queues := s.queues.mapKV fun _ q => q.forget team }
    let s := tm.cores.foldl (fun s c => s.modCore c fun k =>
      { k.unsched (fun a _ => a == team) with
        colls := k.colls.filter fun x => x.team != team, matq := k.matq.filter fun o => o.team != team }) s
    { s with threads := s.threads.filter fun e => e.1 / 4096 != team }

/-- A team leaves the machine: threads, slots, scratchpad, accumulator rows and hood slot are freed (R54, R254, R414). -/
def State.dropTeam (s : State) (team : Nat) : State :=
  let s := s.clearThreads team
  match s.team? team with
  | none => s
  | some tm =>
    let s := { s with teams := s.teams.drop team }
    s.modLaunch tm.lid fun l => { l with slots := l.slots.filter fun e => e.2 != tm.n, retired := l.retired ++ [tm.n] }

/-- The teams of a launch that exist. -/
def State.teamsOf (s : State) (lid : Nat) : List Nat := (s.teams.filter fun e => e.2.lid == lid).map (·.1)

/-! ### Launches -/

/-- A launch ends with a status other than 0 (R269): its copy requests and its teams go at once, what it has not placed is never
placed, and it claims nothing. Its completion word follows in its row LAUNCH_RETIRE, once what it stored has been accepted (log 40). -/
def State.endLaunch (s : State) (lid status : Nat) : State :=
  match s.launch? lid with
  | none => s
  | some l =>
    if l.ended.isSome then s
    else
      let s := s.dropCopies fun r => r.team / 2 ^ 24 == lid
      ((s.teamsOf lid).foldl State.dropTeam s).modLaunch lid fun l =>
        { l with ended := some status, started := true, next := l.lr.nteams, cohorts := [], claim := [], claimInst := [] }

/-! ### Context faults (R414) -/

/-- The reservations of a faulted context's threads stay held until its destruction (R259). -/
def State.keepRsvs (s : State) (c : Nat) : State :=
  let hs := (s.teams.filter fun e => e.2.ctx == c).map (·.1)
  let qs := (s.threads.filter fun e => hs.contains (e.1 / 4096)).filterMap fun e => e.2.rsv
  let s := s.modCtx c fun x => { x with rsvs := x.rsvs ++ qs }
  hs.foldl (fun s h => s.modThreads h fun _ t => { t with rsv := none }) s

/-- The queues bound to a context are disabled, and the records that they have accepted and not copied are dropped: their posters
fault (R257, R271; log 75). -/
def State.closeQueues (s : State) (c : Nat) : State :=
  let bound := (s.queues.filter fun e => e.2.ctx == c).map (·.1)
  let s := bound.foldl State.disableQueue s
  bound.foldl (fun s n => (s.queue n).posts.foldl (fun s p => s.posterFault n p) (s.modQueue n fun q => { q with posts := [] })) s

/-- The context's time of effects: it becomes Faulted, its queues are disabled, its copies aborted, its teams stopped with
their records in their hoods, its retention ranges freed, its launches ended with status 3. Records granted a slot and not yet
copied go with the queue (log 75). -/
def State.stopContext (s : State) (c : Nat) : State :=
  let s := (s.modCtx c fun x => { x with st := .faulted }).closeQueues c
  let s := s.dropCopies fun r => r.ctx == c
  let s := ((s.teams.filter fun e => e.2.ctx == c).map (·.1)).foldl State.writeRecords s
  let s := s.keepRsvs c
  let s := ((s.launches.filter fun e => e.2.ctx == c).map (·.1)).foldl (fun s l => s.endLaunch l 3) s
  { s with dies := s.dies.mapKV fun _ d => { d with retain := d.retain.filter fun e => e.1 / 4 != c } }

/-- An Active or Switched-out context becomes Faulted; its other effects follow (R414; log 34). -/
def State.faultContext (s : State) (c : Nat) : State :=
  let due : State := (s.modCtx c fun x => { x with st := .faulted }).soon [Happening.row .contextFault { ctx := c }]
  match (s.ctx c).st with
  | .active => due
  | .switchedOut => due
  | .free => s
  | .faulted => s

/-- A context fault with its record: written to the ring and, if it is the context's first, to its fault slot (R414, R419).
A context already Faulted or Free gets the record only (R432). -/
def State.contextFault (s : State) (c : Nat) (r : EvRec) : State :=
  let s := s.eventRec r
  let s := if (s.ctx c).st ≠ .free ∧ (s.fslots.find c).isNone then { s with fslots := s.fslots.put c r } else s
  s.faultContext c

/-- The record of an event that names a thread of a team (R417). -/
def State.threadRec (s : State) (kind team tid : Nat) (pc : Pc) (info aux pa : Nat) : EvRec :=
  match s.team? team with
  | some tm =>
    Event.encode { kind := kind, vt := true, vl := true, ctx := tm.ctx, core := tm.coreOf tid, die := dieOf (tm.coreOf tid)
                   lid := tm.lid, team := tm.n, tid := tid, pc := pc.toNat, info := info, aux := aux, clock := s.clk, pa := pa }
  | none => Event.encode { kind := kind, info := info, aux := aux, clock := s.clk, pa := pa }

/-! ### Copies that fault -/

/-- A request of a core's queue changed. -/
def State.modCopy (s : State) (c id : Nat) (f : CopyReq → CopyReq) : State :=
  s.modCore c fun k => { k with copyq := k.copyq.map fun r => if r.id == id then f r else r }

/-- An imprecise copy fault (R344): the context faults with the block in the report, and the request ends. -/
def State.copyFault (s : State) (c : Nat) (r : CopyReq) (aux : Nat) : State :=
  let gone := (s.team? r.team).isNone
  let exited := match s.thread? r.team r.tid with
    | some t => decide (t.st = .exited)
    | none => true
  (s.contextFault r.ctx
    (Event.encode { kind := 0x06, orph := exited, vt := !gone, vl := true, ctx := r.ctx, core := c, die := dieOf c
                    lid := r.team / 2 ^ 24, team := if gone then 0 else r.team % 2 ^ 24, tid := if gone then 0 else r.tid
                    pc := if gone then 0 else r.pc.toNat, info := r.blk.rtag.toNat, aux := aux, clock := s.clk, block := r.raw })).dropCopy c r.id

end Sys2Proof.Machine
end

