-- ==== Sys2Proof/Machine/Ops.lean ====
section
/-! DEFINITION. The operations instructions share: taking a trap and a page fault, consuming poison, running an instruction on
the threads of a group, and the parts of a group after it (02 R57, R58; 03 R94 to R96; 06 R157, R159, R167, R168; 11 R323;
15 R412, R413). -/

namespace Sys2Proof.Machine

/-! ### Taking an exception -/

/-- Delivery of a thread's pending trap, when no earlier result is outstanding (R167): the trap pair is written at CSP, the PC
becomes TVEC, a region begins there and the thread is filed; with no handler or no room, the context faults. Where the hood
cannot be written, the launch ends with status 4 (R254). -/
def State.deliverTrap (s : State) (team tid : Nat) : State :=
  match s.team? team, s.thread? team tid with
  | some tm, some t =>
    match t.trap with
    | none => s
    | some x =>
      if t.wins.any fun w => !w.kind.isMacrd then s
      else if tm.lr.tvec = 0 ∨ tm.lr.calld < t.csp + 2 then
        s.contextFault tm.ctx (s.threadRec 0x01 team tid x.pc x.info.toNat x.kind 0)
      else
        let (a, s) := s.setFrame tm tid t.csp (saveFrame t)
        let (b, s) := s.setFrame tm tid (t.csp + 1) (trapFrame x)
        if a && b then
          (s.modThread team tid fun t =>
            { t with csp := t.csp + 2, pc := BitVec.ofNat 55 tm.lr.tvec, trap := none, pfva := none, wait := 0
                     entry := none }.startEntry (BitVec.ofNat 55 tm.lr.tvec)).file team tid 0
        else s.endLaunch tm.lid 4
  | _, _ => s

/-- A thread takes a trap (R166 to R168): it leaves its group, and the trap is delivered once every earlier instruction of
the thread has reached its completion point. -/
def State.takeTrap (s : State) (team tid : Nat) (x : Trap) : State := (s.pendTrap team tid x).deliverTrap team tid

/-- A trap of the instruction at `pc`, the latest of its thread in program order. -/
def State.trapAt (s : State) (kind : Nat) (info : DWord) (pc : Pc) (len : Nat) : Trap :=
  { kind := kind, info := info, pc := pc, len := len, seq := s.nextId }

/-- A page fault of a thread at the instruction at `pc` (R58, R323): it leaves its group and parks with WAIT = 6, a later trap that
waits for delivery is discarded (R168), and its record enters the ring, waits, or is dropped as a duplicate. -/
def State.pageFault (s : State) (team tid : Nat) (pc : Pc) (va : DWord) (cause : Nat) (wr xf : Bool) : State :=
  match s.team? team, s.thread? team tid with
  | some tm, some t =>
    let s := (s.unsched team tid).modThread team tid fun t =>
      { t with st := .parked, wait := 6, frec := true, pfva := some va, pc := pc, entry := none, trap := none }
    s.pfRecord
      { cause := cause, ctx := tm.ctx, core := tm.coreOf tid, wr := wr, xf := xf, rep := t.frec, lid := tm.lid
        team := tm.n, tid := tid, pc := pc.toNat, va := va.toNat }
  | _, _ => s

/-! ### Consumption of poison (R412, R413) -/

/-- A team's part in the barriers of its cohort withdrawn (R250, R413). -/
def State.withdraw (s : State) (team : Nat) : State :=
  match s.team? team with
  | none => s
  | some tm =>
    s.modLaunch tm.lid fun l =>
      { l with cohorts := l.cohorts.mapKV fun _ c =>
          { c with bars := c.bars.map fun b => { b with arr := b.arr.filter fun a => a.1 != team } } }

/-- A killed team as it is handed to the launch engine: nothing of its run is left, RETRY is one more, and a relaunch is
pending (R270, R339, R413). -/
def Team.killedTeam (t : Team) : Team :=
  { t with resident := false, killed := true, saved := false, retry := t.retry + 1, log := [], lcore := t.core
           bins := List.replicate 32 0, hold := List.replicate 16 0, hvalid := 0, scratch := [], poisonScratch := [], unfenced := []
           tbg := List.replicate 16 0, eng := [] }

/-- A team is stopped, discarded and handed over (R413), with KILLED set in its hood (R255); past RLIMIT its launch ends with status
2 and its context faults (R270). -/
def State.stopTeam (s : State) (team : Nat) (rec : EvRec) : State :=
  match s.team? team with
  | none => s
  | some tm =>
    let s := ((s.withdraw team).clearThreads team).modTeam team Team.killedTeam
    let (ok, s) := s.vWrite tm.ctx (tm.hood + 0x298) (toBytes 4 2)
    if tm.lr.rlimit < tm.retry + 1 then (s.endLaunch tm.lid 2).contextFault tm.ctx rec
    else if ok then s else s.endLaunch tm.lid 4

/-- The teams of the cohort of a team (R44). -/
def State.cohortTeams (s : State) (team : Nat) : List Nat :=
  match s.team? team with
  | none => []
  | some tm => (s.teamsOf tm.lid).filter fun h => h % 2 ^ 24 / tm.lr.cn == tm.n / tm.lr.cn

/-- The team holds cohort-level barriers (R62, R246). -/
def LaunchRec.hasBars (l : LaunchRec) : Bool :=
  (l.clvl == 1 && l.bclus != 0) || ((l.clvl == 2 || l.clvl == 3) && l.bdie != 0) || ((l.clvl == 4 || l.clvl == 5) && l.bpkg != 0)

/-- A team that consumed poison inside its window is killed with a TeamKilled record; a cohort with cohort-level barriers is
killed whole (R62, R270, R413). -/
def State.killTeam (s : State) (team tid : Nat) (pc : Pc) (pa : Nat) : State :=
  match s.team? team with
  | none => s
  | some tm =>
    let r := s.threadRec 0x04 team tid pc 0 (tm.retry + 1) pa
    let s := s.eventRec r
    if tm.lr.hasBars then (s.cohortTeams team).foldl (fun s h => s.stopTeam h r) s else s.stopTeam team r

/-- A consumption of poison by a thread (R412): inside the relaunch window the team is killed, otherwise the context faults
with ConsumedUE. `loc` is the location code of R418. -/
def State.consume (s : State) (team tid : Nat) (pc : Pc) (loc pa : Nat) : State :=
  match s.team? team with
  | none => s
  | some tm =>
    if tm.window then s.killTeam team tid pc pa
    else s.contextFault tm.ctx (s.threadRec 0x03 team tid pc 0 loc pa)

/-- The location code of a local address in DRAM (R418). -/
def dramLoc (pa : Nat) : Nat := if pa < 0x06000000000 then 4 else 5

/-! ### The group that executes -/

/-- The group that executes: core, slot, group, its team. -/
def State.curGroup (s : State) : Option (Nat × Nat × Group × Team) :=
  match s.cur with
  | none => none
  | some (c, slot) =>
    match (s.core c).active.find slot with
    | none => none
    | some g => (s.team? g.team).map fun tm => (c, slot, g, tm)

/-- A thread is live for an instruction (R67). -/
def Thread.live (t : Thread) (h : Hdr) : Bool := t.pred h.gp.toNat != h.gn

/-- An operand in v registers: whether it is read, its first register, how many. -/
structure VOp where
  read : Bool
  reg : Nat
  n : Nat
deriving DecidableEq, Repr

def vR (r : VReg) (n : Nat := 1) : VOp := ⟨true, r.toNat, n⟩
def vW (r : VReg) (n : Nat := 1) : VOp := ⟨false, r.toNat, n⟩
/-- The v operand of a source B, n registers. -/
def srcOps (b : SrcB) (n : Nat := 1) : List VOp :=
  match b with
  | .reg r => [vR r n]
  | .lit _ => []
  | .xreg r => [vR r n]
  | .xk _ => []
/-- The v operand of an extension B, n registers. -/
def extOps (b : ExtB) (n : Nat := 1) : List VOp :=
  match b with
  | .v r => [vR r n]
  | .k _ => []

/-- The fault of R94 that precedes the guard: RegisterRange on the first operand that reaches NREG (R39, log 11), then
Privilege. -/
def preFault (tm : Team) (priv : Option DWord) (vs : List VOp) (ctxPriv : Bool) : Option (Nat × DWord) :=
  match vs.find? fun v => tm.lr.nreg < v.reg + v.n with
  | some v => some (kRegisterRange, BitVec.ofNat 64 (max v.reg tm.lr.nreg))
  | none =>
    match priv with
    | some i => if ctxPriv then none else some (kPrivilege, i)
    | none => none

/-- The poison a thread would consume by an instruction (R412): its predicate line, or a source register if it is live. -/
def Thread.eats (t : Thread) (h : Hdr) (vs : List VOp) : Bool :=
  t.predPoison || (t.live h && vs.any fun v => v.read && t.poisoned.any fun p => v.reg ≤ p && p < v.reg + v.n)

/-- The threads of a group, in lane order: lane, TID, thread. -/
def State.laneThreads (s : State) (g : Group) : List (Nat × Nat × Thread) :=
  g.lanes.filterMap fun l => (s.thread? g.team l.2).map fun t => (l.1, l.2, t)

/-- Every thread of the group changed by `f` of its TID. -/
def State.mapGroup (s : State) (g : Group) (f : Nat → Thread → Thread) : State :=
  { s with threads := s.threads.mapKV fun k t =>
      if k / 4096 = g.team ∧ g.lanes.any (fun l => l.2 == k % 4096) then f (k % 4096) t else t }

/-- Every thread of the group takes a trap (R96). -/
def State.trapGroup (s : State) (g : Group) (kind : Nat) (info : DWord) (len : Nat) : State :=
  (s.laneThreads g).foldl (fun s x => s.takeTrap g.team x.2.1 (s.trapAt kind info x.2.2.pc len)) s

/-! ### Parts (R159, R179) -/

/-- The active-set slots a part may take: free ones, slot 7 only while the stray batt is empty (R159, R179). -/
def Core.freeSlots (k : Core) : List Nat :=
  (upTo 8).filter fun i => (k.active.find i).isNone && (i < 7 || (k.batts.find 63).isNone)

/-- Lanes split by the next PC of their threads, parts in order of their lowest lane (R159). -/
def partsOf (pcOf : Nat → Pc) : List (Nat × Nat) → List (Pc × List (Nat × Nat))
  | [] => []
  | l :: r =>
    let ps := partsOf pcOf r
    let pc := pcOf l.2
    match ps.find? fun p => p.1 == pc with
    | some p => (pc, l :: p.2) :: ps.filter fun q => q.1 != pc
    | none => (pc, [l]) :: ps

/-- A further part of a diverged group: a free slot, or filed (R159). -/
def State.placePart (s : State) (c : Nat) (g : Group) (lanes : List (Nat × Nat)) : State :=
  let k := s.core c
  match k.freeSlots with
  | i :: _ => s.setCore c { k with active := k.active.put i { g with lanes := lanes, latch := [], since := s.clk } }
  | [] => lanes.foldl (fun s l => s.file g.team l.2 0) s

/-- The parts of a group after its instruction: a stray group's thread is filed again (R179); a group whose threads have several
next PCs diverges (R159); the reuse latch is kept or dropped (R188). -/
def State.parts (s : State) (c slot : Nat) (latch : List Nat) : State :=
  let k := s.core c
  match k.active.find slot with
  | none => s
  | some g =>
    if g.stray then
      let s := s.setCore c { k with active := k.active.drop slot }
      g.lanes.foldl (fun s l => s.file g.team l.2 0) s
    else
      let pcOf (tid : Nat) : Pc := ((s.thread? g.team tid).map (·.pc)).getD 0
      match partsOf pcOf g.lanes with
      | [] => s
      | [_] => if latch = g.latch then s else s.setCore c { k with active := k.active.put slot { g with latch := latch } }
      | p :: rest =>
        let s := s.setCore c { k with active := k.active.put slot { g with lanes := p.2, latch := [] } }
        rest.foldl (fun s q => s.placePart c g q.2) s

/-- After an instruction: its group's parts; and slot 7 is given up where a thread of it went to the stray batt (R179). -/
def State.settle (s : State) (c slot : Nat) (latch : List Nat) : State := (s.parts c slot latch).strayRoom c

/-- The latch an instruction leaves: the registers of operand A that it does not write, if RU is set (R188). `vs` are its operands
in v registers. -/
def latchOf (h : Hdr) (a : Option VReg) (vs : List VOp) : List Nat :=
  match a with
  | none => []
  | some r =>
    if h.ru then
      let n := ((vs.find? fun v => v.read && v.reg == r.toNat).map (·.n)).getD 1
      ((upTo n).map (r.toNat + ·)).filter fun x => !(vs.any fun v => !v.read && decide (v.reg ≤ x) && decide (x < v.reg + v.n))
    else []

/-! ### Running an instruction -/

/-- What a vector ALU instruction does to one live thread: register and predicate writes, conditions raised, draws taken. -/
structure Eff where
  regs : List (Nat × Word) := []
  preds : List (Nat × Bool) := []
  flags : BitVec 6 := 0
  draws : Nat := 0
deriving DecidableEq, Repr

/-- A trap kind and its INFO. -/
abbrev Flt := Nat × DWord

/-- The conditions enabled in FPCTL [12:8] (R105). -/
def Thread.enables (t : Thread) : BitVec 6 := (t.fpctl >>> 8).setWidth 6 &&& 0x1F

/-- A short-latency instruction on one live thread (R109, R115, R185). -/
def Thread.short (t : Thread) (e : Eff) : Thread :=
  { ((t.writeRegs e.regs).writePreds e.preds).orFlags e.flags with rngctr := t.rngctr + BitVec.ofNat 40 e.draws }

/-- A long-latency vector ALU instruction on one live thread: its window opens with the result ready, or, with nothing to write,
with the late FPException found (R4, R109, R168, R184). `t` is the thread at issue, `pci` and `len` the instruction's. -/
def Thread.long (t : Thread) (h : Hdr) (id : Nat) (pci : Pc) (len : Nat) (e : Eff) : Thread :=
  let bad := e.flags &&& t.enables != 0
  let w : Window :=
    { id := id, kind := .alu, left := h.la.toNat, ready := true, regs := e.regs, preds := e.preds, flags := e.flags
      late := if bad then some { kind := kFPException, info := e.flags.setWidth 64, pc := pci, len := len, seq := id } else none
      canLate := t.enables != 0, wait := none, pc := pci, yh := h.yh }
  if bad then t.openWin { w with regs := [], preds := [] } [] []
  else
    let t := t.openWin w (e.regs.map (·.1)) (e.preds.map (·.1))
    { t with rngctr := t.rngctr + BitVec.ofNat 40 e.draws }

/-- One thread's part in a vector ALU instruction: the thread after it, and the trap it takes. -/
def aluThread (h : Hdr) (len : Nat) (long : Bool) (id : Nat) (f : Thread → Except Flt Eff) (t : Thread) : Thread × Option Flt :=
  let t1 := t.issue (t.pc + BitVec.ofNat 55 (4 * len))
  if !t.live h then (t1, none)
  else
    match f t with
    | .error x => (t1, some x)
    | .ok e =>
      if long then (t1.long h id t.pc len e, none)
      else if e.flags &&& t.enables != 0 then (t1, some (kFPException, e.flags.setWidth 64))
      else (t1.short e, none)

/-- The first thread of the group that would consume poison, consumes it (R412). -/
def State.eatFirst (s : State) (g : Group) (h : Hdr) (vs : List VOp) : Option State :=
  ((s.laneThreads g).find? fun x => x.2.2.eats h vs).map fun x => s.consume g.team x.2.1 x.2.2.pc 6 0

/-- The effect of a vector ALU instruction on the threads of a group, traps apart. -/
def State.aluAll (s : State) (g : Group) (h : Hdr) (len : Nat) (long : Bool) (f : Nat → Thread → Except Flt Eff) : State :=
  { s.mapGroup g (fun tid t => (aluThread h len long s.nextId (f tid) t).1) with nextId := s.nextId + 1 }

/-- The traps that threads of a group take in a vector ALU instruction, in lane order. -/
def State.aluTraps (s : State) (g : Group) (h : Hdr) (len : Nat) (long : Bool) (f : Nat → Thread → Except Flt Eff) : List (Nat × Trap) :=
  (s.laneThreads g).filterMap fun x => ((aluThread h len long s.nextId (f x.2.1) x.2.2).2).map fun k =>
    (x.2.1, { s.trapAt k.1 k.2 x.2.2.pc len with seq := s.nextId })

/-- A vector ALU instruction on the group that executes: its operand checks, poison, its effect on each live thread, the
traps of its threads, and the group's parts after it. With no group executing, nothing happens. -/
def runAlu (h : Hdr) (len : Nat) (long : Bool) (vs : List VOp) (a : Option VReg) (f : Team → Nat → Thread → Except Flt Eff)
    (s : State) : Host.Outcome State Fault Refusal :=
  match s.curGroup with
  | none => .next s
  | some (c, slot, g, tm) =>
    match preFault tm none vs true with
    | some k => .next ((s.trapGroup g k.1 k.2 len).settle c slot [])
    | none =>
      match s.eatFirst g h vs with
      | some s => .next (s.settle c slot [])
      | none =>
        let traps := s.aluTraps g h len long (f tm)
        let s := s.aluAll g h len long (f tm)
        let s := traps.foldl (fun s x => s.takeTrap g.team x.1 x.2) s
        .next (s.settle c slot (latchOf h a vs))

/-- Every thread of the group issues the instruction: PC past it, windows counted down (R15, R184). -/
def State.issueAll (s : State) (g : Group) (len : Nat) : State :=
  { s.mapGroup g (fun _ t => t.issue (t.pc + BitVec.ofNat 55 (4 * len))) with nextId := s.nextId + 1 }

/-- The live threads of the group, in lane order: lane, TID, thread as it was at issue. -/
def State.liveLanes (s : State) (g : Group) (h : Hdr) : List (Nat × Nat × Thread) :=
  (s.laneThreads g).filter fun x => x.2.2.live h

/-- An instruction with effects beyond its threads' registers: the checks that precede the guard, poison, issue by every
thread, then `f` on the list of live threads (as they were at issue) and the group's parts. -/
def runLive (h : Hdr) (len : Nat) (priv : Option DWord) (vs : List VOp) (a : Option VReg)
    (f : Nat → Group → Team → List (Nat × Nat × Thread) → State → State) (s : State) : Host.Outcome State Fault Refusal :=
  match s.curGroup with
  | none => .next s
  | some (c, slot, g, tm) =>
    match preFault tm priv vs (s.ctx tm.ctx).priv with
    | some k => .next ((s.trapGroup g k.1 k.2 len).settle c slot [])
    | none =>
      match s.eatFirst g h vs with
      | some s => .next (s.settle c slot [])
      | none =>
        .next ((f c g tm (s.liveLanes g h) (s.issueAll g len)).settle c slot
          (latchOf h a vs))

/-- `runLive` with one effect per live thread, in lane order: core, team, TID, thread at issue. A thread whose team an
earlier lane's effect stopped does nothing. -/
def runLanes (h : Hdr) (len : Nat) (priv : Option DWord) (vs : List VOp) (a : Option VReg)
    (f : Nat → Nat → Team → Nat → Thread → State → State) (s : State) : Host.Outcome State Fault Refusal :=
  runLive h len priv vs a (fun c g tm live s =>
    live.foldl (fun s x => if (s.thread? g.team x.2.1).isSome then f c g.team tm x.2.1 x.2.2 s else s) s) s

/-! ### Waits -/

/-- WAIT of the thread record for a wait (R47). -/
def Wait.code : Wait → BitVec 4
  | .bar _ _ => 1
  | .watch _ _ _ _ _ _ _ _ _ => 2
  | .land _ _ _ _ => 3
  | .matrix _ _ => 4
  | .conv _ _ => 4
  | .sleep _ => 5
  | .launch _ _ _ _ _ => 7
  | .coll _ => 8

/-- A thread parks on a wait: it leaves its group (R50). -/
def State.park (s : State) (team tid : Nat) (w : Wait) : State :=
  (s.unsched team tid).modThread team tid fun t => { t with st := .parked, wait := w.code }

/-- A window of the instruction just issued, whose results are written when they arrive. -/
def mkWin (h : Hdr) (id : Nat) (kind : WinKind) (pci : Pc) (regs : List (Nat × Word)) (ready : Bool) : Window :=
  { id := id, kind := kind, left := h.la.toNat, ready := ready, regs := regs, preds := [], flags := 0, late := none
    canLate := false, wait := none, pc := pci, yh := h.yh }

/-- A window opens for a thread. -/
def State.openWin (s : State) (team tid : Nat) (w : Window) : State :=
  s.modThread team tid fun t => t.openWin w (w.regs.map (·.1)) []

/-- A wait instruction whose condition does not hold (R186): its window opens, and with LA = 0 the thread parks at once. -/
def State.openWait (s : State) (team tid : Nat) (w : Window) (x : Wait) : State :=
  let s := s.openWin team tid { w with wait := some x }
  if w.left = 0 then s.park team tid x else s

/-- The region that begins after a non-replayable instruction, once the instruction has completed (R55, R157). -/
def State.closeRegion (s : State) (team tid : Nat) : State :=
  s.modThread team tid fun t => t.startEntry t.pc

end Sys2Proof.Machine
end

