-- ==== Sys2Proof/Machine/Cache.lean ====
section
/-! DEFINITION. The caches: sets, victims, compression, retention, self-invalidating data, write-back, and the directories
that track the lines of CT pages (05 R127 to R129; 10 R293, R296, R298, R299, R303; 11 R308 to R316; 15 R410). The bytes of
a CT, UC or RO location are its latest value in coherence order, kept in `State.mem`; a cache line carries bytes of its own
only on SI pages (log 7). -/

namespace Sys2Proof.Machine

/-! ### Sets (R302, R303) -/

/-- Ways of a set and the set of a line: for L2 and crown caches, slice × 4096 + set. -/
structure Geo where
  ways : Nat
  key : CacheRef

/-- The L1 set of a line (R302). -/
def l1Set (ln : Nat) : Nat := ln % 256
/-- The L2 slice and set of a line (R303). -/
def l2Slice (ln : Nat) : Nat := bits ln 5 0 ^^^ bits ln 11 6 ^^^ bits ln 17 12 ^^^ bits ln 23 18
def l2Set (ln : Nat) : Nat := l2Slice ln * 4096 + ln / 64 % 768
/-- The home slice of a far or host line and its set (R303). -/
def crownSlice (ln : Nat) : Nat := bits ln 11 6 ^^^ bits ln 17 12 ^^^ bits ln 23 18 ^^^ bits ln 29 24
def crownSet (ln : Nat) : Nat := crownSlice ln * 4096 + ln / 64 % 3072

/-- Ways per set of a cache. -/
def waysOf : CacheRef → Nat
  | .l1 _ => 8
  | .l2 _ => 16
  | .crown _ => 16

/-- The set of a line in a cache. -/
def setOf : CacheRef → Nat → Nat
  | .l1 _, ln => l1Set ln
  | .l2 _, ln => l2Set ln
  | .crown _, ln => crownSet ln

/-- The number of a way as error counts and quarantine name it: slice × 16 + way, or the way of an L1 (R424). -/
def wayNo (c : CacheRef) (ln way : Nat) : Nat :=
  match c with
  | .l1 _ => way
  | .l2 _ => l2Slice ln * 16 + way
  | .crown _ => crownSlice ln * 16 + way

def State.cache (s : State) : CacheRef → Cache
  | .l1 c => (s.core c).l1
  | .l2 d => (s.die d).cache
  | .crown n => (s.die (8 + n)).cache

def State.setCache (s : State) (c : CacheRef) (x : Cache) : State :=
  match c with
  | .l1 k => s.modCore k fun r => { r with l1 := x }
  | .l2 d => s.modDie d fun r => { r with cache := x }
  | .crown n => s.modDie (8 + n) fun r => { r with cache := x }

/-! ### Lines -/

def Cache.line? (k : Cache) (ln : Nat) : Option Line := k.lines.find? fun l => l.ln == ln

/-- The cache without a line. -/
def Cache.without (k : Cache) (ln : Nat) : Cache := { k with lines := k.lines.filter fun l => l.ln != ln }

/-- The cache with a line used now (most recent first). -/
def Cache.used (k : Cache) (ln : Nat) : Cache :=
  match k.line? ln with
  | some l => { k with lines := l :: (k.without ln).lines }
  | none => k

/-- The line replaced in place. -/
def Cache.modLine (k : Cache) (ln : Nat) (f : Line → Line) : Cache :=
  { k with lines := k.lines.map fun l => if l.ln == ln then f l else l }

/-- The lines of a way of a set. -/
def Cache.inWay (k : Cache) (c : CacheRef) (ln way : Nat) : List Line :=
  k.lines.filter fun l => setOf c l.ln == setOf c ln && l.way == way

/-- The way a fill takes without a victim: for a compressed line a way that holds one compressed line, else a way that holds
nothing (R293, R296). -/
def Cache.freeWay (k : Cache) (c : CacheRef) (ln : Nat) (comp : Bool) : Option Nat :=
  let ok (w : Nat) : Bool := !k.badWays.contains (wayNo c ln w)
  let half := (upTo (waysOf c)).find? fun w => ok w && (match k.inWay c ln w with
    | [x] => x.comp
    | _ => false)
  let free := (upTo (waysOf c)).find? fun w => ok w && (k.inWay c ln w).isEmpty
  if comp then (match half with
    | some w => some w
    | none => free) else free

/-- The victim of a fill: the oldest .ef line, then the least recently used line neither .el nor retained, then the least
recently used .el line; a retained line never (R293, R298). -/
def Cache.victim (k : Cache) (c : CacheRef) (ln : Nat) : Option Line :=
  let set := k.lines.filter fun l => setOf c l.ln == setOf c ln && l.retained.isNone
    && (k.inWay c ln l.way).all (fun x => x.retained.isNone)
  match sortBy (·.filled) (set.filter fun l => l.hint == 1) with
  | l :: _ => some l
  | [] =>
    match (set.filter fun l => l.hint != 2).getLast? with
    | some l => some l
    | none => (set.filter fun l => l.hint == 2).getLast?

/-- A fill: the cache with the line, and the lines it replaced; a fill that finds no way leaves the cache as it is. -/
def Cache.fill (k : Cache) (c : CacheRef) (l : Line) : Cache × List Line :=
  let k := k.without l.ln
  match k.freeWay c l.ln l.comp with
  | some w => ({ k with lines := { l with way := w } :: k.lines }, [])
  | none =>
    match k.victim c l.ln with
    | none => (k, [])
    | some v =>
      let out := k.inWay c l.ln v.way
      ({ k with lines := { l with way := v.way } :: k.lines.filter fun x => !(out.any fun o => o.ln == x.ln) }, out)

/-- A compressed line that no longer compresses takes its whole way; another half-line there moves to a free half or a free way, or takes
a victim's (R296). The lines that leave the cache come second. -/
def Cache.expand (k : Cache) (c : CacheRef) (ln : Nat) : Cache × List Line :=
  match k.line? ln with
  | none => (k, [])
  | some l =>
    let k := k.modLine ln fun l => { l with comp := false }
    match (k.inWay c ln l.way).find? fun x => x.ln != ln with
    | none => (k, [])
    | some y =>
      match (k.without y.ln).freeWay c y.ln true with
      | some w => (k.modLine y.ln fun y => { y with way := w }, [])
      | none =>
        match ((k.without y.ln).without ln).victim c y.ln with
        | none => (k.without y.ln, [y])
        | some v =>
          let out := k.inWay c y.ln v.way
          let k := { k with lines := k.lines.filter fun x => !(out.any fun o => o.ln == x.ln) }
          (k.modLine y.ln fun y => { y with way := v.way }, out)

/-- Retained ways of the set, in half ways (R298). -/
def Cache.retainedHalves (k : Cache) (ln : Nat) : Nat :=
  ((k.lines.filter fun l => l2Set l.ln == l2Set ln && l.retained.isSome).map fun l => if l.comp then 1 else 2).sum

/-- The 32 words of a line allow compression (R296). -/
def compressible (b : List Byte) : Bool :=
  let w (i : Nat) : Nat := ofBytes ((b.drop (4 * i)).take 4)
  (upTo 32).all fun i => let d := (w i + 2 ^ 32 - w 0) % 2 ^ 32; d ≤ 127 || 2 ^ 32 - 128 ≤ d

/-- The mask of dirty bytes of a whole line. -/
def fullMask : Nat := 2 ^ 128 - 1

/-- Bytes laid over a list where a mask says so. -/
def overlayMask (mask : Nat) (new old : List Byte) : List Byte :=
  (upTo old.length).map fun i => if mask.testBit i then new.getD i 0 else old.getD i 0

/-- Bytes laid over a list from a position. -/
def overlayAt (old : List Byte) (pos : Nat) (new : List Byte) : List Byte :=
  (upTo old.length).map fun i => if pos ≤ i ∧ i < pos + new.length then new.getD (i - pos) 0 else old.getD i 0

/-! ### Retention ranges (R297 to R299) -/

/-- The key of range idx of a context. -/
def rrKey (ctx idx : Nat) : Nat := 4 * ctx + idx

def Die.range (d : Die) (ctx idx : Nat) : Retain := d.retain.get (rrKey ctx idx) Retain.init

/-- A virtual address lies in a range in force (R297). -/
def Retain.covers (r : Retain) (va : Nat) : Bool :=
  r.v && r.len != 0 && lineOf r.base ≤ lineOf va && lineOf va ≤ lineOf (r.base + r.len - 1)

/-- The lowest range in force that covers an address (R298). -/
def Die.rangeOf (d : Die) (ctx va : Nat) : Option Nat := (upTo 4).find? fun i => (d.range ctx i).covers va

/-- The key of the lowest range in force on a die that an access of a context lies in (R298). -/
def State.rangeAt (s : State) (d ctx va : Nat) : Option Nat := ((s.die d).rangeOf ctx va).map (rrKey ctx)

def State.modKey (s : State) (die key : Nat) (f : Retain → Retain) : State :=
  s.modDie die fun d => { d with retain := d.retain.put key (f (d.retain.get key Retain.init)) }

def State.modRange (s : State) (die ctx idx : Nat) (f : Retain → Retain) : State := s.modKey die (rrKey ctx idx) f

/-- A fill for an in-range request is counted, as retained or as overflowed; the counters of a cleared range stand (R298, R299). -/
def State.countFill (s : State) (d : Nat) (rng : Option Nat) (keep : Bool) : State :=
  match rng with
  | none => s
  | some i => s.modKey d i fun r =>
      if !r.v then r
      else if keep then { r with fill := (r.fill + 1) % 2 ^ 48 } else { r with ovf := (r.ovf + 1) % 2 ^ 48 }

/-- The lanes of an in-range request that a retained line serves are counted (R299). -/
def State.countHit (s : State) (d : Nat) (rng : Option Nat) (l : Line) (lanes : Nat) : State :=
  match rng with
  | none => s
  | some i => s.modKey d i fun r => if r.v && l.retained.isSome then { r with hit := (r.hit + lanes) % 2 ^ 48 } else r

/-- A fill for an in-range request is retained: its set holds fewer than four ways of retained lines (R298). -/
def State.keeps (s : State) (d ln : Nat) (rng : Option Nat) : Bool := rng.isSome && decide ((s.die d).cache.retainedHalves ln < 8)

/-! ### Write-back -/

/-- An uncorrectable error recorded for a frame: UE advances while counts are kept, and the frame's retirement is due unless it is
retired or migrating (R421, R422). -/
def State.countUE (s : State) (pa : Nat) : State :=
  let f := s.frame (pa / 65536)
  let s : State := if f.ret || f.mig then s
    else s.soon [Happening.row .frameRetirement { frame := pa / 65536, cause := 1 }]
  if s.cn.fetEn then
    let a := s.cn.fetBase + 8 * frameNo pa + 4
    s.pokeNat a 4 (min (s.peekNat a 4 + 1) (2 ^ 32 - 1))
  else s

/-- Dirty bytes of an SI line written to its home. -/
def State.siHome (s : State) (l : Line) : State :=
  let s := { s with mem := (upTo 128).foldl (fun m i =>
    if l.dirty.testBit i then spPut m (s.home (l.ln * 128 + i)) (l.data.getD i 0) else m) s.mem }
  if l.poison then s.setPoison (l.ln * 128) else s

/-- A line written back to its home from an L2 or crown cache: SI data is stored; a poisoned line counts in its frame
(R421). -/
def State.toHome (s : State) (l : Line) : State :=
  let s := if l.st = .si then s.siHome l else s
  if l.dirty ≠ 0 ∧ (l.poison ∨ s.poisonedAt (l.ln * 128)) then s.countUE (l.ln * 128) else s

/-! ### Entries of the directories (R308, R309, R314) -/

/-- The directory of a kind that covers a line for a core's requests. -/
def pkgDir (ln : Nat) : DirRef :=
  .package (match regionOf (ln * 128) with
    | .near => ln * 128 / 0x0C00000000 / 4
    | .far => crownHalf (ln * 128)
    | .host _ => crownHalf (ln * 128)
    | .device => 0
    | .none => 0)

/-- An entry covers a line. -/
def DirEntry.covers (e : DirEntry) (ln : Nat) : Bool := e.base ≤ ln * 128 && ln * 128 < e.base + 2 ^ e.log2

/-- The entry of a directory that covers a line. -/
def State.dirFind (s : State) (d : DirRef) (ln : Nat) : Option DirEntry :=
  (s.dirs.find? fun x => x.1 == d && x.2.covers ln).map (·.2)

/-- The entry of a directory that covers a line replaced by others. -/
def State.dirSet (s : State) (d : DirRef) (ln : Nat) (es : List DirEntry) : State :=
  { s with dirs := es.map (fun e => (d, e)) ++ s.dirs.filter fun x => !(x.1 == d && x.2.covers ln) }

/-- The slice of a directory that holds the entry of a region: that of its first line (R308; log 81). -/
def dirSlice : DirRef → Nat → Nat
  | .cluster _, _ => 0
  | .die _, base => l2Slice (lineOf base)
  | .package _, base => crownSlice (lineOf base)

/-- The entries that a slice of a directory has room for (R308). -/
def dirCapacity : DirRef → Nat
  | .cluster _ => 4096
  | .die _ => 4096
  | .package _ => 16384

/-- The entries that stand in the slice of a region's entry. -/
def State.dirsOf (s : State) (d : DirRef) (base : Nat) : List DirEntry :=
  (s.dirs.filter fun x => x.1 == d && dirSlice d x.2.base == dirSlice d base).map (·.2)

/-- A cache drops every CT line of an entry; dirty data goes to the home (R314). -/
def State.dropEntry (s : State) (e : DirEntry) (c : CacheRef) : State :=
  let inE (l : Line) : Bool := e.covers l.ln && l.st != .si && l.st != .ro
  let k := s.cache c
  (k.lines.filter inE).foldl State.toHome (s.setCache c { k with lines := k.lines.filter fun l => !inE l })

/-- Every line of an entry dropped by every holder but the host, dirty data written back (R314, R426). -/
def State.recall (s : State) (e : DirEntry) : State :=
  e.holders.foldl (fun s h => match h with
    | .l2 d => (((upTo 16).map (16 * d + ·)).foldl (fun s c => s.dropEntry e (.l1 c)) s).dropEntry e (.l2 d)
    | .l1 c => s.dropEntry e (.l1 c)
    | .cluster n => ((upTo 4).map (4 * n + ·)).foldl (fun s c => s.dropEntry e (.l1 c)) s
    | .crown n => s.dropEntry e (.crown n)
    | .host => s) s

/-- The export bit of a region is cleared once the package directory has no entry for it (R309). -/
def State.unexport (s : State) (d : DirRef) (base : Nat) : State :=
  match d, regionOf base with
  | .package _, .near =>
    if s.dirs.any fun x => x.1 == d && x.2.base / 65536 == base / 65536 then s
    else s.modDie (base / 0x0C00000000) fun x => { x with export_ := x.export_.filter (· != base / 65536) }
  | _, _ => s

/-- An entry leaves its directory. -/
def State.dirFree (s : State) (d : DirRef) (e : DirEntry) : State :=
  { s with dirs := s.dirs.filter fun y => !(y.1 == d && y.2 == e) }.unexport d e.base

/-- An entry that is BUSY with its own recall: the host has not answered its back-invalidate snoop (R314, R315). -/
def DirEntry.leaving (e : DirEntry) : Bool := !e.busy.isEmpty && e.queue.isEmpty

/-- An entry is recalled: it is free at once, or once the host that may hold lines of it has answered (R314, R315). -/
def State.recallEntry (s : State) (d : DirRef) (e : DirEntry) : State :=
  let s := s.recall e
  if e.holders.contains .host then
    { s with dirs := s.dirs.map fun y => if y.1 == d && y.2 == e then (d, { e with holders := [.host], busy := [.host] }) else y }
  else s.dirFree d e

/-- The entry of a slice that a recall takes: its least recently used that is not BUSY, other than that of a line (R314). -/
def State.oldest (s : State) (d : DirRef) (base : Nat) (not : Nat → Bool) : Option DirEntry :=
  (sortBy (·.last) ((s.dirsOf d base).filter fun e => e.busy.isEmpty && !e.poisonPend && !not e.base)).head?

/-- A slice with room for the entry of a region: one is recalled where it is full (R314). False while none is free. -/
def State.dirRoom (s : State) (d : DirRef) (base : Nat) : Bool × State :=
  if (s.dirsOf d base).length < dirCapacity d then (true, s)
  else if (s.dirsOf d base).any DirEntry.leaving then (false, s)
  else
    match s.oldest d base (fun _ => false) with
    | none => (false, s)
    | some e => (!e.holders.contains .host, s.recallEntry d e)

/-- The entry that a request for a line meets; a new region starts as one 64 KiB entry (R312). None while no entry is free. -/
def State.dirEntry (s : State) (d : DirRef) (ln : Nat) : Option DirEntry × State :=
  match s.dirFind d ln with
  | some e => (some e, s)
  | none =>
    let base := ln * 128 / 65536 * 65536
    match s.dirRoom d base with
    | (false, s) => (none, s)
    | (true, s) =>
      let e : DirEntry := { base := base, log2 := 16, st := .i, holders := [], owner := none, busy := [], queue := []
                            last := s.clk, poisonPend := false }
      (some e, { s with dirs := (d, e) :: s.dirs })

/-- The first half of an entry. -/
def DirEntry.lowHalf (e : DirEntry) : DirEntry := { e with log2 := e.log2 - 1 }
/-- The second half of an entry. -/
def DirEntry.highHalf (e : DirEntry) : DirEntry := { e with log2 := e.log2 - 1, base := e.base + 2 ^ (e.log2 - 1) }

/-- The halvings that isolate a line, n at most (R312): the entry of the line last. -/
def splitTo (ln : Nat) : Nat → DirEntry → List DirEntry
  | 0, e => [e]
  | n + 1, e =>
    if e.log2 ≤ 7 then [e]
    else if e.lowHalf.covers ln then e.highHalf :: splitTo ln n e.lowHalf
    else e.lowHalf :: splitTo ln n e.highHalf

/-- A crown cache takes a dirty line from a die's L2, which may keep copies of it in its L1s: the crown owns it (R310). -/
def DirEntry.handed (e : DirEntry) (h : Holder) : DirEntry :=
  { e with st := .o, owner := some h, holders := if e.holders.contains h then e.holders else e.holders ++ [h] }

/-- A dirty far or host line of a die's L2 enters its home-side crown cache, which the package directory then names (R294, R308,
R315). -/
def State.toCrown (s : State) (l : Line) : State :=
  let n := crownHalf (l.ln * 128)
  match s.dirEntry (pkgDir l.ln) l.ln with
  | (none, s) => s.toHome l
  | (some e, s) =>
    let s := s.dirSet (pkgDir l.ln) l.ln ((splitTo l.ln 9 e).map fun p => if p.covers l.ln then p.handed (.crown n) else p)
    let (k, out) := (s.cache (.crown n)).fill (.crown n) { l with st := .o, retained := none, comp := false, filled := s.clk }
    out.foldl State.toHome (s.setCache (.crown n) k)

/-- A line written back from an L2: far and host lines reach the crown cache that is their home-side cache, near lines and SI lines
their home (R294, R315). -/
def State.l2Out (s : State) (l : Line) : State :=
  if l.dirty = 0 then s
  else if l.st = .si then s.toHome l
  else
    match regionOf (l.ln * 128) with
    | .near => s.toHome l
    | .far => s.toCrown l
    | .host _ => s.toCrown l
    | .device => s
    | .none => s

/-- A compressed line of an L2 that no longer compresses is expanded (R296). -/
def State.expandL2 (s : State) (d ln : Nat) : State :=
  let (k, out) := (s.die d).cache.expand (.l2 d) ln
  out.foldl State.l2Out (s.setCache (.l2 d) k)

/-- A line of an L2 is compressed and its bytes, now b, do not allow it. -/
def Line.bursts (l : Line) (b : List Byte) : Bool := l.comp && !compressible b

/-- A line filled into a cache of a die's L2; replaced lines are written back. -/
def State.fillL2 (s : State) (d : Nat) (l : Line) : State :=
  let (k, out) := (s.die d).cache.fill (.l2 d) l
  out.foldl State.l2Out (s.setCache (.l2 d) { k with asleep := false })

/-- The bytes under a mask written at a line's home. -/
def State.pokeMask (s : State) (ln mask : Nat) (data : List Byte) : State :=
  { s with mem := (upTo 128).foldl (fun m i =>
      if mask.testBit i then spPut m (s.home (ln * 128 + i)) (data.getD i 0) else m) s.mem }

/-- SI bytes written to a line of an L2: merged into the line, which is filled if absent, with dirty bytes; where the L2 finds no way
for it they go to its home (R128, R129, R131). -/
def State.siL2Write (s : State) (d ctx ln hint mask : Nat) (cmp : Bool) (data : List Byte) (poison : Bool) : State :=
  match (s.die d).cache.line? ln with
  | some l =>
    let s := s.setCache (.l2 d) ((s.die d).cache.modLine ln fun l =>
      { l with data := overlayMask mask data l.data, dirty := l.dirty ||| mask, ctx := ctx, tagv := true, poison := l.poison || poison })
    if l.bursts (overlayMask mask data l.data) then s.expandL2 d ln else s
  | none =>
    let b := overlayMask mask data (s.peekN (ln * 128) 128)
    let u := s.fillL2 d
      { ln := ln, st := .si, ctx := ctx, tagv := true, hint := hint, retained := none, dirty := mask, cmp := cmp
        comp := cmp && compressible b, data := b, filled := s.clk, way := 0, poison := poison }
    if ((u.die d).cache.line? ln).isSome then u
    else
      let s := s.pokeMask ln mask data
      if poison then s.setPoison (ln * 128) else s

/-- A line written back from an L1 to the L2 slice; only SI lines are ever dirty there (R293). -/
def State.l1Out (s : State) (core : Nat) (l : Line) : State :=
  if l.dirty = 0 then s else s.siL2Write (dieOf core) l.ctx l.ln l.hint l.dirty l.cmp l.data l.poison

/-- A line filled into a core's L1; a replaced dirty line is written back. -/
def State.fillL1 (s : State) (core : Nat) (l : Line) : State :=
  let (k, out) := (s.core core).l1.fill (.l1 core) l
  out.foldl (fun s o => s.l1Out core o) (s.setCache (.l1 core) { k with asleep := false })

/-- A line dropped from a cache, its dirty data written back to the next level (R314, R316, R424). -/
def State.evict (s : State) (c : CacheRef) (ln : Nat) : State :=
  match (s.cache c).line? ln with
  | none => s
  | some l =>
    let s := s.setCache c ((s.cache c).without ln)
    match c with
    | .l1 k => s.l1Out k l
    | .l2 _ => s.l2Out l
    | .crown _ => s.toHome l

/-- A line's dirty data written back to the next level; the line stays, clean. -/
def State.writeBack (s : State) (c : CacheRef) (ln : Nat) : State :=
  match (s.cache c).line? ln with
  | none => s
  | some l =>
    let s := s.setCache c ((s.cache c).modLine ln fun l => { l with dirty := 0, st := if l.st = .m ∨ l.st = .o then .s else l.st })
    match c with
    | .l1 k => s.l1Out k l
    | .l2 _ => s.l2Out l
    | .crown _ => s.toHome l

/-! ### SI lines at releases and acquires (R129) -/

/-- SI lines of a context in a cache. -/
def Cache.siLines (k : Cache) (ctx : Nat) : List Nat := (k.lines.filter fun l => l.st == .si && l.ctx == ctx).map (·.ln)

/-- The write-backs of a release by a context on a core at a scope (R129). -/
def State.siRelease (s : State) (core ctx : Nat) (sc : Scope) : State :=
  let l1 (s : State) : State := ((s.core core).l1.siLines ctx).foldl (fun s n => s.writeBack (.l1 core) n) s
  let l2 (s : State) : State := ((s.die (dieOf core)).cache.siLines ctx).foldl (fun s n => s.writeBack (.l2 (dieOf core)) n) s
  match sc with
  | .core => s
  | .clus => l1 s
  | .die => l1 s
  | .stk => l2 (l1 s)
  | .ipo => l2 (l1 s)
  | .pkg => l2 (l1 s)
  | .sys => l2 (l1 s)

/-- The drops of an acquire by a context on a core at a scope (R129). -/
def State.siAcquire (s : State) (core ctx : Nat) (sc : Scope) : State :=
  let l1 (s : State) : State := ((s.core core).l1.siLines ctx).foldl (fun s n => s.evict (.l1 core) n) s
  let l2 (s : State) : State := ((s.die (dieOf core)).cache.siLines ctx).foldl (fun s n => s.evict (.l2 (dieOf core)) n) s
  match sc with
  | .core => s
  | .clus => l1 s
  | .die => l1 s
  | .stk => l2 (l1 s)
  | .ipo => l2 (l1 s)
  | .pkg => l2 (l1 s)
  | .sys => l2 (l1 s)

/-! ### Directories (R308 to R314) -/

/-- The cache that a holder stands for, where it is one cache. -/
def holderCache : Holder → Option CacheRef
  | .l1 c => some (.l1 c)
  | .l2 d => some (.l2 d)
  | .crown n => some (.crown n)
  | .cluster _ => none
  | .host => none

/-- The L1s a holder stands for. -/
def holderL1s : Holder → List Nat
  | .l1 c => [c]
  | .cluster n => (upTo 4).map (4 * n + ·)
  | .l2 _ => []
  | .crown _ => []
  | .host => []

/-- The cache without a line that a directory may track: SI and RO lines stay (R309). -/
def Cache.dropTracked (k : Cache) (ln : Nat) : Cache :=
  { k with lines := k.lines.filter fun l => l.ln != ln || l.st == .si || l.st == .ro }

/-- A line held by what a holder names is invalidated; its dirty data is in `State.mem` already (log 7). An L2 that loses a
line loses it in the L1s of its die (R428). -/
def State.invalidate (s : State) (h : Holder) (ln : Nat) : State :=
  let one (s : State) (c : CacheRef) : State := s.setCache c ((s.cache c).dropTracked ln)
  match h with
  | .l1 c => one s (.l1 c)
  | .cluster n => ((upTo 4).map (4 * n + ·)).foldl (fun s c => one s (.l1 c)) s
  | .l2 d => one (((upTo 16).map (16 * d + ·)).foldl (fun s c => one s (.l1 c)) s) (.l2 d)
  | .crown n => one s (.crown n)
  | .host => s

/-- A line held exclusively is downgraded for a reader: its holder keeps it, dirty and shared (O) if it was dirty. -/
def State.downgrade (s : State) (h : Holder) (ln : Nat) : State :=
  match holderCache h with
  | none => s
  | some c => s.setCache c ((s.cache c).modLine ln fun l =>
      { l with st := if l.dirty ≠ 0 then .o else .s })

/-- An entry served for a holder, once every other holder that must has answered (R310). -/
def DirEntry.granted (e : DirEntry) (h : Holder) (excl : Bool) (now : Nat) (dirtyOwner : Bool) : DirEntry :=
  if excl then { e with st := .x, holders := [h], owner := some h, last := now }
  else
    let old := e.holders.filter fun x => x != .host || h == .host
    let hs := if old.contains h then old else old ++ [h]
    match e.st with
    | .x =>
      if e.owner = some h then { e with last := now }
      else if dirtyOwner then { e with st := .o, holders := hs, last := now }
      else { e with st := .s, holders := hs, owner := none, last := now }
    | .i => { e with st := .s, holders := hs, owner := none, last := now }
    | .s => { e with holders := hs, last := now }
    | .o => { e with holders := hs, last := now }

/-- The holders that must answer before a request is served: for the host there is a back-invalidate snoop (R311, R315). -/
def DirEntry.toProbe (e : DirEntry) (h : Holder) (excl : Bool) : List Holder :=
  let others := e.holders.filter fun x => x != h && x != .host
  (if excl || e.st == .x then others else []) ++ (if e.holders.contains .host && h != .host then [.host] else [])

/-- Serving the request changes the entry's state or holder set (R312). -/
def DirEntry.changes (e : DirEntry) (h : Holder) (excl : Bool) : Bool :=
  if excl then !(e.st == .x && e.owner == some h) else !(e.holders.contains h)

/-- A slice that a split has overfilled gives up an entry other than that of the line (R312, R314). -/
def State.dirTrim (s : State) (d : DirRef) (ln base : Nat) : State :=
  if (s.dirsOf d base).length ≤ dirCapacity d then s
  else
    match s.oldest d base (fun b => b / 65536 == ln / 512) with
    | none => s
    | some e => s.recallEntry d e

/-- The entry that a request is served on, split from its region as far as R312 asks; the holders that keep other lines
stay in the other parts. -/
def State.dirSplit (s : State) (d : DirRef) (ln : Nat) (e : DirEntry) (h : Holder) (excl : Bool) : DirEntry × State :=
  if e.changes h excl && !e.holders.isEmpty then
    let parts := splitTo ln 9 e
    let s := parts.foldl (fun s p => s.dirTrim d ln p.base) (s.dirSet d ln parts)
    ((parts.find? fun p => p.covers ln).getD e, s)
  else (e, s)

/-- A request waits in the queue of an entry, once (R311). -/
def DirEntry.enqueue (e : DirEntry) (r : Nat × Holder × Bool) : DirEntry :=
  if e.queue.contains r then e else { e with queue := e.queue ++ [r] }

/-- A request for a line served whole at a directory: splits, probes and their answers, grant (R311, R312). A request that
meets a BUSY entry waits in its queue, one for a line that the host may hold until the host has answered (R315), and one that finds no
free entry until there is one (R314): false. -/
def State.dirServe (s : State) (d : DirRef) (ln : Nat) (h : Holder) (excl : Bool) : Bool × State :=
  match s.dirEntry d ln with
  | (none, s) => (false, s)
  | (some e, s) =>
    if e.leaving then (false, s)
    else if !e.busy.isEmpty || e.poisonPend then (false, s.dirSet d ln [e.enqueue (ln, h, excl)])
    else
      let (e, s) := s.dirSplit d ln e h excl
      let ps := e.toProbe h excl
      let dirty := ps.any fun p => match holderCache p with
        | some c => ((s.cache c).line? ln).any fun l => l.dirty != 0
        | none => false
      let s := ps.foldl (fun s p => if excl then s.invalidate p ln else s.downgrade p ln) s
      if ps.contains .host then (false, s.dirSet d ln [{ e with busy := [.host], queue := [(ln, h, excl)] }])
      else (true, s.dirSet d ln [e.granted h excl s.clk dirty])

/-- The context that the directory grants a line to becomes its owner in the entry (R410): the tag lies in the line. -/
def State.exported (s : State) (ln : Nat) : Bool :=
  match regionOf (ln * 128) with
  | .near => (s.die (ln * 128 / 0x0C00000000)).export_.contains (ln * 128 / 65536)
  | _ => true

/-- The CT lines of a region that an L2 holds, and whether it may write them. -/
def Cache.regionLines (k : Cache) (frame : Nat) : List (Nat × Bool) :=
  (k.lines.filter fun l => l.ln / 512 == frame && l.st != .si && l.st != .ro).map fun l => (l.ln, l.st == .e || l.st == .m)

/-- A request from die `d` is served for a line: when the die is not its home, the export bit of its region is set, and the
package directory then tracks the lines that the home die's L2 holds of it (R309). -/
def State.setExport (s : State) (d ln : Nat) : State :=
  match regionOf (ln * 128) with
  | .near =>
    let h := ln * 128 / 0x0C00000000
    let f := ln * 128 / 65536
    if h = d ∨ (s.die h).export_.contains f then s
    else
      ((s.die h).cache.regionLines f).foldl (fun s x => (s.dirServe (pkgDir x.1) x.1 (.l2 h) x.2).2)
        (s.modDie h fun x => { x with export_ := x.export_ ++ [f] })
  | _ => s

/-- A die's L2 obtains a CT line, shared or exclusively, through the package directory; on the home die with the export bit
clear the package directory is not consulted (R309). -/
def State.l2Obtain (s : State) (d ln : Nat) (excl : Bool) : Bool × State :=
  if regionOf (ln * 128) = .near ∧ ln * 128 / 0x0C00000000 = d ∧ ¬ s.exported ln then (true, s)
  else (s.setExport d ln).dirServe (pkgDir ln) ln (.l2 d) excl

/-- A core's L1 obtains a CT line through its cluster and die directories (R308). -/
def State.l1Obtain (s : State) (core ln : Nat) (excl : Bool) : Bool × State :=
  let (a, s) := s.dirServe (.die (dieOf core)) ln (.cluster (clusOf core)) excl
  let (b, s) := s.dirServe (.cluster (clusOf core)) ln (.l1 core) excl
  (a && b, s)

/-- Rows that wake the threads watching a line (R292): a write has taken the line from a cache they watch. -/
def State.wakeWatch (s : State) (ln : Nat) : State :=
  let hit (t : Thread) : Bool := (t.waiting fun w => match w with
    | .watch _ _ _ _ _ _ _ _ (some l) => l == ln
    | _ => false).isSome
  let due := s.threads.filter fun e => hit e.2
  if due.isEmpty then s
  else s.soon (due.map fun e => Happening.row .watchWake { team := e.1 / 4096, tid := e.1 % 4096 })

/-- The L1 state of a line of a class. -/
def stateOf (cls : Nat) (excl : Bool) : LineState := if cls = 1 then .si else if cls = 3 then .ro else if excl then .e else .s

/-- A line of a CT or RO page brought into a die's L2, with `lanes` lanes of one request: a hit, or a fill through the package
directory under the page's hint and the retention ranges (R293, R298, R299). False where the request waits. -/
def State.l2Fetch (s : State) (d ctx : Nat) (rng : Option Nat) (x : Xlat) (ln lanes : Nat) : Bool × State :=
  match (s.die d).cache.line? ln with
  | some l => (true, (s.setCache (.l2 d) ((s.die d).cache.used ln)).countHit d rng l lanes)
  | none =>
    let (ok, s) := if x.cls = 2 then s.l2Obtain d ln false else (true, s.setExport d ln)
    if !ok then (false, s)
    else
      let keep := s.keeps d ln rng
      (true, (s.countFill d rng keep).fillL2 d
        { ln := ln, st := stateOf x.cls false, ctx := ctx, tagv := true, hint := x.hint, retained := if keep then rng else none
          dirty := 0, cmp := x.cmp, comp := x.cmp && compressible (s.peekN (ln * 128) 128), data := [], filled := s.clk, way := 0
          poison := false })

/-- A line of a CT or RO page, present in the L2, filled into a core's L1, asked for exclusively if `ex` says so (R293, R294, R308). -/
def State.l1Fetch (s : State) (core ctx : Nat) (x : Xlat) (ln : Nat) (ex : Bool) : State :=
  let (ok, s) := if x.cls = 2 then s.l1Obtain core ln ex else (true, s)
  if !ok then s
  else s.fillL1 core
    { ln := ln, st := stateOf x.cls false, ctx := ctx, tagv := true, hint := x.hint, retained := none, dirty := 0, cmp := x.cmp
      comp := false, data := [], filled := s.clk, way := 0, poison := false }

/-- A line requested by a core on a page of class CT or RO: L1 hit, or its die's L2 and then a fill of the L1 unless the hint is
.na (R293). -/
def State.lineLoad (s : State) (core ctx va : Nat) (x : Xlat) (ln lanes : Nat) : State :=
  if ((s.core core).l1.line? ln).isSome then s.setCache (.l1 core) ((s.core core).l1.used ln)
  else
    let (ok, s) := s.l2Fetch (dieOf core) ctx (s.rangeAt (dieOf core) ctx va) x ln lanes
    if !ok || x.hint == 3 then s else s.l1Fetch core ctx x ln false

/-- A line of a CT page written, or with no mask taken exclusively, by an agent of a context at the L2 of die d: that L2 holds it
exclusively, and every other copy is invalidated but that of `core`'s L1, which is updated (R288, R293, R311, R410). -/
def State.lineStore (s : State) (d : Nat) (core : Option Nat) (ctx : Nat) (rng : Option Nat) (hint : Nat) (cmp : Bool)
    (ln mask lanes : Nat) : State :=
  let (ok, s) := s.l2Obtain d ln true
  let s := ((upTo 16).map (16 * d + ·)).foldl (fun s c => if core = some c then s else s.invalidate (.l1 c) ln) s
  let s := s.wakeWatch ln
  if !ok then s
  else
    let b := s.peekN (ln * 128) 128
    match (s.die d).cache.line? ln with
    | some l =>
      let s := s.setCache (.l2 d) (((s.die d).cache.modLine ln fun l =>
        { l with st := if mask = 0 ∧ l.dirty = 0 then .e else .m, dirty := l.dirty ||| mask, ctx := ctx, tagv := true }).used ln)
      let s := s.countHit d rng l lanes
      if l.bursts b then s.expandL2 d ln else s
    | none =>
      let keep := s.keeps d ln rng
      (s.countFill d rng keep).fillL2 d
        { ln := ln, st := if mask = 0 then .e else .m, ctx := ctx, tagv := true, hint := hint, retained := if keep then rng else none
          dirty := mask, cmp := cmp, comp := cmp && compressible b, data := [], filled := s.clk, way := 0, poison := false }

/-- A far or host line of a CT page written, or taken exclusively, at its home slice for a context: the crown cache holds it
exclusively (R288). -/
def State.crownStore (s : State) (ctx hint : Nat) (cmp : Bool) (ln mask : Nat) : State :=
  let n := crownHalf (ln * 128)
  let (ok, s) := s.dirServe (pkgDir ln) ln (.crown n) true
  let s := s.wakeWatch ln
  if !ok then s
  else
    match (s.cache (.crown n)).line? ln with
    | some _ =>
      s.setCache (.crown n) (((s.cache (.crown n)).modLine ln fun l =>
        { l with st := if mask = 0 ∧ l.dirty = 0 then .e else .m, dirty := l.dirty ||| mask, ctx := ctx, tagv := true }).used ln)
    | none =>
      let (k, out) := (s.cache (.crown n)).fill (.crown n)
        { ln := ln, st := if mask = 0 then .e else .m, ctx := ctx, tagv := true, hint := hint, retained := none, dirty := mask
          cmp := cmp, comp := false, data := [], filled := s.clk, way := 0, poison := false }
      out.foldl State.toHome (s.setCache (.crown n) k)

/-- How an access asks for a line of a CT page: to read it, to write it at its die's L2, or for an atomic at its home (R288, R293). -/
inductive Ask where
  | load | store | home
deriving DecidableEq, Repr

/-- A cache may write a line without asking. -/
def Cache.mayWrite (k : Cache) (ln : Nat) : Bool := (k.line? ln).any fun l => l.st == .e || l.st == .m

/-- An access of a core to a local location asks the directories for its line, where its caches do not hold it: true if it may be
performed, otherwise it waits, and its request waits at the directory (R310, R311, R314, R315, R329). -/
def State.ctAsk (s : State) (core cls hint : Nat) (a : Ask) (pa : Nat) : Bool × State :=
  let ln := lineOf pa
  let d := dieOf core
  if cls ≠ 2 then (true, s)
  else
    match a with
    | .load =>
      if ((s.core core).l1.line? ln).isSome then (true, s)
      else
        let (ok, s) := if ((s.die d).cache.line? ln).isSome then (true, s) else s.l2Obtain d ln false
        if !ok || hint == 3 then (ok, s) else s.l1Obtain core ln false
    | .store => if (s.die d).cache.mayWrite ln then (true, s) else s.l2Obtain d ln true
    | .home =>
      match regionOf pa with
      | .near =>
        let h := pa / 0x0C00000000
        if (s.die h).cache.mayWrite ln then (true, s) else (s.setExport d ln).l2Obtain h ln true
      | .far => if (s.cache (.crown (crownHalf pa))).mayWrite ln then (true, s) else s.dirServe (pkgDir ln) ln (.crown (crownHalf pa)) true
      | .host _ => if (s.cache (.crown (crownHalf pa))).mayWrite ln then (true, s) else s.dirServe (pkgDir ln) ln (.crown (crownHalf pa)) true
      | .device => (true, s)
      | .none => (true, s)

/-- A line of a CT page written at its home by an agent outside the C-dies, or uncached: every copy is invalidated (R311,
R399). -/
def State.lineTaken (s : State) (ln : Nat) : State :=
  let s := { s with
    cores := s.cores.mapKV fun _ (k : Core) => { k with l1 := k.l1.dropTracked ln }
    dies := s.dies.mapKV fun _ (k : Die) => { k with cache := k.cache.dropTracked ln } }
  s.wakeWatch ln

end Sys2Proof.Machine
end

