-- ==== Sys2Proof/Machine/Float.lean ====
section
/-! DEFINITION. Floating-point formats, exact values, rounding and the arithmetic built on it (04, R99 to R104, R111 to R120,
and the special functions of R220, R221). -/

namespace Sys2Proof.Machine

/-- How a format uses its top codes (R99, R100). -/
inductive FKind where
  | ieee | e4m3 | e2m1
deriving DecidableEq, Repr

/-- A floating-point format: exponent bits, fraction bits, bias (R99). -/
structure Fmt where
  eb : Nat
  fb : Nat
  bias : Nat
  kind : FKind
deriving DecidableEq, Repr

def fp64 : Fmt := ⟨11, 52, 1023, .ieee⟩
def fp32 : Fmt := ⟨8, 23, 127, .ieee⟩
def fp16 : Fmt := ⟨5, 10, 15, .ieee⟩
def bf16 : Fmt := ⟨8, 7, 127, .ieee⟩
def e4m3 : Fmt := ⟨4, 3, 7, .e4m3⟩
def e5m2 : Fmt := ⟨5, 2, 15, .ieee⟩
def e2m1 : Fmt := ⟨2, 1, 1, .e2m1⟩

/-- The format's width in bits. -/
def Fmt.width (f : Fmt) : Nat := 1 + f.eb + f.fb

/-- What a code of a format denotes: (−1)^neg × m × 2^e for a finite one (R99, R100). -/
inductive FVal where
  | nan (signalling : Bool)
  | inf (neg : Bool)
  | fin (neg : Bool) (m : Nat) (e : Int)
deriving DecidableEq, Repr

/-- The value of a code (R99, R100). -/
def decodeF (f : Fmt) (x : Nat) : FVal :=
  let s := bitOf x (f.eb + f.fb)
  let e := bits x (f.eb + f.fb - 1) f.fb
  let fr := x % 2 ^ f.fb
  let top := 2 ^ f.eb - 1
  if f.kind = .ieee ∧ e = top then
    if fr = 0 then .inf s else .nan (!bitOf fr (f.fb - 1))
  else if f.kind = .e4m3 ∧ e = top ∧ fr = 2 ^ f.fb - 1 then .nan false
  else if e = 0 then .fin s fr (1 - (f.bias : Int) - f.fb)
  else .fin s (fr + 2 ^ f.fb) ((e : Int) - f.bias - f.fb)

/-- The sign bit in place. -/
def signBit (f : Fmt) (neg : Bool) : Nat := if neg then 2 ^ (f.eb + f.fb) else 0

/-- The canonical NaN (R100). -/
def canonNaN (f : Fmt) : Nat :=
  match f.kind with
  | .ieee => (2 ^ f.eb - 1) * 2 ^ f.fb + 2 ^ (f.fb - 1)
  | .e4m3 => 0x7F
  | .e2m1 => 0

/-- The largest finite magnitude's code (R99). -/
def maxCode (f : Fmt) : Nat :=
  match f.kind with
  | .ieee => (2 ^ f.eb - 1) * 2 ^ f.fb - 1
  | .e4m3 => 0x7E
  | .e2m1 => 0x7

/-- The infinity's code, where the format has one (R100). -/
def infCode (f : Fmt) : Nat := (2 ^ f.eb - 1) * 2 ^ f.fb

/-- Significand and exponent of the largest finite magnitude. -/
def maxSig (f : Fmt) : Nat × Int :=
  match f.kind with
  | .ieee => (2 ^ (f.fb + 1) - 1, (f.bias : Int) - f.fb)
  | .e4m3 => (14, 5)
  | .e2m1 => (3, 1)

/-! ### Rounding -/

/-- Rounding modes (R112). -/
inductive RMode where
  | rn | rz | ru | rd | sr
deriving DecidableEq, Repr

/-- Conditions in the layout of FLAGS [5:0] (R107). -/
abbrev Conds := BitVec 6

def cIV : Conds := 1
def cDZ : Conds := 2
def cOF : Conds := 4
def cUF : Conds := 8
def cNX : Conds := 16
def cSAT : Conds := 32

/-- A result code with the conditions it raises. -/
structure FRes where
  code : Nat
  fl : Conds
deriving DecidableEq, Repr

/-- A magnitude rounded to an integer multiple of 2^q: m × 2^e plus, when `sticky`, a positive amount below 2^e. The second
component says whether the result differs from the exact value (R113, R116). -/
def roundAt (neg : Bool) (m : Nat) (e : Int) (sticky : Bool) (q : Int) (mode : RMode) (u : Nat) : Nat × Bool :=
  if q ≤ e then (m <<< (e - q).toNat, sticky)
  else
    let k := (q - e).toNat
    let lo := m >>> k
    let rem := m % 2 ^ k
    let half := 2 ^ (k - 1)
    let inex := rem != 0 || sticky
    let up : Bool :=
      match mode with
      | .rn => decide (rem > half) || (rem == half && (sticky || lo % 2 == 1))
      | .rz => false
      | .ru => inex && !neg
      | .rd => inex && neg
      | .sr => decide (u < rem * 2 ^ 32 / 2 ^ k)
    (if up then lo + 1 else lo, inex)

/-- The code of a magnitude mant × 2^q on the grid of a format, where it does not exceed the largest finite one. -/
def encodeMag (f : Fmt) (mant : Nat) (q : Int) : Nat :=
  let (mant, q) := if mant ≥ 2 ^ (f.fb + 1) then (mant / 2, q + 1) else (mant, q)
  if mant < 2 ^ f.fb then mant
  else ((q + f.fb + f.bias).toNat) * 2 ^ f.fb + (mant - 2 ^ f.fb)

/-- The result of an overflow (R113). -/
def overflowRes (f : Fmt) (neg : Bool) (mode : RMode) (sat : Bool) : FRes :=
  let s := signBit f neg
  match f.kind with
  | .e2m1 => ⟨s + maxCode f, cSAT ||| cNX⟩
  | .e4m3 => if sat then ⟨s + maxCode f, cSAT ||| cNX⟩ else ⟨canonNaN f, cOF ||| cNX⟩
  | .ieee =>
    if sat then ⟨s + maxCode f, cSAT ||| cNX⟩
    else
      let toInf : Bool := match mode with
        | .rn => true | .sr => true | .rz => false | .ru => !neg | .rd => neg
      ⟨s + (if toInf then infCode f else maxCode f), cOF ||| cNX⟩

/-- Round(x, fmt, mode) for a non-zero x = ±(m × 2^e, plus a positive amount below 2^e when `sticky`), with draw u under SR
(R113, R116, and the tiny test of R107). -/
def roundFin (f : Fmt) (mode : RMode) (sat : Bool) (u : Nat) (neg : Bool) (m : Nat) (e : Int) (sticky : Bool) : FRes :=
  let ex : Int := (bitLen m : Int) - 1 + e
  let emin : Int := 1 - f.bias
  let q := (if ex < emin then emin else ex) - f.fb
  let (mant, inex) := roundAt neg m e sticky q mode u
  let (ms, qs) := maxSig f
  if q > qs ∨ (q = qs ∧ mant > ms) then overflowRes f neg mode sat
  else
    let tiny := ex < emin ∧ ¬ (ex = emin - 1 ∧ (roundAt neg m e sticky (ex - f.fb) mode u).1 ≥ 2 ^ (f.fb + 1))
    ⟨signBit f neg + encodeMag f mant q,
      (if inex then cNX else 0) ||| (if inex && decide tiny then cUF else 0)⟩

/-- Round(x, fmt, mode) for an exact finite x; a zero keeps the sign given. -/
def roundTo (f : Fmt) (mode : RMode) (sat : Bool) (u : Nat) (neg : Bool) (m : Nat) (e : Int) : FRes :=
  if m = 0 then ⟨signBit f neg, 0⟩ else roundFin f mode sat u neg m e false

/-- A result code that is a subnormal becomes zero of its sign when its format is flushed, with UF and NX (R111). -/
def flushRes (f : Fmt) (fz : Bool) (r : FRes) : FRes :=
  let mag := r.code % 2 ^ (f.eb + f.fb)
  if fz && mag != 0 && decide (mag < 2 ^ f.fb) then ⟨r.code - mag, r.fl ||| cUF ||| cNX⟩ else r

/-- An operand code that is a subnormal reads as zero of its sign when its format is flushed (R111). -/
def flushIn (f : Fmt) (fz : Bool) (x : Nat) : Nat :=
  let mag := x % 2 ^ (f.eb + f.fb)
  if fz && decide (mag < 2 ^ f.fb) then x - mag else x

/-- Absolute value and negation of an operand's sign bit (R213). -/
def prepSign (f : Fmt) (ab ng : Bool) (x : Nat) : Nat :=
  let mag := x % 2 ^ (f.eb + f.fb)
  let s := bitOf x (f.eb + f.fb)
  mag + signBit f ((if ab then false else s) != ng)

/-- The canonical NaN with IV (R103). -/
def ivNaN (f : Fmt) : FRes := ⟨canonNaN f, cIV⟩

/-- The NaN result of operands of which one is a NaN: IV if any is signalling (R103). -/
def nanRes (f : Fmt) (signalling : Bool) : FRes := ⟨canonNaN f, if signalling then cIV else 0⟩

/-- The value is a signalling NaN. -/
def FVal.isSNaN : FVal → Bool
  | .nan s => s
  | .inf _ => false
  | .fin _ _ _ => false

/-- The value is a NaN. -/
def FVal.isNaN : FVal → Bool
  | .nan _ => true
  | .inf _ => false
  | .fin _ _ _ => false

/-- The exact sum of two finite numbers as sign, magnitude and exponent. -/
def addExact (n1 : Bool) (m1 : Nat) (e1 : Int) (n2 : Bool) (m2 : Nat) (e2 : Int) : Bool × Nat × Int :=
  let e := if e1 ≤ e2 then e1 else e2
  let a := m1 <<< (e1 - e).toNat
  let b := m2 <<< (e2 - e).toNat
  if n1 = n2 then (n1, a + b, e)
  else if b ≤ a then (n1, a - b, e)
  else (n2, b - a, e)

/-- The sign of an exact zero sum of two addends (R104). -/
def zeroSumSign (mode : RMode) (n1 n2 : Bool) : Bool :=
  match mode with
  | .rd => n1 || n2
  | .rn => n1 && n2
  | .rz => n1 && n2
  | .ru => n1 && n2
  | .sr => n1 && n2

/-- Round(a + b, fmt, mode) of values of any format (R113, R103, R104). -/
def addVal (f : Fmt) (mode : RMode) (u : Nat) (a b : FVal) : FRes :=
  match a, b with
  | .nan s, y => nanRes f (s || y.isSNaN)
  | x, .nan s => nanRes f (s || x.isSNaN)
  | .inf s, .inf t => if s = t then ⟨signBit f s + infCode f, 0⟩ else ivNaN f
  | .inf s, .fin _ _ _ => ⟨signBit f s + infCode f, 0⟩
  | .fin _ _ _, .inf t => ⟨signBit f t + infCode f, 0⟩
  | .fin n1 m1 e1, .fin n2 m2 e2 =>
    let (n, m, e) := addExact n1 m1 e1 n2 m2 e2
    if m = 0 then
      let s := if m1 = 0 ∧ m2 = 0 then zeroSumSign mode n1 n2
               else (match mode with | .rd => true | .rn => false | .rz => false | .ru => false | .sr => false)
      ⟨signBit f s, 0⟩
    else roundFin f mode false u n m e false

/-- Round(a × b, fmt, mode) (R113, R103, R104). -/
def mulVal (f : Fmt) (mode : RMode) (u : Nat) (a b : FVal) : FRes :=
  match a, b with
  | .nan s, y => nanRes f (s || y.isSNaN)
  | x, .nan s => nanRes f (s || x.isSNaN)
  | .inf s, .inf t => ⟨signBit f (s != t) + infCode f, 0⟩
  | .inf s, .fin t m _ => if m = 0 then ivNaN f else ⟨signBit f (s != t) + infCode f, 0⟩
  | .fin s m _, .inf t => if m = 0 then ivNaN f else ⟨signBit f (s != t) + infCode f, 0⟩
  | .fin s m e, .fin t n g => roundTo f mode false u (s != t) (m * n) (e + g)

/-- The exact product as a value; none for 0 × ∞. -/
def prodVal (a b : FVal) : Option FVal :=
  match a, b with
  | .nan s, y => some (.nan (s || y.isSNaN))
  | x, .nan s => some (.nan (s || x.isSNaN))
  | .inf s, .inf t => some (.inf (s != t))
  | .inf s, .fin t m _ => if m = 0 then none else some (.inf (s != t))
  | .fin s m _, .inf t => if m = 0 then none else some (.inf (s != t))
  | .fin s m e, .fin t n g => some (.fin (s != t) (m * n) (e + g))

/-- Round(a × b + c, fmt, mode) with the product not rounded; 0 × ∞ sets IV even when c is a quiet NaN (R214). -/
def fmaVal (f : Fmt) (mode : RMode) (u : Nat) (a b c : FVal) : FRes :=
  match prodVal a b with
  | none => ivNaN f
  | some p => addVal f mode u p c

/-- A comparison of two values that are not NaN: less, equal, greater. -/
def cmpVal (a b : FVal) : Ordering :=
  match a, b with
  | .inf s, .inf t => if s = t then .eq else if s then .lt else .gt
  | .inf s, _ => if s then .lt else .gt
  | _, .inf t => if t then .gt else .lt
  | .fin n1 m1 e1, .fin n2 m2 e2 =>
    let (n, m, _) := addExact n1 m1 e1 (!n2) m2 e2
    if m = 0 then .eq else if n then .lt else .gt
  | _, _ => .eq

/-- The sign of a value. -/
def FVal.neg : FVal → Bool
  | .nan _ => false
  | .inf s => s
  | .fin s _ _ => s

/-- FMIN and FMAX on prepared operand codes (R215). -/
def minMaxF (f : Fmt) (isMax : Bool) (x y : Nat) : FRes :=
  let a := decodeF f x
  let b := decodeF f y
  let iv : Conds := if a.isSNaN || b.isSNaN then cIV else 0
  if a.isNaN && b.isNaN then ⟨canonNaN f, iv⟩
  else if a.isNaN then ⟨y, iv⟩
  else if b.isNaN then ⟨x, iv⟩
  else
    let aLess : Bool := match cmpVal a b with
      | .lt => true
      | .gt => false
      | .eq => a.neg && !b.neg
    ⟨if aLess != isMax then x else y, iv⟩

/-- The condition of FCMP and DCMP, and IV (R216). -/
def condF (cc : FCond) (a b : FVal) : Bool × Conds :=
  let nan := a.isNaN || b.isNaN
  let sn : Conds := if a.isSNaN || b.isSNaN then cIV else 0
  let an : Conds := if nan then cIV else 0
  let c := cmpVal a b
  match cc with
  | .eq => (!nan && c == Ordering.eq, sn)
  | .ne => (nan || c != Ordering.eq, sn)
  | .lt => (!nan && c == Ordering.lt, an)
  | .le => (!nan && c != Ordering.gt, an)
  | .gt => (!nan && c == Ordering.gt, an)
  | .ge => (!nan && c != Ordering.lt, an)
  | .un => (nan, sn)
  | .ord => (!nan, sn)

/-- The class mask of FCLASS (R217). -/
def classF (f : Fmt) (x : Nat) : Nat :=
  match decodeF f x with
  | .nan true => 2 ^ 8
  | .nan false => 2 ^ 9
  | .inf true => 1
  | .inf false => 2 ^ 7
  | .fin n m _ =>
    if m = 0 then (if n then 2 ^ 3 else 2 ^ 4)
    else if m < 2 ^ f.fb then (if n then 2 ^ 2 else 2 ^ 5)
    else (if n then 2 else 2 ^ 6)

/-- An integral FP32 value under a mode, without NX (R218). -/
def frndVal (f : Fmt) (mode : RMode) (u : Nat) (x : Nat) : FRes :=
  match decodeF f x with
  | .nan s => nanRes f s
  | .inf _ => ⟨x, 0⟩
  | .fin n m e =>
    if m = 0 then ⟨x, 0⟩
    else
      let (r, _) := roundAt n m e false 0 mode u
      ⟨(roundTo f .rn false 0 n r 0).code, 0⟩

/-- Conversion of a value to a format, with the rules of R119 and R223 for NaN and infinity. -/
def cvtVal (f : Fmt) (mode : RMode) (sat : Bool) (u : Nat) (v : FVal) : FRes :=
  match v with
  | .nan s =>
    match f.kind with
    | .e2m1 => ⟨0, cIV⟩
    | .e4m3 => nanRes f s
    | .ieee => nanRes f s
  | .inf n =>
    match f.kind with
    | .e2m1 => ⟨signBit f n + maxCode f, cSAT⟩
    | .e4m3 => if sat then ⟨signBit f n + maxCode f, cSAT⟩ else ⟨canonNaN f, cOF⟩
    | .ieee => if sat then ⟨signBit f n + maxCode f, cSAT⟩ else ⟨signBit f n + infCode f, 0⟩
  | .fin n m e => roundTo f mode sat u n m e

/-- A floating value to an integer of w bits (R222). -/
def cvtInt (w : Nat) (sgn : Bool) (mode : RMode) (u : Nat) (v : FVal) : FRes :=
  let top : Int := if sgn then 2 ^ (w - 1) - 1 else 2 ^ w - 1
  let bot : Int := if sgn then -(2 ^ (w - 1)) else 0
  match v with
  | .nan _ => ⟨0, cIV⟩
  | .inf n => ⟨wrapInt w (if n then bot else top), cIV ||| cSAT⟩
  | .fin n m e =>
    let (r, inex) := roundAt n m e false 0 mode u
    let x : Int := if n then -(r : Int) else r
    if x < bot ∨ top < x then ⟨wrapInt w (if n then bot else top), cIV ||| cSAT⟩
    else ⟨wrapInt w x, if inex then cNX else 0⟩

/-- A value times 2^n. -/
def scaleVal (v : FVal) (n : Int) : FVal :=
  match v with
  | .fin s m e => .fin s m (e + n)
  | .inf s => .inf s
  | .nan s => .nan s

/-- An integer as a value. -/
def intVal (x : Int) : FVal := .fin (decide (x < 0)) x.natAbs 0

/-- FFREXP: significand in [0.5, 1) and exponent (R218). -/
def frexpF (f : Fmt) (x : Nat) : FRes × FRes :=
  match decodeF f x with
  | .nan s => (nanRes f s, ⟨0, if s then cIV else 0⟩)
  | .inf _ => (⟨x, 0⟩, ⟨0, 0⟩)
  | .fin n m e =>
    if m = 0 then (⟨x, 0⟩, ⟨0, 0⟩)
    else
      let l := bitLen m
      (⟨(roundTo f .rn false 0 n m (-(l : Int))).code, 0⟩, ⟨wrapInt 32 (e + l), 0⟩)

/-! ### Special functions (R220): a significand of about 100 bits with a sticky remainder, rounded once by RN. The series
are evaluated in fixed point with 192 fraction bits (log 14). -/

/-- Fraction bits of the fixed-point evaluation. -/
def fxP : Nat := 192
/-- One in fixed point. -/
def fxOne : Nat := 2 ^ fxP

/-- The integer square root by trial of n bits. -/
def isqrtLoop (x : Nat) : Nat → Nat → Nat
  | 0, r => r
  | n + 1, r => let t := r + 2 ^ n; isqrtLoop x n (if t * t ≤ x then t else r)

/-- The integer square root. -/
def isqrt (x : Nat) : Nat := isqrtLoop x (bitLen x / 2 + 1) 0

/-- Σ z^(2k+1)/(2k+1) with the signs of atan (`alt`) or atanh, n terms, in fixed point; p is the running power. -/
def atanSum (alt : Bool) (z2 : Nat) : Nat → Nat → Nat → Int → Int
  | 0, _, _, acc => acc
  | n + 1, k, p, acc =>
    let t : Int := (p / (2 * k + 1) : Nat)
    atanSum alt z2 n (k + 1) (p * z2 / fxOne) (if alt && k % 2 == 1 then acc - t else acc + t)

/-- ln 2 = 2 atanh(1/3) in fixed point. -/
def ln2Fx : Nat := (2 * atanSum false (fxOne / 9) 70 0 (fxOne / 3) 0).toNat

/-- π by Machin's formula in fixed point. -/
def piFx : Nat :=
  (16 * atanSum true (fxOne / 25) 50 0 (fxOne / 5) 0 - 4 * atanSum true (fxOne / 57121) 20 0 (fxOne / 239) 0).toNat

/-- e^z in fixed point for 0 ≤ z < 1: Σ z^k / k!. -/
def expSum (z : Nat) : Nat → Nat → Nat → Nat → Nat
  | 0, _, _, acc => acc
  | n + 1, k, t, acc => let t' := t * z / fxOne / k; expSum z n (k + 1) t' (acc + t')

/-- e^z in fixed point for 0 ≤ z < 1. -/
def expFx (z : Nat) : Nat := expSum z 50 1 fxOne fxOne

/-- Σ (−z2)^k / (2k+1)!, the quotient of sin z by z, in fixed point. -/
def sincSum (z2 : Nat) : Nat → Nat → Nat → Int → Int
  | 0, _, _, acc => acc
  | n + 1, k, t, acc =>
    let t' := t * z2 / fxOne / ((2 * k) * (2 * k + 1))
    sincSum z2 n (k + 1) t' (if k % 2 == 1 then acc - (t' : Int) else acc + t')

/-- A fixed-point or wider number m × 2^e cut to about 120 bits. -/
def cut (m : Nat) (e : Int) : Nat × Int :=
  let k := bitLen m - 120
  (m >>> k, e + k)

/-- The RN rounding to FP32 of a magnitude known to lie strictly between m × 2^e and (m + 1) × 2^e after cutting. -/
def roundStk (neg : Bool) (m : Nat) (e : Int) : FRes :=
  let (m, e) := cut m e
  roundFin fp32 .rn false 0 neg m e true

/-- m × 2^e in fixed point, rounded down, for a non-negative number. -/
def toFx (m : Nat) (e : Int) : Nat :=
  if 0 ≤ e + fxP then m <<< (e + fxP).toNat else m >>> (-(e + fxP)).toNat

/-- m × 2^e is an integer, and that integer rounded down. -/
def intPart (m : Nat) (e : Int) : Nat × Bool :=
  if 0 ≤ e then (m <<< e.toNat, true)
  else let k := (-e).toNat; (m >>> k, m % 2 ^ k == 0)

/-- RCP (R220, R221). -/
def rcpF (v : FVal) : FRes :=
  match v with
  | .nan s => nanRes fp32 s
  | .inf n => ⟨signBit fp32 n, 0⟩
  | .fin n m e =>
    if m = 0 then ⟨signBit fp32 n + infCode fp32, cDZ⟩
    else
      let k := bitLen m + 64
      let q := 2 ^ k / m
      roundFin fp32 .rn false 0 n q (-(k : Int) - e) (2 ^ k % m != 0)

/-- SQRT (R220, R221). -/
def sqrtF (v : FVal) : FRes :=
  match v with
  | .nan s => nanRes fp32 s
  | .inf n => if n then ivNaN fp32 else ⟨infCode fp32, 0⟩
  | .fin n m e =>
    if m = 0 then ⟨signBit fp32 n, 0⟩
    else if n then ivNaN fp32
    else
      let sh : Nat := if (e % 2 = 0) then 64 else 65
      let x := m <<< sh
      let r := isqrt x
      roundFin fp32 .rn false 0 false r ((e - sh) / 2) (r * r != x)

/-- RSQ (R220, R221). -/
def rsqF (v : FVal) : FRes :=
  match v with
  | .nan s => nanRes fp32 s
  | .inf n => if n then ivNaN fp32 else ⟨0, 0⟩
  | .fin n m e =>
    if m = 0 then ⟨signBit fp32 n + infCode fp32, cDZ⟩
    else if n then ivNaN fp32
    else
      -- 1/√(m 2^e) = √(2^k / m) × 2^(−(k + e)/2), with k + e even
      let k : Nat := 160 + (if (e % 2 = 0) then 0 else 1)
      let r := isqrt (2 ^ k / m)
      roundFin fp32 .rn false 0 false r (-((k : Int) + e) / 2) (r * r * m != 2 ^ k)

/-- 2^x of a finite x, as a magnitude with exponent, and whether it is exact (R220). -/
def exp2Raw (n : Bool) (m : Nat) (e : Int) : Nat × Int × Bool :=
  let (i, isInt) := intPart m e
  if isInt then (1, if n then -(i : Int) else i, true)
  else
    let fr := toFx (m - (i <<< (-e).toNat)) e
    let (k, f) : Int × Nat := if n then (-(i : Int) - 1, fxOne - fr - 1) else ((i : Int), fr)
    (expFx (f * ln2Fx / fxOne), k - fxP, false)

/-- EXP2 (R220, R221). -/
def exp2F (v : FVal) : FRes :=
  match v with
  | .nan s => nanRes fp32 s
  | .inf n => if n then ⟨0, 0⟩ else ⟨infCode fp32, 0⟩
  | .fin n m e =>
    if m = 0 then ⟨0x3F800000, 0⟩
    else if 9 < (bitLen m : Int) + e then
      if n then roundFin fp32 .rn false 0 false 1 (-400) true else overflowRes fp32 false .rn false
    else
      let (r, k, ex) := exp2Raw n m e
      if ex then roundFin fp32 .rn false 0 false r k false else roundStk false r k

/-- LOG2 (R220, R221). -/
def log2F (v : FVal) : FRes :=
  match v with
  | .nan s => nanRes fp32 s
  | .inf n => if n then ivNaN fp32 else ⟨infCode fp32, 0⟩
  | .fin n m e =>
    if m = 0 then ⟨signBit fp32 true + infCode fp32, cDZ⟩
    else if n then ivNaN fp32
    else
      let l := bitLen m
      let k : Int := e + l - 1
      if m = 2 ^ (l - 1) then roundTo fp32 .rn false 0 (decide (k < 0)) k.natAbs 0
      else
        -- log2 (m / 2^(l−1)) = 2 atanh(z) / ln 2 with z = (m − 2^(l−1)) / (m + 2^(l−1))
        let z := (m - 2 ^ (l - 1)) * fxOne / (m + 2 ^ (l - 1))
        let ln := (2 * atanSum false (z * z / fxOne) 70 0 z 0).toNat
        let x : Int := k * fxOne + (ln * fxOne / ln2Fx : Nat)
        roundStk (decide (x < 0)) x.natAbs (-(fxP : Int))

/-- sin(π r) for a dyadic r = m × 2^e with 0 < r < 1/2 (R220). -/
def sinRaw (neg : Bool) (m : Nat) (e : Int) : FRes :=
  let z := m * piFx                       -- × 2^(e − 192)
  let zf := toFx z (e - fxP)
  let s := (sincSum (zf * zf / fxOne) 40 1 fxOne fxOne).toNat
  roundStk neg (z * s) (e - fxP - fxP)

/-- x mod 2 as m × 2^e for e ≤ 0; zero for an even integer. -/
def modTwo (m : Nat) (e : Int) : Nat × Int :=
  if 0 < e then (0, 0) else (m % 2 ^ ((-e).toNat + 1), e)

/-- SIN: sin(π x) (R220, R221). -/
def sinF (v : FVal) : FRes :=
  match v with
  | .nan s => nanRes fp32 s
  | .inf _ => ivNaN fp32
  | .fin n m e =>
    if m = 0 then ⟨signBit fp32 n, 0⟩
    else
      let (_, isInt) := intPart m e
      if isInt then ⟨signBit fp32 n, 0⟩
      else
        let (r, e) := modTwo m e                    -- 0 < r < 2, e < 0
        let one := 2 ^ (-e).toNat
        let (r, n) := if r ≥ one then (r - one, !n) else (r, n)
        if 2 * r = one then ⟨signBit fp32 n + 0x3F800000, 0⟩
        else sinRaw n (if 2 * r > one then one - r else r) e

/-- COS: cos(π x) (R220, R221). -/
def cosF (v : FVal) : FRes :=
  match v with
  | .nan s => nanRes fp32 s
  | .inf _ => ivNaN fp32
  | .fin _ m e =>
    if m = 0 then ⟨0x3F800000, 0⟩
    else
      let (i, isInt) := intPart m e
      if isInt then ⟨signBit fp32 (i % 2 == 1) + 0x3F800000, 0⟩
      else
        let (r, e) := modTwo m e
        let one := 2 ^ (-e).toNat
        let (r, n) := if r ≥ one then (r - one, true) else (r, false)
        -- cos(π r) = sin(π (1/2 − r)); half units keep the difference exact
        if 2 * r = one then ⟨0, 0⟩
        else if 2 * r < one then sinRaw n (one - 2 * r) (e - 1)
        else sinRaw (!n) (2 * r - one) (e - 1)

/-- Σ y^k / (k+1)!, the quotient of e^y − 1 by y, in fixed point. -/
def expm1Sum (y : Nat) : Nat → Nat → Nat → Nat → Nat
  | 0, _, _, acc => acc
  | n + 1, k, t, acc => let t' := t * y / fxOne / (k + 1); expm1Sum y n (k + 1) t' (acc + t')

/-- TANH (R220, R221). -/
def tanhF (v : FVal) : FRes :=
  match v with
  | .nan s => nanRes fp32 s
  | .inf n => ⟨signBit fp32 n + 0x3F800000, 0⟩
  | .fin n m e =>
    if m = 0 then ⟨signBit fp32 n, 0⟩
    else
      let top : Int := (bitLen m : Int) + e
      if 4 < top then roundFin fp32 .rn false 0 n (2 ^ 100 - 1) (-100) true
      else if top ≤ -1 then
        -- y = 2|x| < 1: tanh = y E / (2 + y E)
        let y := toFx m (e + 1)
        let num := m * expm1Sum y 50 1 fxOne fxOne           -- × 2^(e + 1 − 192)
        let den := 2 * fxOne + toFx num (e + 1 - fxP)
        roundStk n (num * fxOne * fxOne / den) (e + 1 - fxP - fxP)
      else
        -- e^(2|x|) = 2^(2|x| / ln 2)
        let w := toFx m (e + 1) * fxOne / ln2Fx
        let i := w / fxOne
        let p := expFx ((w % fxOne) * ln2Fx / fxOne) <<< i
        roundStk n ((p - fxOne) * fxOne / (p + fxOne)) (-(fxP : Int))

end Sys2Proof.Machine
end

