-- ==== Sys2Proof/Machine/Mem.lean ====
section
/-! DEFINITION. Performing accesses: the point of an access, reads with the store queue and log laid over them, stores leaving
the store queue, atomic operations, releases and acquires, and the commit gate (05 R127 to R147; 10 R277 to R290; 06 R197). -/

namespace Sys2Proof.Machine

/-! ### The point of an access (R127, R128) -/

/-- Where an access is performed. -/
inductive Point where
  | l1 | l2 | home
deriving DecidableEq, Repr

/-- The point of an SI access by a thread on a core at a scope (R128); every other class is performed at one place, here the
home (log 7). -/
def pointOf (core cls : Nat) (sc : Scope) (pa : Nat) : Point :=
  if cls = 1 ∧ regionOf pa = .near ∧ pa / 0x0C00000000 = dieOf core then
    match sc with
    | .core => .l1
    | .clus => .l2
    | .die => .l2
    | .stk => .home
    | .ipo => .home
    | .pkg => .home
    | .sys => .home
  else .home

/-- An SI line brought into a die's L2 if it is absent, with retention and hints as for any fill, by a request of `lanes` lanes (R293,
R298, R299). -/
def State.siL2Get (s : State) (core ctx : Nat) (rng : Option Nat) (hint : Nat) (cmp : Bool) (ln lanes : Nat) : State :=
  let d := dieOf core
  match (s.die d).cache.line? ln with
  | some l => (s.setCache (.l2 d) ((s.die d).cache.used ln)).countHit d rng l lanes
  | none =>
    let keep := s.keeps d ln rng
    let b := s.peekN (ln * 128) 128
    (s.countFill d rng keep).fillL2 d
      { ln := ln, st := .si, ctx := ctx, tagv := true, hint := hint, retained := if keep then rng else none, dirty := 0
        cmp := cmp, comp := cmp && compressible b, data := b, filled := s.clk, way := 0, poison := s.poisonedAt (ln * 128) }

/-- The bytes of an SI line as the L2 of a die holds them, or its home where the L2 found no way (R128). -/
def State.siL2Bytes (s : State) (d ln : Nat) : List Byte × Bool :=
  match (s.die d).cache.line? ln with
  | some l => if l.st = .si then (l.data, l.poison) else (s.peekN (ln * 128) 128, s.poisonedAt (ln * 128))
  | none => (s.peekN (ln * 128) 128, s.poisonedAt (ln * 128))

/-- An SI line in a cache writes its dirty bytes back. -/
def State.siBack (s : State) (c : CacheRef) (ln : Nat) : State :=
  match (s.cache c).line? ln with
  | some l => if l.st = .si then s.writeBack c ln else s
  | none => s

/-- An access of a core at a wider point first sends out the dirty bytes of its narrower copies of the line (R138). -/
def State.siOut (s : State) (p : Point) (core ln : Nat) : State :=
  match p with
  | .l1 => s
  | .l2 => s.siBack (.l1 core) ln
  | .home => (s.siBack (.l1 core) ln).siBack (.l2 (dieOf core)) ln

/-- The bytes of a cache's SI line replaced, and whether they are poisoned. -/
def Cache.siRefresh (k : Cache) (ln : Nat) (b : List Byte × Bool) : Cache :=
  k.modLine ln fun l => if l.st = .si then { l with data := b.1, poison := b.2 } else l

/-- A core's narrower copies of an SI line take the bytes that an access at a wider point has read (R138). -/
def State.siFresh (s : State) (p : Point) (core ln : Nat) (b : List Byte × Bool) : State :=
  let l1 (s : State) : State := s.setCache (.l1 core) ((s.core core).l1.siRefresh ln b)
  match p with
  | .l1 => s
  | .l2 => l1 s
  | .home => l1 (s.setCache (.l2 (dieOf core)) ((s.die (dieOf core)).cache.siRefresh ln b))

/-- The bytes of the line of an SI access as its point holds them, filled there first by a request of `lanes` lanes (R128, R138). -/
def State.siLine (s : State) (p : Point) (core ctx : Nat) (rng : Option Nat) (hint : Nat) (cmp : Bool) (ln lanes : Nat) :
    (List Byte × Bool) × State :=
  let s := s.siOut p core ln
  match p with
  | .home =>
    let b := (s.peekN (ln * 128) 128, s.poisonedAt (ln * 128))
    (b, s.siFresh .home core ln b)
  | .l2 =>
    let s := s.siL2Get core ctx rng hint cmp ln lanes
    let b := s.siL2Bytes (dieOf core) ln
    (b, s.siFresh .l2 core ln b)
  | .l1 =>
    match (s.core core).l1.line? ln with
    | some l => ((l.data, l.poison), s.setCache (.l1 core) ((s.core core).l1.used ln))
    | none =>
      let s := s.siL2Get core ctx rng hint cmp ln lanes
      let (b, p) := s.siL2Bytes (dieOf core) ln
      ((b, p), if hint = 3 then s else s.fillL1 core
        { ln := ln, st := .si, ctx := ctx, tagv := true, hint := hint, retained := none, dirty := 0, cmp := cmp, comp := false
          data := b, filled := s.clk, way := 0, poison := p })

/-- A line of near memory is requested from another die: its region's export bit is set (R309). -/
def State.asked (s : State) (core pa : Nat) : State := s.setExport (dieOf core) (lineOf pa)

/-- Bytes of a local location at an access's point, and whether they are poisoned. The bytes lie in one line; `rng` is the range that
the access lies in, `lanes` the lanes of its request that are not yet counted. -/
def State.readPoint (s : State) (core ctx : Nat) (rng : Option Nat) (x : Xlat) (sc : Scope) (pa n lanes : Nat) :
    (List Byte × Bool) × State :=
  if x.cls = 1 then
    let ((b, p), s) := s.siLine (pointOf core x.cls sc pa) core ctx rng x.hint x.cmp (lineOf pa) lanes
    (((b.drop (pa % 128)).take n, p), s.asked core pa)
  else ((s.peekN pa n, s.poisonedIn pa n), if x.cls = 0 then s.asked core pa else s)

/-- The mask of n bytes from a place in their line. -/
def maskAt (pa n : Nat) : Nat := (2 ^ n - 1) <<< (pa % 128)

/-- Bytes written to a present line of an L1 or L2 without making it dirty: the store goes on to the L2 or the home (R293). -/
def Cache.update (k : Cache) (ln mask : Nat) (data : List Byte) : Cache :=
  k.modLine ln fun l => if l.st = .si then { l with data := overlayMask mask data l.data } else l

/-- SI bytes written at their point by an agent of a context on a core (R128, R293). An ST at .core allocates in the L1 whatever the
page's hint. The bytes lie in one line. -/
def State.siWrite (s : State) (p : Point) (core ctx : Nat) (rng : Option Nat) (hint : Nat) (cmp : Bool) (pa : Nat) (b : List Byte)
    (lanes : Nat) : State :=
  let ln := lineOf pa
  let mask := maskAt pa b.length
  let data := overlayAt (List.replicate 128 0) (pa % 128) b
  let s := s.siOut p core ln
  match p with
  | .l1 =>
    let s := (s.siLine .l1 core ctx rng (if hint = 3 then 0 else hint) cmp ln lanes).2
    if ((s.core core).l1.line? ln).isSome then
      s.setCache (.l1 core) ((s.core core).l1.modLine ln fun l =>
        { l with data := overlayMask mask data l.data, dirty := l.dirty ||| mask, ctx := ctx, tagv := true })
    else s.siL2Write (dieOf core) ctx ln hint mask cmp data false
  | .l2 =>
    let s := s.setCache (.l1 core) ((s.core core).l1.update ln mask data)
    (s.siL2Get core ctx rng hint cmp ln lanes).siL2Write (dieOf core) ctx ln hint mask cmp data false
  | .home =>
    let s := s.setCache (.l1 core) ((s.core core).l1.update ln mask data)
    let s := s.setCache (.l2 (dieOf core)) ((s.die (dieOf core)).cache.update ln mask data)
    (s.asked core pa).pokeN pa b

/-- Bytes written to a local location at their point by an agent of a context on a core: `rng` is the retention range that the access
lies in, `lanes` the lanes of its request that are not yet counted. The bytes lie in one line. -/
def State.writePoint (s : State) (core ctx : Nat) (rng : Option Nat) (cls hint : Nat) (cmp : Bool) (sc : Scope) (pa : Nat)
    (b : List Byte) (lanes : Nat) : State :=
  if cls = 1 then s.siWrite (pointOf core cls sc pa) core ctx rng hint cmp pa b lanes
  else if cls = 2 then
    (s.pokeN pa b).lineStore (dieOf core) (some core) ctx rng hint cmp (lineOf pa) (maskAt pa b.length) lanes
  else ((s.asked core pa).pokeN pa b).wakeWatch (lineOf pa)

/-! ### Atomic operations (R285, R288) -/

/-- The smaller or larger of two 32-bit signed numbers. -/
def minI (a b : Word) : Word := if a.slt b then a else b
def maxI (a b : Word) : Word := if a.slt b then b else a

/-- Width in bytes of an ATOM (R285). -/
def atomBytes : AtomOp → Nat
  | .add => 4
  | .addB64 => 8
  | .exch => 4
  | .exchB64 => 8
  | .minI32 => 4
  | .maxI32 => 4
  | .and => 4
  | .or => 4

/-- Width in bytes of a RED (R285). -/
def redBytes : RedOp → Nat
  | .add => 4
  | .addB64 => 8
  | .addF32 => 4
  | .minI32 => 4
  | .maxI32 => 4
  | .and => 4
  | .or => 4
  | .xor => 4

/-- New(o, d) of an ATOM (R285). -/
def atomNew (op : AtomOp) (o d : DWord) : DWord :=
  let w (x : Word) : DWord := x.setWidth 64
  match op with
  | .add => w (loW o + loW d)
  | .addB64 => o + d
  | .exch => w (loW d)
  | .exchB64 => d
  | .minI32 => w (minI (loW o) (loW d))
  | .maxI32 => w (maxI (loW o) (loW d))
  | .and => w (loW o &&& loW d)
  | .or => w (loW o ||| loW d)

/-- New(o, d) of a RED (R285). -/
def redNew (op : RedOp) (o d : DWord) : DWord :=
  let w (x : Word) : DWord := x.setWidth 64
  match op with
  | .add => w (loW o + loW d)
  | .addB64 => o + d
  | .addF32 => BitVec.ofNat 64 (addVal fp32 .rn 0 (decodeF fp32 (loW o).toNat) (decodeF fp32 (loW d).toNat)).code
  | .minI32 => w (minI (loW o) (loW d))
  | .maxI32 => w (maxI (loW o) (loW d))
  | .and => w (loW o &&& loW d)
  | .or => w (loW o ||| loW d)
  | .xor => w (loW o ^^^ loW d)

/-- The OP byte of an atomic message (R397): the OP of R285, with bit 7 for RED. -/
def atomCode : AtomOp → Nat
  | .add => 0
  | .addB64 => 1
  | .exch => 2
  | .exchB64 => 3
  | .minI32 => 4
  | .maxI32 => 5
  | .and => 6
  | .or => 7

def redCode : RedOp → Nat
  | .add => 0
  | .addB64 => 1
  | .addF32 => 2
  | .minI32 => 3
  | .maxI32 => 4
  | .and => 5
  | .or => 6
  | .xor => 7

/-- The home-side cache of a local address (R294). -/
def homeCache (pa : Nat) : CacheRef :=
  match regionOf pa with
  | .near => .l2 (pa / 0x0C00000000)
  | .far => .crown (crownHalf pa)
  | .host _ => .crown (crownHalf pa)
  | .device => .crown 0
  | .none => .crown 0

/-- Where the ALU of an atomic operation on a CT page stands (R288). -/
inductive Alu where
  | l1 | l2 | home
deriving DecidableEq, Repr

def aluOf : Scope → Alu
  | .core => .l1
  | .clus => .l1
  | .die => .l2
  | .stk => .l2
  | .ipo => .home
  | .pkg => .home
  | .sys => .home

/-- The line of an atomic operation on a CT page is held exclusively by the cache of its ALU, with the bytes that `mask` names written
(R288): the issuing core's L1 under its die's L2, that L2, or the home-side cache. -/
def State.aluHold (s : State) (core ctx : Nat) (rng : Option Nat) (x : Xlat) (sc : Scope) (pa mask lanes : Nat) : State :=
  let ln := lineOf pa
  let d := dieOf core
  match aluOf sc with
  | .l1 =>
    let s := s.lineStore d (some core) ctx rng x.hint x.cmp ln mask lanes
    if ((s.core core).l1.line? ln).isSome then (s.l1Obtain core ln true).2 else s.l1Fetch core ctx x ln true
  | .l2 => s.lineStore d none ctx rng x.hint x.cmp ln mask lanes
  | .home =>
    match homeCache pa with
    | .l2 h => (s.setExport d ln).lineStore h none ctx rng x.hint x.cmp ln mask lanes
    | _ => s.crownStore ctx x.hint x.cmp ln mask

/-- The write of an atomic operation at its ALU, none where a CAS fails (R286, R288). -/
def State.writeAtomic (s : State) (core ctx : Nat) (rng : Option Nat) (x : Xlat) (sc : Scope) (pa : Nat) (b : Option (List Byte))
    (lanes : Nat) : State :=
  if x.cls = 2 then
    match b with
    | some b => (s.pokeN pa b).aluHold core ctx rng x sc pa (maskAt pa b.length) lanes
    | none => s.aluHold core ctx rng x sc pa 0 lanes
  else
    match b with
    | some b => s.writePoint core ctx rng x.cls x.hint x.cmp sc pa b lanes
    | none => s

/-! ### Stores leaving the store queue (R280, R281, R401) -/

/-- An imprecise store fault (R281): the context faults, with the store record in the report. -/
def State.storeFault (s : State) (r : StoreReq) (aux : Nat) : State :=
  let gone := (s.team? r.team).isNone
  let exited := match s.thread? r.team r.tid with
    | some t => decide (t.st = .exited)
    | none => true
  s.contextFault r.ctx
    (Event.encode { kind := 0x05, orph := exited, vt := !gone, vl := true, ctx := r.ctx, core := r.core, die := dieOf r.core
                    lid := r.team / 2 ^ 24, team := if gone then 0 else r.team % 2 ^ 24, tid := if gone then 0 else r.tid
                    pc := if gone then 0 else r.pc.toNat, pa := r.pa, aux := aux, clock := s.clk })

/-- The bytes of one line that requests of one instruction write: mask and data, later lanes over earlier ones (R284). -/
def mergeReqs : List StoreReq → Nat × List Byte
  | [] => (0, List.replicate 128 0)
  | l => l.foldl (fun a r => (a.1 ||| maskAt r.pa r.data.length, overlayAt a.2 (r.pa % 128) r.data)) (0, List.replicate 128 0)

/-- The byte enables and data units of a write message (R397). -/
def writeUnits (mask : Nat) (data : List Byte) : List Byte := toBytes 16 mask ++ data

/-- The page attributes that a request carries, as a translation. -/
def StoreReq.xlat (r : StoreReq) : Xlat :=
  { ctx := r.ctx, vpn := 0, log2 := 16, pa := 0, cls := r.cls, w := true, xp := false, cmp := r.cmp, hint := r.hint, rlog := false
    mism := false }

/-- One lane's part of a store or RED performed at its point (R128, R279, R286). -/
def State.storeLocal (s : State) (r : StoreReq) (lanes : Nat) : State :=
  let pa := localOf r.pa
  match r.red with
  | none => s.writePoint r.core r.ctx r.rng r.cls r.hint r.cmp r.sc pa r.data lanes
  | some op =>
    let n := redBytes op
    let ((o, _), s) := s.readPoint r.core r.ctx r.rng r.xlat r.sc pa n lanes
    let v := redNew op (BitVec.ofNat 64 (ofBytes o)) (BitVec.ofNat 64 (ofBytes r.data))
    s.writeAtomic r.core r.ctx r.rng r.xlat r.sc pa (some (toBytes n v.toNat)) (if r.cls = 1 then 0 else lanes)

/-- The lanes of one line request performed in lane order; the request is counted once (R284, R299). -/
def State.storeLanes (s : State) (rs : List StoreReq) : State :=
  (rs.foldl (fun (a : State × Nat) r => (a.1.storeLocal r a.2, 0)) (s, rs.length)).1

/-- A line request for another package is sent: a store's lanes in one message, each lane of a RED in one of its own, in lane order
(R287, R399, R401). -/
def State.sendStore (s : State) (r : StoreReq) (rs : List StoreReq) : State :=
  let d := pkgOf r.pa
  if r.red.isSome then
    rs.foldl (fun s r => (s.sendReq (bareMsg .atomic d (128 + (r.red.map redCode).getD 0) r.pa r.data) (.red r) r.team r.tid r.ctx).2) s
  else
    let (mask, data) := mergeReqs rs
    (s.sendReq (bareMsg .write d 0 (lineOf r.pa * 128) (writeUnits mask data)) (.store rs) r.team r.tid r.ctx).2

/-- A line request of one instruction performed: at its point, or sent to the package that holds the line (R401). A poisoned
line that it covers in part, or that a RED updates, is an imprecise store fault; one that it covers whole loses its poison
(R409, R412). -/
def State.performReq (s : State) (rs : List StoreReq) : State :=
  match rs with
  | [] => s
  | r :: _ =>
    let mask := (mergeReqs rs).1
    if pkgOf r.pa ≠ s.pkgid then
      match s.path (pkgOf r.pa) r.pa with
      | .failed => s.storeFault r 1
      | .noRoute => s.storeFault r 1
      | .port _ => s.sendStore r rs
      | .wait _ => s.sendStore r rs
    else
      let pa := localOf r.pa
      if s.poisonedAt pa ∧ (mask ≠ fullMask ∨ r.red.isSome) then s.storeFault r 2
      else (if mask = fullMask ∧ r.red.isNone then s.clearPoison (lineOf pa * 128) 128 else s).storeLanes rs

/-- How a line request asks for a CT line: a store at its die's L2, a RED where its ALU stands (R288). -/
def StoreReq.ask (r : StoreReq) : Ask :=
  match r.red, aluOf r.sc with
  | some _, .home => .home
  | _, _ => .store

/-- A line request asks the directories for its line: true if it may be performed (R311, R315). -/
def State.reqAsk (s : State) (rs : List StoreReq) : Bool × State :=
  match rs with
  | [] => (true, s)
  | r :: _ => if pkgOf r.pa ≠ s.pkgid then (true, s) else s.ctAsk r.core r.cls r.hint r.ask (localOf r.pa)

/-- The line requests of a queue, each with its lanes, in order. -/
def reqIds (q : List StoreReq) : List Nat := distinct (q.map (·.id))

/-- The line request `id` of a core's store queue leaves it and is performed. -/
def State.acceptReq (s : State) (core id : Nat) : State :=
  let rs := (s.core core).storeq.filter fun r => r.id == id
  (s.modCore core fun k => { k with storeq := k.storeq.filter fun r => r.id != id }).performReq rs

/-- The requests of a core's store queue performed, up to and including the last that `p` names (a prefix of the queue). -/
def State.drainTo (s : State) (core : Nat) (p : StoreReq → Bool) : State :=
  let q := (s.core core).storeq
  match (q.filter p).getLast? with
  | none => s
  | some last =>
    let ids := reqIds q
    (ids.take (ids.idxOf last.id + 1)).foldl (fun s i => s.acceptReq core i) s

/-- Every request of a core's store queue performed. -/
def State.drain (s : State) (core : Nat) : State := s.drainTo core fun _ => true

/-- An acquire by a context on a core (R129, R137). -/
def State.acquire (s : State) (core ctx : Nat) (sc : Scope) : State := s.siAcquire core ctx sc

/-- A release by a context on a core (R129, R137, R141): what it covers is performed before it. -/
def State.release (s : State) (core ctx : Nat) (sc : Scope) : State := (s.drain core).siRelease core ctx sc

/-- The acquire of an order. -/
def State.acqIf (s : State) (o : Order) (core ctx : Nat) (sc : Scope) : State :=
  match o with
  | .rlx => s
  | .acq => s.acquire core ctx sc
  | .rel => s
  | .ar => s.acquire core ctx sc

/-- The release of an order. -/
def State.relIf (s : State) (o : Order) (core ctx : Nat) (sc : Scope) : State :=
  match o with
  | .rlx => s
  | .acq => s
  | .rel => s.release core ctx sc
  | .ar => s.release core ctx sc

/-- The acquire of an order by a thread (R137, R138). -/
def State.acqBy (s : State) (o : Order) (team tid core ctx : Nat) (sc : Scope) : State :=
  (if o = .acq ∨ o = .ar then s.learns team tid else s).acqIf o core ctx sc

/-- The release of an order by the threads of live lanes (R137, R138). -/
def State.relBy (s : State) (o : Order) (team : Nat) (live : List (Nat × Nat × Thread)) (core ctx : Nat) (sc : Scope) : State :=
  (if o = .rel ∨ o = .ar then live.foldl (fun s x => s.tells team x.2.1) s else s).relIf o core ctx sc

/-- The order is a release. -/
def relOrder : Order → Bool
  | .rlx => false
  | .acq => false
  | .rel => true
  | .ar => true

/-! ### Reading past the store queue and the store log (R141, R282) -/

/-- Ranges of bytes that overlap. -/
def overlaps (a n b m : Nat) : Bool := a < b + m && b < a + n

/-- Bytes with stores laid over them, oldest first. -/
def layOver (pa : Nat) (old : List Byte) (rs : List StoreReq) : List Byte :=
  rs.foldl (fun b r =>
    (upTo b.length).map fun i => if r.pa ≤ pa + i ∧ pa + i < r.pa + r.data.length then r.data.getD (pa + i - r.pa) 0 else b.getD i 0) old

/-- The logged stores that a team's threads on a core read (R282). -/
def State.logOf (s : State) (team core : Nat) : List StoreReq :=
  match s.team? team with
  | some tm => if tm.window then tm.log.filter fun r => r.core == core else []
  | none => []

/-- A thread's read of n bytes at a global physical address of this package: overlapping REDs are performed first, then the
bytes are those of its point with the stores it may already read laid over them: those of its core's queue, on SI pages only
its own (R141), and those of its team's log (R282). -/
def State.readGlobal (s : State) (core team tid ctx : Nat) (va : DWord) (x : Xlat) (sc : Scope) (gpa n lanes : Nat) :
    (List Byte × Bool) × State :=
  let s := s.drainTo core fun r => r.red.isSome && overlaps r.pa r.data.length gpa n
  let ((b, p), s) := s.readPoint core ctx (s.rangeAt (dieOf core) ctx va.toNat) x sc (localOf gpa) n lanes
  let q := (s.core core).storeq.filter fun r => overlaps r.pa r.data.length gpa n && (x.cls != 1 || (r.team == team && r.tid == tid))
  let q := q ++ (s.logOf team core).filter fun r => overlaps r.pa r.data.length gpa n
  ((layOver gpa b q, p), s)

/-! ### The commit gate (R59, R197, R282) -/

/-- A team's logged stores performed in program order, those of one line of one instruction together, each with its own order and scope
(R282, R283, R415). -/
def State.flushLog (s : State) (team : Nat) : State :=
  match s.team? team with
  | none => s
  | some tm =>
    let s := s.modTeam team fun t => { t with log := [] }
    (reqIds tm.log).foldl (fun s i =>
      let rs := tm.log.filter fun r => r.id == i
      match rs with
      | r :: _ => (if r.rel then s.release r.core r.ctx r.sc else s).performReq rs
      | [] => s) s

/-- A team's relaunch window closes: its log is flushed (R59, R282). -/
def State.closeWindow (s : State) (team : Nat) : State :=
  match s.team? team with
  | some tm => if tm.window then (s.flushLog team).modTeam team fun t => { t with window := false } else s
  | none => s

/-- A live thread's non-replayable instruction crosses the commit gate: the team's window closes (R59, R197). -/
def State.crossGate (s : State) (team : Nat) : State := s.closeWindow team

/-- Remote writes of a thread that no acknowledgement has answered (R401). -/
def State.remoteWrites (s : State) (team tid : Nat) : Bool :=
  s.reqs.any fun r => match r.what with
    | .store rs => rs.any fun q => q.team == team && q.tid == tid
    | .red q => q.team == team && q.tid == tid
    | .load _ _ _ _ => false
    | .watch _ _ _ => false
    | .rmw _ _ _ _ _ _ => false
    | .chunkRead _ _ _ _ _ => false
    | .chunkWrite _ _ _ _ => false
    | .landing => false
    | .done _ => false
    | .record _ _ _ _ _ _ _ _ => false

/-- The thread has writes to other packages on their way, or waiting in its core's queue (R401). -/
def State.sysHold (s : State) (c team tid : Nat) : Bool :=
  s.remoteWrites team tid || (s.core c).storeq.any fun r => r.team == team && r.tid == tid && pkgOf r.pa != s.pkgid

/-- A release at .sys waits until the live threads' writes to other packages are acknowledged (R401): the queue is drained so
that they leave. -/
def State.relWaits (s : State) (c team : Nat) (live : List (Nat × Nat × Thread)) (ord : Order) (sys : Bool) : Option State :=
  if relOrder ord && sys && live.any fun x => s.sysHold c team x.2.1 then some (s.drain c) else none

/-- The package has no path for a lane's access (R402): found at issue, where a store only needs a route. -/
def State.noPath (s : State) (gpa : Nat) (posted : Bool) : Bool :=
  pkgOf gpa != s.pkgid && (match s.path (pkgOf gpa) (localOf gpa) with
    | .noRoute => true
    | .failed => !posted
    | .port _ => false
    | .wait _ => false)

end Sys2Proof.Machine
end

