-- ==== Sys2Proof/Machine/Coll.lean ====
section
/-! DEFINITION. Collective instances: arrival, abstention, issue and results; and the end of a thread (08 R231 to R245; 06 R165;
02 R54). -/

namespace Sys2Proof.Machine

/-- The tile size of a team (R231). -/
def Team.tileSize (t : Team) : Nat := 2 ^ t.part

/-- The member at a position. -/
def Coll.at (c : Coll) (pos : Nat) : Option CollMember := c.members.find? fun m => m.tid == c.tile * c.size + pos

/-- Positions 0 to S − 1. -/
def Coll.positions (c : Coll) : List Nat := upTo c.size

/-- The arrived members in position order: position, member. -/
def Coll.contrib (c : Coll) : List (Nat × CollMember) :=
  c.positions.filterMap fun i => if c.mask.getLsbD i then (c.at i).map fun m => (i, m) else none

/-! ### Results (R241 to R244) -/

/-- The identity of an operation (R243). -/
def foldId (op : RedKind) (ty : RedTy) : Word :=
  match op, ty with
  | .add, .i32 => 0
  | .add, .n32 => 0
  | .add, .f32 => 0x80000000
  | .min, .i32 => 0x7FFFFFFF
  | .min, .n32 => 0xFFFFFFFF
  | .min, .f32 => 0x7F800000
  | .max, .i32 => 0x80000000
  | .max, .n32 => 0
  | .max, .f32 => 0xFF800000
  | .and, _ => 0xFFFFFFFF
  | .or, _ => 0
  | .xor, _ => 0

/-- Op(r, x) (R243). -/
def foldOp (op : RedKind) (ty : RedTy) (r x : Word) : Word :=
  match op, ty with
  | .add, .f32 => BitVec.ofNat 32 (addVal fp32 .rn 0 (decodeF fp32 r.toNat) (decodeF fp32 x.toNat)).code
  | .add, .i32 => r + x
  | .add, .n32 => r + x
  | .min, .i32 => minI r x
  | .min, .n32 => if r < x then r else x
  | .min, .f32 => BitVec.ofNat 32 (minMaxF fp32 false r.toNat x.toNat).code
  | .max, .i32 => maxI r x
  | .max, .n32 => if r < x then x else r
  | .max, .f32 => BitVec.ofNat 32 (minMaxF fp32 true r.toNat x.toNat).code
  | .and, _ => r &&& x
  | .or, _ => r ||| x
  | .xor, _ => r ^^^ x

/-- The running fold over named positions up to and, if `incl`, with position `upto`; a named position that did not
contribute gives the identity (R243). -/
def Coll.fold (c : Coll) (op : RedKind) (ty : RedTy) (last : Nat) (incl : Bool) : Word :=
  ((c.positions.filter fun i => c.mask.getLsbD i && (i < last || (incl && i == last))).foldl
    (fun r i => foldOp op ty r (((c.at i).map fun m => loW m.a).getD (foldId op ty))) (foldId op ty))

/-- The result of an instance for an arrived member at position q (R241 to R244). -/
def Coll.result (c : Coll) (q : Nat) (u : CollMember) : DWord :=
  match c.op with
  | .vote op neg =>
    let xs := c.contrib.map fun m => m.2.p != neg
    match op with
    | .all => (b2w (xs.all (fun b => b))).setWidth 64
    | .any => (b2w (xs.any (fun b => b))).setWidth 64
    | .uni => (b2w (xs.all (fun b => b) || xs.all (!·))).setWidth 64
    | .ballot => BitVec.ofNat 64 ((c.contrib.filter fun m => m.2.p != neg).map fun m => 2 ^ m.1).sum
  | .pick mode delta =>
    let src : Option Nat := match mode with
      | .at => some ((hiW u.a).toNat % 64)
      | .below => if delta ≤ q then some (q - delta) else none
      | .above => some (q + delta)
      | .flip => some (q ^^^ delta)
    let own := (loW u.a).setWidth 64
    match src with
    | none => own
    | some i =>
      if i < c.size && c.mask.getLsbD i then (match c.at i with
        | some m => (loW m.a).setWidth 64
        | none => own) else own
  | .tred op ty => (c.fold op ty c.size false).setWidth 64
  | .tscan op ty exc => (c.fold op ty q (!exc)).setWidth 64
  | .matchEq w64 =>
    BitVec.ofNat 64 ((c.contrib.filter fun m => if w64 then m.2.a == u.a else loW m.2.a == loW u.a).map fun m => 2 ^ m.1).sum

/-- What a collective writes: v registers, or a predicate. -/
def CollOp.regs (op : CollOp) (dst : Nat) (r : DWord) : List (Nat × Word) :=
  match op with
  | .vote .ballot _ => [(dst, loW r), (dst + 1, hiW r)]
  | .vote .all _ => []
  | .vote .any _ => []
  | .vote .uni _ => []
  | .pick _ _ => [(dst, loW r)]
  | .tred _ _ => [(dst, loW r)]
  | .tscan _ _ _ => [(dst, loW r)]
  | .matchEq _ => [(dst, loW r), (dst + 1, hiW r)]

def CollOp.preds (op : CollOp) (dst : Nat) (r : DWord) : List (Nat × Bool) :=
  match op with
  | .vote .ballot _ => []
  | .vote .all _ => [(dst, r.getLsbD 0)]
  | .vote .any _ => [(dst, r.getLsbD 0)]
  | .vote .uni _ => [(dst, r.getLsbD 0)]
  | .pick _ _ => []
  | .tred _ _ => []
  | .tscan _ _ _ => []
  | .matchEq _ => []

/-! ### Issue (R233, R234) -/

/-- A named position is settled: it arrived, or holds no thread that is awaited. -/
def State.collSettled (s : State) (c : Coll) (pos : Nat) : Bool :=
  (c.at pos).isSome || c.gone.contains (c.tile * c.size + pos) || match s.thread? c.team (c.tile * c.size + pos) with
    | none => true
    | some t => t.st == .exited

/-- Every named member has arrived, exited or abstained (R233). -/
def State.collComplete (s : State) (c : Coll) : Bool := (c.positions.filter fun i => c.mask.getLsbD i).all fun i => s.collSettled c i

/-- A member's result: its arrival record, and its window ready to be written (R236, R237). -/
def Thread.collDone (t : Thread) (c : Coll) (m : CollMember) : Thread :=
  let r := c.result (m.tid % c.size) m
  let t := { t with arr := some { pci := c.pci, rcnt := t.rcnt, result := r } }
  t.modWin m.win fun w =>
    { w with ready := true, wait := none
             regs := w.regs.map fun x => (x.1, (((c.op.regs m.dst r).find? fun y => y.1 == x.1).map (·.2)).getD x.2)
             preds := w.preds.map fun x => (x.1, (((c.op.preds m.dst r).find? fun y => y.1 == x.1).map (·.2)).getD x.2) }

/-- An instance issues: every arrived member has its result (R233). -/
def State.collIssue (s : State) (core : Nat) (c : Coll) : State :=
  let s := s.modCore core fun k => { k with colls := k.colls.filter fun x => x.id != c.id }
  c.members.foldl (fun s m => s.modThread c.team m.tid fun t => t.collDone c m) s

/-- The complete instances of a team that a core holds issue (R233). -/
def State.collCheckAt (s : State) (core team : Nat) : State :=
  ((s.core core).colls.filter fun c => c.team == team && s.collComplete c).foldl (fun s c => s.collIssue core c) s

/-- The complete instances of a team issue (R233). -/
def State.collCheck (s : State) (team : Nat) : State :=
  match s.team? team with
  | some tm => tm.cores.foldl (fun s c => s.collCheckAt c team) s
  | none => s

/-- The core that holds the instances of a thread's tile: that of the tile's first thread (log 72). -/
def Team.collCore (t : Team) (tid size : Nat) : Nat := t.coreOf (tid / size * size)

/-- An instance without what a thread gave it (R234). -/
def Coll.leave (c : Coll) (tid : Nat) : Coll := { c with members := c.members.filter fun m => m.tid != tid }

/-- The pending instances of a team changed by `f`. -/
def State.modColls (s : State) (team : Nat) (f : Coll → Coll) : State :=
  match s.team? team with
  | some tm => tm.cores.foldl (fun s c => s.modCore c fun k => { k with colls := k.colls.map fun x => if x.team = team then f x else x }) s
  | none => s

/-- The instance names a thread. -/
def Coll.names (c : Coll) (tid : Nat) : Bool := tid / c.size == c.tile && c.mask.getLsbD (tid % c.size)

/-- A thread abstains at a collective (R234): every pending instance at that address that names it, and every one that forms
before it executes a further collective, counts it as exited. -/
def State.abstain (s : State) (team tid : Nat) (pci : Pc) : State :=
  (s.modColls team fun c => if c.pci = pci ∧ c.names tid then { c with gone := c.gone ++ [tid] } else c).modThread team tid
    fun t => { t with abst := t.abst ++ [pci] }

/-! ### Arrival (R233 to R237) -/

/-- The pending instance a thread's arrival joins. -/
def State.collFind (s : State) (core team size tile : Nat) (pci : Pc) (mask : DWord) : Option Coll :=
  (s.core core).colls.find? fun c => c.team == team && c.size == size && c.tile == tile && c.pci == pci && c.mask == mask

/-- The mask checks of R235. -/
def State.collBad (s : State) (core team size tid : Nat) (pci : Pc) (mask : DWord) : Bool :=
  !mask.getLsbD (tid % size) || decide (2 ^ size ≤ mask.toNat)
    || (s.core core).colls.any fun c => c.team == team && c.size == size && c.tile == tid / size && c.pci == pci
        && c.mask != mask && (c.mask &&& mask) != 0

/-- The threads of a tile that have abstained at an address since they last executed a collective (R234). -/
def State.abstained (s : State) (team size tile : Nat) (pci : Pc) : List Nat :=
  ((upTo size).map (tile * size + ·)).filter fun i => (s.thread? team i).any fun t => t.abst.contains pci

/-- An arrival joins the pending instance of its tile, PCI and mask, or forms one (R233); an arrival repeated after a restart
takes the place of the first (R62), and one of a thread that had abstained from the instance counts (log 73). The instance's
identifier. -/
def State.collJoin (s : State) (core team tid size : Nat) (pci : Pc) (mask : DWord) (op : CollOp) (m : CollMember) : Nat × State :=
  match s.collFind core team size (tid / size) pci mask with
  | some c =>
    let add (x : Coll) : Coll :=
      if x.id = c.id then { x with members := x.members.filter (fun y => y.tid != tid) ++ [m], gone := x.gone.filter (· != tid) } else x
    (c.id, s.modCore core fun k => { k with colls := k.colls.map add })
  | none =>
    let (n, s) := s.takeId
    let c : Coll :=
      { id := n, team := team, size := size, tile := tid / size, pci := pci, mask := mask, op := op, members := [m]
        gone := (s.abstained team size (tid / size) pci).filter (· != tid) }
    (n, s.modCore core fun k => { k with colls := k.colls ++ [c] })

/-- A thread arrives at a collective: it joins its instance or forms one, and waits for the result (R233). -/
def State.collArrive (s : State) (core team tid size : Nat) (h : Hdr) (pci : Pc) (mask : DWord) (op : CollOp) (a : DWord)
    (p : Bool) (dst : Nat) : State :=
  let (win, s) := s.takeId
  let m : CollMember := { tid := tid, a := a, p := p, win := win, dst := dst }
  let (n, s) := s.collJoin core team tid size pci mask op m
  let w : Window :=
    { mkWin h win .coll pci (op.regs dst 0) false with preds := op.preds dst 0, wait := some (.coll n) }
  s.modThread team tid fun t =>
    { t.openWin w ((op.regs dst 0).map (·.1)) ((op.preds dst 0).map (·.1)) with abst := [] }

/-- A thread takes the recorded result of an arrival it repeats (R237). -/
def Thread.collAgain (t : Thread) (op : CollOp) (dst : Nat) (r : DWord) : Thread :=
  { ((t.writeRegs (op.regs dst r)).writePreds (op.preds dst r)) with abst := [] }

/-- The arrival record names this instruction in this region (R237). -/
def Thread.recorded (t : Thread) (pci : Pc) : Option DWord :=
  match t.arr with
  | some a => if a.pci == pci && a.rcnt == t.rcnt then some a.result else none
  | none => none

/-- A collective on the group that executes (R233 to R237): threads not live abstain; a live thread repeats a recorded
arrival, faults on its mask, or arrives; complete instances issue; a member with LA = 0 whose instance has not issued parks.
Whether the mask checks of R235 apply to an arrival that the record repeats is open: the model takes the record first and makes
no check of the mask (log 74). `val` gives a thread's A and predicate, `msk` its mask. -/
def runColl (h : Hdr) (len : Nat) (vs : List VOp) (a : Option VReg) (op : CollOp) (dst : Nat) (msk : Team → Thread → DWord)
    (val : Thread → DWord × Bool) (s : State) : Host.Outcome State Fault Refusal :=
  runLive h len none vs a (fun _ g tm live s =>
    let size := tm.tileSize
    let s := (s.laneThreads g).foldl (fun s x =>
      if live.any fun y => y.2.1 == x.2.1 then s else s.abstain g.team x.2.1 (x.2.2.pc - BitVec.ofNat 55 (4 * len))) s
    let s := live.foldl (fun s x =>
      let tid := x.2.1
      let t := x.2.2
      if (s.thread? g.team tid).isNone then s
      else
        match t.recorded t.pc with
        | some r => s.modThread g.team tid fun t => t.collAgain op dst r
        | none =>
          let m := msk tm t
          let c := tm.collCore tid size
          if s.collBad c g.team size tid t.pc m then s.takeTrap g.team tid (s.trapAt kCollectiveMask m t.pc len)
          else s.collArrive c g.team tid size h t.pc m op (val t).1 (val t).2 dst) s
    let s := s.collCheck g.team
    if h.la.toNat = 0 then
      live.foldl (fun s x => match (s.thread? g.team x.2.1).bind fun t => t.waiting fun w => match w with
          | .coll _ => true
          | _ => false with
        | some w => s.park g.team x.2.1 (w.wait.getD (.coll 0))
        | none => s) s
    else s) s

/-! ### The end of a thread (R54, R165) -/

/-- The scope of the barriers of a launch's cohorts (R246). -/
def LaunchRec.barScope (l : LaunchRec) : Scope :=
  match l.clvl with
  | 1 => .clus
  | 2 => .die
  | 3 => .die
  | _ => .pkg

/-- A team whose threads have all exited leaves the barriers of its cohort; leaving is a release (R250). -/
def State.leaveCohort (s : State) (team : Nat) : State :=
  match s.team? team with
  | none => s
  | some tm =>
    if tm.lr.clvl = 0 ∨ ¬ (s.threadsOf team).all (fun x => x.2.st == .exited) then s
    else
      let s := tm.cores.foldl (fun s c => s.release c tm.ctx tm.lr.barScope) s
      s.modLaunch tm.lid fun l =>
        { l with cohorts := l.cohorts.mapKV fun j c =>
            if j = tm.n / tm.lr.cn ∧ ¬ c.gone.contains tm.n then { c with gone := c.gone ++ [tm.n] } else c }

/-- EXIT of a thread: pending results are discarded, its reservation is released, its arrivals at pending collectives and its place
in them and in barriers are given up (R54, R62, R165, R234, R250, R259). -/
def State.exitThread (s : State) (team tid : Nat) : State :=
  let s := (s.freeRsv team tid).unsched team tid
  let s := s.modThread team tid fun t =>
    { t with st := .exited, wait := 0, wins := [], trap := none, entry := none, barv := 0 }
  ((s.modColls team fun c => c.leave tid).collCheck team).leaveCohort team

end Sys2Proof.Machine
end

