-- ==== Sys2Proof/Machine/Operands.lean ====
section
/-! DEFINITION. Operand values: operand B in its forms, and effective addresses (03 R71 to R74, R84 to R86). -/

namespace Sys2Proof.Machine

/-- How a literal fills 64 bits (R74). -/
inductive LitExt where
  | sign | zero
deriving DecidableEq, Repr

/-- A literal in 64 bits. -/
def litWide (e : LitExt) (w : Word) : DWord :=
  match e with
  | .sign => w.signExtend 64
  | .zero => w.setWidth 64

/-- A k register. -/
def Team.kreg (tm : Team) (i : Nat) : Word := tm.k.getD i 0
/-- A k pair. -/
def Team.kreg64 (tm : Team) (i : Nat) : DWord := pairOf (tm.kreg i) (tm.kreg (i + 1))

/-- The 32-bit value of operand B (R71 to R74). -/
def bVal (tm : Team) (t : Thread) (b : SrcB) : Word :=
  match b with
  | .reg r => t.reg r.toNat
  | .lit w => w
  | .xreg r => t.reg r.toNat
  | .xk k => tm.kreg k.toNat

/-- The 64-bit value of operand B. -/
def bVal64 (e : LitExt) (tm : Team) (t : Thread) (b : SrcB) : DWord :=
  match b with
  | .reg r => t.reg64 r.toNat
  | .lit w => litWide e w
  | .xreg r => t.reg64 r.toNat
  | .xk k => tm.kreg64 k.toNat

/-- The 32-bit value of operand B under an extension word. -/
def xVal (tm : Team) (t : Thread) (b : ExtB) : Word :=
  match b with
  | .v r => t.reg r.toNat
  | .k k => tm.kreg k.toNat

/-- The 64-bit value of operand B under an extension word. -/
def xVal64 (tm : Team) (t : Thread) (b : ExtB) : DWord :=
  match b with
  | .v r => t.reg64 r.toNat
  | .k k => tm.kreg64 k.toNat

/-- The two registers of a 64-bit result. -/
def wr64 (d : Nat) (x : DWord) : List (Nat × Word) := [(d, loW x), (d + 1, hiW x)]

/-- The four registers of a quad. -/
def wr128 (d : Nat) (x : BitVec 128) : List (Nat × Word) :=
  [(d, x.extractLsb' 0 32), (d + 1, x.extractLsb' 32 32), (d + 2, x.extractLsb' 64 32), (d + 3, x.extractLsb' 96 32)]

/-! ### Access codes (R274, R275) -/

/-- Size in bytes of an access code of LD and ST (R274). -/
def accBytes (c : AccCode) : Nat :=
  match c with
  | .b32 => 4
  | .b64 => 8
  | .b128 => 16
  | .b64a8 => 8
  | .b128a16 => 16
  | .prv => 4
  | .prvB64 => 8
  | .prvB128 => 16

/-- The code selects the thread-private space (R275). -/
def accPrv (c : AccCode) : Bool :=
  match c with
  | .b32 => false
  | .b64 => false
  | .b128 => false
  | .b64a8 => false
  | .b128a16 => false
  | .prv => true
  | .prvB64 => true
  | .prvB128 => true

/-! ### Effective addresses (R86) -/

/-- The v operands of a memory operand: base of n registers, and an index. -/
def memOps (a : VReg) (n : Nat) (m : MemOp) : List VOp :=
  vR a n :: match m with
    | .base => []
    | .off _ => []
    | .index b _ => extOps b
    | .post _ => []
    | .modulo _ _ => []

/-- The effective address in the global space, and the base register's update (R86). -/
def eaGlobal (tm : Team) (t : Thread) (a : VReg) (m : MemOp) : DWord × List (Nat × Word) :=
  let base := t.reg64 a.toNat
  match m with
  | .base => (base, [])
  | .off w => (base + w.signExtend 64, [])
  | .index b s => (base + (((xVal tm t b).signExtend 64) <<< s.toNat), [])
  | .post inc => (base, wr64 a.toNat (base + inc.signExtend 64))
  | .modulo _ _ => (base, [])

/-- The offset in the scratchpad or thread-private space, and the base register's update (R86). -/
def eaLocal (tm : Team) (t : Thread) (a : VReg) (m : MemOp) : Word × List (Nat × Word) :=
  let base := t.reg a.toNat
  match m with
  | .base => (base, [])
  | .off w => (base + w, [])
  | .index b s => (base + (xVal tm t b <<< s.toNat), [])
  | .post inc => (base, [(a.toNat, base + inc.signExtend 32)])
  | .modulo i inc =>
    let (b, n) := tm.mreg.getD i.toNat (0, 0)
    (base, [(a.toNat,
      if n = 0 then base + inc.signExtend 32
      else b + BitVec.ofInt 32 (((base.toNat : Int) - b.toNat + inc.toInt) % n.toNat))])

end Sys2Proof.Machine
end

