-- ==== Sys2Proof/Machine/Flags.lean ====
section
/-! DEFINITION. FPCTL, rounding modes and draws, FLAGS conditions, and the layouts of the special registers that SETS checks
(04 R105 to R117; 06 R174, R175, R191 to R193; 08 R231). -/

namespace Sys2Proof.Machine

/-- The rounding mode of FPCTL.RM (R105); the reserved codes 5 to 7, which only a hood written by software brings, round as RN
(log 86). -/
def ctlMode (fpctl : Word) : RMode :=
  match fpctl.toNat % 8 with
  | 1 => .rz
  | 2 => .ru
  | 3 => .rd
  | 4 => .sr
  | _ => .rn

/-- The mode of a rounding field (R112). -/
def Thread.mode (t : Thread) (c : RoundCode) : RMode :=
  match c with
  | .fpctl => ctlMode t.fpctl
  | .rn => .rn
  | .rz => .rz
  | .ru => .ru
  | .rd => .rd
  | .sr => .sr

/-- FZ32, FZ16, FZBF (R105). -/
def Thread.fz32 (t : Thread) : Bool := t.fpctl.getLsbD 4
def Thread.fz16 (t : Thread) : Bool := t.fpctl.getLsbD 5
def Thread.fzbf (t : Thread) : Bool := t.fpctl.getLsbD 6

/-- The flush control of a format (R111): FP64 and formats of 8 bits or fewer are never flushed. -/
def Thread.fz (t : Thread) (f : Fmt) : Bool :=
  if f = fp32 then t.fz32 else if f = fp16 then t.fz16 else if f = bf16 then t.fzbf else false

/-- FZMIX64 (R114). -/
def fzmix64 (ctr : BitVec 40) (key : Word) : DWord :=
  let z : DWord := ((key.setWidth 64) <<< 32) ^^^ ctr.setWidth 64
  let z := z + 0xD1B54A32D192ED03
  let z := (z ^^^ (z >>> 31)) * 0xA3C59AC2F6B1E5D7
  let z := (z ^^^ (z >>> 29)) * 0x8CB92BA72F3D8DD7
  z ^^^ (z >>> 32)

/-- The n-th draw of a thread from its counter, n from 0 (R115). -/
def Thread.draw64 (t : Thread) (key : Word) (tid n : Nat) : DWord :=
  fzmix64 (t.rngctr + BitVec.ofNat 40 n) (key ^^^ BitVec.ofNat 32 tid)

/-- The 32-bit u of the n-th draw (R115). -/
def Thread.draw (t : Thread) (key : Word) (tid n : Nat) : Nat := (loW (t.draw64 key tid n)).toNat

/-- Draws an instruction takes that rounds n elements under a mode (R115). -/
def drawsOf (m : RMode) (n : Nat) : Nat :=
  match m with
  | .sr => n
  | .rn => 0
  | .rz => 0
  | .ru => 0
  | .rd => 0

/-- FPCTL may hold the value (R106). -/
def fpctlOk (w : Word) : Bool := w &&& 0xFFFFE088 == 0 && decide (w.toNat % 8 ≤ 4)
/-- FLAGS may hold the value (R107). -/
def flagsOk (w : Word) : Bool := w &&& 0xFFFFFFC0 == 0
/-- PARK_TH may hold the value (R174). -/
def parkThOk (w : Word) : Bool := w &&& 0xFFFFFF80 == 0 && decide (w.toNat ≤ 64)
/-- AGE_LIMIT may hold the value (R175). -/
def ageLimitOk (w : Word) : Bool := w &&& 0xFFFF0000 == 0 && decide (16 ≤ w.toNat)
/-- MGN_CTL's reserved bits are clear (R191). -/
def mgnCtlOk (w : Word) : Bool := w &&& 0xFFFCE0E0 == 0
/-- MGN_LIMIT's reserved bits are clear (R193). -/
def mgnLimitOk (w : Word) : Bool := w &&& 0xFF000000 == 0

/-- PART may hold the value for a team (R231, R232). -/
def partOk (tm : Team) (w : Word) : Bool :=
  w &&& 0xFFFFFFF8 == 0 && w != 0 && w != 7 && decide (2 ^ w.toNat ≤ tm.width)
    && (!tm.lr.pair || pairSplit tm.lr.tsize % 2 ^ w.toNat == 0)

/-- MGN_CTL (R191). -/
def Core.mgnCtl (k : Core) : Word :=
  BitVec.ofNat 32 (k.wlen % 4 * 2 ^ 16 + b2n k.quar * 2 ^ 12 + k.cur % 16 * 2 ^ 8 + b2n k.en * 2 ^ 4 + k.target % 16)
/-- MGN_STAT (R192). -/
def Core.mgnStat (k : Core) : Word := BitVec.ofNat 32 (k.serr % 256 * 2 ^ 24 + k.esc % 256 * 2 ^ 16 + k.cnt % 65536)
/-- MGN_LIMIT (R193). -/
def Core.mgnLimit (k : Core) : Word := BitVec.ofNat 32 (k.relax % 256 * 2 ^ 16 + k.limit % 65536)

/-- A write of MGN_CTL: QUAR is write-one-to-clear and restarts the controller of a quarantined core, CUR is read-only and
follows TARGET and EN at once (R172, R191, R195, R196). -/
def Core.setMgnCtl (k : Core) (w : Word) : Core :=
  let k := { k with wlen := bits w.toNat 17 16, en := w.getLsbD 4, target := w.toNat % 16 }
  let k := if w.getLsbD 12 && k.quar then { k with quar := false, cur := 0, cnt := 0, cleanWins := 0 } else k
  { k with cur := if !k.en then 0 else min k.cur k.target }

/-- A write of MGN_STAT: SERR and ESC are replaced, CNT is read-only (R172, R192). -/
def Core.setMgnStat (k : Core) (w : Word) : Core := { k with serr := bits w.toNat 31 24, esc := bits w.toNat 23 16 }
/-- A write of MGN_LIMIT (R193). -/
def Core.setMgnLimit (k : Core) (w : Word) : Core := { k with relax := bits w.toNat 23 16, limit := w.toNat % 65536 }

end Sys2Proof.Machine
end

