-- ==== Sys2Proof/Machine/Fetch.lean ====
section
/-! DEFINITION. Fetching an instruction, and what a group waits for before it issues (05 R126; 06 R168, R170, R184, R186; 04
R110; 03 R97; 15 R412). -/

namespace Sys2Proof.Machine

/-! ### Fetch -/

/-- The outcome of a fetch: the instruction's words, or what stops it. -/
inductive Fetch where
  | words (ws : List Word)
  /-- A page fault at an address (R126). -/
  | pageFault (cause : Nat) (va : DWord)
  | trap (kind : Nat) (info : DWord)
  /-- A poisoned line (R412). -/
  | poison (pa : Nat)
deriving DecidableEq, Repr

/-- The memory that a launch's threads fetch from: as it stood when the launch was posted (R97; log 18). -/
def State.codeOf (s : State) (lid : Nat) : List Host.Cell := ((s.launch? lid).map (·.code)).getD s.mem

/-- The instruction word at a local address of a launch's code. -/
def State.codeWord (s : State) (lid pa : Nat) : Word :=
  BitVec.ofNat 32 (ofBytes ((upTo 4).map fun i => spGet (s.codeOf lid) (s.home (pa + i))))

/-- A context reaches another package through a brim (R30). -/
def State.viaBrim (s : State) (ctx gpa : Nat) : State :=
  match s.path (pkgOf gpa) (localOf gpa) with
  | .port p => s.touch ctx (brimOfPort p)
  | .wait _ => s
  | .failed => s
  | .noRoute => s

/-- The instruction word at `pc` for a launch's thread. What a page of another package holds is outside this package: the word is a
free value (log 5). -/
def State.fetchWord (s : State) (core ctx lid : Nat) (pc : Pc) : Fetch × State :=
  let va : DWord := pc.setWidth 64
  match s.access (dieOf core) (some core) ctx .fetch va with
  | (.ok gpa _, s) =>
    if pkgOf gpa ≠ s.pkgid then
      if s.noPath gpa false then (.trap kRemoteFault (BitVec.ofNat 64 gpa), s)
      else
        let (b, s) := (s.viaBrim ctx gpa).freeBytes 4
        (.words [BitVec.ofNat 32 (ofBytes b)], s)
    else if s.poisonedIn (localOf gpa) 4 then (.poison (localOf gpa), s)
    else (.words [s.codeWord lid (localOf gpa)], s)
  | (.pageFault c, s) => (.pageFault c va, s)
  | (.trap k i, s) => (.trap k i, s)
  | (.poison pa, s) => (.poison pa, s)

/-- n further words from `pc` after those fetched. -/
def State.fetchRest (s : State) (core ctx lid : Nat) : Nat → Pc → List Word → Fetch × State
  | 0, _, ws => (.words ws, s)
  | n + 1, pc, ws =>
    match s.fetchWord core ctx lid pc with
    | (.words w, s) => s.fetchRest core ctx lid n (pc + 4) (ws ++ w)
    | (.pageFault c va, s) => (.pageFault c va, s)
    | (.trap k i, s) => (.trap k i, s)
    | (.poison pa, s) => (.poison pa, s)

/-- The words of the instruction at `pc`, as many as its first word says (R65). -/
def State.fetch (s : State) (core ctx lid : Nat) (pc : Pc) : Fetch × State :=
  match s.fetchWord core ctx lid pc with
  | (.words (w :: _), s) => s.fetchRest core ctx lid (lenOf w - 1) (pc + 4) [w]
  | (.words [], s) => (.words [], s)
  | (.pageFault c va, s) => (.pageFault c va, s)
  | (.trap k i, s) => (.trap k i, s)
  | (.poison pa, s) => (.poison pa, s)

/-! ### What a group waits for -/

/-- The wait on which a thread parks at its next instruction: beyond the window of a wait whose condition does not hold
(R186). -/
def Thread.parksOn (t : Thread) : Option Wait :=
  (t.wins.find? fun w => w.left == 0 && !w.ready && w.wait.isSome).bind (·.wait)

/-- A thread stalls at its next instruction: beyond a window, or before a region entry that waits (R157, R184). -/
def Thread.stalls (t : Thread) : Bool := t.entry.isSome || t.wins.any fun w => w.left == 0 && !w.kind.isMacrd

/-- The awaited instruction has the yield hint (R181). -/
def Thread.yieldHint (t : Thread) : Bool := t.wins.any fun w => w.left == 0 && !w.kind.isMacrd && w.yh

/-- A scope at .stk or wider (R56). -/
def wideScope : Scope → Bool
  | .core => false
  | .clus => false
  | .die => false
  | .stk => true
  | .ipo => true
  | .pkg => true
  | .sys => true

/-- The instruction waits for every earlier result of its thread (R170). -/
def waitsAll : Instr → Bool
  | .tret _ => true
  | .tretSkip _ => true
  | .tretRgn _ => true
  | _ => false

/-- The instruction reads or writes FLAGS, and waits for every earlier instruction that can set a flag (R110). -/
def waitsFlags : Instr → Bool
  | .gets _ _ sel => sel == .flags
  | .sets _ sel _ => sel == .flags
  | _ => false

/-- The instruction is non-replayable wherever its address lies (R56): it does not issue while a late fault of its thread can still be
found (R168). -/
def mayClose : Instr → Bool
  | .st m ac => !accPrv ac && wideScope m.scope
  | .sts m _ => wideScope m.scope
  | .atom _ _ => true
  | .cas _ _ _ => true
  | .red _ _ => true
  | .kick _ _ _ => true
  | .launch _ _ _ _ _ _ => true
  | .binc _ _ _ _ => true
  | .brel _ _ _ => true
  | .sets _ sel _ => sel.privileged
  | _ => false

/-- The convergence register of a form. -/
def cvOf : CvForm → Option (BitVec 4)
  | .s => none
  | .x c => c

/-- The instruction signs a convergence register (R375). -/
def signs : Instr → Bool
  | .sign _ _ _ => true
  | .mldw _ _ _ _ _ _ _ cv => cv.isSome
  | .mldws _ _ _ _ _ _ cv => cv.isSome
  | .mswap _ _ f => (cvOf f).isSome
  | .mma _ _ _ _ _ _ _ _ _ cv => cv.isSome
  | .mgmm _ _ _ _ _ _ _ _ _ cv => cv.isSome
  | .mclr _ _ _ f => (cvOf f).isSome
  | .macld _ _ _ _ _ _ cv => cv.isSome
  | .macst _ _ _ _ _ _ _ _ _ _ cv _ => cv.isSome
  | .mrow _ _ _ _ _ _ f => (cvOf f).isSome
  | _ => false

/-- The instruction comes after every earlier read of its thread: a fence, a release, or a signature (R137, R141, R148, R249, R376). -/
def followsReads : Instr → Bool
  | .fence _ _ _ => true
  | .st m _ => relOrder m.ord
  | .sts m _ => relOrder m.ord
  | .atom m _ => relOrder m.ord
  | .cas m _ _ => relOrder m.ord
  | .red m _ => relOrder m.ord
  | .barArv _ _ _ _ => true
  | .barSync _ _ _ => true
  | .kick _ _ _ => true
  | .brel _ _ _ => true
  | .launch _ _ _ _ _ _ => true
  | i => signs i

/-- The instruction may have stores performed that wait in its core's queue, though it makes no access. -/
def drains : Instr → Bool
  | .cctl _ _ _ _ _ => true
  | _ => false

/-- The instruction accesses memory, fences it, signs, or hands an engine work that does: in the window of an acquire or a fence that
has not completed it is not performed (R141, R150, R186, R376). -/
def touchesMem : Instr → Bool
  | .ld _ _ => true
  | .st _ _ => true
  | .lds _ _ => true
  | .sts _ _ => true
  | .fence _ _ _ => true
  | .atom _ _ => true
  | .cas _ _ _ => true
  | .red _ _ => true
  | .waitw _ _ _ _ _ _ _ => true
  | .barArv _ _ _ _ => true
  | .barSync _ _ _ => true
  | .kick _ _ _ => true
  | .landi _ _ _ _ => true
  | .lwait _ _ _ _ => true
  | .lpoll _ _ _ _ => true
  | .binc _ _ _ _ => true
  | .brel _ _ _ => true
  | .launch _ _ _ _ _ _ => true
  | i => signs i

/-- The window of a WAITW that has not read the value it waits for: an earlier read of its thread that is not performed (R141). -/
def Window.unread (w : Window) : Bool :=
  !w.ready && (match w.wait with
    | some (.watch _ _ _ _ _ _ _ _ _) => true
    | _ => false)

/-- A thread must wait before it issues an instruction. -/
def Thread.holdsBack (t : Thread) (i : Instr) : Bool :=
  (waitsAll i && t.wins.any fun w => !w.kind.isMacrd) || (waitsFlags i && t.wins.any fun w => w.kind == .alu)
    || (mayClose i && t.wins.any fun w => w.canLate)
    || (touchesMem i && t.wins.any fun w => w.kind == .sync && !w.ready)
    || (followsReads i && t.wins.any Window.unread)

/-! ### What the address of an access decides -/

/-- The global access that an instruction makes for a live thread: its address, its bytes, how it asks for a CT line, and whether it
goes through the store queue (R141, R274, R288). -/
structure GAcc where
  va : DWord
  n : Nat
  ask : Ask
  queued : Bool
deriving DecidableEq, Repr

/-- How an ATOM or CAS at a scope asks for its line (R288). -/
def atomAsk (sc : Scope) : Ask :=
  match aluOf sc with
  | .l1 => .store
  | .l2 => .store
  | .home => .home

/-- The global access of an instruction for a thread. -/
def gAcc (tm : Team) (t : Thread) : Instr → Option GAcc
  | .ld m ac => if t.live m.h && !accPrv ac then some ⟨(eaGlobal tm t m.a m.mem).1, accBytes ac, .load, false⟩ else none
  | .st m ac => if t.live m.h && !accPrv ac then some ⟨(eaGlobal tm t m.a m.mem).1, accBytes ac, .store, true⟩ else none
  | .atom m op => if t.live m.h then some ⟨(eaGlobal tm t m.a m.mem).1, atomBytes op, atomAsk m.scope, false⟩ else none
  | .cas m w _ => if t.live m.h then some ⟨(eaGlobal tm t m.a m.mem).1, if w then 8 else 4, atomAsk m.scope, false⟩ else none
  | .red m op => if t.live m.h then some ⟨(eaGlobal tm t m.a m.mem).1, redBytes op, .store, true⟩ else none
  | .waitw h _ _ _ _ a _ => if t.live h then some ⟨t.reg64 a.toNat, 4, .load, false⟩ else none
  | _ => none

/-- The location of a thread's address, where it has one. -/
def State.locate (s : State) (c ctx : Nat) (va : DWord) : Option (Nat × Xlat) :=
  match (s.check (dieOf c) (some c) ctx .read va).1 with
  | .ok gpa x => some (gpa, x)
  | .pageFault _ => none
  | .trap _ _ => none
  | .poison _ => none

/-- The word that a window's WAITW still reads overlaps n bytes at a location (R141). -/
def State.readsAt (s : State) (c ctx gpa n : Nat) (w : Window) : Bool :=
  w.unread && (match w.wait with
    | some (.watch va _ _ _ _ _ _ _ _) => (s.locate c ctx va).any fun y => overlaps y.1 4 gpa n
    | _ => false)

/-- An access waits because of where it goes: one to another package, or a store that closes the relaunch window, is non-replayable
and waits while a late fault of its thread can still be found (R56, R168, R282, R401); one that meets a location whose earlier read by the
thread is not performed comes after it (R141). -/
def State.placeHolds (s : State) (c : Nat) (tm : Team) (t : Thread) (i : Instr) : Bool :=
  match gAcc tm t i with
  | none => false
  | some a =>
    match s.locate c tm.ctx a.va with
    | none => false
    | some (gpa, x) =>
      ((pkgOf gpa != s.pkgid || (a.queued && tm.window && !x.rlog)) && t.wins.any fun w => w.canLate)
        || t.wins.any (s.readsAt c tm.ctx gpa a.n)

/-- The state in which an access waits for its line's directory (R310, R311), if it must. -/
def State.askWait (s : State) (c : Nat) (tm : Team) (t : Thread) (i : Instr) : Option State :=
  match gAcc tm t i with
  | none => none
  | some a =>
    match s.locate c tm.ctx a.va with
    | none => none
    | some (gpa, x) =>
      if a.queued || pkgOf gpa != s.pkgid then none
      else
        match s.ctAsk c x.cls x.hint a.ask (localOf gpa) with
        | (true, _) => none
        | (false, s) => some s

/-- The state in which a line request of a list waits for its line's directory, if one must. -/
def State.reqsWait (s : State) (q : List StoreReq) : Option State :=
  (reqIds q).findSome? fun i => match s.reqAsk (q.filter fun r => r.id == i) with
    | (true, _) => none
    | (false, s) => some s

/-- The stores that an instruction may have to see performed: those of its core's queue, and the log of its team if it may close the
window (R141, R282). -/
def State.before (s : State) (c team : Nat) (i : Instr) : List StoreReq :=
  (if touchesMem i || drains i then (s.core c).storeq else []) ++ (if mayClose i then s.logOf team c else [])

/-! ### Issue -/

/-- The front end's answer for a group selected to issue: an instruction to execute, or a state in which none was. -/
inductive Front where
  | run (i : Instr) (s : State)
  | done (s : State)

/-- A group stalls from now on, if it does not already (R181). -/
def State.stallGroup (s : State) (c slot : Nat) (g : Group) : State :=
  if g.stall.isSome then s
  else s.modCore c fun k => { k with active := k.active.put slot { g with stall := some s.clk } }

/-- A group stalls no longer. -/
def State.unstall (s : State) (c slot : Nat) (g : Group) : State :=
  if g.stall.isSome then s.modCore c fun k => { k with active := k.active.put slot { g with stall := none } } else s

/-- Every thread of the group takes a page fault on the fetch at its PC (R126, R323). -/
def State.fetchFault (s : State) (g : Group) (cause : Nat) (va : DWord) : State :=
  (s.laneThreads g).foldl (fun s x => s.pageFault g.team x.2.1 x.2.2.pc va cause false true) s

/-- A fetch that gave no instruction. -/
def State.badFetch (s : State) (g : Group) : Fetch → State
  | .words _ => s
  | .pageFault c va => s.fetchFault g c va
  | .trap k i => s.trapGroup g k i 1
  | .poison pa =>
    match s.laneThreads g with
    | [] => s
    | x :: _ => s.consume g.team x.2.1 x.2.2.pc (dramLoc pa) pa

/-- The state in which a group's instruction waits for a directory, if it must: for the line of a store before it, or for its own (R311,
R329). -/
def State.lineWait (s : State) (c : Nat) (g : Group) (tm : Team) (i : Instr) : Option State :=
  match s.reqsWait (s.before c g.team i) with
  | some s => some s
  | none => (s.laneThreads g).findSome? fun x => s.askWait c tm x.2.2 i

/-- Some thread of a group must wait before it issues an instruction. -/
def State.holds (s : State) (c : Nat) (g : Group) (i : Instr) : Bool :=
  (s.laneThreads g).any (fun x => x.2.2.holdsBack i)
    || (match s.team? g.team with
      | some tm => (s.laneThreads g).any (fun x => s.placeHolds c tm x.2.2 i) || (s.lineWait c g tm i).isSome
      | none => false)

/-- The state in which a group that is held back waits: what it needs of a directory is asked for (R311). -/
def State.heldState (s : State) (c : Nat) (g : Group) (i : Instr) : State :=
  ((s.team? g.team).bind fun tm => s.lineWait c g tm i).getD s

/-- The instruction that a group of a core would issue next, where its fetch gives one. -/
def State.nextInstr (s : State) (c : Nat) (g : Group) : Option Instr :=
  match s.team? g.team, s.laneThreads g with
  | some tm, x :: _ => match (s.fetch c tm.ctx tm.lid x.2.2.pc).1 with
    | .words ws => some (decodeWords ws)
    | _ => none
  | _, _ => none

/-- A group is ready (R181): its register-cache lines are present, and its next instruction is not beyond a window and nothing holds
it back. A thread about to park, or to fault on its fetch, is ready to do so. -/
def State.groupReady (s : State) (c : Nat) (g : Group) : Bool :=
  g.awaits.isEmpty && ((s.laneThreads g).any (fun x => x.2.2.parksOn.isSome)
    || (!(s.laneThreads g).any (fun x => x.2.2.stalls) && !(s.nextInstr c g).any fun i => s.holds c g i))

/-- A decoded instruction meets its group: held back, or to be executed (R110, R141, R168, R170, R311). -/
def State.offer (s : State) (c slot : Nat) (g : Group) (i : Instr) : Front :=
  if s.holds c g i then .done ((s.heldState c g i).stallGroup c slot g)
  else .run i { s.unstall c slot g with cur := some (c, slot) }

/-- The group of a slot fetches and decodes its next instruction, once nothing holds it back. -/
def State.fetchDecode (s : State) (c slot : Nat) (g : Group) (tm : Team) (pc : Pc) : Front :=
  match s.fetch c tm.ctx tm.lid pc with
  | (.words ws, s) => s.offer c slot g (decodeWords ws)
  | (f, s) => .done (s.badFetch g f)

/-- The group selected in a slot of a core issues one instruction, if it is ready (R168, R182, R184, R186). -/
def State.front (s : State) (c slot : Nat) : Front :=
  let k := s.core c
  match k.active.find slot with
  | none => .done s
  | some g =>
    match s.team? g.team with
    | none => .done s
    | some tm =>
      if k.draining || (s.ctx tm.ctx).st != .active || (!tm.lr.res && (s.ctx tm.ctx).outCores.contains c) || decide (s.clk < g.notBefore) || !g.awaits.isEmpty then .done s
      else
        let ths := s.laneThreads g
        match ths with
        | [] => .done s
        | x :: _ =>
          if ths.any fun y => y.2.2.parksOn.isSome then
            .done (ths.foldl (fun s y => match y.2.2.parksOn with
              | some w => s.park g.team y.2.1 w
              | none => s) s)
          else if ths.any fun y => y.2.2.stalls then .done (s.stallGroup c slot g)
          else s.fetchDecode c slot g tm x.2.2.pc

end Sys2Proof.Machine
end

