-- ==== Sys2Proof/Machine/Seq.lean ====
section
/-! DEFINITION. The sequencer's instructions (06 R154 to R174; 03 R94, R96). -/

namespace Sys2Proof.Machine

/-- Words of an instruction that takes a source B: the S form, or the L form (R65, R71). -/
def lenB (b : SrcB) : Nat :=
  match b with
  | .reg _ => 2
  | .lit _ => 3
  | .xreg _ => 3
  | .xk _ => 3

/-- Words of an instruction of the one-source shape (R202). -/
def lenExt (ext : Bool) : Nat := if ext then 3 else 2

/-- A thread's PC set. -/
def State.jump (s : State) (team tid : Nat) (pc : Pc) : State := s.modThread team tid fun t => { t with pc := pc }

/-- A bit pattern that is no instruction faults in every thread of the group (R94 to R96). -/
def execNonInstructionEncoding (e : EncFault) (len : Nat) (s : State) : Host.Outcome State Fault Refusal :=
  match s.curGroup with
  | none => .next s
  | some (c, slot, g, _) =>
    .next ((s.trapGroup g (match e with
      | .illegalEncoding => kIllegalEncoding
      | .illegalOpcode => kIllegalOpcode) 0 len).settle c slot [])

/-- NOP (R154). -/
def execNop (h : Hdr) (s : State) : Host.Outcome State Fault Refusal := runLanes h 2 none [] none (fun _ _ _ _ _ s => s) s

/-! ### Control flow (R158) -/

/-- BRA: PC := (PCI + SignExtend(literal, 64)) mod 2^55. -/
def execBra (h : Hdr) (off : Word) (s : State) : Host.Outcome State Fault Refusal :=
  runLanes h 3 none [] none (fun _ team _ tid t s => s.jump team tid (t.pc + off.signExtend 55)) s

/-- A branch to an address in registers: its checks, then `k` at the target (R158). -/
def State.branchTo (s : State) (team tid : Nat) (t : Thread) (len : Nat) (va : DWord) (k : Pc → State) : State :=
  if 2 ^ 55 ≤ va.toNat then s.pageFault team tid t.pc va pfNonCanonical false false
  else if va.toNat % 4 ≠ 0 then s.takeTrap team tid (s.trapAt kMisaligned va t.pc len)
  else k (va.setWidth 55)

/-- BRX. -/
def execBrx (h : Hdr) (a : VReg) (s : State) : Host.Outcome State Fault Refusal :=
  runLanes h 2 none [vR a 2] (some a) (fun _ team _ tid t s =>
    s.branchTo team tid t 2 (t.reg64 a.toNat) fun pc => s.jump team tid pc) s

/-- The part CALL and CALLX share: the frame, CSP, PC and the region entry; a frame that cannot be written ends the launch
(R158, R254). -/
def State.callTo (s : State) (team : Nat) (tm : Team) (tid : Nat) (t : Thread) (len : Nat) (pc : Pc) : State :=
  if t.csp = tm.lr.calld then s.takeTrap team tid (s.trapAt kCallStack (BitVec.ofNat 64 t.csp) t.pc len)
  else
    let (ok, s) := s.setFrame tm tid t.csp (callFrame (t.pc + BitVec.ofNat 55 (4 * len)))
    if ok then s.modThread team tid fun u => ({ u with csp := t.csp + 1, pc := pc } : Thread).startEntry pc
    else s.endLaunch tm.lid 4

/-- CALL. -/
def execCall (h : Hdr) (off : Word) (s : State) : Host.Outcome State Fault Refusal :=
  runLanes h 3 none [] none (fun _ team tm tid t s => s.callTo team tm tid t 3 (t.pc + off.signExtend 55)) s

/-- CALLX. -/
def execCallx (h : Hdr) (a : VReg) (s : State) : Host.Outcome State Fault Refusal :=
  runLanes h 2 none [vR a 2] (some a) (fun _ team tm tid t s =>
    s.branchTo team tid t 2 (t.reg64 a.toNat) fun pc => s.callTo team tm tid t 2 pc) s

/-- The part of RET on one thread. -/
def State.retFrom (s : State) (team : Nat) (tm : Team) (tid : Nat) (t : Thread) : State :=
  let bad (s : State) : State := s.takeTrap team tid (s.trapAt kCallStack (BitVec.ofNat 64 t.csp) t.pc 2)
  if t.csp = 0 then bad s
  else
    match s.frameAt tm tid (t.csp - 1) with
    | (none, s) => s.endLaunch tm.lid 4
    | (some f, s) =>
      if frameKind f ≠ 0 then bad s
      else
        let pc : Pc := f.setWidth 55
        s.modThread team tid fun u => ({ u with csp := t.csp - 1, pc := pc } : Thread).startEntry pc

/-- RET. -/
def execRet (h : Hdr) (s : State) : Host.Outcome State Fault Refusal :=
  runLanes h 2 none [] none (fun _ team tm tid t s => s.retFrom team tm tid t) s

/-! ### Regions, filing and ending -/

/-- REFORM files each live thread under the next PC (R162). -/
def execReform (h : Hdr) (s : State) : Host.Outcome State Fault Refusal :=
  runLanes h 2 none [] none (fun _ team _ tid _ s => (s.unsched team tid).file team tid 0) s

/-- EXIT ends each live thread (R54, R165). -/
def execExit (h : Hdr) (s : State) : Host.Outcome State Fault Refusal :=
  runLanes h 2 none [] none (fun _ team _ tid _ s => s.exitThread team tid) s

/-- YIELD files each live thread, held back for 32 clk (R163). -/
def execYield (h : Hdr) (s : State) : Host.Outcome State Fault Refusal :=
  runLanes h 2 none [] none (fun _ team _ tid _ s => (s.unsched team tid).file team tid (s.clk + 32)) s

/-- SLEEP parks each live thread for B clk; a count of 0 files it at once (R164). -/
def execSleep (h : Hdr) (b : SrcB) (s : State) : Host.Outcome State Fault Refusal :=
  runLanes h (lenB b) none (srcOps b) none (fun _ team tm tid t s =>
    let n := (bVal tm t b).toNat
    if n = 0 then (s.unsched team tid).file team tid 0
    else
      let (id, s) := s.takeId
      s.openWait team tid (mkWin h id .engine t.pc [] false) (.sleep (s.clk + n))) s

/-- RGN begins a region at the next instruction (R160). -/
def execRgn (h : Hdr) (s : State) : Host.Outcome State Fault Refusal :=
  runLanes h 2 none [] none (fun _ team _ tid _ s => s.modThread team tid fun u => u.startEntry u.pc) s

/-! ### Traps (R169, R170) -/

/-- Each live thread takes a trap whose INFO is operand B. -/
def runTrap (kind : Nat) (h : Hdr) (b : SrcB) (s : State) : Host.Outcome State Fault Refusal :=
  runLanes h (lenB b) none (srcOps b) none (fun _ team tm tid t s =>
    s.takeTrap team tid (s.trapAt kind ((bVal tm t b).setWidth 64) t.pc (lenB b))) s

/-- TRAP. -/
def execTrap (h : Hdr) (b : SrcB) (s : State) : Host.Outcome State Fault Refusal := runTrap kTrap h b s
/-- TRAP.rgn. -/
def execTrapRgn (h : Hdr) (b : SrcB) (s : State) : Host.Outcome State Fault Refusal := runTrap kRegionAbort h b s
/-- BKPT. -/
def execBkpt (h : Hdr) (b : SrcB) (s : State) : Host.Outcome State Fault Refusal := runTrap kBreakpoint h b s

/-- The forms of TRET that leave the handler (R170). -/
inductive TretMode where
  | again | skip | rgn
deriving DecidableEq, Repr

/-- The thread that TRET leaves, from its trap frame T and save frame S (R170). -/
def Thread.tretTo (u : Thread) (m : TretMode) (csp : Nat) (tf sf : BitVec 128) : Thread :=
  let rpc : Pc := sf.setWidth 55
  let ent : BitVec 40 := sf.extractLsb' 55 40
  let tpc : Pc := tf.setWidth 55
  let rgn : Bool := m == .rgn || frameKind tf == kRegionAbort
  let pc : Pc := match m with
    | .skip => tpc + BitVec.ofNat 55 (4 * bits tf.toNat 56 55)
    | .rgn => rpc
    | .again => if rgn then rpc else tpc
  let ctr : BitVec 40 := match m with
    | .skip => u.rngctr
    | .rgn => ent
    | .again => if rgn then ent else u.rngctr
  { u with pc := pc, rngctr := ctr, rpc := rpc, rngent := ent, frec := sf.getLsbD 95, csp := csp - 2 }

/-- The frames of the trap pair on top of a thread's stack, or what keeps TRET from them: CallStack, or a hood that cannot be
read (R170, R254). `k` receives T, then S. -/
def State.withPair (s : State) (team : Nat) (tm : Team) (tid : Nat) (t : Thread) (k : BitVec 128 → BitVec 128 → State → State) :
    State :=
  let bad (s : State) : State := s.takeTrap team tid (s.trapAt kCallStack (BitVec.ofNat 64 t.csp) t.pc 2)
  if t.csp < 2 then bad s
  else
    match s.frameAt tm tid (t.csp - 1) with
    | (none, s) => s.endLaunch tm.lid 4
    | (some tf, s) =>
      if frameKind tf = 0 then bad s
      else
        match s.frameAt tm tid (t.csp - 2) with
        | (none, s) => s.endLaunch tm.lid 4
        | (some sf, s) => k tf sf s

/-- TRET in the forms that leave the handler. -/
def runTret (m : TretMode) (h : Hdr) (s : State) : Host.Outcome State Fault Refusal :=
  runLanes h 2 none [] none (fun _ team tm tid t s =>
    s.withPair team tm tid t fun tf sf s => s.modThread team tid fun u => u.tretTo m t.csp tf sf) s

/-- TRET. -/
def execTret (h : Hdr) (s : State) : Host.Outcome State Fault Refusal := runTret .again h s
/-- TRET.skip. -/
def execTretSkip (h : Hdr) (s : State) : Host.Outcome State Fault Refusal := runTret .skip h s
/-- TRET.rgn. -/
def execTretRgn (h : Hdr) (s : State) : Host.Outcome State Fault Refusal := runTret .rgn h s

/-- TRET.rd: the trap frame's INFO and its low half to a quad. -/
def execTretRd (h : Hdr) (d : VReg) (s : State) : Host.Outcome State Fault Refusal :=
  runLanes h 2 none [vW d 4] none (fun _ team tm tid t s =>
    s.withPair team tm tid t fun tf _ s => s.modThread team tid fun u =>
      u.writeRegs (wr64 d.toNat (tf.extractLsb' 64 64) ++ wr64 (d.toNat + 2) (tf.setWidth 64))) s

/-! ### Special and uniform registers (R171 to R173) -/

/-- The privilege check of a selector: its INFO where it is privileged (R79, R166). -/
def selPriv (sel : SReg) : Option DWord := if sel.privileged then some (sel.code.setWidth 64) else none

/-- The value GETS reads (R78, R171). -/
def getsVal (s : State) (c lane tid : Nat) (tm : Team) (t : Thread) (sel : SReg) : DWord :=
  let n (x : Nat) : DWord := BitVec.ofNat 64 (x % 2 ^ 32)
  let k := s.core c
  match sel with
  | .tid => n tid
  | .lane => n lane
  | .slot => n (tm.slotOf tid)
  | .team => n tm.n
  | .nteams => n tm.lr.nteams
  | .gwidth => n tm.width
  | .core => n c
  | .clus => n (clusOf c)
  | .die => n (dieOf c)
  | .pkg => n s.pkgid
  | .ctxid => n tm.ctx
  | .clock => s.clockOf c
  | .fpctl => t.fpctl.setWidth 64
  | .part => n tm.part
  | .flags => t.flags.setWidth 64
  | .rngkey => (s.ctx tm.ctx).rngkey.setWidth 64
  | .region => t.rcnt.setWidth 64
  | .tdm => (s.ctx tm.ctx).tdm.setWidth 64
  | .mgnCtl => k.mgnCtl.setWidth 64
  | .mgnStat => k.mgnStat.setWidth 64
  | .mgnLimit => k.mgnLimit.setWidth 64
  | .parkTh => n k.parkTh
  | .ageLimit => n k.ageLimit

/-- GETS (R171). -/
def execGets (h : Hdr) (d : VReg) (sel : SReg) (s : State) : Host.Outcome State Fault Refusal :=
  runLive h 2 (selPriv sel) [vW d sel.regs] none (fun c g tm live s =>
    live.foldl (fun s x =>
      let v := getsVal s c x.1 x.2.1 tm x.2.2 sel
      s.modThread g.team x.2.1 fun u => u.writeRegs (if sel.regs = 2 then wr64 d.toNat v else [(d.toNat, loW v)])) s) s

/-- The register is held per thread (R78). -/
def SReg.perThread (sel : SReg) : Bool := sel == .fpctl || sel == .flags

/-- The value may be written to the register (R5, R106, R174, R175, R232). -/
def setsOk (tm : Team) (sel : SReg) (w : Word) : Bool :=
  match sel with
  | .fpctl => fpctlOk w
  | .flags => flagsOk w
  | .part => partOk tm w
  | .mgnCtl => mgnCtlOk w
  | .mgnStat => true
  | .mgnLimit => mgnLimitOk w
  | .parkTh => parkThOk w
  | .ageLimit => ageLimitOk w
  | .tid => false
  | .lane => false
  | .slot => false
  | .team => false
  | .nteams => false
  | .gwidth => false
  | .core => false
  | .clus => false
  | .die => false
  | .pkg => false
  | .ctxid => false
  | .clock => false
  | .rngkey => false
  | .region => false
  | .tdm => false

/-- A special register held per team or per core written (R172). -/
def State.setSpecial (s : State) (c team : Nat) (sel : SReg) (w : Word) : State :=
  match sel with
  | .part => s.modTeam team fun t => { t with part := w.toNat }
  | .mgnCtl => s.modCore c fun k => k.setMgnCtl w
  | .mgnStat => s.modCore c fun k => k.setMgnStat w
  | .mgnLimit => s.modCore c fun k => k.setMgnLimit w
  | .parkTh => s.modCore c fun k => { k with parkTh := w.toNat }
  | .ageLimit => s.modCore c fun k => { k with ageLimit := w.toNat }
  | .fpctl => s
  | .flags => s
  | .tid => s
  | .lane => s
  | .slot => s
  | .team => s
  | .nteams => s
  | .gwidth => s
  | .core => s
  | .clus => s
  | .die => s
  | .pkg => s
  | .ctxid => s
  | .clock => s
  | .rngkey => s
  | .region => s
  | .tdm => s

/-- A special register held per thread written, checked by itself (R172). -/
def State.setsThread (s : State) (team tid : Nat) (tm : Team) (t : Thread) (sel : SReg) (w : Word) (len : Nat) : State :=
  if setsOk tm sel w then
    s.modThread team tid fun u => if sel = .fpctl then { u with fpctl := w } else { u with flags := w }
  else s.takeTrap team tid (s.trapAt kIllegalEncoding 0 t.pc len)

/-- SETS (R172, R56). -/
def execSets (h : Hdr) (sel : SReg) (b : SrcB) (s : State) : Host.Outcome State Fault Refusal :=
  runLive h (lenB b) (selPriv sel) (srcOps b) none (fun c g tm live s =>
    if SReg.perThread sel then
      live.foldl (fun s x => if (s.thread? g.team x.2.1).isSome then
        s.setsThread g.team x.2.1 tm x.2.2 sel (bVal tm x.2.2 b) (lenB b) else s) s
    else
      match live.getLast? with
      | none => s
      | some x =>
        let w := bVal tm x.2.2 b
        if setsOk tm sel w then
          let s := s.setSpecial c g.team sel w
          if sel.privileged then live.foldl (fun s y => s.closeRegion g.team y.2.1) (s.crossGate g.team) else s
        else live.foldl (fun s y => s.takeTrap g.team y.2.1 (s.trapAt kIllegalEncoding 0 y.2.2.pc (lenB b))) s) s

/-- A uniform register written (R173). -/
def Team.setUniform (t : Team) (dst : MovkDst) (w : Word) : Team :=
  match dst with
  | .k i => { t with k := setAt t.k i.toNat w }
  | .mb i => { t with mreg := modAt t.mreg i.toNat fun m => (w, m.2) }
  | .ml i => { t with mreg := modAt t.mreg i.toNat fun m => (m.1, w) }

/-- MOVK: the value of the highest-numbered live lane (R173). -/
def execMovk (h : Hdr) (dst : MovkDst) (b : SrcB) (s : State) : Host.Outcome State Fault Refusal :=
  runLive h (lenB b) none (srcOps b) none (fun _ g tm live s =>
    match live.getLast? with
    | none => s
    | some x => s.modTeam g.team fun t => t.setUniform dst (bVal tm x.2.2 b)) s

end Sys2Proof.Machine
end

