-- ==== Sys2Proof/Machine/IntAlu.lean ====
section
/-! DEFINITION. The vector ALU's integer instructions (07 R201, R206 to R209) and their C forms (03 R75, R76, R93). -/

namespace Sys2Proof.Machine

/-! ### Operands shared by the vector ALU's instructions -/

/-- Registers of a 32- or 64-bit operand. -/
def nReg (w64 : Bool) : Nat := if w64 then 2 else 1

/-- A register, or a pair, as 64 bits. -/
def rdReg (w64 : Bool) (t : Thread) (r : VReg) : DWord := if w64 then t.reg64 r.toNat else (t.reg r.toNat).setWidth 64

/-- Operand B as 64 bits; a literal is extended as R74 gives for its type. -/
def rdSrc (w64 : Bool) (e : LitExt) (tm : Team) (t : Thread) (b : SrcB) : DWord :=
  if w64 then bVal64 e tm t b else (bVal tm t b).setWidth 64

/-- Operand B under an extension word as 64 bits. -/
def rdExt (w64 : Bool) (tm : Team) (t : Thread) (b : ExtB) : DWord := if w64 then xVal64 tm t b else (xVal tm t b).setWidth 64

/-- A 32- or 64-bit result's registers. -/
def wrReg (w64 : Bool) (d : VReg) (x : DWord) : List (Nat × Word) := if w64 then wr64 d.toNat x else [(d.toNat, loW x)]

/-- The v operands of the two-source shape: D, A and B of nd, na and nb registers. -/
def twoOps (o : Two) (nd na nb : Nat) : List VOp := vW o.d nd :: vR o.a na :: srcOps o.b nb

/-- The v operands of the three-source shape. -/
def threeOps (o : Three) (nd na nb nc : Nat) : List VOp := vW o.d nd :: vR o.a na :: (extOps o.b nb ++ [vR o.c nc])

/-- The two-source operands that a C form stands for (R76). -/
def cTwoOf (c : CTwo) : Two :=
  { h := { gp := c.gp, gn := false, la := 0, yh := false, ru := false }, d := c.d.setWidth 11, a := c.a.setWidth 11
    b := .reg (c.b.setWidth 11) }

/-- The one-source operands that a C form stands for (R76). -/
def cOneOf (c : COne) : One :=
  { h := { gp := c.gp, gn := false, la := 0, yh := false, ru := false }, d := c.d.setWidth 11, a := c.a.setWidth 11, ext := false }

/-! ### Integers -/

/-- A W-bit integer of a type (R208). -/
def intOf (ty : IntTy) (x : DWord) : Int :=
  match ty with
  | .i32 => (loW x).toInt
  | .n32 => ((loW x).toNat : Int)
  | .i64 => x.toInt
  | .n64 => (x.toNat : Int)

/-- The least and the greatest number of a type (R98). -/
def intMin (ty : IntTy) : Int :=
  match ty with
  | .i32 => -(2 ^ 31)
  | .n32 => 0
  | .i64 => -(2 ^ 63)
  | .n64 => 0
def intMax (ty : IntTy) : Int :=
  match ty with
  | .i32 => 2 ^ 31 - 1
  | .n32 => 2 ^ 32 - 1
  | .i64 => 2 ^ 63 - 1
  | .n64 => 2 ^ 64 - 1

/-- How a 64-bit literal of a type fills its operand (R74). -/
def litOf (ty : IntTy) : LitExt :=
  match ty with
  | .i32 => .sign
  | .n32 => .zero
  | .i64 => .sign
  | .n64 => .zero

/-- An exact value narrowed to a type: wrapped, or clamped with SAT (R98, R208). -/
def narrow (ty : IntTy) (sat : Bool) (x : Int) : DWord × Conds :=
  if sat ∧ x < intMin ty then (BitVec.ofInt 64 (intMin ty), cSAT)
  else if sat ∧ intMax ty < x then (BitVec.ofInt 64 (intMax ty), cSAT)
  else (BitVec.ofInt 64 x, 0)

/-- The effect of a narrowed result. -/
def intEff (ty : IntTy) (d : VReg) (r : DWord × Conds) : Eff := { regs := wrReg ty.w64 d r.1, flags := r.2 }

/-- A two-source integer instruction (R208). -/
def runInt2 (op : Int → Int → Int) (o : Two) (len : Nat) (ty : IntTy) (sat : Bool) (s : State) : Host.Outcome State Fault Refusal :=
  let n := nReg ty.w64
  runAlu o.h len false (twoOps o n n n) (some o.a) (fun tm _ t =>
    .ok (intEff ty o.d (narrow ty sat (op (intOf ty (rdReg ty.w64 t o.a)) (intOf ty (rdSrc ty.w64 (litOf ty) tm t o.b)))))) s

/-- A three-source integer instruction (R208). -/
def runInt3 (op : Int → Int → Int → Int) (o : Three) (ty : IntTy) (sat : Bool) (s : State) : Host.Outcome State Fault Refusal :=
  let n := nReg ty.w64
  runAlu o.h 3 false (threeOps o n n n n) (some o.a) (fun tm _ t =>
    .ok (intEff ty o.d (narrow ty sat (op (intOf ty (rdReg ty.w64 t o.a)) (intOf ty (rdExt ty.w64 tm t o.b))
      (intOf ty (rdReg ty.w64 t o.c)))))) s

/-- A one-source integer instruction (R208). -/
def runInt1 (op : Int → Int) (o : One) (len : Nat) (ty : IntTy) (sat : Bool) (s : State) : Host.Outcome State Fault Refusal :=
  let n := nReg ty.w64
  runAlu o.h len false [vW o.d n, vR o.a n] (some o.a) (fun _ _ t =>
    .ok (intEff ty o.d (narrow ty sat (op (intOf ty (rdReg ty.w64 t o.a)))))) s

/-- The high half of a product (R207): Floor(a × b / 2^W). -/
def mulHigh (ty : IntTy) (a b : Int) : Int := a * b / (if ty.w64 then 2 ^ 64 else 2 ^ 32)

def execIadd (o : Two) (ty : IntTy) (sat : Bool) (s : State) : Host.Outcome State Fault Refusal :=
  runInt2 (· + ·) o (lenB o.b) ty sat s
def execIadd3 (o : Three) (ty : IntTy) (sat : Bool) (s : State) : Host.Outcome State Fault Refusal :=
  runInt3 (fun a b c => a + b + c) o ty sat s
def execIsub (o : Two) (ty : IntTy) (sat : Bool) (s : State) : Host.Outcome State Fault Refusal :=
  runInt2 (· - ·) o (lenB o.b) ty sat s
def execImul (o : Two) (ty : IntTy) (sat : Bool) (s : State) : Host.Outcome State Fault Refusal :=
  runInt2 (· * ·) o (lenB o.b) ty sat s
def execImulh (o : Two) (ty : IntTy) (s : State) : Host.Outcome State Fault Refusal :=
  runInt2 (mulHigh ty) o (lenB o.b) ty false s
def execImad (o : Three) (ty : IntTy) (sat : Bool) (s : State) : Host.Outcome State Fault Refusal :=
  runInt3 (fun a b c => a * b + c) o ty sat s
def execImin (o : Two) (ty : IntTy) (s : State) : Host.Outcome State Fault Refusal := runInt2 min o (lenB o.b) ty false s
def execImax (o : Two) (ty : IntTy) (s : State) : Host.Outcome State Fault Refusal := runInt2 max o (lenB o.b) ty false s
def execIabs (o : One) (ty : IntTy) (sat : Bool) (s : State) : Host.Outcome State Fault Refusal :=
  runInt1 (fun a => (a.natAbs : Int)) o (lenExt o.ext) ty sat s
def execIneg (o : One) (ty : IntTy) (sat : Bool) (s : State) : Host.Outcome State Fault Refusal :=
  runInt1 (fun a => -a) o (lenExt o.ext) ty sat s
def execIsad (o : Three) (ty : IntTy) (s : State) : Host.Outcome State Fault Refusal :=
  runInt3 (fun a b c => ((a - b).natAbs : Int) + c) o ty false s

/-- The 64-bit type of a 32-bit type's signedness. -/
def wideTy (ty : IntTy) : IntTy :=
  match ty with
  | .i32 => .i64
  | .n32 => .n64
  | .i64 => .i64
  | .n64 => .n64

/-- IMADW: 32-bit sources, a 64-bit C and result of the same signedness (R207, R208). -/
def execImadw (o : Three) (ty : IntTy) (sat : Bool) (s : State) : Host.Outcome State Fault Refusal :=
  runAlu o.h 3 false (threeOps o 2 1 1 2) (some o.a) (fun tm _ t =>
    .ok (intEff (wideTy ty) o.d (narrow (wideTy ty) sat
      (intOf ty (rdReg false t o.a) * intOf ty (rdExt false tm t o.b) + intOf (wideTy ty) (t.reg64 o.c.toNat))))) s

/-- The condition of ICMP (R206). -/
def icond (cc : ICond) (a b : Int) : Bool :=
  match cc with
  | .eq => a == b
  | .ne => a != b
  | .lt => decide (a < b)
  | .le => decide (a ≤ b)
  | .gt => decide (b < a)
  | .ge => decide (b ≤ a)

/-- A predicate destination's number (R69). -/
def predOf (d : VReg) : Nat := d.toNat % 8

/-- ICMP (R208). -/
def execIcmp (o : Two) (cc : ICond) (ty : IntTy) (s : State) : Host.Outcome State Fault Refusal :=
  let n := nReg ty.w64
  runAlu o.h (lenB o.b) false (vR o.a n :: srcOps o.b n) (some o.a) (fun tm _ t =>
    .ok { preds := [(predOf o.d, icond cc (intOf ty (rdReg ty.w64 t o.a)) (intOf ty (rdSrc ty.w64 (litOf ty) tm t o.b)))] }) s

/-- IADDC (R209). -/
def execIaddc (o : Two) (sub : Bool) (p : PReg) (ty : IntTy) (s : State) : Host.Outcome State Fault Refusal :=
  let n := nReg ty.w64
  let w := if ty.w64 then 2 ^ 64 else 2 ^ 32
  runAlu o.h (lenB o.b) false (twoOps o n n n) (some o.a) (fun tm _ t =>
    let b := (rdSrc ty.w64 (litOf ty) tm t o.b).toNat
    let x := (rdReg ty.w64 t o.a).toNat + (if sub then w - 1 - b else b) + b2n (t.pred p.toNat)
    .ok { regs := wrReg ty.w64 o.d (BitVec.ofNat 64 (x % w)), preds := [(p.toNat, decide (w ≤ x))] }) s

/-! ### C forms (R93) -/

def execIaddC (c : CTwo) (s : State) : Host.Outcome State Fault Refusal := runInt2 (· + ·) (cTwoOf c) 1 .i32 false s
def execIsubC (c : CTwo) (s : State) : Host.Outcome State Fault Refusal := runInt2 (· - ·) (cTwoOf c) 1 .i32 false s
def execImulC (c : CTwo) (s : State) : Host.Outcome State Fault Refusal := runInt2 (· * ·) (cTwoOf c) 1 .i32 false s
def execIminI32C (c : CTwo) (s : State) : Host.Outcome State Fault Refusal := runInt2 min (cTwoOf c) 1 .i32 false s
def execIminN32C (c : CTwo) (s : State) : Host.Outcome State Fault Refusal := runInt2 min (cTwoOf c) 1 .n32 false s
def execImaxI32C (c : CTwo) (s : State) : Host.Outcome State Fault Refusal := runInt2 max (cTwoOf c) 1 .i32 false s
def execImaxN32C (c : CTwo) (s : State) : Host.Outcome State Fault Refusal := runInt2 max (cTwoOf c) 1 .n32 false s
def execIabsC (c : COne) (s : State) : Host.Outcome State Fault Refusal :=
  runInt1 (fun a => (a.natAbs : Int)) (cOneOf c) 1 .i32 false s
def execInegC (c : COne) (s : State) : Host.Outcome State Fault Refusal := runInt1 (fun a => -a) (cOneOf c) 1 .i32 false s
def execImulhI32C (c : CTwo) (s : State) : Host.Outcome State Fault Refusal := runInt2 (mulHigh .i32) (cTwoOf c) 1 .i32 false s
def execImulhN32C (c : CTwo) (s : State) : Host.Outcome State Fault Refusal := runInt2 (mulHigh .n32) (cTwoOf c) 1 .n32 false s
def execIaddSatI32C (c : CTwo) (s : State) : Host.Outcome State Fault Refusal := runInt2 (· + ·) (cTwoOf c) 1 .i32 true s
def execIsubSatI32C (c : CTwo) (s : State) : Host.Outcome State Fault Refusal := runInt2 (· - ·) (cTwoOf c) 1 .i32 true s
def execIaddSatN32C (c : CTwo) (s : State) : Host.Outcome State Fault Refusal := runInt2 (· + ·) (cTwoOf c) 1 .n32 true s
def execIsubSatN32C (c : CTwo) (s : State) : Host.Outcome State Fault Refusal := runInt2 (· - ·) (cTwoOf c) 1 .n32 true s

end Sys2Proof.Machine
end

