-- ==== Sys2Proof/Machine/Logic.lean ====
section
/-! DEFINITION. The vector ALU's logic, bit-field, move and predicate instructions (07 R210 to R212) and their C forms. -/

namespace Sys2Proof.Machine

/-! ### Bitwise and shifts (R210) -/

/-- A two-source instruction on bit strings of W bits; B has `nb` registers of its own width. -/
def runBits2 (op : DWord → DWord → DWord) (o : Two) (len : Nat) (w64 b64 : Bool) (s : State) : Host.Outcome State Fault Refusal :=
  runAlu o.h len false (twoOps o (nReg w64) (nReg w64) (nReg b64)) (some o.a) (fun tm _ t =>
    .ok { regs := wrReg w64 o.d (op (rdReg w64 t o.a) (rdSrc b64 .zero tm t o.b)) }) s

/-- A one-source instruction on bit strings: A of W bits, D of W bits or 32. -/
def runBits1 (op : DWord → DWord) (o : One) (len : Nat) (w64 d64 : Bool) (s : State) : Host.Outcome State Fault Refusal :=
  runAlu o.h len false [vW o.d (nReg d64), vR o.a (nReg w64)] (some o.a) (fun _ _ t =>
    .ok { regs := wrReg d64 o.d (op (rdReg w64 t o.a)) }) s

/-- The width in bits. -/
def wBits (w64 : Bool) : Nat := if w64 then 64 else 32

/-- SHL (R210). -/
def shlOp (w64 : Bool) (a b : DWord) : DWord := if wBits w64 ≤ b.toNat then 0 else BitVec.ofNat 64 (a.toNat * 2 ^ b.toNat % 2 ^ wBits w64)
/-- SHR. -/
def shrOp (w64 : Bool) (a b : DWord) : DWord := if wBits w64 ≤ b.toNat then 0 else BitVec.ofNat 64 (a.toNat / 2 ^ b.toNat)
/-- SAR. -/
def sarOp (w64 : Bool) (a b : DWord) : DWord :=
  let x := signed (wBits w64) a.toNat
  BitVec.ofInt 64 (if wBits w64 ≤ b.toNat then (if x < 0 then -1 else 0) else x / 2 ^ b.toNat)
/-- ROTL. -/
def rotlOp (w64 : Bool) (a b : DWord) : DWord :=
  let n := b.toNat % wBits w64
  BitVec.ofNat 64 (a.toNat * 2 ^ n % 2 ^ wBits w64 + a.toNat / 2 ^ (wBits w64 - n))

def execAnd (o : Two) (w64 : Bool) (s : State) : Host.Outcome State Fault Refusal := runBits2 (· &&& ·) o (lenB o.b) w64 w64 s
def execOr (o : Two) (w64 : Bool) (s : State) : Host.Outcome State Fault Refusal := runBits2 (· ||| ·) o (lenB o.b) w64 w64 s
def execXor (o : Two) (w64 : Bool) (s : State) : Host.Outcome State Fault Refusal := runBits2 (· ^^^ ·) o (lenB o.b) w64 w64 s
def execNot (o : One) (w64 : Bool) (s : State) : Host.Outcome State Fault Refusal := runBits1 (~~~ ·) o (lenExt o.ext) w64 w64 s
def execShl (o : Two) (w64 : Bool) (s : State) : Host.Outcome State Fault Refusal := runBits2 (shlOp w64) o (lenB o.b) w64 false s
def execShr (o : Two) (w64 : Bool) (s : State) : Host.Outcome State Fault Refusal := runBits2 (shrOp w64) o (lenB o.b) w64 false s
def execSar (o : Two) (w64 : Bool) (s : State) : Host.Outcome State Fault Refusal := runBits2 (sarOp w64) o (lenB o.b) w64 false s
def execRotl (o : Two) (w64 : Bool) (s : State) : Host.Outcome State Fault Refusal := runBits2 (rotlOp w64) o (lenB o.b) w64 false s

/-- Bit i of D is TBL[4 C[i] + 2 B[i] + A[i]] (R210). -/
def ternBits (tbl : BitVec 8) (a b c : DWord) : DWord :=
  let m (i : Nat) (x y z : DWord) : DWord := if tbl.getLsbD i then x &&& y &&& z else 0
  m 0 (~~~a) (~~~b) (~~~c) ||| m 1 a (~~~b) (~~~c) ||| m 2 (~~~a) b (~~~c) ||| m 3 a b (~~~c) ||| m 4 (~~~a) (~~~b) c
    ||| m 5 a (~~~b) c ||| m 6 (~~~a) b c ||| m 7 a b c

/-- A three-source instruction on bit strings. -/
def runBits3 (op : DWord → DWord → DWord → DWord) (o : Three) (w64 : Bool) (s : State) : Host.Outcome State Fault Refusal :=
  let n := nReg w64
  runAlu o.h 3 false (threeOps o n n n n) (some o.a) (fun tm _ t =>
    .ok { regs := wrReg w64 o.d (op (rdReg w64 t o.a) (rdExt w64 tm t o.b) (rdReg w64 t o.c)) }) s

/-- TERN. -/
def execTern (o : Three) (tbl : BitVec 8) (w64 : Bool) (s : State) : Host.Outcome State Fault Refusal :=
  runBits3 (ternBits tbl) o w64 s

/-- FSHL (R210). -/
def fshlOp (a b c : DWord) : DWord := BitVec.ofNat 64 ((a.toNat * 2 ^ 32 + b.toNat) * 2 ^ (c.toNat % 32) % 2 ^ 64 / 2 ^ 32)

def execFshl (o : Three) (s : State) : Host.Outcome State Fault Refusal := runBits3 fshlOp o false s

/-- Leading zeros of a W-bit number. -/
def clzOf (w : Nat) (x : DWord) : DWord := BitVec.ofNat 64 (w - bitLen x.toNat)

/-- Trailing zeros among n bits. -/
def ctzNat : Nat → Nat → Nat
  | 0, _ => 0
  | n + 1, x => if x % 2 = 1 then 0 else 1 + ctzNat n (x / 2)

/-- The n low bits in reverse order. -/
def brevNat : Nat → Nat → Nat
  | 0, _ => 0
  | n + 1, x => x % 2 * 2 ^ n + brevNat n (x / 2)

/-- POPC, CLZ, CTZ, BREV (R210). -/
def popcOp (w64 : Bool) (a : DWord) : DWord := BitVec.ofNat 64 (popCount (wBits w64) a.toNat)
def ctzOp (w64 : Bool) (a : DWord) : DWord := BitVec.ofNat 64 (ctzNat (wBits w64) a.toNat)
def brevOp (w64 : Bool) (a : DWord) : DWord := BitVec.ofNat 64 (brevNat (wBits w64) a.toNat)

def execPopc (o : One) (w64 : Bool) (s : State) : Host.Outcome State Fault Refusal := runBits1 (popcOp w64) o (lenExt o.ext) w64 false s
def execClz (o : One) (w64 : Bool) (s : State) : Host.Outcome State Fault Refusal := runBits1 (clzOf (wBits w64)) o (lenExt o.ext) w64 false s
def execCtz (o : One) (w64 : Bool) (s : State) : Host.Outcome State Fault Refusal := runBits1 (ctzOp w64) o (lenExt o.ext) w64 false s
def execBrev (o : One) (w64 : Bool) (s : State) : Host.Outcome State Fault Refusal := runBits1 (brevOp w64) o (lenExt o.ext) w64 w64 s

/-! ### Bit fields (R211) -/

/-- The field of BFX: bits p + i of A for i below l; those above 31 are zero, or A's top bit. -/
def bfxOp (sx : Bool) (a b : DWord) : DWord :=
  let p := b.toNat % 256
  let l := min (b.toNat / 256 % 256) 32
  let x : Int := if sx then signed 32 a.toNat else (a.toNat : Int)
  let f := wrapInt l (x / 2 ^ p)
  if l = 0 then 0 else if sx then BitVec.ofNat 64 (wrapInt 32 (signed l f)) else BitVec.ofNat 64 f

def execBfx (o : Two) (sx : Bool) (s : State) : Host.Outcome State Fault Refusal := runBits2 (bfxOp sx) o (lenB o.b) false false s

/-- BFI: D is C with the l low bits of A from bit p. -/
def bfiOp (a b c : DWord) : DWord :=
  let p := b.toNat % 256
  let l := min (b.toNat / 256 % 256) 32
  let m := (2 ^ l - 1) * 2 ^ p % 2 ^ 32
  BitVec.ofNat 64 ((c.toNat &&& (2 ^ 32 - 1 - m)) ||| (a.toNat * 2 ^ p &&& m))

def execBfi (o : Three) (s : State) : Host.Outcome State Fault Refusal := runBits3 bfiOp o false s

/-- PRMT: byte i of D. -/
def prmtByte (a b c i : Nat) : Nat :=
  let x := c / 16 ^ i % 16
  let y := (a + b * 2 ^ 32) / 256 ^ (x % 8) % 256
  if 8 ≤ x then (if 128 ≤ y then 255 else 0) else y

def prmtOp (a b c : DWord) : DWord :=
  let y (i : Nat) : Nat := prmtByte a.toNat b.toNat c.toNat i * 256 ^ i
  BitVec.ofNat 64 (y 0 + y 1 + y 2 + y 3)

def execPrmt (o : Three) (s : State) : Host.Outcome State Fault Refusal := runBits3 prmtOp o false s

/-! ### Moves and predicates (R212) -/

/-- Consecutive registers copied. -/
def copyRegs (t : Thread) (d a : VReg) (n : Nat) : List (Nat × Word) := (upTo n).map fun i => (d.toNat + i, t.reg (a.toNat + i))

/-- A copy of n registers. -/
def runMov (o : One) (len n : Nat) (s : State) : Host.Outcome State Fault Refusal :=
  runAlu o.h len false [vW o.d n, vR o.a n] (some o.a) (fun _ _ t => .ok { regs := copyRegs t o.d o.a n }) s

/-- MOV. -/
def execMov (o : One) (w : MovW) (s : State) : Host.Outcome State Fault Refusal := runMov o (lenExt o.ext) w.regs s

/-- MOVL. -/
def execMovl (h : Hdr) (d : VReg) (lit : Word) (ty : MovlTy) (s : State) : Host.Outcome State Fault Refusal :=
  runAlu h 3 false [vW d ty.regs] none (fun _ _ _ =>
    .ok { regs := match ty with
      | .b32 => [(d.toNat, lit)]
      | .i64 => wr64 d.toNat (litWide .sign lit)
      | .n64 => wr64 d.toNat (litWide .zero lit) }) s

/-- SEL. -/
def execSel (o : Two) (p : PReg) (neg w64 : Bool) (s : State) : Host.Outcome State Fault Refusal :=
  let n := nReg w64
  runAlu o.h (lenB o.b) false (twoOps o n n n) (some o.a) (fun tm _ t =>
    .ok { regs := wrReg w64 o.d (if t.pred p.toNat != neg then rdReg w64 t o.a else rdSrc w64 .zero tm t o.b) }) s

/-- LEA. -/
def execLea (o : Two) (sh : BitVec 3) (w64 zx : Bool) (s : State) : Host.Outcome State Fault Refusal :=
  let n := nReg w64
  runAlu o.h (lenB o.b) false (twoOps o n n 1) (some o.a) (fun tm _ t =>
    let b := bVal tm t o.b
    let i : DWord := if zx then b.setWidth 64 else b.signExtend 64
    .ok { regs := wrReg w64 o.d (rdReg w64 t o.a + (i <<< sh.toNat)) }) s

/-- PSET. -/
def execPset (o : Two) (z w64 : Bool) (s : State) : Host.Outcome State Fault Refusal :=
  let n := nReg w64
  runAlu o.h (lenB o.b) false (vR o.a n :: srcOps o.b n) (some o.a) (fun tm _ t =>
    .ok { preds := [(predOf o.d, ((rdReg w64 t o.a &&& rdSrc w64 .zero tm t o.b) != 0) != z)] }) s

/-- PLOP. -/
def execPlop (h : Hdr) (d a b : PReg) (lut : BitVec 4) (s : State) : Host.Outcome State Fault Refusal :=
  runAlu h 2 false [] none (fun _ _ t =>
    .ok { preds := [(d.toNat, lut.getLsbD (2 * b2n (t.pred a.toNat) + b2n (t.pred b.toNat)))] }) s

/-- P2V. -/
def execP2v (h : Hdr) (d : VReg) (ext : Bool) (s : State) : Host.Outcome State Fault Refusal :=
  runAlu h (lenExt ext) false [vW d] none (fun _ _ t => .ok { regs := [(d.toNat, (t.preds ||| 0x80).setWidth 32)] }) s

/-- V2P. -/
def execV2p (h : Hdr) (a : VReg) (mask : BitVec 7) (ext : Bool) (s : State) : Host.Outcome State Fault Refusal :=
  runAlu h (lenExt ext) false [vR a] (some a) (fun _ _ t =>
    .ok { preds := ((upTo 7).filter fun i => mask.getLsbD i).map fun i => (i, (t.reg a.toNat).getLsbD i) }) s

/-! ### C forms (R93) -/

def execAndC (c : CTwo) (s : State) : Host.Outcome State Fault Refusal := runBits2 (· &&& ·) (cTwoOf c) 1 false false s
def execOrC (c : CTwo) (s : State) : Host.Outcome State Fault Refusal := runBits2 (· ||| ·) (cTwoOf c) 1 false false s
def execXorC (c : CTwo) (s : State) : Host.Outcome State Fault Refusal := runBits2 (· ^^^ ·) (cTwoOf c) 1 false false s
def execNotC (c : COne) (s : State) : Host.Outcome State Fault Refusal := runBits1 (~~~ ·) (cOneOf c) 1 false false s
def execShlC (c : CTwo) (s : State) : Host.Outcome State Fault Refusal := runBits2 (shlOp false) (cTwoOf c) 1 false false s
def execShrC (c : CTwo) (s : State) : Host.Outcome State Fault Refusal := runBits2 (shrOp false) (cTwoOf c) 1 false false s
def execSarC (c : CTwo) (s : State) : Host.Outcome State Fault Refusal := runBits2 (sarOp false) (cTwoOf c) 1 false false s
def execRotlC (c : CTwo) (s : State) : Host.Outcome State Fault Refusal := runBits2 (rotlOp false) (cTwoOf c) 1 false false s
def execPopcC (c : COne) (s : State) : Host.Outcome State Fault Refusal := runBits1 (popcOp false) (cOneOf c) 1 false false s
def execClzC (c : COne) (s : State) : Host.Outcome State Fault Refusal := runBits1 (clzOf 32) (cOneOf c) 1 false false s
def execCtzC (c : COne) (s : State) : Host.Outcome State Fault Refusal := runBits1 (ctzOp false) (cOneOf c) 1 false false s
def execBrevC (c : COne) (s : State) : Host.Outcome State Fault Refusal := runBits1 (brevOp false) (cOneOf c) 1 false false s
def execMovC (c : COne) (s : State) : Host.Outcome State Fault Refusal := runMov (cOneOf c) 1 1 s

end Sys2Proof.Machine
end

