-- ==== Sys2Proof/Machine/Fp.lean ====
section
/-! DEFINITION. The vector ALU's floating-point instructions, packed pairs, special functions and conversions (07 R213 to R225)
and their C forms. -/

namespace Sys2Proof.Machine

/-- The random-number key of the context whose group executes (R114, R115). -/
def State.curKey (s : State) : Word :=
  match s.curGroup with
  | some (_, _, _, tm) => (s.ctx tm.ctx).rngkey
  | none => 0

/-- An FP32 or FP64 register operand's code. -/
def rdF (w64 : Bool) (t : Thread) (r : VReg) : Nat := (rdReg w64 t r).toNat

/-- The FP64 code of an FP32 literal, converted exactly (R74): canonical for a NaN. -/
def litF64 (w : Word) : Nat :=
  match decodeF fp32 w.toNat with
  | .nan s => if s then infCode fp64 + 1 + signBit fp64 (w.getLsbD 31) else canonNaN fp64 + signBit fp64 (w.getLsbD 31)
  | .inf n => signBit fp64 n + infCode fp64
  | .fin n m e => (roundTo fp64 .rn false 0 n m e).code

/-- Operand B's code; an FP64 literal is widened (R74, R214). -/
def rdFB (w64 : Bool) (tm : Team) (t : Thread) (b : SrcB) : Nat :=
  if w64 then
    match b with
    | .lit w => litF64 w
    | .reg _ => (bVal64 .zero tm t b).toNat
    | .xreg _ => (bVal64 .zero tm t b).toNat
    | .xk _ => (bVal64 .zero tm t b).toNat
  else (bVal tm t b).toNat

/-- FP32 or FP64. -/
def fmtOf (w64 : Bool) : Fmt := if w64 then fp64 else fp32

/-- An operand prepared: flushed, then its sign cleared, then inverted (R214). -/
def prepF (f : Fmt) (t : Thread) (ab ng : Bool) (x : Nat) : Nat := prepSign f ab ng (flushIn f (t.fz f) x)

/-- The effect of one floating result: flushed, with the draws it took (R111, R115). -/
def fpEff (f : Fmt) (w64 : Bool) (t : Thread) (mode : RMode) (d : VReg) (r : FRes) : Eff :=
  let r := flushRes f (t.fz f) r
  { regs := wrReg w64 d (BitVec.ofNat 64 r.code), flags := r.fl, draws := drawsOf mode 1 }

/-- A rounded two-source instruction (R214). -/
def runF2 (w64 : Bool) (op : Fmt → RMode → Nat → FVal → FVal → FRes) (o : Two) (len : Nat) (m : FRm) (s : State) :
    Host.Outcome State Fault Refusal :=
  let n := nReg w64
  let f := fmtOf w64
  let key := s.curKey
  runAlu o.h len false (twoOps o n n n) (some o.a) (fun tm tid t =>
    let mode := t.mode m.rm
    let a := decodeF f (prepF f t m.m.aa m.m.na (rdF w64 t o.a))
    let b := decodeF f (prepF f t m.m.ab m.m.nb (rdFB w64 tm t o.b))
    .ok (fpEff f w64 t mode o.d (op f mode (t.draw key tid 0) a b))) s

/-- FFMA and DFMA (R214). -/
def runFma (w64 : Bool) (o : Three) (m : FRm) (cm : FCm) (s : State) : Host.Outcome State Fault Refusal :=
  let n := nReg w64
  let f := fmtOf w64
  let key := s.curKey
  runAlu o.h 3 false (threeOps o n n n n) (some o.a) (fun tm tid t =>
    let mode := t.mode m.rm
    let a := decodeF f (prepF f t m.m.aa m.m.na (rdF w64 t o.a))
    let b := decodeF f (prepF f t m.m.ab m.m.nb (rdExt w64 tm t o.b).toNat)
    let c := decodeF f (prepF f t cm.ac cm.nc (rdF w64 t o.c))
    .ok (fpEff f w64 t mode o.d (fmaVal f mode (t.draw key tid 0) a b c))) s

/-- FMIN, FMAX, DMIN, DMAX (R215): the result is a copy of a prepared operand's bits. -/
def runFMinMax (w64 isMax : Bool) (o : Two) (len : Nat) (m : FMods) (s : State) : Host.Outcome State Fault Refusal :=
  let n := nReg w64
  let f := fmtOf w64
  runAlu o.h len false (twoOps o n n n) (some o.a) (fun tm _ t =>
    let r := minMaxF f isMax (prepF f t m.aa m.na (rdF w64 t o.a)) (prepF f t m.ab m.nb (rdFB w64 tm t o.b))
    .ok { regs := wrReg w64 o.d (BitVec.ofNat 64 r.code), flags := r.fl }) s

/-- FCMP and DCMP (R216). -/
def runFCmp (w64 : Bool) (o : Two) (cc : FCond) (m : FMods) (s : State) : Host.Outcome State Fault Refusal :=
  let n := nReg w64
  let f := fmtOf w64
  runAlu o.h (lenB o.b) false (vR o.a n :: srcOps o.b n) (some o.a) (fun tm _ t =>
    let r := condF cc (decodeF f (prepF f t m.aa m.na (rdF w64 t o.a))) (decodeF f (prepF f t m.ab m.nb (rdFB w64 tm t o.b)))
    .ok { preds := [(predOf o.d, r.1)], flags := r.2 }) s

def execFadd (o : Two) (m : FRm) (s : State) : Host.Outcome State Fault Refusal := runF2 false addVal o (lenB o.b) m s
def execFmul (o : Two) (m : FRm) (s : State) : Host.Outcome State Fault Refusal := runF2 false mulVal o (lenB o.b) m s
def execFfma (o : Three) (m : FRm) (c : FCm) (s : State) : Host.Outcome State Fault Refusal := runFma false o m c s
def execFmin (o : Two) (m : FMods) (s : State) : Host.Outcome State Fault Refusal := runFMinMax false false o (lenB o.b) m s
def execFmax (o : Two) (m : FMods) (s : State) : Host.Outcome State Fault Refusal := runFMinMax false true o (lenB o.b) m s
def execFcmp (o : Two) (cc : FCond) (m : FMods) (s : State) : Host.Outcome State Fault Refusal := runFCmp false o cc m s
def execDadd (o : Two) (m : FRm) (s : State) : Host.Outcome State Fault Refusal := runF2 true addVal o (lenB o.b) m s
def execDmul (o : Two) (m : FRm) (s : State) : Host.Outcome State Fault Refusal := runF2 true mulVal o (lenB o.b) m s
def execDfma (o : Three) (m : FRm) (c : FCm) (s : State) : Host.Outcome State Fault Refusal := runFma true o m c s
def execDmin (o : Two) (m : FMods) (s : State) : Host.Outcome State Fault Refusal := runFMinMax true false o (lenB o.b) m s
def execDmax (o : Two) (m : FMods) (s : State) : Host.Outcome State Fault Refusal := runFMinMax true true o (lenB o.b) m s
def execDcmp (o : Two) (cc : FCond) (m : FMods) (s : State) : Host.Outcome State Fault Refusal := runFCmp true o cc m s

/-- FCLASS: the raw bits classified (R217). -/
def execFclass (o : One) (s : State) : Host.Outcome State Fault Refusal :=
  runAlu o.h (lenExt o.ext) false [vW o.d, vR o.a] (some o.a) (fun _ _ t =>
    .ok { regs := [(o.d.toNat, BitVec.ofNat 32 (classF fp32 (t.reg o.a.toNat).toNat))] }) s

/-- FRND (R218). -/
def runFrnd (o : One) (len : Nat) (rm : RoundCode) (s : State) : Host.Outcome State Fault Refusal :=
  let key := s.curKey
  runAlu o.h len false [vW o.d, vR o.a] (some o.a) (fun _ tid t =>
    let mode := t.mode rm
    .ok (fpEff fp32 false t mode o.d (frndVal fp32 mode (t.draw key tid 0) (prepF fp32 t false false (rdF false t o.a))))) s

def execFrnd (o : One) (rm : RoundCode) (s : State) : Host.Outcome State Fault Refusal := runFrnd o (lenExt o.ext) rm s

/-- FSCALE: Round(a × 2^n, FP32, mode); a zero, an infinity or a NaN by R214. -/
def runFscale (o : Two) (len : Nat) (rm : RoundCode) (na aa : Bool) (s : State) : Host.Outcome State Fault Refusal :=
  let key := s.curKey
  runAlu o.h len false (twoOps o 1 1 1) (some o.a) (fun tm tid t =>
    let mode := t.mode rm
    let a := decodeF fp32 (prepF fp32 t aa na (rdF false t o.a))
    -- beyond ±1024 every non-zero operand overflows or underflows alike
    let n : Int := max (-1024) (min 1024 (bVal tm t o.b).toInt)
    .ok (fpEff fp32 false t mode o.d (cvtVal fp32 mode false (t.draw key tid 0) (scaleVal a n)))) s

def execFscale (o : Two) (rm : RoundCode) (na aa : Bool) (s : State) : Host.Outcome State Fault Refusal :=
  runFscale o (lenB o.b) rm na aa s

/-- FFREXP (R218). -/
def execFfrexp (o : One) (exp : Bool) (s : State) : Host.Outcome State Fault Refusal :=
  runAlu o.h (lenExt o.ext) false [vW o.d, vR o.a] (some o.a) (fun _ _ t =>
    let r := frexpF fp32 (prepF fp32 t false false (rdF false t o.a))
    let r := if exp then r.2 else r.1
    .ok { regs := [(o.d.toNat, BitVec.ofNat 32 r.code)], flags := r.fl }) s

/-! ### Packed pairs (R219) -/

/-- The format of a packed pair. -/
def pairFmt (bf : Bool) : Fmt := if bf then bf16 else fp16

/-- Element i of a packed pair, flushed and negated (R102, R219). -/
def elem16 (f : Fmt) (t : Thread) (ng : Bool) (w : Word) (i : Nat) : Nat := prepF f t false ng (bits w.toNat (16 * i + 15) (16 * i))

/-- The effect of the two elements' results, each flushed. -/
def pairEff (f : Fmt) (t : Thread) (d : VReg) (draws : Nat) (flush : Bool) (r0 r1 : FRes) : Eff :=
  let fl (r : FRes) : FRes := if flush then flushRes f (t.fz f) r else r
  { regs := [(d.toNat, BitVec.ofNat 32 ((fl r0).code + (fl r1).code * 65536))], flags := (fl r0).fl ||| (fl r1).fl, draws := draws }

/-- HADD2 and HMUL2. -/
def runH2 (op : Fmt → RMode → Nat → FVal → FVal → FRes) (o : Two) (len : Nat) (bf : Bool) (rm : RoundCode) (na nb : Bool) (s : State) :
    Host.Outcome State Fault Refusal :=
  let key := s.curKey
  let f := pairFmt bf
  runAlu o.h len false (twoOps o 1 1 1) (some o.a) (fun tm tid t =>
    let mode := t.mode rm
    let a := t.reg o.a.toNat
    let b := bVal tm t o.b
    let r (i : Nat) : FRes := op f mode (t.draw key tid i) (decodeF f (elem16 f t na a i)) (decodeF f (elem16 f t nb b i))
    .ok (pairEff f t o.d (drawsOf mode 2) true (r 0) (r 1))) s

def execHadd2 (o : Two) (bf : Bool) (rm : RoundCode) (na nb : Bool) (s : State) : Host.Outcome State Fault Refusal :=
  runH2 addVal o (lenB o.b) bf rm na nb s
def execHmul2 (o : Two) (bf : Bool) (rm : RoundCode) (na nb : Bool) (s : State) : Host.Outcome State Fault Refusal :=
  runH2 mulVal o (lenB o.b) bf rm na nb s

/-- HFMA2. -/
def execHfma2 (o : Three) (bf : Bool) (rm : RoundCode) (na nb nc : Bool) (s : State) : Host.Outcome State Fault Refusal :=
  let key := s.curKey
  let f := pairFmt bf
  runAlu o.h 3 false (threeOps o 1 1 1 1) (some o.a) (fun tm tid t =>
    let mode := t.mode rm
    let e (ng : Bool) (w : Word) (i : Nat) : FVal := decodeF f (elem16 f t ng w i)
    let r (i : Nat) : FRes :=
      fmaVal f mode (t.draw key tid i) (e na (t.reg o.a.toNat) i) (e nb (xVal tm t o.b) i) (e nc (t.reg o.c.toNat) i)
    .ok (pairEff f t o.d (drawsOf mode 2) true (r 0) (r 1))) s

/-- HMIN2 and HMAX2. -/
def runHMinMax (isMax : Bool) (o : Two) (len : Nat) (bf na nb : Bool) (s : State) : Host.Outcome State Fault Refusal :=
  let f := pairFmt bf
  runAlu o.h len false (twoOps o 1 1 1) (some o.a) (fun tm _ t =>
    let a := t.reg o.a.toNat
    let b := bVal tm t o.b
    let r (i : Nat) : FRes := minMaxF f isMax (elem16 f t na a i) (elem16 f t nb b i)
    .ok (pairEff f t o.d 0 false (r 0) (r 1))) s

def execHmin2 (o : Two) (bf na nb : Bool) (s : State) : Host.Outcome State Fault Refusal := runHMinMax false o (lenB o.b) bf na nb s
def execHmax2 (o : Two) (bf na nb : Bool) (s : State) : Host.Outcome State Fault Refusal := runHMinMax true o (lenB o.b) bf na nb s

/-! ### Special functions (R220, R221) -/

/-- A special function: long-latency, rounded by RN. -/
def runSpecial (fn : FVal → FRes) (o : One) (s : State) : Host.Outcome State Fault Refusal :=
  runAlu o.h (lenExt o.ext) true [vW o.d, vR o.a] (some o.a) (fun _ _ t =>
    .ok (fpEff fp32 false t .rn o.d (fn (decodeF fp32 (prepF fp32 t false false (rdF false t o.a)))))) s

def execRcp (o : One) (s : State) : Host.Outcome State Fault Refusal := runSpecial rcpF o s
def execRsq (o : One) (s : State) : Host.Outcome State Fault Refusal := runSpecial rsqF o s
def execSqrt (o : One) (s : State) : Host.Outcome State Fault Refusal := runSpecial sqrtF o s
def execExp2 (o : One) (s : State) : Host.Outcome State Fault Refusal := runSpecial exp2F o s
def execLog2 (o : One) (s : State) : Host.Outcome State Fault Refusal := runSpecial log2F o s
def execSin (o : One) (s : State) : Host.Outcome State Fault Refusal := runSpecial sinF o s
def execCos (o : One) (s : State) : Host.Outcome State Fault Refusal := runSpecial cosF o s
def execTanh (o : One) (s : State) : Host.Outcome State Fault Refusal := runSpecial tanhF o s

/-! ### Conversions (R222 to R225) -/

/-- The format a name stands for. -/
def nameFmt (n : FName) : Fmt :=
  match n with
  | .f32 => fp32
  | .f64 => fp64
  | .f16 => fp16
  | .bf16 => bf16

/-- A source operand of a named format: a register's low half, a register or a pair. -/
def rdName (n : FName) (t : Thread) (r : VReg) : Nat :=
  match n with
  | .f32 => (t.reg r.toNat).toNat
  | .f64 => (t.reg64 r.toNat).toNat
  | .f16 => (t.reg r.toNat).toNat % 65536
  | .bf16 => (t.reg r.toNat).toNat % 65536

/-- The type is signed. -/
def signedTy (ty : IntTy) : Bool :=
  match ty with
  | .i32 => true
  | .n32 => false
  | .i64 => true
  | .n64 => false

/-- CVTI (R222). -/
def runCvti (o : One) (len : Nat) (src : FName) (ty : IntTy) (rm : RoundCode) (s : State) : Host.Outcome State Fault Refusal :=
  let key := s.curKey
  let f := nameFmt src
  runAlu o.h len false [vW o.d (nReg ty.w64), vR o.a (nReg src.w64)] (some o.a) (fun _ tid t =>
    let mode := t.mode rm
    let r := cvtInt (wBits ty.w64) (signedTy ty) mode (t.draw key tid 0) (decodeF f (flushIn f (t.fz f) (rdName src t o.a)))
    .ok { regs := wrReg ty.w64 o.d (BitVec.ofNat 64 r.code), flags := r.fl, draws := drawsOf mode 1 }) s

def execCvti (o : One) (src : FName) (ty : IntTy) (rm : RoundCode) (s : State) : Host.Outcome State Fault Refusal :=
  runCvti o (lenExt o.ext) src ty rm s

/-- The source value of CVTF. -/
def cvtfSrc (src : CvtSrc) (t : Thread) (a : VReg) : FVal :=
  let fl (n : FName) : FVal := decodeF (nameFmt n) (flushIn (nameFmt n) (t.fz (nameFmt n)) (rdName n t a))
  match src with
  | .i32 => intVal (intOf .i32 (rdReg false t a))
  | .n32 => intVal (intOf .n32 (rdReg false t a))
  | .i64 => intVal (intOf .i64 (rdReg true t a))
  | .n64 => intVal (intOf .n64 (rdReg true t a))
  | .f32 => fl .f32
  | .f64 => fl .f64
  | .f16 => fl .f16
  | .bf16 => fl .bf16

/-- CVTF (R223). -/
def runCvtf (o : One) (len : Nat) (src : CvtSrc) (dst : FName) (rm : RoundCode) (s : State) : Host.Outcome State Fault Refusal :=
  let key := s.curKey
  let f := nameFmt dst
  runAlu o.h len false [vW o.d (nReg dst.w64), vR o.a (nReg src.w64)] (some o.a) (fun _ tid t =>
    let mode := t.mode rm
    .ok (fpEff f dst.w64 t mode o.d (cvtVal f mode false (t.draw key tid 0) (cvtfSrc src t o.a)))) s

def execCvtf (o : One) (src : CvtSrc) (dst : FName) (rm : RoundCode) (s : State) : Host.Outcome State Fault Refusal :=
  runCvtf o (lenExt o.ext) src dst rm s

/-- FP8 and FP4 formats of CVTQ. -/
def qFmt (q : QFmt) : Fmt :=
  match q with
  | .e4m3 => e4m3
  | .e5m2 => e5m2
  | .e2m1 => e2m1

/-- Elements of a packed word of a format: 4 of FP8, 8 of FP4 (R102). -/
def qCount (q : QFmt) : Nat :=
  match q with
  | .e4m3 => 4
  | .e5m2 => 4
  | .e2m1 => 8

/-- The results of elements 0 up, packed w bits each (R102): code and conditions. -/
def packRes (w : Nat) (rs : List FRes) : Nat × Conds :=
  rs.foldr (fun r acc => (r.code + acc.1 * 2 ^ w, r.fl ||| acc.2)) (0, 0)

/-- CVTQ (R224): long-latency. -/
def execCvtq (o : Two) (q : QFmt) (sat : Bool) (rm : RoundCode) (s : State) : Host.Outcome State Fault Refusal :=
  let key := s.curKey
  let n := qCount q
  runAlu o.h (lenB o.b) true (twoOps o 1 n 1) (some o.a) (fun tm tid t =>
    let mode := t.mode rm
    let e := (bVal tm t o.b).toNat % 256
    let x (i : Nat) : FVal :=
      if e = 255 then .nan false
      else scaleVal (decodeF fp32 (flushIn fp32 t.fz32 (t.reg (o.a.toNat + i)).toNat)) (127 - (e : Int))
    let r := packRes (32 / n) ((upTo n).map fun i => cvtVal (qFmt q) mode sat (t.draw key tid i) (x i))
    .ok { regs := [(o.d.toNat, BitVec.ofNat 32 r.1)], flags := r.2, draws := drawsOf mode n }) s

/-- A wide FP8 or FP4 element of CVTP: scaled by 2^(e − 127), RN, flushed; a NaN, or any element under e = 0xFF, is the
canonical NaN without IV (R225). -/
def wideElem (f : Fmt) (t : Thread) (e : Nat) (x : Nat) : FRes :=
  match decodeF f x with
  | .nan _ => ⟨canonNaN fp32, 0⟩
  | .inf n => if e = 255 then ⟨canonNaN fp32, 0⟩ else ⟨signBit fp32 n + infCode fp32, 0⟩
  | .fin n m g =>
    if e = 255 then ⟨canonNaN fp32, 0⟩
    else flushRes fp32 t.fz32 (cvtVal fp32 .rn false 0 (.fin n m (g + e - 127)))

/-- What CVTP computes on one thread (R225). -/
def cvtpEff (op : CvtpOp) (o : Two) (mode : RMode) (key : Word) (tm : Team) (tid : Nat) (t : Thread) : Eff :=
  let a := (t.reg o.a.toNat).toNat
  let wide (f : Fmt) (w n : Nat) : Eff :=
    let e := (bVal tm t o.b).toNat % 256
    let rs := (upTo n).map fun i => wideElem f t e (bits a (w * i + w - 1) (w * i))
    { regs := (upTo n).map fun i => (o.d.toNat + i, BitVec.ofNat 32 ((rs.getD i ⟨0, 0⟩).code)), flags := (packRes 0 rs).2 }
  let half (f : Fmt) : Eff :=
    let r (i : Nat) : FRes :=
      flushRes fp32 t.fz32 (cvtVal fp32 .rn false 0 (decodeF f (flushIn f (t.fz f) (bits a (16 * i + 15) (16 * i)))))
    { regs := (upTo 2).map fun i => (o.d.toNat + i, BitVec.ofNat 32 (r i).code), flags := (r 0).fl ||| (r 1).fl }
  let pack (f : Fmt) : Eff :=
    let r (i : Nat) (x : Word) : FRes := cvtVal f mode false (t.draw key tid i) (decodeF fp32 (flushIn fp32 t.fz32 x.toNat))
    pairEff f t o.d (drawsOf mode 2) true (r 0 (t.reg o.a.toNat)) (r 1 (bVal tm t o.b))
  match op with
  | .wideE4m3 => wide e4m3 8 4
  | .wideE5m2 => wide e5m2 8 4
  | .wideE2m1 => wide e2m1 4 8
  | .packF16 => pack fp16
  | .packBf16 => pack bf16
  | .wideF16 => half fp16
  | .wideBf16 => half bf16

/-- Registers CVTP writes (R225). -/
def cvtpDst (op : CvtpOp) : Nat :=
  match op with
  | .wideE4m3 => 4
  | .wideE5m2 => 4
  | .wideE2m1 => 8
  | .packF16 => 1
  | .packBf16 => 1
  | .wideF16 => 2
  | .wideBf16 => 2

/-- CVTP (R225): long-latency. -/
def execCvtp (o : Two) (op : CvtpOp) (rm : RoundCode) (s : State) : Host.Outcome State Fault Refusal :=
  let key := s.curKey
  runAlu o.h (lenB o.b) true (vW o.d (cvtpDst op) :: vR o.a 1 :: (if op.usesB then srcOps o.b 1 else [])) (some o.a)
    (fun tm tid t => .ok (cvtpEff op o (t.mode rm) key tm tid t)) s

/-! ### C forms (R93) -/

/-- No sign field set. -/
def noMods : FMods := { na := false, nb := false, aa := false, ab := false }

def execFaddC (c : CTwo) (s : State) : Host.Outcome State Fault Refusal := runF2 false addVal (cTwoOf c) 1 { rm := .fpctl, m := noMods } s
def execFmulC (c : CTwo) (s : State) : Host.Outcome State Fault Refusal := runF2 false mulVal (cTwoOf c) 1 { rm := .fpctl, m := noMods } s
def execFminC (c : CTwo) (s : State) : Host.Outcome State Fault Refusal := runFMinMax false false (cTwoOf c) 1 noMods s
def execFmaxC (c : CTwo) (s : State) : Host.Outcome State Fault Refusal := runFMinMax false true (cTwoOf c) 1 noMods s
def execFscaleC (c : CTwo) (s : State) : Host.Outcome State Fault Refusal := runFscale (cTwoOf c) 1 .fpctl false false s
def execFrndRnC (c : COne) (s : State) : Host.Outcome State Fault Refusal := runFrnd (cOneOf c) 1 .rn s
def execHadd2F16C (c : CTwo) (s : State) : Host.Outcome State Fault Refusal := runH2 addVal (cTwoOf c) 1 false .fpctl false false s
def execHmul2F16C (c : CTwo) (s : State) : Host.Outcome State Fault Refusal := runH2 mulVal (cTwoOf c) 1 false .fpctl false false s
def execHmin2F16C (c : CTwo) (s : State) : Host.Outcome State Fault Refusal := runHMinMax false (cTwoOf c) 1 false false false s
def execHmax2F16C (c : CTwo) (s : State) : Host.Outcome State Fault Refusal := runHMinMax true (cTwoOf c) 1 false false false s
def execHadd2Bf16C (c : CTwo) (s : State) : Host.Outcome State Fault Refusal := runH2 addVal (cTwoOf c) 1 true .fpctl false false s
def execHmul2Bf16C (c : CTwo) (s : State) : Host.Outcome State Fault Refusal := runH2 mulVal (cTwoOf c) 1 true .fpctl false false s
def execHmin2Bf16C (c : CTwo) (s : State) : Host.Outcome State Fault Refusal := runHMinMax false (cTwoOf c) 1 true false false s
def execHmax2Bf16C (c : CTwo) (s : State) : Host.Outcome State Fault Refusal := runHMinMax true (cTwoOf c) 1 true false false s
def execCvtfF32I32C (c : COne) (s : State) : Host.Outcome State Fault Refusal := runCvtf (cOneOf c) 1 .i32 .f32 .fpctl s
def execCvtfF32N32C (c : COne) (s : State) : Host.Outcome State Fault Refusal := runCvtf (cOneOf c) 1 .n32 .f32 .fpctl s
def execCvtiI32F32RzC (c : COne) (s : State) : Host.Outcome State Fault Refusal := runCvti (cOneOf c) 1 .f32 .i32 .rz s
def execCvtiN32F32RzC (c : COne) (s : State) : Host.Outcome State Fault Refusal := runCvti (cOneOf c) 1 .f32 .n32 .rz s

end Sys2Proof.Machine
end

