-- ==== Sys2Proof/Machine/Misc.lean ====
section
/-! DEFINITION. HASH, CRC32C, RAND and SPACK (07 R226 to R229) and CRC32C's C form. -/

namespace Sys2Proof.Machine

/-- HASH's mix of a key and a seed (R226). -/
def hashOf (k s : DWord) : DWord :=
  let z := k ^^^ ((s <<< 32) ||| s)
  let z := z + 0xD1B54A32D192ED03
  let z := (z ^^^ (z >>> 31)) * 0xA3C59AC2F6B1E5D7
  let z := (z ^^^ (z >>> 29)) * 0x8CB92BA72F3D8DD7
  z ^^^ (z >>> 32)

/-- HASH (R226). -/
def execHash (o : Two) (k64 h64 : Bool) (s : State) : Host.Outcome State Fault Refusal :=
  runAlu o.h (lenB o.b) false (twoOps o (nReg h64) (nReg k64) 1) (some o.a) (fun tm _ t =>
    .ok { regs := wrReg h64 o.d (hashOf (rdReg k64 t o.a) ((bVal tm t o.b).setWidth 64)) }) s

/-- The remainder advanced over the n low bytes of B (R227). -/
def crcBytes (b : Word) : Nat → Nat → Word → Word
  | 0, _, c => c
  | n + 1, i, c => crcBytes b n (i + 1) (iter crcBit 8 (c ^^^ ((b >>> (8 * i)) &&& 0xFF)))

/-- Bytes CRC32C takes. -/
def crcCount (w : CrcW) : Nat :=
  match w with
  | .b32 => 4
  | .b8 => 1
  | .b16 => 2

/-- CRC32C (R227). -/
def runCrc (o : Two) (len : Nat) (w : CrcW) (s : State) : Host.Outcome State Fault Refusal :=
  runAlu o.h len false (twoOps o 1 1 1) (some o.a) (fun tm _ t =>
    .ok { regs := [(o.d.toNat, crcBytes (bVal tm t o.b) (crcCount w) 0 (t.reg o.a.toNat))] }) s

def execCrc32c (o : Two) (w : CrcW) (s : State) : Host.Outcome State Fault Refusal := runCrc o (lenB o.b) w s
def execCrc32cC (c : CTwo) (s : State) : Host.Outcome State Fault Refusal := runCrc (cTwoOf c) 1 .b32 s

/-- RAND: one draw, whatever the width (R228). -/
def execRand (h : Hdr) (d : VReg) (b64 ext : Bool) (s : State) : Host.Outcome State Fault Refusal :=
  let key := s.curKey
  runAlu h (lenExt ext) false [vW d (nReg b64)] none (fun _ tid t =>
    .ok { regs := wrReg b64 d (t.draw64 key tid 0), draws := 1 }) s

/-- The rank key of an FP8 weight (R229): NaNs above every number, then the magnitude's code. -/
def packRank (f : Fmt) (x : Nat) : Nat :=
  match decodeF f x with
  | .nan _ => 256
  | .inf _ => x % 128
  | .fin _ _ _ => x % 128

/-- Element i is among the two ranked highest: fewer than two others rank above it, equal ranks going to the lower index
(R229). -/
def packKept (r : Nat → Nat) (i : Nat) : Bool :=
  ((upTo 4).filter fun j => j != i && (decide (r i < r j) || (r j == r i && decide (j < i)))).length < 2

/-- SPACK's result and whether a dropped element is not ±0 (R229). -/
def spackOf (f : Fmt) (a : Nat) : Nat × Bool :=
  let x (i : Nat) : Nat := bits a (8 * i + 7) (8 * i)
  let r (i : Nat) : Nat := packRank f (x i)
  let kept := (upTo 4).filter (packKept r)
  let k0 := kept.getD 0 0
  let k1 := kept.getD 1 0
  (x k0 + x k1 * 2 ^ 8 + k0 * 2 ^ 16 + k1 * 2 ^ 18, (upTo 4).any fun i => !packKept r i && x i % 128 != 0)

/-- SPACK (R229). -/
def execSpack (o : One) (e5 : Bool) (s : State) : Host.Outcome State Fault Refusal :=
  runAlu o.h (lenExt o.ext) false [vW o.d, vR o.a] (some o.a) (fun _ _ t =>
    let r := spackOf (if e5 then e5m2 else e4m3) (t.reg o.a.toNat).toNat
    .ok { regs := [(o.d.toNat, BitVec.ofNat 32 r.1)], flags := if r.2 then cNX else 0 }) s

end Sys2Proof.Machine
end

