-- ==== Sys2Proof/Machine/Lane.lean ====
section
/-! DEFINITION. The lane exchange unit: PART, the collectives and their results, and the hardware barriers (08 R231 to R250). -/

namespace Sys2Proof.Machine

/-- A result that one thread's engine has at issue, written when it arrives (R184). -/
def State.answer (s : State) (team tid : Nat) (h : Hdr) (pci : Pc) (kind : WinKind) (regs : List (Nat × Word)) : State :=
  let (id, s) := s.takeId
  s.openWin team tid (mkWin h id kind pci regs true)

/-- The positions of a thread's tile whose threads have not exited (R240). -/
def State.liveMask (s : State) (team size tile : Nat) : DWord :=
  BitVec.ofNat 64 ((((upTo size).filter fun i => match s.thread? team (tile * size + i) with
    | some t => t.st != .exited
    | none => false).map fun i => 2 ^ i).sum)

/-- PART (R240). -/
def execPart (h : Hdr) (op : PartOp) (d : VReg) (s : State) : Host.Outcome State Fault Refusal :=
  runLanes h 2 none [vW d (match op with
    | .live => 2
    | .pos => 1
    | .tile => 1
    | .size => 1)] none (fun _ team tm tid t s =>
    let z := tm.tileSize
    s.answer team tid h t.pc .engine (match op with
      | .pos => [(d.toNat, BitVec.ofNat 32 (tid % z))]
      | .tile => [(d.toNat, BitVec.ofNat 32 (tid / z))]
      | .size => [(d.toNat, BitVec.ofNat 32 z)]
      | .live => wr64 d.toNat (s.liveMask team z (tid / z)))) s

/-- VOTE (R241). -/
def execVote (h : Hdr) (op : VoteOp) (neg : Bool) (d : VReg) (pa : PReg) (b : SrcB) (s : State) :
    Host.Outcome State Fault Refusal :=
  let w : List VOp := match op with
    | .ballot => [vW d 2]
    | .all => []
    | .any => []
    | .uni => []
  let dst := match op with
    | .ballot => d.toNat
    | .all => predOf d
    | .any => predOf d
    | .uni => predOf d
  runColl h (lenB b) (w ++ srcOps b 2) none (.vote op neg) dst (fun tm t => bVal64 .zero tm t b) (fun t => (0, t.pred pa.toNat)) s

/-- PICK (R242). -/
def execPick (h : Hdr) (mode : PickMode) (delta : BitVec 6) (d a : VReg) (b : SrcB) (s : State) :
    Host.Outcome State Fault Refusal :=
  let at' : Bool := match mode with
    | .at => true
    | .below => false
    | .above => false
    | .flip => false
  runColl h (lenB b) (vW d :: vR a (nReg at') :: srcOps b 2) (some a) (.pick mode delta.toNat) d.toNat
    (fun tm t => bVal64 .zero tm t b) (fun t => (rdReg at' t a, false)) s

/-- TRED (R243). -/
def execTred (h : Hdr) (op : RedKind) (ty : RedTy) (d a : VReg) (b : SrcB) (s : State) : Host.Outcome State Fault Refusal :=
  runColl h (lenB b) (vW d :: vR a :: srcOps b 2) (some a) (.tred op ty) d.toNat
    (fun tm t => bVal64 .zero tm t b) (fun t => (rdReg false t a, false)) s

/-- TSCAN (R243). -/
def execTscan (h : Hdr) (op : RedKind) (ty : RedTy) (exc : Bool) (d a : VReg) (b : SrcB) (s : State) :
    Host.Outcome State Fault Refusal :=
  runColl h (lenB b) (vW d :: vR a :: srcOps b 2) (some a) (.tscan op ty exc) d.toNat
    (fun tm t => bVal64 .zero tm t b) (fun t => (rdReg false t a, false)) s

/-- MATCH (R244). -/
def execMatchEq (h : Hdr) (w64 : Bool) (d a : VReg) (b : SrcB) (s : State) : Host.Outcome State Fault Refusal :=
  runColl h (lenB b) (vW d 2 :: vR a (nReg w64) :: srcOps b 2) (some a) (.matchEq w64) d.toNat
    (fun tm t => bVal64 .zero tm t b) (fun t => (rdReg w64 t a, false)) s

/-- A collective's result is written, and a member parked on it is filed (R236). -/
def execCollectiveResult (s : State) : Host.Outcome State Fault Refusal :=
  let team := s.ev.team
  let tid := s.ev.tid
  match (s.thread? team tid).bind fun t => t.win? s.ev.win with
  | some w =>
    if w.kind = .coll ∧ w.ready ∧ !s.away team then
      let s := s.modThread team tid fun t => t.deliver w.id none
      .next (match s.thread? team tid with
        | some t => if t.st = .parked ∧ t.wait = 8 ∧ (t.waiting fun x => match x with
            | .coll _ => true
            | _ => false).isNone then s.file team tid 0 else s
        | none => s)
    else .next s
  | none => .next s

/-! ### Barriers (R246 to R250) -/

/-- Barriers granted to a thread at a level (R246). -/
def LaunchRec.granted (l : LaunchRec) (lvl : BarLevel) : Nat :=
  match lvl with
  | .team => 16
  | .clus => if l.clvl = 1 then l.bclus else 0
  | .die => if l.clvl = 2 ∨ l.clvl = 3 then l.bdie else 0
  | .pkg => if l.clvl = 4 ∨ l.clvl = 5 then l.bpkg else 0

/-- The scope of a barrier of a level (R246). -/
def Team.barScope (t : Team) (lvl : BarLevel) : Scope :=
  match lvl with
  | .team => if t.lr.pair then .clus else .core
  | .clus => .clus
  | .die => .die
  | .pkg => .pkg

/-- The barrier that a thread of a team names. -/
def barOf (team : Nat) (tm : Team) (lvl : BarLevel) (idx : Nat) : BarRef :=
  match lvl with
  | .team => .team team idx
  | .clus => .cohort tm.lid (tm.n / tm.lr.cn) idx
  | .die => .cohort tm.lid (tm.n / tm.lr.cn) idx
  | .pkg => .cohort tm.lid (tm.n / tm.lr.cn) idx

/-- The teams of cohort j of a launch: their handles. -/
def cohortHandles (lid j : Nat) (lr : LaunchRec) : List Nat :=
  ((upTo lr.cn).map (j * lr.cn + ·)).filterMap fun n => if n < lr.nteams then some (tHandle lid n) else none

/-- A cohort's barrier. -/
def State.cbar (s : State) (lid j idx : Nat) : CBar :=
  ((((s.launch? lid).bind fun l => l.cohorts.find j).bind fun c => c.bars[idx]?).getD { gen := 0, arr := [] })

/-- A barrier's generation G (R247). -/
def State.barGen (s : State) (b : BarRef) : Word :=
  match b with
  | .team t i => ((s.team? t).map fun tm => tm.tbg.getD i 0).getD 0
  | .cohort l j i => (s.cbar l j i).gen

/-- A team has arrived at a cohort barrier: each of its threads that has not exited has (R246). -/
def State.teamArrived (s : State) (b : CBar) (team : Nat) : Bool :=
  (s.threadsOf team).all fun x => x.2.st == .exited || b.arr.contains (team, x.1)

/-- The members a barrier expects, as (team, TID) or (team, 0), and those of them still to arrive in the open phase (R246,
R250). -/
def State.barMembers (s : State) (b : BarRef) : List Nat × List Nat :=
  match b with
  | .team t i =>
    let ms := (s.threadsOf t).filter fun x => x.2.st != .exited
    (ms.map (·.1), (ms.filter fun x => !x.2.barv.getLsbD i).map (·.1))
  | .cohort l j i =>
    match s.launch? l with
    | none => ([], [])
    | some x =>
      let gone := (x.cohorts.get j { inst := 0, bars := [], gone := [] }).gone
      let ms := (cohortHandles l j x.lr).filter fun h => !gone.contains (h % 2 ^ 24)
      let bar := s.cbar l j i
      (ms, ms.filter fun h => !(s.teamArrived bar h))

/-- A thread is marked arrived in the open phase; a second mark is ignored (R248). -/
def State.barMark (s : State) (team tid : Nat) (b : BarRef) : State :=
  match b with
  | .team _ i => s.modThread team tid fun t => { t with barv := t.barv ||| (1#16 <<< i) }
  | .cohort l j i =>
    s.modLaunch l fun x =>
      { x with cohorts := x.cohorts.mapKV fun k c =>
          if k = j then { c with bars := modAt c.bars i fun b => if b.arr.contains (team, tid) then b else { b with arr := b.arr ++ [(team, tid)] } }
          else c }

/-- The accesses an arrival releases: the thread's core, and every core of its team for a cohort barrier (R249). -/
def State.barRelease (s : State) (c : Nat) (tm : Team) (lvl : BarLevel) : State :=
  match lvl with
  | .team => s.release c tm.ctx (tm.barScope .team)
  | .clus => tm.cores.foldl (fun s k => s.release k tm.ctx .clus) s
  | .die => tm.cores.foldl (fun s k => s.release k tm.ctx .die) s
  | .pkg => tm.cores.foldl (fun s k => s.release k tm.ctx .pkg) s

/-- An arrival: the recorded generation where the arrival record names it; otherwise the release, the mark and the record (R237,
R248, R249). -/
def State.barArrive (s : State) (c team tid : Nat) (tm : Team) (t : Thread) (lvl : BarLevel) (idx : Nat) : Word × State :=
  match t.recorded t.pc with
  | some r => (loW r, s)
  | none =>
    let b := barOf team tm lvl idx
    let g := s.barGen b
    let s := ((s.tells team tid).barRelease c tm lvl).barMark team tid b
    (g, s.modThread team tid fun u => { u with arr := some { pci := t.pc, rcnt := t.rcnt, result := g.setWidth 64 } })

/-- A wait of a thread on phase g of a barrier: done at once, an acquire, or parked (R248, R249). -/
def State.barAwait (s : State) (c team tid : Nat) (tm : Team) (t : Thread) (h : Hdr) (lvl : BarLevel) (idx : Nat) (g : Word) : State :=
  let b := barOf team tm lvl idx
  if doneGen (s.barGen b) g then (s.learns team tid).acquire c tm.ctx (tm.barScope lvl)
  else
    let (id, s) := s.takeId
    s.openWait team tid (mkWin h id .sync t.pc [] false) (.bar b g)

/-- A barrier instruction on the live threads: an index that was not granted faults with IllegalEncoding (R246). -/
def runBar (h : Hdr) (lvl : BarLevel) (idx : BitVec 4) (vs : List VOp) (a : Option VReg)
    (f : Nat → Nat → Team → Nat → Thread → State → State) (s : State) : Host.Outcome State Fault Refusal :=
  runLanes h 2 none vs a (fun c team tm tid t s =>
    if tm.lr.granted lvl ≤ idx.toNat then s.takeTrap team tid (s.trapAt kIllegalEncoding 0 t.pc 2)
    else f c team tm tid t s) s

/-- BAR.ARV (R248). -/
def execBarArv (h : Hdr) (lvl : BarLevel) (idx : BitVec 4) (d : VReg) (s : State) : Host.Outcome State Fault Refusal :=
  runBar h lvl idx [vW d] none (fun c team tm tid t s =>
    let (g, s) := s.barArrive c team tid tm t lvl idx.toNat
    s.answer team tid h t.pc .engine [(d.toNat, g)]) s

/-- BAR.WAIT (R248). -/
def execBarWait (h : Hdr) (lvl : BarLevel) (idx : BitVec 4) (a : VReg) (s : State) : Host.Outcome State Fault Refusal :=
  runBar h lvl idx [vR a] (some a) (fun c team tm tid t s => s.barAwait c team tid tm t h lvl idx.toNat (t.reg a.toNat)) s

/-- BAR.SYNC (R248). -/
def execBarSync (h : Hdr) (lvl : BarLevel) (idx : BitVec 4) (s : State) : Host.Outcome State Fault Refusal :=
  runBar h lvl idx [] none (fun c team tm tid t s =>
    let (g, s) := s.barArrive c team tid tm t lvl idx.toNat
    s.barAwait c team tid tm t h lvl idx.toNat g) s

/-- BAR.Q: G, and the members still expected in its phase (R248). -/
def execBarQ (h : Hdr) (lvl : BarLevel) (idx : BitVec 4) (d : VReg) (s : State) : Host.Outcome State Fault Refusal :=
  runBar h lvl idx [vW d 2] none (fun _ team tm tid t s =>
    let b := barOf team tm lvl idx.toNat
    s.answer team tid h t.pc .engine [(d.toNat, s.barGen b), (d.toNat + 1, BitVec.ofNat 32 (s.barMembers b).2.length)]) s

/-- The phase of a barrier is complete: G advances and the arrivals are cleared (R247). -/
def State.barAdvance (s : State) (b : BarRef) : State :=
  match b with
  | .team t i =>
    (s.modTeam t fun x => { x with tbg := modAt x.tbg i (· + 1) }).modThreads t fun _ u => { u with barv := u.barv &&& ~~~(1#16 <<< i) }
  | .cohort l j i =>
    s.modLaunch l fun x =>
      { x with cohorts := x.cohorts.mapKV fun k c =>
          if k = j then { c with bars := modAt c.bars i fun b => { gen := b.gen + 1, arr := [] } } else c }

/-- The teams whose threads can wait on a barrier. -/
def State.barTeams (s : State) (b : BarRef) : List Nat :=
  match b with
  | .team t _ => [t]
  | .cohort l j _ => match s.launch? l with
    | some x => cohortHandles l j x.lr
    | none => []

/-- The level of a barrier of a team. -/
def barLevelOf' (l : LaunchRec) (b : BarRef) : BarLevel :=
  match b with
  | .team _ _ => .team
  | .cohort _ _ _ => if l.clvl = 1 then .clus else if l.clvl = 2 ∨ l.clvl = 3 then .die else .pkg

/-- Threads waiting on a phase that is done go on, each an acquire at the barrier's scope (R248, R249). -/
def State.barWake (s : State) (b : BarRef) : State :=
  (s.barTeams b).foldl (fun s team =>
    match s.team? team with
    | none => s
    | some tm =>
      (s.waiters team fun w => match w with
        | .bar b' g => b' == b && doneGen (s.barGen b) g
        | _ => false).foldl (fun s x =>
          ((s.learns team x.1).acquire (tm.coreOf x.1) tm.ctx (tm.barScope (barLevelOf' tm.lr b))).waitDone team x.1 x.2.id []) s) s

/-- Every expected member of the open phase has arrived (R247). -/
def State.barFull (s : State) (b : BarRef) : Bool :=
  let m := s.barMembers b
  !m.1.isEmpty && m.2.isEmpty

/-- A phase completes: G advances, the arrivals are cleared and the waiting threads go on (R247, R248). -/
def execBarrierPhaseComplete (s : State) : Host.Outcome State Fault Refusal :=
  .next (if s.barFull s.ev.bar then (s.barAdvance s.ev.bar).barWake s.ev.bar else s)

end Sys2Proof.Machine
end

