-- ==== Sys2Proof/Machine/MatSum.lean ====
section
/-! DEFINITION. The arithmetic of the matrix engine: elements, weights, block sums, output conversion and row reductions (04
R101, R102, R121, R122; 13 R354, R355, R367 to R371). -/

namespace Sys2Proof.Machine

/-- The floating-point format of an operand format; .i8 has none. -/
def mfFloat : MFmt → Option Fmt
  | .e4m3 => some e4m3
  | .e5m2 => some e5m2
  | .e2m1 => some e2m1
  | .bf16 => some bf16
  | .f16 => some fp16
  | .i8 => none

/-- The format of a code in a plane's state (R362). -/
def mfOfCode (n : Nat) : MFmt :=
  match n with
  | 0 => .e4m3
  | 1 => .e5m2
  | 2 => .e2m1
  | 3 => .bf16
  | 4 => .f16
  | _ => .i8

/-- Element i of packed bytes, as a value (R102). -/
def mElem (fmt : MFmt) (get : Nat → Byte) (i : Nat) : FVal :=
  match fmt with
  | .e4m3 => decodeF e4m3 (get i).toNat
  | .e5m2 => decodeF e5m2 (get i).toNat
  | .e2m1 => decodeF e2m1 (if i % 2 = 0 then (get (i / 2)).toNat % 16 else (get (i / 2)).toNat / 16)
  | .bf16 => decodeF bf16 ((get (2 * i)).toNat + 256 * (get (2 * i + 1)).toNat)
  | .f16 => decodeF fp16 ((get (2 * i)).toNat + 256 * (get (2 * i + 1)).toNat)
  | .i8 => intVal (get i).toInt

/-- The depth K of a plane (R35, R354). -/
def Plane.depth (p : Plane) : Nat :=
  if p.sparse then 1024
  else match mfOfCode p.fmt with
    | .e4m3 => 512
    | .e5m2 => 512
    | .e2m1 => 1024
    | .bf16 => 256
    | .f16 => 256
    | .i8 => 512

/-- The block length L (R121, R361). -/
def Plane.blockLen (p : Plane) : Nat :=
  match mfOfCode p.fmt with
  | .e4m3 => 32
  | .e5m2 => 32
  | .e2m1 => 32
  | .bf16 => 16
  | .f16 => 16
  | .i8 => 64

/-- Where the side data of an image begins (R383). -/
abbrev sideAt : Nat := 131072

/-- The metadata nibble of group g, column n (R354). -/
def metaNibble (img : Nat → Byte) (g n : Nat) : Nat :=
  let b := (img (sideAt + 128 * g + n / 2)).toNat
  if n % 2 = 0 then b % 16 else b / 16

/-- The kept positions k0 − 4g and k1 − 4g of a nibble; one with k0 ≥ k1 is read as 0b0100 (R354). -/
def keptOf (nib : Nat) : Nat × Nat := if nib / 4 % 4 ≤ nib % 4 then (0, 1) else (nib % 4, nib / 4 % 4)

/-- The weight at depth k, column n (R354). -/
def Plane.weight (p : Plane) (img : Nat → Byte) (k n : Nat) : FVal :=
  if p.sparse then
    let (k0, k1) := keptOf (metaNibble img (k / 4) n)
    if k % 4 = k0 then mElem (mfOfCode p.fmt) img (256 * (k / 4 * 2) + n)
    else if k % 4 = k1 then mElem (mfOfCode p.fmt) img (256 * (k / 4 * 2 + 1) + n)
    else .fin false 0 0
  else mElem (mfOfCode p.fmt) img (256 * k + n)

/-- The E8M0 code of the scale of the weight at (k, n); 127, which is 1, for a plane without scales (R101, R354, R365). -/
def Plane.scale (p : Plane) (img : Nat → Byte) (k n : Nat) : Nat :=
  if p.sparse || !(scaleUsed (mfOfCode p.fmt) p.ns) then 127 else (img (sideAt + 256 * (k / 32) + n)).toNat

/-- A product a × w × 2^(sa − 127) × 2^(sw − 127): a NaN for a NaN factor, a scale of 0xFF or 0 × ∞; an integer product of
zero is +0 (R121, R122). -/
def mProd (fmt : MFmt) (a w : FVal) (sa sw : Nat) : FVal :=
  if sa = 255 ∨ sw = 255 then .nan false
  else
    match prodVal a w with
    | none => .nan false
    | some (.fin n m e) => .fin (n && !(fmt == .i8 && m == 0)) m (e + sa + sw - 254)
    | some (.inf n) => .inf n
    | some (.nan s) => .nan s

/-- The exact sum of two values (R122): a NaN with a NaN or with both infinities; a zero sum is −0 only of two −0. -/
def mAdd (x y : FVal) : FVal :=
  match x, y with
  | .nan _, _ => .nan false
  | _, .nan _ => .nan false
  | .inf s, .inf t => if s = t then .inf s else .nan false
  | .inf s, .fin _ _ _ => .inf s
  | .fin _ _ _, .inf t => .inf t
  | .fin n1 m1 e1, .fin n2 m2 e2 =>
    let (n, m, e) := addExact n1 m1 e1 n2 m2 e2
    if m = 0 then .fin (n1 && n2 && m1 == 0 && m2 == 0) 0 0 else .fin n m e

/-- The exact sum of a block's products. -/
def mSum (l : List FVal) : FVal := l.foldl mAdd (.fin true 0 0)

/-- Round(x + y, FP32, RN) of FP32 codes (R103, R104). -/
def add32 (x y : Word) : Word := BitVec.ofNat 32 (addVal fp32 .rn 0 (decodeF fp32 x.toNat) (decodeF fp32 y.toNat)).code

/-- The block sum of block j of column n, rounded once (R122): `row` gives the A row's bytes, `sc` its scale codes. -/
def Plane.blockSum (p : Plane) (img : Nat → Byte) (fmt : MFmt) (row : Nat → Byte) (sc : Nat → Nat) (n j : Nat) : Word :=
  let s := mSum ((upTo p.blockLen).map fun i =>
    let k := j * p.blockLen + i
    mProd fmt (mElem fmt row k) (p.weight img k n) (sc (k / 32)) (p.scale img k n))
  BitVec.ofNat 32 (cvtVal fp32 .rn false 0 s).code

/-- The loop of R122 for column n from a starting value. -/
def Plane.dot (p : Plane) (img : Nat → Byte) (fmt : MFmt) (row : Nat → Byte) (sc : Nat → Nat) (n : Nat) (acc : Word) : Word :=
  (upTo (p.depth / p.blockLen)).foldl (fun acc j => add32 acc (p.blockSum img fmt row sc n j)) acc

/-- The A formats a plane's format accepts (R361). -/
def Plane.accepts (p : Plane) (fmt : MFmt) : Bool :=
  match mfOfCode p.fmt, fmt with
  | .e4m3, .e4m3 => true
  | .e4m3, .e5m2 => true
  | .e5m2, .e4m3 => true
  | .e5m2, .e5m2 => true
  | .e2m1, .e2m1 => true
  | .bf16, .bf16 => true
  | .f16, .f16 => true
  | .i8, .i8 => true
  | _, _ => false

/-! ### Output conversion and reductions (R370, R371) -/

/-- The format of MACST's output. -/
def ofFmt : OFmt → Fmt
  | .f32 => fp32
  | .bf16 => bf16
  | .f16 => fp16
  | .e4m3 => e4m3
  | .e5m2 => e5m2

/-- Bytes of an output element. -/
def ofBytesN : OFmt → Nat
  | .f32 => 4
  | .bf16 => 2
  | .f16 => 2
  | .e4m3 => 1
  | .e5m2 => 1

/-- The rounding mode of MACST (R363, R370). -/
def stMode : StRm → RMode
  | .dflt => .rn
  | .rn => .rn
  | .rz => .rz
  | .ru => .ru
  | .rd => .rd

/-- Round(2^d, f, mode) of the exact power, rounded once (R370; log 14). -/
def pow2To (f : Fmt) (mode : RMode) (sat : Bool) (d : FVal) : Nat :=
  match d with
  | .nan _ => canonNaN f
  | .inf n => if n then 0 else (cvtVal f mode sat 0 (.inf false)).code
  | .fin n m e =>
    if m = 0 then (roundTo f mode sat 0 false 1 0).code
    else if 9 < (bitLen m : Int) + e then
      if n then (roundFin f mode sat 0 false 1 (-400) true).code else (overflowRes f false mode sat).code
    else
      let (r, k, ex) := exp2Raw n m e
      if ex then (roundFin f mode sat 0 false r k false).code
      else
        let (r, k) := cut r k
        (roundFin f mode sat 0 false r k true).code

/-- The element that MACST writes for a column, under the row's vector value if there is one (R370). -/
def macstElem (o : OFmt) (mode : RMode) (sat : Bool) (vec : Option Word) (x : Word) : Nat :=
  match vec with
  | some m => pow2To (ofFmt o) mode sat
      (decodeF fp32 (addVal fp32 .rn 0 (decodeF fp32 x.toNat) (decodeF fp32 (prepSign fp32 false true m.toNat))).code)
  | none => if o = .f32 then x.toNat else (cvtVal (ofFmt o) mode sat 0 (decodeF fp32 x.toNat)).code

/-- MROW's reduction of a row from its starting value (R371). -/
def mrowReduce (op : RowOp) (init : Word) (row : List Word) : Word :=
  row.foldl (fun s x => match op with
    | .sum => add32 s x
    | .max => BitVec.ofNat 32 (minMaxF fp32 true s.toNat x.toNat).code
    | .amax => BitVec.ofNat 32 (minMaxF fp32 true s.toNat (x.toNat % 2 ^ 31)).code) init

/-- The starting value of a reduction without ACC (R371). -/
def mrowInit : RowOp → Word
  | .sum => 0x80000000
  | .max => 0xFF800000
  | .amax => 0xFF800000

end Sys2Proof.Machine
end

