-- ==== Sys2Proof/Machine/MatOps.lean ====
section
/-! DEFINITION. The matrix engine's planes, accumulator rows and queue: what an operation does, its entry, its start and its
completion (13 R350 to R361, R365 to R372, R375, R378, R381). -/

namespace Sys2Proof.Machine

/-! ### Places (R352, R353) -/

/-- The engine part of a team's scratchpad: its first offset and the end (R353). -/
def Team.enginePart (t : Team) (e : Nat) : Nat × Nat :=
  let s := t.lr.scratch
  if t.lr.pair then (if e = 0 then (0, s / 2) else (s / 2, s)) else (0, s)

/-- n bytes at an offset lie in the engine's part. -/
def Team.inPart (t : Team) (e off n : Nat) : Bool := (t.enginePart e).1 ≤ off && off + n ≤ (t.enginePart e).2

def Team.engine (t : Team) (e : Nat) : Engine := t.eng.getD e Engine.init
def Team.modEngine (t : Team) (e : Nat) (f : Engine → Engine) : Team := { t with eng := modAt t.eng e f }

/-- The columns of an accumulator row. -/
def Engine.row (e : Engine) (r : Nat) : List Word := spGetN e.acc (256 * r) 256

/-- An accumulator row replaced; its poison is gone (R409). -/
def Engine.setRow (e : Engine) (r : Nat) (l : List Word) : Engine :=
  { e with acc := spPutN e.acc (256 * r) l, poisonAcc := e.poisonAcc.filter fun k => k / 256 != r }

/-- Rows from r on replaced by unspecified values (R6, R151). -/
def State.freeRows (s : State) (team e : Nat) (rows : List Nat) : State :=
  rows.foldl (fun s r =>
    { s.modTeam team fun t => t.modEngine e fun k =>
        k.setRow r ((upTo 256).map fun i => (Config.freeWord (s.fresh + i)).setWidth 32) with fresh := s.fresh + 256 }) s

/-- The dense bytes of a sparse image, for reading many of them. -/
def spDense : List (Nat × Byte) → Nat → Nat → List Byte
  | _, _, 0 => []
  | [], k, n + 1 => 0 :: spDense [] (k + 1) n
  | (j, x) :: r, k, n + 1 => if j = k then x :: spDense r (k + 1) n else 0 :: spDense ((j, x) :: r) (k + 1) n

/-- The 163,840 bytes of an image (R383). -/
def imgBytes (t : Tbl Byte) : Array Byte := (spDense t 0 163840).toArray

/-- A byte of an image. -/
def imgGet (a : Array Byte) (i : Nat) : Byte := a.getD i 0

/-- The image of consecutive bytes. -/
def imgOf : Nat → List Byte → Tbl Byte
  | _, [] => []
  | k, x :: r => if x = 0 then imgOf (k + 1) r else (k, x) :: imgOf (k + 1) r

/-! ### Reading poison (R412) -/

/-- The accumulator rows that an operation reads. -/
def MKind.accReads (t : Team) : MKind → List Nat
  | .mldw _ _ _ _ _ => []
  | .mldws _ _ _ _ => []
  | .mswap => []
  | .mma _ _ _ z row0 m _ _ _ => if z then [] else (upTo m).map (row0 + ·)
  | .mgmm _ _ _ _ q n _ _ _ => (upTo n).map fun i => t.sNat (q + 4 * i) 4
  | .mclr _ _ => []
  | .macld acc row0 m _ _ => if acc then (upTo m).map (row0 + ·) else []
  | .macst _ _ _ _ _ row0 m _ _ _ => (upTo m).map (row0 + ·)
  | .macrd ls => ls.map fun l => l.2.2.1
  | .mrow _ _ row0 m _ => (upTo m).map (row0 + ·)

/-- The operation reads the front plane. -/
def MKind.readsPlane : MKind → Bool
  | .mma _ _ _ _ _ _ _ _ _ => true
  | .mgmm _ _ _ _ _ _ _ _ _ => true
  | .mldw _ _ _ _ _ => false
  | .mldws _ _ _ _ => false
  | .mswap => false
  | .mclr _ _ => false
  | .macld _ _ _ _ _ => false
  | .macst _ _ _ _ _ _ _ _ _ _ => false
  | .macrd _ => false
  | .mrow _ _ _ _ _ => false

/-- The location code of poison that an operation reads, if it reads any (R412, R418). -/
def MOp.poison (o : MOp) (t : Team) : Option Nat :=
  let k := t.engine o.e
  if (o.kind.reads t).any fun p => t.sPoisoned p.1 p.2 then some 7
  else if (o.kind.accReads t).any (fun r => k.poisonAcc.any fun a => a / 256 == r) || (o.kind.readsPlane && !k.poisonFront.isEmpty)
    then some 8
  else none

/-! ### Effects of operations (R365 to R372) -/

/-- The scale codes of an A row; 1 throughout where none are read (R355). -/
def rowScales (t : Team) (fmt : MFmt) (ns : Bool) (sc : Nat) : Nat → Nat :=
  if scaleUsed fmt ns then (fun j => (t.sNat (sc + j) 1)) else fun _ => 127

/-- One A row against the front plane into an accumulator row (R367, R368). -/
def Engine.product (k : Engine) (img : Nat → Byte) (t : Team) (pl : Plane) (fmt : MFmt) (ns z : Bool) (a sc row : Nat) : Engine :=
  let bytes := (t.sRead a pl.rowBytes).toArray
  let scales := rowScales t fmt ns sc
  let old := (k.row row).toArray
  k.setRow row ((upTo 256).map fun n => pl.dot img fmt (fun i => bytes.getD i 0) scales n (if z then 0 else old.getD n 0))

/-- What an entry of MGMM does: a skip by its gather or its scatter entry, or a product of row g into row q (R368). -/
inductive GEntry where
  | skipG | skipS
  | go (g q : Nat)
deriving DecidableEq, Repr

/-- Entry i of MGMM's lists (R368). -/
def gEntry (t : Team) (e : Nat) (pl : Plane) (fmt : MFmt) (ns : Bool) (g q a stride sc i : Nat) : GEntry :=
  let out (x : Nat) : Bool := x < (t.enginePart e).1 || (t.enginePart e).2 ≤ x
  if out (g + 4 * i + 3) || out (q + 4 * i + 3) then .skipG
  else
    let gi := t.sNat (g + 4 * i) 4
    let qi := t.sNat (q + 4 * i) 4
    if !(t.inPart e (a + gi * stride) pl.rowBytes) || (scaleUsed fmt ns && !(t.inPart e (sc + 32 * gi) (pl.scaleBytes fmt))) then .skipG
    else if t.lr.accrows ≤ qi then .skipS
    else .go gi qi

/-- MSTAT bits (R379). -/
abbrev mSkipG : BitVec 5 := 1
abbrev mSkipS : BitVec 5 := 2
abbrev mClip : BitVec 5 := 4
abbrev mMeta : BitVec 5 := 8
abbrev mDrop : BitVec 5 := 16

/-- MGMM's entries in list order (R368). -/
def Engine.gather (k : Engine) (img : Nat → Byte) (t : Team) (e : Nat) (pl : Plane) (fmt : MFmt) (ns : Bool) (g q n a stride sc : Nat) :
    Engine :=
  (upTo n).foldl (fun k i => match gEntry t e pl fmt ns g q a stride sc i with
    | .skipG => { k with mstat := k.mstat ||| mSkipG }
    | .skipS => { k with mstat := k.mstat ||| mSkipS }
    | .go gi qi => k.product img t pl fmt ns false (a + gi * stride) (sc + 32 * gi) qi) k

/-- The rows that MGMM's entries change, and the MSTAT bits that those it skips set (R368). -/
def gatherDone (t : Team) (e : Nat) (pl : Plane) (fmt : MFmt) (ns : Bool) (g q n a stride sc : Nat) : List Nat × BitVec 5 :=
  (upTo n).foldl (fun r i => match gEntry t e pl fmt ns g q a stride sc i with
    | .skipG => (r.1, r.2 ||| mSkipG)
    | .skipS => (r.1, r.2 ||| mSkipS)
    | .go _ qi => (if r.1.contains qi then r.1 else qi :: r.1, r.2)) ([], 0)

/-- The image that a load reads: 256 segments and the side data (R354, R365). -/
def loadImage (t : Team) (img stride side n : Nat) : List Byte :=
  ((upTo 256).flatMap fun j => t.sRead (img + j * stride) 512) ++ t.sRead side n

/-- Some metadata nibble has k0 ≥ k1 (R354). -/
def badMeta (b : List Byte) : Bool :=
  (b.drop sideAt).any fun x => decide (x.toNat / 4 % 4 ≤ x.toNat % 4) || decide (x.toNat / 64 ≤ x.toNat / 16 % 4)

/-- A row of MACLD (R369). -/
def macldRow (acc : Bool) (old : List Word) (t : Team) (off : Nat) : List Word :=
  (upTo 256).map fun n =>
    let x : Word := BitVec.ofNat 32 (t.sNat (off + 4 * n) 4)
    if acc then add32 (old.getD n 0) x else x

/-- The scratchpad writes of MACST, as offset and length (R370). -/
def macstPlaces (o : OFmt) (m a stride : Nat) : List (Nat × Nat) := pieces a stride m (256 * ofBytesN o)

/-- The scratchpad writes of MACST, element by element: each reads its row's word of the row vector as the scratchpad then stands
(R370). -/
def macstWrites (k : Engine) (t : Team) (o : OFmt) (sx sat : Bool) (rm : StRm) (row0 m a stride vec : Nat) : List (Nat × List Byte) :=
  ((upTo m).foldl (fun (r : Team × List (Nat × List Byte)) i =>
    ((k.row (row0 + i)).foldl (fun (r : (Team × List (Nat × List Byte)) × Nat) x =>
      let v : Option Word := if sx then some (BitVec.ofNat 32 (r.1.1.sNat (vec + 4 * i) 4)) else none
      let b := toBytes (ofBytesN o) (macstElem o (stMode rm) sat v x)
      ((r.1.1.sWrite r.2 b, (r.2, b) :: r.1.2), r.2 + ofBytesN o)) (r, a + i * stride)).1) (t, [])).2.reverse

/-- The scratchpad writes of MROW (R371). -/
def mrowWrites (k : Engine) (t : Team) (op : RowOp) (acc : Bool) (row0 m a : Nat) : List (Nat × List Byte) :=
  (upTo m).map fun i =>
    let init : Word := if acc then BitVec.ofNat 32 (t.sNat (a + 4 * i) 4) else mrowInit op
    (a + 4 * i, toBytes 4 (mrowReduce op init (k.row (row0 + i))).toNat)

/-- An engine's scratchpad writes. -/
def State.matWrites (s : State) (team : Nat) (l : List (Nat × List Byte)) : State :=
  s.modTeam team fun t => l.foldl (fun t w => t.sWrite w.1 w.2) t

/-- Scratchpad writes of unspecified bytes at places given as offset and length (R151). -/
def State.matWritesFree (s : State) (team : Nat) (l : List (Nat × Nat)) : State :=
  l.foldl (fun s w => let (b, s) := s.freeBytes w.2; s.matWrites team [(w.1, b)]) s


/-- MACRD's quads: each lane's window has its values (R372). -/
def State.macrdRead (s : State) (team : Nat) (k : Engine) (ls : List (Nat × Nat × Nat × Nat × Nat)) : State :=
  ls.foldl (fun s l =>
    let (tid, win, row, col, dst) := l
    s.modThread team tid fun t =>
      (t.result win ((upTo 4).map fun j => (dst + j, spGet k.acc (256 * row + col + j)))).afterWin) s

/-- What an operation does, on data that its team's fences cover (R365 to R372). -/
def State.matDo (s : State) (o : MOp) (t : Team) : State :=
  let k := t.engine o.e
  let eng (f : Engine → Engine) : State := s.modTeam o.team fun t => t.modEngine o.e f
  match o.kind with
  | .mldw fmt ns side img stride =>
    eng fun k => { k with shadowImg := imgOf 0 (loadImage t img stride side (sideBytes fmt ns)), poisonShadow := [] }
  | .mldws _ side img stride =>
    let b := loadImage t img stride side 32768
    eng fun k => { k with shadowImg := imgOf 0 b, poisonShadow := [], mstat := if badMeta b then k.mstat ||| mMeta else k.mstat }
  | .mswap =>
    eng fun k => { k with frontImg := k.shadowImg, shadowImg := k.frontImg, poisonFront := k.poisonShadow, poisonShadow := k.poisonFront }
  | .mma pl fmt ns z row0 m a stride sc =>
    let img := imgBytes k.frontImg
    eng fun k => (upTo m).foldl (fun k i => k.product (imgGet img) t pl fmt ns z (a + i * stride) (sc + 32 * i) (row0 + i)) k
  | .mgmm pl fmt ns g q n a stride sc =>
    let img := imgBytes k.frontImg
    eng fun k => k.gather (imgGet img) t o.e pl fmt ns g q n a stride sc
  | .mclr row0 m => eng fun k => (upTo m).foldl (fun k i => k.setRow (row0 + i) (List.replicate 256 0)) k
  | .macld acc row0 m a stride =>
    eng fun k => (upTo m).foldl (fun k i => k.setRow (row0 + i) (macldRow acc (k.row (row0 + i)) t (a + i * stride))) k
  | .macst of sx sat clr rm row0 m a stride vec =>
    let s := s.matWrites o.team (macstWrites k t of sx sat rm row0 m a stride vec)
    if clr then s.modTeam o.team fun t => t.modEngine o.e fun k =>
      (upTo m).foldl (fun k i => k.setRow (row0 + i) (List.replicate 256 0)) k
    else s
  | .macrd ls => s.macrdRead o.team k ls
  | .mrow op acc row0 m a => s.matWrites o.team (mrowWrites k t op acc row0 m a)

/-- Unspecified bits of MSTAT among those given are set. -/
def State.freeMstat (s : State) (team e : Nat) (bits : BitVec 5) : State :=
  { s.modTeam team fun t => t.modEngine e fun k => { k with mstat := k.mstat ||| (bits &&& (Config.freeWord s.fresh).setWidth 5) } with
    fresh := s.fresh + 1 }

/-- A team's scratchpad with bytes laid over it, oldest write last. -/
def Team.laid (t : Team) (l : List (Nat × List Byte)) : Team := l.foldl (fun t w => t.sWrite w.1 w.2) t

/-- A spoiled MGMM: rows that an entry names by the lists as they stand or stood are unspecified; an entry that both skip changes no
row (R151, R368; log 20). -/
def State.gatherSpoiled (s : State) (team e : Nat) (now then' : List Nat × BitVec 5) : State :=
  let s := s.freeRows team e (distinct (now.1 ++ then'.1))
  let s := s.modTeam team fun t => t.modEngine e fun k => { k with mstat := k.mstat ||| (now.2 &&& then'.2) }
  s.freeMstat team e (now.2 ||| then'.2)

/-- What a spoiled operation does: what it would have computed from the bytes it reads is unspecified (R151; log 20). -/
def State.matSpoiled (s : State) (o : MOp) (t : Team) : State :=
  let load (n : Nat) (s : State) : State :=
    let (b, s) := s.freeBytes (sideAt + n)
    s.modTeam o.team fun t => t.modEngine o.e fun k => { k with shadowImg := imgOf 0 b, poisonShadow := [] }
  match o.kind with
  | .mldw fmt ns _ _ _ => load (sideBytes fmt ns) s
  | .mldws _ _ _ _ => (load 32768 s).freeMstat o.team o.e mMeta
  | .mswap => s.matDo o t
  | .mma _ _ _ _ row0 m _ _ _ => s.freeRows o.team o.e ((upTo m).map (row0 + ·))
  | .mgmm pl fmt ns g q n a stride sc =>
    s.gatherSpoiled o.team o.e (gatherDone t o.e pl fmt ns g q n a stride sc) (gatherDone (t.laid o.spoiled) o.e pl fmt ns g q n a stride sc)
  | .mclr _ _ => s.matDo o t
  | .macld _ row0 m _ _ => s.freeRows o.team o.e ((upTo m).map (row0 + ·))
  | .macst of _ _ clr _ row0 m a stride _ =>
    let s := s.matWritesFree o.team (macstPlaces of m a stride)
    if clr then s.modTeam o.team fun t => t.modEngine o.e fun k =>
      (upTo m).foldl (fun k i => k.setRow (row0 + i) (List.replicate 256 0)) k
    else s
  | .macrd _ => s.matDo o t
  | .mrow _ _ _ m a => s.matWritesFree o.team (pieces a 4 m 4)

/-- The scratchpad as an operation reads it: each byte of a write that no fence covered when it entered as it stands, or as it stood
before (R377). -/
def State.staleTeam (s : State) (o : MOp) (t : Team) : Team × State :=
  o.stale.foldl (fun r w =>
    let (f, s) := r.2.freeBytes w.2.length
    let now := r.1.sRead w.1 w.2.length
    (r.1.sWrite w.1 ((upTo w.2.length).map fun i => if (f.getD i 0).getLsbD 0 then w.2.getD i 0 else now.getD i 0), s)) (t, s)

/-! ### Waiting threads (R378) -/

/-- An MWAIT on engine e returns for a thread: the quads of the MACRDs it covers are written (R372). -/
def Thread.covered (t : Thread) (e before : Nat) : Thread :=
  let due := t.wins.filter fun w => (w.kind == .macrd e || w.kind == .landed e) && w.ready && decide (w.id < before)
  due.foldl (fun t w => t.deliver w.id none) t

/-- CMP has reached a count (R360). -/
def cmpReached (cmp ent : Nat) : Bool := (cmp + 2 ^ 32 - ent) % 2 ^ 32 < 2 ^ 31

/-- The threads of a team that wait for operations of engine e, or for generations, go on where they may; each is an acquire at
.core (R378). -/
def State.matWake (s : State) (team : Nat) : State :=
  match s.team? team with
  | none => s
  | some tm =>
    let holds (w : Wait) : Bool := match w with
      | .matrix e ent => cmpReached (tm.engine e).cmp ent
      | .conv n gen => doneGen (tm.c.getD n { size := 0, count := 0, gen := 0, done := 0 }).done gen
      | _ => false
    (s.waiters team holds).foldl (fun s x =>
      let s := ((s.learns team x.1).acquire (tm.coreOf x.1) tm.ctx .core).waitDone team x.1 x.2.id []
      match x.2.wait with
      | some (.matrix e _) => s.modThread team x.1 fun t => t.covered e x.2.id
      | _ => s) s

/-! ### Generations (R373, R375) -/

/-- The operations of a team in the queues of its cores. -/
def State.teamOps (s : State) (team : Nat) (tm : Team) : List MOp :=
  tm.cores.flatMap fun c => (s.core c).matq.filter fun o => o.team == team

/-- DONE after every generation whose operation, if any, is complete: the oldest generation that still has one, else GEN (R375). -/
def doneAfter (c : CReg) (pending : List Word) : Word :=
  match sortBy (fun g => (g - c.done).toNat) pending with
  | g :: _ => g
  | [] => c.gen

/-- DONE of convergence register n brought up to date, and the threads it releases go on (R375, R378). -/
def State.advanceDone (s : State) (team n : Nat) : State :=
  match s.team? team with
  | none => s
  | some tm =>
    let pend := (s.teamOps team tm).filterMap fun o => match o.conv with
      | some (m, g) => if m = n then some g else none
      | none => none
    (s.modTeam team fun t => { t with c := modAt t.c n fun c => { c with done := doneAfter c pend } }).matWake team

/-! ### Entry, start and completion (R357 to R361) -/

/-- The core of a team's engine (R353). -/
def Team.engCore (t : Team) (e : Nat) : Nat := t.core + e

/-- Free entries of a core's matrix queue (R350). -/
def Core.matFree (k : Core) : Nat := 32 - k.matq.length

/-- The issue-side plane state after an operation's entry (R361). -/
def Engine.planesAfter (k : Engine) : MKind → Engine
  | .mldw fmt ns _ _ _ => { k with shadow := { valid := true, fmt := fmt.code.toNat, ns := ns, sparse := false } }
  | .mldws e5m2 _ _ _ => { k with shadow := { valid := true, fmt := if e5m2 then 1 else 0, ns := false, sparse := true } }
  | .mswap => { k with front := k.shadow, shadow := k.front }
  | .mma _ _ _ _ _ _ _ _ _ => k
  | .mgmm _ _ _ _ _ _ _ _ _ => k
  | .mclr _ _ => k
  | .macld _ _ _ _ _ => k
  | .macst _ _ _ _ _ _ _ _ _ _ => k
  | .macrd _ => k
  | .mrow _ _ _ _ _ => k

/-- An operation enters its engine's queue (R357, R360): ENT counts it, the issue-side plane state follows, and it keeps what the
bytes held that no fence or signature covers yet (R150, R377). -/
def State.matEnter (s : State) (team e : Nat) (kind : MKind) (owner : Nat) (conv : Option (Nat × Word)) (pc : Pc) : State :=
  match s.team? team with
  | none => s
  | some tm =>
    let (id, s) := s.takeId
    let o : MOp := { id := id, team := team, e := e, kind := kind, owner := some owner, conv := conv, entered := s.clk
                     started := false, stale := tm.unfenced.map fun (u : Unfenced) => (u.off, u.old), spoiled := [], pc := pc }
    let s := s.modTeam team fun t => t.modEngine e fun k => { k.planesAfter kind with ent := (k.ent + 1) % 2 ^ 32 }
    s.modCore (tm.engCore e) fun k => { k with matq := k.matq ++ [o] }

/-- The operation exchanges or loads planes. -/
def MKind.loads : MKind → Bool
  | .mldw _ _ _ _ _ => true
  | .mldws _ _ _ _ => true
  | .mswap => false
  | .mma _ _ _ _ _ _ _ _ _ => false
  | .mgmm _ _ _ _ _ _ _ _ _ => false
  | .mclr _ _ => false
  | .macld _ _ _ _ _ => false
  | .macst _ _ _ _ _ _ _ _ _ _ => false
  | .macrd _ => false
  | .mrow _ _ _ _ _ => false

/-- The operation is MSWAP. -/
def MKind.swaps (k : MKind) : Bool := k == .mswap

/-- An operation may start behind the earlier ones of its queue (R360). -/
def mayStart (earlier : List MOp) (o : MOp) (now : Nat) : Bool :=
  o.entered + 8 ≤ now && earlier.all (·.started)
    && (!o.kind.swaps || earlier.isEmpty)
    && (!o.kind.loads || earlier.all fun x => !x.kind.swaps && !x.kind.loads)
    && (!o.kind.readsPlane || earlier.all fun x => !x.kind.swaps && !x.kind.readsPlane)

/-- The operations of a queue before the one with an identifier. -/
def earlierOps (q : List MOp) (id : Nat) : List MOp := q.takeWhile fun o => o.id != id

/-- An operation starts (R360). -/
def State.matStart (s : State) (core id : Nat) : State :=
  s.modCore core fun k => { k with matq := k.matq.map fun o => if o.id == id then { o with started := true } else o }

/-- What an operation does, on the bytes that it reads (R365 to R372, R377). -/
def State.matRun (s : State) (o : MOp) (t : Team) : State :=
  if o.stale.isEmpty then s.matDo o t
  else let (u, s) := s.staleTeam o t; s.matDo o u

/-- A factor that the checksum column takes: neither a NaN nor an infinity (R380). -/
def FVal.finite : FVal → Bool
  | .fin _ _ _ => true
  | .inf _ => false
  | .nan _ => false

/-- Block j of an A row is compared with the checksum column: it has no NaN, no infinity and no scale of 0xFF (R380). -/
def Plane.compared (p : Plane) (img : Nat → Byte) (fmt : MFmt) (row : Nat → Byte) (sc : Nat → Nat) (j : Nat) : Bool :=
  (upTo p.blockLen).all fun i =>
    let k := j * p.blockLen + i
    (mElem fmt row k).finite && sc (k / 32) != 255
      && (upTo 256).all fun n => (p.weight img k n).finite && p.scale img k n != 255

/-- The A rows of an operation, each with its scales' base: those of MMA, and those of the entries that MGMM does not skip (R367,
R368). -/
def MOp.aRows (o : MOp) (t : Team) : List (Nat × Nat) :=
  match o.kind with
  | .mma _ _ _ _ _ m a stride sc => (upTo m).map fun i => (a + i * stride, sc + 32 * i)
  | .mgmm pl fmt ns g q n a stride sc => (upTo n).filterMap fun i => match gEntry t o.e pl fmt ns g q a stride sc i with
    | .go gi _ => some (a + gi * stride, sc + 32 * gi)
    | .skipG => none
    | .skipS => none
  | _ => []

/-- Some block of an operation's A rows is compared with the checksum column (R380). -/
def MOp.checked (o : MOp) (t : Team) : Bool :=
  let img (i : Nat) : Byte := spGet (t.engine o.e).frontImg i
  let go (pl : Plane) (fmt : MFmt) (ns : Bool) : Bool := (o.aRows t).any fun r =>
    let bytes := (t.sRead r.1 pl.rowBytes).toArray
    (upTo (pl.depth / pl.blockLen)).any fun j => pl.compared img fmt (fun i => bytes.getD i 0) (rowScales t fmt ns r.2) j
  match o.kind with
  | .mma pl fmt ns _ _ _ _ _ _ => go pl fmt ns
  | .mgmm pl fmt ns _ _ _ _ _ _ => go pl fmt ns
  | _ => false

/-- An operation at the head of its queue completes: its effect, or the consumption of the poison it reads, then CMP, DONE and
the threads that wait (R360, R375, R378, R412). -/
def State.matComplete (s : State) (core : Nat) (o : MOp) : State :=
  let s := s.modCore core fun k => { k with matq := k.matq.filter fun x => x.id != o.id }
  match s.team? o.team with
  | none => s
  | some tm =>
    match o.poison tm with
    | some loc => s.consume o.team (o.owner.getD 0) o.pc loc 0
    | none =>
      let s := if o.spoiled.isEmpty then s.matRun o tm else s.matSpoiled o tm
      let s := s.modTeam o.team fun t => t.modEngine o.e fun k => { k with cmp := (k.cmp + 1) % 2 ^ 32 }
      let s := match o.conv with
        | some (n, _) => s.advanceDone o.team n
        | none => s
      s.matWake o.team

/-- Every operation of a core's queue completes, in queue order (R60, R196). -/
def State.matDrain (s : State) (core : Nat) : State :=
  (s.core core).matq.foldl (fun s o => s.matComplete core o) s

/-- A queued operation starts, once R360 lets it. -/
def execMatrixOperationStart (s : State) : Host.Outcome State Fault Refusal :=
  let q := (s.core s.ev.core).matq
  .next (match q.find? fun o => o.id == s.ev.req with
    | some o => if !o.started && mayStart (earlierOps q o.id) o s.clk then s.matStart s.ev.core o.id else s
    | none => s)

/-- A started operation at the head of its queue completes (R360). -/
def execMatrixOperationComplete (s : State) : Host.Outcome State Fault Refusal :=
  .next (match (s.core s.ev.core).matq with
    | o :: _ => if o.id = s.ev.req ∧ o.started then s.matComplete s.ev.core o else s
    | [] => s)

end Sys2Proof.Machine
end

