-- ==== Sys2Proof/Machine/Matrix.lean ====
section
/-! DEFINITION. The matrix engine's instructions (13 R357 to R364, R365 to R379). -/

namespace Sys2Proof.Machine

/-! ### Arrivals (R237, R359) -/

/-- The arrival record of a thread replaced (R237, R359). -/
def State.recordArr (s : State) (team tid : Nat) (pci : Pc) (result : DWord) : State :=
  s.modThread team tid fun t => { t with arr := some { pci := pci, rcnt := t.rcnt, result := result } }

/-- The live lanes that are fresh: their arrival record does not name this execution (R359). -/
def freshOf (live : List (Nat × Nat × Thread)) : List (Nat × Nat × Thread) := live.filter fun x => (x.2.2.recorded x.2.2.pc).isNone

/-- A list of lanes takes a fault of the instruction they were at (R358). -/
def State.faultLanes (s : State) (team : Nat) (l : List (Nat × Nat × Thread)) (kind : Nat) (info : DWord) (len : Nat) : State :=
  l.foldl (fun s x => s.takeTrap team x.2.1 (s.trapAt kind info x.2.2.pc len)) s

/-- The checks before an instruction's guard and its poison, as in `runLive`; then `f` on its core, slot, group, team and live
lanes, before any of them issues. -/
def runHeld (h : Hdr) (len : Nat) (vs : List VOp) (f : Nat → Nat → Group → Team → List (Nat × Nat × Thread) → State → State)
    (s : State) : Host.Outcome State Fault Refusal :=
  match s.curGroup with
  | none => .next s
  | some (c, slot, g, tm) =>
    match preFault tm none vs true with
    | some k => .next ((s.trapGroup g k.1 k.2 len).settle c slot [])
    | none =>
      match s.eatFirst g h vs with
      | some s => .next (s.settle c slot [])
      | none => .next (f c slot g tm (s.liveLanes g h) s)

/-! ### Checks (R364) -/

/-- What an instruction's operand values ask of the checks of R364: a plane instruction; its accumulator rows; the scratchpad
it names, as base, stride, count and bytes; the values that must be multiples; the A format. -/
structure MReq where
  kind : MKind
  plane : Bool := false
  rows : Option (Nat × Nat) := none
  ranges : List (Nat × Nat × Nat × Nat) := []
  aligned : List (Nat × Nat) := []
  fmt : Option MFmt := none
deriving DecidableEq, Repr

/-- A range of pieces lies in the engine's part. -/
def Team.rangeOk (t : Team) (e : Nat) (r : Nat × Nat × Nat × Nat) : Bool :=
  let (base, stride, count, n) := r
  count == 0 || n == 0 || ((t.enginePart e).1 ≤ base && base + stride * (count - 1) + n ≤ (t.enginePart e).2)

/-- The front plane takes the A format (R361). -/
def Engine.formatOk (k : Engine) (f : Option MFmt) : Bool :=
  match f with
  | some f => k.front.valid && k.front.accepts f
  | none => true

/-- The lowest cause of R364 that holds, in table order. -/
def matCause (t : Team) (e : Bool) (r : MReq) (size0 : Bool) : Option Nat :=
  if r.plane && !t.lr.mx then some 1
  else if e && !t.lr.pair then some 2
  else if r.rows.any fun x => x.2 == 0 || decide (512 < x.2) || decide (t.lr.accrows < x.1 + x.2) then some 3
  else if r.ranges.any fun x => !t.rangeOk (b2n e) x then some 4
  else if r.aligned.any fun x => x.1 % x.2 != 0 then some 5
  else if !(t.engine (b2n e)).formatOk r.fmt then some 6
  else if size0 then some 7
  else none

/-! ### Entry and signatures (R357, R375) -/

/-- The operation as it enters: MMA and MGMM take the front plane as it stands, MGMM.bin its bin's count, clipped to 65,535
(R361, R368). -/
structure MEntry where
  kind : MKind
  clip : Bool
deriving DecidableEq, Repr

/-- What enters for a request, with the bin that MGMM.bin names (R368). -/
def entryOf (t : Team) (e : Nat) (k : MKind) (bin : Option Nat) : MEntry :=
  match k, bin with
  | .mgmm _ fmt ns g q _ a stride sc, some b =>
    let n := (t.bins.getD b 0).toNat
    { kind := .mgmm (t.engine e).front fmt ns g q (min n 65535) a stride sc, clip := decide (65535 < n) }
  | .mgmm _ fmt ns g q n a stride sc, none => { kind := .mgmm (t.engine e).front fmt ns g q n a stride sc, clip := false }
  | .mma _ fmt ns z row0 m a stride sc, _ => { kind := .mma (t.engine e).front fmt ns z row0 m a stride sc, clip := false }
  | k, _ => { kind := k, clip := false }

/-- An operation of a thread enters its engine's queue (R357, R368). -/
def State.matPost (s : State) (team e tid : Nat) (k : MKind) (bin : Option Nat) (conv : Option (Nat × Word)) (pc : Pc) : State :=
  match s.team? team with
  | none => s
  | some tm =>
    let x := entryOf tm e k bin
    let s := if x.clip then s.modTeam team fun t => t.modEngine e fun k => { k with mstat := k.mstat ||| mClip } else s
    s.matEnter team e x.kind tid conv pc

/-- A signature's operation: engine, A format to check at entry, request, bin. -/
structure SigOp where
  e : Nat
  fmt : Option MFmt
  kind : MKind
  bin : Option Nat
deriving DecidableEq, Repr

/-- A convergence register. -/
def Team.conv (t : Team) (n : Nat) : CReg := t.c.getD n { size := 0, count := 0, gen := 0, done := 0 }

/-- What the signature that completes a generation brings: its operation, unless the front plane no longer takes it, or none
(R375). -/
def State.sigComplete (s : State) (team tid n : Nat) (g : Word) (op : Option SigOp) (pc : Pc) : State :=
  match op, s.team? team with
  | some o, some tm =>
    if (tm.engine o.e).formatOk o.fmt then s.matPost team o.e tid o.kind o.bin (some (n, g)) pc
    else s.modTeam team fun t => t.modEngine o.e fun k => { k with mstat := k.mstat ||| mDrop }
  | _, _ => s

/-- A signature of a thread on register n is counted and recorded; the team's writes before it are covered (R375, R376). -/
def State.sign (s : State) (team tid n : Nat) (op : Option SigOp) (pc : Pc) : State :=
  match s.team? team with
  | none => s
  | some tm =>
    let c := tm.conv n
    let s := (s.matFence team tid).recordArr team tid pc (c.gen.setWidth 64)
    if c.count + 1 = c.size then
      let s := s.modTeam team fun t => { t with c := modAt t.c n fun c => { c with count := 0, gen := c.gen + 1 } }
      (s.sigComplete team tid n c.gen op pc).advanceDone team n
    else s.modTeam team fun t => { t with c := modAt t.c n fun c => { c with count := c.count + 1 } }

/-- How many of `k` signatures are counted before one completes a generation whose operation finds no free entry: `free`
entries are left (R358, R375). -/
def sigsNow (size : Word) : Nat → Word → Nat → Nat
  | 0, _, _ => 0
  | k + 1, count, free =>
    if count + 1 = size then (if free = 0 then 0 else sigsNow size k 0 (free - 1) + 1)
    else sigsNow size k (count + 1) free + 1

/-! ### Team operations (R357 to R359) -/

/-- A thread has passed the checks of this execution and waits for a queue entry (R358, R375). -/
def Thread.passed (t : Thread) : Bool := t.mchk == some (t.pc, t.rcnt)

/-- Threads whose checks have passed wait for a queue entry (R358). -/
def State.passAll (s : State) (team : Nat) (l : List (Nat × Nat × Thread)) : State :=
  l.foldl (fun s x => s.modThread team x.2.1 fun t => { t with mchk := some (t.pc, t.rcnt) }) s

/-- An execution with CV = 1 whose checks have passed: signatures in lane order, as far as the queue has entries; where it has
none the rest wait (R358, R375). -/
def State.convRun (s : State) (c slot : Nat) (g : Group) (tm : Team) (len n : Nat) (fresh : List (Nat × Nat × Thread)) (op : SigOp)
    (latch : List Nat) : State :=
  let free := (s.core (tm.engCore op.e)).matFree
  let k := sigsNow (tm.conv n).size fresh.length (tm.conv n).count free
  let signAll (l : List (Nat × Nat × Thread)) (s : State) : State :=
    l.foldl (fun s x => s.sign g.team x.2.1 n (some op) x.2.2.pc) s
  if k = fresh.length then (signAll fresh (s.issueAll g len)).settle c slot latch
  else
    let s := signAll (fresh.take k) s
    (s.passAll g.team (fresh.drop k)).stallGroup c slot g

/-- A team operation on the group that executes (R357 to R359): the fresh lanes' checks on the values of the highest of them,
then one entry, or one signature a lane. `req` gives the request of a thread, `bin` the bin that MGMM.bin names. -/
def runTeamOp (h : Hdr) (len : Nat) (vs : List VOp) (a : Option VReg) (e : Bool) (cv : Option (BitVec 4))
    (bin : Team → Thread → Option Nat) (req : Team → Engine → Thread → MReq) (s : State) : Host.Outcome State Fault Refusal :=
  runHeld h len vs (fun c slot g tm live s =>
    let latch := latchOf h a vs
    let fresh := freshOf live
    match fresh.getLast? with
    | none => (s.issueAll g len).settle c slot latch
    | some x =>
      let r := req tm (tm.engine (b2n e)) x.2.2
      let size0 : Bool := match cv with
        | some n => (tm.conv n.toNat).size == 0
        | none => false
      match (if fresh.all (fun y => y.2.2.passed) then none else matCause tm e r size0) with
      | some k => ((s.issueAll g len).faultLanes g.team fresh kMatrixFault (BitVec.ofNat 64 k) len).settle c slot latch
      | none =>
        match cv with
        | some n => s.convRun c slot g tm len n.toNat fresh { e := b2n e, fmt := r.fmt, kind := r.kind, bin := bin tm x.2.2 } latch
        | none =>
          if (s.core (tm.engCore (b2n e))).matFree = 0 then (s.passAll g.team fresh).stallGroup c slot g
          else
            let s := (s.issueAll g len).matPost g.team (b2n e) x.2.1 r.kind (bin tm x.2.2) none x.2.2.pc
            (fresh.foldl (fun s y => s.recordArr g.team y.2.1 y.2.2.pc 0) s).settle c slot latch) s

/-- No bin. -/
def noBin (_ : Team) (_ : Thread) : Option Nat := none

/-- An operand {row0, M} (R362). -/
def rowsOf (t : Thread) (d : VReg) : Nat × Nat := ((t.reg d.toNat).toNat % 65536, (t.reg d.toNat).toNat / 65536)

/-- A 32-bit register as a number. -/
def Thread.num (t : Thread) (r : VReg) : Nat := (t.reg r.toNat).toNat

/-- Words of a form with or without an extension word. -/
def lenCv : CvForm → Nat
  | .s => 2
  | .x _ => 3

/-- MLDW (R354, R365). -/
def execMldw (h : Hdr) (fmt : MFmt) (ns e : Bool) (d a : VReg) (b : SrcB) (cv : Option (BitVec 4)) (s : State) :
    Host.Outcome State Fault Refusal :=
  let sc := scaleUsed fmt ns
  runTeamOp h (lenB b) ((if sc then [vR d] else []) ++ vR a :: srcOps b) (some a) e cv noBin (fun tm _ t =>
    let img := t.num a
    let str := (bVal tm t b).toNat
    { kind := .mldw fmt ns (if sc then t.num d else 0) img str, plane := true
      ranges := (img, str, 256, 512) :: (if sc then [(t.num d, 0, 1, sideBytes fmt ns)] else [])
      aligned := [(img, 512), (str, 512)] ++ (if sc then [(t.num d, 256)] else []) }) s

/-- MLDWS (R354, R365). -/
def execMldws (h : Hdr) (e5m2 e : Bool) (d a : VReg) (b : SrcB) (cv : Option (BitVec 4)) (s : State) :
    Host.Outcome State Fault Refusal :=
  runTeamOp h (lenB b) (vR d :: vR a :: srcOps b) (some a) e cv noBin (fun tm _ t =>
    let img := t.num a
    let str := (bVal tm t b).toNat
    { kind := .mldws e5m2 (t.num d) img str, plane := true
      ranges := [(img, str, 256, 512), (t.num d, 0, 1, 32768)]
      aligned := [(img, 512), (str, 512), (t.num d, 256)] }) s

/-- MSWAP (R366). -/
def execMswap (h : Hdr) (e : Bool) (f : CvForm) (s : State) : Host.Outcome State Fault Refusal :=
  runTeamOp h (lenCv f) [] none e (cvOf f) noBin (fun _ _ _ => { kind := .mswap, plane := true }) s

/-- The alignment of A rows and their stride (R364). -/
def Plane.align (p : Plane) : Nat := if p.sparse then 1024 else 512

/-- MMA (R367). -/
def execMma (h : Hdr) (fmt : MFmt) (ns z e : Bool) (d a : VReg) (b : ExtB) (c : VReg) (cv : Option (BitVec 4)) (s : State) :
    Host.Outcome State Fault Refusal :=
  let sc := scaleUsed fmt ns
  runTeamOp h 3 (vR d :: vR a :: (extOps b ++ if sc then [vR c] else [])) (some a) e cv noBin (fun tm k t =>
    let (row0, m) := rowsOf t d
    let base := t.num a
    let str := (xVal tm t b).toNat
    let pl := k.front
    let scb := if sc then t.num c else 0
    { kind := .mma pl fmt ns z row0 m base str scb, plane := true, rows := some (row0, m)
      ranges := (base, str, m, pl.rowBytes) :: (if sc then [(scb, 32, m, pl.scaleBytes fmt)] else [])
      aligned := [(base, pl.align), (str, pl.align)] ++ (if sc then [(scb, 32)] else []), fmt := some fmt }) s

/-- MGMM (R368). -/
def execMgmm (h : Hdr) (fmt : MFmt) (ns bin e : Bool) (d a : VReg) (b : ExtB) (c : VReg) (cv : Option (BitVec 4)) (s : State) :
    Host.Outcome State Fault Refusal :=
  let sc := scaleUsed fmt ns
  runTeamOp h 3 (vR d 2 :: vR a :: (extOps b ++ if sc then [vR c] else [])) (some a) e cv
    (fun tm t => if bin then some ((xVal tm t b).toNat % 32) else none) (fun tm k t =>
    let g := t.num d
    let q := (t.reg (d.toNat + 1)).toNat
    let x := (xVal tm t b).toNat
    let str := x / 65536 * 512
    let n := x % 65536
    let pl := k.front
    let scb := if sc then t.num c else 0
    let cnt := if bin then 1 else n
    { kind := .mgmm pl fmt ns g q n (t.num a) str scb, plane := true
      ranges := [(g, 4, cnt, 4), (q, 4, cnt, 4)]
      aligned := [(t.num a, pl.align), (str, pl.align)] ++ (if sc then [(scb, 32)] else []) ++ [(g, 4), (q, 4)]
      fmt := some fmt }) s

/-- MCLR (R369). -/
def execMclr (h : Hdr) (e : Bool) (d : VReg) (f : CvForm) (s : State) : Host.Outcome State Fault Refusal :=
  runTeamOp h (lenCv f) [vR d] none e (cvOf f) noBin (fun _ _ t =>
    let (row0, m) := rowsOf t d
    { kind := .mclr row0 m, rows := some (row0, m) }) s

/-- MACLD (R369). -/
def execMacld (h : Hdr) (acc e : Bool) (d a : VReg) (b : SrcB) (cv : Option (BitVec 4)) (s : State) :
    Host.Outcome State Fault Refusal :=
  runTeamOp h (lenB b) (vR d :: vR a :: srcOps b) (some a) e cv noBin (fun tm _ t =>
    let (row0, m) := rowsOf t d
    let base := t.num a
    let str := (bVal tm t b).toNat
    { kind := .macld acc row0 m base str, rows := some (row0, m), ranges := [(base, str, m, 1024)]
      aligned := [(base, 1024), (str, 1024)] }) s

/-- Bytes of a row that MACST writes (R370). -/
def outRow (o : OFmt) : Nat := 256 * ofBytesN o

/-- MACST (R370). -/
def execMacst (h : Hdr) (o : OFmt) (sx e sat clr : Bool) (d a : VReg) (b : ExtB) (c : VReg) (cv : Option (BitVec 4)) (rm : StRm)
    (s : State) : Host.Outcome State Fault Refusal :=
  runTeamOp h 3 (vR d :: vR a :: (extOps b ++ if sx then [vR c] else [])) (some a) e cv noBin (fun tm _ t =>
    let (row0, m) := rowsOf t d
    let base := t.num a
    let str := (xVal tm t b).toNat
    let vec := if sx then t.num c else 0
    { kind := .macst o sx sat clr rm row0 m base str vec, rows := some (row0, m)
      ranges := (base, str, m, outRow o) :: (if sx then [(vec, 4, m, 4)] else [])
      aligned := [(base, outRow o), (str, outRow o)] ++ (if sx then [(vec, 4)] else []) }) s

/-- MROW (R371). -/
def execMrow (h : Hdr) (op : RowOp) (acc e : Bool) (d a : VReg) (f : CvForm) (s : State) : Host.Outcome State Fault Refusal :=
  runTeamOp h (lenCv f) [vR d, vR a] (some a) e (cvOf f) noBin (fun _ _ t =>
    let (row0, m) := rowsOf t d
    { kind := .mrow op acc row0 m (t.num a), rows := some (row0, m), ranges := [(t.num a, 4, m, 4)]
      aligned := [(t.num a, 4)] }) s

/-! ### MACRD (R372) -/

/-- The cause of R364 that a lane of MACRD meets. -/
def macrdCause (t : Team) (e : Bool) (row col : Nat) : Option Nat :=
  if e && !t.lr.pair then some 2
  else if t.lr.accrows ≤ row ∨ col % 4 ≠ 0 ∨ 252 < col then some 3
  else none

/-- A lane's window of an MACRD: its quad holds unspecified values until it is read (R151, R372). -/
def State.macrdOpen (s : State) (team tid : Nat) (h : Hdr) (pci : Pc) (e dst : Nat) : Nat × State :=
  let (id, s) := s.takeId
  let w := mkWin h id (.macrd e) pci ((upTo 4).map fun j => (dst + j, 0)) false
  let s := s.openWin team tid w
  (id, { s.modThread team tid fun t =>
    (upTo 4).foldl (fun t j => t.putReg (dst + j) ((Config.freeWord (s.fresh + j)).setWidth 32)) t with fresh := s.fresh + 4 })

/-- MACRD: a lane that fails its checks faults alone; the others share one queue entry (R364, R372). -/
def execMacrd (h : Hdr) (e : Bool) (d a : VReg) (b : SrcB) (s : State) : Host.Outcome State Fault Refusal :=
  runHeld h (lenB b) (vW d 4 :: vR a :: srcOps b) (fun c slot g tm live s =>
    let cause (x : Nat × Nat × Thread) : Option Nat := macrdCause tm e (x.2.2.num a) (bVal tm x.2.2 b).toNat
    let good := live.filter fun x => (cause x).isNone
    let bad := live.filter fun x => (cause x).isSome
    if !good.isEmpty && (s.core (tm.engCore (b2n e))).matFree == 0 then s.stallGroup c slot g
    else
      let s := s.issueAll g (lenB b)
      let (ls, s) := good.foldl (fun r x =>
        let (id, s) := r.2.macrdOpen g.team x.2.1 h x.2.2.pc (b2n e) d.toNat
        (r.1 ++ [(x.2.1, id, x.2.2.num a, (bVal tm x.2.2 b).toNat, d.toNat)], s)) ([], s)
      let s := match good with
        | x :: _ => s.matPost g.team (b2n e) x.2.1 (.macrd ls) none none x.2.2.pc
        | [] => s
      let s := bad.foldl (fun s x => s.faultLanes g.team [x] kMatrixFault (BitVec.ofNat 64 ((cause x).getD 0)) (lenB b)) s
      s.settle c slot (latchOf h (some a) (vW d 4 :: vR a :: srcOps b))) s

/-! ### Fences, waits and queries (R377 to R379) -/


/-- MFENCE: it completes when every earlier result of the thread is written (R377). -/
def execMfence (h : Hdr) (s : State) : Host.Outcome State Fault Refusal :=
  runLanes h 2 none [] none (fun _ team _ tid t s =>
    if t.wins.any fun w => !w.kind.isMacrd then
      let (id, s) := s.takeId
      s.openWin team tid (mkWin h id .fence t.pc [] false)
    else s.matFence team tid) s

/-- E = 1 in a team that is not a pair team faults (R364). -/
def State.ifEngine (s : State) (team tid : Nat) (tm : Team) (t : Thread) (len : Nat) (e : Bool) (k : State) : State :=
  if e && !tm.lr.pair then s.takeTrap team tid (s.trapAt kMatrixFault 2 t.pc len) else k

/-- MWAIT (R378). -/
def execMwait (h : Hdr) (e : Bool) (s : State) : Host.Outcome State Fault Refusal :=
  runLanes h 2 none [] none (fun c team tm tid t s =>
    s.ifEngine team tid tm t 2 e (
      let k := tm.engine (b2n e)
      let (id, s) := s.takeId
      if cmpReached k.cmp k.ent then ((s.learns team tid).acquire c tm.ctx .core).modThread team tid fun t => t.covered (b2n e) id
      else s.openWait team tid (mkWin h id .sync t.pc [] false) (.matrix (b2n e) k.ent))) s

/-- MWAIT.cv (R378). -/
def execMwaitCv (h : Hdr) (e : Bool) (n : BitVec 4) (b : SrcB) (s : State) : Host.Outcome State Fault Refusal :=
  runLanes h (lenB b) none (srcOps b) none (fun c team tm tid t s =>
    s.ifEngine team tid tm t (lenB b) e (
      let gen := bVal tm t b
      if doneGen (tm.conv n.toNat).done gen then (s.learns team tid).acquire c tm.ctx .core
      else
        let (id, s) := s.takeId
        s.openWait team tid (mkWin h id .sync t.pc [] false) (.conv n.toNat gen))) s

/-- Disabled physical rows of a core's array that its logical map leaves out (R351). -/
def Core.mapLeaves (k : Core) (c r : Nat) : Bool := (Config.fusedRows c).getLsbD r || k.rowMap.contains r

/-- The physical rows of a core's logical rows 0 to 511 (R351). -/
def Core.rowMapping (k : Core) (c : Nat) : List Nat := ((upTo 528).filter fun r => !k.mapLeaves c r).take 512

/-- Spare rows in use (R351, R379). -/
def Core.sparesUsed (k : Core) (c : Nat) : Nat := ((k.rowMapping c).filter fun r => 512 ≤ r).length

/-- The half of MXPL that an engine fills (R384). -/
def Engine.mxpl (k : Engine) : Nat :=
  b2n k.shadow.sparse * 2 ^ 14 + b2n k.shadow.ns * 2 ^ 13 + b2n k.shadow.valid * 2 ^ 12 + k.shadow.fmt % 16 * 2 ^ 8
    + b2n k.front.sparse * 2 ^ 6 + b2n k.front.ns * 2 ^ 5 + b2n k.front.valid * 2 ^ 4 + k.front.fmt % 16

/-- The quad of MQRY (R379). -/
def mqryVal (s : State) (tm : Team) (e : Nat) : List Word :=
  let k := tm.engine e
  let c := s.core (tm.engCore e)
  let w (n : Nat) : Word := BitVec.ofNat 32 n
  [w k.ent, w k.cmp, w (c.sparesUsed (tm.engCore e) * 256 + k.mstat.toNat),
   w (b2n k.shadow.valid * 2 ^ 28 + k.shadow.fmt % 16 * 2 ^ 24 + b2n k.front.valid * 2 ^ 20 + k.front.fmt % 16 * 2 ^ 16 + c.matFree)]

/-- MQRY (R379). -/
def execMqry (h : Hdr) (clr e : Bool) (d : VReg) (s : State) : Host.Outcome State Fault Refusal :=
  runLive h 2 none [vW d 4] none (fun _ g tm live s =>
    if e && !tm.lr.pair then s.faultLanes g.team live kMatrixFault 2 2
    else
      let q := mqryVal s tm (b2n e)
      let s := live.foldl (fun s x => s.answer g.team x.2.1 h x.2.2.pc .engine
        ((upTo 4).map fun j => (d.toNat + j, q.getD j 0))) s
      if clr && !live.isEmpty then s.modTeam g.team fun t => t.modEngine (b2n e) fun k => { k with mstat := 0 } else s) s

/-! ### CVSET and SIGN (R374, R375) -/

/-- CVSET (R374): its values come from the highest-numbered fresh lane, and a size of 0 or above 4,096 faults (R364). -/
def execCvset (h : Hdr) (d : BitVec 4) (b : SrcB) (s : State) : Host.Outcome State Fault Refusal :=
  runLive h (lenB b) none (srcOps b) none (fun _ g tm live s =>
    let fresh := freshOf live
    match fresh.getLast? with
    | none => s
    | some x =>
      let size := bVal tm x.2.2 b
      if size = 0 ∨ 4096 < size.toNat then s.faultLanes g.team fresh kMatrixFault 7 (lenB b)
      else
        let s := s.modTeam g.team fun t => { t with c := modAt t.c d.toNat fun c => { c with size := size, count := 0 } }
        fresh.foldl (fun s y => s.recordArr g.team y.2.1 y.2.2.pc 0) s) s

/-- SIGN (R375): each fresh lane signs in lane order and takes the generation it signs; a recorded lane takes the one it
signed (R359). -/
def execSign (h : Hdr) (d : VReg) (a : BitVec 4) (s : State) : Host.Outcome State Fault Refusal :=
  runLive h 2 none [vW d] none (fun _ g tm live s =>
    let give (s : State) (x : Nat × Nat × Thread) (gen : Word) : State :=
      s.answer g.team x.2.1 h x.2.2.pc .engine [(d.toNat, gen)]
    let s := (live.filter fun x => (x.2.2.recorded x.2.2.pc).isSome).foldl
      (fun s x => give s x (loW ((x.2.2.recorded x.2.2.pc).getD 0))) s
    let fresh := freshOf live
    if !fresh.isEmpty && (tm.conv a.toNat).size == 0 then s.faultLanes g.team fresh kMatrixFault 7 2
    else fresh.foldl (fun s x =>
      let gen := ((s.team? g.team).map fun t => (t.conv a.toNat).gen).getD 0
      give (s.sign g.team x.2.1 a.toNat none x.2.2.pc) x gen) s) s

end Sys2Proof.Machine
end

