-- ==== Sys2Proof/Machine/Place.lean ====
section
/-! DEFINITION. Where the launch engine places teams: a core's resources, the choice of core, pair and instance, claims and the
checks of a launch record (02 R42 to R45; 09 R253, R260, R262, R264; 13 R352). -/

namespace Sys2Proof.Machine

/-! ### Resources of a core (R42, R350, R352) -/

/-- What is used on a core: blocks of thread slots as base and length, scratchpad bytes, accumulator rows, teams, and whether
one of them has MX = 1. -/
structure CoreUse where
  blocks : List (Nat × Nat)
  scratch : Nat
  acc : Nat
  teams : Nat
  mx : Bool
deriving DecidableEq, Repr

/-- A core that holds nothing. -/
def CoreUse.none : CoreUse := { blocks := [], scratch := 0, acc := 0, teams := 0, mx := false }

/-- Thread slots a team takes on its core, or on the lower or upper core of its pair (R42, R43). -/
def LaunchRec.slotsOn (l : LaunchRec) (upper : Bool) : Nat :=
  if l.pair then (if upper then alignUp (l.tsize - pairSplit l.tsize) 32 else pairSplit l.tsize) else alignUp l.tsize 32

/-- Scratchpad bytes a team takes on each of its cores, in blocks of 128 (R42). -/
def LaunchRec.scratchOn (l : LaunchRec) : Nat := alignUp (if l.pair then l.scratch / 2 else l.scratch) 128

/-- A core's use with a team's part on it. -/
def CoreUse.add (u : CoreUse) (l : LaunchRec) (upper : Bool) (base : Nat) : CoreUse :=
  { blocks := (base, l.slotsOn upper) :: u.blocks, scratch := u.scratch + l.scratchOn, acc := u.acc + l.accrows
    teams := u.teams + 1, mx := u.mx || l.mx }

/-- The lowest free block of n thread slots at a multiple of 32 (log 21). -/
def CoreUse.freeBlock (u : CoreUse) (n : Nat) : Option Nat :=
  ((upTo 128).map (32 * ·)).find? fun b => b + n ≤ 4096 && u.blocks.all fun x => !meets x (b, n)

/-- Free thread slots. -/
def CoreUse.freeSlots (u : CoreUse) : Nat := 4096 - (u.blocks.map (·.2)).sum

/-- Where a team's part fits on a core (R42, R352). -/
def CoreUse.fit (u : CoreUse) (l : LaunchRec) (upper : Bool) : Option Nat :=
  if u.scratch + l.scratchOn ≤ 2 ^ 22 ∧ u.acc + l.accrows ≤ 512 ∧ u.teams < 32 ∧ ¬(l.mx ∧ u.mx) then u.freeBlock (l.slotsOn upper)
  else Option.none

/-- The use of each core, by core number. -/
abbrev Uses := Tbl CoreUse

def Uses.at (u : Uses) (c : Nat) : CoreUse := Tbl.get u c CoreUse.none

/-- The uses with a team placed: core or lower core, and its slot bases. -/
def Uses.place (u : Uses) (l : LaunchRec) (p : Nat × Nat × Nat) : Uses :=
  let u' := Tbl.put u p.1 ((Uses.at u p.1).add l false p.2.1)
  if l.pair then Tbl.put u' (p.1 + 1) ((Uses.at u' (p.1 + 1)).add l true p.2.2) else u'

/-- The uses of the teams resident, but for those of one launch. -/
def State.usesBut (s : State) (lid : Option Nat) : Uses :=
  s.teams.foldl (fun u e =>
    if e.2.resident && some e.2.lid != lid then Uses.place u e.2.lr (e.2.core, e.2.base0, e.2.base1) else u) []

/-- The uses of the teams resident. -/
def State.uses (s : State) : Uses := s.usesBut Option.none

/-! ### Choice (R264) -/

/-- Where a team fits among cores: core or lower core, slot bases, free thread slots there. -/
def fitAt (u : Uses) (l : LaunchRec) (c : Nat) : Option ((Nat × Nat × Nat) × Nat) :=
  if l.pair then
    if c % 2 ≠ 0 then none
    else
      match (Uses.at u c).fit l false, (Uses.at u (c + 1)).fit l true with
      | some a, some b => some ((c, a, b), (Uses.at u c).freeSlots + (Uses.at u (c + 1)).freeSlots)
      | _, _ => none
  else ((Uses.at u c).fit l false).map fun a => ((c, a, 0), (Uses.at u c).freeSlots)

/-- The better of two places: more free thread slots, and the first of equals. -/
def bestOf (a b : Option ((Nat × Nat × Nat) × Nat)) : Option ((Nat × Nat × Nat) × Nat) :=
  match a, b with
  | none, b => b
  | a, none => a
  | some x, some y => if x.2 < y.2 then some y else some x

/-- The place of a team among cores given in ascending order: the most free thread slots, the lower core of equals (R264). -/
def chooseCore (u : Uses) (l : LaunchRec) (ok : Nat → Bool) (cores : List Nat) : Option (Nat × Nat × Nat) :=
  ((cores.filter fun c => ok c && (!l.pair || ok (c + 1))).foldl (fun b c => bestOf b (fitAt u l c)) none).map (·.1)

/-- n teams placed one after another: their places and the uses after them. -/
def chooseMany (l : LaunchRec) (ok : Nat → Bool) (cores : List Nat) : Nat → Uses → Option (List (Nat × Nat × Nat) × Uses)
  | 0, u => some ([], u)
  | n + 1, u =>
    match chooseCore u l ok cores with
    | none => none
    | some p => (chooseMany l ok cores n (Uses.place u l p)).map fun r => (p :: r.1, r.2)

/-- Instances of a cohort level, and the cores of one (R44). -/
def instCount (clvl : Nat) : Nat := if clvl = 1 then 32 else if clvl = 2 ∨ clvl = 3 then 8 else if clvl = 4 then 2 else 1
def instCores (clvl i : Nat) : List Nat :=
  let n := 128 / instCount clvl
  (upTo n).map (n * i + ·)

/-- Barriers that a cohort requests, and those of an instance: 16 of a cluster or a die, 8 of the package (R246, R253). -/
def LaunchRec.barsAsked (l : LaunchRec) : Nat :=
  if l.clvl = 1 then l.bclus else if l.clvl = 2 ∨ l.clvl = 3 then l.bdie else if l.clvl = 0 then 0 else l.bpkg
def barCap (clvl : Nat) : Nat := if clvl = 4 ∨ clvl = 5 then 8 else 16

/-- The level of barrier hardware that a cohort level uses: cluster, die or package (R246). -/
def barHw (clvl : Nat) : Nat := if clvl = 1 then 1 else if clvl = 2 ∨ clvl = 3 then 2 else 3

/-- Two instances share barrier hardware. -/
def sameBars (c1 i1 c2 i2 : Nat) : Bool := barHw c1 == barHw c2 && (barHw c1 == 3 || i1 == i2)

/-- Barriers held in an instance, but for those of one launch (R44). -/
def State.barsHeld (s : State) (lid : Option Nat) (clvl inst : Nat) : Nat :=
  ((s.launches.filter fun e => some e.1 != lid).map fun e =>
    ((e.2.cohorts.filter fun c => sameBars e.2.lr.clvl c.2.inst clvl inst).map fun c => c.2.bars.length).sum).sum

/-- The free thread slots of an instance. -/
def instFree (u : Uses) (clvl i : Nat) : Nat := ((instCores clvl i).map fun c => (Uses.at u c).freeSlots).sum

/-- The better of two instances with their cohorts' places. -/
def bestInst (a b : Option (Nat × Nat × List (Nat × Nat × Nat) × Uses)) : Option (Nat × Nat × List (Nat × Nat × Nat) × Uses) :=
  match a, b with
  | none, b => b
  | a, none => a
  | some x, some y => if x.2.1 < y.2.1 then some y else some x

/-- The instance that takes a cohort and its teams' places: the most free thread slots among those that can hold all of it and
have its barriers free (R44, R264). -/
def chooseCohort (u : Uses) (l : LaunchRec) (ok : Nat → Bool) (n : Nat) (bars : Nat → Bool) (insts : List Nat) :
    Option (Nat × List (Nat × Nat × Nat) × Uses) :=
  ((insts.filter bars).foldl (fun b i =>
    bestInst b ((chooseMany l ok (instCores l.clvl i) n u).map fun r => (i, instFree u l.clvl i, r.1, r.2))) none).map
      fun r => (r.1, r.2.2.1, r.2.2.2)

/-- All cores. -/
def allCores : List Nat := upTo 128

/-! ### The launch record (R253) -/

/-- A field of a record: byte offset, bits hi to lo. -/
def recField (b : List Byte) (off hi lo : Nat) : Nat := bits (ofBytes ((b.drop off).take 8)) hi lo

/-- The record's fields. -/
def recOf (b : List Byte) : LaunchRec :=
  { kentry := recField b 0 54 0, tvec := recField b 8 54 0, args := recField b 0x10 54 0, hoods := recField b 0x18 54 0
    saves := recField b 0x20 54 0, done := recField b 0x28 54 0, nteams := recField b 0x30 23 0 + 1
    tsize := recField b 0x34 12 0, gw := recField b 0x34 17 16, pair := recField b 0x34 18 18 == 1
    res := recField b 0x34 19 19 == 1, rln := recField b 0x34 20 20 == 1, ser := recField b 0x34 21 21 == 1
    mx := recField b 0x34 22 22 == 1, prio := recField b 0x34 25 24, nreg := recField b 0x38 11 0
    calld := recField b 0x38 26 16, scratch := recField b 0x3C 31 0, priv := recField b 0x40 16 0
    clvl := recField b 0x44 2 0, cn := recField b 0x44 28 16, bclus := recField b 0x48 4 0, bdie := recField b 0x48 12 8
    bpkg := recField b 0x48 19 16, accrows := recField b 0x4C 9 0, hslots := recField b 0x4C 28 16
    rlimit := recField b 0x50 3 0, tag := BitVec.ofNat 64 (recField b 0x58 63 0) }

/-- The bits of a record that R253 names, in 16 words of 8 bytes. -/
def recNamed : List Nat :=
  [2 ^ 55 - 1, 2 ^ 55 - 1, 2 ^ 55 - 1, 2 ^ 55 - 1, 2 ^ 55 - 1, 2 ^ 55 - 1, 0x037F1FFF00FFFFFF, 0xFFFFFFFF07FF0FFF,
   0x1FFF00070001FFFF, 0x1FFF03FF000F1F1F, 0xF, 2 ^ 64 - 1, 0, 0, 0, 0]

/-- No reserved bit of a record is set (R253). -/
def recBitsOk (b : List Byte) : Bool :=
  (upTo 16).all fun i => ofBytes ((b.drop (8 * i)).take 8) &&& (2 ^ 64 - 1 - recNamed.getD i 0) == 0

/-- Every field lies within its limits (R253). -/
def LaunchRec.limitsOk (l : LaunchRec) : Bool :=
  l.kentry % 4 == 0 && l.tvec % 4 == 0 && l.args % 128 == 0 && l.hoods % 65536 == 0 && l.saves % 65536 == 0 && l.saves != 0
    && l.done % 8 == 0 && decide (1 ≤ l.tsize) && decide (l.tsize ≤ (if l.pair then 4096 else 2048)) && decide (l.gw ≤ 2)
    && decide (1 ≤ l.nreg) && decide (l.nreg ≤ 2048) && decide (l.calld ≤ 1024) && l.scratch % 128 == 0
    && decide (l.scratch ≤ (if l.pair then 2 ^ 23 else 2 ^ 22)) && l.priv % 16 == 0 && decide (l.priv ≤ 65536)
    && decide (l.clvl ≤ 5) && (l.clvl == 0 || (decide (1 ≤ l.cn) && decide (l.cn ≤ 4096))) && decide (l.bclus ≤ 16)
    && decide (l.bdie ≤ 16) && decide (l.bpkg ≤ 8) && l.accrows % 16 == 0 && decide (l.accrows ≤ 512) && decide (1 ≤ l.hslots)
    && decide (l.hslots ≤ 4096) && (!l.res || decide (l.nteams ≤ l.hslots)) && (l.clvl == 0 || decide (l.cn ≤ l.hslots))

/-! ### Claims of resident launches (R262) -/

/-- The whole of a launch placed in thought, cohort by cohort: places and instances in order. -/
def chooseLaunch (l : LaunchRec) (ok : Nat → Bool) (barsFree : Nat → Nat → Bool) :
    Nat → Uses → List Nat → Option (List (Nat × Nat × Nat) × List Nat)
  | 0, _, _ => some ([], [])
  | k + 1, u, held =>
    if l.clvl = 0 then
      match chooseCore u l ok allCores with
      | none => none
      | some p => (chooseLaunch l ok barsFree k (Uses.place u l p) held).map fun r => (p :: r.1, r.2)
    else
      match chooseCohort u l ok l.cn (fun i => barsFree i ((held.filter fun j => sameBars l.clvl j l.clvl i).length * l.barsAsked))
          (upTo (instCount l.clvl)) with
      | none => none
      | some (i, ps, u) => (chooseLaunch l ok barsFree k u (i :: held)).map fun r => (ps ++ r.1, i :: r.2)

/-- What a resident launch claims: its launch id once its record is copied, its context, its record, for each team number core and
slot bases, its cohorts' instances, and whether it has been placed (R262). -/
structure Claim where
  lid : Option Nat
  ctx : Nat
  lr : LaunchRec
  places : List (Nat × Nat × Nat × Nat)
  insts : List Nat
  placed : Bool
deriving DecidableEq, Repr

/-- The cores of a claim. -/
def Claim.cores (k : Claim) : List Nat := k.places.flatMap fun p => if k.lr.pair then [p.2.1, p.2.1 + 1] else [p.2.1]

/-- The claims of resident launches accepted and not retired, but for one: those copied, those granted a slot, and those whose
posters are parked (R45, R262). -/
def State.claims (s : State) (but : Option Nat) : List Claim :=
  ((s.launches.filter fun e => e.2.lr.res && some e.1 != but).map fun e =>
      { lid := some e.1, ctx := e.2.ctx, lr := e.2.lr, places := e.2.claim, insts := e.2.claimInst, placed := e.2.next != 0 : Claim })
    ++ s.queues.flatMap fun e => ((e.2.posts ++ e.2.parked).filter fun p => (recOf p.raw).res).map fun p =>
      { lid := none, ctx := e.2.ctx, lr := recOf p.raw, places := p.claim, insts := p.insts, placed := false }

/-- The uses of the claims of resident launches, but for one (R262). -/
def State.claimUses (s : State) (but : Option Nat) : Uses :=
  (s.claims but).foldl (fun u k => k.places.foldl (fun u p => Uses.place u k.lr (p.2.1, p.2.2.1, p.2.2.2)) u) []

/-- The barriers of an instance that resident launches claim (R262). -/
def State.claimBars (s : State) (but : Option Nat) (clvl inst : Nat) : Nat :=
  ((s.claims but).map fun k => ((k.insts.filter fun i => sameBars k.lr.clvl i clvl inst).length) * k.lr.barsAsked).sum

/-- More than 16 array rows of a core are disabled: it takes no team with MX = 1 (R351, R425). -/
def State.rowsLow (s : State) (c : Nat) : Bool :=
  decide (16 < ((upTo 528).filter fun r => (Config.fusedRows c).getLsbD r || (s.core c).badRows.contains r).length)

/-- A core takes no team: quarantined or being drained. -/
def Core.noTeams (k : Core) : Bool := k.quar || k.draining

/-- The placement of a resident launch in thought: claim and cohort instances (R262). -/
def State.residentFit (s : State) (l : LaunchRec) (but : Option Nat) : Option (List (Nat × Nat × Nat) × List Nat) :=
  let ok (c : Nat) : Bool := !(s.core c).noTeams && !(l.mx && s.rowsLow c)
  chooseLaunch l ok (fun i own => s.claimBars but l.clvl i + own + l.barsAsked ≤ barCap l.clvl)
    (if l.clvl = 0 then l.nteams else l.nteams / l.cn) (s.claimUses but) []

/-! ### Acceptance (R41, R44, R260) -/

/-- A cohort is impossible (R44). -/
def LaunchRec.cohortBad (l : LaunchRec) : Bool :=
  l.clvl != 0 && (l.nteams % l.cn != 0 || (chooseMany l (fun _ => true) (instCores l.clvl 0) l.cn []).isNone
    || (l.pair && l.clvl == 1 && decide (2 < l.cn)))

/-- A queue accepts postings: it exists, EN = 1, and its context is not Free (R41, R256; log 76). -/
def State.takesPosts (s : State) (q : Nat) : Bool := decide (q ≤ 1023) && (s.queue q).en && (s.ctx (s.queue q).ctx).st != .free

/-- The claim of a record that is accepted: the placement in thought of a resident launch, in team order (R262). -/
def State.claimOf (s : State) (l : LaunchRec) : List (Nat × Nat × Nat × Nat) × List Nat :=
  match (if l.res then s.residentFit l none else none) with
  | some (ps, is) => (ps.mapIdx fun i p => (i, p.1, p.2.1, p.2.2), is)
  | none => ([], [])

/-- A record accepted now. -/
def State.post (s : State) (poster : Option (Nat × Nat)) (b : List Byte) (sys : Bool) : Post :=
  let k := s.claimOf (recOf b)
  { poster := poster, raw := b, sys := sys, at_ := s.clk, claim := k.1, insts := k.2, code := s.mem }

/-- The rejection cause of a record posted to queue q by a context, or by the host (R260). `reserved`: LAUNCH.res without a
reservation. -/
def State.rejectCause (s : State) (q : Nat) (ctx : Option Nat) (b : List Byte) (reserved : Bool) : Option Nat :=
  let d := s.queue q
  let l := recOf b
  if !s.takesPosts q then some 1
  else if ctx.any fun c => c != d.ctx && !d.xpost then some 2
  else if !(recBitsOk b && l.limitsOk) then some 3
  else if l.cohortBad then some 4
  else if l.res && (s.residentFit l none).isNone then some 5
  else if reserved then some 6
  else none

end Sys2Proof.Machine
end

