-- ==== Sys2Proof/Machine/Image.lean ====
section
/-! DEFINITION. A team's hood and save area: creation, the images written when it leaves its cores, and their reading when it
comes back (02 R46, R47; 06 R153; 09 R254, R255, R265 to R268; 12 R339; 13 R383, R384). -/

namespace Sys2Proof.Machine

/-! ### Layout (R254, R265) -/

/-- Matrix engines of a team (R353). -/
def LaunchRec.engines (l : LaunchRec) : Nat := if l.pair then 2 else 1
def LaunchRec.accBase (l : LaunchRec) : Nat := alignUp l.scratch 1024
def LaunchRec.planeBase (l : LaunchRec) : Nat := l.accBase + 1024 * l.accrows * l.engines
def LaunchRec.stateBase (l : LaunchRec) : Nat := l.planeBase + (if l.mx then 327680 * l.engines else 0)
def LaunchRec.saveEnd (l : LaunchRec) : Nat := l.stateBase + 32 * l.tsize
def LaunchRec.sstride (l : LaunchRec) : Nat := alignUp l.saveEnd 65536

/-- A team's save area (R254). -/
def Team.saveVa (t : Team) : Nat := t.lr.saves + t.hslot * t.lr.sstride

/-- A word's four bytes. -/
def wordBytes (w : Word) : List Byte := toBytes 4 w.toNat

/-- MXPL (R384). -/
def Team.mxpl (t : Team) : Nat := (t.engine 0).mxpl + (if t.lr.pair then (t.engine 1).mxpl * 65536 else 0)

/-- The hood header (R46, R255, R339, R383). -/
def Team.header (t : Team) : List Byte :=
  t.k.flatMap wordBytes ++ (t.mreg.flatMap fun m => wordBytes m.1 ++ wordBytes m.2)
    ++ (t.c.flatMap fun c => wordBytes c.size ++ wordBytes c.count ++ wordBytes c.gen ++ wordBytes c.done)
    ++ toBytes 4 t.lid ++ toBytes 4 t.n ++ toBytes 4 t.hslot ++ toBytes 4 t.retry ++ toBytes 8 t.saveVa
    ++ toBytes 4 (b2n t.saved + 2 * b2n t.killed) ++ toBytes 4 t.lcore ++ t.tbg.flatMap wordBytes ++ toBytes 4 t.part
    ++ toBytes 4 t.mxpl ++ toBytes 4 (t.engine 0).ent ++ toBytes 4 (if t.lr.pair then (t.engine 1).ent else 0)
    ++ toBytes 4 (t.engine 0).mstat.toNat ++ toBytes 4 (if t.lr.pair then (t.engine 1).mstat.toNat else 0) ++ List.replicate 8 0
    ++ t.bins.flatMap wordBytes ++ t.hold.flatMap wordBytes ++ toBytes 4 t.hvalid.toNat ++ List.replicate 60 0

/-! ### Writing in a context's memory -/

/-- Bytes written; a page that cannot be written ends the launch with status 4 (R254). -/
def State.imageWrite (s : State) (t : Team) (ok : Bool) (va : Nat) (b : List Byte) : Bool × State :=
  let (k, s) := s.vWrite t.ctx va b
  (ok && k, s)

/-- The bytes of a sparse store written from an address, zero where nothing is listed. -/
def State.imageSparse (s : State) (t : Team) (ok : Bool) (va len : Nat) (x : Tbl Byte) : Bool × State :=
  let (k, s) := s.vClear t.ctx va len
  x.foldl (fun r e => if e.1 < len then r.2.imageWrite t r.1 (va + e.1) [e.2] else r) (ok && k, s)

/-- The register lines of a team: j < NREG registers, then FPCTL and FLAGS (R46). -/
def State.writeLines (s : State) (team : Nat) (t : Team) (ok : Bool) : Bool × State :=
  (s.threadsOf team).foldl (fun r x =>
    let blk := x.1 / 32
    let words := x.2.regs ++ [x.2.fpctl, x.2.flags]
    (upTo (t.lr.nreg + 2)).foldl (fun r j =>
      r.2.imageWrite t r.1 (t.hood + t.lr.regBase + 128 * (blk * (t.lr.nreg + 2) + j) + 4 * (x.1 % 32)) (wordBytes (words.getD j 0))) r)
    (ok, s)

/-- The header and thread records of a team written to its hood. -/
def State.writeHood (s : State) (team : Nat) (t : Team) (ok : Bool) : Bool × State :=
  let (ok, s) := s.imageWrite t ok t.hood t.header
  (s.threadsOf team).foldl (fun r x => r.2.imageWrite t r.1 (t.hood + 0x400 + 32 * x.1) (toBytes 32 x.2.record)) (ok, s)

/-! ### Creation (R255) -/

/-- A thread at its team's creation (R47, R255). -/
def newThread (l : LaunchRec) (slot : Nat) : Thread :=
  { pc := BitVec.ofNat 55 l.kentry, rpc := BitVec.ofNat 55 l.kentry, rcnt := 0, csp := 0, preds := 0x80, st := .filed, wait := 0
    frec := false, rngctr := 0, rngent := 0, regs := List.replicate l.nreg 0, fpctl := 0, flags := 0, slot := slot, lane := 0
    wins := [], trap := none, entry := none, pfva := none, arr := none, abst := [], barv := 0, rsv := none, poisoned := []
    predPoison := false, mchk := none, kicked := none }

/-- The 32-bit words of a list of bytes. -/
def wordsOf (b : List Byte) (n : Nat) : List Word := (upTo n).map fun i => BitVec.ofNat 32 (ofBytes ((b.drop (4 * i)).take 4))

/-- k and m of an argument block or a hood header (R46, R253). -/
def kOf (b : List Byte) : List Word := wordsOf b 64
def mOf (b : List Byte) : List (Word × Word) :=
  let w := wordsOf (b.drop 256) 32
  (upTo 16).map fun i => (w.getD (2 * i) 0, w.getD (2 * i + 1) 0)

/-- A new team of a launch at a place (R254, R255). A pair team whose groups do not divide its split point has tiles on both cores
(R231; log 72). -/
def newTeam (lid n ctx : Nat) (l : LaunchRec) (h retry : Nat) (p : Nat × Nat × Nat) (args : List Byte) : Team :=
  { lid := lid, n := n, ctx := ctx, lr := l, hslot := h, retry := retry, saved := false, killed := false, lcore := p.1
    resident := true, image := [], core := p.1, base0 := p.2.1, base1 := p.2.2, k := kOf args, mreg := mOf args
    c := List.replicate 16 { size := 0, count := 0, gen := 0, done := 0 }, part := 4 + l.gw
    tbg := List.replicate 16 0, scratch := [], poisonScratch := [], unfenced := [], bins := List.replicate 32 0
    hold := List.replicate 16 0, hvalid := 0, eng := List.replicate l.engines Engine.init, window := l.rln, log := [], upset := [] }

/-- A team's threads enter the core's batts in TID order, not to issue for 300 clk (R51, R264). -/
def State.fileTeam (s : State) (team : Nat) : State :=
  (s.threadsOf team).foldl (fun s x => if x.2.st = .filed then s.file team x.1 (s.clk + 300) else s) s

/-- The poster's accesses are acquired on the cores a team starts on (R261). -/
def State.startAcquire (s : State) (t : Team) : State := t.cores.foldl (fun s c => s.acquire c t.ctx .sys) s

/-- A team is created at a place (R255): argument block, header, records, register lines and private section; a hood or argument
page that cannot be reached ends the launch with status 4 (R254). Then its threads enter their first region (R55, R157; log 12). -/
def State.createTeam (s : State) (lid n ctx : Nat) (l : LaunchRec) (h retry : Nat) (p : Nat × Nat × Nat) : State :=
  let (args, s) := if l.args = 0 then (some (List.replicate 384 0), s) else s.vRead ctx l.args 384
  match args with
  | none => s.endLaunch lid 4
  | some args =>
    let team := tHandle lid n
    let t := newTeam lid n ctx l h retry p args
    let ths : Tbl Thread := (upTo l.tsize).map fun i => (tkey team i, newThread l (t.slotOf i))
    let (a, s) := s.vClear ctx t.hood (l.callBase)
    let (b, s) := s.vClear ctx (t.hood + l.privBase) (l.hoodEnd - l.privBase)
    let s := { s with teams := s.teams.put team t, threads := ths.foldl (fun (x : Tbl Thread) (e : Nat × Thread) => Tbl.put x e.1 e.2) s.threads }
    let (ok, s) := s.writeHood team t (a && b)
    if ok then ((s.startAcquire t).modThreads team fun _ u => u.enterRegion u.pc).fileTeam team else s.endLaunch lid 4

/-! ### Leaving a core (R60, R265, R266) -/

/-- A thread-state record (R266). -/
def Thread.stateRec (t : Thread) : Nat :=
  let a := t.arr.getD { pci := 0, rcnt := 0, result := 0 }
  b2n t.rsv.isSome * 2 ^ 178 + (t.rsv.getD 0) % 1024 * 2 ^ 168 + t.barv.toNat * 2 ^ 152 + b2n t.arr.isSome * 2 ^ 151
    + a.result.toNat * 2 ^ 87 + a.rcnt.toNat * 2 ^ 55 + a.pci.toNat

/-- A thread holds nothing that a switch-out must wait for: every window is ready or waits for its condition (R60). -/
def Thread.quiet (t : Thread) : Bool := t.wins.all fun w => w.ready || w.wait.isSome || w.kind.isMacrd || w.kind == .fence

/-- The results that a thread has are written and its waits park it; its STATE is otherwise unchanged in the record (R50, R60). -/
def Thread.drained (t : Thread) : Thread :=
  let t := t.pastKick
  let t := (t.wins.filter fun w => (w.ready && !w.kind.isMacrd) || w.kind == .fence).foldl
    (fun t w => (t.modWin w.id fun w => { w with ready := true }).deliver w.id none) t
  match t.wins.find? fun w => w.wait.isSome with
  | some w => if t.st = .exited ∨ t.wait = 6 then t else { t with st := .parked, wait := (w.wait.map Wait.code).getD 0 }
  | none => t

/-- The row's addresses come from the index list. -/
def Blk.indexed (k : Blk) : Bool := k.kind == 2 || k.kind == 3

/-- The modulus of the addresses of a space (R331). -/
def spaceMod (sp : Nat) : Nat := if sp = 0 then 2 ^ 64 else 2 ^ 32

/-- The source address of row r, whose index entry is i (R331). -/
def Blk.srcAt (k : Blk) (r i : Nat) : Nat :=
  (k.src + (if k.kind = 0 then r * k.len else if k.kind = 2 then i * k.sstr else r * k.sstr)) % spaceMod k.ssp

/-- The destination address of row r, whose index entry is i (R331). -/
def Blk.dstAt (k : Blk) (r i : Nat) : Nat :=
  (k.dst + (if k.kind = 0 then r * k.len else if k.kind = 3 then i * k.dstr else r * k.dstr)) % spaceMod k.dsp

/-- Chunks of a row at a destination address (R332). -/
def chunksOf (dst len : Nat) : Nat := (dst + len - 1) / 512 + 1 - dst / 512

/-- A chunk of a request. -/
def CopyReq.chunk? (r : CopyReq) (row n : Nat) : Option Chunk := r.chunks.find? fun k => k.row == row && k.n == n

/-- The index entry kept of a row (R331); 0 where rows have none. -/
def CopyReq.entry (r : CopyReq) (row : Nat) : Nat := r.idxs.get row 0

/-- The source and destination addresses of a row (R331). -/
def CopyReq.src (r : CopyReq) (row : Nat) : Nat := r.blk.srcAt row (r.entry row)
def CopyReq.dst (r : CopyReq) (row : Nat) : Nat := r.blk.dstAt row (r.entry row)

/-- The row's index entry, if it has one, has been read (R331). -/
def CopyReq.rowKnown (r : CopyReq) (row : Nat) : Bool := !r.blk.indexed || (r.idxs.find row).isSome

/-- Every chunk of every row satisfies a condition. -/
def CopyReq.allChunks (r : CopyReq) (p : Chunk → Bool) : Bool :=
  (upTo r.blk.nrow).all fun row => r.rowKnown row && (upTo (chunksOf (r.dst row) r.blk.len)).all fun n => (r.chunk? row n).any p

/-- A copy request uses the scratchpad of the team that issued it (R348). -/
def CopyReq.usesScratch (r : CopyReq) : Bool := r.blk.ssp == 1 || r.blk.dsp == 1 || r.blk.indexed

/-- A request has read and written all that it does of its team's scratchpad, landing words apart: its index entries, its source and its
destination (R348; log 60). -/
def CopyReq.scratchDone (r : CopyReq) : Bool :=
  !r.usesScratch || ((upTo r.blk.nrow).all r.rowKnown && (r.blk.ssp != 1 || r.allChunks fun _ => true)
    && (r.blk.dsp != 1 || r.allChunks (·.written)))

/-- The issuing team's landing words, index list or scratchpad are still to be used (R348). -/
def CopyReq.usesTeam (r : CopyReq) : Bool := r.usesScratch || r.blk.slv || (r.blk.dlv && r.blk.dsp != 2)

/-- The requests of a team in the queues of all cores. -/
def State.copiesOf (s : State) (team : Nat) : List CopyReq := s.cores.flatMap fun e => e.2.copyq.filter fun r => r.team == team

/-- No request of a team has yet to read or write its scratchpad (R348). -/
def State.scratchQuiet (s : State) (team : Nat) : Bool := (s.copiesOf team).all CopyReq.scratchDone

/-- The request's index entries read that have not been; one that is poisoned ends it (R331, R348, R412). -/
def State.readIndexes (s : State) (c : Nat) (r : CopyReq) : State :=
  match s.team? r.team with
  | none => s
  | some t =>
    if r.blk.indexed && t.resident then
      if t.sPoisoned r.blk.idx (4 * r.blk.nrow) then s.copyFault c r 2
      else s.modCopy c r.id fun r =>
        { r with idxs := (upTo r.blk.nrow).foldl (fun (l : Tbl Nat) i => if (l.find i).isSome then l else l.put i (t.sNat (r.blk.idx + 4 * i) 4)) r.idxs }
    else s

/-- The copy engine reads what it needs of the index lists of teams that leave their cores (R348). -/
def State.readLists (s : State) (teams : List Nat) : State :=
  s.cores.foldl (fun s e => (e.2.copyq.filter fun r => teams.contains r.team && !(upTo r.blk.nrow).all r.rowKnown).foldl
    (fun s r => s.readIndexes e.1 r) s) s

/-- A team may leave its cores: no result is on its way, and no request of its own still uses its scratchpad (R60, R348). -/
def State.teamQuiet (s : State) (team : Nat) : Bool := (s.threadsOf team).all (fun x => x.2.quiet) && s.scratchQuiet team

/-- The pending traps of a team's threads delivered. -/
def State.deliverTraps (s : State) (team : Nat) : State :=
  (s.threadsOf team).foldl (fun s x => if x.2.trap.isSome then s.deliverTrap team x.1 else s) s

/-- A team's threads leave the batts and groups of its cores. -/
def State.unschedTeam (s : State) (team : Nat) : State :=
  match s.team? team with
  | some t => t.cores.foldl (fun s c => s.modCore c fun k => k.unsched fun a _ => a == team) s
  | none => s

/-- The accumulators of a team's engines written to its save area (R265). -/
def State.writeAcc (s : State) (t : Team) (ok : Bool) : Bool × State :=
  let l := t.lr
  (upTo l.engines).foldl (fun r e =>
    let va := t.saveVa + l.accBase + 1024 * l.accrows * e
    let (k, s) := r.2.vClear t.ctx va (1024 * l.accrows)
    (t.engine e).acc.foldl (fun r x => if x.1 < 256 * l.accrows then r.2.imageWrite t r.1 (va + 4 * x.1) (wordBytes x.2) else r)
      (r.1 && k, s)) (ok, s)

/-- The front and shadow planes of one engine of a team written to its save area (R265, R383). -/
def writePlane (t : Team) (r : Bool × State) (e : Nat) : Bool × State :=
  let va := t.saveVa + t.lr.planeBase + 327680 * e
  let k := t.engine e
  let (ok, s) := r.2.imageSparse t r.1 va 163840 (if k.front.valid then k.frontImg else [])
  s.imageSparse t ok (va + 163840) 163840 (if k.shadow.valid then k.shadowImg else [])

/-- The planes of every engine of a team that has engines (R265, R383). -/
def State.writePlanes (s : State) (t : Team) (ok : Bool) : Bool × State :=
  if t.lr.mx then (upTo t.lr.engines).foldl (writePlane t) (ok, s) else (ok, s)

/-- The images of a team written to its save area (R265, R383). -/
def State.writeImages (s : State) (team : Nat) (t : Team) (ok : Bool) : Bool × State :=
  let l := t.lr
  let (ok, s) := s.imageSparse t ok t.saveVa l.accBase t.scratch
  let (ok, s) := s.writeAcc t ok
  let (ok, s) := s.writePlanes t ok
  (s.threadsOf team).foldl (fun r x => r.2.imageWrite t r.1 (t.saveVa + l.stateBase + 32 * x.1) (toBytes 32 x.2.stateRec)) (ok, s)

/-- The MFENCEs of a team's threads that are still under way are performed (R60, R377). -/
def State.fencesDone (s : State) (team : Nat) : State :=
  (s.threadsOf team).foldl (fun s x => if x.2.wins.any fun w => w.kind == .fence then s.matFence team x.1 else s) s

/-- A team leaves its cores with its images saved (R60, R265); a page that cannot be written ends its launch (R254). `restart`:
at a quarantine drain each thread resumes at its region entry (R196). -/
def State.saveTeam (s : State) (team : Nat) (restart : Bool) : State :=
  let s := ((s.fencesDone team).modThreads team fun _ t => t.drained).deliverTraps team
  match s.team? team with
  | none => s
  | some _ =>
    let s := if restart then (s.threadsOf team).foldl (fun s x => s.restart team x.1) s else s
    let s := (s.unschedTeam team).modTeam team fun t => { t with saved := true, resident := false, lcore := t.core }
    match s.team? team with
    | none => s
    | some t =>
      let (ok, s) := s.writeHood team t true
      let (ok, s) := s.writeLines team t ok
      let (ok, s) := s.writeImages team t ok
      let (image, s) := s.vRead t.ctx t.saveVa t.lr.saveEnd
      if ok then s.modTeam team fun t => { t with image := image.getD [] } else s.endLaunch t.lid 4

/-! ### Coming back (R61, R267) -/

/-- The convergence registers of a hood header. -/
def cOfHeader (b : List Byte) : List CReg :=
  let w := wordsOf (b.drop 0x180) 64
  (upTo 16).map fun i => { size := w.getD (4 * i) 0, count := w.getD (4 * i + 1) 0, gen := w.getD (4 * i + 2) 0, done := w.getD (4 * i + 3) 0 }

/-- A plane's state from its byte of MXPL (R384). -/
def planeOf (b : Nat) : Plane := { valid := bitOf b 4, fmt := b % 16, ns := bitOf b 5, sparse := bitOf b 6 }

/-- A number of n bytes in a list of bytes. -/
def numAt (b : List Byte) (off n : Nat) : Nat := ofBytes ((b.drop off).take n)

/-- The team state of a hood header (R255, R339, R383). -/
def Team.fromHeader (t : Team) (b : List Byte) : Team :=
  let eng (e : Nat) (k : Engine) : Engine :=
    let p := bits (numAt b 0x2E4 4) (16 * e + 15) (16 * e)
    let ent := numAt b (0x2E8 + 4 * e) 4
    { k with ent := ent, cmp := ent, mstat := BitVec.ofNat 5 (numAt b (0x2F0 + 4 * e) 4), front := planeOf (p % 256)
             shadow := planeOf (p / 256) }
  { t with k := kOf b, mreg := mOf b, c := cOfHeader b, retry := numAt b 0x28C 4, tbg := wordsOf (b.drop 0x2A0) 16
           part := numAt b 0x2E0 4 % 8, bins := wordsOf (b.drop 0x300) 32, hold := wordsOf (b.drop 0x380) 16
           hvalid := BitVec.ofNat 16 (numAt b 0x3C0 4), eng := t.eng.mapIdx eng }

/-- A thread's fields from its record (R47). -/
def Thread.fromRecord (t : Thread) (x : Nat) : Thread :=
  { t with pc := BitVec.ofNat 55 x, rpc := BitVec.ofNat 55 (x >>> 55), rcnt := BitVec.ofNat 32 (x >>> 110), csp := bits x 157 142
           preds := BitVec.ofNat 8 (x >>> 158) ||| 0x80
           st := (match bits x 167 166 with
             | 0 => .filed
             | 1 => .filed
             | 2 => .parked
             | _ => .exited)
           wait := BitVec.ofNat 4 (x >>> 168), frec := bitOf x 172, rngctr := BitVec.ofNat 40 (x >>> 176), rngent := BitVec.ofNat 40 (x >>> 216) }

/-- A thread's fields from its thread-state record (R266). -/
def Thread.fromState (t : Thread) (x : Nat) : Thread :=
  { t with arr := if bitOf x 151 then some { pci := BitVec.ofNat 55 x, rcnt := BitVec.ofNat 32 (x >>> 55), result := BitVec.ofNat 64 (x >>> 87) } else none
           barv := BitVec.ofNat 16 (x >>> 152), rsv := if bitOf x 178 then some (bits x 177 168) else none }

/-- A thread's registers, FPCTL and FLAGS from the register lines of its team (R46): the words as they stand there, reserved bits and
a reserved RM with them (log 86). -/
def Thread.fromLines (t : Thread) (l : LaunchRec) (tid : Nat) (b : List Byte) : Thread :=
  let w (j : Nat) : Word := BitVec.ofNat 32 (numAt b (128 * (tid / 32 * (l.nreg + 2) + j) + 4 * (tid % 32)) 4)
  { t with regs := (upTo l.nreg).map w, fpctl := w l.nreg, flags := w (l.nreg + 1) }

/-- An engine's rows and planes from the save area (R265, R383). -/
def Engine.fromImages (k : Engine) (l : LaunchRec) (e : Nat) (b : List Byte) : Engine :=
  let pl := l.planeBase + 327680 * e
  { k with acc := spPutN [] 0 (wordsOf (b.drop (l.accBase + 1024 * l.accrows * e)) (256 * l.accrows))
           frontImg := if l.mx then imgOf 0 ((b.drop pl).take 163840) else []
           shadowImg := if l.mx then imgOf 0 ((b.drop (pl + 163840)).take 163840) else [] }

/-- The collectives of a team that wait move to the cores that now hold their tiles (R252). -/
def State.moveColls (s : State) (team : Nat) (t : Team) : State :=
  let cs := s.cores.flatMap fun e => e.2.colls.filter fun c => c.team == team
  let s := { s with cores := s.cores.mapKV fun _ (k : Core) => { k with colls := k.colls.filter fun c => c.team != team } }
  cs.foldl (fun s c => s.modCore (t.coreOf (c.tile * c.size)) fun k => { k with colls := k.colls ++ [c] }) s

/-- The logged stores of a team belong to the core that holds its thread now (R282). -/
def Team.moveLog (t : Team) : Team := { t with log := t.log.map fun r => { r with core := t.coreOf r.tid } }

/-- Rows in which the threads of a team that watch a word, or wait on a landing word, read it again (R307, R349). -/
def State.watchAgainAll (s : State) (team : Nat) : State :=
  let due := s.waiters team fun w => match w with
    | .watch _ _ _ _ _ _ _ _ _ => true
    | _ => false
  let lands := distinct ((s.waiters team fun w => match w with
    | .land _ _ _ _ => true
    | _ => false).filterMap fun x => match x.2.wait with
      | some (.land o _ _ _) => some o
      | _ => none)
  lands.foldl (fun s o => s.landWake team o)
    (s.soon (due.map fun x => Happening.row .watchWake { team := team, tid := x.1 }))

/-- A parked thread of a team that comes back (R61): one parked on a page fault restarts; one whose wait ended meanwhile has its
results written and is filed, or has its late trap to be delivered (R168). -/
def Thread.resumed (t : Thread) : Thread :=
  if t.st ≠ .parked then t
  else if t.wait = 6 then { t.restarted with st := .filed }
  else
    match t.wins.find? fun w => w.ready && !w.kind.isMacrd with
    | some w =>
      let t := t.deliver w.id none
      { t with st := if t.trap.isSome then .running else .filed, wait := 0 }
    | none => t

/-- A reservation read back from a save area that a program has changed: it differs from the one held only where the program wrote;
the thread then holds none and the slot is released, so that no other queue is touched (R268; log 79). -/
def State.reclaim (s : State) (team : Nat) (t : Team) (save : List Byte) : State :=
  (s.threadsOf team).foldl (fun s x =>
    let y := x.2.fromState (numAt save (t.lr.stateBase + 32 * x.1) 32)
    if y.rsv = x.2.rsv then s else s.freeRsv team x.1) s

/-- A saved team comes back at a place: every section is read, threads parked on a page fault restart and the others resume as
they were (R61, R267); what a program wrote over its save area meanwhile yields unspecified values (R268); a page that cannot be read
ends the launch (R254). -/
def State.loadTeam (s : State) (team : Nat) (p : Nat × Nat × Nat) : State :=
  match s.team? team with
  | none => s
  | some t =>
    let l := t.lr
    let (head, s) := s.vRead t.ctx t.hood (0x400 + 0x400 * l.blocks)
    let (lines, s) := s.vRead t.ctx (t.hood + l.regBase) (l.callBase - l.regBase)
    let (save, s) := s.vRead t.ctx t.saveVa l.saveEnd
    match head, lines, save with
    | some head, some lines, some save =>
      let (save, s) := s.changed t.image save
      let s := s.reclaim team t save
      let t := { t with resident := true, saved := false, image := [], core := p.1, base0 := p.2.1, base1 := p.2.2, lcore := p.1
                        scratch := imgOf 0 (save.take l.scratch) }.fromHeader head
      let t := { t with eng := t.eng.mapIdx fun e (k : Engine) => k.fromImages l e save }.moveLog
      let s := { s with teams := s.teams.put team t }
      let s := s.modThreads team fun i x =>
        { ((x.fromRecord (numAt head (0x400 + 32 * i) 32)).fromState (numAt save (l.stateBase + 32 * i) 32)).fromLines l i lines with
            slot := t.slotOf i, rsv := x.rsv }.resumed
      let (ok, s) := (s.moveColls team t).imageWrite t true t.hood t.header
      if ok then (s.fileTeam team).watchAgainAll team else s.endLaunch t.lid 4
    | _, _, _ => s.endLaunch t.lid 4

/-! ### What system software writes over a hood (R48) -/

/-- Some of n bytes from an offset are among those written. -/
def hitAt (hits : List Nat) (o n : Nat) : Bool := hits.any fun x => decide (o ≤ x) && decide (x < o + n)

/-- The word at an offset of a hood: free where it was written over. -/
def State.upsetWord (s : State) (hits : List Nat) (o : Nat) (w : Word) : Word × State :=
  if hitAt hits o 4 then (loW (Config.freeWord s.fresh), { s with fresh := s.fresh + 1 }) else (w, s)

/-- Words that lie one after another from an offset of a hood, `step` bytes apart. -/
def State.upsetWords (s : State) (hits : List Nat) (o step : Nat) (ws : List Word) : List Word × State :=
  let r := ws.foldl (fun (a : List Word × Nat × State) w =>
    let (w, s) := a.2.2.upsetWord hits a.2.1 w; (w :: a.1, a.2.1 + step, s)) ([], o, s)
  (r.1.reverse, r.2.2)

/-- A thread whose registers, FPCTL, FLAGS, predicates, RCNT and random state are free where its record or its register lines were
written over (R46 to R48; log 62). -/
def State.upsetThread (s : State) (hits : List Nat) (l : LaunchRec) (i : Nat) (t : Thread) : Thread × State :=
  let r := 0x400 + 32 * i
  let (ws, s) := s.upsetWords hits (l.regBase + 128 * (i / 32 * (l.nreg + 2)) + 4 * (i % 32)) 128 (t.regs ++ [t.fpctl, t.flags])
  let (b, s) := s.freeBytes 32
  let f := ofBytes b
  ({ t with
      regs := ws.take t.regs.length, fpctl := ws.getD t.regs.length 0, flags := ws.getD (t.regs.length + 1) 0
      preds := if hitAt hits (r + 19) 2 then BitVec.ofNat 8 (f >>> 158) ||| 0x80 else t.preds
      rcnt := if hitAt hits (r + 13) 5 then BitVec.ofNat 32 (f >>> 110) else t.rcnt
      rngctr := if hitAt hits (r + 22) 5 then BitVec.ofNat 40 (f >>> 176) else t.rngctr
      rngent := if hitAt hits (r + 27) 5 then BitVec.ofNat 40 (f >>> 216) else t.rngent }, s)

/-- A team whose k, m, c, transfer and bin words are free where its header was written over (R46, R48; log 62). -/
def State.upsetHeader (s : State) (hits : List Nat) (t : Team) : Team × State :=
  let (ws, s) := s.upsetWords hits 0 4 (wordsOf t.header 256)
  let u := t.fromHeader (ws.flatMap wordBytes)
  ({ t with k := u.k, mreg := u.mreg, c := u.c, tbg := u.tbg, bins := u.bins, hold := u.hold, hvalid := u.hvalid }, s)

/-- The frame of local memory that holds a page of a team's hood. -/
def State.hoodFrame (s : State) (t : Team) (page : Nat) : Option Nat :=
  match (walkFrom s 0 t.ctx (t.hood + 65536 * page) 3 0 (s.ctx t.ctx).ptroot []).1 with
  | .ok x =>
    let g := x.pa + (t.hood + 65536 * page) % 2 ^ x.log2
    if pkgOf g = s.pkgid then some (localOf g / 65536) else none
  | .fault _ => none
  | .poison _ => none

/-- The offsets of a team's hood that lie among n bytes of local memory. -/
def State.hoodHits (s : State) (t : Team) (pa n : Nat) : List Nat :=
  (upTo (ceilDiv t.lr.hoodEnd 65536)).flatMap fun page =>
    match s.hoodFrame t page with
    | none => []
    | some f => ((upTo n).filter fun i => (pa + i) / 65536 == f && decide (65536 * page + (pa + i) % 65536 < t.lr.hoodEnd)).map
        fun i => 65536 * page + (pa + i) % 65536

/-- System software writes bytes of a team's hood: while the team is resident, it reads each field so written as an unspecified value;
otherwise the hood simply holds them (R48; log 62). -/
def State.upsetTeam (s : State) (team : Nat) (t : Team) (hits : List Nat) : State :=
  if hits.isEmpty then s
  else if !t.resident then s.modTeam team fun t => { t with upset := t.upset.filter fun o => !hits.contains o }
  else
    let (t, s) := s.upsetHeader hits t
    let s := (s.threadsOf team).foldl (fun s x =>
      let (y, s) := s.upsetThread hits t.lr x.1 x.2
      s.modThread team x.1 fun _ => y) s
    { s with teams := s.teams.put team { t with upset := distinct (t.upset ++ hits.filter fun o => decide (t.lr.callBase ≤ o)) } }

/-- System software writes n bytes of local memory: the hoods among them (R48). -/
def State.upsetHoods (s : State) (pa n : Nat) : State :=
  s.teams.foldl (fun s e => s.upsetTeam e.1 e.2 (s.hoodHits e.2 pa n)) s

end Sys2Proof.Machine
end

