-- ==== Sys2Proof/Machine/Launch.lean ====
section
/-! DEFINITION. The launch engine: LAUNCH, QRES and QFREE, queues and contexts, start, placement, switch-out and switch-in,
retirement and relaunch (02 R41 to R45, R54, R60, R61; 09 R256 to R271; 17 R448). -/

namespace Sys2Proof.Machine

/-! ### Posting (R259 to R261) -/

/-- What an instruction waits for at issue: nothing, or the state in which its group stalls. -/
def runWait (h : Hdr) (len : Nat) (vs : List VOp) (a : Option VReg)
    (waits : Nat → Group → Team → List (Nat × Nat × Thread) → State → Option State)
    (f : Nat → Group → Team → List (Nat × Nat × Thread) → State → State) (s : State) : Host.Outcome State Fault Refusal :=
  runHeld h len vs (fun c slot g tm live s =>
    match waits c g tm live s with
    | some s => s.stallGroup c slot g
    | none => (f c g tm live (s.issueAll g len)).settle c slot (latchOf h a vs)) s

/-- An effect on each live lane, in lane order; a thread whose team has gone does nothing. -/
def State.eachLane (s : State) (team : Nat) (live : List (Nat × Nat × Thread)) (f : Nat → Thread → State → State) : State :=
  live.foldl (fun s x => if (s.thread? team x.2.1).isSome then f x.2.1 x.2.2 s else s) s

/-- The cause, of 1 and 2, for which a queue rejects a context (R260). -/
def State.barsCtx (s : State) (q ctx : Nat) : Bool :=
  !s.takesPosts q || ((s.queue q).ctx != ctx && !(s.queue q).xpost)

/-- QRES of one thread (R259). Whether a QRES that a queue rejects stores its cause in EQSTAT.ERR is open; the model stores
nothing (log 75). -/
def State.qres (s : State) (team tid : Nat) (tm : Team) (t : Thread) (h : Hdr) (d len q : Nat) : State :=
  if s.barsCtx q tm.ctx ∨ (t.rsv.isSome ∧ t.rsv ≠ some q) then
    s.takeTrap team tid (s.trapAt kQueueFault (BitVec.ofNat 64 q) t.pc len)
  else if t.rsv = some q then (s.touch tm.ctx (crownOfQueue q)).answer team tid h t.pc .engine [(d, 1)]
  else if 0 < (s.queue q).free then
    (((s.touch tm.ctx (crownOfQueue q)).modQueue q fun x => { x with rsvs := x.rsvs + 1 }).modThread team tid fun t => { t with rsv := some q }).answer
      team tid h t.pc .engine [(d, 1)]
  else (s.touch tm.ctx (crownOfQueue q)).answer team tid h t.pc .engine [(d, 0)]

/-- QRES (R259). -/
def execQres (h : Hdr) (d : VReg) (b : SrcB) (s : State) : Host.Outcome State Fault Refusal :=
  runLanes h (lenB b) none (vW d :: srcOps b) none (fun _ team tm tid t s =>
    s.qres team tid tm t h d.toNat (lenB b) (bVal tm t b).toNat) s

/-- QFREE (R259). -/
def execQfree (h : Hdr) (s : State) : Host.Outcome State Fault Refusal :=
  runLanes h 2 none [] none (fun _ team _ tid _ s => s.freeRsv team tid) s

/-- The scope of a LAUNCH's release (R261). -/
def launchScope (sys : Bool) : Scope := if sys then .sys else .pkg

/-- A record whose window is open takes its slot and waits to be copied, or its thread parks (R260, R261). -/
def State.launchEnter (s : State) (team tid win q : Nat) (p : Post) (d : Nat) (took : Bool) : State :=
  if took then s.modQueue q fun x => { x with posts := x.posts ++ [p] }
  else
    let w := Wait.launch q p.raw d p.sys s.clk
    ((s.modThread team tid fun t => t.modWin win fun v => { v with wait := some w }).park team tid w).modQueue q fun x =>
      { x with parked := x.parked ++ [p] }

/-- A record that LAUNCH has read and that no check rejects is posted (R260 to R262): the reservation or a free slot is used, or
the thread parks. -/
def State.launchPost (s : State) (c team tid : Nat) (tm : Team) (win d q : Nat) (b : List Byte) (sys res : Bool) : State :=
  let s := ((s.tells team tid).release c tm.ctx (launchScope sys)).touch tm.ctx (crownOfQueue q)
  let p := s.post (some (team, tid)) b sys
  if res then
    ((s.modThread team tid fun t => { t with rsv := none }).modQueue q fun x => { x with rsvs := x.rsvs - 1 }).launchEnter
      team tid win q p d true
  else s.launchEnter team tid win q p d (decide (0 < (s.queue q).free))

/-- The cause for which a thread's record is rejected, stored in ERR (R260). -/
def State.launchCause (s : State) (q : Nat) (tm : Team) (t : Thread) (b : List Byte) (res : Bool) : Option Nat × State :=
  match s.rejectCause q (some tm.ctx) b (res && t.rsv != some q) with
  | some k => (some k, if q ≤ 1023 then s.modQueue q fun x => { x with err := k } else s)
  | none => (none, s)

/-- LAUNCH of a thread whose record lies in this package (R260). -/
def State.launchHere (s : State) (c team tid : Nat) (tm : Team) (t : Thread) (h : Hdr) (sys res : Bool) (d len q : Nat) (va : DWord)
    (x : Xlat) (gpa : Nat) : State :=
  let s := if 2 ≤ x.cls then s.lineLoad c tm.ctx va.toNat x (lineOf (localOf gpa)) 1 else s
  let ((b, bad), s) := s.readGlobal c team tid tm.ctx va x .pkg gpa 128 1
  if bad then s.consume team tid t.pc (dramLoc (localOf gpa)) (localOf gpa)
  else
    match s.launchCause q tm t b res with
    | (some _, s) => s.takeTrap team tid (s.trapAt kQueueFault (BitVec.ofNat 64 q) t.pc len)
    | (none, s) =>
      let (id, s) := s.takeId
      let s := (s.crossGate team).openWin team tid (mkWin h id .post t.pc [(d, 0)] false)
      (s.launchPost c team tid tm id d q b sys res).closeRegion team tid

/-- LAUNCH of a thread whose record lies in another package, after the stores of its core that wait for the record's line: a read
message for it, and the posting when its response comes (R130, R141, R260, R401; log 77). -/
def State.launchAway (s : State) (c team tid : Nat) (tm : Team) (t : Thread) (h : Hdr) (sys res : Bool) (d len q gpa : Nat) : State :=
  let (id, s) := ((s.crossGate team).drainTo c fun r => lineOf r.pa == lineOf gpa).takeId
  let (rid, s) := s.sendReq (bareMsg .read (pkgOf gpa) 128 gpa []) (.record team tid id d len q sys res) team tid tm.ctx
  (s.openWin team tid (mkWin h id (.remote rid) t.pc [(d, 0)] false)).closeRegion team tid

/-- The record of a LAUNCH has come from another package (R260). -/
def State.launchGot (s : State) (team tid win d q : Nat) (sys res : Bool) (b : List Byte) : State :=
  match s.team? team, s.thread? team tid with
  | some tm, some t =>
    match t.win? win with
    | none => s
    | some _ =>
      let s := s.modThread team tid fun t => t.modWin win fun v => { v with kind := .post }
      match s.launchCause q tm t b res with
      | (some _, s) => s.launchFault q team tid
      | (none, s) => s.launchPost (tm.coreOf tid) team tid tm win d q b sys res
  | _, _ => s

/-- LAUNCH of one thread (R260). -/
def State.launchLane (s : State) (c team tid : Nat) (tm : Team) (t : Thread) (h : Hdr) (sys res : Bool) (d len q : Nat) (va : DWord) : State :=
  if va.toNat % 128 ≠ 0 then s.takeTrap team tid (s.trapAt kMisaligned va t.pc len)
  else
    match s.access (dieOf c) (some c) tm.ctx .read va with
    | (.pageFault cause, s) => s.pageFault team tid t.pc va cause false false
    | (.trap k i, s) => s.takeTrap team tid (s.trapAt k i t.pc len)
    | (.poison pa, s) => s.consume team tid t.pc (dramLoc pa) pa
    | (.ok gpa x, s) =>
      if pkgOf gpa = s.pkgid then s.launchHere c team tid tm t h sys res d len q va x gpa
      else if s.noPath gpa false then s.takeTrap team tid (s.trapAt kRemoteFault (BitVec.ofNat 64 gpa) t.pc len)
      else s.launchAway c team tid tm t h sys res d len q gpa

/-- LAUNCH (R260); one with .sys waits at issue until its threads' writes to other packages are acknowledged (R261, R401). -/
def execLaunch (h : Hdr) (sys res : Bool) (d a : VReg) (b : SrcB) (s : State) : Host.Outcome State Fault Refusal :=
  runWait h (lenB b) (vW d :: vR a 2 :: srcOps b) (some a)
    (fun c g _ live s => s.relWaits c g.team live .rel sys)
    (fun c g tm live s => s.eachLane g.team live fun tid t s =>
      s.launchLane c g.team tid tm t h sys res d.toNat (lenB b) (bVal tm t b).toNat (t.reg64 a.toNat)) s

/-- The lowest slot of a queue's ring that holds no launch (R260). -/
def Queue.freeRing (q : Queue) : Nat := ((upTo q.size).find? fun i => (q.slots.find i).isNone).getD 0

/-- The launch that a posted record becomes when it is copied (R253, R260, R262). -/
def State.newLaunch (s : State) (q slot posted : Nat) (p : Post) : Launch :=
  { lr := recOf p.raw, raw := p.raw, q := q, slot := slot, ctx := (s.queue q).ctx, posted := posted, started := false, next := 0
    slots := [], retired := [], cohorts := [], claim := p.claim, claimInst := p.insts, ended := none, worded := false
    code := p.code }

/-- The oldest posted record of a queue is copied into its slot, takes the next launch id and answers its poster (R260, R261,
R263). -/
def State.recordCopy (s : State) (n : Nat) : State :=
  let q := s.queue n
  match q.posts with
  | [] => s
  | p :: r =>
    let slot := q.freeRing
    let lid := s.nextLid.toNat
    let (seq, s) := s.takeId
    let l := s.newLaunch n slot seq p
    let s := (s.setQueue n { q with posts := r, slots := q.slots.put slot lid }).pokeN (q.base + 128 * slot) p.raw
    let s := ({ s with nextLid := s.nextLid + 1, launches := s.launches.put lid l }).touch l.ctx (crownOfQueue n)
    match p.poster with
    | none => s
    | some (team, tid) =>
      match (s.thread? team tid).bind fun t => t.wins.find? fun w => w.kind == .post && w.wait.isNone && !w.ready with
      | some w => s.waitDone team tid w.id (w.regs.map fun r => (r.1, BitVec.ofNat 32 lid))
      | none => s

/-- A posted record is copied (R260). -/
def execLaunchRecordCopy (s : State) : Host.Outcome State Fault Refusal := .next (s.recordCopy s.ev.q)

/-- The ring of a launch's queue still holds its record as the engine knows it (R260). -/
def State.ringKept (s : State) (l : Launch) : Bool :=
  !(s.queue l.q).en || s.peekN ((s.queue l.q).base + 128 * l.slot) 128 == l.raw

/-- The engine reads a launch's slot: bytes written by another agent while the queue is enabled yield unspecified values in the
launch (R260). -/
def State.ringRead (s : State) (lid : Nat) : State :=
  match s.launch? lid with
  | none => s
  | some l =>
    if s.ringKept l then s
    else
      let b := s.peekN ((s.queue l.q).base + 128 * l.slot) 128
      let (r, s) := s.changed l.raw b
      s.modLaunch lid fun l => { l with lr := recOf r, raw := b }

/-! ### Starting (R264) -/

/-- The launch that a queue starts next: the first posted of its highest PRIO not started (R264). -/
def State.queueHead (s : State) (q : Nat) : Option (Nat × Launch) :=
  let ls := s.launches.filter fun e => e.2.q == q && !e.2.started
  let top := ls.foldl (fun m e => max m e.2.lr.prio) 0
  (sortBy (fun e => e.2.posted) (ls.filter fun e => e.2.lr.prio == top)).head?

/-- A queue's next launch may start: the launches it has started are placed whole, and under SER every earlier posting has
retired (R264). -/
def State.mayStartQ (s : State) (q : Nat) : Option Nat :=
  match s.queueHead q with
  | none => none
  | some (lid, l) =>
    let mine := s.launches.filter fun e => e.2.q == q
    if mine.all (fun e => !e.2.started || e.2.next == e.2.lr.nteams) && (!l.lr.ser || mine.all fun e => decide (l.posted ≤ e.2.posted))
        && (s.ctx l.ctx).st == .active then some lid
    else none

/-- The queue of a context whose turn it is, after the one served last (R264). -/
def State.turnOf (s : State) (ctx : Nat) : Option Nat :=
  let qs := distinct ((s.launches.filter fun e => e.2.ctx == ctx && (s.mayStartQ e.2.q).isSome).map fun e => e.2.q)
  let last := s.rrq.get ctx 1023
  (sortBy (fun q => (q + 1024 - (last + 1)) % 1024) qs).head?

/-- A launch starts (R264). -/
def execLaunchStart (s : State) : Host.Outcome State Fault Refusal :=
  let q := s.ev.q
  .next (match s.mayStartQ q with
    | none => s
    | some lid =>
      match s.launch? lid with
      | none => s
      | some l =>
        if s.turnOf l.ctx = some q then
          { ((s.ringRead lid).modLaunch lid fun l => { l with started := true }) with rrq := s.rrq.put l.ctx q }
        else s)

/-! ### Placement (R42 to R45, R254, R262, R264, R270) -/

/-- A die runs teams: Keyed, and not lost (R27, R436). -/
def State.dieRuns (s : State) (d : Nat) : Bool :=
  (s.die d).attested.st == 3 && !(s.die d).lost

/-- The hood slots of a launch that no living team holds, lowest first (R254). -/
def Launch.freeHoods (l : Launch) : List Nat := (upTo l.lr.hslots).filter fun i => (l.slots.find i).isNone

/-- The teams of a launch that live and are on no core. -/
def State.awayTeams (s : State) (lid : Nat) : List (Nat × Team) := s.teams.filter fun e => e.2.lid == lid && !e.2.resident

/-- A launch has a team that waits to be placed and has, or needs no further, hood slot (R42, R254). -/
def State.wants (s : State) (lid : Nat) (l : Launch) : Bool :=
  l.started && (s.ctx l.ctx).st == .active
    && (!(s.awayTeams lid).isEmpty || (decide (l.next < l.lr.nteams) && !l.freeHoods.isEmpty))

/-- The instance in which cohort j of a launch stands. -/
def Launch.instOf (l : Launch) (j : Nat) : Nat := (l.cohorts.get j { inst := 0, bars := [], gone := [] }).inst

/-- The barriers of a cohort could be granted in the instance of its level that holds a core (R42, R44): it holds those it has in
the instance `old` already. -/
def State.barsAt (s : State) (l : LaunchRec) (old : Option Nat) (c : Nat) : Bool :=
  let i := c / (128 / instCount l.clvl)
  l.clvl == 0 || decide (s.barsHeld none l.clvl i + (if old.any fun o => sameBars l.clvl i l.clvl o then 0 else l.barsAsked) ≤ barCap l.clvl)

/-- A core takes a team of a launch, whatever else waits (R42, R351). -/
def State.coreOpen (s : State) (l : LaunchRec) (ctx c : Nat) : Bool :=
  !(s.core c).noTeams && s.dieRuns (dieOf c) && !(l.mx && s.rowsLow c) && !(s.ctx ctx).outCores.contains c

/-- A launch has a team that waits, for which hood slot and barriers are at hand in the instance of a core: its next, or one that is
away (R42). -/
def State.wantsAt (s : State) (lid : Nat) (l : Launch) (c : Nat) : Bool :=
  (decide (l.next < l.lr.nteams) && !l.freeHoods.isEmpty && s.barsAt l.lr none c)
    || (s.awayTeams lid).any fun e => s.barsAt l.lr (some (l.instOf (e.2.n / l.lr.cn))) c

/-- A context of higher priority has a waiting team that could be placed on a core, or on its pair, now (R42). -/
def State.barred (s : State) (prio c : Nat) : Bool :=
  let u := s.uses
  s.launches.any fun e =>
    let l := e.2
    let at' := if l.lr.pair then c / 2 * 2 else c
    decide (prio < (s.ctx l.ctx).prio) && s.wants e.1 l && s.coreOpen l.lr l.ctx at' && (!l.lr.pair || s.coreOpen l.lr l.ctx (at' + 1))
      && s.wantsAt e.1 l c && (fitAt u l.lr at').isSome

/-- A core is claimed by a resident launch that waits to start, of a context whose priority is not below (R262). -/
def State.claimed (s : State) (lid prio c : Nat) : Bool :=
  (s.claims (some lid)).any fun k => !k.placed && decide (prio ≤ (s.ctx k.ctx).prio) && k.cores.contains c

/-- A core takes a team of a launch now (R42, R262). -/
def State.coreOk (s : State) (lid : Nat) (l : Launch) (c : Nat) : Bool :=
  s.coreOpen l.lr l.ctx c && !s.barred (s.ctx l.ctx).prio c && !s.claimed lid (s.ctx l.ctx).prio c

/-- The context's time slice on a core runs from now, unless it runs already (R60). -/
def State.startSlice (s : State) (ctx : Nat) (cores : List Nat) : State :=
  s.modCtx ctx fun x => { x with sliceStart := cores.foldl (fun t c => if (Tbl.find t c).isSome then t else Tbl.put t c s.clk) x.sliceStart }

/-- Team n of a launch comes to a place, and its context has touched that C-die (R30): a new team takes the lowest free hood slot, a killed one is created again in its own,
a saved one is restored (R254, R255, R267, R270). -/
def State.putTeam (s : State) (lid n : Nat) (p : Nat × Nat × Nat) : State :=
  match s.launch? lid with
  | none => s
  | some l =>
    let s := (s.startSlice l.ctx (if l.lr.pair then [p.1, p.1 + 1] else [p.1])).touch l.ctx (dieOf p.1)
    match s.team? (tHandle lid n) with
    | some t => if t.killed then s.createTeam lid n l.ctx l.lr t.hslot t.retry p else s.loadTeam (tHandle lid n) p
    | none =>
      match l.freeHoods with
      | [] => s
      | h :: _ =>
        let s := s.modLaunch lid fun l => { l with slots := l.slots.put h n, next := max l.next (n + 1) }
        s.createTeam lid n l.ctx l.lr h 0 p

/-- Teams of a launch come to places. -/
def State.putTeams (s : State) (lid : Nat) (ns : List Nat) (ps : List (Nat × Nat × Nat)) : State :=
  (ns.zip ps).foldl (fun s x => s.putTeam lid x.1 x.2) s

/-- A cohort's barriers granted (R44, R246), with G = 0 (R247). -/
def State.grantBars (s : State) (lid j inst : Nat) : State :=
  s.modLaunch lid fun l =>
    { l with cohorts := l.cohorts.put j { inst := inst, bars := List.replicate l.lr.barsAsked { gen := 0, arr := [] }, gone := [] } }

/-- The next team of a launch without cohorts is placed (R264). -/
def State.placeNext (s : State) (lid : Nat) (l : Launch) : State :=
  match l.freeHoods, chooseCore s.uses l.lr (s.coreOk lid l) allCores with
  | _ :: _, some p => s.putTeam lid l.next p
  | _, _ => s

/-- The next cohort of a launch is placed whole (R44, R264). -/
def State.placeCohort (s : State) (lid : Nat) (l : Launch) : State :=
  if l.freeHoods.length < l.lr.cn then s
  else
    match chooseCohort s.uses l.lr (s.coreOk lid l) l.lr.cn
        (fun i => decide (s.barsHeld none l.lr.clvl i + l.lr.barsAsked ≤ barCap l.lr.clvl)) (upTo (instCount l.lr.clvl)) with
    | some (i, ps, _) => (s.grantBars lid (l.next / l.lr.cn) i).putTeams lid ((upTo l.lr.cn).map (l.next + ·)) ps
    | none => s

/-- A part of a team fits at its claimed block. -/
def CoreUse.fitsAt (u : CoreUse) (l : LaunchRec) (upper : Bool) (base : Nat) : Bool :=
  decide (u.scratch + l.scratchOn ≤ 2 ^ 22) && decide (u.acc + l.accrows ≤ 512) && decide (u.teams < 32) && !(l.mx && u.mx)
    && u.blocks.all fun x => !meets x (base, l.slotsOn upper)

/-- The claimed places of teams are free of other teams (R262). -/
def claimFree (u : Uses) (l : LaunchRec) : List (Nat × Nat × Nat) → Bool
  | [] => true
  | p :: r =>
    (Uses.at u p.1).fitsAt l false p.2.1 && (!l.pair || (Uses.at u (p.1 + 1)).fitsAt l true p.2.2) && claimFree (Uses.place u l p) l r

/-- The cores of a claim. -/
def Launch.claimCores (l : Launch) : List Nat := l.claim.flatMap fun p => if l.lr.pair then [p.2.1, p.2.1 + 1] else [p.2.1]

/-- The barriers of the claimed instances are free of other launches. -/
def State.claimBarsFree (s : State) (lid : Nat) (l : Launch) : Bool :=
  l.claimInst.all fun i =>
    decide (s.barsHeld (some lid) l.lr.clvl i + (l.claimInst.filter fun j => sameBars l.lr.clvl i l.lr.clvl j).length * l.lr.barsAsked
      ≤ barCap l.lr.clvl)

/-- The claim of a resident launch, sought again where a quarantine has broken it (R262). -/
def State.renewClaim (s : State) (lid : Nat) : State :=
  match s.launch? lid with
  | none => s
  | some l =>
    if l.claimCores.any fun c => (s.core c).noTeams then
      match s.residentFit l.lr (some lid) with
      | some (ps, is) =>
        s.modLaunch lid fun l =>
          { l with claim := ps.mapIdx fun i p => (i, p.1, p.2.1, p.2.2), claimInst := is
                   cohorts := l.cohorts.mapKV fun j c => { c with inst := is.getD j c.inst } }
      | none => s
    else s

/-- A resident launch's teams that are on no core come to their claimed places, all together (R45, R262, R270); the barriers of its
cohorts are granted at the start, and again with G = 0 to a cohort that was killed whole (R250). -/
def State.placeResident (s : State) (lid : Nat) : State :=
  let s := s.renewClaim lid
  match s.launch? lid with
  | none => s
  | some l =>
    let ns := if l.next = 0 then upTo l.lr.nteams else (s.awayTeams lid).map fun e => e.2.n
    let ps := ns.filterMap fun n => (l.claim.find? fun p => p.1 == n).map (·.2)
    if l.claimCores.all (fun c => s.coreOpen l.lr l.ctx c && !s.barred (s.ctx l.ctx).prio c) && claimFree s.uses l.lr ps
        && s.claimBarsFree lid l then
      let js := if l.lr.clvl = 0 then [] else if l.next = 0 then upTo (l.lr.nteams / l.lr.cn)
        else if l.lr.hasBars then distinct (((s.awayTeams lid).filter fun e => e.2.killed).map fun e => e.2.n / l.lr.cn) else []
      let s := js.foldl (fun s j => s.grantBars lid j (l.claimInst.getD j 0)) s
      s.putTeams lid ns ps
    else s

/-- The teams that come back together with a team: the teams of its cohort that are away (R44, R196), or itself. -/
def State.unitOf (s : State) (team : Nat) (tm : Team) : List Nat :=
  if tm.lr.clvl = 0 ∨ (tm.killed ∧ ¬ tm.lr.hasBars) then [team]
  else (s.cohortTeams team).filter fun h => match s.team? h with
    | some t => !t.resident && (!t.killed || t.lr.hasBars)
    | none => false

/-- A choice of place tried first among cores that `p` admits, then among all (R270). -/
def preferCores (l : LaunchRec) (u : Uses) (ok p : Nat → Bool) (n : Nat) (cores : List Nat) : Option (List (Nat × Nat × Nat)) :=
  match chooseMany l (fun c => ok c && p c) cores n u with
  | some r => some r.1
  | none => (chooseMany l ok cores n u).map (·.1)

/-- A cohort's entry in a new instance; a relaunched cohort's barriers are granted again with G = 0 (R250). -/
def State.moveCohort (s : State) (lid j inst : Nat) (again : Bool) : State :=
  if again then s.grantBars lid j inst
  else s.modLaunch lid fun l => { l with cohorts := l.cohorts.mapKV fun i c => if i = j then { c with inst := inst } else c }

/-- The instances to try for a cohort that comes back: for a relaunch those other than the one that held it first (R270). Where only
that one fits, the cohort's teams go to its cores by the rule for any cohort, the killing cluster among them (log 78). -/
def State.replaceCohort (s : State) (lid : Nat) (l : Launch) (tm : Team) (unit : List Nat) : State :=
  let j := tm.n / l.lr.cn
  let old := l.instOf j
  let ns := unit.map fun h => h % 2 ^ 24
  let free (i : Nat) : Bool :=
    decide (s.barsHeld none l.lr.clvl i + (if sameBars l.lr.clvl i l.lr.clvl old then 0 else l.lr.barsAsked) ≤ barCap l.lr.clvl)
  let pick (is : List Nat) := chooseCohort s.uses l.lr (s.coreOk lid l) unit.length free is
  let all := upTo (instCount l.lr.clvl)
  let first := if tm.killed then pick (all.filter (· != old)) else none
  match (match first with
    | some r => some r
    | none => pick all) with
  | some (i, ps, _) => (s.moveCohort lid j i tm.killed).putTeams lid ns ps
  | none => s

/-- A team that is away belongs to a core of which its context is switched out: it comes back at switch-in (R267, R271). -/
def State.waitsIn (s : State) (tm : Team) : Bool := tm.cores.any (s.ctx tm.ctx).outCores.contains

/-- A killed or saved team is placed again, with those that must come with it (R44, R196, R267, R270). -/
def State.placeAgain (s : State) (team : Nat) : State :=
  match s.team? team with
  | none => s
  | some tm =>
    match s.launch? tm.lid with
    | none => s
    | some l =>
      if tm.resident ∨ (s.ctx l.ctx).st ≠ .active ∨ s.waitsIn tm then s
      else if l.lr.res then s.placeResident tm.lid
      else
        let unit := s.unitOf team tm
        let far (c : Nat) : Bool := !tm.killed || clusOf c != clusOf tm.lcore
        if l.lr.clvl = 0 ∨ unit = [team] ∧ tm.killed ∧ ¬ tm.lr.hasBars then
          match preferCores l.lr s.uses (s.coreOk tm.lid l) far 1 allCores with
          | some [p] => s.putTeam tm.lid tm.n p
          | _ => s
        else if (s.cohortTeams team).length = unit.length then s.replaceCohort tm.lid l tm unit
        else
          match chooseMany l.lr (s.coreOk tm.lid l) (instCores l.lr.clvl (l.instOf (tm.n / l.lr.cn))) unit.length s.uses with
          | some (ps, _) => s.putTeams tm.lid (unit.map fun h => h % 2 ^ 24) ps
          | none => s

/-- The next team, cohort or resident launch is placed, or with the flag set a killed or drained team (R42, R264). -/
def execTeamPlacement (s : State) : Host.Outcome State Fault Refusal :=
  .next (if s.ev.flag then s.placeAgain s.ev.team
    else
    let s := s.ringRead s.ev.lid
    match s.launch? s.ev.lid with
    | none => s
    | some l =>
      if ¬ l.started ∨ l.ended.isSome ∨ l.lr.nteams ≤ l.next ∨ (s.ctx l.ctx).st ≠ .active then s
      else if l.lr.res then s.placeResident s.ev.lid
      else if l.lr.clvl = 0 then s.placeNext s.ev.lid l
      else s.placeCohort s.ev.lid l)

/-! ### Retirement (R54, R254, R269) -/

/-- A request of this package writes a team's scratchpad from another team (R348). -/
def State.copiesInto (s : State) (team : Nat) : Bool :=
  s.cores.any fun e => e.2.copyq.any fun r => r.blk.dsp == 2 && r.blk.dpkg == s.pkgid && tHandle r.blk.dlid r.blk.dteam == team

/-- Every thread of a team has exited, its matrix operations are complete and no copy needs it (R54, R348). -/
def State.teamEnded (s : State) (team : Nat) (tm : Team) : Bool :=
  tm.resident && (s.threadsOf team).all (fun x => x.2.st == .exited) && (s.teamOps team tm).isEmpty
    && ((s.copiesOf team).all fun r => !r.usesTeam) && !s.copiesInto team

/-- The barriers of a cohort whose last team has retired are freed (R44). -/
def Launch.freeCohort (l : Launch) (j : Nat) : Launch :=
  if (upTo l.lr.cn).all fun i => l.retired.contains (j * l.lr.cn + i) then { l with cohorts := l.cohorts.drop j } else l

/-- A team retires (R54): its state is written back to its hood as it leaves the core (R153); a hood that cannot be written ends the
launch (R254). -/
def State.retireTeam (s : State) (team : Nat) : State :=
  match s.team? team with
  | none => s
  | some tm =>
    if s.teamEnded team tm then
      let s := (s.closeWindow team).leaveCohort team
      let (ok, s) := s.writeHood team tm true
      let (ok, s) := s.writeLines team tm ok
      if ok then
        let s := s.dropTeam team
        if tm.lr.clvl = 0 then s else s.modLaunch tm.lid fun l => l.freeCohort (tm.n / tm.lr.cn)
      else s.endLaunch tm.lid 4
    else s

/-- A team retires (R54). -/
def execTeamRetire (s : State) : Host.Outcome State Fault Refusal := .next (s.retireTeam s.ev.team)

/-- A store, atomic or copy of a launch that its home has not accepted (R54). -/
def State.launchBusy (s : State) (lid : Nat) : Bool :=
  (s.cores.any fun e => (e.2.storeq.any fun r => r.team / 2 ^ 24 == lid) || e.2.copyq.any fun r => r.team / 2 ^ 24 == lid)
    || s.reqs.any fun r => r.team / 2 ^ 24 == lid

/-- The 16 bytes written at DONE (R269). -/
def doneBytes (lid status : Nat) (tag : DWord) : List Byte := toBytes 4 lid ++ [BitVec.ofNat 8 status, 0, 0, 0] ++ toBytes 8 tag.toNat

/-- Where the engine's write of a completion word goes: the global address, or none where the access faults, or its line at home is
poisoned (R269). -/
def State.doneAt (s : State) (ctx va : Nat) : Option (Nat × Xlat) × State :=
  match s.access 8 none ctx .write (BitVec.ofNat 64 va) with
  | (.ok gpa x, s) =>
    (if (if pkgOf gpa = s.pkgid then s.poisonedAt (localOf gpa) else s.noPath gpa false) then none else some (gpa, x), s)
  | (.pageFault _, s) => (none, s)
  | (.trap _ _, s) => (none, s)
  | (.poison _, s) => (none, s)

/-- Half of a completion word: written at its home, or sent to the package that holds it (R269, R401). -/
def State.putDone (s : State) (lid ctx : Nat) (at' : Nat × Xlat) (b : List Byte) : State :=
  let gpa := at'.1
  if pkgOf gpa = s.pkgid then
    if at'.2.cls = 2 then (s.pokeN (localOf gpa) b).lineTaken (lineOf (localOf gpa)) else (s.pokeN (localOf gpa) b).wakeWatch (lineOf (localOf gpa))
  else
    (s.sendReq (bareMsg .write (pkgOf gpa) 0 (lineOf gpa * 128)
      (writeUnits (maskAt gpa b.length) (overlayAt (List.replicate 128 0) (gpa % 128) b))) (.done lid) (tHandle lid 0) 0 ctx).2

/-- The completion word; nothing is written where an address of it fails (R269). -/
def State.writeDone (s : State) (l : Launch) (lid status : Nat) : State :=
  if l.lr.done = 0 then s
  else
    let (p, s) := s.doneAt l.ctx l.lr.done
    let (q, s) := s.doneAt l.ctx (l.lr.done + 8)
    match p, q with
    | some p, some q =>
      let b := doneBytes lid status l.lr.tag
      (s.putDone lid l.ctx p (b.take 8)).putDone lid l.ctx q (b.drop 8)
    | _, _ => s

/-- A launch whose completion word is written frees its slot (R261, R269). -/
def State.freeLaunch (s : State) (lid : Nat) : State :=
  match s.launch? lid with
  | none => s
  | some l =>
    if s.reqs.any fun r => r.what == .done lid then s
    else
      ({ s with launches := s.launches.drop lid }.modQueue l.q fun q => { q with slots := q.slots.drop l.slot }).freeSlot l.q

/-- A launch retires, with status 0 or as it has ended: a release at .sys of all it wrote, the completion word, then its slot
(R269). -/
def State.retireLaunch (s : State) (lid : Nat) : State :=
  match s.launch? lid with
  | none => s
  | some l =>
    if l.worded then s
    else if (l.ended.isSome || (l.started && l.next == l.lr.nteams && decide (l.lr.nteams ≤ l.retired.length))) && !s.launchBusy lid then
      let s := (s.cores.keys.foldl (fun s c => s.release c l.ctx .sys) s).writeDone l lid (l.ended.getD 0)
      (s.modLaunch lid fun l => { l with worded := true }).freeLaunch lid
    else s

/-- A launch retires (R269). -/
def execLaunchRetire (s : State) : Host.Outcome State Fault Refusal := .next ((s.ringRead s.ev.lid).retireLaunch s.ev.lid)

/-! ### Switch-out and switch-in (R60, R61, R267) -/

/-- The teams of a context on a core that a switch-out takes: those of no resident launch (R45, R60). -/
def State.outTeams (s : State) (ctx c : Nat) : List Nat :=
  (s.teams.filter fun e => e.2.ctx == ctx && e.2.resident && !e.2.lr.res && e.2.cores.contains c).map (·.1)

/-- A context has work that waits for a core: a team away that belongs there, or one to be placed (R60, R63). -/
def State.waitsFor (s : State) (ctx c : Nat) : Bool :=
  (s.ctx ctx).outCores.contains c || s.launches.any fun e => e.2.ctx == ctx && s.wants e.1 e.2 && s.coreOpen e.2.lr ctx c

/-- A time slice of a context on a core is over while another context of equal priority waits (R60). -/
def State.sliceOver (s : State) (ctx c : Nat) : Bool :=
  match (s.ctx ctx).sliceStart.find c with
  | none => false
  | some t =>
    decide (t + 1024 * max 1 (s.ctx ctx).slice ≤ s.clk)
      && (upTo 64).any fun x => x != ctx && ((s.ctx x).st == .active || (s.ctx x).st == .switchedOut) && (s.ctx x).prio == (s.ctx ctx).prio
          && s.waitsFor x c

/-- Issue stops for a context's groups on a core; its time slice there is over (R60). -/
def State.stopIssue (s : State) (ctx c : Nat) : State :=
  s.modCtx ctx fun x => { x with outCores := if x.outCores.contains c then x.outCores else x.outCores ++ [c], sliceStart := x.sliceStart.drop c }

/-- A time slice ends (R60): the context's switch-out on the core begins. -/
def execTimeSliceEnd (s : State) : Host.Outcome State Fault Refusal :=
  .next (if s.sliceOver s.ev.ctx s.ev.core ∧ ¬ (s.outTeams s.ev.ctx s.ev.core).isEmpty then s.stopIssue s.ev.ctx s.ev.core else s)

/-- The resident threads of a context on a core (R60). -/
def State.threadsOn (s : State) (ctx c : Nat) : List (Nat × Thread) :=
  ((s.teams.filter fun e => e.2.ctx == ctx && e.2.resident).map (·.1)).flatMap fun h =>
    (s.threadsOf h).filter fun x => (s.team? h).any fun t => t.coreOf x.1 == c

/-- Those that are parked, in number. -/
def State.parkedOn (s : State) (ctx c : Nat) : Nat := ((s.threadsOn ctx c).filter fun x => x.2.st == .parked).length

/-- The parked threads of a context on a core exceed PARK_TH/64 of those that have not exited (R60). -/
def State.parkedOut (s : State) (ctx c : Nat) : Bool :=
  decide ((s.core c).parkTh * ((s.threadsOn ctx c).filter fun x => x.2.st != .exited).length < 64 * s.parkedOn ctx c)

/-- The share of a context's parked threads on a core passes its threshold (R60): it exceeds it, and threads have parked since the
context's teams came to the core, or came back (log 36). -/
def State.parkedNow (s : State) (ctx c : Nat) : Bool :=
  s.parkedOut ctx c && decide ((s.ctx ctx).cameParked.get c 0 < s.parkedOn ctx c)

/-- A context whose share of parked threads no longer exceeds the threshold on a core may pass it again there (R60; log 36). -/
def State.forgetCame (s : State) : State :=
  { s with ctxs := s.ctxs.mapKV fun x k => if k.cameParked.isEmpty then k else { k with cameParked := k.cameParked.filter fun e => s.parkedOut x e.1 } }

/-- The threads of a context that are parked on the cores where it stands are noted (R60; log 36). -/
def State.noteCame (s : State) (ctx : Nat) : State :=
  let cs := distinct ((s.teams.filter fun e => e.2.ctx == ctx && e.2.resident).flatMap fun e => e.2.cores)
  s.modCtx ctx fun x => { x with cameParked := cs.foldl (fun t c => if x.outCores.contains c then t else Tbl.put t c (s.parkedOn ctx c)) x.cameParked }

/-- A context whose teams are all away is Switched-out (R41). -/
def State.noneResident (s : State) (ctx : Nat) : State :=
  if s.teams.any (fun e => e.2.ctx == ctx && e.2.resident) ∨ (s.ctx ctx).st ≠ .active then s
  else s.modCtx ctx fun x => { x with st := .switchedOut }

/-- The core's matrix operations of the teams that leave complete, and their images are saved (R60). -/
def State.switchOut (s : State) (ctx c : Nat) : State :=
  let ts := s.outTeams ctx c
  if ts.isEmpty then s
  else
    let s := (s.stopIssue ctx c).readLists ts
    if ts.all s.teamQuiet then
      let cores := distinct (ts.flatMap fun h => ((s.team? h).map Team.cores).getD [])
      let s := cores.foldl State.matDrain s
      (ts.foldl (fun s h => s.saveTeam h false) s).noneResident ctx
    else s

/-! ### Draining a core (R196, R425) -/

/-- The teams that must leave a core: all while it drains for a quarantine, those with MX = 1 once more than 16 of its array rows
are disabled (R196, R425). -/
def State.mustLeave (s : State) (c : Nat) : List Nat :=
  (s.teams.filter fun e => e.2.resident && e.2.cores.contains c && ((s.core c).draining || (e.2.lr.mx && s.rowsLow c))).map (·.1)

/-- The teams that leave with a team: its cohort, or its resident launch (R45, R196). -/
def State.leaveWith (s : State) (h : Nat) : List Nat :=
  match s.team? h with
  | none => []
  | some t =>
    (if t.lr.res then s.teamsOf t.lid else if t.lr.clvl = 0 then [h] else s.cohortTeams h).filter fun x =>
      ((s.team? x).map (·.resident)).getD false

/-- A request whose response a restarted thread need not have: a remote LD is issued again (R407). -/
def ReqWhat.again : ReqWhat → Bool
  | .load _ _ _ _ => true
  | .watch _ _ _ => true
  | .store _ => false
  | .rmw _ _ _ _ _ _ => false
  | .red _ => false
  | .chunkRead _ _ _ _ _ => false
  | .chunkWrite _ _ _ _ => false
  | .landing => false
  | .done _ => false
  | .record _ _ _ _ _ _ _ _ => true

/-- A window that a restart of its thread may discard, or that is parked (R161, R196, R407). -/
def State.mayDrop (s : State) (w : Window) : Bool :=
  w.ready || w.wait.isSome || match w.kind with
    | .remote rid => s.reqs.all fun r => r.rid != rid || r.what.again
    | .post => false
    | _ => true

/-- The teams leave their cores for others: issued instructions and queued matrix operations complete, each thread restarts at its
region entry and the images are saved; then the launch engine places them again (R196). Where an issued instruction has yet to
complete, nothing happens yet. -/
def State.drainTeams (s : State) (hs : List Nat) : State :=
  let all := distinct (hs.flatMap s.leaveWith)
  let s := s.readLists all
  if all.all fun h => s.scratchQuiet h && (s.threadsOf h).all fun x => x.2.wins.all s.mayDrop then
    let cores := distinct (all.flatMap fun h => ((s.team? h).map Team.cores).getD [])
    let s := cores.foldl State.matDrain s
    let s := { s with queues := s.queues.mapKV fun _ (q : Queue) =>
      { q with parked := q.parked.filter fun p => p.poster.all fun x => !all.contains x.1 } }
    let s := all.foldl (fun s h => s.saveTeam h true) s
    all.foldl State.placeAgain s
  else s

/-- The teams that a core's draining has put on no other core yet (R196). -/
def State.homeless (s : State) (c : Nat) : List Nat := (s.core c).leftBehind.filter fun h => (s.team? h).any fun t => !t.resident

/-- A core's draining goes on; when its last team has left and stands on another core, a quarantined core raises its Quarantine event
(R196, R199). -/
def State.drainCore (s : State) (c : Nat) : State :=
  let hs := s.mustLeave c
  let s := if (s.core c).draining then s.modCore c fun k => { k with leftBehind := k.leftBehind ++ hs.flatMap s.leaveWith } else s
  let s := s.drainTeams hs
  if (s.core c).draining && (s.mustLeave c).isEmpty && (s.homeless c).isEmpty then
    (s.modCore c fun k => { k with draining := false, leftBehind := [] }).coreEvent c 0x0F 0 (s.core c).cur
  else s

/-- A context is switched out on a core (R60): first its issue stops, and once nothing is outstanding its teams leave. On a core
that its teams must leave, the draining goes on (R196, R425). -/
def execSwitchOut (s : State) : Host.Outcome State Fault Refusal :=
  let x := s.ev.ctx
  let c := s.ev.core
  .next (if (s.core c).draining || !(s.mustLeave c).isEmpty then s.drainCore c
    else if (s.ctx x).outCores.contains c ∨ s.parkedNow x c then s.switchOut x c else s)

/-- The saved teams of a context, in launch and team order. -/
def State.savedTeams (s : State) (ctx : Nat) : List Nat := (s.teams.filter fun e => e.2.ctx == ctx && e.2.saved && !e.2.resident).map (·.1)

/-- A context comes back to a core: it may be placed there again, it is Active, and each of its saved teams that fits is
placed and restored (R41, R267). -/
def State.switchIn (s : State) (ctx c : Nat) : State :=
  let s := s.modCtx ctx fun x => { x with st := .active, outCores := x.outCores.filter (· != c) }
  ((s.savedTeams ctx).foldl (fun s h => if ((s.team? h).map (·.saved)).getD false then s.placeAgain h else s) s).noteCame ctx

/-- A context is switched in on a core (R267). -/
def execSwitchIn (s : State) : Host.Outcome State Fault Refusal :=
  let x := s.ctx s.ev.ctx
  .next (if (x.st = .active ∨ x.st = .switchedOut) ∧ x.outCores.contains s.ev.core ∧ (s.outTeams s.ev.ctx s.ev.core).isEmpty then
    s.switchIn s.ev.ctx s.ev.core else s)

/-! ### Contexts and queues (R256, R257) -/


/-- The register fields of CTXD0 written, CMD apart (R257). -/
def Ctx.setD0 (x : Ctx) (v : Nat) : Ctx :=
  { x with rngkey := if x.st = .free then BitVec.ofNat 32 (bits v 63 32) else x.rngkey
           slice := bits v 31 16, priv := bitOf v 6, prio := bits v 5 4 }

/-- The reserved bits of CTXD0 (R5, R257). -/
def ctxd0Res : Nat := maskOf 15 10 + maskOf 7 7 + maskOf 3 2

/-- CMD of a CTXD0 value. -/
def ctxCmd (v : Nat) : Nat := bits v 9 8

/-- A Free context becomes Active (R41, R257); its fault slot is cleared (R419). -/
def State.createCtx (s : State) (c : Nat) : State :=
  if (s.ctx c).st = .free then { (s.modCtx c fun x => { x with st := .active }) with fslots := s.fslots.drop c } else s

/-- A Faulted context, or an Active one with no team resident, becomes Free (R257): its queues are disabled, the launches that it still
has end with status 3, also those posted since it faulted, and the reservations of its threads are released (R259). -/
def State.destroyCtx (s : State) (c : Nat) : State :=
  let idle := !(s.teams.any fun e => e.2.ctx == c && e.2.resident)
  if (s.ctx c).st = .faulted ∨ ((s.ctx c).st = .active ∧ idle) then
    let s := s.stopContext c
    let s := ((s.launches.filter fun e => e.2.ctx == c).map (·.1)).foldl State.retireLaunch s
    let held := (s.ctx c).rsvs
    let s := s.modCtx c fun x => { x with st := .free, tdm := 0, sliceStart := [], outCores := [], cameParked := [], rsvs := [] }
    held.foldl (fun s q => (s.modQueue q fun d => { d with rsvs := d.rsvs - 1 }).freeSlot q) s
  else s

/-- CTXD0 of a context written (R257). -/
def State.ctxd0Put (s : State) (c v : Nat) : State :=
  let s := s.modCtx c fun x => x.setD0 v
  if ctxCmd v = 1 then s.createCtx c else if ctxCmd v = 2 then s.destroyCtx c else s

/-- CTXD0 of context `ev.ctx` written with a CMD through the window (R257, R446). -/
def State.ctxCommand (s : State) (cmd : Nat) : State :=
  let v := s.ev.v.toNat
  if s.ev.ctx < 64 ∧ ctxCmd v = cmd then
    s.windowWrite 8 (0x20000 + 0x10 * s.ev.ctx) ctxd0Res v fun s => s.ctxd0Put s.ev.ctx v
  else s

/-- CTXD0 written with CMD = 1 (R257). -/
def execContextCreate (s : State) : Host.Outcome State Fault Refusal := .next (s.ctxCommand 1)

/-- CTXD0 written with CMD = 2 (R257). -/
def execContextDestroy (s : State) : Host.Outcome State Fault Refusal := .next (s.ctxCommand 2)

/-- EQCTL written (R256). -/
def State.eqctlPut (s : State) (n v : Nat) : State :=
  let q := s.queue n
  let size := if q.en then q.size else bits v 44 32
  let ctx := if q.en then q.ctx else bits v 25 20
  let en := bitOf v 0
  if 4096 < size ∨ (size = 0 ∧ en) then s
  else
    let s := s.setQueue n { q with size := size, ctx := ctx, xpost := bitOf v 26, en := en || q.en }
    if q.en && !en then s.disableQueue n else s

/-- EQBASE written (R256). -/
def State.eqbasePut (s : State) (n v : Nat) : State :=
  s.modQueue n fun q => if q.en then q else { q with base := alignDown v 128 }

/-- EQSTAT written: ERR is write-one-to-clear (R256). -/
def State.eqstatPut (s : State) (n v : Nat) : State := s.modQueue n fun q => { q with err := q.err &&& (15 - bits v 35 32) }

/-- The reserved bits of a queue register, 0 EQCTL, 1 EQBASE, 2 EQSTAT (R5, R256). -/
def eqRes (idx : Nat) : Nat :=
  if idx = 0 then maskOf 63 45 + maskOf 31 27 + maskOf 19 1
  else if idx = 1 then maskOf 63 52 + maskOf 6 0
  else maskOf 63 36 + maskOf 31 29 + maskOf 15 13

/-- A register of a queue's descriptor written: 0 EQCTL, 1 EQBASE, 2 EQSTAT (R256). -/
def State.eqPut (s : State) (idx n v : Nat) : State :=
  if idx = 0 then s.eqctlPut n v else if idx = 1 then s.eqbasePut n v else s.eqstatPut n v

/-- Register `ev.idx` of the descriptor of queue `ev.q` is written through the window (R256, R446). -/
def execEqctlWrite (s : State) : Host.Outcome State Fault Refusal :=
  let n := s.ev.q
  let i := s.ev.idx
  let v := s.ev.v.toNat
  .next (if n < 1024 ∧ i < 3 then
      s.windowWrite (8 + n / 512) (0x10000 + 0x20 * (n % 512) + 8 * i) (eqRes i) v fun s => s.eqPut i n v
    else s)

/-! ### The host's postings (R263, R448) -/

/-- A reply of 8 bytes to a host port. -/
def State.hostReply (s : State) (p v : Nat) : State := s.modHPort p fun h => { h with replies := h.replies ++ [toBytes 8 v] }

/-- A queue that takes no posting: cause 1 is stored, and the port's reservation is released (R448). -/
def State.hostBarred (s : State) (p n : Nat) : State := s.modQueue n fun q => { q with err := 1, hostRsv := q.hostRsv.filter (· != p) }

/-- HRES read by a port: 1 with a reservation held or taken now, else 0 (R263, R448). -/
def execHresRead (s : State) : Host.Outcome State Fault Refusal :=
  let p := s.ev.hport
  let n := s.ev.q
  let q := s.queue n
  .next (if 2 ≤ p ∨ 1024 ≤ n then s
    else if !s.takesPosts n then (s.hostBarred p n).hostReply p 0
    else if q.hostRsv.contains p then s.hostReply p 1
    else if 0 < q.free then (s.setQueue n { q with hostRsv := q.hostRsv ++ [p] }).hostReply p 1
    else s.hostReply p 0)

/-- The record buffer of a port for a queue (R448). -/
def HPort.buf (h : HPort) (n : Nat) : List Byte := h.bufs.get n (List.replicate 128 0)

/-- A write at +0x78 of a queue's window posts the port's buffer and clears it (R263, R448). -/
def execHostPost (s : State) : Host.Outcome State Fault Refusal :=
  let p := s.ev.hport
  let n := s.ev.q
  if 2 ≤ p ∨ 1024 ≤ n then .next s
  else
    let b := overlayAt ((s.hport p).buf n) 0x78 (toBytes 8 s.ev.v.toNat)
    let s := s.modHPort p fun h => { h with bufs := h.bufs.drop n }
    let q := s.queue n
    .next (if !s.takesPosts n then s.hostBarred p n
      else match s.rejectCause n none b (!q.hostRsv.contains p) with
      | some k => s.modQueue n fun q => { q with err := k }
      | none => s.setQueue n { q with hostRsv := q.hostRsv.filter (· != p), posts := q.posts ++ [s.post none b true] })

end Sys2Proof.Machine
end

