-- ==== Sys2Proof/Machine/LoadStore.lean ====
section
/-! DEFINITION. LD, ST, LDS and STS, the store queue's rows and the store log (05 R125, R130, R134, R146; 10 R272 to R284; 14
R399 to R402; 15 R409, R412, R415). -/

namespace Sys2Proof.Machine

/-- Words of an instruction with a memory operand (R84). -/
def lenMem (m : MemOp) : Nat :=
  match m with
  | .base => 2
  | .off _ => 3
  | .index _ _ => 3
  | .post _ => 3
  | .modulo _ _ => 3

/-- Bytes to which an access code must be aligned: 1 where it may lie anywhere in a line (R146, R274). -/
def accUnit (c : AccCode) : Nat :=
  match c with
  | .b32 => 1
  | .b64 => 1
  | .b128 => 1
  | .b64a8 => 8
  | .b128a16 => 16
  | .prv => 1
  | .prvB64 => 1
  | .prvB128 => 1

/-- Size and alignment of an access code of LDS and STS (R274). -/
def spBytes (c : SpCode) : Nat × Nat :=
  match c with
  | .b32 => (4, 1)
  | .b64 => (8, 1)
  | .b128 => (16, 1)
  | .b64a8 => (8, 8)
  | .b128a16 => (16, 16)
  | .b8 => (1, 1)
  | .b16 => (2, 1)

/-- Registers that hold n bytes. -/
def regsFor (n : Nat) : Nat := if n ≤ 4 then 1 else n / 4

/-- An access of n bytes crosses a line, or misses its alignment (R146). -/
def misaligned (addr n unit : Nat) : Bool := decide (128 < addr % 128 + n) || addr % unit != 0

/-- Bytes, zero-extended to words, as registers from d (R278). -/
def regsOfBytes (d : Nat) (b : List Byte) : List (Nat × Word) :=
  (upTo (regsFor b.length)).map fun i => (d + i, BitVec.ofNat 32 (ofBytes ((b.drop (4 * i)).take 4)))

/-- The low n bytes of registers from d (R279). -/
def Thread.regBytes (t : Thread) (d n : Nat) : List Byte :=
  ((upTo (regsFor n)).flatMap fun i => toBytes 4 (t.reg (d + i)).toNat).take n

/-! ### Checks of global accesses (R276) -/

/-- A lane's access that passed the checks: TID, thread at issue, address, where it lies, and its base register's update. -/
structure Acc where
  tid : Nat
  t : Thread
  va : DWord
  gpa : Nat
  x : Xlat
  upd : List (Nat × Word)
deriving DecidableEq, Repr


/-- The checks of one lane's access to the global space, and what a failing one brings (R276, R402, R412). `posted`: ST and
RED, whose path may still fail behind the store queue. -/
def State.checkVa (s : State) (c team tid : Nat) (ctx : Nat) (write posted : Bool) (pci : Pc) (len : Nat) (va : DWord) (mis : Bool) :
    Option (Nat × Xlat) × State :=
  if mis then (none, s.takeTrap team tid (s.trapAt kMisaligned va pci len))
  else
    match s.access (dieOf c) (some c) ctx (if write then .write else .read) va with
    | (.pageFault cause, s) => (none, s.pageFault team tid pci va cause write false)
    | (.trap k i, s) => (none, s.takeTrap team tid (s.trapAt k i pci len))
    | (.poison pa, s) => (none, s.consume team tid pci (dramLoc pa) pa)
    | (.ok gpa x, s) =>
      if s.noPath gpa posted then (none, s.takeTrap team tid (s.trapAt kRemoteFault (BitVec.ofNat 64 gpa) pci len))
      else (some (gpa, x), s)

/-- The live lanes of a memory instruction that pass the checks, in lane order. -/
def State.checkLanes (s : State) (c team : Nat) (tm : Team) (write posted : Bool) (len n unit : Nat)
    (ea : Thread → DWord × List (Nat × Word)) (live : List (Nat × Nat × Thread)) : List Acc × State :=
  live.foldl (fun r x =>
    let tid := x.2.1
    let t := x.2.2
    if (r.2.thread? team tid).isNone then r
    else
      let (va, upd) := ea t
      match r.2.checkVa c team tid tm.ctx write posted t.pc len va (misaligned va.toNat n unit) with
      | (some (gpa, y), s) => (r.1 ++ [{ tid := tid, t := t, va := va, gpa := gpa, x := y, upd := upd }], s)
      | (none, s) => (r.1, s)) ([], s)

/-- The access lies in this package. -/
def State.localAcc (s : State) (a : Acc) : Bool := pkgOf a.gpa == s.pkgid

/-- The lines of a list of accesses, each once, in the order of their first lane. -/
def accLines (l : List Acc) : List Nat := (distinct (l.map fun a => lineOf a.gpa))

/-- The accesses of a list that lie in a line. -/
def accIn (l : List Acc) (ln : Nat) : List Acc := l.filter fun a => lineOf a.gpa == ln

/-! ### Loads (R278, R284) -/

/-- The lanes of the request that an access belongs to, counted at its first lane (R283, R299). -/
def lanesAt (l : List Acc) (a : Acc) : Nat :=
  match accIn l (lineOf a.gpa) with
  | b :: r => if b.tid = a.tid then r.length + 1 else 0
  | [] => 0

/-- The lines of local loads on CT and RO pages brought in, one request for each (R283, R293). -/
def State.fillLines (s : State) (c ctx : Nat) (l : List Acc) : State :=
  (accLines l).foldl (fun s ln => match accIn l ln with
    | a :: r => if 2 ≤ a.x.cls then s.lineLoad c ctx a.va.toNat a.x (lineOf (localOf a.gpa)) (r.length + 1) else s
    | [] => s) s

/-- One lane's load in this package: its value, or the consumption of poison; its base register is updated. -/
def State.loadLane (s : State) (c team ctx : Nat) (m : MemIns) (win n lanes : Nat) (a : Acc) : State :=
  if (s.thread? team a.tid).isNone then s
  else
    let ((b, bad), s) := s.readGlobal c team a.tid ctx a.va a.x m.scope a.gpa n lanes
    if bad then s.consume team a.tid a.t.pc (dramLoc (localOf a.gpa)) (localOf a.gpa)
    else
      let s := s.modThread team a.tid fun t => t.writeRegs a.upd
      (s.openWin team a.tid (mkWin m.h win .mem a.t.pc (regsOfBytes m.d.toNat b) true)).acqBy m.ord team a.tid c ctx m.scope

/-- The order asks for an acquire. -/
def acqOrder : Order → Bool
  | .rlx => false
  | .acq => true
  | .rel => false
  | .ar => true

/-- The loads of one line of another package, after the stores of the core that wait for that line: one read message, and a window for
each lane until its response; the region closes (R130, R141, R283, R399, R401). -/
def State.loadRemote (s : State) (c team ctx : Nat) (m : MemIns) (win n : Nat) (l : List Acc) : State :=
  match l with
  | [] => s
  | a :: _ =>
    let s := (s.crossGate team).drainTo c fun r => lineOf r.pa == lineOf a.gpa
    let lo := l.foldl (fun k x => min k x.gpa) a.gpa
    let hi := l.foldl (fun k x => max k (x.gpa + n)) (a.gpa + n)
    let lanes := l.map fun x => (x.tid, x.gpa - lo, n, m.d.toNat)
    let (rid, s) := s.sendReq (bareMsg .read (pkgOf a.gpa) (hi - lo) lo [])
      (.load team win lanes (acqOrder m.ord)) team a.tid ctx
    l.foldl (fun s x =>
      let w := mkWin m.h win (.remote rid) x.t.pc ((upTo (regsFor n)).map (fun i => (m.d.toNat + i, 0)) ++ x.upd) false
      (s.openWin team x.tid w).closeRegion team x.tid) s

/-- LD in the global space (R278). -/
def State.ldGlobal (s : State) (c team : Nat) (tm : Team) (m : MemIns) (ac : AccCode) (live : List (Nat × Nat × Thread)) : State :=
  let n := accBytes ac
  let (accs, s) := s.checkLanes c team tm false false (lenMem m.mem) n (accUnit ac) (fun t => eaGlobal tm t m.a m.mem) live
  let (win, s) := s.takeId
  let here := accs.filter s.localAcc
  let away := accs.filter fun a => !s.localAcc a
  let s := here.foldl (fun s a => s.loadLane c team tm.ctx m win n (lanesAt here a) a) (s.fillLines c tm.ctx here)
  (accLines away).foldl (fun s ln => s.loadRemote c team tm.ctx m win n (accIn away ln)) s

/-! ### The thread-private space (R125, R134, R275) -/

/-- INFO of a failing check of an offset: the first byte out of range, or the misaligned offset (R166). -/
def rangeInfo (kind limit : Nat) (x : Word) : DWord :=
  if kind = kSpaceRange then BitVec.ofNat 64 (max x.toNat limit) else x.setWidth 64

/-- The check of a private access: SpaceRange, then Misaligned by the line of its hood address (R125, R146, R283; log 22). -/
def prvFault (tm : Team) (tid n : Nat) (x : Word) : Option Nat :=
  if tm.lr.priv < x.toNat + n then some kSpaceRange
  else if misaligned (tm.privVa tid x.toNat) n 1 then some kMisaligned
  else none

/-- The physical address of a private byte, or none where the hood cannot be reached, which ends the launch (R254). -/
def State.prvAddr (s : State) (tm : Team) (tid : Nat) (write : Bool) (x : Word) : Option Nat × State :=
  match s.engineVa tm.ctx write (tm.privVa tid x.toNat) with
  | (some pa, s) => (some pa, s)
  | (none, s) => (none, s.endLaunch tm.lid 4)

/-- Private bytes of a thread from an address: those that system software has written while the team was resident are unspecified
(R48; log 62). -/
def State.prvBytes (s : State) (tm : Team) (va pa n : Nat) : List Byte × State :=
  if tm.upsetAt va n then
    let (f, s) := s.freeBytes n
    ((upTo n).map fun i => if tm.upsetAt (va + i) 1 then f.getD i 0 else s.peek (pa + i), s)
  else (s.peekN pa n, s)

/-- One lane's LD from its private space. -/
def State.ldPrv (s : State) (team tid : Nat) (tm : Team) (t : Thread) (m : MemIns) (win n : Nat) : State :=
  let (x, upd) := eaLocal tm t m.a m.mem
  match prvFault tm tid n x with
  | some k => s.takeTrap team tid (s.trapAt k (rangeInfo k tm.lr.priv x) t.pc (lenMem m.mem))
  | none =>
    match s.prvAddr tm tid false x with
    | (none, s) => s
    | (some pa, s) =>
      if s.poisonedIn pa n then s.consume team tid t.pc (dramLoc pa) pa
      else
        let (b, s) := s.prvBytes tm (tm.privVa tid x.toNat) pa n
        (s.modThread team tid fun t => t.writeRegs upd).openWin team tid
          (mkWin m.h win .mem t.pc (regsOfBytes m.d.toNat b) true)

/-- The record of a store of a thread that has left the store queue (R281). -/
def storeRec (c team tid ctx : Nat) (pc : Pc) (va : DWord) (gpa : Nat) (data : List Byte) : StoreReq :=
  { id := 0, core := c, team := team, tid := tid, lane := 0, pc := pc, ctx := ctx, va := va, pa := gpa, data := data, red := none
    rel := false, sc := .core, cls := 0, hint := 0, cmp := false, rng := none }

/-- One lane's ST to its private space, checked: the store that joins its line's request, and the base register's update (R283). -/
def State.stPrv (s : State) (c team : Nat) (tm : Team) (m : MemIns) (n tid : Nat) (t : Thread) : Option StoreReq × State :=
  let (x, upd) := eaLocal tm t m.a m.mem
  match prvFault tm tid n x with
  | some k => (none, s.takeTrap team tid (s.trapAt k (rangeInfo k tm.lr.priv x) t.pc (lenMem m.mem)))
  | none =>
    match s.prvAddr tm tid true x with
    | (none, s) => (none, s)
    | (some pa, s) =>
      (some (storeRec c team tid tm.ctx t.pc (BitVec.ofNat 64 (tm.privVa tid x.toNat)) pa (t.regBytes m.d.toNat n)),
        s.modThread team tid fun t => t.writeRegs upd)

/-- The private stores of one hood line: a poisoned line that they cover in part is an imprecise store fault, one that they cover whole
loses its poison (R283, R409, R412). -/
def State.prvLine (s : State) (tm : Team) (rs : List StoreReq) : State :=
  match rs with
  | [] => s
  | r :: _ =>
    let whole := (mergeReqs rs).1 = fullMask
    if s.poisonedAt r.pa ∧ ¬ whole then s.storeFault r 2
    else rs.foldl (fun s r => (s.pokeN r.pa r.data).mendHood tm r.va.toNat r.data.length) (if whole then s.clearPoison (lineOf r.pa * 128) 128 else s)

/-- The stores of a list that lie in a line. -/
def reqsIn (l : List StoreReq) (ln : Nat) : List StoreReq := l.filter fun r => lineOf r.pa == ln

/-- ST to the private spaces of the live lanes: one request for each hood line (R283). -/
def State.stPrvs (s : State) (c team : Nat) (tm : Team) (m : MemIns) (n : Nat) (live : List (Nat × Nat × Thread)) : State :=
  let (rs, s) := live.foldl (fun (a : List StoreReq × State) x =>
    if (a.2.thread? team x.2.1).isNone then a
    else
      let (r, s) := a.2.stPrv c team tm m n x.2.1 x.2.2
      (a.1 ++ r.toList, s)) ([], s)
  (distinct (rs.map fun r => lineOf r.pa)).foldl (fun s ln => s.prvLine tm (reqsIn rs ln)) s


/-- LD (R278). -/
def execLd (m : MemIns) (ac : AccCode) (s : State) : Host.Outcome State Fault Refusal :=
  let n := accBytes ac
  runLive m.h (lenMem m.mem) none (vW m.d (regsFor n) :: memOps m.a (if accPrv ac then 1 else 2) m.mem) (some m.a)
    (fun c g tm live s =>
      if accPrv ac then
        let (win, s) := s.takeId
        s.eachLane g.team live fun tid t s => s.ldPrv g.team tid tm t m win n
      else s.ldGlobal c g.team tm m ac live) s

/-! ### Stores (R279, R280, R282) -/


/-- The hood lines that the lanes of an ST to the private space name (R283). -/
def prvLines (tm : Team) (m : MemIns) (n : Nat) (live : List (Nat × Nat × Thread)) : Nat :=
  (distinct (live.filterMap fun x =>
    let o := (eaLocal tm x.2.2 m.a m.mem).1
    if (prvFault tm x.2.1 n o).isNone then some (lineOf (tm.privVa x.2.1 o.toNat)) else none)).length

/-- The requests of a store do not fit the store queue of 128 line requests (R280). -/
def Core.noRoom (k : Core) (lines : Nat) : Bool := decide (128 < (reqIds k.storeq).length + lines)

/-- The scope of an access: .sys for another package (R130). -/
def State.accScope (s : State) (a : Acc) (sc : Scope) : Scope := if s.localAcc a then sc else .sys

/-- What a store or RED waits for: room in the store queue, and for a release at .sys its thread's remote writes. -/
def storeWaits (m : MemIns) (n unit : Nat) (c : Nat) (g : Group) (tm : Team) (live : List (Nat × Nat × Thread)) (s : State) :
    Option State :=
  let (accs, _) := s.checkLanes c g.team tm true true (lenMem m.mem) n unit (fun t => eaGlobal tm t m.a m.mem) live
  if (s.core c).noRoom (accLines accs).length then some s
  else s.relWaits c g.team live m.ord (m.scope == .sys || accs.any fun a => !s.localAcc a)

/-- The store of a lane as its request carries it. -/
def Acc.req (a : Acc) (c team ctx id lane : Nat) (data : List Byte) (red : Option RedOp) (rel : Bool) (sc : Scope) : StoreReq :=
  { id := id, core := c, team := team, tid := a.tid, lane := lane, pc := a.t.pc, ctx := ctx, va := a.va, pa := a.gpa, data := data
    red := red, rel := rel, sc := sc, cls := a.x.cls, hint := a.x.hint, cmp := a.x.cmp, rng := none }

/-- Aligned 16-byte units that a store touches: its entries in a store log (R415). -/
def StoreReq.units (r : StoreReq) : Nat := (r.pa + r.data.length - 1) / 16 + 1 - r.pa / 16

/-- Entries of a core's store log in use (R415). -/
def State.logUsed (s : State) (c : Nat) : Nat :=
  (s.teams.map fun e => ((e.2.log.filter fun r => r.core == c).map StoreReq.units).sum).sum

/-- Entries that a core's log holds, with its overflow area if that is enabled (R415). -/
def State.logCap (s : State) (c : Nat) : Nat := if (s.die (dieOf c)).logEn then 34816 else 2048

/-- A store joins its team's log, or, with no room left, closes the window with a LogClosed record (R415): true where logged. -/
def State.logStore (s : State) (team : Nat) (r : StoreReq) : Bool × State :=
  if s.logUsed r.core + r.units ≤ s.logCap r.core then (true, s.modTeam team fun t => { t with log := t.log ++ [r] })
  else
    let s := s.closeWindow team
    (false, s.eventRec (s.threadRec 0x16 team r.tid r.pc 0 0 0))

/-- A store of a team in its window is held in the log (R282). -/
def State.logs (s : State) (team : Nat) (a : Acc) (sc : Scope) : Bool :=
  ((s.team? team).map (·.window)).getD false && a.x.rlog && s.localAcc a && !wideScope sc

/-- A store of a team in its window that its log does not take acts as a non-replayable instruction (R282). -/
def State.closesWindow (s : State) (team : Nat) (a : Acc) (sc : Scope) : Bool :=
  ((s.team? team).map (·.window)).getD false && !s.logs team a sc

/-- A lane's store goes to the log, or behind the commit gate to the store queue under its line's request (R280, R282, R283). -/
def State.stLane (s : State) (c team ctx : Nat) (m : MemIns) (n : Nat) (ids : Nat → Nat) (red : Option RedOp) (a : Acc) : State :=
  if (s.thread? team a.tid).isNone then s
  else
    let r := { a.req c team ctx (ids (lineOf a.gpa)) a.tid (a.t.regBytes m.d.toNat n) red (relOrder m.ord) (s.accScope a m.scope) with
      rng := s.rangeAt (dieOf c) ctx a.va.toNat }
    let s := s.modThread team a.tid fun t => t.writeRegs a.upd
    let closes := red.isSome || wideScope (s.accScope a m.scope) || s.closesWindow team a m.scope
    let (held, s) := if red.isNone && s.logs team a m.scope then s.logStore team r else (false, s)
    if held then s
    else
      let s := if closes then s.crossGate team else s
      let s := s.modCore c fun k => { k with storeq := k.storeq ++ [r] }
      if closes then s.closeRegion team a.tid else s

/-- Requests enter a core's store queue: those of one line stand together (R283). -/
def Core.gather (k : Core) : Core := { k with storeq := (reqIds k.storeq).flatMap fun i => k.storeq.filter fun r => r.id == i }

/-- ST and RED on the lanes that pass their checks (R279, R285, R286). -/
def State.stGlobal (s : State) (c team : Nat) (tm : Team) (m : MemIns) (n unit : Nat) (red : Option RedOp)
    (live : List (Nat × Nat × Thread)) : State :=
  let (accs, s) := s.checkLanes c team tm true true (lenMem m.mem) n unit (fun t => eaGlobal tm t m.a m.mem) live
  match accs with
  | [] => s
  | _ :: _ =>
    let sc := if accs.all s.localAcc then m.scope else .sys
    let s := s.relBy m.ord team live c tm.ctx sc
    let base := s.nextId
    let lines := accLines accs
    let ids (ln : Nat) : Nat := base + lines.idxOf ln
    let s := { s with nextId := base + lines.length }
    (accs.foldl (fun s a => s.stLane c team tm.ctx m n ids red a) s).modCore c Core.gather

/-- ST (R279). -/
def execSt (m : MemIns) (ac : AccCode) (s : State) : Host.Outcome State Fault Refusal :=
  let n := accBytes ac
  runWait m.h (lenMem m.mem) (vR m.d (regsFor n) :: memOps m.a (if accPrv ac then 1 else 2) m.mem) (some m.a)
    (fun c g tm live s =>
      if accPrv ac then (if (s.core c).noRoom (prvLines tm m n live) then some s else none)
      else storeWaits m n (accUnit ac) c g tm live s)
    (fun c g tm live s =>
      if accPrv ac then s.stPrvs c g.team tm m n live
      else s.stGlobal c g.team tm m n (accUnit ac) none live) s

/-! ### The scratchpad (R125, R134, R146) -/

/-- The fault of a scratchpad access (R276): SpaceRange; Misaligned across a line, or across a pair's halves. -/
def spFault (tm : Team) (n unit : Nat) (x : Word) : Option Nat :=
  let o := x.toNat
  if tm.lr.scratch < o + n then some kSpaceRange
  else if misaligned o n unit || (tm.lr.pair && decide (o < tm.lr.scratch / 2) && decide (tm.lr.scratch / 2 < o + n)) then some kMisaligned
  else none

/-- The acquire and release of a scratchpad access are those of its thread at its scope (R134). -/
def State.ldsLane (s : State) (c team tid : Nat) (tm : Team) (t : Thread) (m : MemIns) (win : Nat) (sc : SpCode) : State :=
  let (n, unit) := spBytes sc
  let (x, upd) := eaLocal tm t m.a m.mem
  match spFault tm n unit x, s.team? team with
  | some k, _ => s.takeTrap team tid (s.trapAt k (rangeInfo k tm.lr.scratch x) t.pc (lenMem m.mem))
  | none, none => s
  | none, some now =>
    if now.sPoisoned x.toNat n then s.consume team tid t.pc 7 x.toNat
    else
      ((s.modThread team tid fun t => t.writeRegs upd).openWin team tid
        (mkWin m.h win .mem t.pc (regsOfBytes m.d.toNat (now.sRead x.toNat n)) true)).acqBy m.ord team tid c tm.ctx m.scope

/-- LDS (R278). -/
def execLds (m : MemIns) (sc : SpCode) (s : State) : Host.Outcome State Fault Refusal :=
  let n := (spBytes sc).1
  runLive m.h (lenMem m.mem) none (vW m.d (regsFor n) :: memOps m.a 1 m.mem) (some m.a)
    (fun c g tm live s =>
      let (win, s) := s.takeId
      s.eachLane g.team live fun tid t s => s.ldsLane c g.team tid tm t m win sc) s

/-- The scratchpad words that the lanes of one STS cover whole between them: they lose their poison (R283, R284, R409). -/
def coveredWords (tm : Team) (l : List (Word × Nat)) : List Nat :=
  tm.poisonScratch.filter fun w => (upTo 8).all fun i => l.any fun x => x.1.toNat ≤ 8 * w + i && 8 * w + i < x.1.toNat + x.2

/-- One lane's STS: its bytes are written; a poisoned word that the instruction covers in part is an imprecise store fault
(R412). -/
def State.stsLane (s : State) (c team tid : Nat) (tm : Team) (t : Thread) (m : MemIns) (sc : SpCode) : State :=
  let (n, unit) := spBytes sc
  let (x, upd) := eaLocal tm t m.a m.mem
  match spFault tm n unit x, s.team? team with
  | some k, _ => s.takeTrap team tid (s.trapAt k (rangeInfo k tm.lr.scratch x) t.pc (lenMem m.mem))
  | none, none => s
  | none, some now =>
    let data := t.regBytes m.d.toNat n
    let s := s.modThread team tid fun t => t.writeRegs upd
    if now.sPartPoison x.toNat n then s.storeFault (storeRec c team tid tm.ctx t.pc (x.setWidth 64) x.toNat data) 2
    else
      let s := if wideScope m.scope then s.crossGate team else s
      let s := s.sPutBy (some tid) team x.toNat data
      if wideScope m.scope then s.closeRegion team tid else s

/-- The bank words that the lanes of an STS name (R283). -/
def bankWords (tm : Team) (m : MemIns) (sc : SpCode) (live : List (Nat × Nat × Thread)) : Nat :=
  let (n, unit) := spBytes sc
  (distinct (live.flatMap fun x =>
    let o := (eaLocal tm x.2.2 m.a m.mem).1
    if (spFault tm n unit o).isNone then (upTo ((o.toNat + n - 1) / 8 + 1 - o.toNat / 8)).map (o.toNat / 8 + ·) else [])).length

/-- STS waits at issue until its requests fit the store queue (R280), and for a release at .sys until its threads' remote writes are
acknowledged (R401). -/
def execSts (m : MemIns) (sc : SpCode) (s : State) : Host.Outcome State Fault Refusal :=
  let n := (spBytes sc).1
  runWait m.h (lenMem m.mem) (vR m.d (regsFor n) :: memOps m.a 1 m.mem) (some m.a)
    (fun c g tm live s =>
      if (s.core c).noRoom (bankWords tm m sc live) then some s else s.relWaits c g.team live m.ord (m.scope == .sys))
    (fun c g tm live s =>
      let good := live.filterMap fun x =>
        let ea := (eaLocal tm x.2.2 m.a m.mem).1
        if (spFault tm n (spBytes sc).2 ea).isNone then some (ea, n) else none
      let s := if good.isEmpty then s else s.relBy m.ord g.team live c tm.ctx m.scope
      let s := s.modTeam g.team fun t =>
        { t with poisonScratch := let whole := coveredWords t good; t.poisonScratch.filter fun w => !whole.contains w }
      s.eachLane g.team live fun tid t s => s.stsLane c g.team tid tm t m sc) s

/-! ### Rows of the store queue and the log -/

/-- The line request at the head of a core's store queue. -/
def Core.headReq (k : Core) : List StoreReq :=
  match k.storeq with
  | [] => []
  | r :: _ => k.storeq.filter fun x => x.id == r.id

/-- The condition, remote path 1 or poisoned home line 2, under which a line request fails beyond the queue (R281, R402, R412). -/
def State.reqFails (s : State) (rs : List StoreReq) : Option Nat :=
  match rs with
  | [] => none
  | r :: _ =>
    if pkgOf r.pa ≠ s.pkgid then
      (match s.path (pkgOf r.pa) r.pa with
        | .failed => some 1
        | .noRoute => some 1
        | .port _ => none
        | .wait _ => none)
    else if s.poisonedAt (localOf r.pa) ∧ ((mergeReqs rs).1 ≠ fullMask ∨ r.red.isSome) then some 2
    else none

/-- The head of a core's store queue is accepted at its home (R143, R280). -/
def execStoreAccepted (s : State) : Host.Outcome State Fault Refusal :=
  let c := s.ev.core
  .next (match (s.core c).headReq with
    | [] => s
    | r :: _ =>
      if (s.reqFails (s.core c).headReq).isSome then s
      else
        match s.reqAsk (s.core c).headReq with
        | (true, _) => s.acceptReq c r.id
        | (false, s) => s)

/-- The head of a core's store queue fails beyond it (R281). -/
def execImpreciseStoreFault (s : State) : Host.Outcome State Fault Refusal :=
  let c := s.ev.core
  .next (match (s.core c).headReq, s.reqFails (s.core c).headReq with
    | r :: _, some k =>
      (s.modCore c fun x => { x with storeq := x.storeq.filter fun y => y.id != r.id }).storeFault r k
    | _, _ => s)

/-- The relaunch window of a team whose threads have all exited closes, and its log is flushed (R59, R282). -/
def execStoreLogFlush (s : State) : Host.Outcome State Fault Refusal :=
  let h := s.ev.team
  .next (if (s.threadsOf h).all fun x => x.2.st == .exited then s.closeWindow h else s)

end Sys2Proof.Machine
end

