-- ==== Sys2Proof/Machine/Atomics.lean ====
section
/-! DEFINITION. ATOM, CAS, RED, FENCE and WAITW, and the rows that wake a watch (10 R285 to R292; 05 R137 to R142; 14 R399 to
R402). -/

namespace Sys2Proof.Machine

/-! ### Read-modify-write (R285, R286) -/

/-- What a lane's read-modify-write does with the old value: the value written, if any. -/
abbrev Rmw := DWord → Option DWord

/-- One lane's ATOM or CAS in this package: behind the commit gate, at its ALU, after the stores of its core that overlap it; the
region closes (R286, R288, R289). -/
def State.rmwLocal (s : State) (c team ctx : Nat) (m : MemIns) (n win lanes : Nat) (a : Acc) (f : Rmw) : State :=
  let s := (s.crossGate team).drainTo c fun r => overlaps r.pa r.data.length a.gpa n
  let pa := localOf a.gpa
  let rng := s.rangeAt (dieOf c) ctx a.va.toNat
  let ((b, bad), s) := s.readPoint c ctx rng a.x m.scope pa n lanes
  if (s.thread? team a.tid).isNone then s
  else if bad then s.consume team a.tid a.t.pc (dramLoc pa) pa
  else
    let o : DWord := BitVec.ofNat 64 (ofBytes b)
    let s := s.writeAtomic c ctx rng a.x m.scope pa ((f o).map fun v => toBytes n v.toNat) (if a.x.cls = 1 then 0 else lanes)
    let s := (s.modThread team a.tid fun t => t.writeRegs a.upd).openWin team a.tid
      (mkWin m.h win .mem a.t.pc (regsOfBytes m.d.toNat b) true)
    (s.acqBy m.ord team a.tid c ctx m.scope).closeRegion team a.tid

/-- One lane's ATOM or CAS in another package, after the stores of its core that wait for that line: a message, and a window until its
response; the region closes (R141, R399, R401). -/
def State.rmwRemote (s : State) (c team ctx : Nat) (m : MemIns) (n win : Nat) (a : Acc) (kind : MsgKind) (op : Nat)
    (data : List Byte) : State :=
  let s := (s.crossGate team).drainTo c fun r => lineOf r.pa == lineOf a.gpa
  let d := pkgOf a.gpa
  let (rid, s) := s.sendReq (bareMsg kind d op a.gpa data)
    (.rmw team a.tid win m.d.toNat (n == 8) (acqOrder m.ord)) team a.tid ctx
  let w := mkWin m.h win (.remote rid) a.t.pc ((upTo (regsFor n)).map (fun i => (m.d.toNat + i, 0)) ++ a.upd) false
  (s.openWin team a.tid w).closeRegion team a.tid

/-- ATOM or CAS on the lanes that pass their checks, in lane order (R286). `f`, `op` and `data` are of the thread at issue. -/
def State.rmwAll (s : State) (c team : Nat) (tm : Team) (m : MemIns) (n : Nat) (kind : MsgKind) (op : Nat)
    (f : Thread → Rmw) (data : Thread → List Byte) (live : List (Nat × Nat × Thread)) : State :=
  let (accs, s) := s.checkLanes c team tm true false (lenMem m.mem) n n (fun t => eaGlobal tm t m.a m.mem) live
  match accs with
  | [] => s
  | _ :: _ =>
    let s := s.relBy m.ord team live c tm.ctx (if accs.all s.localAcc then m.scope else .sys)
    let (win, s) := s.takeId
    accs.foldl (fun s a =>
      if (s.thread? team a.tid).isNone then s
      else if s.localAcc a then s.rmwLocal c team tm.ctx m n win (lanesAt accs a) a (f a.t)
      else s.rmwRemote c team tm.ctx m n win a kind op (data a.t)) s

/-- A release at .sys of an instruction waits for its threads' remote writes (R401). -/
def rmwWaits (m : MemIns) (n : Nat) (c : Nat) (g : Group) (tm : Team) (live : List (Nat × Nat × Thread)) (s : State) : Option State :=
  let (accs, _) := s.checkLanes c g.team tm true false (lenMem m.mem) n n (fun t => eaGlobal tm t m.a m.mem) live
  s.relWaits c g.team live m.ord (m.scope == .sys || accs.any fun a => !s.localAcc a)

/-- ATOM (R285, R286). -/
def execAtom (m : MemIns) (op : AtomOp) (s : State) : Host.Outcome State Fault Refusal :=
  let n := atomBytes op
  let operand (t : Thread) : List Byte := t.regBytes m.d.toNat n
  runWait m.h (lenMem m.mem) (vR m.d (regsFor n) :: vW m.d (regsFor n) :: memOps m.a 2 m.mem) (some m.a)
    (fun c g tm live s => rmwWaits m n c g tm live s)
    (fun c g tm live s => s.rmwAll c g.team tm m n .atomic (atomCode op)
      (fun t o => some (atomNew op o (BitVec.ofNat 64 (ofBytes (operand t))))) operand live) s

/-- CAS (R286): expected value first, then the new value, in the C operand. -/
def execCas (m : MemIns) (w64 : Bool) (c : VReg) (s : State) : Host.Outcome State Fault Refusal :=
  let n := if w64 then 8 else 4
  let both (t : Thread) : List Byte := t.regBytes c.toNat n ++ t.regBytes (c.toNat + n / 4) n
  runWait m.h (lenMem m.mem) (vW m.d (regsFor n) :: memOps m.a 2 m.mem ++ [vR c (2 * regsFor n)]) (some m.a)
    (fun c g tm live s => rmwWaits m n c g tm live s)
    (fun k g tm live s => s.rmwAll k g.team tm m n .cas (b2n w64)
      (fun t o =>
        if o = BitVec.ofNat 64 (ofBytes (t.regBytes c.toNat n)) then
          some (BitVec.ofNat 64 (ofBytes (t.regBytes (c.toNat + n / 4) n)))
        else none) both live) s

/-- RED enters the store queue (R285, R286, R289). -/
def execRed (m : MemIns) (op : RedOp) (s : State) : Host.Outcome State Fault Refusal :=
  let n := redBytes op
  runWait m.h (lenMem m.mem) (vR m.d (regsFor n) :: memOps m.a 2 m.mem) (some m.a)
    (fun c g tm live s => storeWaits m n n c g tm live s)
    (fun c g tm live s => s.stGlobal c g.team tm m n n (some op) live) s

/-! ### FENCE (R290) -/

/-- The release side of a FENCE; what it covers in other packages is acknowledged before it completes (R290, R401). -/
def State.fenceRel (s : State) (c team tid ctx : Nat) (h : Hdr) (pci : Pc) (scope : Scope) : State :=
  let s := (s.tells team tid).release c ctx scope
  if scope = .sys ∧ s.remoteWrites team tid then
    let (id, s) := s.takeId
    s.openWin team tid (mkWin h id .sync pci [] false)
  else s

/-- FENCE of one thread (R290). -/
def State.fence (s : State) (c team tid ctx : Nat) (h : Hdr) (pci : Pc) (ord : FenceOrder) (scope : Scope) : State :=
  match ord with
  | .acq => (s.learns team tid).acquire c ctx scope
  | .rel => s.fenceRel c team tid ctx h pci scope
  | .sc => ((s.fenceRel c team tid ctx h pci scope).learns team tid).acquire c ctx scope

/-- FENCE (R290). -/
def execFence (h : Hdr) (ord : FenceOrder) (scope : Scope) (s : State) : Host.Outcome State Fault Refusal :=
  runLanes h 2 none [] none (fun c team tm tid t s => s.fence c team tid tm.ctx h t.pc ord scope) s

/-- A thread's FENCE at .sys completes once no write of it to another package is unacknowledged: it then also acquires (R290,
R401). -/
def State.fenceDone (s : State) (team tid : Nat) : State :=
  match s.team? team, s.thread? team tid with
  | some tm, some t =>
    if s.remoteWrites team tid then s
    else
      (t.wins.filter fun w => w.kind == .sync && w.wait.isNone && !w.ready).foldl
        (fun s w => ((s.learns team tid).acquire (tm.coreOf tid) tm.ctx .sys).modThread team tid fun t => t.result w.id []) s
  | _, _ => s

/-! ### WAITW (R291, R292) -/

/-- COND of a read value v and the comparand x (R291). -/
def condHolds (c : WCond) (v x : Word) : Bool :=
  match c with
  | .eq => v == x
  | .ne => v != x
  | .lt => v.slt x
  | .ge => !(v.slt x)
  | .ltu => v.ult x
  | .geu => !(v.ult x)
  | .any => (v &&& x) != 0
  | .none => (v &&& x) == 0

/-- Entries of a core's watch table that windows of its resident threads take, other than the one with an identifier (R292). -/
def State.watches (s : State) (core win : Nat) : Nat :=
  ((s.teams.filter fun e => e.2.resident && e.2.cores.contains core).map fun e =>
    ((s.waiters e.1 fun w => match w with
      | .watch _ _ _ _ _ _ _ _ (some _) => true
      | _ => false).filter fun x => e.2.coreOf x.1 == core && x.2.id != win).length).sum

/-- The line that a window's watch takes an entry for: a CT line held in a cache of the die, with the table not full; none for a polled
watch (R292). A watch of an RO line is polled too (log 82). -/
def State.watchLine (s : State) (core win : Nat) (x : Xlat) (gpa : Nat) : Option Nat :=
  let ln := lineOf (localOf gpa)
  if x.cls = 2 ∧ pkgOf gpa = s.pkgid ∧ (((s.core core).l1.line? ln).isSome ∨ ((s.die (dieOf core)).cache.line? ln).isSome)
      ∧ s.watches core win < 64 then some ln else none

/-- The clk of a watch's next poll (R291, R292). -/
def nextPoll (now : Nat) (line : Option Nat) : Nat := now + if line.isSome then 4096 else 256

/-- The timeout of a watch has passed. -/
def timedOut (now : Nat) (deadline : Option Nat) : Bool := deadline.any fun d => decide (d ≤ now)

/-- A watching thread has read v: it goes on, acquiring if the condition holds and the order asks it, or waits on (R291). -/
def State.watchGot (s : State) (team tid : Nat) (w : Window) (v : Word) (line : Option Nat) : State :=
  match w.wait, s.team? team with
  | some (.watch va cond x dl acq sc dst _ _), some tm =>
    if condHolds cond v x then
      (if acq then (s.learns team tid).acquire (tm.coreOf tid) tm.ctx sc else s).waitDone team tid w.id [(dst, v)]
    else if timedOut s.clk dl then s.waitDone team tid w.id [(dst, v)]
    else s.modThread team tid fun t => t.modWin w.id fun u =>
      { u with wait := some (.watch va cond x dl acq sc dst (nextPoll s.clk line) line) }
  | _, _ => s

/-- A watched word of this package read at the point of its page and scope; none where it is poisoned (R291, R412). -/
def State.watchRead (s : State) (c team tid ctx : Nat) (va : DWord) (x : Xlat) (sc : Scope) (gpa : Nat) : Option Word × State :=
  let s := if 2 ≤ x.cls then s.lineLoad c ctx va.toNat x (lineOf (localOf gpa)) 1 else s
  let ((b, bad), s) := s.readGlobal c team tid ctx va x sc gpa 4 1
  (if bad then none else some (BitVec.ofNat 32 (ofBytes b)), s)

/-- A read of a watched word of another package is sent (R291, R399). -/
def State.watchSend (s : State) (team tid ctx win gpa : Nat) : State :=
  (s.sendReq (bareMsg .read (pkgOf gpa) 4 gpa []) (.watch team tid win) team tid ctx).2

/-- The window of a WAITW, waiting: a later read of its word may still find a page fault (R168). -/
def watchWin (h : Hdr) (id : Nat) (pci : Pc) (d : Nat) (acq : Bool) : Window :=
  { mkWin h id (if acq then .sync else .mem) pci [(d, 0)] false with canLate := true }

/-- WAITW of one thread (R291). -/
def State.waitw (s : State) (c team tid : Nat) (tm : Team) (t : Thread) (h : Hdr) (cond : WCond) (acq : Bool) (sc : Scope)
    (d : Nat) (va : DWord) (timeout : Word) : State :=
  match s.checkVa c team tid tm.ctx false false t.pc 2 va (va.toNat % 4 != 0) with
  | (none, s) => s
  | (some (gpa, x), s) =>
    let (id, s) := s.takeId
    let dl : Option Nat := if timeout = 0xFFFFFFFF then none else some (s.clk + timeout.toNat)
    let wait (s : State) (line : Option Nat) : State :=
      s.openWait team tid (watchWin h id t.pc d acq) (.watch va cond (t.reg d) dl acq sc d (nextPoll s.clk line) line)
    if pkgOf gpa ≠ s.pkgid then
      let s := (s.crossGate team).drainTo c fun r => lineOf r.pa == lineOf gpa
      ((s.openWait team tid (watchWin h id t.pc d acq) (.watch va cond (t.reg d) dl acq .sys d (nextPoll s.clk none) none)).watchSend
        team tid tm.ctx id gpa).closeRegion team tid
    else
      match s.watchRead c team tid tm.ctx va x sc gpa with
      | (none, s) => s.consume team tid t.pc (dramLoc (localOf gpa)) (localOf gpa)
      | (some v, s) =>
        if condHolds cond v (t.reg d) then
          let s := s.answer team tid h t.pc .mem [(d, v)]
          if acq then (s.learns team tid).acquire c tm.ctx sc else s
        else if timedOut s.clk dl then s.answer team tid h t.pc .mem [(d, v)]
        else wait s (s.watchLine c id x gpa)

/-- WAITW (R291). -/
def execWaitw (h : Hdr) (cond : WCond) (ord : Order) (scope : Scope) (d a b : VReg) (s : State) : Host.Outcome State Fault Refusal :=
  runLanes h 2 none [vR d, vW d, vR a 2, vR b] (some a) (fun c team tm tid t s =>
    s.waitw c team tid tm t h cond (acqOrder ord) scope d.toNat (t.reg64 a.toNat) (t.reg b.toNat)) s

/-- A window of a thread discarded. -/
def State.cancelWin (s : State) (team tid id : Nat) : State :=
  s.modThread team tid fun t => { t with wins := t.wins.filter fun w => w.id != id }

/-- A watching thread reads its word again (R291), once its team is resident (R307): a fault of the read ends the
watch. -/
def State.watchAgain (s : State) (team tid : Nat) : State :=
  match s.team? team, s.thread? team tid with
  | some tm, some t =>
    match t.waiting fun w => match w with
        | .watch _ _ _ _ _ _ _ _ _ => true
        | _ => false with
    | some w =>
      match w.wait with
      | some (.watch va _ _ _ _ sc _ _ _) =>
        if !tm.resident then s else
        let c := tm.coreOf tid
        match s.access (dieOf c) (some c) tm.ctx .read va with
        | (.pageFault k, s) =>
          if t.trap.any fun x => decide (x.seq < w.id) then s.cancelWin team tid w.id
          else (s.cancelWin team tid w.id).pageFault team tid w.pc va k false false
        | (.trap k i, s) => (s.cancelWin team tid w.id).takeTrap team tid { kind := k, info := i, pc := w.pc, len := 2, seq := w.id }
        | (.poison pa, s) => s.consume team tid w.pc (dramLoc pa) pa
        | (.ok gpa x, s) =>
          if pkgOf gpa ≠ s.pkgid then
            if s.reqs.any fun r => r.what == .watch team tid w.id then s
            else s.watchSend team tid tm.ctx w.id gpa
          else
            match s.ctAsk c x.cls x.hint .load (localOf gpa) with
            | (false, s) => s
            | (true, _) =>
              match s.watchRead c team tid tm.ctx va x sc gpa with
              | (none, s) => s.consume team tid w.pc (dramLoc (localOf gpa)) (localOf gpa)
              | (some v, s) => s.watchGot team tid w v (s.watchLine c w.id x gpa)
      | _ => s
    | none => s
  | _, _ => s

/-- A write has taken a watched line: its watcher reads the word again (R292). -/
def execWatchWake (s : State) : Host.Outcome State Fault Refusal := .next (s.watchAgain s.ev.team s.ev.tid)

/-- A thread's watch is due: its poll's clk has come, or its timeout has passed (R291, R292). -/
def Thread.watchDue (t : Thread) (now : Nat) : Bool :=
  (t.waiting fun w => match w with
    | .watch _ _ _ dl _ _ _ poll _ => decide (poll ≤ now) || timedOut now dl
    | _ => false).isSome

/-- A poll, or the end of a timeout (R291, R292). -/
def execWatchPoll (s : State) : Host.Outcome State Fault Refusal :=
  let e := s.ev
  .next (if ((s.thread? e.team e.tid).map fun t => t.watchDue s.clk).getD false then s.watchAgain e.team e.tid else s)

end Sys2Proof.Machine
end

