-- ==== Sys2Proof/Machine/CacheOps.lean ====
section
/-! DEFINITION. PFCH, CCTL, PIN, UNPIN, TXQ and FRQ (10 R294, R295, R297, R305, R306). -/

namespace Sys2Proof.Machine

/-! ### Lines given up to the directories (R295, R310, R316) -/

/-- An entry that a holder has left. -/
def DirEntry.leave (e : DirEntry) (h : Holder) : DirEntry :=
  let hs := e.holders.filter (· != h)
  let owner := if e.owner = some h then none else e.owner
  { e with holders := hs, owner := owner, st := if hs.isEmpty then .i else if owner.isNone ∧ (e.st = .x ∨ e.st = .o) then .s else e.st }

/-- The entry of a directory that covers a line is left by a holder. -/
def State.dirLeave (s : State) (d : DirRef) (ln : Nat) (h : Holder) : State :=
  match s.dirFind d ln with
  | some e => s.dirSet d ln [e.leave h]
  | none => s

/-- The caches that a holder of an entry names keep no line of the entry. -/
def State.keepsNone (s : State) (d : DirRef) (ln : Nat) (cs : List CacheRef) : Bool :=
  match s.dirFind d ln with
  | some e => cs.all fun c => (s.cache c).lines.all fun l => !e.covers l.ln
  | none => false

/-- A cache that holds nothing more of a line's directory entries leaves them (R310). -/
def State.leaveDirs (s : State) (c : CacheRef) (ln : Nat) : State :=
  match c with
  | .l1 k =>
    let s := if s.keepsNone (.cluster (clusOf k)) ln [.l1 k] then s.dirLeave (.cluster (clusOf k)) ln (.l1 k) else s
    if s.keepsNone (.die (dieOf k)) ln ((upTo 4).map fun i => .l1 (4 * clusOf k + i)) then
      s.dirLeave (.die (dieOf k)) ln (.cluster (clusOf k)) else s
  | .l2 d => if s.keepsNone (pkgDir ln) ln [.l2 d] then s.dirLeave (pkgDir ln) ln (.l2 d) else s
  | .crown n => if s.keepsNone (pkgDir ln) ln [.crown n] then s.dirLeave (pkgDir ln) ln (.crown n) else s

/-- A cache drops a line, writes its dirty data back, and leaves the directory entries in which it holds nothing more (R295,
R310). -/
def State.giveUp (s : State) (c : CacheRef) (ln : Nat) : State := (s.evict c ln).leaveDirs c ln

/-- A cache answers a host's snoop of a line: its dirty data goes to the host, and it drops the line, or keeps it clean and shared
(R315). -/
def State.snooped (s : State) (excl : Bool) (ln : Nat) (c : CacheRef) : State :=
  match (s.cache c).line? ln with
  | none => s
  | some l =>
    if excl then ((s.setCache c ((s.cache c).without ln)).toHome l).leaveDirs c ln
    else
      (s.setCache c ((s.cache c).modLine ln fun l =>
        { l with dirty := 0, st := if l.st = .si ∨ l.st = .ro then l.st else .s })).toHome l

/-! ### PFCH (R294) -/

/-- The hint that PFCH asks for, over its page's. -/
def pfHintOf (h : PfHint) (page : Nat) : Nat :=
  match h with
  | .page => page
  | .ef => 1
  | .el => 2

/-- The scope reaches beyond the die (R294). -/
def beyondDie (sc : Scope) : Bool := wideScope sc

/-- A far or host line brought into its home-side cache, exclusively if `ex` says so on a CT page. SI lines have no directory (R127). -/
def State.crownFetch (s : State) (ctx : Nat) (x : Xlat) (ln : Nat) (ex : Bool) : State :=
  let n := crownHalf (ln * 128)
  let c := CacheRef.crown n
  let ask := x.cls = 2 ∧ (((s.cache c).line? ln).isNone ∨ (ex = true ∧ (s.cache c).mayWrite ln = false))
  let (ok, s) := if ask then s.dirServe (pkgDir ln) ln (.crown n) ex else (true, s)
  if !ok then s
  else if ((s.cache c).line? ln).isSome then
    s.setCache c ((s.cache c).modLine ln fun l => if ex ∧ x.cls = 2 ∧ l.st = .s then { l with st := .e } else l)
  else
    let (k, out) := (s.cache c).fill c
      { ln := ln, st := stateOf x.cls (ex && x.cls == 2), ctx := ctx, tagv := true, hint := x.hint, retained := none, dirty := 0
        cmp := x.cmp, comp := false, data := if x.cls = 1 then s.peekN (ln * 128) 128 else [], filled := s.clk, way := 0
        poison := x.cls == 1 && s.poisonedAt (ln * 128) }
    out.foldl State.toHome (s.setCache c k)

/-- A line of a die's L2 asked for exclusively: only a CT page's is (R294). -/
def State.pfExcl (s : State) (d : Nat) (x : Xlat) (ln : Nat) (ex : Bool) : State :=
  if ex && x.cls == 2 && ((s.die d).cache.line? ln).isSome then
    let (ok, s) := s.l2Obtain d ln true
    if ok then s.setCache (.l2 d) ((s.die d).cache.modLine ln fun l => if l.st = .s then { l with st := .e } else l) else s
  else s

/-- A line of a CT or RO page fetched into a die's L2 (R294). -/
def State.pfL2 (s : State) (d ctx va : Nat) (x : Xlat) (ln : Nat) (ex : Bool) : State :=
  (s.l2Fetch d ctx (s.rangeAt d ctx va) x ln 1).2.pfExcl d x ln ex

/-- The line of an address fetched into the caches that a scope names (R294). A fill of the L1 disregards .na. -/
def State.prefetch (s : State) (c ctx va : Nat) (x : Xlat) (pa : Nat) (ex : Bool) (sc : Scope) : State :=
  let ln := lineOf pa
  let rng := s.rangeAt (dieOf c) ctx va
  if beyondDie sc then
    match homeCache (ln * 128) with
    | .l2 d =>
      let s := s.asked c pa
      if x.cls = 1 then s.siL2Get (16 * d) ctx (s.rangeAt d ctx va) x.hint x.cmp ln 1 else s.pfL2 d ctx va x ln ex
    | .l1 _ => s
    | .crown _ => s.crownFetch ctx x ln ex
  else if x.cls = 1 then
    if pointOf c 1 .core pa = .l1 then
      let s := s.siL2Get c ctx rng x.hint x.cmp ln 1
      if sc = .core then (s.siLine .l1 c ctx rng (if x.hint = 3 then 0 else x.hint) x.cmp ln 0).2 else s
    else s
  else
    let s := s.pfL2 (dieOf c) ctx va x ln ex
    if sc != .core || ((s.die (dieOf c)).cache.line? ln).isNone then s
    else if ((s.core c).l1.line? ln).isSome then (if ex && x.cls == 2 then (s.l1Obtain c ln true).2 else s)
    else s.l1Fetch c ctx x ln (ex && x.cls == 2)

/-- PFCH: ignored where any check fails, on UC pages and on pages of another package (R276, R294); only a fetch that is made reaches the
line's home (R30). -/
def execPfch (h : Hdr) (a : VReg) (mem : MemOp) (ex : Bool) (hint : PfHint) (scope : Scope) (s : State) : Host.Outcome State Fault Refusal :=
  runLanes h (lenMem mem) none (memOps a 2 mem) (some a) (fun c _ tm _ t s =>
    let va := (eaGlobal tm t a mem).1
    match s.check (dieOf c) (some c) tm.ctx .read va with
    | (.ok gpa x, s) =>
      if pkgOf gpa ≠ s.pkgid ∨ x.cls = 0 then s
      else (s.reached tm.ctx gpa).prefetch c tm.ctx va.toNat { x with hint := pfHintOf hint x.hint } (localOf gpa) ex scope
    | (.pageFault _, s) => s
    | (.trap _ _, s) => s
    | (.poison _, s) => s) s

/-! ### CCTL (R295) -/

/-- The caches that CCTL reaches at a scope. -/
def cctlCaches (c : Nat) (sc : Scope) (pa : Nat) : List CacheRef :=
  let d := dieOf c
  let die : List CacheRef := (upTo 16).map (fun i => CacheRef.l1 (16 * d + i)) ++ [.l2 d]
  match sc with
  | .core => [.l1 c]
  | .clus => (upTo 4).map fun i => .l1 (4 * clusOf c + i)
  | .die => die
  | .stk => die ++ (if homeCache pa = .l2 d then [] else [homeCache pa])
  | .ipo => die ++ (if homeCache pa = .l2 d then [] else [homeCache pa])
  | .pkg => die ++ (if homeCache pa = .l2 d then [] else [homeCache pa])
  | .sys => die ++ (if homeCache pa = .l2 d then [] else [homeCache pa])

/-- CCTL's effect on a line of one cache (R295). -/
def State.cctlOne (s : State) (op : CctlOp) (ln : Nat) (c : CacheRef) : State :=
  if ((s.cache c).line? ln).isNone then s
  else
    match op with
    | .wb => s.writeBack c ln
    | .wbinv => s.giveUp c ln
    | .ef => s.setCache c ((s.cache c).modLine ln fun l => { l with hint := 1 })
    | .el => s.setCache c ((s.cache c).modLine ln fun l => { l with hint := 2 })
    | .nrm => s.setCache c ((s.cache c).modLine ln fun l => { l with hint := 0 })

/-- CCTL: the stores to its line that wait in the core's store queue come first, so that the thread's earlier writes are those it
writes back; it takes the page faults of its address; on a UC page, a page of another package or a mismatched one it is ignored
(R276, R295). -/
def execCctl (h : Hdr) (a : VReg) (mem : MemOp) (op : CctlOp) (scope : Scope) (s : State) : Host.Outcome State Fault Refusal :=
  runLanes h (lenMem mem) none (memOps a 2 mem) (some a) (fun c team tm tid t s =>
    let va := (eaGlobal tm t a mem).1
    match s.check (dieOf c) (some c) tm.ctx .read va with
    | (.ok gpa x, s) =>
      if pkgOf gpa ≠ s.pkgid ∨ x.cls = 0 then s
      else
        let s := (s.reached tm.ctx gpa).drainTo c fun r => lineOf r.pa == lineOf gpa
        (cctlCaches c scope (localOf gpa)).foldl (fun s k => s.cctlOne op (lineOf (localOf gpa)) k) s
    | (.pageFault k, s) => s.pageFault team tid t.pc va k false false
    | (.trap _ _, s) => s
    | (.poison pa, s) => s.consume team tid t.pc (dramLoc pa) pa) s

/-! ### PIN and UNPIN (R297) -/

/-- The lines retained under a range of a context become ordinary lines (R297). -/
def Die.unretain (d : Die) (ctx idx : Nat) : Die :=
  let free (l : Line) : Line := if l.retained = some (rrKey ctx idx) then { l with retained := none } else l
  { d with cache := { d.cache with lines := d.cache.lines.map free } }

/-- A range is cleared: V := 0, BASE, LEN and the counters stay (R297, R299). -/
def State.unpin (s : State) (d ctx idx : Nat) : State :=
  if ((s.die d).range ctx idx).v then (s.modRange d ctx idx fun r => { r with v := false }).modDie d fun x => x.unretain ctx idx else s

/-- A range is set (R297). -/
def State.pin (s : State) (d ctx idx base len : Nat) : State :=
  let r := (s.die d).range ctx idx
  if len = 0 then s.unpin d ctx idx
  else if r.base = base ∧ r.len = len then s.modRange d ctx idx fun r => { r with v := true }
  else
    (s.modDie d fun x => x.unretain ctx idx).modRange d ctx idx fun _ =>
      { base := base, len := len, v := true, fill := 0, ovf := 0, hit := 0 }

/-- PIN: the operands are those of the highest-numbered live lane (R297). -/
def execPin (h : Hdr) (a b : VReg) (idx : BitVec 2) (s : State) : Host.Outcome State Fault Refusal :=
  runLive h 2 none [vR a 2, vR b] (some a) (fun c g tm live s =>
    match live.getLast? with
    | none => s
    | some x =>
      let base := x.2.2.reg64 a.toNat
      if 2 ^ 55 ≤ base.toNat then
        live.foldl (fun s y => s.pageFault g.team y.2.1 y.2.2.pc base pfNonCanonical false false) s
      else s.pin (dieOf c) tm.ctx idx.toNat base.toNat (x.2.2.reg b.toNat).toNat) s

/-- UNPIN (R297). -/
def execUnpin (h : Hdr) (idx : BitVec 2) (s : State) : Host.Outcome State Fault Refusal :=
  runLive h 2 none [] none (fun c _ tm live s => if live.isEmpty then s else s.unpin (dieOf c) tm.ctx idx.toNat) s

/-! ### TXQ and FRQ (R305, R306) -/

/-- LEAF of a translation (R305). -/
def leafCode (log2 : Nat) : Nat := if log2 = 16 then 0 else if log2 = 29 then 1 else 2

/-- TXQ's result for a translation (R305). -/
def txqOk (x : Xlat) (va : Nat) : Nat :=
  b2n x.mism * 2 ^ 85 + 2 ^ 80 + leafCode x.log2 * 2 ^ 72 + b2n x.rlog * 2 ^ 71 + x.hint * 2 ^ 69 + b2n x.cmp * 2 ^ 68
    + b2n x.xp * 2 ^ 67 + b2n x.w * 2 ^ 66 + x.cls * 2 ^ 64 + (x.pa + va % 2 ^ x.log2)

/-- TXQ of one thread (R305): its result, or the poisoned line its walk met. -/
def State.txq (s : State) (c ctx : Nat) (va : DWord) : (Nat ⊕ Nat) × State :=
  if 2 ^ 55 ≤ va.toNat then (.inl (pfNonCanonical * 2 ^ 81), s)
  else
    match s.translate (dieOf c) (some c) ctx va.toNat with
    | (.ok x, s) =>
      let gpa := x.pa + va.toNat % 2 ^ x.log2
      (.inl (if pkgOf gpa = s.pkgid ∧ s.unpopulated (localOf gpa) then pfUnpopulated * 2 ^ 81 else txqOk x va.toNat), s)
    | (.fault k, s) => (.inl (k * 2 ^ 81), s)
    | (.poison pa, s) => (.inr pa, s)

/-- TXQ (R305). -/
def execTxq (h : Hdr) (d a : VReg) (s : State) : Host.Outcome State Fault Refusal :=
  runLanes h 2 (some 0x360) [vW d 4, vR a 2] (some a) (fun c team tm tid t s =>
    match s.txq c tm.ctx (t.reg64 a.toNat) with
    | (.inl r, s) => s.answer team tid h t.pc .engine (wr128 d.toNat (BitVec.ofNat 128 r))
    | (.inr pa, s) => s.consume team tid t.pc (dramLoc pa) pa) s

/-- The frame is in the bad-frame list (R306, R423). -/
def State.listed (s : State) (frame : Nat) : Bool := s.bfl.any fun e => bits e.toNat 42 16 == frame

/-- FRQ's result for a global physical address (R306). -/
def State.frq (s : State) (a : Nat) : Nat :=
  let pa := localOf a
  if pkgOf a ≠ s.pkgid ∨ ¬ isDram pa ∨ s.absent pa then 0
  else
    let f := s.frame (pa / 65536)
    let cnt (o : Nat) : Nat := if s.cn.fetEn then s.peekNat (s.cn.fetBase + 8 * frameNo pa + o) 4 else 0
    cnt 4 * 2 ^ 64 + cnt 0 * 2 ^ 32 + 8 + b2n (s.listed (pa / 65536)) * 4 + b2n f.mig * 2 + b2n f.ret

/-- FRQ (R306). -/
def execFrq (h : Hdr) (d a : VReg) (s : State) : Host.Outcome State Fault Refusal :=
  runLanes h 2 (some 0x361) [vW d 4, vR a 2] (some a) (fun _ team _ tid t s =>
    s.answer team tid h t.pc .engine (wr128 d.toNat (BitVec.ofNat 128 (s.frq (t.reg64 a.toNat).toNat)))) s

end Sys2Proof.Machine
end

