-- ==== Sys2Proof/Machine/Coherence.lean ====
section
/-! DEFINITION. The rows of the coherence and translation engine: directories, probes, merging, power-gated caches, the host as
a holder, range commands and waiting page-fault records (11 R308 to R327; 05 R129). -/

namespace Sys2Proof.Machine

/-! ### Directory requests in phases (R311, R312) -/

/-- A request at a directory: it waits behind a BUSY or poisoned-pending entry; otherwise its entry is split, and it is granted
or its probes go out and the entry is BUSY. -/
def State.dirAsk (s : State) (d : DirRef) (r : Nat × Holder × Bool) : State :=
  match s.dirEntry d r.1 with
  | (none, s) => s
  | (some e, s) =>
    if e.leaving then s
    else if !e.busy.isEmpty || e.poisonPend then s.dirSet d r.1 [e.enqueue r]
    else
      let (e, s) := s.dirSplit d r.1 e r.2.1 r.2.2
      let ps := e.toProbe r.2.1 r.2.2
      if ps.isEmpty then s.dirSet d r.1 [e.granted r.2.1 r.2.2 s.clk false]
      else s.dirSet d r.1 [{ e with busy := ps, queue := [r] }]

/-- A request for a line is served at a directory (R311): on a CT line, by a holder that the directory tracks. -/
def execDirectoryRequest (s : State) : Host.Outcome State Fault Refusal :=
  .next (s.dirAsk s.ev.dref (lineOf s.ev.pa, s.ev.holder, s.ev.flag))

/-- The caches that a holder stands for. -/
def holderCaches (h : Holder) : List CacheRef :=
  match h with
  | .l1 c => [.l1 c]
  | .cluster n => (upTo 4).map fun i => .l1 (4 * n + i)
  | .l2 d => (upTo 16).map (fun i => CacheRef.l1 (16 * d + i)) ++ [.l2 d]
  | .crown n => [.crown n]
  | .host => []

/-- A holder has nothing left that stands against a request for a line: no copy for an exclusive request, no exclusive copy for
a shared one; a sleeping cache holds nothing (R311, R316). -/
def State.answered (s : State) (h : Holder) (ln : Nat) (excl : Bool) : Bool :=
  (holderCaches h).all fun c => match (s.cache c).line? ln with
    | some l => !excl && l.st != .e && l.st != .m
    | none => true

/-- A holder answers the probe of the request that its entry is BUSY with (R311). -/
def execProbe (s : State) : Host.Outcome State Fault Refusal :=
  let ln := lineOf s.ev.pa
  .next (match s.dirFind s.ev.dref ln with
    | some e =>
      match e.queue with
      | (l, _, excl) :: _ =>
        if e.busy.contains s.ev.holder && s.ev.holder != .host then
          (if excl then s.invalidate s.ev.holder l else s.downgrade s.ev.holder l)
        else s
      | [] => s
    | none => s)

/-- Acknowledgements reach the directory (R311): the entry awaits the others, or its request is granted and those that waited are
taken up in order; an entry that was recalled from the host is free (R314). -/
def State.probeAcks (s : State) (d : DirRef) (ln : Nat) (hs : List Holder) : State :=
  match s.dirFind d ln with
  | none => s
  | some e =>
    match e.queue with
    | [] => if e.leaving && e.busy.all hs.contains then s.dirFree d e else s
    | r :: rest =>
      let left := e.busy.filter fun h => !(hs.contains h && s.answered h r.1 r.2.2)
      if e.busy.isEmpty ∨ left = e.busy then s
      else if !left.isEmpty then s.dirSet d ln [{ e with busy := left }]
      else
        let dirty := e.busy.any fun h => (holderCaches h).any fun c => ((s.cache c).line? r.1).any fun l => l.dirty != 0
        let s := s.dirSet d ln [{ e with busy := [], queue := [] }.granted r.2.1 r.2.2 s.clk dirty]
        rest.foldl (fun s r => s.dirAsk d r) s

/-- Acknowledgements of probes reach a directory (R311). -/
def execProbeAcknowledgement (s : State) : Host.Outcome State Fault Refusal :=
  .next (s.probeAcks s.ev.dref (lineOf s.ev.pa) (s.ev.holders.filter (· != .host)))

/-- The host's response to a back-invalidate snoop (R315). -/
def execBackInvalidateResponse (s : State) : Host.Outcome State Fault Refusal :=
  .next (s.probeAcks (pkgDir (lineOf s.ev.pa)) (lineOf s.ev.pa) [.host])

/-! ### Agents outside the C-dies (R27, R309, R311, R399) -/

/-- The lines of a range written back by every cache that holds one dirty, and kept shared, before an agent outside the C-dies
reads it (R27, R315, R399). -/
def State.linesCleaned (s : State) (pa n : Nat) : State :=
  let clean (k : Cache) : Cache := (linesOf pa n).foldl (fun (k : Cache) ln => k.modLine ln fun l =>
    if l.st = .e ∨ l.st = .m ∨ l.st = .o then { l with st := .s, dirty := 0 } else l) k
  { s with cores := s.cores.mapKV fun _ (c : Core) => { c with l1 := clean c.l1 }
           dies := s.dies.mapKV fun _ (d : Die) => { d with cache := clean d.cache } }

/-- The package directory serves a line to an agent that keeps no copy of it: its region's export bit is set, the holders of an entry
that stands are probed, and the agent leaves the entry. False where the request waits (R309, R311, R399). -/
def State.visit (s : State) (ln : Nat) (excl : Bool) : Bool × State :=
  let s := s.setExport 14 ln
  if (s.dirFind (pkgDir ln) ln).isNone then (true, s)
  else
    let h := Holder.crown (crownHalf (ln * 128))
    let (ok, s) := s.dirServe (pkgDir ln) ln h excl
    (ok, if ok && !((s.cache (.crown (crownHalf (ln * 128)))).line? ln).isSome then s.dirLeave (pkgDir ln) ln h else s)

/-- The lines of a range served to an agent outside the C-dies: true once each is (R311, R399). -/
def State.visitLines (s : State) (pa n : Nat) (excl : Bool) : Bool × State :=
  (linesOf pa n).foldl (fun a ln => let r := a.2.visit ln excl; (a.1 && r.1, r.2)) (true, s)

/-! ### Merging (R313) -/

/-- Two entries have equal state and holders, or one of them is I (R313). -/
def mergeable (a b : DirEntry) : Bool :=
  a.st == .i || b.st == .i || (a.st == b.st && a.owner == b.owner && a.holders.all b.holders.contains && b.holders.all a.holders.contains)

/-- The entry of the parent of two siblings (R313). -/
def mergeOf (a b : DirEntry) : DirEntry :=
  let k := if a.st = .i then b else a
  { k with base := min a.base b.base, log2 := a.log2 + 1, last := max a.last b.last, busy := [], queue := [] }

/-- The sibling of an entry, if it is listed (R313). -/
def State.sibling (s : State) (d : DirRef) (e : DirEntry) : Option DirEntry :=
  (s.dirs.find? fun x => x.1 == d && x.2.base == (e.base ^^^ 2 ^ e.log2) && x.2.log2 == e.log2).map (·.2)

/-- Two siblings merge now: merging is on, the quiet interval has passed for both, and nothing is under way (R313). -/
def State.canMerge (s : State) (e b : DirEntry) : Bool :=
  s.xregs.merge && decide (e.log2 < 16) && decide (max e.last b.last + 1024 * max 1 s.xregs.quiet ≤ s.clk)
    && e.busy.isEmpty && b.busy.isEmpty && !e.poisonPend && !b.poisonPend && mergeable e b

/-- Sibling entries merge after the quiet interval (R313); an entry of a whole region left without holders is released (R309). -/
def State.merge (s : State) (d : DirRef) (ln : Nat) : State :=
  match (s.dirFind d ln).bind fun e => (s.sibling d e).map fun b => (e, b) with
  | none => s
  | some (e, b) =>
    if s.canMerge e b then
      let m := mergeOf e b
      let s := { s with dirs := s.dirs.filter fun x => !(x.1 == d && (x.2 == e || x.2 == b)) }
      if m.log2 = 16 ∧ m.st = .i then s.unexport d m.base else { s with dirs := (d, m) :: s.dirs }
    else s

/-- Sibling entries merge (R313). -/
def execEntryMerge (s : State) : Host.Outcome State Fault Refusal := .next (s.merge s.ev.dref (lineOf s.ev.pa))

/-! ### Power-gated caches (R316) -/

/-- A cache may sleep: no team resident on its core, or on its die with no retention range in force (R316). -/
def State.maySleep (s : State) (c : CacheRef) : Bool :=
  match c with
  | .l1 k => !(s.teams.any fun e => e.2.resident && e.2.cores.contains k)
  | .l2 d => !(s.teams.any fun e => e.2.resident && e.2.cores.any fun k => dieOf k == d) && !((s.die d).retain.any fun e => e.2.v)
  | .crown _ => false

/-- An idle cache sleeps: dirty lines are written back, owned lines returned, shared lines dropped (R316). -/
def execCacheSleep (s : State) : Host.Outcome State Fault Refusal :=
  let c := s.ev.cache
  .next (if s.maySleep c && !(s.cache c).asleep then
      let lines := (s.cache c).lines
      let own := lines.filter fun l => l.st == .e || l.st == .m || l.st == .o
      let s := (own.map (·.ln)).foldl (fun s n => s.giveUp c n) s
      let s := ((s.cache c).lines.map (·.ln)).foldl (fun s n => s.evict c n) s
      s.setCache c { s.cache c with asleep := true }
    else s)

/-- A sleeping cache wakes, empty (R316). -/
def execCacheWake (s : State) : Host.Outcome State Fault Refusal :=
  .next (if (s.cache s.ev.cache).asleep then s.setCache s.ev.cache { s.cache s.ev.cache with asleep := false } else s)

/-! ### The host (R315) -/

/-- A CXL.cache snoop of a host line: its holders answer as to a probe, exclusive if the flag is set (R315). -/
def execHostSnoop (s : State) : Host.Outcome State Fault Refusal :=
  let ln := lineOf s.ev.pa
  .next (match regionOf s.ev.pa with
    | .host _ =>
      match s.dirFind (pkgDir ln) ln with
      | some e =>
        if !e.busy.isEmpty then s
        else e.holders.foldl (fun s h => (holderCaches h).foldl (fun s c => s.snooped s.ev.flag ln c) s) s
      | none => s.snooped s.ev.flag ln (.crown (crownHalf s.ev.pa))
    | .near => s
    | .far => s
    | .device => s
    | .none => s)

/-! ### Page-fault records that wait (R323) -/

/-- A waiting page-fault record enters the ring, or is dropped as a duplicate (R323). -/
def execFaultRecordEnter (s : State) : Host.Outcome State Fault Refusal :=
  .next (match s.pfWait with
    | [] => s
    | r :: rest =>
      if s.pfRoom then
        let s := { s with pfWait := rest }
        if s.pfDup (pfKey r) [] then s else s.pfPut r
      else s)

/-! ### Range commands (R325 to R327) -/

/-- A virtual page of a context lies in a command's range (R325). -/
def Cmd.hasVa (k : Cmd) (ctx va : Nat) : Bool :=
  ctx == k.ctx && (k.all || (decide (k.first ≤ va / 65536) && decide (va / 65536 < k.first + k.count)))

/-- A translation maps a page of a command's range (R326). -/
def Cmd.hits (k : Cmd) (x : Xlat) : Bool :=
  x.ctx == k.ctx && (k.all || (decide (x.vpn * 2 ^ x.log2 / 65536 < k.first + k.count) && decide (k.first < (x.vpn + 1) * 2 ^ x.log2 / 65536)))

/-- A SHOOT's invalidations, and the flush of logged stores in its range (R326). -/
def State.shootNow (s : State) (k : Cmd) : State :=
  let s := { s with
    cores := s.cores.mapKV fun _ (c : Core) => { c with tlb := c.tlb.filter fun x => !k.hits x }
    dies := s.dies.mapKV fun _ (d : Die) => { d with tlb := d.tlb.filter fun x => !k.hits x }
    walkc := s.walkc.filter fun w => w.ctx != k.ctx }
  let hit := s.teams.filter fun e => e.2.ctx == k.ctx && e.2.window && e.2.log.any fun r => k.hasVa r.ctx r.va.toNat
  (hit.map (·.1)).foldl State.closeWindow s

/-- SHOOT (R326). -/
def execShoot (s : State) : Host.Outcome State Fault Refusal :=
  .next (match s.cmd with
    | some k => if k.op = 1 ∧ ¬ k.ran then { s.shootNow k with cmd := some { k with ran := true } } else s
    | none => s)

/-- The lines of a cache in a range of frames. -/
def Cache.linesIn (k : Cache) (first count : Nat) : List Nat :=
  (k.lines.filter fun l => decide (first ≤ l.ln / 512) && decide (l.ln / 512 < first + count)).map (·.ln)

/-- Every line of a range of local frames dropped from every cache, dirty data written back, the host back-invalidated (R327). -/
def State.flushFrames (s : State) (first count : Nat) : State :=
  let drop (s : State) (c : CacheRef) : State := ((s.cache c).linesIn first count).foldl (fun s n => s.giveUp c n) s
  let s := s.cores.keys.foldl (fun s c => drop s (.l1 c)) s
  let s := ((s.dies.keys.filter (· < 8)).foldl (fun s d => drop s (.l2 d)) s)
  let s := drop (drop s (.crown 0)) (.crown 1)
  { s with dirs := s.dirs.map fun x =>
      (x.1, if first ≤ x.2.base / 65536 ∧ x.2.base / 65536 < first + count then x.2.leave .host else x.2) }

/-- FLUSH (R327). -/
def execFlush (s : State) : Host.Outcome State Fault Refusal :=
  .next (match s.cmd with
    | some k => if k.op = 2 ∧ ¬ k.ran then { s.flushFrames k.first k.count with cmd := some { k with ran := true } } else s
    | none => s)

/-- The threads parked on a page fault in a command's range, of teams that are resident, or saved (R324). -/
def State.faulted (s : State) (k : Cmd) (resident : Bool) : List (Nat × Nat) :=
  s.teams.flatMap fun e => if e.2.ctx = k.ctx ∧ e.2.resident = resident ∧ (resident ∨ e.2.saved) then
      (s.threadsOf e.1).filterMap fun x =>
        if x.2.st = .parked ∧ x.2.wait = 6 ∧ x.2.pfva.any (fun a => k.hasVa e.2.ctx a.toNat) then some (e.1, x.1) else none
    else []

/-- A thread parked on a page fault while its team is away is woken: its record is that of a restarted thread, and it restarts when its
team comes back (R61, R324); a hood page that cannot be written ends the launch (R254). -/
def State.wakeAway (s : State) (team tid : Nat) : State :=
  let s := s.modThread team tid fun t => { t.restarted with st := .filed }
  match s.team? team, s.thread? team tid with
  | some tm, some t =>
    let (ok, s) := s.vWrite tm.ctx (tm.hood + 0x400 + 32 * tid) (toBytes 32 t.record)
    if ok then s else s.endLaunch tm.lid 4
  | _, _ => s

/-- A suspended row of a copy whose page a command's range holds is taken up again (R344). -/
def Cmd.resumes (k : Cmd) (r : CopyReq) : CopyReq :=
  match r.suspended with
  | some (_, page) => if k.hasVa r.ctx (page * 65536) then { r with suspended := none } else r
  | none => r

/-- WAKE (R324). A thread of a team that is away restarts when it comes back (R61). -/
def execWake (s : State) : Host.Outcome State Fault Refusal :=
  .next (match s.cmd with
    | some k =>
      if k.op = 3 ∧ ¬ k.ran then
        let away := s.faulted k false
        let s := (s.faulted k true).foldl (fun s x => s.restart x.1 x.2) s
        let s := away.foldl (fun s x => s.wakeAway x.1 x.2) s
        { s with cores := s.cores.mapKV fun _ (c : Core) => { c with copyq := c.copyq.map k.resumes }
                 cmd := some { k with ran := true } }
      else s
    | none => s)

/-- Nothing translated under the entries that a SHOOT invalidated is outstanding (R326). -/
def State.shotDone (s : State) (k : Cmd) : Bool :=
  decide (k.since + 2000 ≤ s.clk) && !(s.cores.any fun e => e.2.storeq.any fun r => k.hasVa r.ctx r.va.toNat)
    && !(s.reqs.any fun r => r.ctx == k.ctx)

/-- A range command completes: BUSY clears (R325). -/
def execRangeCommandComplete (s : State) : Host.Outcome State Fault Refusal :=
  .next (match s.cmd with
    | some k => if k.ran && (k.op != 1 || s.shotDone k) then { s with cmd := none } else s
    | none => s)

/-- An SI line has reached the lifetime limit: dirty data is written back and the line is dropped (R129). -/
def execLifetimeLimit (s : State) : Host.Outcome State Fault Refusal :=
  let ln := lineOf s.ev.pa
  .next (match (s.cache s.ev.cache).line? ln with
    | some l => if l.st = .si ∧ l.filled + 65536 ≤ s.clk then s.evict s.ev.cache ln else s
    | none => s)

end Sys2Proof.Machine
end

