-- ==== Sys2Proof/Machine/CopyEng.lean ====
section
/-! DEFINITION. The copy and binning engine's instructions and rows (12 R330 to R349, R455; 05 R148, R149; 14 R402 to R404; 15
R409, R412). -/

namespace Sys2Proof.Machine

/-! ### Request blocks (R330, R344) -/

/-- A little-endian field of a block: byte offset, bits hi to lo. -/
def blkField (b : List Byte) (off hi lo : Nat) : Nat := bits (ofBytes ((b.drop off).take 8)) hi lo

/-- The fields of a block (R330). -/
def blkOf (b : List Byte) : Blk :=
  { kind := blkField b 0 3 0, scope := blkField b 0 6 4, ssp := blkField b 0 9 8, dsp := blkField b 0 11 10
    lbin := blkField b 0 12 12 == 1, slv := blkField b 0 13 13 == 1, dlv := blkField b 0 14 14 == 1, len := blkField b 4 31 0
    nrow := blkField b 8 31 0, idx := blkField b 0xC 31 0, src := blkField b 0x10 63 0, dst := blkField b 0x18 63 0
    sstr := blkField b 0x20 31 0, dstr := blkField b 0x24 31 0, dlid := blkField b 0x28 31 0, dteam := blkField b 0x2C 31 0
    dpkg := blkField b 0x30 31 0, sland := blkField b 0x34 31 0, dland := blkField b 0x38 31 0
    rtag := BitVec.ofNat 32 (blkField b 0x3C 31 0) }


/-- No reserved bit, no unused field and no value outside its limits (R330): cause 1. -/
def Blk.fieldsOk (k : Blk) (word0 : Nat) : Bool :=
  !bitOf word0 7 && bits word0 31 15 == 0 && decide (k.kind ≤ 3) && decide (k.scope ≤ 6) && decide (k.ssp ≤ 1)
    && decide (k.dsp ≤ 2) && decide (8 ≤ k.len) && decide (k.len ≤ 16777216)
    && (if k.lbin then decide (k.nrow < 32) else decide (k.nrow < 2 ^ 24))
    && (k.indexed || k.idx == 0) && (k.ssp == 0 || decide (k.src < 2 ^ 32)) && (k.dsp == 0 || decide (k.dst < 2 ^ 32))
    && (k.kind != 0 || (k.sstr == 0 && k.dstr == 0))
    && (if k.dsp == 2 then decide (k.dteam < 2 ^ 24) && decide (k.dpkg ≤ 287) else k.dlid == 0 && k.dteam == 0 && k.dpkg == 0)
    && (k.slv || k.sland == 0) && (k.dlv || k.dland == 0)

/-- Every aligned field is aligned (R330): cause 2. -/
def Blk.alignOk (k : Blk) : Bool :=
  k.len % 8 == 0 && k.src % 8 == 0 && k.dst % 8 == 0 && k.sstr % 8 == 0 && k.dstr % 8 == 0 && k.idx % 4 == 0
    && k.sland % 16 == 0 && k.dland % 16 == 0


/-- Every own-scratchpad byte of a KIND 0 or 1 request of n rows, of the index list and of the landing words lies below S
(R344): cause 4. -/
def Blk.rangeOk (k : Blk) (S n : Nat) : Bool :=
  (k.indexed || k.ssp != 1 || (upTo n).all fun r => decide (k.srcAt r 0 + k.len ≤ S))
    && (k.indexed || k.dsp != 1 || (upTo n).all fun r => decide (k.dstAt r 0 + k.len ≤ S))
    && (!k.indexed || n == 0 || decide (k.idx + 4 * n ≤ S)) && (!k.slv || decide (k.sland + 16 ≤ S))
    && (!k.dlv || k.dsp == 2 || decide (k.dland + 16 ≤ S))

/-- Global addresses have [63:55] zero (R344): cause 5. -/
def Blk.addrOk (k : Blk) : Bool := (k.ssp != 0 || decide (k.src < 2 ^ 55)) && (k.dsp != 0 || decide (k.dst < 2 ^ 55))

/-- The lowest precise cause of R344 that a block meets. `held`: a block that BREL releases. -/
def blkCause (b : List Byte) (S n : Nat) (held : Bool) : Option Nat :=
  let k := blkOf b
  if !k.fieldsOk (blkField b 0 31 0) then some 1
  else if !k.alignOk then some 2
  else if k.lbin != held then some 3
  else if !k.rangeOk S n then some 4
  else if !k.addrOk then some 5
  else none

/-- INFO of a CopyFault (R344). -/
def copyInfo (cause slot off : Nat) : DWord := BitVec.ofNat 64 (off * 2 ^ 32 + slot * 256 + cause)

/-- A scope by its code; a code outside R23 never stands in an accepted block. -/
def scopeAt (n : Nat) : Scope := (scopeOf (BitVec.ofNat 3 n)).getD .core

/-! ### KICK (R336) -/

/-- The check of a scratchpad address of n aligned bytes, with its INFO (R276). -/
def spCheck (tm : Team) (n : Nat) (x : Word) : Option (Nat × DWord) := (spFault tm n n x).map fun k => (k, rangeInfo k tm.lr.scratch x)

/-- What stops a KICK of one thread: its block's address, poison, or a precise check. -/
inductive KickEnd where
  | fault (kind : Nat) (info : DWord)
  | poison
  | ok (b : List Byte)
deriving DecidableEq, Repr

/-- KICK's checks on the block at an offset (R336, R344). -/
def kickCheck (tm : Team) (x : Word) : KickEnd :=
  match spCheck tm 64 x with
  | some k => .fault k.1 k.2
  | none =>
    if tm.sPoisoned x.toNat 64 then .poison
    else
      let b := tm.sRead x.toNat 64
      match blkCause b tm.lr.scratch (blkField b 8 31 0) false with
      | some c => .fault kCopyFault (copyInfo c 0 x.toNat)
      | none => .ok b

/-- A block enters a core's request queue (R336). -/
def State.copyEnter (s : State) (c team tid ctx : Nat) (pc : Pc) (b : List Byte) : State :=
  let (id, s) := s.takeId
  s.modCore c fun k => { k with copyq := k.copyq ++
    [{ id := id, team := team, tid := tid, ctx := ctx, pc := pc, raw := b, blk := blkOf b, accepted := s.clk, started := false
       chunks := [], idxs := [], suspended := none }] }

/-- A block that passes its checks is released and enters the queue (R336, R346). -/
def State.kickEnter (s : State) (c team tid : Nat) (tm : Team) (pc : Pc) (b : List Byte) : State :=
  (((s.crossGate team).tells team tid).release c tm.ctx (scopeAt (blkOf b).scope)).copyEnter c team tid tm.ctx pc b

/-- KICK of one thread, unless its request has been entered already (R336, R346). -/
def State.kick (s : State) (c team tid : Nat) (tm : Team) (t : Thread) (len : Nat) (x : Word) : State :=
  match s.team? team with
  | none => s
  | some now =>
    if t.kicked.isSome then s
    else
      match kickCheck now x with
      | .fault k i => s.takeTrap team tid (s.trapAt k i t.pc len)
      | .poison => s.consume team tid t.pc 7 x.toNat
      | .ok b => (s.kickEnter c team tid tm t.pc b).closeRegion team tid

/-- KICK of one thread while other lanes of its group wait for entries: its region ends, and it goes on with its group (R336). -/
def State.kickFirst (s : State) (c team : Nat) (tm : Team) (len : Nat) (x : Nat × Thread × List Byte) : State :=
  let next := x.2.1.pc + BitVec.ofNat 55 (4 * len)
  (s.kickEnter c team x.1 tm x.2.1.pc x.2.2).modThread team x.1 fun t => { t.startEntry next with kicked := some next }

/-- Free entries of a core's request queue of 64 (R336). -/
def Core.copyFree (k : Core) : Nat := 64 - k.copyq.length

/-- The live lanes whose blocks pass their checks and have not entered the queue: TID, thread, block. -/
def kickTodo (tm : Team) (a : VReg) (mem : MemOp) (live : List (Nat × Nat × Thread)) : List (Nat × Thread × List Byte) :=
  live.filterMap fun x =>
    if x.2.2.kicked.isSome then none
    else
      match kickCheck tm (eaLocal tm x.2.2 a mem).1 with
      | .ok b => some (x.2.1, x.2.2, b)
      | .fault _ _ => none
      | .poison => none

/-- KICK (R336): the blocks enter the queue in lane order, each as soon as it has a free entry; at .sys they wait for their threads'
writes to other packages. -/
def execKick (h : Hdr) (a : VReg) (mem : MemOp) (s : State) : Host.Outcome State Fault Refusal :=
  runWait h (lenMem mem) (memOps a 1 mem) (some a)
    (fun c g tm live s =>
      let todo := kickTodo tm a mem live
      match s.relWaits c g.team live .rel (todo.any fun x => (blkOf x.2.2).scope == 6) with
      | some s => some s
      | none =>
        if todo.length ≤ (s.core c).copyFree then none
        else some ((todo.take (s.core c).copyFree).foldl (fun s x => s.kickFirst c g.team tm (lenMem mem) x) s))
    (fun c g tm live s => s.eachLane g.team live fun tid t s => s.kick c g.team tid tm t (lenMem mem) (eaLocal tm t a mem).1) s

/-! ### LANDI, LWAIT, LPOLL (R337, R338) -/

/-- LANDI of one thread (R337): a write of the whole word but for GEN; with GEN poisoned it is an imprecise store fault (R412). -/
def State.landi (s : State) (c team tid : Nat) (tm : Team) (t : Thread) (scope : Scope) (x target : Word) (len : Nat) : State :=
  match spCheck tm 16 x, s.team? team with
  | some k, _ => s.takeTrap team tid (s.trapAt k.1 k.2 t.pc len)
  | none, none => s
  | none, some now =>
    let w : LandWord := { now.landAt x.toNat with count := 0, target := target, hi := scope.code.setWidth 32 }
    if now.sPoisoned (x.toNat + 8) 8 then s.storeFault (storeRec c team tid tm.ctx t.pc (x.setWidth 64) x.toNat w.bytes) 2
    else s.sPutBy (some tid) team x.toNat w.bytes

/-- LANDI (R337). -/
def execLandi (h : Hdr) (scope : Scope) (a : VReg) (b : SrcB) (s : State) : Host.Outcome State Fault Refusal :=
  runLanes h (lenB b) none (vR a :: srcOps b) (some a) (fun c team tm tid t s =>
    s.landi c team tid tm t scope (t.reg a.toNat) (bVal tm t b) (lenB b)) s

/-- The scope of a landing word (R333). -/
def LandWord.scope (w : LandWord) : Scope := scopeAt (w.hi.toNat % 8)

/-- LWAIT of one thread (R338): at once where the generation is done, else it waits. -/
def State.lwait (s : State) (c team tid : Nat) (tm : Team) (t : Thread) (h : Hdr) (d : Nat) (x gen : Word) (len : Nat) : State :=
  match spCheck tm 16 x with
  | some k => s.takeTrap team tid (s.trapAt k.1 k.2 t.pc len)
  | none =>
    if tm.sPoisoned x.toNat 16 then s.consume team tid t.pc 7 x.toNat
    else
      let w := tm.landAt x.toNat
      if doneGen w.gen gen then ((s.answer team tid h t.pc .sync (w.result d)).learns team tid).acquire c tm.ctx w.scope
      else
        let (id, s) := s.takeId
        s.openWait team tid (mkWin h id .sync t.pc [(d, 0), (d + 1, 0)] false) (.land x.toNat gen d (s.clk + 4096))

/-- LWAIT (R338). -/
def execLwait (h : Hdr) (d a : VReg) (b : SrcB) (s : State) : Host.Outcome State Fault Refusal :=
  runLanes h (lenB b) none (vW d 2 :: vR a :: srcOps b) (some a) (fun c team tm tid t s =>
    s.lwait c team tid tm t h d.toNat (t.reg a.toNat) (bVal tm t b) (lenB b)) s

/-- LPOLL of one thread (R338). -/
def State.lpoll (s : State) (c team tid : Nat) (tm : Team) (t : Thread) (h : Hdr) (d : Nat) (x gen : Word) (len : Nat) : State :=
  match spCheck tm 16 x with
  | some k => s.takeTrap team tid (s.trapAt k.1 k.2 t.pc len)
  | none =>
    if tm.sPoisoned x.toNat 16 then s.consume team tid t.pc 7 x.toNat
    else
      let w := tm.landAt x.toNat
      if doneGen w.gen gen then ((s.answer team tid h t.pc .sync [(d, 1), (d + 1, w.gen)]).learns team tid).acquire c tm.ctx w.scope
      else s.answer team tid h t.pc .engine [(d, 0), (d + 1, w.gen)]

/-- LPOLL (R338). -/
def execLpoll (h : Hdr) (d a : VReg) (b : SrcB) (s : State) : Host.Outcome State Fault Refusal :=
  runLanes h (lenB b) none (vW d 2 :: vR a :: srcOps b) (some a) (fun c team tm tid t s =>
    s.lpoll c team tid tm t h d.toNat (t.reg a.toNat) (bVal tm t b) (lenB b)) s

/-- A waiting thread reads its landing word again: done, with the acquire of its scope, or waiting on (R338). -/
def State.landAgain (s : State) (team tid : Nat) (tm : Team) (w : Window) (off : Nat) (gen : Word) (dst : Nat) : State :=
  if tm.sPoisoned off 16 then s.consume team tid w.pc 7 off
  else
    let k := tm.landAt off
    if doneGen k.gen gen then ((s.learns team tid).acquire (tm.coreOf tid) tm.ctx k.scope).waitDone team tid w.id (k.result dst)
    else s.modThread team tid fun t => t.modWin w.id fun u => { u with wait := some (.land off gen dst (s.clk + 4096)) }

/-- A landing event on its word, or 4,096 clk, lets an LWAIT read the word again (R338, R349). -/
def execLwaitRecheck (s : State) : Host.Outcome State Fault Refusal :=
  let team := s.ev.team
  let tid := s.ev.tid
  .next (match s.team? team, (s.thread? team tid).bind fun t => t.waiting fun w => match w with
      | .land _ _ _ poll => decide (poll ≤ s.clk)
      | _ => false with
    | some tm, some w =>
      match w.wait with
      | some (.land off gen dst _) => if tm.resident then s.landAgain team tid tm w off gen dst else s
      | _ => s
    | _, _ => s)

/-! ### Bins and held blocks (R339 to R343) -/

/-- BINC of one thread (R340). -/
def State.binc (s : State) (team tid : Nat) (h : Hdr) (pc : Pc) (d b : Nat) (inc : Word) : State :=
  match s.team? team with
  | none => s
  | some tm =>
    let old := tm.bins.getD b 0
    let s := (s.crossGate team).modTeam team fun t => { t with bins := setAt t.bins b (old + inc) }
    (s.answer team tid h pc .engine [(d, old)]).closeRegion team tid

/-- BINC (R340). -/
def execBinc (h : Hdr) (d a : VReg) (b : SrcB) (s : State) : Host.Outcome State Fault Refusal :=
  runLanes h (lenB b) none (vW d :: vR a :: srcOps b) (some a) (fun _ team tm tid t s =>
    s.binc team tid h t.pc d.toNat ((t.reg a.toNat).toNat % 32) (bVal tm t b)) s

/-- BHOLD (R341). -/
def execBhold (h : Hdr) (slot : BitVec 4) (a : VReg) (s : State) : Host.Outcome State Fault Refusal :=
  runLanes h 2 none [vR a] (some a) (fun _ team _ tid t s =>
    (s.modTeam team fun m => { m with hold := setAt m.hold slot.toNat (t.reg a.toNat), hvalid := m.hvalid ||| (1#16 <<< slot.toNat) }).answer
      team tid h t.pc .engine []) s

/-- The named slots that hold a block, ascending (R342). -/
def heldSlots (tm : Team) (mask : Word) : List Nat := (upTo 16).filter fun i => mask.getLsbD i && tm.hvalid.getLsbD i

/-- The count of the bin that a held block names (R342). -/
def binOf (tm : Team) (b : List Byte) : Nat := (tm.bins.getD (blkField b 8 4 0) 0).toNat

/-- BREL's checks on the block of a slot (R342, R344): the rows are its bin's count where that is at most 16,777,215. -/
def brelCheck (tm : Team) (slot : Nat) : KickEnd :=
  let x := tm.hold.getD slot 0
  match spCheck tm 64 x with
  | some k => .fault k.1 k.2
  | none =>
    if tm.sPoisoned x.toNat 64 then .poison
    else
      let b := tm.sRead x.toNat 64
      match blkCause b tm.lr.scratch (if binOf tm b < 2 ^ 24 then binOf tm b else 0) true with
      | some c => .fault kCopyFault (copyInfo c slot x.toNat)
      | none => .ok b

/-- A held block as it is released: NROW its bin's count, LBIN 0 (R342). -/
def patched (tm : Team) (b : List Byte) : List Byte :=
  let w0 := blkField b 0 31 0
  toBytes 4 (w0 - w0 / 4096 % 2 * 4096) ++ (b.drop 4).take 4 ++ toBytes 4 (binOf tm b) ++ b.drop 12

/-- The blocks of the named slots, or the first slot whose block stops the release. -/
def brelBlocks (tm : Team) (slots : List Nat) : (List (List Byte)) ⊕ KickEnd :=
  slots.foldl (fun (r : (List (List Byte)) ⊕ KickEnd) i => match r, brelCheck tm i with
    | .inl l, .ok b => .inl (l ++ [b])
    | .inl _, e => .inr e
    | .inr e, _ => .inr e) (.inl [])

/-- One released block: its release, its entry, and its abort where its count exceeds 16,777,215 (R342, R346, R455). -/
def State.brelOne (s : State) (c team tid ctx : Nat) (tm : Team) (pc : Pc) (b : List Byte) : State :=
  let s := ((s.tells team tid).release c ctx (scopeAt (blkOf b).scope)).copyEnter c team tid ctx pc (patched tm b)
  if binOf tm b < 2 ^ 24 then s
  else match (s.core c).copyq.getLast? with
    | some r => s.copyAbort c r 0x1A 0
    | none => s

/-- BREL of the highest live lane (R342). -/
def State.brel (s : State) (c team tid : Nat) (tm : Team) (t : Thread) (clr : Bool) (mask : Word) (len : Nat) : State :=
  let slots := heldSlots tm mask
  match brelBlocks tm slots with
  | .inr (.fault k i) => s.takeTrap team tid (s.trapAt k i t.pc len)
  | .inr _ => s.consume team tid t.pc 7 0
  | .inl bs =>
    let s := bs.foldl (fun s b => s.brelOne c team tid tm.ctx tm t.pc b) (s.crossGate team)
    let s := s.modTeam team fun m =>
      { m with hvalid := slots.foldl (fun v i => v &&& ~~~(1#16 <<< i)) m.hvalid
               bins := if clr then bs.foldl (fun l b => setAt l (blkField b 8 4 0) 0) m.bins else m.bins }
    s.closeRegion team tid

/-- BREL (R342): it waits at issue until the queue has an entry for every block it releases. -/
def execBrel (h : Hdr) (clr : Bool) (b : SrcB) (s : State) : Host.Outcome State Fault Refusal :=
  runWait h (lenB b) (srcOps b) none
    (fun c g tm live s => match live.getLast? with
      | none => none
      | some x => match brelBlocks tm (heldSlots tm (bVal tm x.2.2 b)) with
        | .inr _ => none
        | .inl bs =>
          if (s.core c).copyFree < bs.length then some s
          else s.relWaits c g.team live .rel (bs.any fun y => (blkOf y).scope == 6))
    (fun c g tm live s => match live.getLast? with
      | none => s
      | some x =>
        let s := live.dropLast.foldl (fun s y => s.closeRegion g.team y.2.1) s
        s.brel c g.team x.2.1 tm x.2.2 clr (bVal tm x.2.2 b) (lenB b)) s

/-- CPYQ (R343). -/
def execCpyq (h : Hdr) (d : VReg) (s : State) : Host.Outcome State Fault Refusal :=
  runLanes h 2 none [vW d 4] none (fun c team tm tid t s =>
    let q := (s.core c).copyq.filter fun r => r.team == team
    let w (n : Nat) : Word := BitVec.ofNat 32 n
    s.answer team tid h t.pc .engine
      [(d.toNat, w (s.core c).copyFree), (d.toNat + 1, w q.length), (d.toNat + 2, tm.hvalid.setWidth 32)
       , (d.toNat + 3, w (q.filter fun r => r.suspended.isSome).length)]) s

/-! ### Requests at work (R331, R332, R344 to R346) -/

/-- A request of a core's queue. -/
def State.copyReq? (s : State) (c id : Nat) : Option CopyReq := (s.core c).copyq.find? fun r => r.id == id

/-- A chunk of a request changed. -/
def State.modChunk (s : State) (c id row n : Nat) (f : Chunk → Chunk) : State :=
  s.modCopy c id fun r => { r with chunks := r.chunks.map fun k => if k.row == row && k.n == n then f k else k }

/-- Chunk n of a row at a destination address: its place in the row and its bytes (R332). -/
def chunkSpan (dst len n : Nat) : Nat × Nat :=
  let lo := max dst ((dst / 512 + n) * 512)
  let hi := min (dst + len) ((dst / 512 + n + 1) * 512)
  (lo - dst, hi - lo)

/-- A landing word of a resident team is poisoned: an event on it is a consumption by the engine (R334, R412). -/
def State.landBad (s : State) (team off : Nat) : Bool := (s.team? team).any fun t => t.resident && t.sPoisoned off 16

/-- The team whose scratchpad holds a request's DLAND word, in this package. -/
def CopyReq.landing (r : CopyReq) (pkg : Nat) : Nat := (r.destTeam pkg).getD r.team

/-- The message of a chunk to another package, and its request (R397, R403). -/
def State.chunkMsg (s : State) (c : Nat) (r : CopyReq) (row n pkg addr : Nat) (scr : Bool) (data : List Byte) : State :=
  (s.sendReq { bareMsg .chunk pkg 0 addr data with scr := scr } (.chunkWrite c r.id row n) r.team r.tid r.ctx).2

/-- The destination unit of a request's deliveries (R397). -/
def CopyReq.unit (r : CopyReq) : List Byte := deliveryUnit r.blk.dlid r.blk.dteam r.blk.dland r.blk.dlv

/-- A request of no rows completes: one event of no bytes on each landing word of this package (R334); a poisoned word is an imprecise
copy fault (R412). -/
def State.zeroDone (s : State) (c : Nat) (r : CopyReq) : State :=
  let far : Bool := r.blk.dsp == 2 && r.blk.dpkg != s.pkgid
  if (r.blk.slv && s.landBad r.team r.blk.sland) || (r.blk.dlv && !far && s.landBad (r.landing s.pkgid) r.blk.dland) then s.copyFault c r 2
  else
    let s := s.dropCopy c r.id
    let s := if r.blk.slv then s.landEvent r.team r.blk.sland 0 false else s
    if r.blk.dlv && !far then s.landEvent (r.landing s.pkgid) r.blk.dland 0 false else s

/-- A started request of no rows (R331, R334, R403): it ends at once, unless a landing word of another package is told of it first. -/
def State.copyZero (s : State) (c : Nat) (r : CopyReq) : State :=
  match s.destFault r with
  | some k => s.copyAbort c r k 0
  | none =>
    if r.blk.dsp = 2 ∧ r.blk.dpkg ≠ s.pkgid ∧ r.blk.dlv then
      match s.path r.blk.dpkg 0 with
      | .noRoute => s.copyAbort c r 0x15 0
      | .failed => s.copyFault c r 1
      | _ =>
        (s.modCopy c r.id fun r =>
          { r with started := true, chunks := [{ row := 0, n := 0, data := [], awaits := 0, sent := true, written := false, landed := false
                                                 acked := false }] }).chunkMsg c r 0 0 r.blk.dpkg 0 true r.unit
    else s.zeroDone c r

/-- A queued request starts: in queue order, up to 8 at once (R346). -/
def State.copyStart (s : State) (c : Nat) (r : CopyReq) : State :=
  let q := (s.core c).copyq
  if r.started || !(q.takeWhile fun x => x.id != r.id).all (·.started) || decide (8 ≤ (q.filter (·.started)).length) then s
  else if r.blk.nrow = 0 then s.copyZero c r
  else s.modCopy c r.id fun r => { r with started := true }

/-- A queued request starts (R346). -/
def execCopyRequestStart (s : State) : Host.Outcome State Fault Refusal :=
  .next (match s.copyReq? s.ev.core s.ev.req with
    | some r => s.copyStart s.ev.core r
    | none => s)

/-! #### Conditions that a row meets (R344, R455) -/

/-- What a row's condition brings. -/
inductive RowEnd where
  | abort (cause : Nat)
  /-- A page fault that suspends the row. -/
  | suspend (cause : Nat) (va : Nat) (write : Bool)
  /-- An imprecise copy fault: 1 remote path, 2 poisoned home line. -/
  | fault (aux : Nat)
deriving DecidableEq, Repr


/-- The condition of R344 that a row meets before its data moves: its destination team, and scratchpad bytes at or above S. -/
def State.rowFault (s : State) (r : CopyReq) (src dst : Nat) : Option RowEnd :=
  let S := ((s.team? r.team).map fun t => t.lr.scratch).getD 0
  let past (a S : Nat) : Bool := S < a + r.blk.len
  if r.blk.ssp = 1 ∧ past src S then some (.abort 0x17)
  else if r.blk.dsp = 1 ∧ past dst S then some (.abort 0x17)
  else
    match s.destFault r with
    | some k => some (.abort k)
    | none =>
      match (r.destTeam s.pkgid).bind s.team? with
      | some t => if past dst t.lr.scratch then some (.abort 0x17) else none
      | none => none

/-- The outcome of the checks of one line's part of a row (R344, R402, R412). -/
def State.copyAccess (s : State) (c : Nat) (r : CopyReq) (write : Bool) (va : Nat) : (RowEnd ⊕ (Nat × Xlat)) × State :=
  match s.access (dieOf c) (some c) r.ctx (if write then .write else .read) (BitVec.ofNat 64 va) with
  | (.pageFault k, s) =>
    (.inl (if k = pfNotMapped ∨ k = pfClosed then .suspend k va write
      else .abort (if k = pfNonCanonical then 0x11 else if k = pfUnpopulated then 0x12 else 0x13)), s)
  | (.trap k _, s) => (.inl (.abort (if k = kClassFault then 0x14 else 0x15)), s)
  | (.poison _, s) => (.inl (.fault 2), s)
  | (.ok gpa x, s) =>
    if pkgOf gpa = s.pkgid then (.inr (gpa, x), s)
    else (match s.path (pkgOf gpa) (localOf gpa) with
      | .noRoute => (.inl (.abort 0x15), s)
      | .failed => (.inl (.fault 1), s)
      | .port _ => (.inr (gpa, x), s)
      | .wait _ => (.inr (gpa, x), s))

/-- Pieces of n bytes from an address, each in one line: address and length. `k` bounds their number. -/
def linePieces : Nat → Nat → Nat → List (Nat × Nat)
  | 0, _, _ => []
  | k + 1, a, n =>
    if n = 0 then []
    else
      let m := min n (128 - a % 128)
      (a, m) :: linePieces k (a + m) (n - m)

/-- Every line's part of a chunk checked, in order: the first condition met, or where each part lies. -/
def State.copyPieces (s : State) (c : Nat) (r : CopyReq) (write : Bool) (va n : Nat) :
    (RowEnd ⊕ List (Nat × Nat × Nat × Xlat)) × State :=
  (linePieces 6 va n).foldl (fun (a : (RowEnd ⊕ List (Nat × Nat × Nat × Xlat)) × State) p => match a with
    | (.inl e, s) => (.inl e, s)
    | (.inr l, s) =>
      match s.copyAccess c r write p.1 with
      | (.inl e, s) => (.inl e, s)
      | (.inr (gpa, x), s) => (.inr (l ++ [(p.1, p.2, gpa, x)]), s)) (.inr [], s)

/-- A row meets a condition of R344. -/
def State.rowEnd (s : State) (c : Nat) (r : CopyReq) (row : Nat) : RowEnd → State
  | .abort k => s.copyAbort c r k row
  | .fault k => s.copyFault c r k
  | .suspend k va write =>
    (s.modCopy c r.id fun r => { r with suspended := some (row, va / 65536) }).pfRecord
      { cause := k, ctx := r.ctx, core := c, wr := write, xf := false, rep := false, lid := r.team / 2 ^ 24, team := r.team % 2 ^ 24
        tid := r.tid, pc := r.pc.toNat, va := va }

/-! #### Reading a chunk (R331, R345) -/

/-- Bytes of a core's retry store in use (R345). -/
def Core.retryUsed (k : Core) : Nat := (k.copyq.map fun r => (r.chunks.map fun x => x.data.length).sum).sum

/-- A line's part of a copy asks the directory for its line: true if it may be performed (R310, R311). -/
def State.copyAsk (s : State) (c : Nat) (a : Ask) (p : Nat × Nat × Nat × Xlat) : Bool × State :=
  if pkgOf p.2.2.1 = s.pkgid then s.ctAsk c p.2.2.2.cls 3 a (localOf p.2.2.1) else (true, s)

/-- The first of a chunk's parts whose line must be waited for, with what it has asked (R311). -/
def State.copyHeld (s : State) (c : Nat) (a : Ask) (ps : List (Nat × Nat × Nat × Xlat)) : Option State :=
  ps.findSome? fun p => match s.copyAsk c a p with
    | (true, _) => none
    | (false, s) => some s

/-- One line's part of a chunk's source in this package read at SCOPE into the chunk, through the die's L2; poison ends the request
(R293, R331, R412). -/
def State.chunkPart (s : State) (c : Nat) (r : CopyReq) (row n off : Nat) (p : Nat × Nat × Nat × Xlat) : State :=
  let (va, m, gpa, x) := p
  let rng := s.rangeAt (dieOf c) r.ctx va
  let s := if 2 ≤ x.cls then (s.l2Fetch (dieOf c) r.ctx rng x (lineOf (localOf gpa)) 0).2 else s
  let ((b, bad), s) := s.readPoint c r.ctx rng x (scopeAt r.blk.scope) (localOf gpa) m 0
  if bad then s.copyFault c r 2 else s.modChunk c r.id row n fun k => { k with data := overlayAt k.data off b }

/-- A read of one line's part in another package is sent (R403). -/
def State.chunkAsk (s : State) (c : Nat) (r : CopyReq) (row n off : Nat) (p : Nat × Nat × Nat × Xlat) : State :=
  let (_, m, gpa, _) := p
  ((s.sendReq (bareMsg .read (pkgOf gpa) m gpa []) (.chunkRead c r.id row n off) r.team r.tid r.ctx).2).modChunk
    c r.id row n fun k => { k with awaits := k.awaits + 1 }

/-- The SLAND event of a chunk whose reads are all performed; a poisoned word is an imprecise copy fault (R334, R403, R412). -/
def State.chunkSland (s : State) (c id row n : Nat) : State :=
  match s.copyReq? c id with
  | none => s
  | some r =>
    match r.chunk? row n with
    | some k =>
      if !(r.blk.slv && k.awaits == 0) then s
      else if s.landBad r.team r.blk.sland then s.copyFault c r 2
      else s.landEvent r.team r.blk.sland k.data.length false
    | none => s

/-- A chunk joins its request, with the bytes given. -/
def State.addChunk (s : State) (c id row n : Nat) (b : List Byte) : State :=
  s.modCopy c id fun r =>
    { r with chunks := r.chunks ++ [{ row := row, n := n, data := b, awaits := 0, sent := false, written := false, landed := false
                                      acked := false }] }

/-- A chunk's source bytes are read; those of another package are asked for (R331, R403). -/
def State.chunkLoad (s : State) (c : Nat) (r : CopyReq) (row n src : Nat) (m : Nat) (t : Option Team) : State :=
  if r.blk.ssp = 1 then
    match t with
    | none => s
    | some t => if t.sPoisoned src m then s.copyFault c r 2 else (s.addChunk c r.id row n (t.sRead src m)).chunkSland c r.id row n
  else
    match s.copyPieces c r false src m with
    | (.inl e, s) => s.rowEnd c r row e
    | (.inr ps, s) =>
      match s.copyHeld c .load ps with
      | some s => s
      | none =>
        let s := ps.foldl (fun s p =>
          if pkgOf p.2.2.1 = s.pkgid then s.chunkPart c r row n (p.1 - src) p else s.chunkAsk c r row n (p.1 - src) p)
          (s.addChunk c r.id row n (List.replicate m 0))
        s.chunkSland c r.id row n

/-- A row starts: its index entry is read and kept; one that is poisoned ends the request (R331, R412). -/
def State.rowStart (s : State) (c : Nat) (r : CopyReq) (row : Nat) (t : Option Team) : State :=
  match t with
  | none => s
  | some t =>
    let a := r.blk.idx + 4 * row
    if t.sPoisoned a 4 then s.copyFault c r 2 else s.modCopy c r.id fun r => { r with idxs := r.idxs.put row (t.sNat a 4) }

/-- A request whose team is about to leave its core: the engine reads on from its scratchpad, although a row is suspended (R348). -/
def State.leavesNow (s : State) (r : CopyReq) : Bool :=
  (s.team? r.team).any fun t => t.cores.any fun c =>
    (s.ctx t.ctx).outCores.contains c || (s.core c).draining || (t.lr.mx && s.rowsLow c)

/-- A row of a started request whose index entry is known: its next chunk read, if the retry store has room (R344, R345). -/
def State.chunkIn (s : State) (c : Nat) (r : CopyReq) (row n : Nat) (t : Option Team) : State :=
  let src := r.src row
  let dst := r.dst row
  if chunksOf dst r.blk.len ≤ n then s
  else
    match s.rowFault r src dst with
    | some e => s.rowEnd c r row e
    | none =>
      let (off, m) := chunkSpan dst r.blk.len n
      if 262144 < (s.core c).retryUsed + m then s else s.chunkLoad c r row n (src + off) m t

/-- A started request's chunk is read into the retry store, if that has room, with its SLAND event (R331, R345, R347, R348). -/
def execChunkRead (s : State) : Host.Outcome State Fault Refusal :=
  let c := s.ev.core
  let row := s.ev.row
  let n := s.ev.chunk
  .next (match s.copyReq? c s.ev.req with
    | none => s
    | some r =>
      let t := (s.team? r.team).filter (·.resident)
      if !r.started || (r.suspended.isSome && !(r.blk.ssp == 1 && s.leavesNow r)) || decide (r.blk.nrow ≤ row) || (r.chunk? row n).isSome
          || decide (s.clk < r.accepted + 40) then s
      else
        let s := if r.rowKnown row then s else s.rowStart c r row t
        match s.copyReq? c s.ev.req with
        | some r => if r.rowKnown row then s.chunkIn c r row n t else s
        | none => s)

/-! #### Writing a chunk (R331, R403, R409) -/

/-- One line's part of a chunk written in this package at SCOPE; a line that it covers whole loses its poison (R409). -/
def State.copyPut (s : State) (c ctx : Nat) (sc : Scope) (va gpa : Nat) (x : Xlat) (b : List Byte) : State :=
  (s.clearPoison (localOf gpa) b.length).writePoint c ctx (s.rangeAt (dieOf c) ctx va) x.cls x.hint x.cmp sc (localOf gpa) b 0

/-- A chunk's parts in this package written. -/
def State.chunkPut (s : State) (c : Nat) (r : CopyReq) (dst : Nat) (b : List Byte) (ps : List (Nat × Nat × Nat × Xlat)) : State :=
  ps.foldl (fun s p => s.copyPut c r.ctx (scopeAt r.blk.scope) p.1 p.2.2.1 p.2.2.2 ((b.drop (p.1 - dst)).take p.2.1)) s

/-- A chunk's message to another package is sent. -/
def State.chunkSend (s : State) (c : Nat) (r : CopyReq) (row n pkg addr : Nat) (scr : Bool) (data : List Byte) : State :=
  (s.chunkMsg c r row n pkg addr scr data).modChunk c r.id row n fun k => { k with sent := true }

/-- A chunk's data goes to a team of this package: into its scratchpad, or held at the crown while it is away (R348). -/
def State.chunkDeliver (s : State) (c : Nat) (r : CopyReq) (row n h off : Nat) (b : List Byte) : State :=
  match s.team? h with
  | none => s.copyAbort c r 0x18 row
  | some t =>
    let origin := some (c, r.id, row, n)
    let waiting := s.held.any fun x => x.team == h
    if t.resident && !waiting then (s.sPut h off b).modChunk c r.id row n fun k => { k with written := true }
    else if s.held.any fun x => x.chunk == origin then s
    else
      { s with held := s.held ++ [{ team := h, chunk := origin, msg :=
          { bareMsg .chunk s.pkgid 0 off (r.unit ++ b) with spkg := s.pkgid, sctx := r.ctx } }] }

/-- A chunk's place in global memory is written, or its message sent; it waits for the directories (R311, R331, R403). -/
def State.chunkGlobal (s : State) (c : Nat) (r : CopyReq) (k : Chunk) (dst m : Nat) : State :=
  let done (s : State) : State := s.modChunk c r.id k.row k.n fun k => { k with written := true }
  match s.copyPieces c r true dst m with
  | (.inl e, s) => s.rowEnd c r k.row e
  | (.inr ps, s) =>
    match ps with
    | [] => done s
    | p :: _ =>
      if pkgOf p.2.2.1 ≠ s.pkgid then (if k.sent then s else s.chunkSend c r k.row k.n (pkgOf p.2.2.1) p.2.2.1 false k.data)
      else
        match s.copyHeld c .store ps with
        | some s => s
        | none => done (s.chunkPut c r dst k.data ps)

/-- A chunk that has been read is written at its destination, or its message is sent (R331, R403). -/
def State.chunkStore (s : State) (c : Nat) (r : CopyReq) (k : Chunk) (t : Option Team) : State :=
  let row := r.dst k.row
  let (off, m) := chunkSpan row r.blk.len k.n
  let dst := row + off
  match s.rowFault r (r.src k.row) row with
  | some e => s.rowEnd c r k.row e
  | none =>
    if r.blk.dsp = 0 then s.chunkGlobal c r k dst m
    else if r.blk.dsp = 1 then
      (if t.isSome then (s.sPut r.team dst k.data).modChunk c r.id k.row k.n fun k => { k with written := true } else s)
    else if r.blk.dpkg = s.pkgid then s.chunkDeliver c r k.row k.n (tHandle r.blk.dlid r.blk.dteam) dst k.data
    else if k.sent then s
    else
      match s.path r.blk.dpkg 0 with
      | .noRoute => s.copyAbort c r 0x15 k.row
      | .failed => s.copyFault c r 1
      | _ => s.chunkSend c r k.row k.n r.blk.dpkg dst true (r.unit ++ k.data)

/-- The index entry of a row: the one kept, or, of a row not started, the one that the list holds now. -/
def CopyReq.entryNow (r : CopyReq) (t : Option Team) (row : Nat) : Nat :=
  if r.rowKnown row then r.entry row else (t.map fun t => t.sNat (r.blk.idx + 4 * row) 4).getD 0

/-- Where a request's source bytes lie: offsets of its team's scratchpad, or global physical addresses (R331). -/
def State.sourceSpans (s : State) (c : Nat) (r : CopyReq) (t : Option Team) : List (Nat × Nat) :=
  (upTo r.blk.nrow).flatMap fun row =>
    let src := r.blk.srcAt row (r.entryNow t row)
    if r.blk.ssp = 1 then [(src, r.blk.len)]
    else (pagePieces (r.blk.len / 65536 + 2) src r.blk.len).filterMap fun p => match (s.copyAccess c r false p.1).1 with
      | .inr (gpa, _) => some (gpa, p.2)
      | .inl _ => none

/-- Where each byte of a chunk goes, as for the source (R331). -/
def State.chunkPlaces (s : State) (c : Nat) (r : CopyReq) (k : Chunk) : List Nat :=
  let row := r.dst k.row
  let (off, m) := chunkSpan row r.blk.len k.n
  if r.blk.dsp = 0 then
    match (s.copyPieces c r true (row + off) m).1 with
    | .inr ps => ps.flatMap fun p => (upTo p.2.1).map fun i => p.2.2.1 + i
    | .inl _ => []
  else (upTo m).map fun i => row + off + i

/-- The source and the destination of a request lie in one memory: global memory, or the scratchpad of one team. -/
def CopyReq.oneMemory (r : CopyReq) (pkg : Nat) : Bool :=
  (r.blk.ssp == 0 && r.blk.dsp == 0) || (r.blk.ssp == 1 && (r.blk.dsp == 1 || r.destTeam pkg == some r.team))

/-- For each byte of a chunk, whether its destination is one of the request's own source bytes (R332). -/
def State.overlap (s : State) (c : Nat) (r : CopyReq) (k : Chunk) (t : Option Team) : List Bool :=
  if r.oneMemory s.pkgid then
    let src := s.sourceSpans c r t
    (s.chunkPlaces c r k).map fun a => src.any fun p => decide (p.1 ≤ a) && decide (a < p.1 + p.2)
  else []

/-- A chunk as it is written: bytes whose destination overlaps the request's own source are unspecified (R332; log 5). -/
def State.chunkData (s : State) (c : Nat) (r : CopyReq) (k : Chunk) (t : Option Team) : Chunk × State :=
  let o := s.overlap c r k t
  if k.sent || !o.any id then (k, s)
  else
    let (f, s) := s.freeBytes k.data.length
    let b := (k.data.zip f).mapIdx fun i x => if o.getD i false then x.2 else x.1
    ({ k with data := b }, s.modChunk c r.id k.row k.n fun k => { k with data := b })

/-- The chunk that a row of the engine names, with its request, and its team where that is resident. -/
def State.chunkNow (s : State) : Option (CopyReq × Chunk × Option Team) :=
  match s.copyReq? s.ev.core s.ev.req with
  | none => none
  | some r => (r.chunk? s.ev.row s.ev.chunk).map fun k => (r, k, (s.team? r.team).filter (·.resident))

/-- A chunk's data is written at its destination (R331, R332). -/
def execChunkWrite (s : State) : Host.Outcome State Fault Refusal :=
  .next (match s.chunkNow with
    | some (r, k, t) => if k.awaits != 0 || k.written || k.sent || r.suspended.isSome then s
      else
        let (k, s) := s.chunkData s.ev.core r k t
        s.chunkStore s.ev.core r k t
    | none => s)

/-! #### Landing, acknowledgement, sending again (R148, R334, R345, R348, R404) -/

/-- Caches within the instance of a scope for a core, but for that core's own, whose lines a copy's writes have updated. -/
def staleCaches (c : Nat) (sc : Scope) : List CacheRef :=
  let l1s (cs : List Nat) : List CacheRef := (cs.filter (· != c)).map CacheRef.l1
  let dies (ds : List Nat) : List CacheRef := (ds.filter (· != dieOf c)).map CacheRef.l2
  match sc with
  | .core => []
  | .clus => l1s ((upTo 4).map fun i => 4 * clusOf c + i)
  | .die => l1s ((upTo 16).map fun i => 16 * dieOf c + i)
  | .stk => l1s ((upTo 16).map fun i => 16 * dieOf c + i)
  | .ipo => l1s ((upTo 64).map fun i => 64 * (c / 64) + i) ++ dies ((upTo 4).map fun i => 4 * (dieOf c / 4) + i)
  | .pkg => l1s (upTo 128) ++ dies (upTo 8)
  | .sys => l1s (upTo 128) ++ dies (upTo 8)

/-- Stale copies of SI lines dropped in the caches of an instance (R148). -/
def State.dropStale (s : State) (c : Nat) (sc : Scope) (lines : List Nat) : State :=
  (staleCaches c sc).foldl (fun s k => lines.foldl (fun s ln => match (s.cache k).line? ln with
    | some l => if l.st = .si then s.evict k ln else s
    | none => s) s) s

/-- The local lines of a chunk's global destination. -/
def State.destLines (s : State) (c : Nat) (r : CopyReq) (dst n : Nat) : List Nat :=
  match s.copyPieces c r true dst n with
  | (.inr ps, _) => ps.filterMap fun p => if pkgOf p.2.2.1 = s.pkgid then some (lineOf (localOf p.2.2.1)) else none
  | (.inl _, _) => []

/-- A written chunk is counted into its landing word, once; a poisoned word is an imprecise copy fault (R148, R334, R412). -/
def State.chunkLand (s : State) (c : Nat) (r : CopyReq) (k : Chunk) : State :=
  let h := r.landing s.pkgid
  let row := r.dst k.row
  let (off, m) := chunkSpan row r.blk.len k.n
  let sc := ((s.team? h).map fun t => (t.landAt r.blk.dland).scope).getD .core
  let s := if r.blk.dsp = 0 then s.dropStale c sc (s.destLines c r (row + off) m) else s
  if s.landBad h r.blk.dland then s.copyFault c r 2
  else (s.landEvent h r.blk.dland m false).modChunk c r.id k.row k.n fun k => { k with landed := true }

/-- A landing event counts a chunk whose writes have been performed (R334). -/
def execLandingEvent (s : State) : Host.Outcome State Fault Refusal :=
  .next (match s.chunkNow with
    | some (r, k, _) => if r.blk.dlv && k.written && !k.landed then s.chunkLand s.ev.core r k else s
    | none => s)

/-- Every chunk of every row of a request is acknowledged. -/
def CopyReq.complete (r : CopyReq) : Bool := r.allChunks (·.acked)

/-- A request whose last chunk is acknowledged leaves the queue; one of no rows has its landing events (R334, R336). -/
def State.copyDone (s : State) (c : Nat) (r : CopyReq) : State :=
  if !r.complete then s else if r.blk.nrow = 0 then s.zeroDone c r else s.dropCopy c r.id

/-- A chunk written, and counted where it has a landing word, is acknowledged and leaves the retry store; the last completes the
request (R345, R404). -/
def execChunkAcknowledgement (s : State) : Host.Outcome State Fault Refusal :=
  let c := s.ev.core
  .next (match s.chunkNow with
    | some (r, k, _) =>
      if k.written && (k.landed || !r.blk.dlv) && !k.acked then
        let s := s.modChunk c r.id k.row k.n fun k => { k with acked := true, data := [] }
        match s.copyReq? c r.id with
        | some r => s.copyDone c r
        | none => s
      else s
    | none => s)

/-- The kept request that carries a chunk's write to another package. -/
def State.chunkKept (s : State) (c id row n : Nat) : Option RemReq :=
  s.reqs.find? fun q => q.what == .chunkWrite c id row n

/-- A chunk of this package written again with the bytes of the retry store; it is not counted again (R345). -/
def State.chunkAgain (s : State) (c : Nat) (r : CopyReq) (k : Chunk) : State :=
  let row := r.dst k.row
  let (off, m) := chunkSpan row r.blk.len k.n
  if r.blk.dsp = 0 then
    match s.copyPieces c r true (row + off) m with
    | (.inr ps, s) =>
      match s.copyHeld c .store ps with
      | some s => s
      | none => s.chunkPut c r (row + off) k.data (ps.filter fun p => pkgOf p.2.2.1 == s.pkgid)
    | (.inl _, s) => s
  else match (r.destTeam s.pkgid).getD r.team with
    | h => if ((s.team? h).map (·.resident)).getD false then s.sPut h (row + off) k.data else s

/-- An unacknowledged chunk is sent again from the retry store (R345). -/
def execChunkResend (s : State) : Host.Outcome State Fault Refusal :=
  let c := s.ev.core
  .next (match s.chunkNow with
    | some (r, k, _) =>
      if k.acked then s
      else match s.chunkKept c r.id k.row k.n with
        | some q => s.sendKept q
        | none => if k.written then s.chunkAgain c r k else s
    | none => s)

/-- After a link's retry, a change of path or the reset of a die, every chunk that its destination has not acknowledged is due to be sent
again (R345). -/
def State.resendChunks (s : State) : State :=
  s.soon (s.cores.flatMap fun e => e.2.copyq.flatMap fun r => (r.chunks.filter fun k => (k.written || k.sent) && !k.acked).map fun k =>
    Happening.row .chunkResend { core := e.1, req := r.id, row := k.row, chunk := k.n })

end Sys2Proof.Machine
end

