-- ==== Sys2Proof/Machine/SeqEvents.lean ====
section
/-! DEFINITION. The rows of the sequencer and the margin controller: delivery of traps and results, carding, issue, swaps, replays,
margin windows, silent errors, and the array rows of a core (02 R49 to R53; 06 R163 to R199; 13 R351, R380, R381; 15 R425). -/

namespace Sys2Proof.Machine

/-! ### Delivery (R167, R168, R184, R185) -/

/-- A pending trap is delivered once nothing earlier is outstanding (R167). -/
def execTrapDelivery (s : State) : Host.Outcome State Fault Refusal := .next (s.deliverTrap s.ev.team s.ev.tid)

/-- A thread whose results have come: a late fault found takes it out of its group, and its trap is delivered when it may be
(R167, R168). -/
def State.afterResult (s : State) (team tid : Nat) : State :=
  match s.thread? team tid with
  | some t =>
    if t.trap.isSome then
      ((s.unsched team tid).modThread team tid fun t => { t with st := .running, wait := 0 }).deliverTrap team tid
    else s
  | none => s

/-- A ready result reaches its destinations: an MFENCE's when every earlier result has come, an MACRD's only where its region has
ended or a region entry waits, a collective's by a row of its own (R157, R245, R372, R377); a team that is away has its results
when it comes back (R61). -/
def State.longResult (s : State) (team tid id : Nat) (only : Option Nat) : State :=
  if s.away team then s
  else match (s.thread? team tid).bind fun t => (t.win? id).map fun w => (t, w) with
  | none => s
  | some (t, w) =>
    match w.kind with
    | .coll => s
    | .macrd _ => s
    | .landed _ => s
    | .fence =>
      if (t.wins.filter fun x => !x.kind.isMacrd).head?.map (·.id) = some id then
        ((s.modThread team tid fun t => (t.result id []).deliver id none).matFence team tid).afterResult team tid
      else s
    | _ =>
      if t.st = .parked ∧ w.wait.isSome then s
      else (s.modThread team tid fun t => t.deliver id only).afterResult team tid

/-- A long-latency result arrives, whole or for one register (R184, R185). -/
def execLongLatencyResult (s : State) : Host.Outcome State Fault Refusal :=
  .next (s.longResult s.ev.team s.ev.tid s.ev.win s.ev.only)

/-! ### Carding (R176 to R180) -/

/-- The members of a batt that may be drawn (R163, R177). -/
def Batt.eligible (b : Batt) (now : Nat) : List Member := b.members.filter fun m => decide (m.hold ≤ now)

/-- The clk of filing of the oldest of a list of members. -/
def oldestFiled (l : List Member) : Option Nat := l.foldl (fun o m => some (match o with
  | some x => min x m.filed
  | none => m.filed)) none

/-- The rank of a batt for drawing: 0 overdue or full, 1 aged; none otherwise; with the filing of its oldest eligible member
(R177). -/
def Batt.rank (b : Batt) (w ageLimit now : Nat) : Option (Nat × Nat) :=
  match oldestFiled (b.eligible now) with
  | none => none
  | some f =>
    let age := now - f
    if w ≤ (b.eligible now).length ∨ 2 * ageLimit ≤ age then some (0, f)
    else if ageLimit ≤ age then some (1, f) else none

/-- The group width of a team. -/
def State.widthOf (s : State) (h : Nat) : Nat := ((s.team? h).map Team.width).getD 16

/-- The oldest ready pending group. -/
def State.readyPending (s : State) (c : Nat) : Option Group := (s.core c).pending.find? (s.groupReady c)

/-- A pending group moves into a slot, and can issue 2 clk later (R181). -/
def State.activate (s : State) (c slot : Nat) (g : Group) : State :=
  s.modCore c fun k => { k with active := k.active.put slot { g with since := s.clk, notBefore := s.clk + 2, stall := none }
                                pending := k.pending.filter (· != g) }

/-- Pending groups that are ready move into free slots (R181). -/
def State.refill (s : State) (c : Nat) : State :=
  (s.core c).freeSlots.foldl (fun s i => match s.readyPending c with
    | some g => s.activate c i g
    | none => s) s

/-- A batt of a core is overdue (R177). -/
def Batt.isOverdue (b : Batt) (ageLimit now : Nat) : Bool :=
  match oldestFiled (b.eligible now) with
  | some f => decide (2 * ageLimit ≤ now - f)
  | none => false

/-- The batt to draw from, of those that `p` admits: overdue and full first, then aged, the oldest first, ties to the lower number
(R177). -/
def State.battToDraw (s : State) (c : Nat) (p : Batt → Bool) : Option (Nat × Batt) :=
  let k := s.core c
  let cand := k.batts.filterMap fun e =>
    if e.1 < 63 ∧ p e.2 then (e.2.rank (s.widthOf e.2.team) k.ageLimit s.clk).map fun r => (r, e) else none
  (sortBy (fun x => x.1.1) (sortBy (fun x => x.1.2) cand)).head?.map (·.2)

/-- Members taken from a list in ascending TID, one for each bank residue not yet taken (R178). -/
def firstResidues (res : Nat → Nat) : List Member → List Nat → List Member
  | [], _ => []
  | m :: r, seen => if seen.contains (res m.tid) then firstResidues res r seen else m :: firstResidues res r (res m.tid :: seen)

/-- The members of a group drawn from a batt, in ascending TID (R178). -/
def drawMembers (res : Nat → Nat) (w : Nat) (l : List Member) : List Member :=
  let l := sortBy (·.tid) l
  let a := (firstResidues res l []).take w
  let b := (l.filter fun m => !a.contains m).take (w - a.length)
  sortBy (·.tid) (a ++ b)

/-- The register-cache lines that a group finds absent when it is drawn (R187, log 5). -/
def State.absentFor (s : State) (c : Nat) (tm : Team) (tids : List Nat) : List (Nat × Nat) :=
  (Config.absentLines s.clk c).filter fun x => tids.any fun i => tm.slotOf i / 32 == x.1 && decide (x.2 < tm.lr.nreg + 2)

/-- A group formed of members of a batt, which leave it (R52, R178). -/
def State.formGroup (s : State) (c : Nat) (team : Nat) (ms : List Member) (stray : Bool) : Group × State :=
  let tids := ms.map (·.tid)
  let absent := match s.team? team with
    | some tm => s.absentFor c tm tids
    | none => []
  let g : Group := { team := team, lanes := tids.mapIdx fun i t => (i, t), width := s.widthOf team, stray := stray, since := s.clk
                     stall := none, notBefore := s.clk, drawn := s.clk, latch := [], awaits := absent }
  let s := s.modCore c fun k => { k with batts := (k.batts.mapKV fun _ b =>
    { b with members := b.members.filter fun m => !(m.team == team && tids.contains m.tid) }).filter fun e => !e.2.members.isEmpty }
  (g, tids.foldl (fun s i => s.modThread team i fun t => { t with st := .running }) s)

/-- A group is drawn from a batt (R178). -/
def State.drawFrom (s : State) (c : Nat) (b : Batt) : Group × State :=
  let res (tid : Nat) : Nat := ((s.team? b.team).map fun t => t.slotOf tid % 64).getD 0
  s.formGroup c b.team (drawMembers res (s.widthOf b.team) (b.eligible s.clk)) false

/-- A drawn group takes a free active slot, else a pending place (R180). -/
def Core.take (k : Core) (g : Group) : Core :=
  match k.freeSlots with
  | i :: _ => { k with active := k.active.put i g }
  | [] => { k with pending := k.pending ++ [g] }

/-- One group is drawn where there is room; an overdue batt that finds none begins to wait (R177, R180). -/
def State.card (s : State) (c : Nat) : State :=
  let k := s.core c
  match s.battToDraw c fun _ => true with
  | none => s
  | some (_, b) =>
    if k.freeSlots.isEmpty && decide (56 ≤ k.pending.length) then
      if (s.battToDraw c fun b => b.isOverdue k.ageLimit s.clk).isSome ∧ k.overdueSince.isNone then s.modCore c fun k => { k with overdueSince := some s.clk } else s
    else
      let (g, s) := s.drawFrom c b
      s.modCore c fun k => { k.take g with overdueSince := none }

/-- A draw of the carding stage, after ready pending groups have moved into the slots that are free (R177, R180, R181). -/
def execCardingDraw (s : State) : Host.Outcome State Fault Refusal := .next ((s.refill s.ev.core).card s.ev.core)

/-- The oldest eligible stray thread is drawn into slot 7 (R179). -/
def execStrayDraw (s : State) : Host.Outcome State Fault Refusal :=
  let c := s.ev.core
  .next (match (s.core c).batts.find 63, (s.core c).active.find 7 with
    | some b, none =>
      match b.eligible s.clk with
      | m :: _ =>
        let (g, s) := s.formGroup c m.team [m] true
        s.modCore c fun k => { k with active := k.active.put 7 g }
      | [] => s
    | _, _ => s)

/-- The pending group drawn earliest (R180). -/
def Core.firstDrawn (k : Core) : Option Group := (sortBy (·.drawn) k.pending).head?

/-- An overdue batt that has waited 16 clk takes the place of the pending group drawn earliest (R180). -/
def execOverdueDraw (s : State) : Host.Outcome State Fault Refusal :=
  let c := s.ev.core
  let k := s.core c
  .next (match k.overdueSince, k.firstDrawn with
    | some t, some g =>
      if t + 16 ≤ s.clk ∧ k.freeSlots.isEmpty ∧ 56 ≤ k.pending.length then
        match s.battToDraw c (fun b => b.isOverdue k.ageLimit s.clk) with
        | some (_, b) =>
          let (n, s) := s.drawFrom c b
          ((s.modCore c fun k => { k with pending := k.pending.filter (· != g) ++ [n], overdueSince := none }).fileGroup g).strayRoom c
        | none => s
      else s
    | _, _ => s)

/-! ### The active and pending sets (R181, R182) -/

/-- An active group is swapped with the oldest ready pending group (R181). -/
def State.swap (s : State) (c slot : Nat) : State :=
  match (s.core c).active.find slot, s.readyPending c with
  | some g, some p =>
    let s := s.activate c slot p
    s.modCore c fun k => { k with pending := k.pending ++ [{ g with latch := [], since := s.clk, stall := none }] }
  | _, _ => s

/-- An ordinary group that has stalled for 4 clk, or awaits an instruction with the yield hint, is swapped (R179, R181). -/
def execStallSwap (s : State) : Host.Outcome State Fault Refusal :=
  let c := s.ev.core
  .next (match (s.core c).active.find s.ev.slot with
    | some g =>
      match g.stall with
      | some t =>
        if !g.stray ∧ (t + 4 ≤ s.clk ∨ (s.laneThreads g).any fun x => x.2.2.yieldHint) then s.swap c s.ev.slot else s
      | none => s
    | none => s)

/-- Every 8 clk the group that has held its slot longest makes place for a ready one that has waited 8 clk (R181). -/
def execRotationSwap (s : State) : Host.Outcome State Fault Refusal :=
  let c := s.ev.core
  .next (match s.readyPending c, sortBy (fun e => e.2.since) ((s.core c).active.filter fun e => !e.2.stray) with
    | some p, e :: _ => if s.clk % 8 = 0 ∧ p.since + 8 ≤ s.clk then s.swap c e.1 else s
    | _, _ => s)

/-- Quarters that a group takes (R182). -/
def Group.quarters (g : Group) : Nat := if g.stray then 1 else g.width / 16

/-- Slots from one on, round robin. -/
def slotsFrom (rr : Nat) : List Nat := (upTo 8).map fun i => (rr + i) % 8

/-- The ready groups that issue, in the order of the walk, and the first that found no quarters (R182). -/
def pick (ready : List (Nat × Group)) : Nat → List Nat × Option Nat
  | free => ready.foldl (fun (r : (List Nat × Option Nat)) e =>
      let used := (r.1.map fun i => ((ready.find? fun x => x.1 == i).map fun x => x.2.quarters).getD 0).sum
      if used + e.2.quarters ≤ free then (r.1 ++ [e.1], r.2) else (r.1, r.2.orElse fun _ => some e.1)) ([], none)


/-- A core issues in this clk: not while it is draining or quarantined, and under a throttle in one clk of two, or of
four (R196, R431, R453). -/
def State.issueClk (s : State) (c : Nat) : Bool :=
  let k := s.core c
  !k.draining && !k.quar
    && (if s.thrDeep then s.clk % 4 == 0 else if s.thr || (s.die (dieOf c)).throttled then s.clk % 2 == 0 else true)

/-- The issue stage walks the active set (R182): pending groups that are ready move in, stalled ones are noted, and each ready group
for which quarters are free is selected. -/
def State.issueWalk (s : State) (c : Nat) : State :=
  let s := s.refill c
  let k := s.core c
  let groups := (slotsFrom k.rr).filterMap fun i => (k.active.find i).map fun g => (i, g)
  let s := groups.foldl (fun s e => if s.groupReady c e.2 then s else s.stallGroup c e.1 e.2) s
  let ready := groups.filter fun e => decide (e.2.notBefore ≤ s.clk) && s.groupReady c e.2
  let (sel, skipped) := pick ready 4
  let rr := match skipped, sel with
    | some i, _ => i
    | none, i :: _ => (i + 1) % 8
    | none, [] => k.rr
  { (s.modCore c fun k => { k with rr := rr }) with issueQ := s.issueQ ++ sel.map fun i => (c, i) }

/-- The issue stage of a core (R182). -/
def execIssue (s : State) : Host.Outcome State Fault Refusal :=
  .next (if decide (s.ev.core < 128) && s.issueClk s.ev.core then s.issueWalk s.ev.core else s)

/-! ### Ends of holds and fills (R163, R164, R187) -/

/-- A yielded thread's hold has passed (R163). -/
def execYieldHoldEnd (s : State) : Host.Outcome State Fault Refusal :=
  let e := s.ev
  .next (s.modCore e.core fun k => { k with batts := k.batts.mapKV fun _ (b : Batt) => { b with members := b.members.map fun m =>
    if m.team = e.team ∧ m.tid = e.tid ∧ m.hold ≤ s.clk then { m with hold := 0 } else m } })

/-- A sleeping thread's count has passed (R164). -/
def execSleepEnd (s : State) : Host.Outcome State Fault Refusal :=
  let e := s.ev
  .next (match (s.thread? e.team e.tid).bind fun t => t.waiting fun w => match w with
      | .sleep till => decide (till ≤ s.clk)
      | _ => false with
    | some w => s.waitDone e.team e.tid w.id []
    | none => s)

/-- A register-cache line arrives (R187). -/
def execRegisterCacheFill (s : State) : Host.Outcome State Fault Refusal :=
  let e := s.ev
  let got (g : Group) : Group := { g with awaits := g.awaits.filter fun x => !(x.1 == e.block && x.2 == e.reg) }
  .next (s.modCore e.core fun k => { k with active := k.active.mapKV fun _ g => got g, pending := k.pending.map got })

/-! ### The margin controller (R190 to R199) -/

/-- Clk of a margin window (R191). -/
def wlenClk (wlen : Nat) : Nat := if wlen = 0 then 2 ^ 20 else if wlen = 1 then 2 ^ 18 else if wlen = 2 then 2 ^ 22 else 2 ^ 24

/-- A core is quarantined: it takes no team, its issue stops, and its teams are drained (R196). -/
def State.quarantine (s : State) (c : Nat) : State :=
  if (s.core c).quar then s else (s.modCore c fun k => { k with quar := true, draining := true }).drainCore c

/-- A replay of a variable-rail stage (R190, R194). -/
def State.replayed (s : State) (c : Nat) : State :=
  let s := s.modCore c fun k => { k with clock := k.clock + 2, cnt := min (k.cnt + 1) 65535 }
  let k := s.core c
  if k.cnt ≤ k.limit then s
  else if 0 < k.cur then
    (s.modCore c fun k =>
      { k with cur := k.cur - 1, esc := min (k.esc + 1) 255, cnt := 0, winStart := s.clk, serrWin := 0, cleanWins := 0 }).coreEvent
        c 0x0E 0 (k.cur - 1)
  else s.quarantine c

/-- A late transition in a variable-rail stage (R190). -/
def execReplay (s : State) : Host.Outcome State Fault Refusal := .next (if s.ev.core < 128 then s.replayed s.ev.core else s)

/-- A margin window of a core ends and the next begins (R194, R195). Windows go on while QUAR = 1, as the spec does not stop them
(R196; log 59). -/
def Core.windowEnd (k : Core) (now : Nat) : Core :=
  let clean := decide (k.cnt ≤ k.limit / 4)
  let n := if clean then k.cleanWins + 1 else 0
  let rise := k.relax != 0 && decide (k.relax ≤ n)
  { k with cnt := 0, winStart := now, serrWin := 0, cleanWins := if rise then 0 else n
           cur := if rise && k.en && decide (k.cur < k.target) then k.cur + 1 else k.cur }

/-- A margin window ends (R194, R195). -/
def execMarginWindowEnd (s : State) : Host.Outcome State Fault Refusal :=
  let c := s.ev.core
  .next (if decide (c < 128) && decide ((s.core c).winStart + wlenClk (s.core c).wlen ≤ s.clk) then
    s.modCore c fun k => k.windowEnd s.clk else s)

/-- A silent error is counted with its event; four within one window quarantine the core (R196, R198). -/
def State.countSilent (s : State) (c : Nat) : State :=
  let s := s.modCore c fun k => { k with serr := min (k.serr + 1) 255, serrWin := k.serrWin + 1 }
  let s := s.coreEvent c 0x10 0 (s.core c).cur
  if 4 ≤ (s.core c).serrWin then s.quarantine c else s

/-- A thread of a team is on a core and has not exited. -/
def State.onCore (s : State) (c team tid : Nat) : Bool :=
  match s.team? team, s.thread? team tid with
  | some tm, some t => tm.resident && tm.coreOf tid == c && t.st != .exited
  | _, _ => false

/-- A flag in the fixed-margin domain: the affected threads restart; on a non-replayable operation past the gate, flag set, it is
consumed by the context (R198, R412). -/
def execSilentError (s : State) : Host.Outcome State Fault Refusal :=
  let e := s.ev
  let hit := e.tids.filter fun i => s.onCore e.core e.team i
  .next (match hit with
    | [] => s
    | i :: _ =>
      if e.flag then
        match s.team? e.team, s.thread? e.team i with
        | some tm, some t => s.contextFault tm.ctx (s.threadRec 0x03 e.team i t.pc 0 10 0)
        | _, _ => s
      else (hit.foldl (fun s i => s.restart e.team i) s).countSilent e.core)

/-! ### MGN registers written through the device window (R191 to R196, R445) -/

/-- The reserved bits of MGN_CTL and MGN_LIMIT in their 64-bit slots (R191, R193, R446). -/
def mgnCtlRes : Nat := maskOf 63 18 + maskOf 15 13 + maskOf 7 5
def mgnLimitRes : Nat := maskOf 63 24

/-- MGN_CTL of a core written by the host: with a one in QUAR, which the core has set, it takes teams again and its controller starts
over with CUR = 0 and CNT = 0 (R191, R195, R196). -/
def State.mgnCtlPut (s : State) (c v : Nat) : State :=
  let w : Word := BitVec.ofNat 32 v
  s.modCore c fun k =>
    let again := w.getLsbD 12 && k.quar
    { k.setMgnCtl w with winStart := if again then s.clk else k.winStart, serrWin := if again then 0 else k.serrWin }

/-- The offset of a core's special registers in its die's window (R446). -/
def coreRegAt (c : Nat) : Nat := 0x100 * (c % 16)

/-- MGN_CTL written by the host (R191, R195). -/
def execMgnCtlWrite (s : State) : Host.Outcome State Fault Refusal :=
  let c := s.ev.core
  let v := s.ev.v.toNat
  .next (if c < 128 then s.windowWrite (dieOf c) (coreRegAt c) mgnCtlRes v fun s => s.mgnCtlPut c v else s)

/-- MGN_LIMIT written by the host (R193, R195). -/
def execMgnLimitWrite (s : State) : Host.Outcome State Fault Refusal :=
  let c := s.ev.core
  let v := s.ev.v.toNat
  .next (if c < 128 then
      s.windowWrite (dieOf c) (coreRegAt c + 0x10) mgnLimitRes v fun s => s.modCore c fun k => k.setMgnLimit (BitVec.ofNat 32 v)
    else s)

/-- QUAR written with one (R196). -/
def execQuarantineClear (s : State) : Host.Outcome State Fault Refusal :=
  let c := s.ev.core
  let v := s.ev.v.toNat
  .next (if c < 128 ∧ bitOf v 12 then s.windowWrite (dieOf c) (coreRegAt c) mgnCtlRes v fun s => s.mgnCtlPut c v else s)

/-! ### The matrix array (R351, R380, R381, R425) -/

/-- A mismatch counts for its physical row; at ROWTH the row is disabled (R425). -/
def Core.rowMismatch (k : Core) (row rowth : Nat) : Core :=
  let n := k.rowErrs.get row 0 + 1
  let k := { k with rowErrs := k.rowErrs.put row n }
  if rowth ≤ n ∧ ¬ k.badRows.contains row ∧ row < 528 then { k with badRows := k.badRows ++ [row] } else k

/-- A checksum mismatch of an A row of MMA or MGMM: the row is computed again, the operation's owner restarts, and the mismatch counts
as a silent error and for its array row (R198, R380, R381, R425). -/
def execChecksumMismatch (s : State) : Host.Outcome State Fault Refusal :=
  let c := s.ev.core
  .next (match (s.core c).matq.find? fun o => o.id == s.ev.req && o.started && ((s.team? o.team).map o.checked).getD false with
    | none => s
    | some o =>
      let s := s.modCore c fun k => k.rowMismatch s.ev.row s.cn.rowth
      let s := match o.owner with
        | some i => if (s.thread? o.team i).isSome then s.restart o.team i else s
        | none => s
      s.countSilent c)

/-- The logical map of a core leaves out its disabled rows, with a record for each (R351, R425); with more than 16 disabled rows its
teams with MX = 1 are drained. -/
def execLogicalMapRebuild (s : State) : Host.Outcome State Fault Refusal :=
  let c := s.ev.core
  let k := s.core c
  .next (if k.matq.isEmpty then
      let new := k.badRows.filter fun r => !k.rowMap.contains r
      let s := s.modCore c fun k => { k with rowMap := k.badRows }
      let s := new.foldl (fun s r => s.event { kind := 0x0D, core := c, die := dieOf c, aux := r }) s
      if (s.mustLeave c).isEmpty then s else s.drainCore c
    else s)

end Sys2Proof.Machine
end

