-- ==== Sys2Proof/Machine/DieLinks.lean ====
section
/-! DEFINITION. The die-to-die links: flits received, replays, open groups, failure, and the directory entries whose transactions
a failed link carried (01 R17 to R21; 15 R426). -/

namespace Sys2Proof.Machine

/-! ### Which links there are (R17; log 31) -/

/-- The two ends of a link: 0 to 7 C-die n and its crown, 8 to 15 the ring link of C-die n, 16 the crowns, 17 to 20 the brims. -/
def linkEnds (n : Nat) : Nat × Nat :=
  if n < 8 then (n, 8 + n / 4) else if n < 16 then (n - 8, (n - 7) % 8) else if n = 16 then (8, 9) else (n - 7, 8 + (n - 17) / 2)

/-- The links of a die, rising. -/
def linksOf (d : Nat) : List Nat := (upTo 21).filter fun n => (linkEnds n).1 == d || (linkEnds n).2 == d

/-- A link carries flits: it has not failed and neither end is lost (R20, R427). -/
def State.linkOk (s : State) (n : Nat) : Bool :=
  !(s.link n).failed && !(s.die (linkEnds n).1).lost && !(s.die (linkEnds n).2).lost

/-- A link carries flits of a TYPE: control and idle flits between dies that are Attested or Keyed, data and tag flits between Keyed
dies (R28, R435). -/
def State.linkCarries (s : State) (n t : Nat) : Bool :=
  let up (d : Nat) : Bool := (s.die d).attested.st == 3 || (decide (2 ≤ t) && (s.die d).attested.st == 2)
  s.linkOk n && up (linkEnds n).1 && up (linkEnds n).2

/-! ### Paths between dies (R21; log 31) -/

/-- The ring links from C-die a to C-die b, rising or falling. -/
def ringWay (a b : Nat) (up : Bool) : List Nat :=
  if up then (upTo ((b + 8 - a) % 8)).map fun i => 8 + (a + i) % 8 else (upTo ((a + 8 - b) % 8)).map fun i => 8 + (a + 7 - i) % 8

/-- The ring in the shorter direction; on a tie, in ascending die number (R21). -/
def ringShort (a b : Nat) : List Nat := ringWay a b (decide ((b + 8 - a) % 8 ≤ (a + 8 - b) % 8))

/-- From C-die a through its own crown to crown k (R21). -/
def viaCrown (a k : Nat) : List Nat := if a / 4 = k then [a] else [a, 16]

/-- The paths between C-dies, the primary first (R21). -/
def ringPaths (a b : Nat) : List (List Nat) :=
  let crowns := viaCrown a (b / 4) ++ [b]
  if b = (a + 1) % 8 then [[8 + a], crowns]
  else if a = (b + 1) % 8 then [[8 + b], crowns]
  else [crowns, ringShort a b]

/-- The C-dies of the other interposer next to the seams, the nearer one first. -/
def acrossSeam (a : Nat) : List Nat :=
  let up := 4 * (a / 4 + 1) % 8
  let down := (4 * (a / 4) + 7) % 8
  if (up + 8 - a) % 8 ≤ (a + 8 - down) % 8 then [up, down] else [down, up]

/-- The paths between C-die a and crown k (R21). -/
def crownPaths (a k : Nat) : List (List Nat) :=
  viaCrown a k :: (acrossSeam a).map fun e => ringWay a e (e == 4 * (a / 4 + 1) % 8) ++ viaCrown e k

/-- The paths between two dies that are no brims. -/
def innerPaths (a b : Nat) : List (List Nat) :=
  if a = b then [[]]
  else if a < 8 ∧ b < 8 then ringPaths a b
  else if a < 8 then crownPaths a (b - 8)
  else if b < 8 then crownPaths b (a - 8)
  else [[16]]

/-- The crown of a brim. -/
def brimCrown (d : Nat) : Nat := 8 + (d - 10) / 2

/-- The paths between two dies, the primary first: any die and a brim meet through the brim's crown, by the primary path to that (R21). -/
def diePaths (a b : Nat) : List (List Nat) :=
  if a = b then [[]]
  else if a < 10 ∧ b < 10 then innerPaths a b
  else
    let inA : List Nat := if a < 10 then [] else [a + 7]
    let inB : List Nat := if b < 10 then [] else [b + 7]
    let a := if a < 10 then a else brimCrown a
    let b := if b < 10 then b else brimCrown b
    ((innerPaths a b).take 1).map fun l => inA ++ l ++ inB

/-- The path that traffic between two dies takes: the primary one while its links work, otherwise an alternate (R21). -/
def State.diePath (s : State) (a b : Nat) : Option (List Nat) := (diePaths a b).find? fun l => l.all s.linkOk

/-- A die can be reached from another, over its primary or an alternate path (R21). -/
def State.reaches (s : State) (a b : Nat) : Bool := !(s.die b).lost && (s.diePath a b).isSome

/-! ### Failure (R20, R426) -/

/-- The die that serves a directory; after the loss of a crown the other serves both halves (R428). -/
def State.dirDie (s : State) : DirRef → Nat
  | .cluster n => n / 4
  | .die n => n
  | .package k => if (s.die (8 + k)).lost then 9 - k else 8 + k

/-- The die of a holder; the host stands behind the first brim of the directory's crown. -/
def holderDie (k : Nat) : Holder → Nat
  | .l1 c => c / 16
  | .cluster n => n / 4
  | .l2 d => d
  | .crown n => 8 + n
  | .host => 10 + 2 * (k % 2)

/-- The path between a crown directory and a holder uses a link (R21). -/
def State.viaLink (s : State) (k : Nat) (h : Holder) (n : Nat) : Bool := (s.diePath (8 + k) (holderDie k h)).any fun l => l.contains n

/-- An entry whose transaction a failed link carried is poisoned-pending (R426). -/
def State.cutOff (s : State) (e : DirEntry) (k n : Nat) : DirEntry :=
  let requester := (e.queue.take 1).any fun r => s.viaLink k r.2.1 n
  if e.busy.isEmpty then e
  else if requester || e.busy.any (fun h => s.viaLink k h n) then { e with poisonPend := true, busy := [] } else e

/-- A die link is declared failed: the entries whose transactions it carried are rebuilt, and the copy engines send again what is not
acknowledged (R20, R22, R345, R426). -/
def State.failLink (s : State) (n : Nat) : State :=
  let l := s.link n
  let dirs := s.dirs.map fun (x : DirRef × DirEntry) => (x.1, match x.1 with
    | .package k => s.cutOff x.2 (s.dirDie (.package k) - 8) n
    | .die _ => x.2
    | .cluster _ => x.2)
  let s := s.setLink n { l with failed := true, dirs := l.dirs.map fun (h : Chan) => { h with kept := [], open_ := [], replay := none } }
  ({ s with dirs := dirs }.event { kind := 0x14, aux := n }).resendChunks

/-! ### Flits (R19, R20) -/

/-- A flit of a TYPE arrives on a direction of a link: `ev.bytes` are its 64 bytes. -/
def State.linkRx (s : State) (t : Nat) : State :=
  let n := s.ev.link
  let d := s.ev.dir
  let l := s.link n
  match l.dirs[d]?, l.dirs[1 - d]? with
  | some rx, some tx =>
    if n ≥ 21 ∨ d ≥ 2 ∨ ¬ s.linkCarries n t then s
    else
      match dieFmt.decode s.ev.bytes with
      | none => s.setLink n { l with dirs := setAt (setAt l.dirs d { rx with discard := true }) (1 - d) (tx.idle dieFmt rx.rxSeq true) }
      | some (_, x) =>
        if x.type ≠ t then s
        else
          let (rx, r) := if t = 0 then rx.rxData dieFmt x else if t = 1 then rx.rxTag dieFmt x else (rx, .taken)
          let tx := tx.acked dieFmt s.clk x.ack
          let tx := if x.nak then { tx with replay := some x.ack } else tx
          let tx := if r = .taken then tx else tx.idle dieFmt rx.rxSeq true
          s.setLink n { l with dirs := setAt (setAt l.dirs d rx) (1 - d) tx }
  | _, _ => s

def execDieLinkDataFlit (s : State) : Host.Outcome State Fault Refusal := .next (s.linkRx 0)
def execDieLinkTagFlit (s : State) : Host.Outcome State Fault Refusal := .next (s.linkRx 1)
def execDieLinkControlFlit (s : State) : Host.Outcome State Fault Refusal := .next (s.linkRx 2)
def execDieLinkIdleFlit (s : State) : Host.Outcome State Fault Refusal := .next (s.linkRx 3)

/-- The replay that a NAK asked of a direction's transmitter; the eighth failed replay fails the link (R20). -/
def execDieLinkReplay (s : State) : Host.Outcome State Fault Refusal :=
  let n := s.ev.link
  let d := s.ev.dir
  let l := s.link n
  .next (match l.dirs[d]?, l.dirs[1 - d]? with
    | some tx, some rx =>
      match tx.replay with
      | some a =>
        if n ≥ 21 ∨ d ≥ 2 ∨ ¬ s.linkOk n then s
        else
          let tx := tx.sendAgain dieFmt s.clk rx.rxSeq a false
          let s := s.setLink n { l with dirs := setAt l.dirs d tx }
          if 8 ≤ tx.fails then s.failLink n else s.resendChunks
      | none => s
    | _, _ => s)

/-- A direction's open group, with the bytes that the dies' engines have given it, is completed with zeros (R19; log 31). -/
def execDieLinkOpenGroup (s : State) : Host.Outcome State Fault Refusal :=
  let n := s.ev.link
  let d := s.ev.dir
  let l := s.link n
  .next (match l.dirs[d]?, l.dirs[1 - d]? with
    | some tx, some rx =>
      if n ≥ 21 ∨ d ≥ 2 ∨ ¬ s.linkOk n ∨ (s.die (linkEnds n).1).attested.st ≠ 3 ∨ (s.die (linkEnds n).2).attested.st ≠ 3 then s
      else s.setLink n { l with dirs := setAt l.dirs d ((tx.push dieFmt s.clk rx.rxSeq s.ev.bytes).complete dieFmt s.clk rx.rxSeq) }
    | _, _ => s)

/-! ### Poisoned-pending entries (R426) -/

/-- The lines of an entry that its owner holds in E, M or O, with their owner tags. -/
def State.ownedLines (s : State) (e : DirEntry) (h : Holder) : List (Nat × Option Nat) :=
  (holderCaches h).flatMap fun c => ((s.cache c).lines.filter fun l => e.covers l.ln && (l.st == .e || l.st == .m || l.st == .o)).map
    fun l => (l.ln, if l.tagv then some l.ctx else none)

/-- A line whose only copy cannot be reached is poisoned at its home, and the context of its owner tag faults (R426, R414). -/
def State.lineGone (s : State) (ln : Nat) (ctx : Option Nat) : State :=
  let pa := ln * 128
  let r := Event.encode { kind := 0x08, ctx := ctx.getD 0, die := (homeDies pa).headD 0, pa := s.pkgid * 2 ^ 43 + pa
                          aux := dramLoc pa, clock := s.clk }
  let s := s.setPoison pa
  match ctx with
  | some c => s.contextFault c r
  | none => s.eventRec r

/-- A poisoned-pending entry is rebuilt from its holders' answers, or its unreachable owner's lines are poisoned; the requests
that waited proceed in order (R426). -/
def State.rebuild (s : State) (d : DirRef) (ln : Nat) : State :=
  match s.dirFind d ln with
  | none => s
  | some e =>
    if !e.poisonPend || (s.die 8).census.isSome || (s.die 9).census.isSome then s
    else
      let here := s.dirDie d
      let gone (h : Holder) : Bool := !s.reaches here (holderDie (here - 8) h)
      let lost : List (Nat × Option Nat) := match e.owner with
        | some h => if gone h && (e.st == DirState.x || e.st == DirState.o) then s.ownedLines e h else []
        | none => []
      let s := s.recall { e with holders := e.holders.filter fun h => !gone h }
      let s := s.dirSet d ln [{ e with st := .i, holders := [], owner := none, poisonPend := false, queue := [] }]
      let s := lost.foldl (fun s x => s.lineGone x.1 x.2) s
      e.queue.foldl (fun s r => s.dirAsk d r) s

def execEntryRebuild (s : State) : Host.Outcome State Fault Refusal := .next (s.rebuild s.ev.dref (lineOf s.ev.pa))

end Sys2Proof.Machine
end

