-- ==== Sys2Proof/Machine/Kalsy.lean ====
section
/-! DEFINITION. The Kalsy ports: flits, replays, states; and the ends of this package's requests to others (14 R386 to R394, R401,
R402, R405 to R407). -/

namespace Sys2Proof.Machine

/-! ### Ends of requests of this package (R401, R402) -/

/-- A window of a thread that waits for a remote reply. -/
def State.remoteWin (s : State) (team tid win : Nat) : Option (Thread × Window) :=
  (s.thread? team tid).bind fun t => (t.win? win).bind fun w => if w.ready then none else some (t, w)

/-- A thread's remote access faults with RemoteFault (R402): its window is gone and the trap is precise. -/
def State.remoteFault (s : State) (team tid win gpa : Nat) : State :=
  match s.remoteWin team tid win with
  | none => s
  | some (t, w) =>
    let x : Trap := { kind := kRemoteFault, info := BitVec.ofNat 64 gpa, pc := w.pc, len := (t.pc - w.pc).toNat / 4, seq := w.id }
    (s.modThread team tid fun t => { t with wins := t.wins.filter fun v => v.id != win, entry := none }).pendTrap team tid x

/-- A request is no longer kept; those that waited behind it may go (R394, R400). -/
def State.dropReq (s : State) (rid : Nat) : State := { s with reqs := s.reqs.filter fun r => r.rid != rid }.sendWaiting

/-- The kept request that a reply from a package answers. -/
def State.reqFor (s : State) (m : Msg) : Option RemReq := s.reqs.find? fun r => r.rid == m.rid && r.msg.dpkg == m.spkg

/-- A copy request of this package suffers an imprecise copy fault (R344). -/
def State.reqCopyFault (s : State) (core req aux : Nat) : State :=
  match s.copyReq? core req with
  | some r => s.copyFault core r aux
  | none => s

/-- The lanes of a request that reads, and where each lies. -/
def RemReq.lanesOf (r : RemReq) : List (Nat × Nat × Nat) :=
  let a := r.msg.addr.toNat
  match r.what with
  | .load _ win lanes _ => lanes.map fun l => (l.1, win, a + l.2.1)
  | .watch _ tid win => [(tid, win, a)]
  | .rmw _ tid win _ _ _ => [(tid, win, a)]
  | .store _ => []
  | .red _ => []
  | .chunkRead _ _ _ _ _ => []
  | .chunkWrite _ _ _ _ => []
  | .landing => []
  | .done _ => []
  | .record _ tid win _ _ _ _ _ => [(tid, win, a)]

/-- What a failed path, a refusal of cause 2 (aux 1) or an uncorrectable remote line (aux 2) does to a store or copy. -/
def State.postedFault (s : State) (r : RemReq) (aux : Nat) : State :=
  match r.what with
  | .store rs => match rs with
    | q :: _ => s.storeFault q aux
    | [] => s
  | .red q => s.storeFault q aux
  | .chunkRead core req _ _ _ => s.reqCopyFault core req aux
  | .chunkWrite core req _ _ => s.reqCopyFault core req aux
  | .load _ _ _ _ => s
  | .watch _ _ _ => s
  | .rmw _ _ _ _ _ _ => s
  | .record _ _ _ _ _ _ _ _ => s
  | .landing => s
  | .done lid => s.freeLaunch lid

/-- The path of a request has failed (R394, R402): PathFailed, and each of its accesses ends as R402 gives. -/
def State.pathFailed (s : State) (r : RemReq) : State :=
  let s := (s.dropReq r.rid).event { kind := 0x13, ctx := r.ctx, info := r.rid, aux := r.msg.dpkg }
  (r.lanesOf.foldl (fun s l => s.remoteFault r.team l.1 l.2.1 l.2.2) s).postedFault r 1

/-- A PeerRefused event (R402): the request's id, its source package and cause 1. -/
def State.peerRefused (s : State) (ctx rid spkg : Nat) : State := s.event { kind := 0x12, ctx := ctx, info := rid, aux := spkg + 2 ^ 12 }

/-- A request is refused with cause 1 (R402): loads and atomics fault, a write is discarded, a copy is aborted. -/
def State.refused (s : State) (r : RemReq) : State :=
  let s := (s.dropReq r.rid).peerRefused r.ctx r.rid s.pkgid
  let s := r.lanesOf.foldl (fun s l => s.remoteFault r.team l.1 l.2.1 l.2.2) s
  let abort (s : State) (core req row : Nat) : State := match s.copyReq? core req with
    | some c => s.copyAbort core c 0x16 row
    | none => s
  match r.what with
  | .chunkRead core req row _ _ => abort s core req row
  | .chunkWrite core req row _ => abort s core req row
  | .load _ _ _ _ => s
  | .watch _ _ _ => s
  | .rmw _ _ _ _ _ _ => s
  | .store rs => (distinct (rs.map (·.tid))).foldl (fun s i => s.fenceDone r.team i) s
  | .red q => s.fenceDone q.team q.tid
  | .landing => s
  | .done lid => s.freeLaunch lid
  | .record _ _ _ _ _ _ _ _ => s

/-! ### Port states (R390, R407) -/

/-- Requests in flight on a port are sent again on other ports, with the same RID, and what waits for a port tries again; each whose
path has failed ends (R394, R400, R407). -/
def State.moveTraffic (s : State) (p : Nat) : State :=
  let mine := s.reqs.filter fun r => r.port == some p
  (mine.foldl (fun s r => s.modReq r.rid fun x => { x with port := none }) s).sendWaiting

/-- A port enters a state and carries nothing: its keys and the flits it holds are gone. -/
def State.portTo (s : State) (p : Nat) (st : PortState) (peer : Nat) : State :=
  (s.modPort p fun x =>
    { x with st := st, since := s.clk, peer := peer, ch := { Chan.init with wire := x.ch.wire, lastKey := s.clk } }).moveTraffic p

/-- A port enters Failed (R390), with its event (R418). -/
def State.failPort (s : State) (p : Nat) : State := (s.portTo p .failed (s.port p).peer).event { kind := 0x14, aux := 0x100 + p }

/-- EN := 1 (R390). -/
def State.portOn (s : State) (p : Nat) : State :=
  let s := s.modPort p fun x => { x with en := true }
  if (s.port p).st = .off then s.portTo p .training 0 else s

/-- EN := 0 (R390). -/
def State.portOff (s : State) (p : Nat) : State :=
  let s := s.modPort p fun x => { x with en := false }
  if (s.port p).st = .off then s else s.portTo p .off 0

/-- TRAIN := 1 (R390). -/
def State.portTrain (s : State) (p : Nat) : State := if (s.port p).st = .failed then s.portTo p .training 0 else s

/-- A reset of a port's brim puts it in Off with its registers at reset; with EN kept at 1 it begins Training (R390). -/
def State.portReset (s : State) (p : Nat) : State :=
  let en := (s.port p).en
  let s := s.portTo p .off 0
  let s := s.modPort p fun x => { Port.init with sent := x.sent, ch := x.ch }
  if en then s.portOn p else s

def execPortEnable (s : State) : Host.Outcome State Fault Refusal := .next (if s.ev.port < 64 then s.portOn s.ev.port else s)
def execPortDisable (s : State) : Host.Outcome State Fault Refusal := .next (if s.ev.port < 64 then s.portOff s.ev.port else s)
def execTrain (s : State) : Host.Outcome State Fault Refusal := .next (if s.ev.port < 64 then s.portTrain s.ev.port else s)

/-- Locks and a partner, package `ev.idx`: Attest; a partner of this package's own id is refused (R390, R393). -/
def execTrainingLock (s : State) : Host.Outcome State Fault Refusal :=
  let p := s.ev.port
  .next (if p < 64 ∧ (s.port p).st = .training then
      let u := s.portTo p .attest s.ev.idx
      if s.ev.idx = s.pkgid then u.failPort p else u
    else s)

/-- 2^30 clk in Training (R390). -/
def execTrainingTimeout (s : State) : Host.Outcome State Fault Refusal :=
  let p := s.ev.port
  .next (if (s.port p).st = .training ∧ (s.port p).since + 1073741824 ≤ s.clk then s.failPort p else s)

/-- Loss of light for 2^21 clk (R390). -/
def execLossOfLight (s : State) : Host.Outcome State Fault Refusal :=
  .next (if (s.port s.ev.port).st = .up then s.failPort s.ev.port else s)

/-- Messages that have waited 2^24 clk for a port go no further: a request of another package is refused with cause 2 (R394, R395). -/
def State.transitOver (s : State) : State :=
  let (late, left) := s.transit.partition fun t => decide (t.till ≤ s.clk)
  late.foldl State.turnBack { s with transit := left }

/-- A request has waited 2^24 clk for a port, or has none left to wait for (R394); with the flag, a message in transit. -/
def execPathWaitExpire (s : State) : Host.Outcome State Fault Refusal :=
  .next (if s.ev.flag then s.transitOver
    else match s.reqs.find? fun r => r.rid == s.ev.rid with
    | some r => if r.port.isNone && r.waitTill.any fun t => decide (t ≤ s.clk) then s.pathFailed r else s
    | none => s)

/-! ### Flits (R387 to R389) -/

/-- What a port carries in a state (R390). -/
def carries (st : PortState) (t : Nat) : Bool :=
  match st with
  | .off => false
  | .training => t == 2
  | .attest => t == 2
  | .up => true
  | .failed => false

/-- A counter of R406. -/
def count48 (n k : Nat) : Nat := (n + k) % 2 ^ 48

/-- Messages that stand whole in what the port has passed on go to the engine (R397). -/
def Port.parse (p : Port) : Port :=
  let (ms, bad, rest) := parseMsgs (p.ch.delivered.length / 16) p.ch.delivered
  { p with inbox := p.inbox ++ ms, auth := count48 p.auth bad, ch := { p.ch with delivered := rest } }

/-- A decoded flit of a TYPE at a port, corrected by FEC or not (R387 to R389). -/
def Port.take (p : Port) (now t : Nat) (corrected : Bool) (x : RxFlit) : Port :=
  let (h, r) := if t = 0 then p.ch.rxData kalsyFmt x else if t = 1 then p.ch.rxTag kalsyFmt x else (p.ch, .taken)
  let h := h.acked kalsyFmt now x.ack
  let h := if x.nak then { h with replay := some x.ack } else h
  let h := if r = .taken then h else h.idle kalsyFmt h.rxSeq true
  { p with corr := count48 p.corr (b2n corrected), auth := count48 p.auth (b2n (r == RxEnd.badTag))
           ch := h.push kalsyFmt now h.rxSeq [] }.parse

/-- A flit that FEC cannot correct or whose CRC fails is counted; in Up, where data flits are carried, replay is asked for (R389,
R390). -/
def Port.undecoded (p : Port) : Port :=
  { p with drop := count48 p.drop 1
           ch := if p.st = .up then { p.ch with discard := true }.idle kalsyFmt p.ch.rxSeq true else p.ch }

/-- A flit of a TYPE arrives at a port of a reachable brim: `ev.bytes` are its 272 bytes (R387, R389). -/
def State.portRx (s : State) (t : Nat) : State :=
  let n := s.ev.port
  let p := s.port n
  if n ≥ 64 ∨ ¬ carries p.st t ∨ (s.die (brimOfPort n)).lost then s
  else
    match kalsyFmt.decode s.ev.bytes with
    | none => s.setPort n p.undecoded
    | some (c, x) => if x.type ≠ t then s else s.setPort n (p.take s.clk t c x)

def execKalsyDataFlit (s : State) : Host.Outcome State Fault Refusal := .next (s.portRx 0)
def execKalsyTagFlit (s : State) : Host.Outcome State Fault Refusal := .next (s.portRx 1)
def execKalsyControlFlit (s : State) : Host.Outcome State Fault Refusal := .next (s.portRx 2)
def execKalsyIdleFlit (s : State) : Host.Outcome State Fault Refusal := .next (s.portRx 3)

/-- A port replays from a sequence number; the eighth failed replay fails it (R389). -/
def State.portReplay (s : State) (n a : Nat) (failed : Bool) : State :=
  let p := s.port n
  let h := p.ch.sendAgain kalsyFmt s.clk p.ch.rxSeq a failed
  let s := (s.setPort n { p with rpl := count48 p.rpl 1, ch := h }).resendChunks
  if 8 ≤ h.fails then s.failPort n else s

/-- The replay that a NAK asked for (R389). -/
def execKalsyReplay (s : State) : Host.Outcome State Fault Refusal :=
  let p := s.port s.ev.port
  .next (match p.ch.replay with
    | some a => if p.st = .up then s.portReplay s.ev.port a false else s
    | none => s)

/-- ACK has not advanced for 16,384 clk while flits are outstanding: they are sent again from the oldest that the partner has not
acknowledged, or has asked for again (R389). -/
def execAckTimeout (s : State) : Host.Outcome State Fault Refusal :=
  let p := s.port s.ev.port
  .next (if !p.ch.kept.isEmpty ∧ p.st = .up ∧ p.ch.ackClk + 16384 ≤ s.clk then
      s.portReplay s.ev.port (p.ch.nakAt.getD p.ch.lastAck) true
    else s)

/-- A port's open group is completed (R388). -/
def execKalsyOpenGroup (s : State) : Host.Outcome State Fault Refusal :=
  let p := s.port s.ev.port
  .next (if p.st = .up ∧ ¬ p.ch.open_.isEmpty then s.setPort s.ev.port { p with ch := p.ch.complete kalsyFmt s.clk p.ch.rxSeq } else s)

/-! ### Registers (R393, R405) -/

/-- A write of KLCTL: HOPMAX up to 8, and PKGID up to 287 while every port is Off; a field's other writes leave that field as it
was (R393, R405; log 32). -/
def State.klctlPut (s : State) (v : Nat) : State :=
  let hop := bits v 23 20
  let pkg := bits v 8 0
  let off := (upTo 64).all fun p => (s.port p).st == .off
  { s with hopmax := if hop ≤ 8 then hop else s.hopmax, pkgid := if off && decide (pkg ≤ 287) then pkg else s.pkgid }

/-- The reserved bits of KLCTL (R405). -/
def klctlRes : Nat := maskOf 63 24 + maskOf 19 9

def execKlctlWrite (s : State) : Host.Outcome State Fault Refusal :=
  let v := s.ev.v.toNat
  .next (s.windowWrite 10 0x100000 klctlRes v fun s => s.klctlPut v)

end Sys2Proof.Machine
end

