-- ==== Sys2Proof/Machine/KalsyMsgs.lean ====
section
/-! DEFINITION. Messages between packages: transit, admission, what other packages' requests do here, and replies to this package's
requests (14 R395, R397 to R404; 12 R348). -/

namespace Sys2Proof.Machine

/-! ### Transit -/

/-- A message for another package that has come in on port p is forwarded with one hop more, waits for a port of its route at most 2^24
clk, or, if a request, is refused with cause 2 (R394, R395). -/
def State.forward (s : State) (p : Nat) (m : Msg) : State :=
  let t : Transit := { via := p, msg := { m with hops := m.hops + 1 }, till := s.clk + 2 ^ 24 }
  if s.hopmax < m.hops + 1 then s.turnBack t else s.sendOnward t

/-- The first message of a port is taken from it. -/
def State.popMsg (s : State) (p : Nat) : State := s.modPort p fun x => { x with inbox := x.inbox.drop 1 }

/-- The first message at `ev.port`, if it is of a kind: taken and forwarded, or, if for this package, handled as it stands there. -/
def State.arrive (s : State) (k : MsgKind) (f : State → Nat → Msg → State) : State :=
  let p := s.ev.port
  match (s.port p).inbox with
  | m :: _ => if m.kind ≠ k then s else if m.dpkg ≠ s.pkgid then (s.popMsg p).forward p m else f s p m
  | [] => s

/-! ### Admission (R398) -/

/-- An import window's frames hold the n bytes at a local address of near or far memory. -/
def ImpWin.holds (w : ImpWin) (pa n : Nat) : Bool :=
  isDram pa && isDram (pa + n - 1) && decide (w.base ≤ pa / 65536) && decide ((pa + n - 1) / 65536 ≤ w.last)

/-- Some window admits a global access: `bit` is the IWCTL bit of its kind. -/
def State.admits (s : State) (m : Msg) (bit pa n : Nat) : Bool :=
  (upTo 32).any fun i =>
    let w := s.iwins.get i ImpWin.init
    w.on && w.ctl.getLsbD bit && w.from_ m.spkg m.sctx && w.holds pa n

/-! ### Requests of other packages (R399, R400) -/

/-- A performed request's reply is recorded and sent. -/
def State.replyTo (s : State) (p : Nat) (m r : Msg) : State :=
  State.sendMsg { s with doneReqs := s.doneReqs ++ [{ spkg := m.spkg, rid := m.rid, reply := r }] } p r

/-- A request is refused with cause 1 (R398, R402). -/
def State.refuse (s : State) (p : Nat) (m : Msg) : State := (s.sendMsg p (s.answerTo m .refusal 1 [])).peerRefused m.sctx m.rid m.spkg

/-- A request that has come in on port p: answered from its record if it is repeated, waiting while the records of its package are
full, refused where no window admits it, otherwise performed once the directories let it at its lines (R398 to R400). -/
def State.serveReq (s : State) (p : Nat) (m : Msg) (ok : Bool) (ask : State → Bool × State) (perform : State → State) : State :=
  match s.doneReqs.find? fun d => d.spkg == m.spkg && d.rid == m.rid with
  | some d => (s.popMsg p).sendMsg p d.reply
  | none =>
    if 65536 ≤ (s.doneReqs.filter fun d => d.spkg == m.spkg).length then s
    else if s.held.any fun h => h.chunk.isNone && h.msg.spkg == m.spkg && h.msg.rid == m.rid && h.msg.spkg != s.pkgid then s.popMsg p
    else if !ok then (s.popMsg p).refuse p m
    else match ask s with
      | (true, s) => perform (s.popMsg p)
      | (false, s) => s

/-- Bytes that an outside agent cannot have: poisoned, or on a lost or untrained home (R402, R412, R427; log 33). -/
def State.badAt (s : State) (pa n : Nat) : Bool := s.poisonedIn pa n || s.absent pa || s.absent (pa + n - 1)

/-- A read (R397, R399): OP bytes at ADDR; the response of a poisoned line has no data (log 30). -/
def State.readReq (s : State) (p : Nat) (m : Msg) (pa : Nat) : State :=
  let n := m.op.toNat
  let s := s.linesCleaned pa n
  s.replyTo p m (s.answerTo m .response 0 (if s.badAt pa n then [] else s.peekN pa n))

def execReadMessage (s : State) : Host.Outcome State Fault Refusal :=
  .next (s.arrive .read fun s p m =>
    let pa := localOf m.addr.toNat
    let n := m.op.toNat
    s.serveReq p m (s.admits m 1 pa n) (fun s => s.visitLines pa n false) fun s => s.readReq p m pa)

/-- An acknowledgement; with a unit of data, the line was uncorrectable (log 30). -/
def State.ackTo (s : State) (p : Nat) (m : Msg) (bad : Bool) : State :=
  s.replyTo p m (s.answerTo m .ack 0 (if bad then List.replicate 16 0 else []))

/-- A write (R397, R399): the enabled bytes of a line; one written whole loses its poison. -/
def State.writeReq (s : State) (p : Nat) (m : Msg) (pa : Nat) : State :=
  let mask := ofBytes (m.data.take 16)
  let s := s.lineTaken (lineOf pa)
  let s := if mask = fullMask then s.clearPoison pa 128 else s
  if s.badAt pa 128 then s.ackTo p m true
  else
    let b := overlayMask mask (padTo 128 (m.data.drop 16)) (s.peekN pa 128)
    (s.pokeN pa b).ackTo p m false

def execWriteMessage (s : State) : Host.Outcome State Fault Refusal :=
  .next (s.arrive .write fun s p m =>
    let pa := alignDown (localOf m.addr.toNat) 128
    s.serveReq p m (s.admits m 2 pa 128) (fun s => s.visitLines pa 128 true) fun s => s.writeReq p m pa)

/-- An atomic operation at the home's ALU: New of the n bytes at pa; the old value answers, or an acknowledgement (R399). -/
def State.atomicReq (s : State) (p : Nat) (m : Msg) (pa n : Nat) (ack : Bool) (f : DWord → Option DWord) : State :=
  let s := s.lineTaken (lineOf pa)
  if s.badAt pa n then if ack then s.ackTo p m true else s.replyTo p m (s.answerTo m .response 0 [])
  else
    let o := BitVec.ofNat 64 (s.peekNat pa n)
    let s := match f o with
      | some v => s.pokeNat pa n v.toNat
      | none => s
    if ack then s.ackTo p m false else s.replyTo p m (s.answerTo m .response 0 (toBytes n o.toNat))

/-- The ATOM or RED of an OP byte (R285, R397). -/
def atomOfCode (n : Nat) : AtomOp :=
  ([AtomOp.add, .addB64, .exch, .exchB64, .minI32, .maxI32, .and, .or].find? fun o => atomCode o == n).getD .or
def redOfCode (n : Nat) : RedOp :=
  ([RedOp.add, .addB64, .addF32, .minI32, .maxI32, .and, .or, .xor].find? fun o => redCode o == n).getD .xor

def execAtomicMessage (s : State) : Host.Outcome State Fault Refusal :=
  .next (s.arrive .atomic fun s p m =>
    let pa := localOf m.addr.toNat
    let code := m.op.toNat % 128
    let red := 128 ≤ m.op.toNat
    let n := if red then redBytes (redOfCode code) else atomBytes (atomOfCode code)
    let d := BitVec.ofNat 64 (ofBytes (m.data.take n))
    s.serveReq p m (code < 8 && s.admits m 3 pa n) (fun s => s.visitLines pa n true) fun s =>
      s.atomicReq p m pa n red fun o => some (if red then redNew (redOfCode code) o d else atomNew (atomOfCode code) o d))

def execCasMessage (s : State) : Host.Outcome State Fault Refusal :=
  .next (s.arrive .cas fun s p m =>
    let pa := localOf m.addr.toNat
    let n := if m.op = 0 then 4 else 8
    s.serveReq p m (s.admits m 3 pa n) (fun s => s.visitLines pa n true) fun s =>
      s.atomicReq p m pa n false fun o =>
        if o.toNat = ofBytes (m.data.take n) then some (BitVec.ofNat 64 (ofBytes ((m.data.drop n).take n))) else none)

/-! #### Chunks and landings (R348, R403, R404) -/

/-- The team, landing word and DLV bit that a delivery's first unit names (R397). -/
def unitTeam (u : List Byte) : Nat := tHandle (ofBytes (u.take 4)) (ofBytes ((u.drop 4).take 4))
def unitLand (u : List Byte) : Nat := ofBytes ((u.drop 8).take 4)
def unitDlv (u : List Byte) : Bool := (u.getD 12 0).toNat % 2 == 1

/-- A delivery reaches a resident team's scratchpad: written, and counted if it has a landing word; a poisoned word is an
uncorrectable error of the source's (R149, R403, R412). -/
def State.deliverChunk (s : State) (via : Nat) (m : Msg) : State :=
  let h := unitTeam m.data
  let b := m.data.drop 16
  let s := s.sPut h m.addr.toNat b
  if !unitDlv m.data then s.ackTo via m false
  else if ((s.team? h).map fun t => t.sPoisoned (unitLand m.data) 16).getD false then s.ackTo via m true
  else (s.landEvent h (unitLand m.data) b.length false).ackTo via m false

/-- A chunk for a team: delivered, or held at the crown while the team is away (R348, R403). -/
def State.chunkToTeam (s : State) (p : Nat) (m : Msg) : State :=
  let h := unitTeam m.data
  if ((s.team? h).map (·.resident)).getD false && !(s.held.any fun x => x.team == h) then s.deliverChunk p m
  else { s with held := s.held ++ [{ team := h, msg := m, chunk := none }] }

/-- A chunk for memory is written at its home; lines it covers whole lose their poison (R404, R409). -/
def State.chunkToMem (s : State) (p : Nat) (m : Msg) (pa : Nat) : State :=
  let n := m.data.length
  let s := (linesOf pa n).foldl (fun s ln => s.lineTaken ln) s
  if s.absent pa then s.ackTo p m true else ((s.clearPoison pa n).pokeN pa m.data).ackTo p m false

def execChunkWriteMessage (s : State) : Host.Outcome State Fault Refusal :=
  .next (s.arrive .chunk fun s p m =>
    if m.scr then
      let fits := match s.team? (unitTeam m.data) with
        | some t => s.deliveryOk m.spkg m.sctx t.ctx && decide (m.addr.toNat + (m.data.length - 16) ≤ t.lr.scratch)
        | none => false
      s.serveReq p m fits (fun s => (true, s)) fun s => s.chunkToTeam p m
    else
      let pa := localOf m.addr.toNat
      s.serveReq p m (s.admits m 2 pa m.data.length) (fun s => s.visitLines pa m.data.length true) fun s => s.chunkToMem p m pa)

def execLandingMessage (s : State) : Host.Outcome State Fault Refusal :=
  .next (s.arrive .landing fun s p m =>
    let h := unitTeam m.data
    let ok := match s.team? h with
      | some t => s.deliveryOk m.spkg m.sctx t.ctx
      | none => true
    s.serveReq p m ok (fun s => (true, s)) fun s =>
      (if m.op = 1 then s.landEvent h (unitLand m.data) 0 true else s).ackTo p m false)

/-- The list without its first element that `p` names. -/
def dropFirst {α : Type} (p : α → Bool) : List α → List α
  | [] => []
  | x :: r => if p x then r else x :: dropFirst p r

/-- A delivery held for a team, in the order it came (R348): made once the team is resident; turned away once it is no longer
living. -/
def State.heldNext (s : State) (h : Nat) : State :=
  match s.held.find? fun x => x.team == h with
  | none => s
  | some x =>
    let out : State := { s with held := dropFirst (fun y => y.team == h) s.held }
    let here := x.msg.spkg == s.pkgid
    match s.team? h with
    | none => if here then out else out.refuse 64 x.msg
    | some t =>
      if !t.resident then s
      else if x.msg.kind = .landing then out.landEvent h x.msg.addr.toNat (ofBytes x.msg.data) (x.msg.op == 1)
      else if !here then out.deliverChunk 64 x.msg
      else
        let s := out.sPut h x.msg.addr.toNat (x.msg.data.drop 16)
        match x.chunk with
        | some (c, req, row, n) => s.modChunk c req row n fun k => { k with written := true }
        | none => s

def execHeldDelivery (s : State) : Host.Outcome State Fault Refusal := .next (s.heldNext s.ev.team)

/-! ### Replies to this package's requests (R400 to R402) -/

/-- The source answers a response or acknowledgement with a message of kind 9 (R400). -/
def State.sendRespAck (s : State) (p : Nat) (m : Msg) : State := s.sendMsg p (s.answerTo m .respAck 0 [])

/-- The lane of a remote access has its bytes: its window's result, and its acquire (R401). -/
def State.laneDone (s : State) (team tid win : Nat) (regs : List (Nat × Word)) (acq : Bool) : State :=
  match s.remoteWin team tid win, s.team? team with
  | some _, some tm =>
    let s := if acq then (s.learns team tid).acquire (tm.coreOf tid) tm.ctx .sys else s
    s.waitDone team tid win regs
  | _, _ => s

/-- A lane of a remote access meets an uncorrectable line (R402): its context consumes it. -/
def State.laneBad (s : State) (team tid win gpa : Nat) : State :=
  match s.remoteWin team tid win with
  | some (_, w) => s.consume team tid w.pc 11 gpa
  | none => s

/-- A chunk's bytes from another package have arrived (R403). -/
def State.chunkGot (s : State) (core req row n off : Nat) (b : List Byte) : State :=
  (s.modChunk core req row n fun k => { k with data := overlayAt k.data off b, awaits := k.awaits - 1 }).chunkSland core req row n

/-- A response completes its request (R401, R402). -/
def State.responded (s : State) (r : RemReq) (m : Msg) : State :=
  let s := s.dropReq r.rid
  let asked := match r.what with
    | .load _ _ _ _ => r.msg.op.toNat
    | .watch _ _ _ => 4
    | .chunkRead _ _ _ _ _ => r.msg.op.toNat
    | .rmw _ _ _ _ w64 _ => if w64 then 8 else 4
    | .store _ => 0
    | .red _ => 0
    | .chunkWrite _ _ _ _ => 0
    | .landing => 0
    | .done _ => 0
    | .record _ _ _ _ _ _ _ _ => 128
  if m.data.isEmpty && asked != 0 then
    (r.lanesOf.foldl (fun s l => s.laneBad r.team l.1 l.2.1 l.2.2) s).postedFault r 2
  else
    let b := m.data.take asked
    match r.what with
    | .load team win lanes acq =>
      lanes.foldl (fun s l => s.laneDone team l.1 win (regsOfBytes l.2.2.2 ((b.drop l.2.1).take l.2.2.1)) acq) s
    | .watch team tid win =>
      match s.remoteWin team tid win with
      | some (_, w) => s.watchGot team tid w (BitVec.ofNat 32 (ofBytes b)) none
      | none => s
    | .rmw team tid win dst _ acq => s.laneDone team tid win (regsOfBytes dst b) acq
    | .chunkRead core req row n off => s.chunkGot core req row n off b
    | .record team tid win dst _ q sys res => s.launchGot team tid win dst q sys res b
    | .store _ => s
    | .red _ => s
    | .chunkWrite _ _ _ _ => s
    | .landing => s
    | .done _ => s

def execResponse (s : State) : Host.Outcome State Fault Refusal :=
  .next (s.arrive .response fun s p m =>
    let t := (s.popMsg p).sendRespAck p m
    match s.reqFor m with
    | some r => t.responded r m
    | none => t)

/-- An acknowledgement performs its request at the source (R401, R403, R404): a fence or release that waited for it may go on; a
chunk is written, and one for another package's scratchpad counted. -/
def State.acknowledged (s : State) (r : RemReq) (bad : Bool) : State :=
  let s := s.dropReq r.rid
  if bad then s.postedFault r 2
  else match r.what with
    | .store rs => (distinct (rs.map (·.tid))).foldl (fun s i => s.fenceDone r.team i) s
    | .red q => s.fenceDone q.team q.tid
    | .chunkWrite core req row n => s.modChunk core req row n fun k => { k with written := true, landed := k.landed || r.msg.scr }
    | .load _ _ _ _ => s
    | .watch _ _ _ => s
    | .rmw _ _ _ _ _ _ => s
    | .chunkRead _ _ _ _ _ => s
    | .record _ _ _ _ _ _ _ _ => s
    | .landing => s
    | .done lid => s.freeLaunch lid

def execAcknowledgement (s : State) : Host.Outcome State Fault Refusal :=
  .next (s.arrive .ack fun s p m =>
    let t := (s.popMsg p).sendRespAck p m
    match s.reqFor m with
    | some r => t.acknowledged r (!m.data.isEmpty)
    | none => t)

def execRefusal (s : State) : Host.Outcome State Fault Refusal :=
  .next (s.arrive .refusal fun s p m =>
    let t := s.popMsg p
    match s.reqFor m with
    | some r => if m.op = 2 then t.pathFailed r else t.refused r
    | none => t)

/-- The destination frees its record (R400). -/
def execResponseAcknowledgement (s : State) : Host.Outcome State Fault Refusal :=
  .next (s.arrive .respAck fun s p m =>
    { s.popMsg p with doneReqs := s.doneReqs.filter fun d => !(d.spkg == m.spkg && d.rid == m.rid) })

end Sys2Proof.Machine
end

