-- ==== Sys2Proof/Machine/Contain.lean ====
section
/-! DEFINITION. The containment engine: errors and poison, kills and context faults, frames, ways, dies lost and reset, the crown
census, temperature and power (15 R408 to R432; 17 R453). -/

namespace Sys2Proof.Machine

/-! ### Cache ways (R424) -/

/-- The slice of a line in an L2 or crown, or the core of an L1, as AUX names it (R418). -/
def sliceNo (c : CacheRef) (ln : Nat) : Nat :=
  match c with
  | .l1 k => k
  | .l2 _ => l2Slice ln
  | .crown _ => crownSlice ln

/-- The code of a cache in AUX (R418). -/
def cacheCode : CacheRef → Nat
  | .l1 _ => 1
  | .l2 _ => 2
  | .crown _ => 3

/-- The die of a cache. -/
def cacheDie : CacheRef → Nat
  | .l1 c => dieOf c
  | .l2 d => d
  | .crown n => 8 + n

/-- The ways of an L1, or of a slice, that are quarantined. -/
def Cache.badHere (k : Cache) (c : CacheRef) (ln : Nat) : Nat :=
  (k.badWays.filter fun w => w / 16 == wayNo c ln 0 / 16).length

/-- The lines of a way of an L1, or of a slice, in every set. -/
def Cache.wayLines (k : Cache) (c : CacheRef) (ln way : Nat) : List Nat :=
  (k.lines.filter fun l => l.way == way && wayNo c l.ln 0 == wayNo c ln 0).map (·.ln)

/-- A way is quarantined: its lines are dropped, dirty ones written back, and it takes no further fill; a candidate beyond the limit
raises its record only (R424). -/
def State.badWay (s : State) (c : CacheRef) (ln way : Nat) : State :=
  let k := s.cache c
  let n := wayNo c ln way
  let record (s : State) (w : Nat) : State :=
    s.event { kind := 0x0C, core := if cacheCode c = 1 then sliceNo c ln else 0, die := cacheDie c
              aux := cacheCode c * 2 ^ 24 + sliceNo c ln * 2 ^ 8 + w }
  if k.badWays.contains n then s
  else if (if cacheCode c = 1 then 4 else 8) ≤ k.badHere c ln then record s 0xFF
  else
    let s := (k.wayLines c ln way).foldl (fun s l => s.giveUp c l) s
    record (s.setCache c { s.cache c with badWays := (s.cache c).badWays ++ [n] }) way

/-- A corrected error in a way: its count advances, and at WAYTH the way is quarantined (R424). -/
def State.wayError (s : State) (c : CacheRef) (ln way : Nat) : State :=
  let n := wayNo c ln way
  let k := s.cache c
  let e := k.wayErrs.get n 0 + 1
  let s := s.setCache c { k with wayErrs := k.wayErrs.put n e }
  if s.cn.wayth ≠ 0 ∧ s.cn.wayth ≤ e then s.badWay c ln way else s

/-! ### Lost data and poisoned units (R409 to R411) -/

/-- A LostData record faults the owner of a line (R411, R414). -/
def State.lostData (s : State) (ctx core die pa loc : Nat) : State :=
  s.contextFault ctx (Event.encode { kind := 0x02, ctx := ctx, core := core, die := die, pa := s.pkgid * 2 ^ 43 + pa, aux := loc, clock := s.clk })

/-- A PoisonedLine record (R411). -/
def State.poisonedLine (s : State) (die pa loc : Nat) : State :=
  s.event { kind := 0x08, die := die, pa := s.pkgid * 2 ^ 43 + pa, aux := loc }

/-- An uncorrectable error in a cache: a clean line is dropped, to be fetched again, a dirty one is poisoned and lost; the way is
quarantined (R408, R411, R424). -/
def State.cacheUE (s : State) (c : CacheRef) (pa way : Nat) : State :=
  let ln := lineOf pa
  let s := match (s.cache c).line? ln with
    | none => s
    | some l =>
      if l.way ≠ way then s
      else if l.dirty = 0 then s.giveUp c ln
      else
        let s := if l.st = LineState.si then s.setCache c ((s.cache c).modLine ln fun (x : Line) => { x with poison := true }) else s.setPoison (ln * 128)
        let core := if cacheCode c = 1 then sliceNo c ln else 0
        if l.tagv then s.lostData l.ctx core (cacheDie c) (ln * 128) (cacheCode c) else s.poisonedLine (cacheDie c) (ln * 128) (cacheCode c)
  s.badWay c ln way

/-- Some cache holds a line dirty, so that its memory's copy is not the latest. -/
def State.dirtyElsewhere (s : State) (ln : Nat) : Bool :=
  let has (k : Cache) : Bool := (k.line? ln).any fun l => l.dirty != 0 && l.st != LineState.si
  s.dies.any fun e => has e.2.cache

/-- An uncorrectable error in DRAM: the line is poisoned at its home, with a PoisonedLine record, and its frame's retirement is due
(R408, R411, R421, R422). -/
def State.dramUE (s : State) (pa : Nat) : State :=
  if !isDram pa then s
  else
    let s := if s.dirtyElsewhere (lineOf pa) then s else s.setPoison pa
    (s.countUE pa).poisonedLine ((homeDies pa).headD 0) (lineOf pa * 128) (dramLoc pa)

/-- The threads of a block that a register line serves (R12, R77). -/
def blockTids (tid : Nat) : List Nat := (upTo 32).map fun i => tid / 32 * 32 + i

/-- A store-queue entry is lost: its line is poisoned, its owner context faults (R411). -/
def State.storeUE (s : State) (core idx : Nat) : State :=
  match (s.core core).storeq[idx]? with
  | none => s
  | some r =>
    let s := s.modCore core fun k => { k with storeq := dropAt k.storeq idx }
    let s := if pkgOf r.pa = s.pkgid then s.setPoison (localOf r.pa) else s
    s.contextFault r.ctx (Event.encode { kind := 0x02, ctx := r.ctx, core := core, die := dieOf core, pa := r.pa, aux := 9, clock := s.clk })

/-- A store-log entry of a team in its window: the team is killed (R412). -/
def State.logUE (s : State) (team idx : Nat) : State :=
  match s.team? team with
  | none => s
  | some t => match t.log[idx]? with
    | some r => if t.window then s.killTeam team r.tid r.pc r.pa else s
    | none => s

/-- An uncorrectable error in a unit (R411): DRAM and cache lines as above; registers, scratchpad, accumulators and planes are
poisoned and fault nothing until they are consumed. -/
def State.uncorrectable (s : State) : ErrLoc → State
  | .cacheLine c pa way => s.cacheUE c pa way
  | .dram pa => s.dramUE pa
  | .register team tid reg =>
    (blockTids tid).foldl (fun s i => s.modThread team i fun t =>
      { t with poisoned := if t.poisoned.contains reg then t.poisoned else t.poisoned ++ [reg] }) s
  | .predicates team tid => (blockTids tid).foldl (fun s i => s.modThread team i fun t => { t with predPoison := true }) s
  | .scratch team off => s.modTeam team fun t =>
    { t with poisonScratch := if t.poisonScratch.contains (off / 8) then t.poisonScratch else t.poisonScratch ++ [off / 8] }
  | .accumulator team e row col => s.modTeam team fun t =>
    { t with eng := modAt t.eng e fun k => { k with poisonAcc := k.poisonAcc ++ [256 * row + col] } }
  | .plane team e shadow byte => s.modTeam team fun t =>
    { t with eng := modAt t.eng e fun k =>
        if shadow then { k with poisonShadow := k.poisonShadow ++ [byte / 8] } else { k with poisonFront := k.poisonFront ++ [byte / 8] } }
  | .storeQueue core idx => s.storeUE core idx
  | .storeLog team idx => s.logUE team idx
  | .fixedMargin team tid =>
    match s.team? team, s.thread? team tid with
    | some tm, some t => s.contextFault tm.ctx (s.threadRec 0x03 team tid t.pc 0 10 0)
    | _, _ => s

def execUncorrectableError (s : State) : Host.Outcome State Fault Refusal := .next (s.uncorrectable s.ev.loc)

/-- A corrected error in a DRAM read: the frame's CE count advances while counts are kept, and at FCETH its retirement is due
(R421, R422). -/
def State.dramCE (s : State) (pa : Nat) : State :=
  if !isDram pa || !s.cn.fetEn then s
  else
    let a := s.cn.fetBase + 8 * frameNo pa
    let n := min (s.peekNat a 4 + 1) (2 ^ 32 - 1)
    let s := s.pokeNat a 4 n
    let f := s.frame (pa / 65536)
    if s.cn.fceth ≠ 0 ∧ s.cn.fceth ≤ n ∧ ¬ f.ret ∧ ¬ f.mig then
      s.soon [Happening.row .frameRetirement { frame := pa / 65536, cause := 2 }]
    else s

/-- A corrected error (R411, R421, R424): only cache ways and DRAM frames count it. -/
def State.corrected (s : State) : ErrLoc → State
  | .cacheLine c pa way => s.wayError c (lineOf pa) way
  | .dram pa => s.dramCE pa
  | .register _ _ _ => s
  | .predicates _ _ => s
  | .scratch _ _ => s
  | .accumulator _ _ _ _ => s
  | .plane _ _ _ _ => s
  | .storeQueue _ _ => s
  | .storeLog _ _ => s
  | .fixedMargin _ _ => s

def execCorrectedError (s : State) : Host.Outcome State Fault Refusal := .next (s.corrected s.ev.loc)

/-- A window of way counts ends, or, with the flag, one of array-row counts (R424, R425). -/
def execErrorWindowEnd (s : State) : Host.Outcome State Fault Refusal :=
  let c := s.ev.core
  let k := s.cache s.ev.cache
  .next (if s.ev.flag then
      if (s.core c).rowWin + 16777216 ≤ s.clk then s.modCore c fun k => { k with rowErrs := [], rowWin := s.clk } else s
    else if k.windowStart + 1073741824 ≤ s.clk then s.setCache s.ev.cache { k with wayErrs := [], windowStart := s.clk }
    else s)

/-- One set of a slice is scrubbed (R411): an error that the scrub finds is a row of its own; otherwise nothing changes. -/
def execPatrolScrub (s : State) : Host.Outcome State Fault Refusal := .next s

/-- DRAM is scrubbed (R411): a corrected error is written back corrected, which changes no value. -/
def execDramScrub (s : State) : Host.Outcome State Fault Refusal := .next s

/-! ### Kills and context faults (R413, R414) -/

/-- A consumption inside the relaunch window kills its team (R412, R413): the consuming thread is `ev.tid`. -/
def execTeamKill (s : State) : Host.Outcome State Fault Refusal :=
  let e := s.ev
  .next (match s.team? e.team, s.thread? e.team e.tid with
    | some tm, some t => if tm.window then s.killTeam e.team e.tid t.pc e.pa else s
    | _, _ => s)

/-- The effects of a context fault on a context that has become Faulted (R414). -/
def execContextFault (s : State) : Host.Outcome State Fault Refusal :=
  .next (if (s.ctx s.ev.ctx).st = .faulted then s.stopContext s.ev.ctx else s)

/-! ### Frame retirement (R420 to R423) -/

/-- Retirement of a frame begins: MIG := 1 and its lines leave every cache (R422). -/
def State.retireFrame (s : State) (f cause : Nat) : State :=
  let x := s.frame f
  if x.ret || x.mig || !isDram (f * 65536) then s
  else (s.modFrame f fun x => { x with mig := true, cause := cause }).flushFrames f 1

/-- The cause of a retirement holds, as far as counts are kept; cause 2 only while they are (R422). -/
def State.causeHolds (s : State) (f cause : Nat) : Bool :=
  let a := s.cn.fetBase + 8 * frameNo (f * 65536)
  let ce := s.peekNat a 4
  (cause == 1 && (!s.cn.fetEn || s.peekNat (a + 4) 4 != 0)) || (cause == 2 && s.cn.fetEn && s.cn.fceth != 0 && decide (s.cn.fceth ≤ ce))

def execFrameRetirement (s : State) : Host.Outcome State Fault Refusal :=
  .next (if s.causeHolds s.ev.frame s.ev.cause then s.retireFrame s.ev.frame s.ev.cause else s)

/-- The same stack or the same brim serves two frames (R422). -/
def sameHome (f g : Nat) : Bool :=
  match regionOf (f * 65536), regionOf (g * 65536) with
  | .near, .near => f * 65536 / 0x0C00000000 == g * 65536 / 0x0C00000000
  | .far, .far => brimOfFar (f * 65536) == brimOfFar (g * 65536)
  | _, _ => false

/-- The remap entries of a frame's controller in use, and their number (R422). -/
def State.remapFull (s : State) (f : Nat) : Bool :=
  let used := (s.frames.filter fun e => e.2.spare.isSome && sameHome e.1 f).length
  decide ((if f * 65536 < 0x06000000000 then 64 else 256) ≤ used)

/-- A store of bytes with frame f copied over frame g. -/
def framePut (f g : Nat) (m : List Host.Cell) : List Host.Cell :=
  (m.filter fun c => c.1 / 65536 == f).foldl (fun m c => spPut m (g * 65536 + c.1 % 65536) c.2) (spClear m (g * 65536) 65536)

/-- Memory changed, and with it the copies that launches fetch their code from (R97). -/
def State.mapMem (s : State) (f : List Host.Cell → List Host.Cell) : State :=
  { s with mem := f s.mem, launches := s.launches.mapKV fun _ (l : Launch) => { l with code := f l.code }
           queues := s.queues.mapKV fun _ (q : Queue) => { q with posts := q.posts.map fun (p : Post) => { p with code := f p.code } } }

/-- The 64 KiB of a frame, with its poison, copied to a spare (R409, R422). -/
def State.copyFrame (s : State) (f g : Nat) : State :=
  let bad := s.poison.filter fun l => l / 512 == f
  { s.mapMem (framePut f g) with poison := (s.poison.filter fun l => l / 512 != g) ++ bad.map fun l => g * 512 + l % 512 }

/-- A frame whose 65,536 bytes are unspecified (R6, R422; log 61). -/
def State.freeFrame (s : State) (f : Nat) : State :=
  let (b, s) := s.freeBytes 65536
  { s.mapMem (fun m => spPutN m (f * 65536) b) with poison := s.poison.filter fun l => l / 512 != f }

/-- A table of a context, with `fuel` levels left, maps a frame of this package (R317). -/
def State.mapsIn (s : State) (f : Nat) : Nat → Nat → Nat → Bool
  | 0, _, _ => false
  | fuel + 1, level, table =>
    isDram table && ((s.mem.filter fun c => c.1 / 65536 == s.home table / 65536).map fun c => c.1 % 65536 / 8).any fun i =>
      let e := s.peekNat (table + 8 * i) 8
      let pa := localOf (bits e 51 16 * 65536)
      bitOf e 0 && (if bitOf e 1 then
          pkgOf (bits e 51 16 * 65536) == s.pkgid && decide (pa ≤ f * 65536) && decide (f * 65536 < pa + 2 ^ leafLog level)
        else decide (level < 2) && State.mapsIn s f fuel (level + 1) (bits e 42 16 * 65536))

/-- Some context maps a frame (R422). -/
def State.frameMapped (s : State) (f : Nat) : Bool :=
  (upTo 64).any fun c => (s.ctx c).st != .free && s.mapsIn f 3 0 (s.ctx c).ptroot

/-- An entry of the bad-frame list (R423). -/
def badFrameEntry (f cause ue ce : Nat) : BitVec 128 :=
  BitVec.ofNat 128 (ce % 2 ^ 32 * 2 ^ 96 + ue % 2 ^ 32 * 2 ^ 64 + cause % 16 * 2 ^ 60 + f % 2 ^ 27 * 2 ^ 16)

/-- A spare takes the contents and the accesses of a frame; where a context mapped it when it was pushed, both frames hold unspecified
values, and neither shows what the other holds (R4, R6, R422; log 61). -/
def State.takeSpare (s : State) (f g : Nat) : State :=
  if s.cn.mapped.contains g then (s.freeFrame f).freeFrame g
  else (s.copyFrame f g).modFrame f fun x => { x with spare := some g }

/-- Retirement ends (R422): the first suitable spare takes the frame's contents and its accesses; the frame is listed and RET set, and
the FrameRetired record is written. It is abandoned where the frame's home is lost (R432). -/
def State.frameRetired (s : State) (f : Nat) : State :=
  let x := s.frame f
  if !x.mig then s
  else if s.homeLost (f * 65536) then s.modFrame f fun x => { x with mig := false, cause := 0 }
  else
    let spare := if s.remapFull f then none else s.cn.spares.find? fun g => sameHome f g && g != f
    let pa := f * 65536
    let cnt (o : Nat) : Nat := if s.cn.fetEn then s.peekNat (s.cn.fetBase + 8 * frameNo pa + o) 4 else 0
    let full := decide (4096 ≤ s.bfl.length)
    let entry := badFrameEntry f x.cause (cnt 4) (cnt 0)
    let s := match spare with
      | some g => { (s.takeSpare f g) with cn := { s.cn with spares := s.cn.spares.erase g, mapped := s.cn.mapped.erase g } }
      | none => s
    let s := { s with bfl := if full then s.bfl else s.bfl ++ [entry] }
    let s := s.modFrame f fun x => { x with ret := true, mig := false }
    s.event { kind := 0x0B, pa := s.pkgid * 2 ^ 43 + pa, info := (spare.getD 0) * 65536, aux := x.cause + 128 * b2n full }

def execFrameRetired (s : State) : Host.Outcome State Fault Refusal := .next (s.frameRetired s.ev.frame)

/-- A write of FRET: with GO, FRAME is retired with cause 3 (R420, R422). -/
def State.fretPut (s : State) (v : Nat) : State := if bitOf v 0 then s.retireFrame (bits v 42 16) 3 else s

/-- A write of SPARE adds a frame to the pool, up to 4,095 (R420). -/
def State.sparePut (s : State) (v : Nat) : State :=
  let g := bits v 42 16
  if 4095 ≤ s.cn.spares.length then s
  else { s with cn := { s.cn with spares := s.cn.spares ++ [g], mapped := if s.frameMapped g then s.cn.mapped ++ [g] else s.cn.mapped } }

/-- The reserved bits of FRET and SPARE (R420). -/
def fretRes : Nat := maskOf 63 43 + maskOf 15 1
def spareRes : Nat := maskOf 63 43 + maskOf 15 12

def execFretGo (s : State) : Host.Outcome State Fault Refusal :=
  let v := s.ev.v.toNat
  .next (s.windowWrite 8 0x400030 fretRes v fun s => s.fretPut v)

def execSparePush (s : State) : Host.Outcome State Fault Refusal :=
  let v := s.ev.v.toNat
  .next (s.windowWrite 8 0x400028 spareRes v fun s => s.sparePut v)

/-! ### Loss and reset of a die (R427 to R429, R441) -/

/-- The dies that are lost with a die: a crown's brims with it (R427). -/
def lostWith (d : Nat) : List Nat := if d = 8 ∨ d = 9 then [d, 2 * d - 6, 2 * d - 5] else [d]

/-- The contexts that a loss faults: those whose TDM has a bit of a lost die; every one when no crown is left, or while an earlier
crown's census runs (R427, R428, R432). -/
def State.lossCtxs (s : State) (ds : List Nat) : List Nat :=
  let all := ((s.die 8).lost && (s.die 9).lost) || (s.dies.any fun e => e.2.census.isSome && !ds.contains e.1)
  (upTo 64).filter fun c =>
    let x := s.ctx c
    (x.st == .active || x.st == .switchedOut) && (all || ds.any fun d => x.tdm.getLsbD d)

/-- The holder stands on one of the dies. -/
def holderOn (ds : List Nat) : Holder → Bool
  | .l1 c => ds.contains (dieOf c)
  | .cluster n => ds.contains (n / 4)
  | .l2 d => ds.contains d
  | .crown n => ds.contains (8 + n)
  | .host => false

/-- A lost die's caches and directories: its dirty tracked lines are poisoned at their homes where those survive, and no entry names
it any more (R426, R428; log 35). -/
def State.dropDie (s : State) (d : Nat) : State :=
  let dirty := (s.die d).cache.lines.filter fun l => l.dirty != 0 && l.st != .si
  let s := dirty.foldl (fun s l => if s.homeLost (l.ln * 128) then s else s.setPoison (l.ln * 128)) s
  let gone (r : DirRef) : Bool := match r with
    | .cluster n => n / 4 == d
    | .die n => n == d
    | .package _ => false
  let s := s.modDie d fun x => { x with cache := { Cache.init with badWays := x.cache.badWays }, tlb := [] }
  let s := (upTo 16).foldl (fun s i => if d < 8 then s.modCore (16 * d + i) fun k =>
    { k with l1 := { Cache.init with badWays := k.l1.badWays }, tlb := [], storeq := [] } else s) s
  { s with
    dirs := (s.dirs.filter fun x => !gone x.1).map fun x =>
      (x.1, (x.2.holders.filter (holderOn [d])).foldl (fun (e : DirEntry) h => e.leave h) x.2)
    walkc := s.walkc.filter fun w => 8 + w.crown != d }

/-- What a lost crown serves: its edge queues are disabled, and its half of the package directory waits for the census (R427, R428). -/
def State.dropCrown (s : State) (d : Nat) : State :=
  let k := d - 8
  let s := ((s.queues.keys.filter fun q => q / 512 == k)).foldl State.disableQueue s
  let s := s.modDie d fun x => { x with census := some s.clk }
  { s with dirs := s.dirs.map fun x => (x.1, if x.1 = .package k then { x.2 with poisonPend := true, busy := [] } else x.2) }

/-- The ports of a brim (R386). -/
def brimPorts (d : Nat) : List Nat := (upTo 16).map fun i => 16 * (d - 10) + i

/-- Traffic leaves a lost brim's ports, whose states stand; a host port's reservations are released and its buffers discarded (R390,
R407, R427, R454). -/
def State.dropBrim (s : State) (d : Nat) : State :=
  let s := (brimPorts d).foldl State.moveTraffic s
  if d = 10 ∨ d = 12 then
    let p := (d - 10) / 2
    let s := { s with queues := s.queues.mapKV fun _ (q : Queue) => { q with hostRsv := q.hostRsv.filter (· != p) } }
    s.modHPort p fun h => { h with bufs := [], hierrV := false, hierrCause := 0, hierrOff := 0 }
  else s

/-- A C-die's cores at its reset; their copy requests end with their contexts (R441). -/
def State.resetCores (s : State) (d : Nat) : State :=
  (upTo 16).foldl (fun s i =>
    let c := 16 * d + i
    s.modCore c fun k => { Core.init c with clock := 0 - BitVec.ofNat 64 s.clk, winStart := s.clk, copyq := k.copyq, matq := k.matq }) s

/-- The descriptors of a crown's edge queues at its reset; what they hold of launches stays with the launch engine (R13, R256). -/
def State.resetQueues (s : State) (k : Nat) : State :=
  { s with queues := s.queues.mapKV fun q (x : Queue) =>
      if q / 512 = k then { x with size := 0, xpost := false, ctx := 0, en := false, base := 0, err := 0 } else x }

/-- A die's registers at its reset (R13, R390, R441, R442). -/
def State.resetDie (s : State) (d : Nat) : State :=
  let s := s.modDie d fun x =>
    { Die.init with lost := x.lost, census := x.census
                    attested := { x.attested with st := 0, nrst := (x.attested.nrst + 1) % 2 ^ 16 } }
  let s := if d < 8 then s.resetCores d else if d < 10 then s.resetQueues (d - 8) else (brimPorts d).foldl State.portReset s
  ((linksOf d).foldl (fun s n => s.setLink n
    { failed := false, dirs := (s.link n).dirs.map fun (h : Chan) => { Chan.init with wire := h.wire } }) s).resendChunks

/-- The HSTAT register (R447). -/
def State.hstat (s : State) : Nat :=
  ((upTo 14).map fun d => if (s.die d).attested.st = 3 then 2 ^ (32 + d) else 0).sum
    + ((upTo 4).map fun k => if (s.die (10 + k)).farOk then 2 ^ (4 + k) else 0).sum + b2n s.ready

/-- A change of HSTAT raises vector 2 (R451). -/
def State.hstatFrom (s old : State) : State := if s.hstat = old.hstat then s else s.raiseV 2

/-- A die is lost, by a reset of it alone or otherwise (R427, R435, R441): it is isolated, with the brims behind a crown; the contexts
that touched it fault, with one DieLost record. -/
def State.loseDie (s : State) (d : Nat) (reset : Bool) : State :=
  let old := s
  let ds := lostWith d
  let s := ds.foldl (fun s i => s.modDie i fun x => { x with lost := true }) s
  let s := if reset then s else s.modDie d fun x => { x with attested := { x.attested with st := 4, why := 6 } }
  let cs := s.lossCtxs ds
  let rec_ := Event.encode { kind := 0x09, die := d, info := (cs.map fun c => 2 ^ c).sum, clock := s.clk }
  let s := cs.foldl (fun s c =>
    let s : State := if (s.fslots.find c).isNone then { s with fslots := s.fslots.put c rec_ } else s
    s.faultContext c) (s.eventRec rec_)
  let s := ds.foldl State.dropDie s
  let s := if d = 8 ∨ d = 9 then s.dropCrown d else s
  let s := (ds.filter (10 ≤ ·)).foldl State.dropBrim s
  (if reset then s.resetDie d else s).hstatFrom old

/-- A die that has no link left, or that reports a fatal error or misses its heartbeat (flag), is lost (R427). -/
def execDieLoss (s : State) : Host.Outcome State Fault Refusal :=
  let d := s.ev.die
  .next (if d < 14 ∧ ¬ (s.die d).lost ∧ (s.ev.flag ∨ (linksOf d).all fun n => (s.link n).failed) then s.loseDie d false else s)

/-- The CT lines that a surviving C-die's L2 reports for a directory half (R428). -/
def State.censusOf (s : State) (k d : Nat) : List (Nat × Holder × Bool × Bool) :=
  if (s.die d).lost then []
  else ((s.die d).cache.lines.filter fun l => l.st != .si && l.st != .ro && pkgDir l.ln == .package k).map
    fun l => (l.ln, .l2 d, l.st == .e || l.st == .m, l.st == .o)

/-- An entry for one line from the reports (R428). -/
def censusEntry (now : Nat) (rs : List (Nat × Holder × Bool × Bool)) (ln : Nat) : DirEntry :=
  let mine := rs.filter fun r => r.1 == ln
  let own := mine.find? fun r => r.2.2.1 || r.2.2.2
  { base := ln * 128, log2 := 7, holders := mine.map (·.2.1), owner := own.map (·.2.1), busy := [], queue := [], last := now
    poisonPend := false, st := match own with
      | some r => if r.2.2.1 then .x else .o
      | none => .s }

/-- The census of a lost crown (R428): the surviving crown homes the whole directory, with entries built from the C-dies' reports; the
host holds none of the half's lines any more, and the requests that waited are taken up. -/
def State.takeCensus (s : State) (d : Nat) : State :=
  match (s.die d).census with
  | none => s
  | some t =>
    let k := d - 8
    let rs := (upTo 8).flatMap fun i => s.censusOf k i
    let lines := distinct (rs.map (·.1))
    let waiting := s.dirs.flatMap fun x => if x.1 = .package k then x.2.queue else []
    let rest := s.dirs.filter fun (x : DirRef × DirEntry) => x.1 != DirRef.package k
    let s := { s with dirs := lines.map (fun l => (DirRef.package k, censusEntry s.clk rs l)) ++ rest }
    let s := s.modDie d fun x => { x with census := none }
    let s := waiting.foldl (fun s r => s.dirAsk (.package k) r) s
    s.event { kind := 0x0A, die := d, info := s.clk - t, aux := lines.length }

def execCensus (s : State) : Host.Outcome State Fault Refusal :=
  let d := s.ev.die
  .next (if (d = 8 ∨ d = 9) ∧ ¬ (s.die (17 - d)).lost then s.takeCensus d else s)

/-- A returning C-die's stack is zero and without poison (R429). -/
def State.zeroStack (s : State) (d : Nat) : State :=
  let a := d * 0x0C00000000
  { s with mem := s.mem.filter fun c => !(decide (a ≤ c.1) && decide (c.1 < a + 0x0C00000000))
           poison := s.poison.filter fun l => !(decide (a ≤ l * 128) && decide (l * 128 < a + 0x0C00000000)) }.modDie d
    fun x => { x with zeroed := true }

def execStackZeroing (s : State) : Host.Outcome State Fault Refusal :=
  let d := s.ev.die
  .next (if d < 8 ∧ (s.die d).attested.st = 0 ∧ (s.die d).attested.nrst ≠ 0 ∧ ¬ (s.die d).zeroed then s.zeroStack d else s)

/-! ### Temperature and power (R430, R431, R453) -/

/-- TEMP of a reading lies above a limit in °C (R430). -/
def hotter (temp : BitVec 16) (limit : Nat) : Bool := decide ((16 * limit : Int) < temp.toInt)

/-- A reading of TEMP is stored; above TWARN the die throttles, with one Thermal record when that begins, and the count toward TCRIT
runs while TEMP is above it (R430, R431). -/
def execThermalThrottle (s : State) : Host.Outcome State Fault Refusal :=
  let d := s.ev.die
  let x := s.die d
  let t := s.ev.temp
  .next (if 14 ≤ d ∨ ¬ hotter t x.twarn then s
    else
      let s := s.modDie d fun x =>
        { x with montemp := t.toNat, throttled := true, critSince := if hotter t x.tcrit then some (x.critSince.getD s.clk) else none }
      if x.throttled then s else s.event { kind := 0x15, die := d, aux := t.toNat })

/-- TEMP has fallen to TWARN or below (R431). -/
def execThermalThrottleEnd (s : State) : Host.Outcome State Fault Refusal :=
  let d := s.ev.die
  .next (if d < 14 ∧ ¬ hotter s.ev.temp (s.die d).twarn then
      s.modDie d fun x => { x with montemp := s.ev.temp.toNat, throttled := false, critSince := none }
    else s)

/-- TEMP has exceeded TCRIT for 2^20 clk: the die is reset, as a loss (R431). -/
def execThermalReset (s : State) : Host.Outcome State Fault Refusal :=
  let d := s.ev.die
  .next (if d < 14 ∧ ¬ (s.die d).lost ∧ (s.die d).critSince.any fun t => decide (t + 1048576 ≤ s.clk) then s.loseDie d true else s)

/-- A reading of POWER, `ev.size` in W, above LIMIT: every die throttles (R453). -/
def execPowerThrottle (s : State) : Host.Outcome State Fault Refusal :=
  let w := s.ev.size % 2 ^ 16
  .next (if s.pwrLimit < w then { s with power := w, thr := true, thrSince := if s.thr then s.thrSince else s.clk } else s)

/-- 10 ms, 25,000,000 clk, above LIMIT (R453). -/
def execPowerThrottleDeep (s : State) : Host.Outcome State Fault Refusal :=
  .next (if s.thr ∧ s.thrSince + 25000000 ≤ s.clk then { s with thrDeep := true } else s)

/-- A reading of POWER at LIMIT or below (R453). -/
def execPowerThrottleEnd (s : State) : Host.Outcome State Fault Refusal :=
  let w := s.ev.size % 2 ^ 16
  .next (if w ≤ s.pwrLimit then { s with power := w, thr := false, thrDeep := false } else s)

end Sys2Proof.Machine
end

