-- ==== Sys2Proof/Machine/Attest.lean ====
section
/-! DEFINITION. The attestation engine: start-up and measurement of dies, keys of die links and ports, rollovers, resets of one die
(16 R433 to R443; 17 R449). -/

namespace Sys2Proof.Machine

/-! ### Start-up and measurement (R435 to R437, R449) -/

/-- A die's attestation state replaced. -/
def State.setAt (s : State) (d st why : Nat) : State := s.modDie d fun x => { x with attested := { x.attested with st := st, why := why } }

/-- The root's own image has been checked (flag), at package reset or as brim[0] returns from a reset: brim[0] is Attested; after a
failure nothing further starts (R434, R437, R449). -/
def execPackageStart (s : State) : Host.Outcome State Fault Refusal :=
  .next (if s.ev.flag && (s.die 10).attested.st == 0 then { s with anchok := true }.setAt 10 2 (s.die 10).attested.why else s)

/-- The order of measurement at package reset (R437). -/
def measureOrder : List Nat := [8, 9, 0, 1, 2, 3, 4, 5, 6, 7, 11, 12, 13]

/-- Every die before d in the order has been measured since the package reset. -/
def State.turnToMeasure (s : State) (d : Nat) : Bool :=
  (measureOrder.takeWhile (· != d)).all fun e => (s.die e).attested.nrst != 0 || decide (2 ≤ (s.die e).attested.st)

/-- The WHY code of a failed measurement (R442). -/
def whyOf : Measured → Nat
  | .accepted => 0
  | .certificate => 1
  | .firmware => 2
  | .measurement => 3
  | .session => 4

/-- A die whose reset has ended enters Measuring; then the root's checks make it Attested or Quarantined (R435, R436). A C-die
reset alone is measured after its stack is zero (R429). -/
def execDieMeasurement (s : State) : Host.Outcome State Fault Refusal :=
  let d := s.ev.die
  let a := (s.die d).attested
  .next (if !s.anchok || !measureOrder.contains d then s
    else if a.st = 0 then
      if (a.nrst = 0 ∧ s.turnToMeasure d) ∨ (a.nrst ≠ 0 ∧ (8 ≤ d ∨ (s.die d).zeroed)) then s.setAt d 1 a.why else s
    else if a.st = 1 then
      match s.ev.measured with
      | .accepted => s.setAt d 2 a.why
      | m => (s.setAt d 4 (whyOf m)).modDie d fun x => { x with lost := true }
    else s)

/-- The die has taken its steps of start-up, or takes none (R435, R437, R449). -/
def State.startDone (s : State) (d : Nat) : Bool :=
  let x := s.die d
  let dead := (linksOf d).all fun n => (s.die ((linkEnds n).1 + (linkEnds n).2 - d)).attested.st == 4
  x.attested.st == 4 || (x.attested.st == 3 && x.zeroed) || (x.attested.st == 2 && dead)

/-- A Keyed die's steps of start-up (R449): a C-die's stack is zero, a brim's far memory trained (flag); READY follows the last. -/
def State.startDie (s : State) (d : Nat) (trained : Bool) : State :=
  let old := s
  let s := if d < 8 then s.zeroStack d else s.modDie d fun x => { x with zeroed := true, farOk := decide (10 ≤ d) && trained }
  ({ s with ready := s.ready || (upTo 14).all s.startDone }).hstatFrom old

def execDieStart (s : State) : Host.Outcome State Fault Refusal :=
  let d := s.ev.die
  .next (if d < 14 ∧ (s.die d).attested.st = 3 ∧ ¬ (s.die d).zeroed then s.startDie d s.ev.flag else s)

/-! ### Keys of die links (R438, R439) -/

/-- A key and salt drawn by the root. -/
def State.drawKey (s : State) : KeySlot × State :=
  ({ key := Config.rootKey s.keysDrawn, salt := Config.rootSalt s.keysDrawn }, { s with keysDrawn := s.keysDrawn + 1 })

/-- A direction with its first key in slot 0 at both ends. -/
def Chan.firstKey (k : KeySlot) (now : Nat) (h : Chan) : Chan :=
  { Chan.init with wire := h.wire, txKeys := [some k, none], rxKeys := [some k, none], lastKey := now, ackClk := now }

/-- A direction has a key in use. -/
def Chan.keyed (h : Chan) : Bool := (h.rxKeys.getD h.rxKi none).isSome && (h.txKeys.getD h.txKi none).isSome

def DieLink.keyed (l : DieLink) : Bool := l.dirs.all Chan.keyed

/-- The other end of a link. -/
def otherEnd (n d : Nat) : Nat := (linkEnds n).1 + (linkEnds n).2 - d

/-- An Attested die becomes Keyed once its links to Keyed dies have keys, unless all its links lead to Quarantined dies; brims that
were out of reach behind a crown are reached again (R435, R437). -/
def State.tryKeyed (s : State) (d : Nat) : State :=
  let ok (n : Nat) : Bool := (s.die (otherEnd n d)).attested.st != 3 || (s.link n).keyed
  let alone := (linksOf d).all fun n => (s.die (otherEnd n d)).attested.st == 4
  if (s.die d).attested.st = 2 ∧ (linksOf d).all ok ∧ ¬ alone then
    let s := s.setAt d 3 (s.die d).attested.why
    ((lostWith d).foldl (fun s i => if (s.die i).attested.st = 3 then s.modDie i fun x => { x with lost := false } else s) s).sendWaiting
  else s

/-- Both directions of a link are given keys: receive slot 0 of each, then transmit slot 0 of each (R438, R439). -/
def State.keyLink (s : State) (n : Nat) : State :=
  let (a, s) := s.drawKey
  let (b, s) := s.drawKey
  let l := s.link n
  let s := s.setLink n { l with dirs := (l.dirs.zip [a, b]).map fun (x : Chan × KeySlot) => x.1.firstKey x.2 s.clk }
  ((s.tryKeyed (linkEnds n).1).tryKeyed (linkEnds n).2)

/-- An installation reported to a receive slot that holds a live key: the reporting die is quarantined (R439, R442 WHY 5). -/
def State.badReport (s : State) (d : Nat) : State := (s.loseDie d false).setAt d 4 5

/-- First keys of a die link; on one that needs none, ends that now meet R435's condition become Keyed. -/
def State.installLink (s : State) (n reporter : Nat) : State :=
  let (a, b) := linkEnds n
  let up (d : Nat) : Bool := (s.die d).attested.st == 2 || (s.die d).attested.st == 3
  if n ≥ 21 then s
  else if (s.link n).failed ∨ ¬ up a ∨ ¬ up b then ((s.tryKeyed a).tryKeyed b).hstatFrom s
  else if (s.link n).keyed then
    if (reporter = a ∨ reporter = b) ∧ ¬ (s.die reporter).lost then s.badReport reporter else ((s.tryKeyed a).tryKeyed b).hstatFrom s
  else (s.keyLink n).hstatFrom s

/-! ### Keys of ports (R390, R438, R439) -/

/-- A slot from 36 bytes of a session's output: the key, then the salt. -/
def slotOf (x : BitVec 288) : KeySlot := { key := x.extractLsb' 0 256, salt := x.extractLsb' 256 32 }

/-- A port in Attest: with its peer accepted, keys are installed in both directions and it is Up; refused, it fails (R390, R439). -/
def State.installPort (s : State) (p : Nat) (m : Measured) : State :=
  if 64 ≤ p ∨ (s.port p).st ≠ .attest then s
  else
    match m with
    | .accepted =>
      let n := s.keysDrawn
      let h := { Chan.init with
        wire := (s.port p).ch.wire, txKeys := [some (slotOf (Config.sessionKey n 0 true)), none]
        rxKeys := [some (slotOf (Config.sessionKey n 0 false)), none], lastKey := s.clk, ackClk := s.clk, session := n }
      ({ s with keysDrawn := n + 1 }.modPort p fun x => { x with st := .up, since := s.clk, ch := h }).sendWaiting
    | _ => s.failPort p

def execKeyInstall (s : State) : Host.Outcome State Fault Refusal :=
  .next (match s.ev.lref with
    | .die n => s.installLink n s.ev.die
    | .port p => s.installPort p s.ev.measured)

/-! ### Rollover (R391, R440) -/

/-- The new key of a rollover is installed in the idle receive slot; the transmitter's waits for the report. -/
def Chan.startRoll (rx tx : KeySlot) (now : Nat) (h : Chan) : Chan :=
  let slot := 1 - h.rxKi
  { h with rxKeys := Machine.setAt h.rxKeys slot (some rx), roll := some (slot, tx, now), nroll := h.nroll + 1 }

/-- The installation is reported: the transmitter's next group is sent under the new slot (R391). -/
def Chan.endRoll (now : Nat) (h : Chan) : Chan :=
  match h.roll with
  | some (_, k, _) =>
    let slot := 1 - h.txKi
    { h with txKeys := Machine.setAt h.txKeys slot (some k), txKi := slot, txEpoch := 0, roll := none, lastKey := now }
  | none => h

/-- An abandoned rollover: the link keeps its key (R440). -/
def Chan.dropRoll (interval : Nat) (h : Chan) : Chan :=
  match h.roll with
  | some (slot, _, _) =>
    { h with rxKeys := if slot = h.rxKi then h.rxKeys else Machine.setAt h.rxKeys slot none, roll := none
             lastKey := h.lastKey + interval }
  | none => h

/-- A rollover is due on a direction: its interval has passed, and no earlier key is still kept (R440). -/
def State.rollDue (s : State) (h : Chan) : Bool :=
  h.keyed && h.roll.isNone && decide (h.lastKey + 2 ^ s.keyint ≤ s.clk)
    && (h.rxKeys.getD (1 - h.rxKi) none).isNone && (h.txKeys.getD (1 - h.txKi) none).isNone

/-- A link's rollover is due or in progress. -/
def State.linkRolls (s : State) (n : Nat) : Bool :=
  s.linkOk n && (s.link n).dirs.any fun h => s.rollDue h || h.roll.isSome

/-- No link of the same dies with a lower number has a rollover to make first (R440). -/
def State.turnToRoll (s : State) (n : Nat) : Bool :=
  let mine := linksOf (linkEnds n).1 ++ linksOf (linkEnds n).2
  !(mine.any fun m => decide (m < n) && s.linkRolls m) && !(mine.any fun m => m != n && s.linkOk m && (s.link m).dirs.any fun h => h.roll.isSome)

/-- A rollover of a die link starts, or the one in progress is completed (R391, R440). -/
def State.rollLink (s : State) (n : Nat) : State :=
  let l := s.link n
  if n ≥ 21 ∨ ¬ s.linkOk n then s
  else if l.dirs.all fun h => h.roll.isSome then s.setLink n { l with dirs := l.dirs.map fun (h : Chan) => h.endRoll s.clk }
  else if l.dirs.all (fun h => s.rollDue h) && s.turnToRoll n then
    let (a, s) := s.drawKey
    let (b, s) := s.drawKey
    s.setLink n { l with dirs := (l.dirs.zip [a, b]).map fun (x : Chan × KeySlot) => x.1.startRoll x.2 x.2 s.clk }
  else s

/-- A rollover of a port, in both its directions. -/
def State.rollPort (s : State) (p : Nat) : State :=
  let x := s.port p
  if 64 ≤ p ∨ x.st ≠ .up then s
  else if x.ch.roll.isSome then s.setPort p { x with ch := x.ch.endRoll s.clk }
  else if s.rollDue x.ch then
    let k (out : Bool) : KeySlot := slotOf (Config.sessionKey x.ch.session (x.ch.nroll + 1) out)
    s.setPort p { x with ch := x.ch.startRoll (k false) (k true) s.clk }
  else s

def execKeyRollover (s : State) : Host.Outcome State Fault Refusal :=
  .next (match s.ev.lref with
    | .die n => s.rollLink n
    | .port p => s.rollPort p)

/-- A rollover has stood unacknowledged for 2^24 clk (R440). -/
def Chan.rollLate (now : Nat) (h : Chan) : Bool := h.roll.any fun r => decide (r.2.2 + 16777216 ≤ now)

def execRolloverAbandon (s : State) : Host.Outcome State Fault Refusal :=
  .next (match s.ev.lref with
    | .die n =>
      let l := s.link n
      if n < 21 ∧ l.dirs.any (Chan.rollLate s.clk) then
        s.setLink n { l with dirs := l.dirs.map fun (h : Chan) => h.dropRoll (2 ^ s.keyint) } else s
    | .port p =>
      let x := s.port p
      if p < 64 ∧ x.ch.rollLate s.clk then s.setPort p { x with ch := x.ch.dropRoll (2 ^ s.keyint) } else s)

/-! ### Reset of one die (R441, R442) -/

/-- ATDIE.RST: the die is reset alone, which counts as its loss; ignored for brim[0] and in Reset or Measuring (R441 to R443). -/
def State.rstDie (s : State) (d : Nat) : State :=
  let st := (s.die d).attested.st
  if d ≥ 14 ∨ d = 10 ∨ st ≤ 1 then s
  else if st = 4 then (s.resetDie d).hstatFrom s
  else s.loseDie d true

/-- The reserved bits of an ATDIE register (R442). -/
def atdieRes : Nat := maskOf 63 32 + maskOf 15 13 + maskOf 7 3

/-- System software writes RST in a die's ATDIE through the register window (R5, R441, R442). -/
def execAtdieRst (s : State) : Host.Outcome State Fault Refusal :=
  let d := s.ev.die
  let v := s.ev.v.toNat
  .next (if d < 14 ∧ bitOf v 12 then s.windowWrite 10 (0x600000 + 8 * d) atdieRes v fun s => s.rstDie d else s)

end Sys2Proof.Machine
end

