-- ==== Sys2Proof/Machine/HostIf.lean ====
section
/-! DEFINITION. The host interface: the device register window, the posting windows, CXL.mem, DOE and management (17 R444 to R454;
and the register layouts of 06 R174, R175, R191 to R193; 09 R256, R257; 10 R299; 11 R325; 14 R398, R405, R406; 15 R416, R419,
R420, R430; 16 R442). -/

namespace Sys2Proof.Machine

/-- What a register is to an access that would write v: its reserved bits, its value, and the state a write leaves. -/
structure RegAcc where
  res : Nat
  val : Nat
  put : State → State


/-- A 32-bit special register of a core in its 64-bit slot (R446): PARK_TH and AGE_LIMIT take no value outside their range. -/
def State.coreReg (s : State) (d r v : Nat) : Option RegAcc :=
  let c := 16 * d + r / 0x100
  let k := s.core c
  let w : Word := BitVec.ofNat 32 v
  let set (f : Core → Core) (s : State) : State := s.modCore c f
  if d ≥ 8 ∨ r ≥ 0x1000 then none
  else if r % 0x100 = 0x00 then
    some { res := mgnCtlRes, val := k.mgnCtl.toNat, put := fun s => s.mgnCtlPut c v }
  else if r % 0x100 = 0x08 then some { res := maskOf 63 32, val := k.mgnStat.toNat, put := set fun k => k.setMgnStat w }
  else if r % 0x100 = 0x10 then some { res := mgnLimitRes, val := k.mgnLimit.toNat, put := set fun k => k.setMgnLimit w }
  else if r % 0x100 = 0x18 then
    some { res := maskOf 63 7, val := k.parkTh, put := set fun k => if v % 128 ≤ 64 then { k with parkTh := v % 128 } else k }
  else if r % 0x100 = 0x20 then
    some { res := maskOf 63 16, val := k.ageLimit, put := set fun k => if 16 ≤ v % 65536 then { k with ageLimit := v % 65536 } else k }
  else none

/-- LOGBASE (R416), the retention registers (R299) and the monitors (R430) of a die. -/
def State.dieReg (s : State) (d r v : Nat) : Option RegAcc :=
  let x := s.die d
  let set (f : Die → Die) (s : State) : State := s.modDie d f
  if 14 ≤ d then none
  else if r = 0x500000 then
    some { res := maskOf 63 48 + maskOf 39 32, val := x.monproc % 256 * 2 ^ 40 + x.monvmin % 65536 * 2 ^ 16 + x.montemp % 65536, put := fun s => s }
  else if r = 0x500008 then
    some { res := maskOf 63 16, val := x.tcrit * 2 ^ 8 + x.twarn, put := set fun x =>
      if bits v 7 0 + 5 ≤ bits v 15 8 then { x with tcrit := bits v 15 8, twarn := bits v 7 0 } else x }
  else if d ≥ 8 then none
  else if r = 0x200000 then
    let base := bits v 42 24 * 2 ^ 24
    some { res := maskOf 63 43 + maskOf 23 1, val := x.logBase + b2n x.logEn, put := set fun x =>
      if d * 0x0C00000000 ≤ base ∧ base < (d + 1) * 0x0C00000000 then { x with logBase := base, logEn := bitOf v 0 } else x }
  else if 0x100000 ≤ r ∧ r < 0x104000 then
    let i := (r - 0x100000) / 0x40
    let g := x.range (i / 4) (i % 4)
    let cnt (f : Retain → Retain) (s : State) : State := s.modRange d (i / 4) (i % 4) f
    let o := (r - 0x100000) % 0x40
    if o = 0x00 then some { res := maskOf 63 55, val := g.base, put := fun s => s }
    else if o = 0x08 then some { res := maskOf 63 33, val := b2n g.v * 2 ^ 32 + g.len % 2 ^ 32, put := fun s => s }
    else if o = 0x10 then some { res := maskOf 63 48, val := g.fill, put := cnt fun g => { g with fill := v % 2 ^ 48 } }
    else if o = 0x18 then some { res := maskOf 63 48, val := g.ovf, put := cnt fun g => { g with ovf := v % 2 ^ 48 } }
    else if o = 0x20 then some { res := maskOf 63 48, val := g.hit, put := cnt fun g => { g with hit := v % 2 ^ 48 } }
    else none
  else none

/-- The edge queues of a crown (R256). -/
def State.queueReg (s : State) (d r v : Nat) : Option RegAcc :=
  let n := 512 * (d - 8) + (r - 0x10000) / 0x20
  let q := s.queue n
  if d < 8 ∨ d > 9 ∨ r < 0x10000 ∨ r ≥ 0x14000 then none
  else if r % 0x20 = 0x00 then
    some { res := eqRes 0, val := q.size * 2 ^ 32 + b2n q.xpost * 2 ^ 26 + q.ctx * 2 ^ 20 + b2n q.en
           put := fun s => s.eqctlPut n v }
  else if r % 0x20 = 0x08 then some { res := eqRes 1, val := q.base, put := fun s => s.eqbasePut n v }
  else if r % 0x20 = 0x10 then
    some { res := eqRes 2, val := q.err * 2 ^ 32 + q.queued * 2 ^ 16 + q.free, put := fun s => s.eqstatPut n v }
  else none

/-- STATE of a context (R257). -/
def CtxState.code : CtxState → Nat
  | .free => 0
  | .active => 1
  | .switchedOut => 2
  | .faulted => 3

/-- CTXD0 and CTXD1 of a context, on crown[0] and, kept identical, on crown[1] (R257, R429; log 83). -/
def State.ctxReg (s : State) (d r v : Nat) : Option RegAcc :=
  let c := (r - 0x20000) / 0x10
  let x := s.ctx c
  if (d ≠ 8 ∧ d ≠ 9) ∨ r < 0x20000 ∨ r ≥ 0x20400 then none
  else if r % 0x10 = 0 then
    some { res := ctxd0Res
           val := x.rngkey.toNat * 2 ^ 32 + x.slice * 2 ^ 16 + b2n x.priv * 2 ^ 6 + x.prio * 2 ^ 4 + x.st.code
           put := fun s => s.ctxd0Put c v }
  else if r % 0x10 = 8 then
    some { res := maskOf 63 52 + maskOf 15 14, val := x.ptroot + x.tdm.toNat
           put := fun s => s.modCtx c fun x => if x.st = .free then { x with ptroot := bits v 51 16 * 65536 } else x }
  else none

/-- CMDSTAT.ERR set: a range command was turned away (R325). -/
def State.cmdErr (s : State) : State := { s with xregs := { s.xregs with cmderr := true } }

/-- The fields that CMDCTL keeps of a written value (R325). -/
def State.cmdKeep (s : State) (v : Nat) : State :=
  { s with xregs := { s.xregs with cmdctl := BitVec.ofNat 64 (bits v 24 24 * 2 ^ 24 + bits v 23 16 * 2 ^ 16 + bits v 13 8 * 2 ^ 8) } }

/-- The range command that CMDCTL = v starts (R325). -/
def State.cmdStart (s : State) (v : Nat) : State :=
  let n := bits v 23 16
  { s with cmd := some { op := bits v 2 0, ctx := bits v 13 8, first := alignDown (bits s.xregs.cmdaddr.toNat 54 16) (2 ^ n)
                         count := 2 ^ n, all := bitOf v 24 && bits v 2 0 != 2, since := s.clk, ran := false } }

/-- A write of CMDCTL (R325). -/
def State.cmdctlPut (s : State) (v : Nat) : State :=
  let op := bits v 2 0
  if s.cmd.isSome then if op = 0 then s else s.cmdErr
  else if op = 0 then s.cmdKeep v
  else if op > 3 ∨ bits v 23 16 > 39 ∨ (op = 2 ∧ bits s.xregs.cmdaddr.toNat 54 43 ≠ 0) then (s.cmdKeep v).cmdErr
  else (s.cmdKeep v).cmdStart v

/-- The translation engine's registers, on both crowns (R325, R429). -/
def State.xlatReg (s : State) (d r v : Nat) : Option RegAcc :=
  let x := s.xregs
  let set (f : XRegs → XRegs) (s : State) : State := { s with xregs := f s.xregs }
  if d ≠ 8 ∧ d ≠ 9 then none
  else if r = 0x300000 then
    some { res := maskOf 63 55 + maskOf 15 0, val := x.cmdaddr.toNat, put := set fun x => { x with cmdaddr := BitVec.ofNat 64 v } }
  else if r = 0x300008 then
    some { res := maskOf 63 25 + maskOf 15 14 + maskOf 7 3, val := x.cmdctl.toNat, put := fun s => s.cmdctlPut v }
  else if r = 0x300010 then
    some { res := maskOf 63 2, val := b2n x.cmderr * 2 + b2n s.cmd.isSome, put := set fun x => { x with cmderr := x.cmderr && !bitOf v 1 } }
  else if r = 0x300018 then
    some { res := maskOf 63 43 + maskOf 15 1, val := x.fctBase + b2n x.fctEn, put := set fun x =>
      { x with fctBase := bits v 42 16 * 65536, fctEn := bitOf v 0 } }
  else if r = 0x300020 then
    let n := bits v 4 0
    some { res := maskOf 63 43 + maskOf 15 5, val := x.pfqBase + x.pfqSize, put := set fun x =>
      if n = 0 ∨ (11 ≤ n ∧ n ≤ 20) then { x with pfqBase := bits v 42 16 * 65536, pfqSize := n } else x }
  else if r = 0x300028 then
    some { res := maskOf 63 52 + maskOf 31 20, val := x.pfqHead * 2 ^ 32 + x.pfqTail, put := set fun x => { x with pfqHead := bits v 51 32 } }
  else if r = 0x300030 then
    some { res := maskOf 63 32 + maskOf 15 1, val := x.quiet * 2 ^ 16 + b2n x.merge, put := set fun x =>
      { x with quiet := bits v 31 16, merge := bitOf v 0 } }
  else none

/-- The reserved bits of an event record (R417). -/
def eventRes : Nat := maskOf 483 448 + maskOf 296 256 + maskOf 75 64 + maskOf 31 0

/-- The containment registers and the fault slots, on both crowns (R419, R420, R429). -/
def State.cnReg (s : State) (d r v : Nat) : Option RegAcc :=
  let k := s.cn
  let set (f : CnRegs → CnRegs) (s : State) : State := { s with cn := f s.cn }
  if d ≠ 8 ∧ d ≠ 9 then none
  else if r = 0x400000 then
    let n := bits v 4 0
    some { res := maskOf 63 43 + maskOf 11 5, val := k.evBase + k.evSize, put := set fun k =>
      if n = 0 ∨ (8 ≤ n ∧ n ≤ 20) then { k with evBase := bits v 42 12 * 4096, evSize := n } else k }
  else if r = 0x400008 then
    some { res := maskOf 63 52 + maskOf 31 20, val := k.evHead * 2 ^ 32 + k.evTail, put := set fun k => { k with evHead := bits v 51 32 } }
  else if r = 0x400010 then some { res := maskOf 63 32, val := k.lost, put := set fun k => { k with lost := bits v 31 0 } }
  else if r = 0x400018 then
    some { res := maskOf 63 32 + maskOf 7 0, val := k.fceth * 2 ^ 24 + k.rowth * 2 ^ 16 + k.wayth * 2 ^ 8, put := set fun k =>
      { k with fceth := bits v 31 24, rowth := bits v 23 16, wayth := bits v 15 8 } }
  else if r = 0x400020 then
    some { res := maskOf 63 43 + maskOf 15 1, val := k.fetBase + b2n k.fetEn, put := set fun k =>
      { k with fetBase := bits v 42 16 * 65536, fetEn := bitOf v 0 } }
  else if r = 0x400028 then some { res := spareRes, val := k.spares.length, put := fun s => s.sparePut v }
  else if r = 0x400030 then some { res := fretRes, val := 0, put := fun s => s.fretPut v }
  else if r = 0x400038 then some { res := maskOf 63 13, val := s.bfl.length, put := fun s => s }
  else if 0x410000 ≤ r ∧ r < 0x412000 then
    let at' (x : Nat) : Nat := (x >>> (8 * (r % 128))) % 2 ^ 64
    some { res := at' eventRes, val := at' (s.fslots.get ((r - 0x410000) / 128) 0).toNat, put := fun s => s }
  else none

/-- KLCTL, the route table and the import windows of brim[0] (R398, R405). -/
def State.klReg (s : State) (d r v : Nat) : Option RegAcc :=
  if d ≠ 10 then none
  else if r = 0x100000 then
    some { res := klctlRes, val := s.hopmax * 2 ^ 20 + s.pkgid, put := fun s => s.klctlPut v }
  else if 0x110000 ≤ r ∧ r < 0x110000 + 16 * 288 then
    let i := (r - 0x110000) / 16
    let e := s.routes.get i Route.init
    let set (e : Route) (s : State) : State := { s with routes := s.routes.put i e }.sendWaiting
    if r % 16 = 0 then some { res := 0, val := e.ports.toNat, put := set { e with ports := BitVec.ofNat 64 v } }
    else some { res := maskOf 63 1, val := b2n e.v, put := set { e with v := bitOf v 0 } }
  else if 0x120000 ≤ r ∧ r < 0x120400 then
    let i := (r - 0x120000) / 32
    let w := s.iwins.get i ImpWin.init
    let set (w : ImpWin) (s : State) : State := { s with iwins := s.iwins.put i w }
    if r % 32 = 0 then some { res := maskOf 63 43 + maskOf 15 0, val := w.base * 65536, put := set { w with base := bits v 42 16 } }
    else if r % 32 = 8 then some { res := maskOf 63 43 + maskOf 15 0, val := w.last * 65536, put := set { w with last := bits v 42 16 } }
    else if r % 32 = 16 then
      some { res := maskOf 63 49 + maskOf 38 38 + maskOf 30 14 + maskOf 7 5, val := w.ctl.toNat, put := set { w with ctl := BitVec.ofNat 64 v } }
    else none
  else none

/-- STATE of a port (R390). -/
def PortState.code : PortState → Nat
  | .off => 0
  | .training => 1
  | .attest => 2
  | .up => 3
  | .failed => 4

/-- A write of KPCTL (R406). -/
def State.kpctlPut (s : State) (p v : Nat) : State :=
  if bitOf v 0 then
    let s := s.portOn p
    if bitOf v 1 then s.portTrain p else s
  else s.portOff p

/-- The registers of the ports of a brim (R406). -/
def State.portRegs (s : State) (d r v : Nat) : Option RegAcc :=
  let n := 16 * (d - 10) + (r - 0x200000) / 0x40
  let p := s.port n
  let set (f : Port → Port) (s : State) : State := s.modPort n f
  if d < 10 ∨ 14 ≤ d ∨ r < 0x200000 ∨ r ≥ 0x200400 then none
  else if r % 0x40 = 0x00 then some { res := maskOf 63 2, val := b2n p.en, put := fun s => s.kpctlPut n v }
  else if r % 0x40 = 0x08 then
    some { res := maskOf 63 36 + maskOf 31 16 + maskOf 9 9
           val := p.st.code * 2 ^ 32 + p.ch.txKi * 2 ^ 15 + p.ch.rxKi * 2 ^ 14 + p.ch.fails % 16 * 2 ^ 10 + p.peer, put := fun s => s }
  else if r % 0x40 = 0x10 then some { res := maskOf 63 48, val := p.corr, put := set fun p => { p with corr := v % 2 ^ 48 } }
  else if r % 0x40 = 0x18 then some { res := maskOf 63 48, val := p.drop, put := set fun p => { p with drop := v % 2 ^ 48 } }
  else if r % 0x40 = 0x20 then some { res := maskOf 63 48, val := p.rpl, put := set fun p => { p with rpl := v % 2 ^ 48 } }
  else if r % 0x40 = 0x28 then some { res := maskOf 63 48, val := p.auth, put := set fun p => { p with auth := v % 2 ^ 48 } }
  else none

/-- The attestation registers (R442). -/
def State.atReg (s : State) (d r v : Nat) : Option RegAcc :=
  if d ≠ 10 then none
  else if 0x600000 ≤ r ∧ r < 0x600070 then
    let i := (r - 0x600000) / 8
    let a := (s.die i).attested
    some { res := atdieRes, val := a.nrst * 2 ^ 16 + a.why * 2 ^ 8 + a.st
           put := fun s => if bitOf v 12 then s.rstDie i else s }
  else if r = 0x600080 then
    some { res := maskOf 63 10 + maskOf 3 1, val := s.keyint * 2 ^ 4 + b2n s.anchok
           put := fun s => if 30 ≤ bits v 9 4 ∧ bits v 9 4 ≤ 44 then { s with keyint := bits v 9 4 } else s }
  else none

/-- HIERR, HSTAT, PWRCTL and PWRSTAT (R446, R447). -/
def State.hostReg (s : State) (d r v : Nat) : Option RegAcc :=
  if r = 0x700000 ∧ (d = 10 ∨ d = 12) then
    let h := s.hport ((d - 10) / 2)
    some { res := maskOf 59 36, val := b2n h.hierrV * 2 ^ 63 + h.hierrCause * 2 ^ 60 + h.hierrOff
           put := fun s => s.modHPort ((d - 10) / 2) fun h => { h with hierrV := h.hierrV && !bitOf v 63 } }
  else if d ≠ 10 then none
  else if r = 0x700008 then some { res := maskOf 63 46 + maskOf 31 8 + maskOf 3 1, val := s.hstat, put := fun s => s }
  else if r = 0x700010 then
    some { res := maskOf 63 16, val := s.pwrLimit
           put := fun s => if 1500 ≤ bits v 15 0 ∧ bits v 15 0 ≤ 4200 then { s with pwrLimit := bits v 15 0 } else s }
  else if r = 0x700018 then some { res := maskOf 63 17, val := b2n s.thr * 2 ^ 16 + s.power, put := fun s => s }
  else none

/-- The register at an 8-byte-aligned offset of a die's window. -/
def State.regAt (s : State) (d r v : Nat) : Option RegAcc :=
  [s.coreReg d r v, s.dieReg d r v, s.queueReg d r v, s.ctxReg d r v, s.xlatReg d r v, s.cnReg d r v, s.klReg d r v,
    s.portRegs d r v, s.atReg d r v, s.hostReg d r v].findSome? fun x => x

/-! ### Accesses of the host (R445, R448) -/


/-- An access to the register window: a read, or a write of a value (R445). -/
def State.bar0 (s : State) (p off size : Nat) (write : Option DWord) : State :=
  let d := off / 2 ^ 32
  let v := (write.map (·.toNat)).getD 0
  if size ≠ 8 ∨ off % 8 ≠ 0 then s.reject p 2 off size write.isNone
  else if d < 14 ∧ ¬ s.dieAnswers d (off % 2 ^ 32) then s.reject p 3 off 8 write.isNone
  else
    match s.regAt d (off % 2 ^ 32) v with
    | none => s.reject p 4 off 8 write.isNone
    | some a =>
      match write with
      | none => s.hostReply p a.val
      | some _ => if v &&& a.res ≠ 0 then s.reject p 1 off 8 false else a.put s

/-- An access to the posting window but for an HRES read and a write at +0x78: a word of a record buffer, or a rejection (R448). -/
def State.bar2 (s : State) (p off size : Nat) (write : Option DWord) : State :=
  let o := off % 0x1000
  match write with
  | some v =>
    if size ≠ 8 ∨ off % 8 ≠ 0 ∨ o ≥ 0x80 then s.reject p 5 off size false
    else if o = 0x78 then s
    else s.modHPort p fun h => { h with bufs := h.bufs.put (off / 0x1000) (overlayAt (h.buf (off / 0x1000)) o (toBytes 8 v.toNat)) }
  | none => if size = 8 ∧ o = 0x80 then s else s.reject p 5 off size true

/-- An access by port `ev.hport` at offset `ev.off` of BAR0, or with the flag of BAR2; of `ev.size` bytes; a write of `ev.write`
(R445, R448). -/
def execRegisterWrite (s : State) : Host.Outcome State Fault Refusal :=
  let e := s.ev
  .next (if 2 ≤ e.hport then s
    else if e.flag then (if e.off < 0x400000 then s.bar2 e.hport e.off e.size e.write else s)
    else if e.off < 0x1000000000 then s.bar0 e.hport e.off e.size e.write else s)

/-! ### CXL.mem (R315, R412, R449, R450, R454) -/

/-- Device memory that CXL.mem reaches: decoder 0 near DRAM, decoder 1 far memory (R444). -/
def hdmOk (pa n : Nat) : Bool := isDram pa && isDram (pa + n - 1) && decide (0 < n)

/-- The lines of a range served to the host by the package directory: true once each is (R309, R311, R315). -/
def State.hostLines (s : State) (pa n : Nat) (excl : Bool) : Bool × State :=
  (linesOf pa n).foldl (fun a ln => let r := (a.2.setExport 14 ln).dirServe (pkgDir ln) ln .host excl; (a.1 && r.1, r.2)) (true, s)

/-- A CXL.mem access before READY is rejected with cause 3; the spec gives it no BAR0 offset (R447, R449; log 69). -/
def State.notReady (s : State) (p : Nat) : State :=
  let (w, s) := s.free
  s.reject p 3 (w.toNat % 2 ^ 36) 0 false

/-- A host read of n bytes: poison, as an empty reply, before READY, of poisoned lines and where no home answers; otherwise the bytes,
dirty lines having been probed; the host becomes a holder (R27, R315, R412). False while it waits at the directory. -/
def State.hostRead (s : State) (p pa n : Nat) : Bool × State :=
  let out (b : List Byte) (s : State) : State := s.modHPort p fun h => { h with replies := h.replies ++ [b] }
  if !s.ready then (true, (out [] s).notReady p)
  else if s.absent pa then (true, out [] s)
  else match s.hostLines pa n false with
    | (false, s) => (false, s)
    | (true, s) =>
      let s := s.linesCleaned pa n
      (true, out (if s.badAt pa n then [] else s.peekN pa n) s)

/-- A host write: discarded before READY and where no home answers; the lines are taken from their holders; a line written whole loses
its poison; what hoods of resident teams it changes is noted (R48, R152, R409, R410, R449). False while it waits at the directory. -/
def State.hostWrite (s : State) (p pa : Nat) (b : List Byte) : Bool × State :=
  if !s.ready then (true, s.notReady p)
  else if s.absent pa then (true, s)
  else match s.hostLines pa b.length true with
    | (false, s) => (false, s)
    | (true, s) =>
      let s := (linesOf pa b.length).foldl (fun s ln => (s.lineTaken ln).dirLeave (pkgDir ln) ln .host) s
      (true, ((s.clearPoison pa b.length).pokeN pa b).upsetHoods pa b.length)

/-- A CXL.mem access is performed, or waits at the directory: false. -/
def State.hostAccess (s : State) (p : Nat) (a : HostAcc) : Bool × State :=
  match a.data with
  | some b => s.hostWrite p a.pa b
  | none => s.hostRead p a.pa a.size

/-- A CXL.mem access of a port: behind those that wait, else performed; it waits where it must (R152, R315). -/
def State.hostCome (s : State) (p : Nat) (a : HostAcc) : State :=
  let later (s : State) : State := s.modHPort p fun h => { h with waits := h.waits ++ [a] }
  if !(s.hport p).waits.isEmpty then later s
  else match s.hostAccess p a with
    | (true, s) => s
    | (false, s) => later s

/-- The first access of a port that waits tries again (R315). -/
def State.hostRetry (s : State) (p : Nat) : State :=
  match (s.hport p).waits with
  | [] => s
  | a :: _ => match s.hostAccess p a with
    | (true, s) => s.modHPort p fun h => { h with waits := h.waits.drop 1 }
    | (false, s) => s

/-- A read by port `ev.hport`; with the flag, the port's first waiting access tries again. -/
def execCxlMemRead (s : State) : Host.Outcome State Fault Refusal :=
  let e := s.ev
  .next (if 2 ≤ e.hport then s else if e.flag then s.hostRetry e.hport
    else if hdmOk e.pa e.size then s.hostCome e.hport { pa := e.pa, size := e.size, data := none } else s)

/-- A write by port `ev.hport`; with the flag, the port's first waiting access tries again. -/
def execCxlMemWrite (s : State) : Host.Outcome State Fault Refusal :=
  let e := s.ev
  .next (if 2 ≤ e.hport then s else if e.flag then s.hostRetry e.hport
    else if hdmOk e.pa e.bytes.length then s.hostCome e.hport { pa := e.pa, size := 0, data := some e.bytes } else s)

/-! ### DOE and management (R442, R452) -/

/-- The root answers an SPDM request of the host (R442). -/
def execDoeSpdmRequest (s : State) : Host.Outcome State Fault Refusal :=
  .next (if s.anchok then { s with doe := s.doe ++ [Config.spdmAnswer s.fresh s.ev.bytes], fresh := s.fresh + 1 } else s)

/-- The registers that the management controller reads: those of R446 and R430 (R452). -/
def mctpReads (r : Nat) : Bool :=
  r < 0x1000 || (0x10000 ≤ r && r < 0x20400) || (0x700000 ≤ r && r < 0x700020) || r == 0x500000 || r == 0x500008

/-- A request over MCTP: with bytes, an SPDM request forwarded to the root; with a value, a write of PWRCTL; otherwise a read of the
register at `ev.off` (R452). -/
def execMctpRequest (s : State) : Host.Outcome State Fault Refusal :=
  let e := s.ev
  .next (match e.bytes, e.write with
    | _ :: _, _ => { s with mctp := s.mctp ++ [Config.spdmAnswer s.fresh e.bytes], fresh := s.fresh + 1 }
    | [], some v =>
      if e.off = 10 * 2 ^ 32 + 0x700010 ∧ v.toNat < 65536 then
        match s.hostReg 10 0x700010 v.toNat with
        | some a => a.put s
        | none => s
      else s
    | [], none =>
      match s.regAt (e.off / 2 ^ 32) (e.off % 2 ^ 32) 0 with
      | some a => if mctpReads (e.off % 2 ^ 32) && e.off % 8 == 0 then { s with mctp := s.mctp ++ [toBytes 8 a.val] } else s
      | none => s)

end Sys2Proof.Machine
end

