-- ==== Sys2Proof/Machine/Dispatch.lean ====
section
/-! DEFINITION. The meaning of every constructor of `Instr`, one arm each. -/

namespace Sys2Proof.Machine

/-- The step an instruction or event makes of a state (00 R15; 95). -/
def exec (i : Instr) (s : State) : Host.Outcome State Fault Refusal :=
  match i with
  | .nonInstructionEncoding e len => Sys2Proof.Machine.execNonInstructionEncoding e len s
  | .nop h => Sys2Proof.Machine.execNop h s
  | .bra h off => Sys2Proof.Machine.execBra h off s
  | .brx h a => Sys2Proof.Machine.execBrx h a s
  | .call h off => Sys2Proof.Machine.execCall h off s
  | .callx h a => Sys2Proof.Machine.execCallx h a s
  | .ret h => Sys2Proof.Machine.execRet h s
  | .reform h => Sys2Proof.Machine.execReform h s
  | .exit h => Sys2Proof.Machine.execExit h s
  | .yield h => Sys2Proof.Machine.execYield h s
  | .sleep h b => Sys2Proof.Machine.execSleep h b s
  | .rgn h => Sys2Proof.Machine.execRgn h s
  | .trap h b => Sys2Proof.Machine.execTrap h b s
  | .trapRgn h b => Sys2Proof.Machine.execTrapRgn h b s
  | .tret h => Sys2Proof.Machine.execTret h s
  | .tretSkip h => Sys2Proof.Machine.execTretSkip h s
  | .tretRgn h => Sys2Proof.Machine.execTretRgn h s
  | .tretRd h d => Sys2Proof.Machine.execTretRd h d s
  | .bkpt h b => Sys2Proof.Machine.execBkpt h b s
  | .gets h d sel => Sys2Proof.Machine.execGets h d sel s
  | .sets h sel b => Sys2Proof.Machine.execSets h sel b s
  | .movk h dst b => Sys2Proof.Machine.execMovk h dst b s
  | .trapDelivery => Sys2Proof.Machine.execTrapDelivery s
  | .longLatencyResult => Sys2Proof.Machine.execLongLatencyResult s
  | .cardingDraw => Sys2Proof.Machine.execCardingDraw s
  | .strayDraw => Sys2Proof.Machine.execStrayDraw s
  | .issue => Sys2Proof.Machine.execIssue s
  | .overdueDraw => Sys2Proof.Machine.execOverdueDraw s
  | .stallSwap => Sys2Proof.Machine.execStallSwap s
  | .rotationSwap => Sys2Proof.Machine.execRotationSwap s
  | .yieldHoldEnd => Sys2Proof.Machine.execYieldHoldEnd s
  | .sleepEnd => Sys2Proof.Machine.execSleepEnd s
  | .registerCacheFill => Sys2Proof.Machine.execRegisterCacheFill s
  | .replay => Sys2Proof.Machine.execReplay s
  | .marginWindowEnd => Sys2Proof.Machine.execMarginWindowEnd s
  | .silentError => Sys2Proof.Machine.execSilentError s
  | .mgnCtlWrite => Sys2Proof.Machine.execMgnCtlWrite s
  | .mgnLimitWrite => Sys2Proof.Machine.execMgnLimitWrite s
  | .quarantineClear => Sys2Proof.Machine.execQuarantineClear s
  | .iadd o ty sat => Sys2Proof.Machine.execIadd o ty sat s
  | .iadd3 o ty sat => Sys2Proof.Machine.execIadd3 o ty sat s
  | .isub o ty sat => Sys2Proof.Machine.execIsub o ty sat s
  | .imul o ty sat => Sys2Proof.Machine.execImul o ty sat s
  | .imulh o ty => Sys2Proof.Machine.execImulh o ty s
  | .imad o ty sat => Sys2Proof.Machine.execImad o ty sat s
  | .imadw o ty sat => Sys2Proof.Machine.execImadw o ty sat s
  | .imin o ty => Sys2Proof.Machine.execImin o ty s
  | .imax o ty => Sys2Proof.Machine.execImax o ty s
  | .iabs o ty sat => Sys2Proof.Machine.execIabs o ty sat s
  | .ineg o ty sat => Sys2Proof.Machine.execIneg o ty sat s
  | .isad o ty => Sys2Proof.Machine.execIsad o ty s
  | .icmp o cc ty => Sys2Proof.Machine.execIcmp o cc ty s
  | .iaddc o sub p ty => Sys2Proof.Machine.execIaddc o sub p ty s
  | .and o w64 => Sys2Proof.Machine.execAnd o w64 s
  | .or o w64 => Sys2Proof.Machine.execOr o w64 s
  | .xor o w64 => Sys2Proof.Machine.execXor o w64 s
  | .not o w64 => Sys2Proof.Machine.execNot o w64 s
  | .tern o tbl w64 => Sys2Proof.Machine.execTern o tbl w64 s
  | .shl o w64 => Sys2Proof.Machine.execShl o w64 s
  | .shr o w64 => Sys2Proof.Machine.execShr o w64 s
  | .sar o w64 => Sys2Proof.Machine.execSar o w64 s
  | .rotl o w64 => Sys2Proof.Machine.execRotl o w64 s
  | .fshl o => Sys2Proof.Machine.execFshl o s
  | .popc o w64 => Sys2Proof.Machine.execPopc o w64 s
  | .clz o w64 => Sys2Proof.Machine.execClz o w64 s
  | .ctz o w64 => Sys2Proof.Machine.execCtz o w64 s
  | .brev o w64 => Sys2Proof.Machine.execBrev o w64 s
  | .bfx o sx => Sys2Proof.Machine.execBfx o sx s
  | .bfi o => Sys2Proof.Machine.execBfi o s
  | .prmt o => Sys2Proof.Machine.execPrmt o s
  | .mov o w => Sys2Proof.Machine.execMov o w s
  | .movl h d lit ty => Sys2Proof.Machine.execMovl h d lit ty s
  | .sel o p neg w64 => Sys2Proof.Machine.execSel o p neg w64 s
  | .lea o sh w64 zx => Sys2Proof.Machine.execLea o sh w64 zx s
  | .pset o z w64 => Sys2Proof.Machine.execPset o z w64 s
  | .plop h d a b lut => Sys2Proof.Machine.execPlop h d a b lut s
  | .p2v h d ext => Sys2Proof.Machine.execP2v h d ext s
  | .v2p h a mask ext => Sys2Proof.Machine.execV2p h a mask ext s
  | .fadd o m => Sys2Proof.Machine.execFadd o m s
  | .fmul o m => Sys2Proof.Machine.execFmul o m s
  | .ffma o m c => Sys2Proof.Machine.execFfma o m c s
  | .fmin o m => Sys2Proof.Machine.execFmin o m s
  | .fmax o m => Sys2Proof.Machine.execFmax o m s
  | .fcmp o cc m => Sys2Proof.Machine.execFcmp o cc m s
  | .fclass o => Sys2Proof.Machine.execFclass o s
  | .frnd o rm => Sys2Proof.Machine.execFrnd o rm s
  | .fscale o rm na aa => Sys2Proof.Machine.execFscale o rm na aa s
  | .ffrexp o exp => Sys2Proof.Machine.execFfrexp o exp s
  | .dadd o m => Sys2Proof.Machine.execDadd o m s
  | .dmul o m => Sys2Proof.Machine.execDmul o m s
  | .dfma o m c => Sys2Proof.Machine.execDfma o m c s
  | .dmin o m => Sys2Proof.Machine.execDmin o m s
  | .dmax o m => Sys2Proof.Machine.execDmax o m s
  | .dcmp o cc m => Sys2Proof.Machine.execDcmp o cc m s
  | .hadd2 o bf rm na nb => Sys2Proof.Machine.execHadd2 o bf rm na nb s
  | .hmul2 o bf rm na nb => Sys2Proof.Machine.execHmul2 o bf rm na nb s
  | .hfma2 o bf rm na nb nc => Sys2Proof.Machine.execHfma2 o bf rm na nb nc s
  | .hmin2 o bf na nb => Sys2Proof.Machine.execHmin2 o bf na nb s
  | .hmax2 o bf na nb => Sys2Proof.Machine.execHmax2 o bf na nb s
  | .rcp o => Sys2Proof.Machine.execRcp o s
  | .rsq o => Sys2Proof.Machine.execRsq o s
  | .sqrt o => Sys2Proof.Machine.execSqrt o s
  | .exp2 o => Sys2Proof.Machine.execExp2 o s
  | .log2 o => Sys2Proof.Machine.execLog2 o s
  | .sin o => Sys2Proof.Machine.execSin o s
  | .cos o => Sys2Proof.Machine.execCos o s
  | .tanh o => Sys2Proof.Machine.execTanh o s
  | .cvti o src ty rm => Sys2Proof.Machine.execCvti o src ty rm s
  | .cvtf o src dst rm => Sys2Proof.Machine.execCvtf o src dst rm s
  | .cvtq o fmt sat rm => Sys2Proof.Machine.execCvtq o fmt sat rm s
  | .cvtp o op rm => Sys2Proof.Machine.execCvtp o op rm s
  | .hash o k64 h64 => Sys2Proof.Machine.execHash o k64 h64 s
  | .crc32c o w => Sys2Proof.Machine.execCrc32c o w s
  | .rand h d b64 ext => Sys2Proof.Machine.execRand h d b64 ext s
  | .spack o e5m2 => Sys2Proof.Machine.execSpack o e5m2 s
  | .iaddC c => Sys2Proof.Machine.execIaddC c s
  | .isubC c => Sys2Proof.Machine.execIsubC c s
  | .imulC c => Sys2Proof.Machine.execImulC c s
  | .iminI32C c => Sys2Proof.Machine.execIminI32C c s
  | .iminN32C c => Sys2Proof.Machine.execIminN32C c s
  | .imaxI32C c => Sys2Proof.Machine.execImaxI32C c s
  | .imaxN32C c => Sys2Proof.Machine.execImaxN32C c s
  | .iabsC c => Sys2Proof.Machine.execIabsC c s
  | .inegC c => Sys2Proof.Machine.execInegC c s
  | .imulhI32C c => Sys2Proof.Machine.execImulhI32C c s
  | .imulhN32C c => Sys2Proof.Machine.execImulhN32C c s
  | .iaddSatI32C c => Sys2Proof.Machine.execIaddSatI32C c s
  | .isubSatI32C c => Sys2Proof.Machine.execIsubSatI32C c s
  | .iaddSatN32C c => Sys2Proof.Machine.execIaddSatN32C c s
  | .isubSatN32C c => Sys2Proof.Machine.execIsubSatN32C c s
  | .andC c => Sys2Proof.Machine.execAndC c s
  | .orC c => Sys2Proof.Machine.execOrC c s
  | .xorC c => Sys2Proof.Machine.execXorC c s
  | .notC c => Sys2Proof.Machine.execNotC c s
  | .shlC c => Sys2Proof.Machine.execShlC c s
  | .shrC c => Sys2Proof.Machine.execShrC c s
  | .sarC c => Sys2Proof.Machine.execSarC c s
  | .rotlC c => Sys2Proof.Machine.execRotlC c s
  | .popcC c => Sys2Proof.Machine.execPopcC c s
  | .clzC c => Sys2Proof.Machine.execClzC c s
  | .ctzC c => Sys2Proof.Machine.execCtzC c s
  | .brevC c => Sys2Proof.Machine.execBrevC c s
  | .movC c => Sys2Proof.Machine.execMovC c s
  | .faddC c => Sys2Proof.Machine.execFaddC c s
  | .fmulC c => Sys2Proof.Machine.execFmulC c s
  | .fminC c => Sys2Proof.Machine.execFminC c s
  | .fmaxC c => Sys2Proof.Machine.execFmaxC c s
  | .fscaleC c => Sys2Proof.Machine.execFscaleC c s
  | .frndRnC c => Sys2Proof.Machine.execFrndRnC c s
  | .hadd2F16C c => Sys2Proof.Machine.execHadd2F16C c s
  | .hmul2F16C c => Sys2Proof.Machine.execHmul2F16C c s
  | .hmin2F16C c => Sys2Proof.Machine.execHmin2F16C c s
  | .hmax2F16C c => Sys2Proof.Machine.execHmax2F16C c s
  | .hadd2Bf16C c => Sys2Proof.Machine.execHadd2Bf16C c s
  | .hmul2Bf16C c => Sys2Proof.Machine.execHmul2Bf16C c s
  | .hmin2Bf16C c => Sys2Proof.Machine.execHmin2Bf16C c s
  | .hmax2Bf16C c => Sys2Proof.Machine.execHmax2Bf16C c s
  | .cvtfF32I32C c => Sys2Proof.Machine.execCvtfF32I32C c s
  | .cvtfF32N32C c => Sys2Proof.Machine.execCvtfF32N32C c s
  | .cvtiI32F32RzC c => Sys2Proof.Machine.execCvtiI32F32RzC c s
  | .cvtiN32F32RzC c => Sys2Proof.Machine.execCvtiN32F32RzC c s
  | .crc32cC c => Sys2Proof.Machine.execCrc32cC c s
  | .part h op d => Sys2Proof.Machine.execPart h op d s
  | .vote h op neg d pa b => Sys2Proof.Machine.execVote h op neg d pa b s
  | .pick h mode delta d a b => Sys2Proof.Machine.execPick h mode delta d a b s
  | .tred h op ty d a b => Sys2Proof.Machine.execTred h op ty d a b s
  | .tscan h op ty exc d a b => Sys2Proof.Machine.execTscan h op ty exc d a b s
  | .matchEq h w64 d a b => Sys2Proof.Machine.execMatchEq h w64 d a b s
  | .collectiveResult => Sys2Proof.Machine.execCollectiveResult s
  | .barArv h lvl idx d => Sys2Proof.Machine.execBarArv h lvl idx d s
  | .barWait h lvl idx a => Sys2Proof.Machine.execBarWait h lvl idx a s
  | .barSync h lvl idx => Sys2Proof.Machine.execBarSync h lvl idx s
  | .barQ h lvl idx d => Sys2Proof.Machine.execBarQ h lvl idx d s
  | .barrierPhaseComplete => Sys2Proof.Machine.execBarrierPhaseComplete s
  | .launch h sys res d a b => Sys2Proof.Machine.execLaunch h sys res d a b s
  | .qres h d b => Sys2Proof.Machine.execQres h d b s
  | .qfree h => Sys2Proof.Machine.execQfree h s
  | .launchRecordCopy => Sys2Proof.Machine.execLaunchRecordCopy s
  | .launchStart => Sys2Proof.Machine.execLaunchStart s
  | .teamPlacement => Sys2Proof.Machine.execTeamPlacement s
  | .teamRetire => Sys2Proof.Machine.execTeamRetire s
  | .launchRetire => Sys2Proof.Machine.execLaunchRetire s
  | .timeSliceEnd => Sys2Proof.Machine.execTimeSliceEnd s
  | .switchOut => Sys2Proof.Machine.execSwitchOut s
  | .switchIn => Sys2Proof.Machine.execSwitchIn s
  | .contextCreate => Sys2Proof.Machine.execContextCreate s
  | .contextDestroy => Sys2Proof.Machine.execContextDestroy s
  | .eqctlWrite => Sys2Proof.Machine.execEqctlWrite s
  | .hresRead => Sys2Proof.Machine.execHresRead s
  | .hostPost => Sys2Proof.Machine.execHostPost s
  | .ld m ac => Sys2Proof.Machine.execLd m ac s
  | .st m ac => Sys2Proof.Machine.execSt m ac s
  | .lds m sc => Sys2Proof.Machine.execLds m sc s
  | .sts m sc => Sys2Proof.Machine.execSts m sc s
  | .pfch h a mem ex hint scope => Sys2Proof.Machine.execPfch h a mem ex hint scope s
  | .cctl h a mem op scope => Sys2Proof.Machine.execCctl h a mem op scope s
  | .pin h a b idx => Sys2Proof.Machine.execPin h a b idx s
  | .unpin h idx => Sys2Proof.Machine.execUnpin h idx s
  | .fence h ord scope => Sys2Proof.Machine.execFence h ord scope s
  | .atom m op => Sys2Proof.Machine.execAtom m op s
  | .cas m w64 c => Sys2Proof.Machine.execCas m w64 c s
  | .red m op => Sys2Proof.Machine.execRed m op s
  | .waitw h cond ord scope d a b => Sys2Proof.Machine.execWaitw h cond ord scope d a b s
  | .txq h d a => Sys2Proof.Machine.execTxq h d a s
  | .frq h d a => Sys2Proof.Machine.execFrq h d a s
  | .faultRecordEnter => Sys2Proof.Machine.execFaultRecordEnter s
  | .storeAccepted => Sys2Proof.Machine.execStoreAccepted s
  | .impreciseStoreFault => Sys2Proof.Machine.execImpreciseStoreFault s
  | .storeLogFlush => Sys2Proof.Machine.execStoreLogFlush s
  | .watchWake => Sys2Proof.Machine.execWatchWake s
  | .watchPoll => Sys2Proof.Machine.execWatchPoll s
  | .directoryRequest => Sys2Proof.Machine.execDirectoryRequest s
  | .probe => Sys2Proof.Machine.execProbe s
  | .probeAcknowledgement => Sys2Proof.Machine.execProbeAcknowledgement s
  | .entryMerge => Sys2Proof.Machine.execEntryMerge s
  | .cacheSleep => Sys2Proof.Machine.execCacheSleep s
  | .cacheWake => Sys2Proof.Machine.execCacheWake s
  | .hostSnoop => Sys2Proof.Machine.execHostSnoop s
  | .backInvalidateResponse => Sys2Proof.Machine.execBackInvalidateResponse s
  | .shoot => Sys2Proof.Machine.execShoot s
  | .flush => Sys2Proof.Machine.execFlush s
  | .wake => Sys2Proof.Machine.execWake s
  | .rangeCommandComplete => Sys2Proof.Machine.execRangeCommandComplete s
  | .kick h a mem => Sys2Proof.Machine.execKick h a mem s
  | .landi h scope a b => Sys2Proof.Machine.execLandi h scope a b s
  | .lwait h d a b => Sys2Proof.Machine.execLwait h d a b s
  | .lpoll h d a b => Sys2Proof.Machine.execLpoll h d a b s
  | .binc h d a b => Sys2Proof.Machine.execBinc h d a b s
  | .bhold h slot a => Sys2Proof.Machine.execBhold h slot a s
  | .brel h clr b => Sys2Proof.Machine.execBrel h clr b s
  | .cpyq h d => Sys2Proof.Machine.execCpyq h d s
  | .lwaitRecheck => Sys2Proof.Machine.execLwaitRecheck s
  | .copyRequestStart => Sys2Proof.Machine.execCopyRequestStart s
  | .chunkRead => Sys2Proof.Machine.execChunkRead s
  | .chunkWrite => Sys2Proof.Machine.execChunkWrite s
  | .landingEvent => Sys2Proof.Machine.execLandingEvent s
  | .chunkAcknowledgement => Sys2Proof.Machine.execChunkAcknowledgement s
  | .chunkResend => Sys2Proof.Machine.execChunkResend s
  | .heldDelivery => Sys2Proof.Machine.execHeldDelivery s
  | .mldw h fmt ns e d a b cv => Sys2Proof.Machine.execMldw h fmt ns e d a b cv s
  | .mldws h e5m2 e d a b cv => Sys2Proof.Machine.execMldws h e5m2 e d a b cv s
  | .mswap h e f => Sys2Proof.Machine.execMswap h e f s
  | .mma h fmt ns z e d a b c cv => Sys2Proof.Machine.execMma h fmt ns z e d a b c cv s
  | .mgmm h fmt ns bin e d a b c cv => Sys2Proof.Machine.execMgmm h fmt ns bin e d a b c cv s
  | .mclr h e d f => Sys2Proof.Machine.execMclr h e d f s
  | .macld h acc e d a b cv => Sys2Proof.Machine.execMacld h acc e d a b cv s
  | .macst h ofmt sx e sat clr d a b c cv rm => Sys2Proof.Machine.execMacst h ofmt sx e sat clr d a b c cv rm s
  | .macrd h e d a b => Sys2Proof.Machine.execMacrd h e d a b s
  | .mrow h op acc e d a f => Sys2Proof.Machine.execMrow h op acc e d a f s
  | .mfence h => Sys2Proof.Machine.execMfence h s
  | .mwait h e => Sys2Proof.Machine.execMwait h e s
  | .mwaitCv h e n b => Sys2Proof.Machine.execMwaitCv h e n b s
  | .mqry h clr e d => Sys2Proof.Machine.execMqry h clr e d s
  | .cvset h d b => Sys2Proof.Machine.execCvset h d b s
  | .sign h d a => Sys2Proof.Machine.execSign h d a s
  | .matrixOperationStart => Sys2Proof.Machine.execMatrixOperationStart s
  | .matrixOperationComplete => Sys2Proof.Machine.execMatrixOperationComplete s
  | .checksumMismatch => Sys2Proof.Machine.execChecksumMismatch s
  | .logicalMapRebuild => Sys2Proof.Machine.execLogicalMapRebuild s
  | .dieLinkDataFlit => Sys2Proof.Machine.execDieLinkDataFlit s
  | .dieLinkTagFlit => Sys2Proof.Machine.execDieLinkTagFlit s
  | .dieLinkControlFlit => Sys2Proof.Machine.execDieLinkControlFlit s
  | .dieLinkReplay => Sys2Proof.Machine.execDieLinkReplay s
  | .dieLinkOpenGroup => Sys2Proof.Machine.execDieLinkOpenGroup s
  | .entryRebuild => Sys2Proof.Machine.execEntryRebuild s
  | .kalsyDataFlit => Sys2Proof.Machine.execKalsyDataFlit s
  | .kalsyTagFlit => Sys2Proof.Machine.execKalsyTagFlit s
  | .kalsyControlFlit => Sys2Proof.Machine.execKalsyControlFlit s
  | .kalsyReplay => Sys2Proof.Machine.execKalsyReplay s
  | .ackTimeout => Sys2Proof.Machine.execAckTimeout s
  | .kalsyOpenGroup => Sys2Proof.Machine.execKalsyOpenGroup s
  | .portEnable => Sys2Proof.Machine.execPortEnable s
  | .portDisable => Sys2Proof.Machine.execPortDisable s
  | .train => Sys2Proof.Machine.execTrain s
  | .trainingLock => Sys2Proof.Machine.execTrainingLock s
  | .trainingTimeout => Sys2Proof.Machine.execTrainingTimeout s
  | .lossOfLight => Sys2Proof.Machine.execLossOfLight s
  | .pathWaitExpire => Sys2Proof.Machine.execPathWaitExpire s
  | .readMessage => Sys2Proof.Machine.execReadMessage s
  | .writeMessage => Sys2Proof.Machine.execWriteMessage s
  | .atomicMessage => Sys2Proof.Machine.execAtomicMessage s
  | .casMessage => Sys2Proof.Machine.execCasMessage s
  | .chunkWriteMessage => Sys2Proof.Machine.execChunkWriteMessage s
  | .landingMessage => Sys2Proof.Machine.execLandingMessage s
  | .response => Sys2Proof.Machine.execResponse s
  | .acknowledgement => Sys2Proof.Machine.execAcknowledgement s
  | .refusal => Sys2Proof.Machine.execRefusal s
  | .responseAcknowledgement => Sys2Proof.Machine.execResponseAcknowledgement s
  | .klctlWrite => Sys2Proof.Machine.execKlctlWrite s
  | .uncorrectableError => Sys2Proof.Machine.execUncorrectableError s
  | .errorWindowEnd => Sys2Proof.Machine.execErrorWindowEnd s
  | .patrolScrub => Sys2Proof.Machine.execPatrolScrub s
  | .dramScrub => Sys2Proof.Machine.execDramScrub s
  | .teamKill => Sys2Proof.Machine.execTeamKill s
  | .contextFault => Sys2Proof.Machine.execContextFault s
  | .frameRetirement => Sys2Proof.Machine.execFrameRetirement s
  | .frameRetired => Sys2Proof.Machine.execFrameRetired s
  | .fretGo => Sys2Proof.Machine.execFretGo s
  | .sparePush => Sys2Proof.Machine.execSparePush s
  | .dieLoss => Sys2Proof.Machine.execDieLoss s
  | .census => Sys2Proof.Machine.execCensus s
  | .thermalThrottle => Sys2Proof.Machine.execThermalThrottle s
  | .thermalReset => Sys2Proof.Machine.execThermalReset s
  | .powerThrottle => Sys2Proof.Machine.execPowerThrottle s
  | .powerThrottleDeep => Sys2Proof.Machine.execPowerThrottleDeep s
  | .atdieRst => Sys2Proof.Machine.execAtdieRst s
  | .stackZeroing => Sys2Proof.Machine.execStackZeroing s
  | .dieMeasurement => Sys2Proof.Machine.execDieMeasurement s
  | .keyInstall => Sys2Proof.Machine.execKeyInstall s
  | .keyRollover => Sys2Proof.Machine.execKeyRollover s
  | .rolloverAbandon => Sys2Proof.Machine.execRolloverAbandon s
  | .packageStart => Sys2Proof.Machine.execPackageStart s
  | .dieStart => Sys2Proof.Machine.execDieStart s
  | .cxlMemRead => Sys2Proof.Machine.execCxlMemRead s
  | .cxlMemWrite => Sys2Proof.Machine.execCxlMemWrite s
  | .doeSpdmRequest => Sys2Proof.Machine.execDoeSpdmRequest s
  | .mctpRequest => Sys2Proof.Machine.execMctpRequest s
  | .registerWrite => Sys2Proof.Machine.execRegisterWrite s
  | .lifetimeLimit => Sys2Proof.Machine.execLifetimeLimit s
  | .dieLinkIdleFlit => Sys2Proof.Machine.execDieLinkIdleFlit s
  | .kalsyIdleFlit => Sys2Proof.Machine.execKalsyIdleFlit s
  | .correctedError => Sys2Proof.Machine.execCorrectedError s
  | .thermalThrottleEnd => Sys2Proof.Machine.execThermalThrottleEnd s
  | .powerThrottleEnd => Sys2Proof.Machine.execPowerThrottleEnd s

end Sys2Proof.Machine
end

