-- ==== Sys2Proof/Machine/Schedule.lean ====
section
/-! DEFINITION. What falls due as package time passes (log 1): the rows of the agenda that each clk brings. A row's own meaning
decides whether it has its effect; the lists here name the rows that may. -/

namespace Sys2Proof.Machine

/-- A row of the agenda. -/
def due (i : Instr) (e : Ev) : Happening := .row i e

/-- The happening, if the condition holds. -/
def dueIf (p : Bool) (i : Instr) (e : Ev) : List Happening := if p then [due i e] else []

/-! ### Threads and teams (R157, R164, R167, R184, R245, R291, R338, R372) -/

/-- The rows of a window: its result, or the end of its wait. -/
def winDue (now team tid : Nat) (w : Window) : List Happening :=
  let e : Ev := { team := team, tid := tid, win := w.id }
  match w.wait with
  | some (.sleep till) => dueIf (decide (till ≤ now)) .sleepEnd e
  | some (.watch _ _ _ dl _ _ _ poll _) => dueIf (decide (poll ≤ now) || timedOut now dl) .watchPoll e
  | some (.land _ _ _ poll) => dueIf (decide (poll ≤ now)) .lwaitRecheck e
  | some (.bar _ _) => []
  | some (.matrix _ _) => []
  | some (.conv _ _) => []
  | some (.launch _ _ _ _ _) => []
  | some (.coll _) => []
  | none => []

/-- The row that writes a window's ready result. -/
def resultDue (team tid : Nat) (w : Window) : List Happening :=
  if w.ready then [due (if w.kind = .coll then .collectiveResult else .longLatencyResult) { team := team, tid := tid, win := w.id }] else []

/-- The rows of a thread. -/
def State.threadDue (s : State) (team tid : Nat) (t : Thread) : List Happening :=
  (t.wins.flatMap fun w => winDue s.clk team tid w ++ if s.away team then [] else resultDue team tid w) ++ dueIf t.trap.isSome .trapDelivery { team := team, tid := tid }

/-- The rows of a team: its barriers, its log, its retirement (R54, R59, R247). -/
def State.teamDue (s : State) (h : Nat) (tm : Team) : List Happening :=
  let done := tm.resident && (s.threadsOf h).all fun x => x.2.st == .exited
  ((upTo 16).filter fun i => s.barFull (.team h i) && (s.threadsOf h).any fun x => x.2.barv.getLsbD i).map
      (fun i => due .barrierPhaseComplete { bar := .team h i })
    ++ dueIf (done && tm.window) .storeLogFlush { team := h } ++ dueIf done .teamRetire { team := h }

/-- The rows of a launch: its cohorts' barriers, placement, retirement (R247, R264, R269). -/
def State.launchDue (s : State) (lid : Nat) (l : Launch) : List Happening :=
  (l.cohorts.flatMap fun j => ((upTo j.2.bars.length).filter fun i => !(s.cbar lid j.1 i).arr.isEmpty && s.barFull (.cohort lid j.1 i)).map
      fun i => due .barrierPhaseComplete { bar := .cohort lid j.1 i })
    ++ dueIf (!l.started) .launchStart { q := l.q } ++ dueIf (l.started && l.next != l.lr.nteams) .teamPlacement { lid := lid }
    ++ dueIf (l.ended.isSome || (l.started && decide (l.lr.nteams ≤ l.retired.length))) .launchRetire { lid := lid }

/-! ### Contexts on cores (R60, R61, R267) -/

/-- A context that is leaving a core. -/
def State.leaving (s : State) (c : Nat) : Option Nat :=
  (s.ctxs.keys.filter fun x => !(s.outTeams x c).isEmpty && ((s.ctx x).outCores.contains c || s.sliceOver x c)).head?

/-- A wait whose word or landing is to be read again now (R291, R338). -/
def Wait.looks (now : Nat) (w : Wait) : Bool := match w with
  | .watch _ _ _ dl _ _ _ poll _ => decide (poll ≤ now) || timedOut now dl
  | .land _ _ _ poll => decide (poll ≤ now)
  | _ => false

/-- A saved team of a context has a thread that waits for nothing, or whose wait is due to look again. -/
def State.canGoOn (s : State) (x : Nat) : Bool :=
  (s.savedTeams x).any fun h => (s.threadsOf h).any fun t => match t.2.st with
    | .exited => false
    | .parked => t.2.wait != 6 && !(t.2.wins.any fun w => w.wait.any fun x => !x.looks s.clk)
    | .running => true
    | .filed => true


/-- The contexts that come back to a core in this clk, in the order in which they are tried: while a context leaves it, those after
that one, in number; otherwise a context with a thread that waits for nothing, or whose slice length has passed (log 36). -/
def State.comingBack (s : State) (c : Nat) : List Nat :=
  let out := s.ctxs.keys.filter fun x => (s.ctx x).outCores.contains c && (s.outTeams x c).isEmpty
  match s.leaving c with
  | some y => sortBy (fun x => (x + 63 - y) % 64) out
  | none => out.filter fun x => s.canGoOn x || s.clk % (1024 * max 1 (s.ctx x).slice) == 0

/-- The rows of contexts on a core. -/
def State.sliceDue (s : State) (c : Nat) : List Happening :=
  let here := distinct ((s.teams.filter fun e => e.2.resident && e.2.cores.contains c).map fun e => e.2.ctx)
  here.flatMap (fun x => dueIf (s.sliceOver x c) .timeSliceEnd { ctx := x, core := c } ++
      dueIf ((s.core c).draining || (s.ctx x).outCores.contains c || s.parkedNow x c || s.sliceOver x c || !(s.mustLeave c).isEmpty)
        .switchOut { ctx := x, core := c })
    ++ dueIf (here.isEmpty && (s.core c).draining) .switchOut { core := c }
    ++ (s.comingBack c).map fun x => due .switchIn { ctx := x, core := c }

/-! ### Cores (R163, R176 to R187, R194, R280, R281, R331 to R346, R351, R360) -/

/-- The chunk of a request that is read next: they are read in row order (R332). -/
def CopyReq.nextChunk (r : CopyReq) : Nat × Nat :=
  match r.chunks.getLast? with
  | none => (0, 0)
  | some k => if k.n + 1 < chunksOf (r.dst k.row) r.blk.len then (k.row, k.n + 1) else (k.row + 1, 0)

/-- The rows of a chunk. -/
def chunkDue (c : Nat) (r : CopyReq) (k : Chunk) : List Happening :=
  let e : Ev := { core := c, req := r.id, row := k.row, chunk := k.n }
  if k.acked then []
  else if !k.written then dueIf (k.awaits == 0 && !k.sent) .chunkWrite e
  else dueIf (r.blk.dlv && !k.landed) .landingEvent e ++ [due .chunkAcknowledgement e]

/-- The rows of a copy request. -/
def State.copyDue (s : State) (c : Nat) (r : CopyReq) : List Happening :=
  if r.started then
    let (row, n) := r.nextChunk
    r.chunks.flatMap (chunkDue c r)
      ++ dueIf (decide (row < r.blk.nrow) && (r.suspended.isNone || s.leavesNow r)) .chunkRead { core := c, req := r.id, row := row, chunk := n }
  else [due .copyRequestStart { core := c, req := r.id }]

/-- The rows of the sequencer of a core (R163, R176 to R187). -/
def Core.seqDue (k : Core) (c now : Nat) : List Happening :=
  (k.batts.flatMap fun b => (b.2.members.filter fun m => decide (0 < m.hold) && decide (m.hold ≤ now)).map fun m =>
      due .yieldHoldEnd { core := c, team := m.team, tid := m.tid })
    ++ ((k.active.vals ++ k.pending).flatMap fun g => g.awaits.map fun x => due .registerCacheFill { core := c, block := x.1, reg := x.2 })
    ++ dueIf k.overdueSince.isSome .overdueDraw { core := c } ++ dueIf (!k.batts.isEmpty) .cardingDraw { core := c }
    ++ dueIf (k.batts.find 63).isSome .strayDraw { core := c }
    ++ (k.active.filter fun e => e.2.stall.isSome).map (fun e => due .stallSwap { core := c, slot := e.1 })
    ++ dueIf (now % 8 == 0 && !k.pending.isEmpty) .rotationSwap { core := c }
    ++ dueIf (!k.active.isEmpty || !k.pending.isEmpty) .issue { core := c }

/-- The rows of the matrix queue and the array of a core (R351, R360). -/
def Core.matDue (k : Core) (c : Nat) : List Happening :=
  (k.matq.filter fun o => !o.started).map (fun o => due .matrixOperationStart { core := c, req := o.id })
    ++ (k.matq.head?.toList.filter fun o => o.started).map (fun o => due .matrixOperationComplete { core := c, req := o.id })
    ++ dueIf (k.matq.isEmpty && k.rowMap != k.badRows) .logicalMapRebuild { core := c }

/-- The SI lines of a cache that have reached the lifetime limit (R129). -/
def Cache.oldDue (k : Cache) (c : CacheRef) (now : Nat) : List Happening :=
  (k.lines.filter fun l => l.st == .si && decide (l.filled + 65536 ≤ now)).map fun l => due .lifetimeLimit { cache := c, pa := l.ln * 128 }

/-- The end of a cache's window of way counts (R424). -/
def Cache.windowDue (k : Cache) (c : CacheRef) (now : Nat) : List Happening :=
  dueIf (decide (k.windowStart + 1073741824 ≤ now)) .errorWindowEnd { cache := c }

/-- The rows of a core's engines. -/
def State.coreDue (s : State) (c : Nat) (k : Core) : List Happening :=
  dueIf (!k.storeq.isEmpty) .impreciseStoreFault { core := c } ++ dueIf (!k.storeq.isEmpty) .storeAccepted { core := c }
    ++ k.matDue c ++ k.copyq.flatMap (s.copyDue c) ++ k.l1.oldDue (.l1 c) s.clk ++ s.sliceDue c ++ k.seqDue c s.clk

/-- The windows of a core that have ended (R191, R424, R425). -/
def State.windowDue (s : State) (c : Nat) : List Happening :=
  let k := s.core c
  dueIf (decide (k.winStart + wlenClk k.wlen ≤ s.clk)) .marginWindowEnd { core := c }
    ++ dueIf (decide (k.rowWin + 16777216 ≤ s.clk)) .errorWindowEnd { core := c, flag := true } ++ k.l1.windowDue (.l1 c) s.clk

/-! ### Coherence and translation (R311, R313, R323, R325, R426, R428) -/

/-- The rows of a directory entry: its probes and their acknowledgements, its rebuilding, its merging with the sibling above it. -/
def State.entryDue (s : State) (d : DirRef) (e : DirEntry) : List Happening :=
  let hs := e.busy.filter (· != .host)
  let at' : Ev := { dref := d, pa := e.base }
  hs.map (fun h => due .probe { at' with holder := h }) ++ dueIf (!hs.isEmpty) .probeAcknowledgement { at' with holders := hs }
    ++ dueIf e.poisonPend .entryRebuild at'
    ++ dueIf (e.base / 2 ^ e.log2 % 2 == 0 && (s.sibling d e).any fun b => s.canMerge e b) .entryMerge at'

/-- The rows of the range command in progress (R325). -/
def cmdDue (c : Option Cmd) : List Happening :=
  match c with
  | none => []
  | some k => dueIf (k.op == 1 && !k.ran) .shoot {} ++ dueIf (k.op == 2 && !k.ran) .flush {} ++ dueIf (k.op == 3 && !k.ran) .wake {}
    ++ [due .rangeCommandComplete {}]

/-- The rows of a die: its L2, its census, its stack, its losses (R129, R424, R427 to R431, R449). -/
def State.dieDue (s : State) (d : Nat) : List Happening :=
  let x := s.die d
  let c : CacheRef := if d < 8 then .l2 d else .crown (d - 8)
  (if d < 10 then x.cache.oldDue c s.clk ++ x.cache.windowDue c s.clk else [])
    ++ dueIf x.census.isSome .census { die := d }
    ++ dueIf (decide (d < 8) && x.attested.st == 0 && x.attested.nrst != 0 && !x.zeroed) .stackZeroing { die := d }
    ++ dueIf (decide (d < 10) && x.attested.st == 3 && !x.zeroed) .dieStart { die := d }
    ++ dueIf (x.critSince.any fun t => decide (t + 1048576 ≤ s.clk)) .thermalReset { die := d }
    ++ dueIf (!x.lost && !s.links.isEmpty && (linksOf d).all fun n => (s.link n).failed) .dieLoss { die := d }

/-! ### Links (R20, R389 to R391, R394, R397, R438 to R440) -/

/-- The row of a message that stands at a port. -/
def msgRow : MsgKind → Instr
  | .read => .readMessage
  | .write => .writeMessage
  | .atomic => .atomicMessage
  | .cas => .casMessage
  | .chunk => .chunkWriteMessage
  | .landing => .landingMessage
  | .response => .response
  | .ack => .acknowledgement
  | .refusal => .refusal
  | .respAck => .responseAcknowledgement

/-- The rows of a die link: its first keys, rollovers, replays. -/
def State.linkDue (s : State) (n : Nat) : List Happening :=
  let l := s.link n
  let up (d : Nat) : Bool := (s.die d).attested.st == 2 || (s.die d).attested.st == 3
  dueIf (!l.failed && !l.keyed && up (linkEnds n).1 && up (linkEnds n).2) .keyInstall { lref := .die n, die := 14 }
    ++ dueIf (l.dirs.any (Chan.rollLate s.clk)) .rolloverAbandon { lref := .die n }
    ++ dueIf (s.linkRolls n) .keyRollover { lref := .die n }
    ++ (upTo 2).flatMap fun d => dueIf ((l.dirs[d]?).any fun h => h.replay.isSome) .dieLinkReplay { link := n, dir := d }

/-- The rows of a port. -/
def State.portDue (s : State) (n : Nat) (p : Port) : List Happening :=
  let e : Ev := { port := n }
  (p.inbox.head?.toList.map fun m => due (msgRow m.kind) e)
    ++ dueIf p.ch.replay.isSome .kalsyReplay e
    ++ dueIf (!p.ch.kept.isEmpty && decide (p.ch.ackClk + 16384 ≤ s.clk)) .ackTimeout e
    ++ dueIf (!p.ch.open_.isEmpty && decide (p.ch.openSince + 64 ≤ s.clk)) .kalsyOpenGroup e
    ++ dueIf (p.st == .training && decide (p.since + 1073741824 ≤ s.clk)) .trainingTimeout e
    ++ dueIf (p.ch.rollLate s.clk) .rolloverAbandon { lref := .port n }
    ++ dueIf (p.st == .up && s.rollDue p.ch) .keyRollover { lref := .port n }

/-! ### The package -/

/-- The access of a host port that waits first at the crown directory (R315). -/
def hostDue (p : Nat) (h : HPort) : List Happening :=
  match h.waits with
  | [] => []
  | a :: _ => [due (if a.data.isSome then .cxlMemWrite else .cxlMemRead) { hport := p, flag := true }]

/-- Every row that falls due at the package time: results and deliveries first, then the engines, then the sequencers. -/
def State.dueNow (s : State) : List Happening :=
  (s.threads.flatMap fun e => s.threadDue (e.1 / 4096) (e.1 % 4096) e.2)
    ++ (s.frames.filter fun e => e.2.mig).map (fun e => due .frameRetired { frame := e.1 })
    ++ (upTo 14).flatMap s.dieDue ++ (upTo 21).flatMap s.linkDue ++ (s.ports.flatMap fun e => s.portDue e.1 e.2)
    ++ (s.reqs.filter fun r => r.port.isNone && r.waitTill.any fun t => decide (t ≤ s.clk)).map (fun r => due .pathWaitExpire { rid := r.rid })
    ++ dueIf (s.transit.any fun t => decide (t.till ≤ s.clk)) .pathWaitExpire { flag := true }
    ++ (distinct (s.held.map fun x => x.team)).map (fun h => due .heldDelivery { team := h })
    ++ (s.hports.flatMap fun e => hostDue e.1 e.2) ++ dueIf (!s.pfWait.isEmpty && s.pfRoom) .faultRecordEnter {} ++ cmdDue s.cmd
    ++ (s.dirs.flatMap fun x => s.entryDue x.1 x.2)
    ++ dueIf (s.thr && !s.thrDeep && decide (s.thrSince + 25000000 ≤ s.clk)) .powerThrottleDeep {}
    ++ (s.teams.flatMap fun e => s.teamDue e.1 e.2) ++ (s.launches.flatMap fun e => s.launchDue e.1 e.2)
    ++ (s.queues.filter fun e => !e.2.posts.isEmpty).map (fun e => due .launchRecordCopy { q := e.1 })
    ++ (s.teams.filter fun e => !e.2.resident && (s.ctx e.2.ctx).st == .active).map (fun e => due .teamPlacement { team := e.1, flag := true })
    ++ (upTo 128).flatMap s.windowDue ++ (s.cores.flatMap fun e => s.coreDue e.1 e.2)

/-- One clk of package time: what falls due comes before the rest of the agenda. -/
def State.tick (s : State) : State :=
  let s := { s with clk := s.clk + 1 }.forgetCame
  { s with agenda := s.dueNow ++ s.agenda }

/-- n clk of package time, one by one. -/
def State.pass (s : State) (n : Nat) : State :=
  match n with
  | 0 => s
  | n + 1 => State.tick { s with agenda := .pass n :: s.agenda }

end Sys2Proof.Machine
end

