-- ==== Sys2Proof/Machine/Step.lean ====
section
/-! DEFINITION. One step of the package: the next group of this clk issues, or the next happening of the agenda takes place, or
time passes (00 R1 to R3; log 1). -/

namespace Sys2Proof.Machine

/-- One step. Groups selected in this clk issue first, in the order the issue stage selected them (R182); then what is due,
in order; then a clk passes. -/
def step (s : State) : Host.Outcome State Fault Refusal :=
  match s.issueQ with
  | (c, slot) :: rest =>
    if 128 ≤ c ∨ 8 ≤ slot then .fault .noSuchGroup
    else
      match State.front { s with issueQ := rest, cur := none } c slot with
      | .run i s => exec i s
      | .done s => .next s
  | [] =>
    match s.agenda with
    | .row i e :: rest => exec i { s with agenda := rest, cur := none, ev := e }
    | .pass n :: rest => .next (State.pass { s with agenda := rest } n)
    | [] => .next s.tick

/-! ### A program placed from outside (log 2) -/

/-- The launch record of the placed program: one team of one thread, 16 lanes wide, 64 v registers, two frames. -/
def placedLaunch : LaunchRec :=
  { kentry := 0, tvec := 0, args := 0, hoods := 0x100000, saves := 0x200000, done := 0, nteams := 1, tsize := 1, gw := 0
    pair := false, res := false, rln := false, ser := false, mx := false, prio := 0, nreg := 64, calld := 2, scratch := 256
    priv := 16, clvl := 0, cn := 0, bclus := 0, bdie := 0, bpkg := 0, accrows := 0, hslots := 1, rlimit := 0, tag := 0 }

/-- The thread of the placed program, at its kernel entry. -/
def placedThread : Thread :=
  { pc := 0, rpc := 0, rcnt := 1, csp := 0, preds := 0x80, st := .running, wait := 0, frec := false, rngctr := 0
    rngent := 0, regs := List.replicate 64 0, fpctl := 0, flags := 0, slot := 0, lane := 0, wins := [], trap := none
    entry := none, pfva := none, arr := none, abst := [], barv := 0, rsv := none, poisoned := [], predPoison := false, mchk := none, kicked := none }

/-- The team of the placed program, on core[0]. -/
def placedTeam : Team :=
  { lid := 0, n := 0, ctx := 0, lr := placedLaunch, hslot := 0, retry := 0, saved := false, killed := false, lcore := 0
    resident := true, image := [], core := 0, base0 := 0, base1 := 0, k := List.replicate 64 0
    mreg := List.replicate 16 (0, 0), c := List.replicate 16 { size := 0, count := 0, gen := 0, done := 0 }, part := 4
    tbg := List.replicate 16 0, scratch := [], poisonScratch := [], unfenced := [], bins := List.replicate 32 0
    hold := List.replicate 16 0, hvalid := 0, eng := [Engine.init], window := false, log := [], upset := [] }

/-- The launch of the placed program, running, posted when memory held the code given. -/
def placedRun (code : List Host.Cell) : Launch :=
  { lr := placedLaunch, raw := [], q := 0, slot := 0, ctx := 0, posted := 0, started := true, next := 1, slots := [(0, 0)]
    retired := [], cohorts := [], claim := [], claimInst := [], ended := none, worded := false, code := code }

/-- The group that holds the thread of the placed program. -/
def placedGroup : Group :=
  { team := 0, lanes := [(0, 0)], width := 16, stray := false, since := 0, stall := none, notBefore := 0, drawn := 0
    latch := [], awaits := [] }

/-- The state with a one-thread program placed on core[0] whose next instruction has the bits of `w`: its three words at
local address 0, a context whose table of one leaf maps every address to itself in this package, and its group selected to issue. -/
def State.withFetchWord (s : State) (_nbits w : Nat) : State :=
  let s := { s with walkc := [], frames := [] }
  let s := (s.pokeNat 0 12 w).pokeNat 0x10000 8 (0x3B + s.pkgid * 2 ^ 43)
  { s with
    threads := [(0, placedThread)], teams := [(0, placedTeam)], launches := [(0, placedRun s.mem)]
    agenda := [], issueQ := [(0, 0)], cur := none, poison := []
    xregs := { s.xregs with fctEn := false }
    queues := s.queues.put 0 { Queue.init with size := 1, slots := [(0, 0)] }
    ctxs := s.ctxs.put 0 { Ctx.init with st := .active, priv := true, ptroot := 0x10000 }
    dies := s.dies.put 0 { Die.init with tlb := [] }
    cores := s.cores.put 0 { Core.init 0 with active := [(0, placedGroup)] } }

end Sys2Proof.Machine
end

