-- ==== Sys2Proof/Safety.lean ====
section
/-! DEFINITION. What a safe run of the package keeps, and the words in which the statements say what an instruction leaves. -/

namespace Sys2Proof.Machine

/-- Physical memory lists no byte that an unlisted address reads as, and its addresses rise (log 3). -/
def State.Safe (s : State) : Prop := Memory.wf s.mem = true

/-- What every step keeps (log 3; R405, R442, R447): memory's canonical form, HOPMAX at most 8, PKGID at most 287, KEYINT from 30 to 44, and
PWRCTL.LIMIT from 1,500 to 4,200. -/
def State.Legal (s : State) : Prop :=
  Memory.wf s.mem = true ∧ s.hopmax ≤ 8 ∧ s.pkgid ≤ 287 ∧ 30 ≤ s.keyint ∧ s.keyint ≤ 44 ∧ 1500 ≤ s.pwrLimit ∧ s.pwrLimit ≤ 4200

/-- A thread apart from where the sequencer holds it: its STATE and WAIT (R47); past a KICK whose request has been entered (R336). -/
def Thread.bare (t : Thread) : Thread := { t.pastKick with st := .running, wait := 0 }

/-- A core apart from its batts, its active set and its pending set (R176, R181). -/
def Core.bare (k : Core) : Core := { k with batts := [], active := [], pending := [] }

/-- State `t` is state `s` but for where the sequencers hold threads: every register of every thread, every team, all of memory
and every other field is the same. -/
def State.SeqOnly (s t : State) : Prop :=
  t = { s with threads := t.threads, cores := t.cores }
    ∧ (∀ k, (t.threads.find k).map Thread.bare = (s.threads.find k).map Thread.bare)
    ∧ ∀ n, (t.core n).bare = (s.core n).bare

/-- The outcome is a next state, and that state is `u` but for where the sequencers hold threads. -/
def Ends (o : Host.Outcome State Fault Refusal) (u : State) : Prop := ∃ t, o = .next t ∧ u.SeqOnly t

/-- A group executes on core `c`, slot `slot`, for team `tm`; every operand of the instruction lies below NREG, and no thread of it
would consume poison (R39, R412). -/
def State.Ready (s : State) (c slot : Nat) (g : Group) (tm : Team) (h : Hdr) (vs : List VOp) : Prop :=
  s.curGroup = some (c, slot, g, tm) ∧ (∀ v ∈ vs, v.reg + v.n ≤ tm.lr.nreg) ∧ ∀ x ∈ s.laneThreads g, x.2.2.eats h vs = false

/-- A thread after a vector ALU instruction of `len` words that does to it what `e` says (R109, R115, R184, R185): the PC is past the
instruction. A guarded-off thread does nothing else. A short-latency instruction writes its registers and predicates, sets its
conditions in FLAGS and takes its draws; a long-latency one opens a window (of identifier `id`) that holds its results. -/
def Thread.after (t : Thread) (h : Hdr) (len : Nat) (long : Bool) (id : Nat) (e : Eff) : Thread :=
  let t' := t.issue (t.pc + BitVec.ofNat 55 (4 * len))
  if !t.live h then t'
  else if long then
    { t'.openWin
        { id := id, kind := .alu, left := h.la.toNat, ready := true, regs := e.regs, preds := e.preds, flags := e.flags, late := none
          canLate := t.enables != 0, wait := none, pc := t.pc, yh := h.yh } (e.regs.map (·.1)) (e.preds.map (·.1)) with
      rngctr := t.rngctr + BitVec.ofNat 40 e.draws }
  else
    { (t'.writeRegs e.regs).writePreds e.preds with flags := t.flags ||| e.flags.setWidth 32, rngctr := t.rngctr + BitVec.ofNat 40 e.draws }

/-- The state in which every thread of a group became what `f` makes of it, and nothing else happened but the drawing of an
identifier. -/
def State.threadsDo (s : State) (g : Group) (f : Nat → Thread → Thread) : State := { s.mapGroup g f with nextId := s.nextId + 1 }

/-- What a vector ALU instruction gives: on any group that is ready for it, and if no live thread raises a condition that its FPCTL
enables, the next state is the one in which each thread became `Thread.after` with the results `e`. -/
def Gives (i : Instr) (h : Hdr) (len : Nat) (long : Bool) (vs : List VOp) (e : Nat → State → Team → Nat → Thread → Eff) : Prop :=
  ∀ s c slot g tm, State.Ready s c slot g tm h vs →
    (∀ x ∈ s.laneThreads g, x.2.2.live h = true → (e c s tm x.2.1 x.2.2).flags &&& x.2.2.enables = 0) →
    Ends (exec i s) (s.threadsDo g fun k t => t.after h len long s.nextId (e c s tm k t))

/-- An instruction with one effect per live lane, in lane order: on any group that is ready for it, and in a privileged
context where it needs one, the next state is the one in which each live thread of the group in turn (of a team that an earlier
lane's effect has not stopped) had the effect `f` of core, team, TID and thread at issue; every thread of the group is past the
instruction and its windows have counted down. -/
def OnLanes (i : Instr) (h : Hdr) (len : Nat) (priv : Bool) (vs : List VOp) (f : Nat → Nat → Team → Nat → Thread → State → State) :
    Prop :=
  ∀ s c slot g tm, State.Ready s c slot g tm h vs → (priv = true → (s.ctx tm.ctx).priv = true) →
    Ends (exec i s)
      ((s.liveLanes g h).foldl (fun s x => if (s.thread? g.team x.2.1).isSome then f c g.team tm x.2.1 x.2.2 s else s)
        (s.issueAll g len))

/-- The same where the effect is one on all the live lanes together. -/
def OnLive (i : Instr) (h : Hdr) (len : Nat) (priv : Bool) (vs : List VOp)
    (f : Nat → Group → Team → List (Nat × Nat × Thread) → State → State) : Prop :=
  ∀ s c slot g tm, State.Ready s c slot g tm h vs → (priv = true → (s.ctx tm.ctx).priv = true) →
    Ends (exec i s) (f c g tm (s.liveLanes g h) (s.issueAll g len))

/-- The same for an instruction that may have to wait at its issue: what it does wherever `go` says that it need not. -/
def OnGo (i : Instr) (h : Hdr) (len : Nat) (vs : List VOp) (go : Nat → Group → Team → List (Nat × Nat × Thread) → State → Prop)
    (f : Nat → Group → Team → List (Nat × Nat × Thread) → State → State) : Prop :=
  ∀ s c slot g tm, State.Ready s c slot g tm h vs → go c g tm (s.liveLanes g h) s →
    Ends (exec i s) (f c g tm (s.liveLanes g h) (s.issueAll g len))

end Sys2Proof.Machine
end

