-- ==== Sys2Proof/WellFormed.lean ====
section
/-! DEFINITION. Which terms of `Instr` are instructions of the machine: the register alignments, field ranges and reserved
operands of 03 and of each instruction's own encoding table. -/

namespace Sys2Proof

/-- The instruction's operands are ones its encoding admits. -/
def Instr.wf : Instr → Bool
  | .bra h w => guardOk h && brOk w
  | .call h w => guardOk h && brOk w
  | .brx h a => guardOk h && algn 2 a
  | .callx h a => guardOk h && algn 2 a
  | .nop h => guardOk h
  | .ret h => guardOk h
  | .reform h => guardOk h
  | .exit h => guardOk h
  | .yield h => guardOk h
  | .rgn h => guardOk h
  | .tret h => guardOk h
  | .tretSkip h => guardOk h
  | .tretRgn h => guardOk h
  | .sleep h b => guardOk h && b.ok false
  | .trap h b => guardOk h && b.ok false
  | .trapRgn h b => guardOk h && b.ok false
  | .bkpt h b => guardOk h && b.ok false
  | .tretRd h d => guardOk h && algn 4 d
  | .gets h d s => guardOk h && algn s.regs d
  | .sets h s b => guardOk h && s.settable && b.ok false
  | .movk h _ b => guardOk h && b.ok false
  | .iadd o ty _ => guardOk o.h && o.ok (wAl ty.w64) (wAl ty.w64) ty.w64
  | .isub o ty _ => guardOk o.h && o.ok (wAl ty.w64) (wAl ty.w64) ty.w64
  | .imul o ty _ => guardOk o.h && o.ok (wAl ty.w64) (wAl ty.w64) ty.w64
  | .imulh o ty => guardOk o.h && o.ok (wAl ty.w64) (wAl ty.w64) ty.w64
  | .imin o ty => guardOk o.h && o.ok (wAl ty.w64) (wAl ty.w64) ty.w64
  | .imax o ty => guardOk o.h && o.ok (wAl ty.w64) (wAl ty.w64) ty.w64
  | .iadd3 o ty _ => guardOk o.h && o.ok (wAl ty.w64) ty.w64 (wAl ty.w64)
  | .imad o ty _ => guardOk o.h && o.ok (wAl ty.w64) ty.w64 (wAl ty.w64)
  | .isad o ty => guardOk o.h && o.ok (wAl ty.w64) ty.w64 (wAl ty.w64)
  | .imadw o ty _ => guardOk o.h && !ty.w64 && o.ok 2 ty.w64 2
  | .iabs o ty _ => guardOk o.h && (ty == .i32 || ty == .i64) && o.ok (wAl ty.w64) (wAl ty.w64)
  | .ineg o ty _ => guardOk o.h && (ty == .i32 || ty == .i64) && o.ok (wAl ty.w64) (wAl ty.w64)
  | .icmp o _ ty => guardOk o.h && decide (o.d.toNat < 8) && o.ok 1 (wAl ty.w64) ty.w64
  | .iaddc o _ _ ty => guardOk o.h && (ty == .i32 || ty == .i64) && o.ok (wAl ty.w64) (wAl ty.w64) ty.w64
  | .and o w => guardOk o.h && o.ok (wAl w) (wAl w) w
  | .or o w => guardOk o.h && o.ok (wAl w) (wAl w) w
  | .xor o w => guardOk o.h && o.ok (wAl w) (wAl w) w
  | .not o w => guardOk o.h && o.ok (wAl w) (wAl w)
  | .tern o _ w => guardOk o.h && o.ok (wAl w) w (wAl w)
  | .shl o w => guardOk o.h && o.ok (wAl w) (wAl w) false
  | .shr o w => guardOk o.h && o.ok (wAl w) (wAl w) false
  | .sar o w => guardOk o.h && o.ok (wAl w) (wAl w) false
  | .rotl o w => guardOk o.h && o.ok (wAl w) (wAl w) false
  | .fshl o => guardOk o.h && o.ok 1 false 1
  | .bfi o => guardOk o.h && o.ok 1 false 1
  | .prmt o => guardOk o.h && o.ok 1 false 1
  | .popc o w => guardOk o.h && o.ok 1 (wAl w)
  | .clz o w => guardOk o.h && o.ok 1 (wAl w)
  | .ctz o w => guardOk o.h && o.ok 1 (wAl w)
  | .brev o w => guardOk o.h && o.ok (wAl w) (wAl w)
  | .bfx o _ => guardOk o.h && o.ok 1 1 false
  | .mov o w => guardOk o.h && o.ok w.regs w.regs
  | .movl h d _ ty => guardOk h && algn ty.regs d
  | .sel o _ _ w => guardOk o.h && o.ok (wAl w) (wAl w) w
  | .lea o _ w _ => guardOk o.h && o.ok (wAl w) (wAl w) false
  | .pset o _ w => guardOk o.h && decide (o.d.toNat < 8) && o.ok 1 (wAl w) w
  | .plop h _ _ _ _ => guardOk h
  | .p2v h _ _ => guardOk h
  | .v2p h _ _ _ => guardOk h
  | .fadd o _ => guardOk o.h && o.ok 1 1 false
  | .fmul o _ => guardOk o.h && o.ok 1 1 false
  | .fmin o _ => guardOk o.h && o.ok 1 1 false
  | .fmax o _ => guardOk o.h && o.ok 1 1 false
  | .fcmp o _ _ => guardOk o.h && decide (o.d.toNat < 8) && o.ok 1 1 false
  | .ffma o _ _ => guardOk o.h && o.ok 1 false 1
  | .fclass o => guardOk o.h
  | .frnd o _ => guardOk o.h
  | .ffrexp o _ => guardOk o.h
  | .fscale o _ _ _ => guardOk o.h && o.ok 1 1 false
  | .dadd o _ => guardOk o.h && o.ok 2 2 true
  | .dmul o _ => guardOk o.h && o.ok 2 2 true
  | .dmin o _ => guardOk o.h && o.ok 2 2 true
  | .dmax o _ => guardOk o.h && o.ok 2 2 true
  | .dcmp o _ _ => guardOk o.h && decide (o.d.toNat < 8) && o.ok 1 2 true
  | .dfma o _ _ => guardOk o.h && o.ok 2 true 2
  | .hadd2 o _ _ _ _ => guardOk o.h && o.ok 1 1 false
  | .hmul2 o _ _ _ _ => guardOk o.h && o.ok 1 1 false
  | .hmin2 o _ _ _ => guardOk o.h && o.ok 1 1 false
  | .hmax2 o _ _ _ => guardOk o.h && o.ok 1 1 false
  | .hfma2 o _ _ _ _ _ => guardOk o.h && o.ok 1 false 1
  | .rcp o => guardOk o.h
  | .rsq o => guardOk o.h
  | .sqrt o => guardOk o.h
  | .exp2 o => guardOk o.h
  | .log2 o => guardOk o.h
  | .sin o => guardOk o.h
  | .cos o => guardOk o.h
  | .tanh o => guardOk o.h
  | .cvti o src ty _ => guardOk o.h && o.ok (wAl ty.w64) (wAl src.w64)
  | .cvtf o src dst _ => guardOk o.h && o.ok (wAl dst.w64) (wAl src.w64)
  | .cvtq o fmt _ _ => guardOk o.h && o.ok 1 fmt.regs false
  | .cvtp o op rm => guardOk o.h && (op.packs || rm == .fpctl) && cvtpB op o.b && o.ok op.dAlign 1 false
  | .hash o k h => guardOk o.h && o.ok (wAl h) (wAl k) false
  | .crc32c o _ => guardOk o.h && o.ok 1 1 false
  | .rand h d b _ => guardOk h && algn (wAl b) d
  | .spack o _ => guardOk o.h
  | .part h op d => guardOk h && algn (wAl (op == .live)) d
  | .vote h op _ d _ b => guardOk h && b.ok true && (if op = .ballot then algn 2 d else decide (d.toNat < 8))
  | .pick h mode delta _ a b => guardOk h && b.ok true && (mode != .at || (delta == 0 && algn 2 a))
  | .tred h op ty _ _ b => guardOk h && b.ok true && (!op.bitwise || ty == .i32)
  | .tscan h op ty _ _ _ b => guardOk h && b.ok true && (!op.bitwise || ty == .i32)
  | .matchEq h w d a b => guardOk h && b.ok true && algn 2 d && algn (wAl w) a
  | .barArv h l i _ => guardOk h && barOk l i
  | .barWait h l i _ => guardOk h && barOk l i
  | .barSync h l i => guardOk h && barOk l i
  | .barQ h l i d => guardOk h && barOk l i && algn 2 d
  | .launch h _ _ _ a b => guardOk h && b.ok false && algn 2 a
  | .qres h _ b => guardOk h && b.ok false
  | .qfree h => guardOk h
  | .ld m ac => guardOk m.h && m.mem.ok ldForms && m.ord.read && ldOk m ac
  | .st m ac => guardOk m.h && m.mem.ok ldForms && m.ord.write && stOk m ac
  | .lds m sc => guardOk m.h && m.mem.ok ldsForms && m.ord.read && ldsOk m sc
  | .sts m sc => guardOk m.h && m.mem.ok ldsForms && m.ord.write && algn sc.regs m.d
  | .pfch h a mo _ _ _ => guardOk h && mo.ok pfForms && algn 2 a
  | .cctl h a mo _ _ => guardOk h && mo.ok pfForms && algn 2 a
  | .pin h a _ _ => guardOk h && algn 2 a
  | .unpin h _ => guardOk h
  | .fence h _ _ => guardOk h
  | .atom m op => guardOk m.h && m.mem.ok ldForms && atomOk m op
  | .cas m w c => guardOk m.h && m.mem.ok casForms && casOk m w c
  | .red m op => guardOk m.h && m.mem.ok ldForms && m.ord.write && algn (wAl op.w64) m.d && algn 2 m.a
  | .waitw h _ o _ _ a _ => guardOk h && o.read && algn 2 a
  | .txq h d a => guardOk h && algn 4 d && algn 2 a
  | .frq h d a => guardOk h && algn 4 d && algn 2 a
  | .kick h _ mo => guardOk h && mo.ok kickForms
  | .landi h _ _ b => guardOk h && b.ok false
  | .lwait h d _ b => guardOk h && b.ok false && algn 2 d
  | .lpoll h d _ b => guardOk h && b.ok false && algn 2 d
  | .binc h _ _ b => guardOk h && b.ok false
  | .bhold h _ _ => guardOk h
  | .brel h _ b => guardOk h && b.ok false
  | .cpyq h d => guardOk h && algn 4 d
  | .mldw h fmt ns _ d _ b cv => guardOk h && (!ns || fmt.scaled) && (scaleUsed fmt ns || d == 0) && b.ok false && cvSrcOk b cv
  | .mldws h _ _ _ _ b cv => guardOk h && b.ok false && cvSrcOk b cv
  | .mswap h _ _ => guardOk h
  | .mma h fmt ns _ _ _ _ b c _ => guardOk h && (!ns || fmt.scaled) && (scaleUsed fmt ns || c == 0) && b.ok false
  | .mgmm h fmt ns _ _ d _ b c _ =>
      guardOk h && (!ns || fmt.scaled) && (scaleUsed fmt ns || c == 0) && b.ok false && algn 2 d
  | .mclr h _ _ _ => guardOk h
  | .macld h _ _ _ _ b cv => guardOk h && b.ok false && cvSrcOk b cv
  | .macst h o sx _ sat _ _ _ b c _ _ => guardOk h && (sx || c == 0) && !(sat && o == .f32) && b.ok false
  | .macrd h _ d _ b => guardOk h && algn 4 d && b.ok false && (match b with | .lit _ => false | _ => true)
  | .mrow h _ _ _ _ _ _ => guardOk h
  | .mfence h => guardOk h
  | .mwait h _ => guardOk h
  | .mwaitCv h _ _ b => guardOk h && b.ok false
  | .mqry h _ _ d => guardOk h && algn 4 d
  | .cvset h _ b => guardOk h && b.ok false
  | .sign h _ _ => guardOk h
  | .iaddC _ => true
  | .isubC _ => true
  | .imulC _ => true
  | .iminI32C _ => true
  | .iminN32C _ => true
  | .imaxI32C _ => true
  | .imaxN32C _ => true
  | .iabsC _ => true
  | .inegC _ => true
  | .imulhI32C _ => true
  | .imulhN32C _ => true
  | .iaddSatI32C _ => true
  | .isubSatI32C _ => true
  | .iaddSatN32C _ => true
  | .isubSatN32C _ => true
  | .andC _ => true
  | .orC _ => true
  | .xorC _ => true
  | .notC _ => true
  | .shlC _ => true
  | .shrC _ => true
  | .sarC _ => true
  | .rotlC _ => true
  | .popcC _ => true
  | .clzC _ => true
  | .ctzC _ => true
  | .brevC _ => true
  | .movC _ => true
  | .faddC _ => true
  | .fmulC _ => true
  | .fminC _ => true
  | .fmaxC _ => true
  | .fscaleC _ => true
  | .frndRnC _ => true
  | .hadd2F16C _ => true
  | .hmul2F16C _ => true
  | .hmin2F16C _ => true
  | .hmax2F16C _ => true
  | .hadd2Bf16C _ => true
  | .hmul2Bf16C _ => true
  | .hmin2Bf16C _ => true
  | .hmax2Bf16C _ => true
  | .cvtfF32I32C _ => true
  | .cvtfF32N32C _ => true
  | .cvtiI32F32RzC _ => true
  | .cvtiN32F32RzC _ => true
  | .crc32cC _ => true
  | .nonInstructionEncoding _ len => decide (1 ≤ len ∧ len ≤ 3)
  | .trapDelivery => true
  | .longLatencyResult => true
  | .cardingDraw => true
  | .strayDraw => true
  | .issue => true
  | .overdueDraw => true
  | .stallSwap => true
  | .rotationSwap => true
  | .yieldHoldEnd => true
  | .sleepEnd => true
  | .registerCacheFill => true
  | .replay => true
  | .marginWindowEnd => true
  | .silentError => true
  | .mgnCtlWrite => true
  | .mgnLimitWrite => true
  | .quarantineClear => true
  | .collectiveResult => true
  | .barrierPhaseComplete => true
  | .launchRecordCopy => true
  | .launchStart => true
  | .teamPlacement => true
  | .teamRetire => true
  | .launchRetire => true
  | .timeSliceEnd => true
  | .switchOut => true
  | .switchIn => true
  | .contextCreate => true
  | .contextDestroy => true
  | .eqctlWrite => true
  | .hresRead => true
  | .hostPost => true
  | .faultRecordEnter => true
  | .storeAccepted => true
  | .impreciseStoreFault => true
  | .storeLogFlush => true
  | .watchWake => true
  | .watchPoll => true
  | .directoryRequest => true
  | .probe => true
  | .probeAcknowledgement => true
  | .entryMerge => true
  | .cacheSleep => true
  | .cacheWake => true
  | .hostSnoop => true
  | .backInvalidateResponse => true
  | .shoot => true
  | .flush => true
  | .wake => true
  | .rangeCommandComplete => true
  | .lwaitRecheck => true
  | .copyRequestStart => true
  | .chunkRead => true
  | .chunkWrite => true
  | .landingEvent => true
  | .chunkAcknowledgement => true
  | .chunkResend => true
  | .heldDelivery => true
  | .matrixOperationStart => true
  | .matrixOperationComplete => true
  | .checksumMismatch => true
  | .logicalMapRebuild => true
  | .dieLinkDataFlit => true
  | .dieLinkTagFlit => true
  | .dieLinkControlFlit => true
  | .dieLinkReplay => true
  | .dieLinkOpenGroup => true
  | .entryRebuild => true
  | .kalsyDataFlit => true
  | .kalsyTagFlit => true
  | .kalsyControlFlit => true
  | .kalsyReplay => true
  | .ackTimeout => true
  | .kalsyOpenGroup => true
  | .portEnable => true
  | .portDisable => true
  | .train => true
  | .trainingLock => true
  | .trainingTimeout => true
  | .lossOfLight => true
  | .pathWaitExpire => true
  | .readMessage => true
  | .writeMessage => true
  | .atomicMessage => true
  | .casMessage => true
  | .chunkWriteMessage => true
  | .landingMessage => true
  | .response => true
  | .acknowledgement => true
  | .refusal => true
  | .responseAcknowledgement => true
  | .klctlWrite => true
  | .uncorrectableError => true
  | .errorWindowEnd => true
  | .patrolScrub => true
  | .dramScrub => true
  | .teamKill => true
  | .contextFault => true
  | .frameRetirement => true
  | .frameRetired => true
  | .fretGo => true
  | .sparePush => true
  | .dieLoss => true
  | .census => true
  | .thermalThrottle => true
  | .thermalReset => true
  | .powerThrottle => true
  | .powerThrottleDeep => true
  | .atdieRst => true
  | .stackZeroing => true
  | .dieMeasurement => true
  | .keyInstall => true
  | .keyRollover => true
  | .rolloverAbandon => true
  | .packageStart => true
  | .dieStart => true
  | .cxlMemRead => true
  | .cxlMemWrite => true
  | .doeSpdmRequest => true
  | .mctpRequest => true
  | .registerWrite => true
  | .lifetimeLimit => true
  | .dieLinkIdleFlit => true
  | .kalsyIdleFlit => true
  | .correctedError => true
  | .thermalThrottleEnd => true
  | .powerThrottleEnd => true

end Sys2Proof
end

