-- ==== Sys2Proof/Certificates/Slice0/Obligations.lean ====
section
/-! DEFINITION. The statements for the provers: what the rules of the spec say the machine does, instruction by instruction
and engine by engine. -/

namespace Sys2Proof.Say

open Sys2Proof Sys2Proof.Machine

/-! ### Words for the statements -/

/-- The two-source operands that a C form stands for (R75, R76). -/
def two (c : CTwo) : Two :=
  { h := { gp := c.gp, gn := false, la := 0, yh := false, ru := false }, d := c.d.setWidth 11, a := c.a.setWidth 11
    b := .reg (c.b.setWidth 11) }

/-- The one-source operands that a C form stands for (R75, R76). -/
def one (c : COne) : One :=
  { h := { gp := c.gp, gn := false, la := 0, yh := false, ru := false }, d := c.d.setWidth 11, a := c.a.setWidth 11, ext := false }

/-- Registers of an operand of 32 or 64 bits. -/
def nr (w64 : Bool) : Nat := if w64 then 2 else 1

/-- The words of an instruction with operand B: a register alone makes the S form. -/
def lenOfB (b : SrcB) : Nat :=
  match b with
  | .reg _ => 2
  | .lit _ => 3
  | .xreg _ => 3
  | .xk _ => 3

/-- A number of bits given one by one. -/
def ofBits (w : Nat) (f : Nat → Bool) : BitVec w := BitVec.ofNat w (((List.range w).map fun i => if f i then 2 ^ i else 0).sum)

/-! ### Integers (R206 to R209) -/

/-- The least and the greatest number of a type. -/
def least (ty : IntTy) : Int :=
  match ty with
  | .i32 => -2147483648
  | .n32 => 0
  | .i64 => -9223372036854775808
  | .n64 => 0
def greatest (ty : IntTy) : Int :=
  match ty with
  | .i32 => 2147483647
  | .n32 => 4294967295
  | .i64 => 9223372036854775807
  | .n64 => 18446744073709551615

/-- The integer that a type reads in a register, or in a pair. -/
def int (ty : IntTy) (w : Word) (x : DWord) : Int :=
  match ty with
  | .i32 => w.toInt
  | .n32 => w.toNat
  | .i64 => x.toInt
  | .n64 => x.toNat

/-- How a literal fills the pair of a type (R74). -/
def ext (ty : IntTy) : LitExt :=
  match ty with
  | .i32 => .sign
  | .n32 => .zero
  | .i64 => .sign
  | .n64 => .zero

/-- What an integer instruction writes: without SAT the word `w`, or the pair `x`; with SAT the exact value `e` brought into the
type's range, and FLAGS.SAT where it did not lie there. -/
def result (ty : IntTy) (sat : Bool) (d : VReg) (w : Word) (x : DWord) (e : Int) : Eff :=
  if sat then
    let r := max (least ty) (min e (greatest ty))
    { regs := if ty.w64 then wr64 d.toNat (BitVec.ofInt 64 r) else [(d.toNat, BitVec.ofInt 32 r)]
      flags := if r = e then 0 else cSAT }
  else { regs := if ty.w64 then wr64 d.toNat x else [(d.toNat, w)] }

/-- The integer that A, B or C holds. -/
def intA (ty : IntTy) (t : Thread) (a : VReg) : Int := int ty (t.reg a.toNat) (t.reg64 a.toNat)
def intB (ty : IntTy) (tm : Team) (t : Thread) (b : SrcB) : Int := int ty (bVal tm t b) (bVal64 (ext ty) tm t b)
def intX (ty : IntTy) (tm : Team) (t : Thread) (b : ExtB) : Int := int ty (xVal tm t b) (xVal64 tm t b)

/-- A two-source integer instruction: `f` and `g` are its function on words and on pairs, `op` the exact one. -/
def Int2 (i : Instr) (o : Two) (len : Nat) (ty : IntTy) (sat : Bool) (f : Word → Word → Word) (g : DWord → DWord → DWord)
    (op : Int → Int → Int) : Prop :=
  Gives i o.h len false (twoOps o (nr ty.w64) (nr ty.w64) (nr ty.w64)) fun _ _ tm _ t =>
    result ty sat o.d (f (t.reg o.a.toNat) (bVal tm t o.b)) (g (t.reg64 o.a.toNat) (bVal64 (ext ty) tm t o.b))
      (op (intA ty t o.a) (intB ty tm t o.b))

/-- A two-source integer instruction with a value that always lies in the type's range. -/
def Int2x (i : Instr) (o : Two) (len : Nat) (ty : IntTy) (op : Int → Int → Int) : Prop :=
  Gives i o.h len false (twoOps o (nr ty.w64) (nr ty.w64) (nr ty.w64)) fun _ _ tm _ t =>
    let e := op (intA ty t o.a) (intB ty tm t o.b)
    result ty false o.d (BitVec.ofInt 32 e) (BitVec.ofInt 64 e) e

/-- A three-source integer instruction. -/
def Int3 (i : Instr) (o : Three) (ty : IntTy) (sat : Bool) (f : Word → Word → Word → Word) (g : DWord → DWord → DWord → DWord)
    (op : Int → Int → Int → Int) : Prop :=
  Gives i o.h 3 false (threeOps o (nr ty.w64) (nr ty.w64) (nr ty.w64) (nr ty.w64)) fun _ _ tm _ t =>
    result ty sat o.d (f (t.reg o.a.toNat) (xVal tm t o.b) (t.reg o.c.toNat))
      (g (t.reg64 o.a.toNat) (xVal64 tm t o.b) (t.reg64 o.c.toNat)) (op (intA ty t o.a) (intX ty tm t o.b) (intA ty t o.c))

/-- The high half of a product: Floor(a × b / 2^W). -/
def high (ty : IntTy) (a b : Int) : Int := a * b / (if ty.w64 then 18446744073709551616 else 4294967296)

/-- The condition of ICMP on two integers. -/
def holds (cc : ICond) (a b : Int) : Bool :=
  match cc with
  | .eq => decide (a = b)
  | .ne => decide (a ≠ b)
  | .lt => decide (a < b)
  | .le => decide (a ≤ b)
  | .gt => decide (a > b)
  | .ge => decide (a ≥ b)

/-! ### Bits (R210, R211) -/

/-- A two-source instruction on bit strings: A and D of 32 or 64 bits, B of 32 or as A. -/
def Bits2 (i : Instr) (o : Two) (len : Nat) (w64 b64 : Bool) (f : Word → Word → Word) (g : DWord → DWord → DWord) : Prop :=
  Gives i o.h len false (twoOps o (nr w64) (nr w64) (nr b64)) fun _ _ tm _ t =>
    { regs := if w64 then wr64 o.d.toNat (g (t.reg64 o.a.toNat) (if b64 then bVal64 .zero tm t o.b else (bVal tm t o.b).setWidth 64))
              else [(o.d.toNat, f (t.reg o.a.toNat) (bVal tm t o.b))] }

/-- A three-source instruction on words. -/
def Bits3 (i : Instr) (o : Three) (f : Word → Word → Word → Word) : Prop :=
  Gives i o.h 3 false (threeOps o 1 1 1 1) fun _ _ tm _ t =>
    { regs := [(o.d.toNat, f (t.reg o.a.toNat) (xVal tm t o.b) (t.reg o.c.toNat))] }

/-- A one-source instruction on a bit string, with a word for result. -/
def Count (i : Instr) (o : One) (len : Nat) (w64 : Bool) (f : (w : Nat) → (Nat → Bool) → Nat) : Prop :=
  Gives i o.h len false [vW o.d, vR o.a (nr w64)] fun _ _ _ _ t =>
    { regs := [(o.d.toNat, BitVec.ofNat 32 (if w64 then f 64 (t.reg64 o.a.toNat).getLsbD else f 32 (t.reg o.a.toNat).getLsbD))] }

/-- Ones, leading zeros and trailing zeros among w bits. -/
def ones (w : Nat) (b : Nat → Bool) : Nat := ((List.range w).filter b).length
def leading (w : Nat) (b : Nat → Bool) : Nat := ((List.range w).takeWhile fun i => !b (w - 1 - i)).length
def trailing (w : Nat) (b : Nat → Bool) : Nat := ((List.range w).takeWhile fun i => !b i).length

/-- BFX, bit by bit (R211). -/
def bfx (sx : Bool) (a b : Word) : Word :=
  let p := (b.extractLsb' 0 8).toNat
  let l := min (b.extractLsb' 8 8).toNat 32
  let f (i : Nat) : Bool := if p + i ≤ 31 then a.getLsbD (p + i) else sx && a.getLsbD 31
  ofBits 32 fun i => if i < l then f i else sx && decide (l ≠ 0) && f (l - 1)

/-- BFI, bit by bit (R211). -/
def bfi (a b c : Word) : Word :=
  let p := (b.extractLsb' 0 8).toNat
  let l := min (b.extractLsb' 8 8).toNat 32
  ofBits 32 fun i => if p ≤ i ∧ i < p + l then a.getLsbD (i - p) else c.getLsbD i

/-- PRMT, bit by bit (R211). -/
def prmt (a b c : Word) : Word :=
  let x : DWord := b ++ a
  ofBits 32 fun j =>
    let sel := (c.extractLsb' (j / 8 * 4) 4).toNat
    x.getLsbD (sel % 8 * 8 + (if 8 ≤ sel then 7 else j % 8))

/-! ### Floating point (R105 to R116, R213 to R225) -/

/-- An FP32 or FP64 operand: flushed where FPCTL says so, its sign cleared, then inverted. -/
def prep (f : Fmt) (t : Thread) (ab ng : Bool) (x : Nat) : FVal := decodeF f (prepSign f ab ng (flushIn f (t.fz f) x))

/-- The effect of one rounded result: flushed where FPCTL says so, its conditions, and a draw under SR. -/
def rounded (f : Fmt) (w64 : Bool) (t : Thread) (rm : RoundCode) (d : VReg) (r : FRes) : Eff :=
  let r := flushRes f (t.fz f) r
  { regs := if w64 then wr64 d.toNat (BitVec.ofNat 64 r.code) else [(d.toNat, BitVec.ofNat 32 r.code)]
    flags := r.fl, draws := if t.mode rm = .sr then 1 else 0 }

/-- The n-th draw of an instruction of a thread (R114, R115). -/
def draw (s : State) (tm : Team) (tid : Nat) (t : Thread) (n : Nat) : Nat := t.draw (s.ctx tm.ctx).rngkey tid n

/-- A two-source FP32 instruction. -/
def Fp32x2 (i : Instr) (o : Two) (len : Nat) (m : FRm) (op : Fmt → RMode → Nat → FVal → FVal → FRes) : Prop :=
  Gives i o.h len false (twoOps o 1 1 1) fun _ s tm tid t =>
    rounded fp32 false t m.rm o.d (op fp32 (t.mode m.rm) (draw s tm tid t 0)
      (prep fp32 t m.m.aa m.m.na (t.reg o.a.toNat).toNat) (prep fp32 t m.m.ab m.m.nb (bVal tm t o.b).toNat))

/-- The code of an FP64 operand B: a literal is an FP32 value widened (R74). -/
def wideB (tm : Team) (t : Thread) (b : SrcB) : Nat :=
  match b with
  | .lit w => litF64 w
  | .reg r => (t.reg64 r.toNat).toNat
  | .xreg r => (t.reg64 r.toNat).toNat
  | .xk k => (tm.kreg64 k.toNat).toNat

/-- A two-source FP64 instruction. -/
def Fp64x2 (i : Instr) (o : Two) (m : FRm) (op : Fmt → RMode → Nat → FVal → FVal → FRes) : Prop :=
  Gives i o.h (lenOfB o.b) false (twoOps o 2 2 2) fun _ s tm tid t =>
    rounded fp64 true t m.rm o.d (op fp64 (t.mode m.rm) (draw s tm tid t 0)
      (prep fp64 t m.m.aa m.m.na (t.reg64 o.a.toNat).toNat) (prep fp64 t m.m.ab m.m.nb (wideB tm t o.b)))

/-- An operand code prepared: flushed, its sign cleared, then inverted. -/
def prepCode (f : Fmt) (t : Thread) (ab ng : Bool) (x : Nat) : Nat := prepSign f ab ng (flushIn f (t.fz f) x)

/-- FMIN or FMAX on FP32: a copy of a prepared operand. -/
def Pick32 (i : Instr) (o : Two) (len : Nat) (m : FMods) (mx : Bool) : Prop :=
  Gives i o.h len false (twoOps o 1 1 1) fun _ _ tm _ t =>
    let r := minMaxF fp32 mx (prepCode fp32 t m.aa m.na (t.reg o.a.toNat).toNat) (prepCode fp32 t m.ab m.nb (bVal tm t o.b).toNat)
    { regs := [(o.d.toNat, BitVec.ofNat 32 r.code)], flags := r.fl }

/-- Element i of a packed pair, flushed and negated (R219). -/
def half (f : Fmt) (t : Thread) (ng : Bool) (w : Word) (i : Nat) : Nat :=
  prepCode f t false ng (w.extractLsb' (16 * i) 16).toNat

/-- FP16 or BF16. -/
def fmt16 (bf : Bool) : Fmt := if bf then bf16 else fp16

/-- Two elements packed, with the conditions of both. -/
def packed (d : VReg) (draws : Nat) (r0 r1 : FRes) : Eff :=
  { regs := [(d.toNat, BitVec.ofNat 32 (r0.code + 65536 * r1.code))], flags := r0.fl ||| r1.fl, draws := draws }

/-- HADD2 or HMUL2: the FP32 operation's like on each element. -/
def Half2 (i : Instr) (o : Two) (len : Nat) (bf : Bool) (rm : RoundCode) (na nb : Bool) (op : Fmt → RMode → Nat → FVal → FVal → FRes) :
    Prop :=
  Gives i o.h len false (twoOps o 1 1 1) fun _ s tm tid t =>
    let f := fmt16 bf
    let r (i : Nat) : FRes :=
      flushRes f (t.fz f) (op f (t.mode rm) (draw s tm tid t i) (decodeF f (half f t na (t.reg o.a.toNat) i))
        (decodeF f (half f t nb (bVal tm t o.b) i)))
    packed o.d (if t.mode rm = .sr then 2 else 0) (r 0) (r 1)

/-- HMIN2 or HMAX2. -/
def HalfPick (i : Instr) (o : Two) (len : Nat) (bf na nb mx : Bool) : Prop :=
  Gives i o.h len false (twoOps o 1 1 1) fun _ _ tm _ t =>
    let f := fmt16 bf
    let r (i : Nat) : FRes := minMaxF f mx (half f t na (t.reg o.a.toNat) i) (half f t nb (bVal tm t o.b) i)
    packed o.d 0 (r 0) (r 1)

/-- A special function: long-latency, rounded by RN whatever FPCTL.RM says. -/
def Special (i : Instr) (o : One) (fn : FVal → FRes) : Prop :=
  Gives i o.h (if o.ext then 3 else 2) true [vW o.d, vR o.a] fun _ _ _ _ t =>
    let r := flushRes fp32 t.fz32 (fn (decodeF fp32 (flushIn fp32 t.fz32 (t.reg o.a.toNat).toNat)))
    { regs := [(o.d.toNat, BitVec.ofNat 32 r.code)], flags := r.fl }

/-! ### The engines -/

/-- A thread traps at its instruction, with kind code and INFO (R166, R167). -/
def faults (s : State) (team tid kind : Nat) (info : DWord) (t : Thread) (len : Nat) : State :=
  s.takeTrap team tid { kind := kind, info := info, pc := t.pc, len := len, seq := s.nextId }

/-- The window of an instruction of a thread (R184): what produces its result, whether that is there, the registers it writes, and
what it waits for. -/
def window (s : State) (h : Hdr) (t : Thread) (kind : WinKind) (ready : Bool) (regs : List (Nat × Word)) (wait : Option Wait) : Window :=
  { id := s.nextId, kind := kind, left := h.la.toNat, ready := ready, regs := regs, preds := [], flags := 0, late := none
    canLate := false, wait := wait, pc := t.pc, yh := h.yh }

/-- A window opens for a thread, and the next identifier is taken. -/
def opens (s : State) (team tid : Nat) (w : Window) : State :=
  ({ s with nextId := s.nextId + 1 } : State).modThread team tid fun u => u.openWin w (w.regs.map (·.1)) []

/-- A thread parks, with WAIT of its record (R47). -/
def parks (s : State) (team tid : Nat) (wait : BitVec 4) : State :=
  (s.unsched team tid).modThread team tid fun u => { u with st := .parked, wait := wait }


end Sys2Proof.Say

open Sys2Proof Sys2Proof.Machine Sys2Proof.Say

/-! ### Decoding, steps and reset -/

/-- No guard: p7 not negated, no look-ahead. -/
def Sys2Proof.Say.bare : Hdr := { gp := 7, gn := false, la := 0, yh := false, ru := false }

/-- Words written out from the spec's encodings, with the instructions they stand for. -/
def Sys2Proof.Say.examples : List (List Nat × Instr) :=
  [([0x1C614804], .iaddC { gp := 2, d := 5, a := 6, b := 7 })
   , ([0x3210B03D, 0x08000000], .gets { bare with gp := 3, gn := true, yh := true } 200 .clock)
   , ([0x4B007202, 0x0000525A, 0x00000800], .iadd { h := bare, d := 300, a := 301, b := .xk 5 } .i32 false)
   , ([0x0000700A, 0x80000000, 0xFFFFFFC0], .bra bare 0xFFFFFFC0)
   , ([0x02407409, 0x05005008], .sel { h := bare, d := 9, a := 4, b := .reg 5 } 2 true false)
   , ([0x0280760A, 0x01005008, 6], .ffma { h := bare, d := 10, a := 4, b := .v 5, c := 6 }
      { rm := .rz, m := { na := false, nb := false, aa := false, ab := false } } { ac := false, nc := false })
   , ([0x05007A0A, 0x80800020, 0x80], .cvtq { h := bare, d := 20, a := 16, b := .lit 128 } .e4m3 false .rn)
   , ([0x02007E09, 0x60814012], .pick bare .flip 1 8 9 (.reg 20))
   , ([0x01007E41, 0x01800000], .barArv bare .team 3 4)
   , ([0x00807102, 0x80800008, 0x11], .launch bare true false 2 4 (.lit 17))
   , ([0x07007C06, 0x3900D02C, 0x20000000], .st { h := bare, d := 28, a := 22, mem := .index (.v 13) 4, ord := .rel, scope := .die } .b64a8)
   , ([0x00007F81, 0x50], .kick bare 40 .base)
   , ([0x0B007F12, 0x3002E042, 0x80000000], .mgmm bare .e4m3 true true false 44 33 (.v 46) 0 (some 0))]

/-- R65, R66, R69 to R76, R93: words written out bit by bit from the encodings decode to the instructions they stand for. -/
def Obligations.DecodeWords : Prop :=
  ∀ x ∈ examples, decodeWords (x.1.map (BitVec.ofNat 32)) = x.2

/-- R75, R76, R93: every word of an instruction in the C form decodes to that instruction, whatever its operands. -/
def Obligations.CompactEncoding : Prop :=
  ∀ i w, encShort i = some w → decodeWords [w] = i

/-- R65 to R76, R93: every well-formed instruction that is not of a C form has words, of the number that their first says, and they
decode to it, with every operand at every value that its encoding admits. -/
def Obligations.EncodeDecode : Prop :=
  ∀ i f, Instr.wf i = true → encFields i = some f →
    decodeWords (wordsOf f) = i ∧ (wordsOf f).length = lenOf ((wordsOf f).headD 0)

/-- R2, R182, R326: a step runs the decoded instruction. The group of the next selected slot, with nothing to hold it, fetches its words
at its PC and the step is the execution of what they decode to, at that group; a row of the agenda is executed with its operands, and
with nothing to do a clk passes. A word fetched from this package is the one that memory held there when the launch was posted (R97; log
18). The order of groups, agenda and time is the model's (log 1). -/
def Obligations.StepRuns : Prop :=
  (∀ (s : State) c slot rest g tm x ths ws u, s.issueQ = (c, slot) :: rest → c < 128 → slot < 8 →
    let v : State := { s with issueQ := rest, cur := none }
    (v.core c).active.find slot = some g → v.team? g.team = some tm → (v.core c).draining = false →
    (v.ctx tm.ctx).st = .active → (tm.lr.res = true ∨ (v.ctx tm.ctx).outCores.contains c = false) → g.notBefore ≤ v.clk → g.awaits = [] →
    v.laneThreads g = x :: ths → (∀ y ∈ x :: ths, y.2.2.parksOn = none ∧ y.2.2.stalls = false) →
    v.fetch c tm.ctx tm.lid x.2.2.pc = (.words ws, u) → u.holds c g (decodeWords ws) = false →
    step s = exec (decodeWords ws) { u.unstall c slot g with cur := some (c, slot) })
  ∧ (∀ (s : State) i e rest, s.issueQ = [] → s.agenda = .row i e :: rest →
    step s = exec i { s with agenda := rest, cur := none, ev := e })
  ∧ (∀ s : State, s.issueQ = [] → s.agenda = [] → ∃ t, step s = .next t ∧ t.clk = s.clk + 1 ∧ t.mem = s.mem ∧ t.threads = s.threads)
  ∧ (∀ (s : State) core ctx lid pc gpa y u, s.access (dieOf core) (some core) ctx .fetch (pc.setWidth 64) = (.ok gpa y, u) →
    pkgOf gpa = u.pkgid → u.poisonedIn (localOf gpa) 4 = false →
    s.fetchWord core ctx lid pc = (.words [u.codeWord lid (localOf gpa)], u))
  ∧ (∀ (s : State) core ctx lid pc w u, s.fetchWord core ctx lid pc = (.words [w], u) → lenOf w = 1 → s.fetch core ctx lid pc = (.words [w], u))
  ∧ (∀ (s : State) core ctx lid pc w w' u v, s.fetchWord core ctx lid pc = (.words [w], u) → lenOf w = 2 →
    u.fetchWord core ctx lid (pc + 4) = (.words [w'], v) → s.fetch core ctx lid pc = (.words [w, w'], v))

/-- R174, R175, R191 to R193, R256, R257, R390, R405, R430, R442, R447: what reset leaves, where the spec gives a value; and that memory
lists nothing and keeps its form, that every byte reads 0 (the model's choice, log 3), and that no team or thread is there. -/
def Obligations.ResetState : Prop :=
  (∀ c, let k := State.reset.core c
    k.parkTh = 32 ∧ k.ageLimit = 512 ∧ k.relax = 16 ∧ k.limit = 64 ∧ k.en = true ∧ k.quar = false ∧ k.cur = 0 ∧ k.wlen = 0
      ∧ k.batts = [] ∧ k.active = [] ∧ k.pending = [] ∧ k.storeq = [])
  ∧ (∀ c, let x := State.reset.ctx c
    x.st = .free ∧ x.priv = false ∧ x.prio = 0 ∧ x.slice = 256)
  ∧ (∀ q, (State.reset.queue q).en = false)
  ∧ (∀ d, let x := State.reset.die d
    x.twarn = 95 ∧ x.tcrit = 110 ∧ x.logEn = false ∧ x.attested.st = 0 ∧ x.attested.nrst = 0 ∧ x.lost = false)
  ∧ (∀ p, (State.reset.port p).st = .off ∧ (State.reset.port p).en = false)
  ∧ State.reset.hopmax = 2 ∧ State.reset.pkgid = 0 ∧ State.reset.keyint = 36 ∧ State.reset.pwrLimit = 4200
  ∧ State.reset.ready = false ∧ State.reset.anchok = false ∧ State.reset.teams = [] ∧ State.reset.threads = []
  ∧ State.reset.Safe ∧ State.reset.Legal ∧ ∀ a, State.reset.peek a = 0

/-- R405, R442, R447: every step, from any state that has them so, keeps memory in its canonical form (log 3), HOPMAX at most 8, PKGID at
most 287, KEYINT from 30 to 44 and PWRCTL.LIMIT from 1,500 to 4,200. Memory's canonical form, and a write of KLCTL with one field out of
range, are the model's (log 3, log 32). -/
def Obligations.StepsKeepLegal : Prop :=
  ∀ s t : State, s.Legal → step s = .next t → t.Legal

/-- R12, R151: bytes written are read back, and every byte at another place is as it was; a number written is read back low byte first;
every write keeps memory's canonical form. -/
def Obligations.MemoryLaws : Prop :=
  (∀ (s : State) a l, s.Safe → (∀ i j, i < l.length → j < l.length → s.home (a + i) = s.home (a + j) → i = j) →
    ∀ i, i < l.length → (s.pokeN a l).peek (a + i) = l.getD i 0)
  ∧ (∀ (s : State) a l b, s.Safe → (∀ i, i < l.length → s.home b ≠ s.home (a + i)) → (s.pokeN a l).peek b = s.peek b)
  ∧ (∀ (s : State) a n v, s.Safe → (∀ i j, i < n → j < n → s.home (a + i) = s.home (a + j) → i = j) →
    (s.pokeNat a n v).peekNat a n = v % 256 ^ n)
  ∧ (∀ (s : State) a n, s.peekNat a (n + 1) = (s.peek a).toNat + 256 * s.peekNat (a + 1) n)
  ∧ (∀ (s : State) a l, s.Safe → (s.pokeN a l).Safe)
  ∧ (∀ (s : State) a n, s.Safe → (s.clear a n).Safe)
  ∧ (∀ (s : State) d, s.Safe → (s.zeroStack d).Safe)

/-- R67, R106, R109, R115, R184, R185: the frame of every vector ALU instruction, whatever its form. It leaves all of memory, every team
and engine, every context and every other field but the sequencer's as it was; a thread outside its group is untouched; a thread of its
group keeps its region, its call stack, its k registers, FPCTL, every register but its destinations and every predicate but its
destinations, and a guarded-off thread keeps all of them. -/
def Obligations.AluFrame : Prop :=
  ∀ i h len long vs e, Gives i h len long vs e → ∀ s c slot g tm, State.Ready s c slot g tm h vs →
    (∀ x ∈ s.laneThreads g, x.2.2.live h = true → (e c s tm x.2.1 x.2.2).flags &&& x.2.2.enables = 0) →
    ∃ t, exec i s = .next t
      ∧ (∀ a, t.peek a = s.peek a) ∧ t.teams = s.teams ∧ t.ctxs = s.ctxs ∧ t.dies = s.dies ∧ t.poison = s.poison ∧ t.queues = s.queues
      ∧ (∀ k, ¬ (k / 4096 = g.team ∧ ∃ l ∈ g.lanes, l.2 = k % 4096) →
        (t.threads.find k).map Thread.bare = (s.threads.find k).map Thread.bare)
      ∧ ∀ x ∈ s.laneThreads g, x.2.1 < 4096 → ∃ u, t.thread? g.team x.2.1 = some u
        ∧ u.pc = x.2.2.pc + BitVec.ofNat 55 (4 * len) ∧ u.rpc = x.2.2.rpc ∧ u.rcnt = x.2.2.rcnt ∧ u.csp = x.2.2.csp
        ∧ u.fpctl = x.2.2.fpctl ∧ u.rngent = x.2.2.rngent
        ∧ (x.2.2.live h = false → u.regs = x.2.2.regs ∧ u.preds = x.2.2.preds ∧ u.flags = x.2.2.flags ∧ u.rngctr = x.2.2.rngctr)
        ∧ (long = true → u.regs = x.2.2.regs ∧ u.preds = x.2.2.preds ∧ u.flags = x.2.2.flags)
        ∧ (∀ n, n ∉ (e c s tm x.2.1 x.2.2).regs.map (·.1) → u.reg n = x.2.2.reg n)
        ∧ (∀ p, p ∉ (e c s tm x.2.1 x.2.2).preds.map (·.1) → u.pred p = x.2.2.pred p)

/-- R19, R387, R397: the bytes of a flit before its check are read back as its fields, on a die link and on a port; a die link's flit
with its check decodes to itself; the units of a message are read back as the message. The tag's place, the unit of a chunk and padding
are the model's (log 29, log 30), the cipher is the public standard's (log 8). -/
def Obligations.FlitsAndMessages : Prop :=
  (∀ (f : LinkFmt) (x : RxFlit), f = dieFmt ∨ f = kalsyFmt → x.seq < f.seqs → x.ack < f.seqs → x.type < 4 → x.ki < 2 →
    x.payload.length = f.pay → f.fields (f.body x) = some x)
  ∧ (∀ x : RxFlit, x.seq < 16777216 → x.ack < 16777216 → x.type < 4 → x.ki < 2 → x.payload.length = 54 →
    (dieFmt.encode x).length = 64 ∧ dieFmt.decode (dieFmt.encode x) = some (false, x))
  ∧ (∀ m : Msg, m.dpkg < 512 → m.spkg < 512 → m.sctx < 64 → m.hops < 16 → m.rid < 16777216 → m.data.length ≤ 528 →
    (m.kind = .chunk → m.data.length % 8 = 0 ∧ m.addr.toNat % 8 = 0) → (m.kind ≠ .chunk → m.data.length % 16 = 0 ∧ m.scr = false) →
    msgOf (Machine.ofBytes ((msgBytes m).take 16)) ((msgBytes m).drop 16) = some m)

/-- R1, R4, R94, R96: nothing stops the machine. Every instruction and every row gives a next state, in every state whatever; a step does
so wherever the groups selected to issue are slots of cores, and is a fault only where one is not. That a row whose condition does not
hold changes nothing is the model's (log 9). -/
def Obligations.NeverStops : Prop :=
  (∀ i s, ∃ t, exec i s = .next t)
  ∧ (∀ s : State, (∀ e ∈ s.issueQ, e.1 < 128 ∧ e.2 < 8) → ∃ t, step s = .next t)
  ∧ ∀ (s : State) c slot rest, s.issueQ = (c, slot) :: rest → 128 ≤ c ∨ 8 ≤ slot → step s = .fault .noSuchGroup

/-! ### The vector ALU -/

/-- R206 to R208: IADD, ISUB, IMUL, IADD3 and IMAD, with their C forms, wrap, or with SAT clamp and set FLAGS.SAT. -/
def Obligations.IntegerSums : Prop :=
  (∀ o ty sat, Int2 (.iadd o ty sat) o (lenOfB o.b) ty sat (· + ·) (· + ·) (· + ·))
  ∧ (∀ o ty sat, Int2 (.isub o ty sat) o (lenOfB o.b) ty sat (· - ·) (· - ·) (· - ·))
  ∧ (∀ o ty sat, Int2 (.imul o ty sat) o (lenOfB o.b) ty sat (· * ·) (· * ·) (· * ·))
  ∧ (∀ o ty sat, Int3 (.iadd3 o ty sat) o ty sat (fun a b c => a + b + c) (fun a b c => a + b + c) fun a b c => a + b + c)
  ∧ (∀ o ty sat, Int3 (.imad o ty sat) o ty sat (fun a b c => a * b + c) (fun a b c => a * b + c) fun a b c => a * b + c)
  ∧ (∀ c, Int2 (.iaddC c) (two c) 1 .i32 false (· + ·) (· + ·) (· + ·))
  ∧ (∀ c, Int2 (.isubC c) (two c) 1 .i32 false (· - ·) (· - ·) (· - ·))
  ∧ (∀ c, Int2 (.imulC c) (two c) 1 .i32 false (· * ·) (· * ·) (· * ·))
  ∧ (∀ c, Int2 (.iaddSatI32C c) (two c) 1 .i32 true (· + ·) (· + ·) (· + ·))
  ∧ (∀ c, Int2 (.isubSatI32C c) (two c) 1 .i32 true (· - ·) (· - ·) (· - ·))
  ∧ (∀ c, Int2 (.iaddSatN32C c) (two c) 1 .n32 true (· + ·) (· + ·) (· + ·))
  ∧ (∀ c, Int2 (.isubSatN32C c) (two c) 1 .n32 true (· - ·) (· - ·) (· - ·))

/-- R207, R208: IMULH, IMADW, IMIN, IMAX, IABS, INEG and ISAD, with their C forms. -/
def Obligations.IntegerProductsAndOrder : Prop :=
  (∀ o ty, Int2x (.imulh o ty) o (lenOfB o.b) ty (high ty))
  ∧ (∀ o ty, Int2x (.imin o ty) o (lenOfB o.b) ty min)
  ∧ (∀ o ty, Int2x (.imax o ty) o (lenOfB o.b) ty max)
  ∧ (∀ o ty, Int3 (.isad o ty) o ty false (fun a b c => BitVec.ofInt 32 ((int ty a 0 - int ty b 0).natAbs + int ty c 0))
      (fun a b c => BitVec.ofInt 64 ((int ty 0 a - int ty 0 b).natAbs + int ty 0 c)) fun a b c => (a - b).natAbs + c)
  ∧ (∀ (o : Three) (ty wide : IntTy) sat, (ty = .i32 ∧ wide = .i64) ∨ (ty = .n32 ∧ wide = .n64) →
      Gives (.imadw o ty sat) o.h 3 false (threeOps o 2 1 1 2) fun _ _ tm _ t =>
        let e := intA ty t o.a * intX ty tm t o.b + intA wide t o.c
        result wide sat o.d 0 (BitVec.ofInt 64 e) e)
  ∧ (∀ (o : One) (ty : IntTy) sat, ty = .i32 ∨ ty = .i64 →
      Gives (.iabs o ty sat) o.h (if o.ext then 3 else 2) false [vW o.d (nr ty.w64), vR o.a (nr ty.w64)] fun _ _ _ _ t =>
        let e : Int := (intA ty t o.a).natAbs
        result ty sat o.d (BitVec.ofInt 32 e) (BitVec.ofInt 64 e) e)
  ∧ (∀ (o : One) (ty : IntTy) sat, ty = .i32 ∨ ty = .i64 →
      Gives (.ineg o ty sat) o.h (if o.ext then 3 else 2) false [vW o.d (nr ty.w64), vR o.a (nr ty.w64)] fun _ _ _ _ t =>
        result ty sat o.d (-t.reg o.a.toNat) (-t.reg64 o.a.toNat) (-intA ty t o.a))
  ∧ (∀ c, Int2x (.imulhI32C c) (two c) 1 .i32 (high .i32))
  ∧ (∀ c, Int2x (.imulhN32C c) (two c) 1 .n32 (high .n32))
  ∧ (∀ c, Int2x (.iminI32C c) (two c) 1 .i32 min)
  ∧ (∀ c, Int2x (.iminN32C c) (two c) 1 .n32 min)
  ∧ (∀ c, Int2x (.imaxI32C c) (two c) 1 .i32 max)
  ∧ (∀ c, Int2x (.imaxN32C c) (two c) 1 .n32 max)
  ∧ (∀ c, Gives (.iabsC c) (one c).h 1 false [vW (one c).d, vR (one c).a] fun _ _ _ _ t =>
      { regs := [((one c).d.toNat, BitVec.ofNat 32 (t.reg (one c).a.toNat).toInt.natAbs)] })
  ∧ (∀ c, Gives (.inegC c) (one c).h 1 false [vW (one c).d, vR (one c).a] fun _ _ _ _ t =>
      { regs := [((one c).d.toNat, -t.reg (one c).a.toNat)] })

/-- R206, R208, R209: ICMP writes its predicate with the comparison of the two integers; IADDC adds with the carry of its predicate, or
with SUB the complement of B, and leaves the carry in it. -/
def Obligations.CompareAndCarry : Prop :=
  (∀ (o : Two) cc ty,
    Gives (.icmp o cc ty) o.h (lenOfB o.b) false (vR o.a (nr ty.w64) :: srcOps o.b (nr ty.w64)) fun _ _ tm _ t =>
      { preds := [(o.d.toNat % 8, holds cc (intA ty t o.a) (intB ty tm t o.b))] })
  ∧ (∀ (o : Two) sub (p : PReg),
    Gives (.iaddc o sub p .i32) o.h (lenOfB o.b) false (twoOps o 1 1 1) fun _ _ tm _ t =>
      let b := if sub then ~~~(bVal tm t o.b) else bVal tm t o.b
      let x : BitVec 33 := (t.reg o.a.toNat).setWidth 33 + b.setWidth 33 + (BitVec.ofBool (t.pred p.toNat)).setWidth 33
      { regs := [(o.d.toNat, x.setWidth 32)], preds := [(p.toNat, x.getLsbD 32)] })
  ∧ (∀ (o : Two) sub (p : PReg),
    Gives (.iaddc o sub p .i64) o.h (lenOfB o.b) false (twoOps o 2 2 2) fun _ _ tm _ t =>
      let b := if sub then ~~~(bVal64 .sign tm t o.b) else bVal64 .sign tm t o.b
      let x : BitVec 65 := (t.reg64 o.a.toNat).setWidth 65 + b.setWidth 65 + (BitVec.ofBool (t.pred p.toNat)).setWidth 65
      { regs := wr64 o.d.toNat (x.setWidth 64), preds := [(p.toNat, x.getLsbD 64)] })

/-- R210: AND, OR, XOR, NOT and TERN, with their C forms. R210: SHL, SHR, SAR, ROTL and FSHL, with their C forms: counts of W or more
shift every bit out, ROTL takes its count mod W and FSHL mod 32. -/
def Obligations.LogicAndShifts : Prop :=
  ((∀ o w, Bits2 (.and o w) o (lenOfB o.b) w w (· &&& ·) (· &&& ·))
   ∧ (∀ o w, Bits2 (.or o w) o (lenOfB o.b) w w (· ||| ·) (· ||| ·))
   ∧ (∀ o w, Bits2 (.xor o w) o (lenOfB o.b) w w (· ^^^ ·) (· ^^^ ·))
   ∧ (∀ (o : One) w, Gives (.not o w) o.h (if o.ext then 3 else 2) false [vW o.d (nr w), vR o.a (nr w)] fun _ _ _ _ t =>
       { regs := if w then wr64 o.d.toNat (~~~(t.reg64 o.a.toNat)) else [(o.d.toNat, ~~~(t.reg o.a.toNat))] })
   ∧ (∀ o tbl, Bits3 (.tern o tbl false) o fun a b c =>
       ofBits 32 fun i => tbl.getLsbD (4 * (c.getLsbD i).toNat + 2 * (b.getLsbD i).toNat + (a.getLsbD i).toNat))
   ∧ (∀ (o : Three) tbl, Gives (.tern o tbl true) o.h 3 false (threeOps o 2 2 2 2) fun _ _ tm _ t =>
       { regs := wr64 o.d.toNat (ofBits 64 fun i => tbl.getLsbD (4 * ((t.reg64 o.c.toNat).getLsbD i).toNat
           + 2 * ((xVal64 tm t o.b).getLsbD i).toNat + ((t.reg64 o.a.toNat).getLsbD i).toNat)) })
   ∧ (∀ c, Bits2 (.andC c) (two c) 1 false false (· &&& ·) (· &&& ·))
   ∧ (∀ c, Bits2 (.orC c) (two c) 1 false false (· ||| ·) (· ||| ·))
   ∧ (∀ c, Bits2 (.xorC c) (two c) 1 false false (· ^^^ ·) (· ^^^ ·))
   ∧ (∀ c, Gives (.notC c) (one c).h 1 false [vW (one c).d, vR (one c).a] fun _ _ _ _ t =>
       { regs := [((one c).d.toNat, ~~~(t.reg (one c).a.toNat))] }))
  ∧ ((∀ o w, Bits2 (.shl o w) o (lenOfB o.b) w false (fun a n => a <<< n.toNat) fun a n => a <<< n.toNat)
     ∧ (∀ o w, Bits2 (.shr o w) o (lenOfB o.b) w false (fun a n => a >>> n.toNat) fun a n => a >>> n.toNat)
     ∧ (∀ o w, Bits2 (.sar o w) o (lenOfB o.b) w false (fun a n => a.sshiftRight n.toNat) fun a n => a.sshiftRight n.toNat)
     ∧ (∀ o w, Bits2 (.rotl o w) o (lenOfB o.b) w false (fun a n => a.rotateLeft n.toNat) fun a n => a.rotateLeft n.toNat)
     ∧ (∀ o, Bits3 (.fshl o) o fun a b c => ((a ++ b) <<< (c.toNat % 32)).extractLsb' 32 32)
     ∧ (∀ c, Bits2 (.shlC c) (two c) 1 false false (fun a n => a <<< n.toNat) fun a n => a <<< n.toNat)
     ∧ (∀ c, Bits2 (.shrC c) (two c) 1 false false (fun a n => a >>> n.toNat) fun a n => a >>> n.toNat)
     ∧ (∀ c, Bits2 (.sarC c) (two c) 1 false false (fun a n => a.sshiftRight n.toNat) fun a n => a.sshiftRight n.toNat)
     ∧ (∀ c, Bits2 (.rotlC c) (two c) 1 false false (fun a n => a.rotateLeft n.toNat) fun a n => a.rotateLeft n.toNat))

/-- R210: POPC, CLZ, CTZ and BREV, with their C forms; CLZ and CTZ of 0 give W. R211: BFX, BFI and PRMT, bit by bit as the rule gives
them. -/
def Obligations.BitCountsAndFields : Prop :=
  ((∀ o w, Count (.popc o w) o (if o.ext then 3 else 2) w ones)
   ∧ (∀ o w, Count (.clz o w) o (if o.ext then 3 else 2) w leading)
   ∧ (∀ o w, Count (.ctz o w) o (if o.ext then 3 else 2) w trailing)
   ∧ (∀ (o : One) w, Gives (.brev o w) o.h (if o.ext then 3 else 2) false [vW o.d (nr w), vR o.a (nr w)] fun _ _ _ _ t =>
       { regs := if w then wr64 o.d.toNat (ofBits 64 fun i => (t.reg64 o.a.toNat).getLsbD (63 - i))
                 else [(o.d.toNat, ofBits 32 fun i => (t.reg o.a.toNat).getLsbD (31 - i))] })
   ∧ (∀ c, Count (.popcC c) (one c) 1 false ones)
   ∧ (∀ c, Count (.clzC c) (one c) 1 false leading)
   ∧ (∀ c, Count (.ctzC c) (one c) 1 false trailing)
   ∧ (∀ c, Gives (.brevC c) (one c).h 1 false [vW (one c).d, vR (one c).a] fun _ _ _ _ t =>
       { regs := [((one c).d.toNat, ofBits 32 fun i => (t.reg (one c).a.toNat).getLsbD (31 - i))] }))
  ∧ ((∀ o sx, Bits2 (.bfx o sx) o (lenOfB o.b) false false (bfx sx) (· &&& ·))
     ∧ (∀ o, Bits3 (.bfi o) o bfi)
     ∧ (∀ o, Bits3 (.prmt o) o prmt))

/-- R212: MOV, MOVL, SEL, LEA, PSET, PLOP, P2V and V2P, and MOV's C form. -/
def Obligations.MovesAndPredicates : Prop :=
  (∀ (o : One) (w : MovW), Gives (.mov o w) o.h (if o.ext then 3 else 2) false [vW o.d w.regs, vR o.a w.regs] fun _ _ _ _ t =>
      { regs := (List.range w.regs).map fun i => (o.d.toNat + i, t.reg (o.a.toNat + i)) })
  ∧ (∀ c, Gives (.movC c) (one c).h 1 false [vW (one c).d, vR (one c).a] fun _ _ _ _ t =>
      { regs := [((one c).d.toNat, t.reg (one c).a.toNat)] })
  ∧ (∀ h (d : VReg) lit, Gives (.movl h d lit .b32) h 3 false [vW d] fun _ _ _ _ _ => { regs := [(d.toNat, lit)] })
  ∧ (∀ h (d : VReg) lit, Gives (.movl h d lit .i64) h 3 false [vW d 2] fun _ _ _ _ _ =>
      { regs := [(d.toNat, lit), (d.toNat + 1, if lit.msb then 0xFFFFFFFF else 0)] })
  ∧ (∀ h (d : VReg) lit, Gives (.movl h d lit .n64) h 3 false [vW d 2] fun _ _ _ _ _ =>
      { regs := [(d.toNat, lit), (d.toNat + 1, 0)] })
  ∧ (∀ (o : Two) (p : PReg) neg w, Gives (.sel o p neg w) o.h (lenOfB o.b) false (twoOps o (nr w) (nr w) (nr w)) fun _ _ tm _ t =>
      let yes := t.pred p.toNat != neg
      { regs := if w then wr64 o.d.toNat (if yes then t.reg64 o.a.toNat else bVal64 .zero tm t o.b)
                else [(o.d.toNat, if yes then t.reg o.a.toNat else bVal tm t o.b)] })
  ∧ (∀ (o : Two) (sh : BitVec 3) w zx, Gives (.lea o sh w zx) o.h (lenOfB o.b) false (twoOps o (nr w) (nr w) 1) fun _ _ tm _ t =>
      let b := bVal tm t o.b
      { regs := if w then wr64 o.d.toNat (t.reg64 o.a.toNat + (if zx then b.setWidth 64 else b.signExtend 64) * 2 ^ sh.toNat)
                else [(o.d.toNat, t.reg o.a.toNat + b * 2 ^ sh.toNat)] })
  ∧ (∀ (o : Two) z w, Gives (.pset o z w) o.h (lenOfB o.b) false (vR o.a (nr w) :: srcOps o.b (nr w)) fun _ _ tm _ t =>
      let any := if w then t.reg64 o.a.toNat &&& bVal64 .zero tm t o.b != 0 else t.reg o.a.toNat &&& bVal tm t o.b != 0
      { preds := [(o.d.toNat % 8, any ^^ z)] })
  ∧ (∀ h (d a b : PReg) (lut : BitVec 4), Gives (.plop h d a b lut) h 2 false [] fun _ _ _ _ t =>
      { preds := [(d.toNat, lut.getLsbD (2 * (t.pred a.toNat).toNat + (t.pred b.toNat).toNat))] })
  ∧ (∀ h (d : VReg) e, Gives (.p2v h d e) h (if e then 3 else 2) false [vW d] fun _ _ _ _ t =>
      { regs := [(d.toNat, ofBits 32 fun i => i == 7 || (i < 7 && t.preds.getLsbD i))] })
  ∧ (∀ h (a : VReg) (mask : BitVec 7) e, Gives (.v2p h a mask e) h (if e then 3 else 2) false [vR a] fun _ _ _ _ t =>
      { preds := ((List.range 7).filter mask.getLsbD).map fun i => (i, (t.reg a.toNat).getLsbD i) })

/-- R213, R214: FADD, FMUL, FFMA, DADD, DMUL and DFMA, with the C forms of FADD and FMUL: the operands flushed, their signs cleared and
inverted, the exact value rounded once, the result flushed. -/
def Obligations.FloatArithmetic : Prop :=
  (∀ o m, Fp32x2 (.fadd o m) o (lenOfB o.b) m addVal)
  ∧ (∀ o m, Fp32x2 (.fmul o m) o (lenOfB o.b) m mulVal)
  ∧ (∀ c, Fp32x2 (.faddC c) (two c) 1 { rm := .fpctl, m := { na := false, nb := false, aa := false, ab := false } } addVal)
  ∧ (∀ c, Fp32x2 (.fmulC c) (two c) 1 { rm := .fpctl, m := { na := false, nb := false, aa := false, ab := false } } mulVal)
  ∧ (∀ o m, Fp64x2 (.dadd o m) o m addVal)
  ∧ (∀ o m, Fp64x2 (.dmul o m) o m mulVal)
  ∧ (∀ (o : Three) (m : FRm) (k : FCm), Gives (.ffma o m k) o.h 3 false (threeOps o 1 1 1 1) fun _ s tm tid t =>
      rounded fp32 false t m.rm o.d (fmaVal fp32 (t.mode m.rm) (draw s tm tid t 0) (prep fp32 t m.m.aa m.m.na (t.reg o.a.toNat).toNat)
        (prep fp32 t m.m.ab m.m.nb (xVal tm t o.b).toNat) (prep fp32 t k.ac k.nc (t.reg o.c.toNat).toNat)))
  ∧ (∀ (o : Three) (m : FRm) (k : FCm), Gives (.dfma o m k) o.h 3 false (threeOps o 2 2 2 2) fun _ s tm tid t =>
      rounded fp64 true t m.rm o.d (fmaVal fp64 (t.mode m.rm) (draw s tm tid t 0) (prep fp64 t m.m.aa m.m.na (t.reg64 o.a.toNat).toNat)
        (prep fp64 t m.m.ab m.m.nb (xVal64 tm t o.b).toNat) (prep fp64 t k.ac k.nc (t.reg64 o.c.toNat).toNat)))

/-- R214 to R218: FMIN, FMAX, FCMP, DMIN, DMAX, DCMP, FCLASS, FRND, FSCALE and FFREXP, with their C forms. -/
def Obligations.FloatOrderAndForm : Prop :=
  (∀ o m, Pick32 (.fmin o m) o (lenOfB o.b) m false)
  ∧ (∀ o m, Pick32 (.fmax o m) o (lenOfB o.b) m true)
  ∧ (∀ c, Pick32 (.fminC c) (two c) 1 { na := false, nb := false, aa := false, ab := false } false)
  ∧ (∀ c, Pick32 (.fmaxC c) (two c) 1 { na := false, nb := false, aa := false, ab := false } true)
  ∧ (∀ (o : Two) (m : FMods), Gives (.dmin o m) o.h (lenOfB o.b) false (twoOps o 2 2 2) fun _ _ tm _ t =>
      let r := minMaxF fp64 false (prepCode fp64 t m.aa m.na (t.reg64 o.a.toNat).toNat) (prepCode fp64 t m.ab m.nb (wideB tm t o.b))
      { regs := wr64 o.d.toNat (BitVec.ofNat 64 r.code), flags := r.fl })
  ∧ (∀ (o : Two) (m : FMods), Gives (.dmax o m) o.h (lenOfB o.b) false (twoOps o 2 2 2) fun _ _ tm _ t =>
      let r := minMaxF fp64 true (prepCode fp64 t m.aa m.na (t.reg64 o.a.toNat).toNat) (prepCode fp64 t m.ab m.nb (wideB tm t o.b))
      { regs := wr64 o.d.toNat (BitVec.ofNat 64 r.code), flags := r.fl })
  ∧ (∀ (o : Two) cc (m : FMods), Gives (.fcmp o cc m) o.h (lenOfB o.b) false (vR o.a :: srcOps o.b) fun _ _ tm _ t =>
      let r := condF cc (prep fp32 t m.aa m.na (t.reg o.a.toNat).toNat) (prep fp32 t m.ab m.nb (bVal tm t o.b).toNat)
      { preds := [(o.d.toNat % 8, r.1)], flags := r.2 })
  ∧ (∀ (o : Two) cc (m : FMods), Gives (.dcmp o cc m) o.h (lenOfB o.b) false (vR o.a 2 :: srcOps o.b 2) fun _ _ tm _ t =>
      let r := condF cc (prep fp64 t m.aa m.na (t.reg64 o.a.toNat).toNat) (prep fp64 t m.ab m.nb (wideB tm t o.b))
      { preds := [(o.d.toNat % 8, r.1)], flags := r.2 })
  ∧ (∀ (o : One), Gives (.fclass o) o.h (if o.ext then 3 else 2) false [vW o.d, vR o.a] fun _ _ _ _ t =>
      { regs := [(o.d.toNat, BitVec.ofNat 32 (classF fp32 (t.reg o.a.toNat).toNat))] })
  ∧ (∀ (o : One) rm, Gives (.frnd o rm) o.h (if o.ext then 3 else 2) false [vW o.d, vR o.a] fun _ s tm tid t =>
      rounded fp32 false t rm o.d (frndVal fp32 (t.mode rm) (draw s tm tid t 0) (prepCode fp32 t false false (t.reg o.a.toNat).toNat)))
  ∧ (∀ c, Gives (.frndRnC c) (one c).h 1 false [vW (one c).d, vR (one c).a] fun _ s tm tid t =>
      rounded fp32 false t .rn (one c).d
        (frndVal fp32 .rn (draw s tm tid t 0) (prepCode fp32 t false false (t.reg (one c).a.toNat).toNat)))
  ∧ (∀ (o : Two) rm na aa, Gives (.fscale o rm na aa) o.h (lenOfB o.b) false (twoOps o 1 1 1) fun _ s tm tid t =>
      rounded fp32 false t rm o.d (cvtVal fp32 (t.mode rm) false (draw s tm tid t 0)
        (scaleVal (prep fp32 t aa na (t.reg o.a.toNat).toNat) (max (-1024) (min 1024 (bVal tm t o.b).toInt)))))
  ∧ (∀ c, Gives (.fscaleC c) (two c).h 1 false (twoOps (two c) 1 1 1) fun _ s tm tid t =>
      rounded fp32 false t .fpctl (two c).d (cvtVal fp32 (t.mode .fpctl) false (draw s tm tid t 0)
        (scaleVal (prep fp32 t false false (t.reg (two c).a.toNat).toNat) (max (-1024) (min 1024 (bVal tm t (two c).b).toInt)))))
  ∧ (∀ (o : One) e, Gives (.ffrexp o e) o.h (if o.ext then 3 else 2) false [vW o.d, vR o.a] fun _ _ _ _ t =>
      let r := frexpF fp32 (prepCode fp32 t false false (t.reg o.a.toNat).toNat)
      { regs := [(o.d.toNat, BitVec.ofNat 32 (if e then r.2.code else r.1.code))], flags := if e then r.2.fl else r.1.fl })

/-- R219: HADD2, HMUL2, HFMA2, HMIN2 and HMAX2, with their C forms: the operation on each element, the flags of both together. -/
def Obligations.PackedPairs : Prop :=
  (∀ o bf rm na nb, Half2 (.hadd2 o bf rm na nb) o (lenOfB o.b) bf rm na nb addVal)
  ∧ (∀ o bf rm na nb, Half2 (.hmul2 o bf rm na nb) o (lenOfB o.b) bf rm na nb mulVal)
  ∧ (∀ (o : Three) bf rm na nb nc, Gives (.hfma2 o bf rm na nb nc) o.h 3 false (threeOps o 1 1 1 1) fun _ s tm tid t =>
      let f := fmt16 bf
      let r (i : Nat) : FRes :=
        flushRes f (t.fz f) (fmaVal f (t.mode rm) (draw s tm tid t i) (decodeF f (half f t na (t.reg o.a.toNat) i))
          (decodeF f (half f t nb (xVal tm t o.b) i)) (decodeF f (half f t nc (t.reg o.c.toNat) i)))
      packed o.d (if t.mode rm = .sr then 2 else 0) (r 0) (r 1))
  ∧ (∀ o bf na nb, HalfPick (.hmin2 o bf na nb) o (lenOfB o.b) bf na nb false)
  ∧ (∀ o bf na nb, HalfPick (.hmax2 o bf na nb) o (lenOfB o.b) bf na nb true)
  ∧ (∀ c, Half2 (.hadd2F16C c) (two c) 1 false .fpctl false false addVal)
  ∧ (∀ c, Half2 (.hmul2F16C c) (two c) 1 false .fpctl false false mulVal)
  ∧ (∀ c, Half2 (.hadd2Bf16C c) (two c) 1 true .fpctl false false addVal)
  ∧ (∀ c, Half2 (.hmul2Bf16C c) (two c) 1 true .fpctl false false mulVal)
  ∧ (∀ c, HalfPick (.hmin2F16C c) (two c) 1 false false false false)
  ∧ (∀ c, HalfPick (.hmax2F16C c) (two c) 1 false false false true)
  ∧ (∀ c, HalfPick (.hmin2Bf16C c) (two c) 1 true false false false)
  ∧ (∀ c, HalfPick (.hmax2Bf16C c) (two c) 1 true false false true)

/-- R222 to R225: CVTI, CVTF, CVTQ and CVTP, with their C forms. R224, R225: CVTQ and CVTP open a window that holds the packed codes, or
the widened values. -/
def Obligations.AllConversions : Prop :=
  (let src (n : FName) (t : Thread) (r : VReg) : FVal :=
     decodeF (nameFmt n) (flushIn (nameFmt n) (t.fz (nameFmt n)) (if n.w64 then (t.reg64 r.toNat).toNat
       else if n = .f32 then (t.reg r.toNat).toNat else ((t.reg r.toNat).setWidth 16).toNat))
   let toInt (i : Instr) (o : One) (len : Nat) (n : FName) (ty : IntTy) (rm : RoundCode) : Prop :=
     Gives i o.h len false [vW o.d (nr ty.w64), vR o.a (nr n.w64)] fun _ s tm tid t =>
       let r := cvtInt (if ty.w64 then 64 else 32) (decide (ty = .i32 ∨ ty = .i64)) (t.mode rm) (draw s tm tid t 0) (src n t o.a)
       { regs := if ty.w64 then wr64 o.d.toNat (BitVec.ofNat 64 r.code) else [(o.d.toNat, BitVec.ofNat 32 r.code)]
         flags := r.fl, draws := if t.mode rm = .sr then 1 else 0 }
   let toFp (i : Instr) (o : One) (len : Nat) (c : CvtSrc) (n : FName) (rm : RoundCode) (v : Thread → FVal) : Prop :=
     Gives i o.h len false [vW o.d (nr n.w64), vR o.a (nr c.w64)] fun _ s tm tid t =>
       rounded (nameFmt n) n.w64 t rm o.d (cvtVal (nameFmt n) (t.mode rm) false (draw s tm tid t 0) (v t))
   let exact (x : Int) : FVal := .fin (decide (x < 0)) x.natAbs 0
   (∀ (o : One) n ty rm, toInt (.cvti o n ty rm) o (if o.ext then 3 else 2) n ty rm)
   ∧ (∀ c, toInt (.cvtiI32F32RzC c) (one c) 1 .f32 .i32 .rz)
   ∧ (∀ c, toInt (.cvtiN32F32RzC c) (one c) 1 .f32 .n32 .rz)
   ∧ (∀ (o : One) n rm, toFp (.cvtf o .i32 n rm) o (if o.ext then 3 else 2) .i32 n rm fun t => exact (t.reg o.a.toNat).toInt)
   ∧ (∀ (o : One) n rm, toFp (.cvtf o .n32 n rm) o (if o.ext then 3 else 2) .n32 n rm fun t => exact (t.reg o.a.toNat).toNat)
   ∧ (∀ (o : One) n rm, toFp (.cvtf o .i64 n rm) o (if o.ext then 3 else 2) .i64 n rm fun t => exact (t.reg64 o.a.toNat).toInt)
   ∧ (∀ (o : One) n rm, toFp (.cvtf o .n64 n rm) o (if o.ext then 3 else 2) .n64 n rm fun t => exact (t.reg64 o.a.toNat).toNat)
   ∧ (∀ (o : One) n rm, toFp (.cvtf o .f32 n rm) o (if o.ext then 3 else 2) .f32 n rm fun t => src .f32 t o.a)
   ∧ (∀ (o : One) n rm, toFp (.cvtf o .f64 n rm) o (if o.ext then 3 else 2) .f64 n rm fun t => src .f64 t o.a)
   ∧ (∀ (o : One) n rm, toFp (.cvtf o .f16 n rm) o (if o.ext then 3 else 2) .f16 n rm fun t => src .f16 t o.a)
   ∧ (∀ (o : One) n rm, toFp (.cvtf o .bf16 n rm) o (if o.ext then 3 else 2) .bf16 n rm fun t => src .bf16 t o.a)
   ∧ (∀ c, toFp (.cvtfF32I32C c) (one c) 1 .i32 .f32 .fpctl fun t => exact (t.reg (one c).a.toNat).toInt)
   ∧ (∀ c, toFp (.cvtfF32N32C c) (one c) 1 .n32 .f32 .fpctl fun t => exact (t.reg (one c).a.toNat).toNat))
  ∧ (let elem (f : Fmt) (sat : Bool) (s : State) (tm : Team) (tid : Nat) (t : Thread) (o : Two) (rm : RoundCode) (i : Nat) : FRes :=
       let e := ((bVal tm t o.b).setWidth 8).toNat
       cvtVal f (t.mode rm) sat (draw s tm tid t i)
         (if e = 255 then .nan false else scaleVal (decodeF fp32 (flushIn fp32 t.fz32 (t.reg (o.a.toNat + i)).toNat)) (127 - (e : Int)))
     (∀ (o : Two) q sat rm, q = .e4m3 ∨ q = .e5m2 → Gives (.cvtq o q sat rm) o.h (lenOfB o.b) true (twoOps o 1 4 1) fun _ s tm tid t =>
         let r := elem (if q = .e4m3 then e4m3 else e5m2) sat s tm tid t o rm
         { regs := [(o.d.toNat, BitVec.ofNat 32 ((r 0).code + 2 ^ 8 * (r 1).code + 2 ^ 16 * (r 2).code + 2 ^ 24 * (r 3).code))]
           flags := (r 0).fl ||| (r 1).fl ||| (r 2).fl ||| (r 3).fl, draws := if t.mode rm = .sr then 4 else 0 })
     ∧ (∀ (o : Two) sat rm, Gives (.cvtq o .e2m1 sat rm) o.h (lenOfB o.b) true (twoOps o 1 8 1) fun _ s tm tid t =>
         let r := elem e2m1 sat s tm tid t o rm
         { regs := [(o.d.toNat, BitVec.ofNat 32 (((List.range 8).map fun i => 2 ^ (4 * i) * (r i).code).sum))]
           flags := (List.range 8).foldr (fun i f => (r i).fl ||| f) 0, draws := if t.mode rm = .sr then 8 else 0 })
     ∧ (∀ (o : Two) op n f w rm, (op, n, f, w) ∈ [(CvtpOp.wideE4m3, 4, e4m3, 8), (.wideE5m2, 4, e5m2, 8), (.wideE2m1, 8, e2m1, 4)] →
         Gives (.cvtp o op rm) o.h (lenOfB o.b) true (vW o.d n :: vR o.a :: srcOps o.b) fun _ _ tm _ t =>
           let r (i : Nat) : FRes := wideElem f t ((bVal tm t o.b).setWidth 8).toNat ((t.reg o.a.toNat).extractLsb' (w * i) w).toNat
           { regs := (List.range n).map fun i => (o.d.toNat + i, BitVec.ofNat 32 (r i).code)
             flags := (List.range n).foldr (fun i f => (r i).fl ||| f) 0 })
     ∧ (∀ (o : Two) op f rm, (op, f) ∈ [(CvtpOp.packF16, fp16), (.packBf16, bf16)] →
         Gives (.cvtp o op rm) o.h (lenOfB o.b) true (vW o.d :: vR o.a :: srcOps o.b) fun _ s tm tid t =>
           let r (i : Nat) (x : Word) : FRes :=
             flushRes f (t.fz f) (cvtVal f (t.mode rm) false (draw s tm tid t i) (decodeF fp32 (flushIn fp32 t.fz32 x.toNat)))
           packed o.d (if t.mode rm = .sr then 2 else 0) (r 0 (t.reg o.a.toNat)) (r 1 (bVal tm t o.b)))
     ∧ (∀ (o : Two) op f rm, (op, f) ∈ [(CvtpOp.wideF16, fp16), (.wideBf16, bf16)] →
         Gives (.cvtp o op rm) o.h (lenOfB o.b) true [vW o.d 2, vR o.a] fun _ _ _ _ t =>
           let r (i : Nat) : FRes := flushRes fp32 t.fz32
             (cvtVal fp32 .rn false 0 (decodeF f (flushIn f (t.fz f) ((t.reg o.a.toNat).extractLsb' (16 * i) 16).toNat)))
           { regs := [(o.d.toNat, BitVec.ofNat 32 (r 0).code), (o.d.toNat + 1, BitVec.ofNat 32 (r 1).code)]
             flags := (r 0).fl ||| (r 1).fl }))

/-- R220, R221: the special functions open a window that holds the correctly rounded result. R226 to R229: HASH, CRC32C with its C form,
RAND and SPACK. The functions are evaluated as log 14 says. -/
def Obligations.SpecialFunctionsAndHashes : Prop :=
  ((∀ o, Special (.rcp o) o rcpF) ∧ (∀ o, Special (.rsq o) o rsqF) ∧ (∀ o, Special (.sqrt o) o sqrtF)
   ∧ (∀ o, Special (.exp2 o) o exp2F) ∧ (∀ o, Special (.log2 o) o log2F) ∧ (∀ o, Special (.sin o) o sinF)
   ∧ (∀ o, Special (.cos o) o cosF) ∧ (∀ o, Special (.tanh o) o tanhF))
  ∧ (let mix (z : DWord) : DWord :=
       let z := z + 0xD1B54A32D192ED03
       let z := (z ^^^ (z >>> 31)) * 0xA3C59AC2F6B1E5D7
       let z := (z ^^^ (z >>> 29)) * 0x8CB92BA72F3D8DD7
       z ^^^ (z >>> 32)
     let step (c : Word) : Word := if c.getLsbD 0 then (c >>> 1) ^^^ 0x82F63B78 else c >>> 1
     let byte (c : Word) (b : BitVec 8) : Word := Nat.rec (c ^^^ b.setWidth 32) (fun _ x => step x) 8
     let crc (i : Instr) (o : Two) (len n : Nat) : Prop :=
       Gives i o.h len false (twoOps o 1 1 1) fun _ _ tm _ t =>
         { regs := [(o.d.toNat, (List.range n).foldl (fun c k => byte c ((bVal tm t o.b).extractLsb' (8 * k) 8)) (t.reg o.a.toNat))] }
     (∀ (o : Two) k64 h64, Gives (.hash o k64 h64) o.h (lenOfB o.b) false (twoOps o (nr h64) (nr k64) 1) fun _ _ tm _ t =>
         let k : DWord := if k64 then t.reg64 o.a.toNat else (t.reg o.a.toNat).setWidth 64
         let s : DWord := (bVal tm t o.b).setWidth 64
         let z := mix (k ^^^ ((s <<< 32) ||| s))
         { regs := if h64 then wr64 o.d.toNat z else [(o.d.toNat, z.setWidth 32)] })
     ∧ (∀ (o : Two), crc (.crc32c o .b32) o (lenOfB o.b) 4)
     ∧ (∀ (o : Two), crc (.crc32c o .b8) o (lenOfB o.b) 1)
     ∧ (∀ (o : Two), crc (.crc32c o .b16) o (lenOfB o.b) 2)
     ∧ (∀ c, crc (.crc32cC c) (two c) 1 4)
     ∧ (∀ h (d : VReg) b64 e, Gives (.rand h d b64 e) h (if e then 3 else 2) false [vW d (nr b64)] fun _ s tm tid t =>
         let key : Word := (s.ctx tm.ctx).rngkey ^^^ BitVec.ofNat 32 tid
         let z := mix ((key.setWidth 64 <<< 32) ^^^ t.rngctr.setWidth 64)
         { regs := if b64 then wr64 d.toNat z else [(d.toNat, z.setWidth 32)], draws := 1 })
     ∧ (∀ (o : One) e5, Gives (.spack o e5) o.h (if o.ext then 3 else 2) false [vW o.d, vR o.a] fun _ _ _ _ t =>
         let x (i : Nat) : Nat := ((t.reg o.a.toNat).extractLsb' (8 * i) 8).toNat
         let rank (i : Nat) : Nat := packRank (if e5 then e5m2 else e4m3) (x i)
         let above (j i : Nat) : Bool := decide (rank i < rank j) || (rank i == rank j && decide (j < i))
         let kept (i : Nat) : Bool := decide (((List.range 4).filter fun j => above j i).length < 2)
         let k := (List.range 4).filter kept
         { regs := [(o.d.toNat, BitVec.ofNat 32 (x (k.getD 0 0) + 2 ^ 8 * x (k.getD 1 0) + 2 ^ 16 * k.getD 0 0 + 2 ^ 18 * k.getD 1 0))]
           flags := if (List.range 4).any (fun i => !kept i && x i % 128 != 0) then cNX else 0 }))

/-! ### The sequencer -/

/-- R154, R158: NOP does nothing, BRA goes to PCI + literal, and BRX to the address in its pair: a page fault where that is not
canonical, Misaligned where it is not a multiple of 4. R158: CALL and CALLX push the address after them and enter a region at their
target, RET pops one; an empty or full stack, or a trap frame on top, faults with CallStack (0x0C). A hood that is not mapped ends the
launch with status 4 (R254). -/
def Obligations.ControlFlow : Prop :=
  ((∀ h, OnLanes (.nop h) h 2 false [] fun _ _ _ _ _ s => s)
   ∧ (∀ h off, OnLanes (.bra h off) h 3 false [] fun _ team _ tid t s =>
       s.modThread team tid fun u => { u with pc := t.pc + off.signExtend 55 })
   ∧ (∀ h a, OnLanes (.brx h a) h 2 false [vR a 2] fun _ team _ tid t s =>
       let va := t.reg64 a.toNat
       if va.extractLsb' 55 9 ≠ 0 then s.pageFault team tid t.pc va 2 false false
       else if va.extractLsb' 0 2 ≠ 0 then s.takeTrap team tid { kind := 6, info := va, pc := t.pc, len := 2, seq := s.nextId }
       else s.modThread team tid fun u => { u with pc := va.setWidth 55 }))
  ∧ (let stack (s : State) (team tid : Nat) (t : Thread) (len : Nat) : State :=
       s.takeTrap team tid { kind := 12, info := BitVec.ofNat 64 t.csp, pc := t.pc, len := len, seq := s.nextId }
     let call (s : State) (team : Nat) (tm : Team) (tid : Nat) (t : Thread) (len : Nat) (pc : Pc) : State :=
       if t.csp = tm.lr.calld then stack s team tid t len
       else
         let r := s.vWrite tm.ctx (tm.frameVa tid t.csp) (toBytes 16 (t.pc + BitVec.ofNat 55 (4 * len)).toNat)
         if r.1 then r.2.modThread team tid fun u => ({ u with csp := t.csp + 1, pc := pc } : Thread).startEntry pc
         else r.2.endLaunch tm.lid 4
     (∀ h off, OnLanes (.call h off) h 3 false [] fun _ team tm tid t s => call s team tm tid t 3 (t.pc + off.signExtend 55))
     ∧ (∀ h a, OnLanes (.callx h a) h 2 false [vR a 2] fun _ team tm tid t s =>
         let va := t.reg64 a.toNat
         if va.extractLsb' 55 9 ≠ 0 then s.pageFault team tid t.pc va 2 false false
         else if va.extractLsb' 0 2 ≠ 0 then s.takeTrap team tid { kind := 6, info := va, pc := t.pc, len := 2, seq := s.nextId }
         else call s team tm tid t 2 (va.setWidth 55))
     ∧ (∀ h, OnLanes (.ret h) h 2 false [] fun _ team tm tid t s =>
         if t.csp = 0 then stack s team tid t 2
         else
           let r := s.vRead tm.ctx (tm.frameVa tid (t.csp - 1)) 16
           match r.1 with
           | none => r.2.endLaunch tm.lid 4
           | some l =>
             let f : BitVec 128 := BitVec.ofNat 128 (Machine.ofBytes l)
             if f.extractLsb' 57 7 ≠ 0 then stack r.2 team tid t 2
             else r.2.modThread team tid fun u => ({ u with csp := t.csp - 1, pc := f.setWidth 55 } : Thread).startEntry (f.setWidth 55)))

/-- R160, R162 to R165: RGN enters a region at the next instruction; REFORM and YIELD file the thread under it, YIELD for 32 clk out of
reach; SLEEP parks it with WAIT = 5 for its count, and with 0 files it at once; EXIT ends it. -/
def Obligations.RegionsAndFiling : Prop :=
  (∀ h, OnLanes (.rgn h) h 2 false [] fun _ team _ tid _ s => s.modThread team tid fun u => u.startEntry u.pc)
  ∧ (∀ h, OnLanes (.reform h) h 2 false [] fun _ team _ tid _ s => (s.unsched team tid).file team tid 0)
  ∧ (∀ h, OnLanes (.yield h) h 2 false [] fun _ team _ tid _ s => (s.unsched team tid).file team tid (s.clk + 32))
  ∧ (∀ h b, OnLanes (.sleep h b) h (lenOfB b) false (srcOps b) fun _ team tm tid t s =>
      if bVal tm t b = 0 then (s.unsched team tid).file team tid 0
      else
        let w : Window :=
          { id := s.nextId, kind := .engine, left := h.la.toNat, ready := false, regs := [], preds := [], flags := 0, late := none
            canLate := false, wait := some (.sleep (s.clk + (bVal tm t b).toNat)), pc := t.pc, yh := h.yh }
        let s := ({ s with nextId := s.nextId + 1 } : State).modThread team tid fun u => u.openWin w [] []
        if h.la = 0 then (s.unsched team tid).modThread team tid fun u => { u with st := .parked, wait := 5 } else s)
  ∧ (∀ h, OnLanes (.exit h) h 2 false [] fun _ team _ tid _ s =>
      let s := ((s.freeRsv team tid).unsched team tid).modThread team tid fun t =>
        { t with st := .exited, wait := 0, wins := [], trap := none, entry := none, barv := 0 }
      ((s.modColls team fun k => k.leave tid).collCheck team).leaveCohort team)

/-- R94 to R96: a pattern that is no instruction takes IllegalEncoding (0x01) or IllegalOpcode (0x02) in every thread of the group; as
GETS shows, an operand at or above NREG takes RegisterRange (0x03), and a privileged selector in an unprivileged context Privilege
(0x04). R166, R169: TRAP, TRAP.rgn and BKPT take Trap (0x0D), RegionAbort (0x0F) and Breakpoint (0x0E) in every live thread, with operand
B zero-extended as INFO. -/
def Obligations.Traps : Prop :=
  ((∀ e len s c slot g tm, s.curGroup = some (c, slot, g, tm) →
     Ends (exec (.nonInstructionEncoding e len) s)
       ((s.laneThreads g).foldl (fun s x => s.takeTrap g.team x.2.1
         { kind := if e = .illegalEncoding then 1 else 2, info := 0, pc := x.2.2.pc, len := len, seq := s.nextId }) s))
   ∧ (∀ h (d : VReg) (s : State) c slot g tm, s.curGroup = some (c, slot, g, tm) → tm.lr.nreg ≤ d.toNat →
     Ends (exec (.gets h d .tid) s)
       ((s.laneThreads g).foldl (fun s x => s.takeTrap g.team x.2.1
         { kind := 3, info := BitVec.ofNat 64 d.toNat, pc := x.2.2.pc, len := 2, seq := s.nextId }) s))
   ∧ (∀ h (d : VReg) sel (s : State) c slot g tm, s.curGroup = some (c, slot, g, tm) → sel.privileged = true →
     d.toNat + sel.regs ≤ tm.lr.nreg → (s.ctx tm.ctx).priv = false →
     Ends (exec (.gets h d sel) s)
       ((s.laneThreads g).foldl (fun s x => s.takeTrap g.team x.2.1
         { kind := 4, info := sel.code.setWidth 64, pc := x.2.2.pc, len := 2, seq := s.nextId }) s)))
  ∧ (let trap (kind : Nat) (b : SrcB) : Nat → Nat → Team → Nat → Thread → State → State := fun _ team tm tid t s =>
       s.takeTrap team tid { kind := kind, info := (bVal tm t b).setWidth 64, pc := t.pc, len := lenOfB b, seq := s.nextId }
     (∀ h b, OnLanes (.trap h b) h (lenOfB b) false (srcOps b) (trap 13 b))
     ∧ (∀ h b, OnLanes (.trapRgn h b) h (lenOfB b) false (srcOps b) (trap 15 b))
     ∧ (∀ h b, OnLanes (.bkpt h b) h (lenOfB b) false (srcOps b) (trap 14 b)))

/-- R167: a trap with nothing earlier outstanding is delivered: the save and the trap frame are pushed, the PC becomes TVEC, a region
begins there and the thread is filed; with no handler, or no room for the pair, the context faults. -/
def Obligations.TrapDelivery : Prop :=
  (∀ s tm t x s1 s2, s.team? s.ev.team = some tm → s.thread? s.ev.team s.ev.tid = some t → t.trap = some x → t.wins = [] →
    tm.lr.tvec ≠ 0 → t.csp + 2 ≤ tm.lr.calld →
    s.setFrame tm s.ev.tid t.csp (saveFrame t) = (true, s1) →
    s1.setFrame tm s.ev.tid (t.csp + 1) (trapFrame x) = (true, s2) →
    exec .trapDelivery s = .next
      ((s2.modThread s.ev.team s.ev.tid fun u =>
        ({ u with csp := u.csp + 2, pc := BitVec.ofNat 55 tm.lr.tvec, trap := none, pfva := none, wait := 0, entry := none }
          : Thread).startEntry (BitVec.ofNat 55 tm.lr.tvec)).file s.ev.team s.ev.tid 0))
  ∧ (∀ s tm t x, s.team? s.ev.team = some tm → s.thread? s.ev.team s.ev.tid = some t → t.trap = some x → t.wins = [] →
    tm.lr.tvec = 0 ∨ tm.lr.calld < t.csp + 2 →
    exec .trapDelivery s = .next (s.contextFault tm.ctx (s.threadRec 0x01 s.ev.team s.ev.tid x.pc x.info.toNat x.kind 0)))

/-- R156: what the frames hold, bit by bit. R167, R170: a handler that returns at once with TRET finds the thread as the trap left it:
PC, RPC, RNGENT and FREC are those of the trapped thread and CSP is two less; under RegionAbort the PC and RNGCTR are those of the
region's entry. -/
def Obligations.TrapFrames : Prop :=
  ((∀ t : Thread, (saveFrame t).extractLsb' 0 55 = t.rpc ∧ (saveFrame t).extractLsb' 55 40 = t.rngent
     ∧ (saveFrame t).getLsbD 95 = t.frec ∧ (saveFrame t).extractLsb' 96 32 = 0 ∧ frameKind (saveFrame t) = bits t.rngent.toNat 8 2)
   ∧ (∀ x : Trap, x.kind < 128 → x.len < 4 →
     (trapFrame x).extractLsb' 0 55 = x.pc ∧ ((trapFrame x).extractLsb' 55 2).toNat = x.len ∧ frameKind (trapFrame x) = x.kind
       ∧ (trapFrame x).extractLsb' 64 64 = x.info)
   ∧ (∀ r : Pc, (callFrame r).extractLsb' 0 55 = r ∧ frameKind (callFrame r) = 0))
  ∧ (∀ (t u : Thread) (x : Trap) (csp : Nat), 0 < x.kind → x.kind < 128 → x.len < 4 →
       u.tretTo .again csp (trapFrame x) (saveFrame t) =
         { u with pc := if x.kind = 15 then t.rpc else x.pc, rngctr := if x.kind = 15 then t.rngent else u.rngctr, rpc := t.rpc
                  rngent := t.rngent, frec := t.frec, csp := csp - 2 }
       ∧ u.tretTo .skip csp (trapFrame x) (saveFrame t) =
         { u with pc := x.pc + BitVec.ofNat 55 (4 * x.len), rpc := t.rpc, rngent := t.rngent, frec := t.frec, csp := csp - 2 }
       ∧ u.tretTo .rgn csp (trapFrame x) (saveFrame t) =
         { u with pc := t.rpc, rngctr := t.rngent, rpc := t.rpc, rngent := t.rngent, frec := t.frec, csp := csp - 2 })

/-- R170: TRET, TRET.skip, TRET.rgn and TRET.rd on a thread: CallStack where no trap pair is on top, the launch ended with status 4 where
the hood cannot be read (R254), else the thread as the frames say. -/
def Obligations.TrapReturns : Prop :=
  let pair (k : Nat → Nat → Thread → BitVec 128 → BitVec 128 → State → State) :
      Nat → Nat → Team → Nat → Thread → State → State := fun _ team tm tid t s =>
    let bad (s : State) : State :=
      s.takeTrap team tid { kind := 12, info := BitVec.ofNat 64 t.csp, pc := t.pc, len := 2, seq := s.nextId }
    if t.csp < 2 then bad s
    else
      let r := s.frameAt tm tid (t.csp - 1)
      match r.1 with
      | none => r.2.endLaunch tm.lid 4
      | some tf =>
        if tf.extractLsb' 57 7 = 0 then bad r.2
        else
          let q := r.2.frameAt tm tid (t.csp - 2)
          match q.1 with
          | none => q.2.endLaunch tm.lid 4
          | some sf => k team tid t tf sf q.2
  (∀ h, OnLanes (.tret h) h 2 false [] (pair fun team tid t tf sf s =>
    s.modThread team tid fun u => u.tretTo .again t.csp tf sf))
  ∧ (∀ h, OnLanes (.tretSkip h) h 2 false [] (pair fun team tid t tf sf s =>
    s.modThread team tid fun u => u.tretTo .skip t.csp tf sf))
  ∧ (∀ h, OnLanes (.tretRgn h) h 2 false [] (pair fun team tid t tf sf s =>
    s.modThread team tid fun u => u.tretTo .rgn t.csp tf sf))
  ∧ (∀ h (d : VReg), OnLanes (.tretRd h d) h 2 false [vW d 4] (pair fun team tid _ tf _ s =>
    s.modThread team tid fun u => u.writeRegs [(d.toNat, tf.extractLsb' 64 32), (d.toNat + 1, tf.extractLsb' 96 32),
      (d.toNat + 2, tf.extractLsb' 0 32), (d.toNat + 3, tf.extractLsb' 32 32)]))

/-- R78, R171: GETS writes the register its selector names into D, CLOCK into the pair; a privileged selector only in a privileged
context. R106, R107, R172, R173, R191 to R193, R232: SETS of FPCTL and FLAGS in each live thread by itself; of a register held per team
or core the value of the highest-numbered live lane; a value that the register cannot hold takes IllegalEncoding, and a privileged
selector closes the region. MOVK writes its k, mb or ml register from the highest-numbered live lane. -/
def Obligations.SpecialRegisters : Prop :=
  (let val (s : State) (c lane tid : Nat) (tm : Team) (t : Thread) (sel : SReg) : Word :=
     let n (x : Nat) : Word := BitVec.ofNat 32 x
     match sel with
     | .tid => n tid
     | .lane => n lane
     | .slot => n (tm.slotOf tid)
     | .team => n tm.n
     | .nteams => n tm.lr.nteams
     | .gwidth => n (16 * 2 ^ tm.lr.gw)
     | .core => n c
     | .clus => n (c / 4)
     | .die => n (c / 16)
     | .pkg => n s.pkgid
     | .ctxid => n tm.ctx
     | .clock => ((s.core c).clock + BitVec.ofNat 64 s.clk).setWidth 32
     | .fpctl => t.fpctl
     | .part => n tm.part
     | .flags => t.flags
     | .rngkey => (s.ctx tm.ctx).rngkey
     | .region => t.rcnt
     | .tdm => (s.ctx tm.ctx).tdm.setWidth 32
     | .mgnCtl => (s.core c).mgnCtl
     | .mgnStat => (s.core c).mgnStat
     | .mgnLimit => (s.core c).mgnLimit
     | .parkTh => n (s.core c).parkTh
     | .ageLimit => n (s.core c).ageLimit
   (∀ h (d : VReg) sel, sel ≠ .clock → OnLive (.gets h d sel) h 2 sel.privileged [vW d] fun c g tm live s =>
     live.foldl (fun s x => s.modThread g.team x.2.1 fun u => u.writeRegs [(d.toNat, val s c x.1 x.2.1 tm x.2.2 sel)]) s)
   ∧ (∀ h (d : VReg), OnLive (.gets h d .clock) h 2 false [vW d 2] fun c g _ live s =>
     live.foldl (fun s x => s.modThread g.team x.2.1 fun u =>
       u.writeRegs (wr64 d.toNat ((s.core c).clock + BitVec.ofNat 64 s.clk))) s))
  ∧ (let bad (s : State) (team tid : Nat) (t : Thread) (b : SrcB) : State :=
       s.takeTrap team tid { kind := 1, info := 0, pc := t.pc, len := lenOfB b, seq := s.nextId }
     let one (sel : SReg) (b : SrcB) (k : Nat → Nat → Team → Word → State → Option State) :
         Nat → Group → Team → List (Nat × Nat × Thread) → State → State := fun c g tm live s =>
       match live.getLast? with
       | none => s
       | some x =>
         match k c g.team tm (bVal tm x.2.2 b) s with
         | none => live.foldl (fun s y => bad s g.team y.2.1 y.2.2 b) s
         | some s =>
           if sel.privileged then live.foldl (fun s y => s.modThread g.team y.2.1 fun u => u.startEntry u.pc) (s.crossGate g.team)
           else s
     (∀ h b, OnLanes (.sets h .fpctl b) h (lenOfB b) false (srcOps b) fun _ team tm tid t s =>
       let w := bVal tm t b
       if w &&& 0xFFFFE088 = 0 ∧ w.toNat % 8 ≤ 4 then s.modThread team tid fun u => { u with fpctl := w } else bad s team tid t b)
     ∧ (∀ h b, OnLanes (.sets h .flags b) h (lenOfB b) false (srcOps b) fun _ team tm tid t s =>
       let w := bVal tm t b
       if w.toNat < 64 then s.modThread team tid fun u => { u with flags := w } else bad s team tid t b)
     ∧ (∀ h b, OnLive (.sets h .part b) h (lenOfB b) false (srcOps b) (one .part b fun _ team tm w s =>
       if partOk tm w then some (s.modTeam team fun t => { t with part := w.toNat }) else none))
     ∧ (∀ h b, OnLive (.sets h .mgnCtl b) h (lenOfB b) true (srcOps b) (one .mgnCtl b fun c _ _ w s =>
       if w &&& 0xFFFCE0E0 = 0 then some (s.modCore c fun k => k.setMgnCtl w) else none))
     ∧ (∀ h b, OnLive (.sets h .mgnStat b) h (lenOfB b) true (srcOps b) (one .mgnStat b fun c _ _ w s =>
       some (s.modCore c fun k => { k with serr := w.toNat / 2 ^ 24, esc := w.toNat / 2 ^ 16 % 256 })))
     ∧ (∀ h b, OnLive (.sets h .mgnLimit b) h (lenOfB b) true (srcOps b) (one .mgnLimit b fun c _ _ w s =>
       if w.toNat < 2 ^ 24 then some (s.modCore c fun k => { k with relax := w.toNat / 2 ^ 16, limit := w.toNat % 2 ^ 16 }) else none))
     ∧ (∀ h b, OnLive (.sets h .parkTh b) h (lenOfB b) true (srcOps b) (one .parkTh b fun c _ _ w s =>
       if w.toNat ≤ 64 then some (s.modCore c fun k => { k with parkTh := w.toNat }) else none))
     ∧ (∀ h b, OnLive (.sets h .ageLimit b) h (lenOfB b) true (srcOps b) (one .ageLimit b fun c _ _ w s =>
       if 16 ≤ w.toNat ∧ w.toNat < 2 ^ 16 then some (s.modCore c fun k => { k with ageLimit := w.toNat }) else none))
     ∧ (∀ h b i, OnLive (.movk h (.k i) b) h (lenOfB b) false (srcOps b) fun _ g tm live s =>
       match live.getLast? with
       | none => s
       | some x => s.modTeam g.team fun t => { t with k := setAt t.k i.toNat (bVal tm x.2.2 b) })
     ∧ (∀ h b i, OnLive (.movk h (.mb i) b) h (lenOfB b) false (srcOps b) fun _ g tm live s =>
       match live.getLast? with
       | none => s
       | some x => s.modTeam g.team fun t => { t with mreg := modAt t.mreg i.toNat fun m => (bVal tm x.2.2 b, m.2) })
     ∧ (∀ h b i, OnLive (.movk h (.ml i) b) h (lenOfB b) false (srcOps b) fun _ g tm live s =>
       match live.getLast? with
       | none => s
       | some x => s.modTeam g.team fun t => { t with mreg := modAt t.mreg i.toNat fun m => (m.1, bVal tm x.2.2 b) }))

/-! ### The lane exchange unit -/

/-- R233 to R237: what a collective does with the live threads of a group: the threads not live abstain at this PCI; each live one
takes the result its arrival record names, or CollectiveMask (0x0A) where its mask is bad, or arrives at its instance; complete
instances issue; with LA = 0 a thread whose instance has not issued parks with WAIT = 8. -/
def Sys2Proof.Say.collective (h : Hdr) (len : Nat) (op : CollOp) (dst : Nat) (msk : Team → Thread → DWord) (val : Thread → DWord × Bool)
    (_ : Nat) (g : Group) (tm : Team) (live : List (Nat × Nat × Thread)) (s : State) : State :=
  let abstain (s : State) (x : Nat × Nat × Thread) : State :=
    if live.any fun y => y.2.1 == x.2.1 then s
    else s.abstain g.team x.2.1 (x.2.2.pc - BitVec.ofNat 55 (4 * len))
  let arrive (s : State) (x : Nat × Nat × Thread) : State :=
    if (s.thread? g.team x.2.1).isNone then s
    else
      match x.2.2.recorded x.2.2.pc with
      | some r => s.modThread g.team x.2.1 fun t =>
          { (t.writeRegs (op.regs dst r)).writePreds (op.preds dst r) with abst := [] }
      | none =>
        let m := msk tm x.2.2
        let c := tm.coreOf (x.2.1 / 2 ^ tm.part * 2 ^ tm.part)
        if s.collBad c g.team (2 ^ tm.part) x.2.1 x.2.2.pc m then
          s.takeTrap g.team x.2.1 { kind := 10, info := m, pc := x.2.2.pc, len := len, seq := s.nextId }
        else s.collArrive c g.team x.2.1 (2 ^ tm.part) h x.2.2.pc m op (val x.2.2).1 (val x.2.2).2 dst
  let parks (s : State) (x : Nat × Nat × Thread) : State :=
    match (s.thread? g.team x.2.1).bind fun t => t.waiting fun w => match w with
        | .coll _ => true
        | _ => false with
    | some _ => (s.unsched g.team x.2.1).modThread g.team x.2.1 fun t => { t with st := .parked, wait := 8 }
    | none => s
  let s := (live.foldl arrive ((s.laneThreads g).foldl abstain s)).collCheck g.team
  if h.la = 0 then live.foldl parks s else s

/-- R233 to R237, R241 to R244: VOTE, PICK, TRED, TSCAN and MATCH are collectives with the mask of operand B. Tiles over both cores of a
pair, arrivals after an abstention and repeated arrivals are read by inference (log 72, log 73, log 74). -/
def Obligations.Collectives : Prop :=
  let mask (b : SrcB) (tm : Team) (t : Thread) : DWord := bVal64 .zero tm t b
  (∀ h neg (d : VReg) (p : PReg) b, OnLive (.vote h .ballot neg d p b) h (lenOfB b) false (vW d 2 :: srcOps b 2)
    (collective h (lenOfB b) (.vote .ballot neg) d.toNat (mask b) fun t => (0, t.pred p.toNat)))
  ∧ (∀ h op neg (d : VReg) (p : PReg) b, op ≠ VoteOp.ballot → OnLive (.vote h op neg d p b) h (lenOfB b) false (srcOps b 2)
    (collective h (lenOfB b) (.vote op neg) (d.toNat % 8) (mask b) fun t => (0, t.pred p.toNat)))
  ∧ (∀ h (delta : BitVec 6) (d a : VReg) b, OnLive (.pick h .at delta d a b) h (lenOfB b) false (vW d :: vR a 2 :: srcOps b 2)
    (collective h (lenOfB b) (.pick .at delta.toNat) d.toNat (mask b) fun t => (t.reg64 a.toNat, false)))
  ∧ (∀ h m (delta : BitVec 6) (d a : VReg) b, m ≠ PickMode.at →
    OnLive (.pick h m delta d a b) h (lenOfB b) false (vW d :: vR a :: srcOps b 2)
      (collective h (lenOfB b) (.pick m delta.toNat) d.toNat (mask b) fun t => ((t.reg a.toNat).setWidth 64, false)))
  ∧ (∀ h op ty (d a : VReg) b, OnLive (.tred h op ty d a b) h (lenOfB b) false (vW d :: vR a :: srcOps b 2)
    (collective h (lenOfB b) (.tred op ty) d.toNat (mask b) fun t => ((t.reg a.toNat).setWidth 64, false)))
  ∧ (∀ h op ty exc (d a : VReg) b, OnLive (.tscan h op ty exc d a b) h (lenOfB b) false (vW d :: vR a :: srcOps b 2)
    (collective h (lenOfB b) (.tscan op ty exc) d.toNat (mask b) fun t => ((t.reg a.toNat).setWidth 64, false)))
  ∧ (∀ h (d a : VReg) b, OnLive (.matchEq h false d a b) h (lenOfB b) false (vW d 2 :: vR a :: srcOps b 2)
    (collective h (lenOfB b) (.matchEq false) d.toNat (mask b) fun t => ((t.reg a.toNat).setWidth 64, false)))
  ∧ (∀ h (d a : VReg) b, OnLive (.matchEq h true d a b) h (lenOfB b) false (vW d 2 :: vR a 2 :: srcOps b 2)
    (collective h (lenOfB b) (.matchEq true) d.toNat (mask b) fun t => (t.reg64 a.toNat, false)))

/-- R241 to R244: what an instance gives the member at position q, from the members that arrived and are named by the mask (`x i` is the
one at position i): votes over their predicates, the picked value or, where its position is no member, the thread's own, folds in
ascending position, and the positions with an equal value. -/
def Obligations.CollectiveResults : Prop :=
  ∀ (c : Coll) (x : Nat → CollMember) (q : Nat) (u : CollMember), c.size ≤ 64 →
    (∀ i < c.size, c.mask.getLsbD i = true → c.at i = some (x i)) →
    let named := (List.range c.size).filter c.mask.getLsbD
    (∀ neg, c.op = .vote .all neg → c.result q u = if named.all fun i => (x i).p != neg then 1 else 0)
    ∧ (∀ neg, c.op = .vote .any neg → c.result q u = if named.any fun i => (x i).p != neg then 1 else 0)
    ∧ (∀ neg, c.op = .vote .uni neg → c.result q u =
        if (named.all fun i => (x i).p != neg) || (named.all fun i => (x i).p == neg) then 1 else 0)
    ∧ (∀ neg, c.op = .vote .ballot neg → c.result q u = Say.ofBits 64 fun i => decide (i < c.size) && c.mask.getLsbD i && (x i).p != neg)
    ∧ (∀ d, c.op = .pick .flip d → (q ^^^ d) < c.size → c.mask.getLsbD (q ^^^ d) = true →
        c.result q u = ((x (q ^^^ d)).a.setWidth 32).setWidth 64)
    ∧ (∀ d, c.op = .pick .below d → q < d → c.result q u = (u.a.setWidth 32).setWidth 64)
    ∧ (∀ d, c.op = .pick .below d → d ≤ q → q - d < c.size → c.mask.getLsbD (q - d) = true →
        c.result q u = ((x (q - d)).a.setWidth 32).setWidth 64)
    ∧ (∀ d, c.op = .pick .above d → q + d < c.size → c.mask.getLsbD (q + d) = true →
        c.result q u = ((x (q + d)).a.setWidth 32).setWidth 64)
    ∧ (∀ d, c.op = .pick .above d → c.size ≤ q + d ∨ c.mask.getLsbD (q + d) = false → c.result q u = (u.a.setWidth 32).setWidth 64)
    ∧ (∀ d, c.op = .pick .at d → let i := (u.a.extractLsb' 32 32).toNat % 64
        i < c.size → c.mask.getLsbD i = true → c.result q u = ((x i).a.setWidth 32).setWidth 64)
    ∧ (∀ op ty, c.op = .tred op ty → c.result q u =
        (named.foldl (fun r i => foldOp op ty r ((x i).a.setWidth 32)) (foldId op ty)).setWidth 64)
    ∧ (∀ op ty, c.op = .tscan op ty true → c.result q u =
        ((named.filter (· < q)).foldl (fun r i => foldOp op ty r ((x i).a.setWidth 32)) (foldId op ty)).setWidth 64)
    ∧ (∀ op ty, c.op = .tscan op ty false → c.result q u =
        ((named.filter (· ≤ q)).foldl (fun r i => foldOp op ty r ((x i).a.setWidth 32)) (foldId op ty)).setWidth 64)
    ∧ (c.op = .matchEq true → c.result q u = Say.ofBits 64 fun i => decide (i < c.size) && c.mask.getLsbD i && decide ((x i).a = u.a))
    ∧ (c.op = .matchEq false → c.result q u =
        Say.ofBits 64 fun i => decide (i < c.size) && c.mask.getLsbD i && decide ((x i).a.setWidth 32 = u.a.setWidth 32))

/-- R240: PART gives the thread's position in its tile, the tile's number, its size, or the mask of its threads that have not exited, as
a result that its window holds. R246 to R249: BAR.ARV arrives and gives the generation, BAR.WAIT waits for a phase, BAR.SYNC does both,
BAR.Q reads generation and the members still expected; an index that was not granted takes IllegalEncoding. A phase is done for g when G
− g lies from 1 to 2^31 − 1. -/
def Obligations.PartAndBarriers : Prop :=
  (let gives (h : Hdr) (regs : State → Nat → Team → Nat → List (Nat × Word)) : Nat → Nat → Team → Nat → Thread → State → State :=
     fun _ team tm tid t s =>
       let w : Window :=
         { id := s.nextId, kind := .engine, left := h.la.toNat, ready := true, regs := regs s team tm tid, preds := [], flags := 0
           late := none, canLate := false, wait := none, pc := t.pc, yh := h.yh }
       ({ s with nextId := s.nextId + 1 } : State).modThread team tid fun u => u.openWin w ((regs s team tm tid).map (·.1)) []
   (∀ h (d : VReg), OnLanes (.part h .pos d) h 2 false [vW d] (gives h fun _ _ tm tid => [(d.toNat, BitVec.ofNat 32 (tid % 2 ^ tm.part))]))
   ∧ (∀ h (d : VReg), OnLanes (.part h .tile d) h 2 false [vW d] (gives h fun _ _ tm tid => [(d.toNat, BitVec.ofNat 32 (tid / 2 ^ tm.part))]))
   ∧ (∀ h (d : VReg), OnLanes (.part h .size d) h 2 false [vW d] (gives h fun _ _ tm _ => [(d.toNat, BitVec.ofNat 32 (2 ^ tm.part))]))
   ∧ (∀ h (d : VReg), OnLanes (.part h .live d) h 2 false [vW d 2] (gives h fun s team tm tid =>
       wr64 d.toNat (s.liveMask team (2 ^ tm.part) (tid / 2 ^ tm.part)))))
  ∧ (let bar (lvl : BarLevel) (idx : BitVec 4) (f : Nat → Nat → Team → Nat → Thread → State → State) :
         Nat → Nat → Team → Nat → Thread → State → State := fun c team tm tid t s =>
       if tm.lr.granted lvl ≤ idx.toNat then s.takeTrap team tid { kind := 1, info := 0, pc := t.pc, len := 2, seq := s.nextId }
       else f c team tm tid t s
     let gives (h : Hdr) (team tid : Nat) (t : Thread) (regs : List (Nat × Word)) (s : State) : State :=
       let w : Window :=
         { id := s.nextId, kind := .engine, left := h.la.toNat, ready := true, regs := regs, preds := [], flags := 0
           late := none, canLate := false, wait := none, pc := t.pc, yh := h.yh }
       ({ s with nextId := s.nextId + 1 } : State).modThread team tid fun u => u.openWin w (regs.map (·.1)) []
     let arrive (c team tid : Nat) (tm : Team) (t : Thread) (lvl : BarLevel) (idx : BitVec 4) (s : State) : Word × State :=
       match t.recorded t.pc with
       | some r => (r.setWidth 32, s)
       | none =>
         let b := barOf team tm lvl idx.toNat
         (s.barGen b, (((s.tells team tid).barRelease c tm lvl).barMark team tid b).modThread team tid fun u =>
           { u with arr := some { pci := t.pc, rcnt := t.rcnt, result := (s.barGen b).setWidth 64 } })
     let await (h : Hdr) (c team tid : Nat) (tm : Team) (t : Thread) (lvl : BarLevel) (idx : BitVec 4) (g : Word) (s : State) : State :=
       let b := barOf team tm lvl idx.toNat
       let n := (s.barGen b - g).toNat
       if 1 ≤ n ∧ n ≤ 2147483647 then (s.learns team tid).acquire c tm.ctx (tm.barScope lvl)
       else
         let w : Window :=
           { id := s.nextId, kind := .sync, left := h.la.toNat, ready := false, regs := [], preds := [], flags := 0
             late := none, canLate := false, wait := some (.bar b g), pc := t.pc, yh := h.yh }
         let s := ({ s with nextId := s.nextId + 1 } : State).modThread team tid fun u => u.openWin w [] []
         if h.la = 0 then (s.unsched team tid).modThread team tid fun u => { u with st := .parked, wait := 1 } else s
     (∀ h lvl idx (d : VReg), OnLanes (.barArv h lvl idx d) h 2 false [vW d] (bar lvl idx fun c team tm tid t s =>
       let r := arrive c team tid tm t lvl idx s
       gives h team tid t [(d.toNat, r.1)] r.2))
     ∧ (∀ h lvl idx (a : VReg), OnLanes (.barWait h lvl idx a) h 2 false [vR a] (bar lvl idx fun c team tm tid t s =>
       await h c team tid tm t lvl idx (t.reg a.toNat) s))
     ∧ (∀ h lvl idx, OnLanes (.barSync h lvl idx) h 2 false [] (bar lvl idx fun c team tm tid t s =>
       let r := arrive c team tid tm t lvl idx s
       await h c team tid tm t lvl idx r.1 r.2))
     ∧ (∀ h lvl idx (d : VReg), OnLanes (.barQ h lvl idx d) h 2 false [vW d 2] (bar lvl idx fun _ team tm tid t s =>
       let b := barOf team tm lvl idx.toNat
       gives h team tid t [(d.toNat, s.barGen b), (d.toNat + 1, BitVec.ofNat 32 (s.barMembers b).2.length)] s)))

/-- R236, R247, R248: the rows of the unit. A collective's ready result is written, and the thread parked on it filed; a team barrier at
which every thread that has not exited has arrived advances its generation, clears the arrivals, and wakes the threads that wait. -/
def Obligations.LaneRows : Prop :=
  (∀ s t w, s.thread? s.ev.team s.ev.tid = some t → t.win? s.ev.win = some w → w.kind = .coll → w.ready = true →
    s.away s.ev.team = false → t.st ≠ .parked →
    exec .collectiveResult s = .next (s.modThread s.ev.team s.ev.tid fun t => t.deliver w.id none))
  ∧ (∀ s t w, s.thread? s.ev.team s.ev.tid = some t → t.win? s.ev.win = some w → w.kind = .coll → w.ready = true →
    s.away s.ev.team = false → t.st = .parked → t.wait = 8 →
    ((t.deliver w.id none).waiting fun x => match x with
      | .coll _ => true
      | _ => false) = none →
    exec .collectiveResult s =
      .next ((s.modThread s.ev.team s.ev.tid fun t => t.deliver w.id none).file s.ev.team s.ev.tid 0))
  ∧ (∀ (s : State) team i, s.ev.bar = .team team i → (∃ x ∈ s.threadsOf team, x.2.st ≠ .exited) →
    (∀ x ∈ s.threadsOf team, x.2.st = .exited ∨ x.2.barv.getLsbD i = true) →
    exec .barrierPhaseComplete s = .next
      (((s.modTeam team fun x => { x with tbg := modAt x.tbg i (· + 1) }).modThreads team fun _ u =>
        { u with barv := u.barv &&& ~~~(1#16 <<< i) }).barWake (.team team i)))
  ∧ (∀ (s : State) l j i, s.ev.bar = .cohort l j i → (s.barMembers s.ev.bar).1 ≠ [] → (s.barMembers s.ev.bar).2 = [] →
    exec .barrierPhaseComplete s = .next
      ((s.modLaunch l fun x => { x with cohorts := x.cohorts.mapKV fun k c =>
        if k = j then { c with bars := modAt c.bars i fun b => { gen := b.gen + 1, arr := [] } } else c }).barWake s.ev.bar))

/-! ### The launch engine -/

/-- R259 to R261, R401: QRES, QFREE and LAUNCH on a thread. QRES faults with QueueFault (0x0B) where the queue takes no posting of the
context or the thread holds a reservation of another queue; else it answers 1 with a reservation that the thread holds already or takes
now, 0 without. LAUNCH faults with Misaligned, or with QueueFault and the cause in ERR; else it is a release, uses the reservation or a
free slot, or parks with WAIT = 7, and ends its region. Its record in another package is asked for with a read message, or is a
RemoteFault where that package is not reachable. Which context a launch runs in and what touches a die are read by inference (log 51, log
42), and so are QRES and queues of Free contexts (log 75, log 76). -/
def Obligations.LaunchInstructions : Prop :=
  let post (c team tid : Nat) (tm : Team) (win : Nat) (d : VReg) (q : Nat) (b : List Byte) (sys res : Bool) (s : State) : State :=
    let s := ((s.tells team tid).release c tm.ctx (if sys then .sys else .pkg)).touch tm.ctx (crownOfQueue q)
    let p := s.post (some (team, tid)) b sys
    let v := if res then (s.modThread team tid fun u => { u with rsv := none }).modQueue q fun x => { x with rsvs := x.rsvs - 1 } else s
    let x := s.queue q
    if res = true ∨ 0 < x.size - x.queued - x.rsvs - x.hostRsv.length then v.modQueue q fun x => { x with posts := x.posts ++ [p] }
    else
      (parks (v.modThread team tid fun u => u.modWin win fun y => { y with wait := some (.launch q b d.toNat sys s.clk) }) team tid
        7).modQueue q fun x => { x with parked := x.parked ++ [p] }
  let here (h : Hdr) (sys res : Bool) (d : VReg) (len q : Nat) (c team : Nat) (tm : Team) (tid : Nat) (t : Thread) (va : DWord) (x : Xlat)
      (gpa : Nat) (s : State) : State :=
    let s := if 2 ≤ x.cls then s.lineLoad c tm.ctx va.toNat x (localOf gpa / 128) 1 else s
    let r := s.readGlobal c team tid tm.ctx va x .pkg gpa 128 1
    if r.1.2 then r.2.consume team tid t.pc (dramLoc (localOf gpa)) (localOf gpa)
    else
      match r.2.rejectCause q (some tm.ctx) r.1.1 (res && t.rsv != some q) with
      | some k => faults (if q ≤ 1023 then r.2.modQueue q fun x => { x with err := k } else r.2) team tid 11 (BitVec.ofNat 64 q) t len
      | none =>
        let w := window r.2 h t .post false [(d.toNat, 0)] none
        (post c team tid tm w.id d q r.1.1 sys res
          ((({ r.2 with nextId := r.2.nextId + 1 } : State).crossGate team).modThread team tid fun u => u.openWin w [d.toNat] [])).modThread
            team tid fun u => u.startEntry u.pc
  let away (h : Hdr) (sys res : Bool) (d : VReg) (len q : Nat) (c team : Nat) (tm : Team) (tid : Nat) (t : Thread) (gpa : Nat) (s : State) :
      State :=
    if s.noPath gpa false then faults s team tid 9 (BitVec.ofNat 64 gpa) t len
    else
      let s := (s.crossGate team).drainTo c fun r => r.pa / 128 == gpa / 128
      let r := ({ s with nextId := s.nextId + 1 } : State).sendReq (bareMsg .read (pkgOf gpa) 128 gpa [])
        (.record team tid s.nextId d.toNat len q sys res) team tid tm.ctx
      (r.2.modThread team tid fun u =>
        u.openWin { window s h t (.remote r.1) false [(d.toNat, 0)] none with id := s.nextId } [d.toNat] []).modThread team tid
          fun u => u.startEntry u.pc
  (∀ h d b, OnLanes (.qres h d b) h (lenOfB b) false (vW d :: srcOps b) fun _ team tm tid t s =>
    let q := (bVal tm t b).toNat
    let answer (s : State) (v : Word) : State := opens s team tid (window s h t .engine true [(d.toNat, v)] none)
    if 1023 < q ∨ (s.queue q).en = false ∨ (s.ctx (s.queue q).ctx).st = .free ∨ ((s.queue q).ctx ≠ tm.ctx ∧ (s.queue q).xpost = false)
        ∨ (t.rsv.isSome ∧ t.rsv ≠ some q) then
      faults s team tid 11 (BitVec.ofNat 64 q) t (lenOfB b)
    else
      let s := s.touch tm.ctx (crownOfQueue q)
      if t.rsv = some q then answer s 1
      else if (s.queue q).size - (s.queue q).queued - (s.queue q).rsvs - (s.queue q).hostRsv.length = 0 then answer s 0
      else answer ((s.modQueue q fun x => { x with rsvs := x.rsvs + 1 }).modThread team tid fun u => { u with rsv := some q }) 1)
  ∧ (∀ h, OnLanes (.qfree h) h 2 false [] fun _ team _ tid _ s =>
    match (s.thread? team tid).bind (·.rsv) with
    | none => s
    | some q => ((s.modThread team tid fun u => { u with rsv := none }).modQueue q fun x => { x with rsvs := x.rsvs - 1 }).freeSlot q)
  ∧ (∀ h sys res d a b, OnGo (.launch h sys res d a b) h (lenOfB b) (vW d :: vR a 2 :: srcOps b)
    (fun c g _ live s => s.relWaits c g.team live .rel sys = none) fun c g tm live s =>
      live.foldl (fun s x => if (s.thread? g.team x.2.1).isSome then
        let t := x.2.2
        let va := t.reg64 a.toNat
        if va.toNat % 128 ≠ 0 then faults s g.team x.2.1 6 va t (lenOfB b)
        else
          match s.access (dieOf c) (some c) tm.ctx .read va with
          | (.pageFault cause, s) => s.pageFault g.team x.2.1 t.pc va cause false false
          | (.trap k i, s) => faults s g.team x.2.1 k i t (lenOfB b)
          | (.poison pa, s) => s.consume g.team x.2.1 t.pc (dramLoc pa) pa
          | (.ok gpa y, s) =>
            if pkgOf gpa = s.pkgid then here h sys res d (lenOfB b) (bVal tm t b).toNat c g.team tm x.2.1 t va y gpa s
            else away h sys res d (lenOfB b) (bVal tm t b).toNat c g.team tm x.2.1 t gpa s
        else s) s)

/-- R260, R263, R264: the oldest posted record of a queue is copied into the lowest ring slot without a launch, takes the next launch id,
and gives the id to its poster; a launch starts when it is its queue's turn; bytes of its ring slot that another agent has changed while
the queue is enabled are unspecified to the engine. R42, R44, R45, R54, R264, R269, R270: a team of a started launch is placed at the
lowest free hood slot and the core chosen, a cohort or a resident launch whole, a team that is away again; a team whose threads have
exited and whose matrix operations and copies are complete retires; a launch all of whose teams have retired ends with status 0 after a
release at .sys. Which free block of slots, and which unspecified value, are the model's (log 21, log 5). -/
def Obligations.LaunchRows : Prop :=
  ((∀ (s : State) p rest, (s.queue s.ev.q).posts = p :: rest →
     let n := s.ev.q
     let q := s.queue n
     let lid := s.nextLid.toNat
     let l := ({ s with nextId := s.nextId + 1 } : State).newLaunch n q.freeRing s.nextId p
     ∃ t, exec .launchRecordCopy s = .next t ∧ t.launches.find lid = some l ∧ t.nextLid = s.nextLid + 1
       ∧ l.started = false ∧ l.ctx = q.ctx ∧ l.lr = recOf p.raw ∧ l.code = p.code
       ∧ (t.queue n).posts = rest ∧ (t.queue n).slots.find q.freeRing = some lid
       ∧ t.mem = (s.pokeN (q.base + 128 * q.freeRing) p.raw).mem)
   ∧ (∀ (s : State) lid l, s.mayStartQ s.ev.q = some lid → s.launch? lid = some l → s.turnOf l.ctx = some s.ev.q →
     exec .launchStart s = .next { ((s.ringRead lid).modLaunch lid fun x => { x with started := true }) with rrq := s.rrq.put l.ctx s.ev.q })
   ∧ (∀ (s : State) lid l, s.launch? lid = some l → let b := s.peekN ((s.queue l.q).base + 128 * l.slot) 128
     ((s.queue l.q).en = false ∨ b = l.raw → s.ringRead lid = s)
     ∧ ((s.queue l.q).en = true → b ≠ l.raw →
       s.ringRead lid = (s.changed l.raw b).2.modLaunch lid fun x => { x with lr := recOf (s.changed l.raw b).1, raw := b }))
   ∧ (∀ (s : State) a b i x y, a[i]? = some x → b[i]? = some y → ((s.changed a b).1[i]? = some y ∨ x ≠ y)
     ∧ (x ≠ y → (s.changed a b).1[i]? = some ((Config.freeWord (s.fresh + i)).setWidth 8))))
  ∧ ((∀ (s : State) l p, s.ev.flag = false → s.launch? s.ev.lid = some l → s.ringKept l = true → l.started = true → l.ended = none →
         l.next < l.lr.nteams →
       (s.ctx l.ctx).st = .active → l.lr.res = false → l.lr.clvl = 0 → l.freeHoods ≠ [] →
       chooseCore s.uses l.lr (s.coreOk s.ev.lid l) allCores = some p →
       exec .teamPlacement s = .next (s.putTeam s.ev.lid l.next p))
     ∧ (∀ (s : State) l i ps u, s.ev.flag = false → s.launch? s.ev.lid = some l → s.ringKept l = true → l.started = true → l.ended = none →
         l.next < l.lr.nteams →
       (s.ctx l.ctx).st = .active → l.lr.res = false → l.lr.clvl ≠ 0 → l.lr.cn ≤ l.freeHoods.length →
       chooseCohort s.uses l.lr (s.coreOk s.ev.lid l) l.lr.cn
         (fun i => decide (s.barsHeld none l.lr.clvl i + l.lr.barsAsked ≤ barCap l.lr.clvl)) (upTo (instCount l.lr.clvl)) = some (i, ps, u) →
       exec .teamPlacement s = .next
         ((s.grantBars s.ev.lid (l.next / l.lr.cn) i).putTeams s.ev.lid ((upTo l.lr.cn).map (l.next + ·)) ps))
     ∧ (∀ (s : State) l, s.ev.flag = false → s.launch? s.ev.lid = some l → s.ringKept l = true → l.started = true → l.ended = none →
         l.next < l.lr.nteams →
       (s.ctx l.ctx).st = .active → l.lr.res = true → exec .teamPlacement s = .next (s.placeResident s.ev.lid))
     ∧ (∀ (s : State) tm l p, s.ev.flag = true → s.team? s.ev.team = some tm → s.launch? tm.lid = some l → tm.resident = false →
       (s.ctx l.ctx).st = .active → (∀ c ∈ tm.cores, (s.ctx tm.ctx).outCores.contains c = false) → l.lr.res = false → l.lr.clvl = 0 →
       tm.killed = false →
       preferCores l.lr s.uses (s.coreOk tm.lid l) (fun _ => true) 1 allCores = some [p] →
       exec .teamPlacement s = .next (s.putTeam tm.lid tm.n p))
     ∧ (∀ (s : State) tm, s.team? s.ev.team = some tm → tm.resident = true → (∀ x ∈ s.threadsOf s.ev.team, x.2.st = .exited) →
       s.teamOps s.ev.team tm = [] → (∀ r ∈ s.copiesOf s.ev.team, r.usesTeam = false) → s.copiesInto s.ev.team = false →
       let w := ((s.closeWindow s.ev.team).leaveCohort s.ev.team).writeHood s.ev.team tm true
       let z := w.2.writeLines s.ev.team tm w.1
       exec .teamRetire s = .next
         (if z.1 = false then z.2.endLaunch tm.lid 4
         else if tm.lr.clvl = 0 then z.2.dropTeam s.ev.team
         else (z.2.dropTeam s.ev.team).modLaunch tm.lid fun l => l.freeCohort (tm.n / tm.lr.cn)))
     ∧ (∀ (s : State) l, s.launch? s.ev.lid = some l → s.ringKept l = true → l.worded = false →
       (l.ended ≠ none ∨ (l.started = true ∧ l.next = l.lr.nteams ∧ l.lr.nteams ≤ l.retired.length)) → s.launchBusy s.ev.lid = false →
       exec .launchRetire s = .next
         ((((s.cores.keys.foldl (fun s c => s.release c l.ctx .sys) s).writeDone l s.ev.lid (l.ended.getD 0)).modLaunch s.ev.lid
           fun x => { x with worded := true }).freeLaunch s.ev.lid)))

/-- R41, R60, R257, R267: a time slice that is over stops the context's issue on the core; a switch-out saves its teams there once they
are quiet; a switch-in makes the context Active and places its saved teams again; a Free context is created, and a Faulted one, or an
Active one with no team resident, destroyed. R256, R263, R448: a disabled queue's EQCTL, EQBASE and EQSTAT take their fields; a host
port's read of HRES answers 1 with a reservation held or taken and 0 without; its write at +0x78 posts the record of its buffer under
that reservation, or stores the cause. When a context comes back, and reservations of a faulted one, are the model's (log 36, log 41). -/
def Obligations.ContextsAndQueues : Prop :=
  ((∀ s : State, s.sliceOver s.ev.ctx s.ev.core = true → s.outTeams s.ev.ctx s.ev.core ≠ [] →
     (s.ctx s.ev.ctx).outCores.contains s.ev.core = false →
     exec .timeSliceEnd s = .next (s.modCtx s.ev.ctx fun x =>
       { x with outCores := x.outCores ++ [s.ev.core], sliceStart := x.sliceStart.drop s.ev.core }))
   ∧ (∀ s : State, (s.core s.ev.core).draining = false → s.mustLeave s.ev.core = [] →
     (s.ctx s.ev.ctx).outCores.contains s.ev.core = true ∨ s.parkedNow s.ev.ctx s.ev.core = true →
     s.outTeams s.ev.ctx s.ev.core ≠ [] →
     let ts := s.outTeams s.ev.ctx s.ev.core
     let u := (s.stopIssue s.ev.ctx s.ev.core).readLists ts
     exec .switchOut s = .next
       (if ts.all u.teamQuiet then
         (ts.foldl (fun s h => s.saveTeam h false) ((distinct (ts.flatMap fun h => ((u.team? h).map Team.cores).getD [])).foldl
           State.matDrain u)).noneResident s.ev.ctx
       else u))
   ∧ (∀ s : State, (s.ctx s.ev.ctx).st = .active ∨ (s.ctx s.ev.ctx).st = .switchedOut → (s.ctx s.ev.ctx).outCores.contains s.ev.core = true →
     s.outTeams s.ev.ctx s.ev.core = [] →
     let u := s.modCtx s.ev.ctx fun x => { x with st := .active, outCores := x.outCores.filter (· != s.ev.core) }
     exec .switchIn s = .next
       (((u.savedTeams s.ev.ctx).foldl (fun s h => if ((s.team? h).map (·.saved)).getD false then s.placeAgain h else s) u).noteCame
       s.ev.ctx))
   ∧ (∀ s : State, s.ev.hport < 2 → s.dieAnswers 8 (0x20000 + 0x10 * s.ev.ctx) = true → s.ev.ctx < 64 → s.ev.v.extractLsb' 10 6 = 0 →
       s.ev.v.getLsbD 7 = false →
     s.ev.v.extractLsb' 2 2 = 0 → s.ev.v.extractLsb' 8 2 = 1 → (s.ctx s.ev.ctx).st = .free →
     exec .contextCreate s = .next { (s.modCtx s.ev.ctx fun x => { x with
       st := .active, rngkey := s.ev.v.extractLsb' 32 32, slice := (s.ev.v.extractLsb' 16 16).toNat, priv := s.ev.v.getLsbD 6
       prio := (s.ev.v.extractLsb' 4 2).toNat }) with fslots := s.fslots.drop s.ev.ctx })
   ∧ (∀ s : State, s.ev.hport < 2 → s.dieAnswers 8 (0x20000 + 0x10 * s.ev.ctx) = true → s.ev.ctx < 64 → s.ev.v.extractLsb' 10 6 = 0 →
       s.ev.v.getLsbD 7 = false →
     s.ev.v.extractLsb' 2 2 = 0 → s.ev.v.extractLsb' 8 2 = 2 →
     ((s.ctx s.ev.ctx).st = .faulted ∨ ((s.ctx s.ev.ctx).st = .active ∧ ∀ e ∈ s.teams, e.2.ctx = s.ev.ctx → e.2.resident = false)) →
     let s1 := (s.modCtx s.ev.ctx fun x => { x with
       slice := (s.ev.v.extractLsb' 16 16).toNat, priv := s.ev.v.getLsbD 6, prio := (s.ev.v.extractLsb' 4 2).toNat }).stopContext s.ev.ctx
     let s2 := ((s1.launches.filter fun e => e.2.ctx == s.ev.ctx).map (·.1)).foldl State.retireLaunch s1
     let s3 := s2.modCtx s.ev.ctx fun x =>
       { x with st := .free, tdm := 0, sliceStart := [], outCores := [], cameParked := [], rsvs := [] }
     exec .contextDestroy s = .next
       ((s2.ctx s.ev.ctx).rsvs.foldl (fun s q => (s.modQueue q fun d => { d with rsvs := d.rsvs - 1 }).freeSlot q) s3)))
  ∧ ((∀ s : State, s.ev.hport < 2 → s.dieAnswers (8 + s.ev.q / 512) (0x10000 + 0x20 * (s.ev.q % 512) + 0) = true → s.ev.q < 1024 →
         s.ev.idx = 0 → s.ev.v.extractLsb' 45 19 = 0 →
       s.ev.v.extractLsb' 27 5 = 0 → s.ev.v.extractLsb' 1 19 = 0 → (s.queue s.ev.q).en = false →
       0 < (s.ev.v.extractLsb' 32 13).toNat → (s.ev.v.extractLsb' 32 13).toNat ≤ 4096 →
       exec .eqctlWrite s = .next (s.setQueue s.ev.q { (s.queue s.ev.q) with
         size := (s.ev.v.extractLsb' 32 13).toNat, xpost := s.ev.v.getLsbD 26, ctx := (s.ev.v.extractLsb' 20 6).toNat
         en := s.ev.v.getLsbD 0 }))
     ∧ (∀ s : State, s.ev.hport < 2 → s.dieAnswers (8 + s.ev.q / 512) (0x10000 + 0x20 * (s.ev.q % 512) + 8) = true → s.ev.q < 1024 →
         s.ev.idx = 1 → s.ev.v.extractLsb' 52 12 = 0 →
       s.ev.v.extractLsb' 0 7 = 0 → (s.queue s.ev.q).en = false →
       exec .eqctlWrite s = .next (s.setQueue s.ev.q { (s.queue s.ev.q) with base := s.ev.v.toNat }))
     ∧ (∀ s : State, s.ev.hport < 2 → s.dieAnswers (8 + s.ev.q / 512) (0x10000 + 0x20 * (s.ev.q % 512) + 16) = true → s.ev.q < 1024 →
         s.ev.idx = 2 → s.ev.v.extractLsb' 36 28 = 0 →
       s.ev.v.extractLsb' 29 3 = 0 → s.ev.v.extractLsb' 13 3 = 0 →
       exec .eqctlWrite s = .next (s.setQueue s.ev.q { (s.queue s.ev.q) with
         err := (s.queue s.ev.q).err &&& (15 - (s.ev.v.extractLsb' 32 4).toNat) }))
     ∧ (∀ s : State, s.ev.hport < 2 → s.ev.q < 1024 → (s.queue s.ev.q).en = true → (s.ctx (s.queue s.ev.q).ctx).st ≠ .free →
       let q := s.queue s.ev.q
       let reply (s : State) (v : Byte) : State := s.modHPort s.ev.hport fun x => { x with replies := x.replies ++ [[v, 0, 0, 0, 0, 0, 0, 0]] }
       exec .hresRead s = .next
         (if q.hostRsv.contains s.ev.hport then reply s 1
         else if 0 < q.size - q.queued - q.rsvs - q.hostRsv.length then
           reply (s.setQueue s.ev.q { q with hostRsv := q.hostRsv ++ [s.ev.hport] }) 1
         else reply s 0))
     ∧ (∀ s : State, s.ev.hport < 2 → s.ev.q < 1024 → (s.queue s.ev.q).en = true → (s.ctx (s.queue s.ev.q).ctx).st ≠ .free →
       let b := ((s.hport s.ev.hport).buf s.ev.q).take 0x78 ++ toBytes 8 s.ev.v.toNat
       ((s.hport s.ev.hport).buf s.ev.q).length = 128 →
       let u := s.modHPort s.ev.hport fun x => { x with bufs := x.bufs.drop s.ev.q }
       exec .hostPost s = .next
         (match u.rejectCause s.ev.q none b (!(s.queue s.ev.q).hostRsv.contains s.ev.hport) with
         | some k => u.modQueue s.ev.q fun q => { q with err := k }
         | none => u.modQueue s.ev.q fun q =>
             { q with hostRsv := q.hostRsv.filter (· != s.ev.hport), posts := q.posts ++ [u.post none b true] }))
     ∧ (∀ s : State, s.ev.hport < 2 → s.ev.q < 1024 → (s.queue s.ev.q).en = false ∨ (s.ctx (s.queue s.ev.q).ctx).st = .free →
       let shut (s : State) : State := s.modQueue s.ev.q fun q => { q with err := 1, hostRsv := q.hostRsv.filter (· != s.ev.hport) }
       exec .hresRead s = .next ((shut s).modHPort s.ev.hport fun x => { x with replies := x.replies ++ [[0, 0, 0, 0, 0, 0, 0, 0]] })
         ∧ exec .hostPost s = .next (shut (s.modHPort s.ev.hport fun x => { x with bufs := x.bufs.drop s.ev.q }))))

/-! ### The load-store engine -/

/-- The lanes of an instruction in turn; a thread whose team has gone does nothing. -/
def Sys2Proof.Say.inTurn (s : State) (team : Nat) (live : List (Nat × Nat × Thread)) (f : Nat → Thread → State → State) : State :=
  live.foldl (fun s x => if (s.thread? team x.2.1).isSome then f x.2.1 x.2.2 s else s) s

/-- Bytes as the registers that receive them: whole words, or a byte or halfword zero-extended (R278). -/
def Sys2Proof.Say.loaded (d n : Nat) (b : List Byte) : List (Nat × Word) :=
  (List.range (if n ≤ 4 then 1 else n / 4)).map fun i => (d + i, BitVec.ofNat 32 (Machine.ofBytes ((b.drop (4 * i)).take 4)))

/-- R86: the effective address of each memory operand, in the global space (64-bit base in a pair) and as an offset (32-bit base), and
what it leaves in the base register. R276: the checks of a global access, in their order: Misaligned (0x06), the page faults of its
address and page, ClassFault and RemoteFault (0x09) as the access finds them, a page fault parking the thread; an access that passes has
its global physical address. -/
def Obligations.AddressesAndChecks : Prop :=
  (∀ (tm : Team) (t : Thread) (a : VReg),
     (∀ m, (eaGlobal tm t a m).1 = t.reg64 a.toNat + (match m with
         | .base => 0
         | .off w => w.signExtend 64
         | .index b s => (xVal tm t b).signExtend 64 <<< s.toNat
         | .post _ => 0
         | .modulo _ _ => 0))
     ∧ (∀ w, (eaGlobal tm t a (.post w)).2 = wr64 a.toNat (t.reg64 a.toNat + w.signExtend 64))
     ∧ (∀ m, (eaLocal tm t a m).1 = t.reg a.toNat + (match m with
         | .base => 0
         | .off w => w
         | .index b s => xVal tm t b <<< s.toNat
         | .post _ => 0
         | .modulo _ _ => 0))
     ∧ (∀ w, (eaLocal tm t a (.post w)).2 = [(a.toNat, t.reg a.toNat + w.signExtend 32)])
     ∧ (∀ w b s, (eaGlobal tm t a .base).2 = [] ∧ (eaGlobal tm t a (.off w)).2 = [] ∧ (eaGlobal tm t a (.index b s)).2 = []
         ∧ (eaLocal tm t a .base).2 = [] ∧ (eaLocal tm t a (.off w)).2 = [] ∧ (eaLocal tm t a (.index b s)).2 = [])
     ∧ (∀ i inc, (tm.mreg.getD i.toNat (0, 0)).2 = 0 →
         (eaLocal tm t a (.modulo i inc)).2 = [(a.toNat, t.reg a.toNat + inc.signExtend 32)])
     ∧ (∀ i inc b n, tm.mreg.getD i.toNat (0, 0) = (b, n) → b.toNat ≤ (t.reg a.toNat).toNat →
         (t.reg a.toNat).toNat < b.toNat + n.toNat → b.toNat + n.toNat < 2 ^ 32 → ∃ x : Word,
         (eaLocal tm t a (.modulo i inc)).2 = [(a.toNat, x)] ∧ b.toNat ≤ x.toNat ∧ x.toNat < b.toNat + n.toNat
           ∧ ((x.toNat : Int) - (t.reg a.toNat).toNat - inc.toInt) % n.toNat = 0))
  ∧ (∀ (s : State) c team tid ctx write posted pci len (va : DWord),
       let check (s : State) (mis : Bool) : Option (Nat × Xlat) × State := s.checkVa c team tid ctx write posted pci len va mis
       let acc := s.access (dieOf c) (some c) ctx (if write then .write else .read) va
       check s true = (none, s.takeTrap team tid { kind := 6, info := va, pc := pci, len := len, seq := s.nextId })
       ∧ (va.extractLsb' 55 9 ≠ 0 → check s false = (none, s.pageFault team tid pci va 2 write false))
       ∧ (∀ k, acc.1 = .pageFault k → check s false = (none, acc.2.pageFault team tid pci va k write false))
       ∧ (∀ k i, acc.1 = .trap k i →
           check s false = (none, acc.2.takeTrap team tid { kind := k, info := i, pc := pci, len := len, seq := acc.2.nextId }))
       ∧ (∀ gpa x, acc.1 = .ok gpa x → acc.2.noPath gpa posted = false → check s false = (some (gpa, x), acc.2))
       ∧ (∀ gpa x, acc.1 = .ok gpa x → acc.2.noPath gpa posted = true → check s false = (none, acc.2.takeTrap team tid
           { kind := 9, info := BitVec.ofNat 64 gpa, pc := pci, len := len, seq := acc.2.nextId })))

/-- R125, R146, R276, R278, R279: LDS and STS. An access past the scratchpad faults with SpaceRange (0x07), one across a line, out of its
alignment or across a pair's halves with Misaligned; else LDS gives the bytes, its base register is updated and its acquire performed,
and STS writes them. -/
def Obligations.ScratchpadAccesses : Prop :=
  let fault (sc : SpCode) (tm : Team) (o : Nat) : Option (Nat × DWord) :=
    let n := (spBytes sc).1
    if tm.lr.scratch < o + n then some (7, BitVec.ofNat 64 (max o tm.lr.scratch))
    else if 128 < o % 128 + n ∨ o % (spBytes sc).2 ≠ 0 ∨ (tm.lr.pair = true ∧ o < tm.lr.scratch / 2 ∧ tm.lr.scratch / 2 < o + n) then
      some (6, BitVec.ofNat 64 o)
    else none
  ([SpCode.b32, .b64, .b128, .b64a8, .b128a16, .b8, .b16].map spBytes = [(4, 1), (8, 1), (16, 1), (8, 8), (16, 16), (1, 1), (2, 1)])
  ∧ (∀ m sc, OnLive (.lds m sc) m.h (lenMem m.mem) false (vW m.d (regsFor (spBytes sc).1) :: memOps m.a 1 m.mem)
      fun c g tm live s =>
        inTurn { s with nextId := s.nextId + 1 } g.team live fun tid t u =>
          let ea := eaLocal tm t m.a m.mem
          let n := (spBytes sc).1
          match fault sc tm ea.1.toNat, u.team? g.team with
          | some k, _ => faults u g.team tid k.1 k.2 t (lenMem m.mem)
          | none, none => u
          | none, some now =>
            if now.sPoisoned ea.1.toNat n then u.consume g.team tid t.pc 7 ea.1.toNat
            else
              let regs := loaded m.d.toNat n (now.sRead ea.1.toNat n)
              let u := (u.modThread g.team tid fun v => v.writeRegs ea.2).openWin g.team tid (window s m.h t .mem true regs none)
              if acqOrder m.ord then (u.learns g.team tid).acquire c tm.ctx m.scope else u)
  ∧ (∀ m sc, OnGo (.sts m sc) m.h (lenMem m.mem) (vR m.d (regsFor (spBytes sc).1) :: memOps m.a 1 m.mem)
      (fun c g tm live s =>
        let words := live.flatMap fun x =>
          let o := (eaLocal tm x.2.2 m.a m.mem).1.toNat
          if (fault sc tm o).isNone then
            (List.range ((o + (spBytes sc).1 - 1) / 8 + 1 - o / 8)).map (o / 8 + ·) else []
        (reqIds (s.core c).storeq).length + (distinct words).length ≤ 128
        ∧ (relOrder m.ord = false ∨ m.scope ≠ .sys ∨ ∀ x ∈ live, s.sysHold c g.team x.2.1 = false))
      fun c g tm live s =>
        let good := live.filterMap fun x =>
          let ea := (eaLocal tm x.2.2 m.a m.mem).1
          if (fault sc tm ea.toNat).isNone then some (ea, (spBytes sc).1) else none
        let s := if good ≠ [] ∧ relOrder m.ord = true then
          (live.foldl (fun s x => s.tells g.team x.2.1) s).release c tm.ctx m.scope else s
        let s := s.modTeam g.team fun t =>
          { t with poisonScratch := t.poisonScratch.filter fun w => !(coveredWords t good).contains w }
        inTurn s g.team live fun tid t s =>
          let ea := eaLocal tm t m.a m.mem
          match fault sc tm ea.1.toNat, s.team? g.team with
          | some k, _ => faults s g.team tid k.1 k.2 t (lenMem m.mem)
          | none, none => s
          | none, some now =>
            let b := t.regBytes m.d.toNat (spBytes sc).1
            let s := s.modThread g.team tid fun t => t.writeRegs ea.2
            if now.sPartPoison ea.1.toNat (spBytes sc).1 then
              s.storeFault (storeRec c g.team tid tm.ctx t.pc (ea.1.setWidth 64) ea.1.toNat b) 2
            else if wideScope m.scope then ((s.closeWindow g.team).sPutBy (some tid) g.team ea.1.toNat b).closeRegion g.team tid
            else s.sPutBy (some tid) g.team ea.1.toNat b)

/-- R125, R134, R254, R274, R278, R279: LD and ST. In the global space the lanes that pass the checks act in lane order: a load in this
package gives the bytes at its point, with older stores of its core laid over them, or consumes poison; loads in another package go as
one read message a line; a store joins its request in the store queue or the log. The private space lies in the hood: an access past PRIV
faults with SpaceRange, one across a line with Misaligned; its stores are one request for each hood line. One execution of those that the
consistency model permits (log 6); lines of a private access as log 22 says. -/
def Obligations.GlobalAccesses : Prop :=
  let prv (tm : Team) (tid n o : Nat) : Option (Nat × DWord) :=
    if tm.lr.priv < o + n then some (7, BitVec.ofNat 64 (max o tm.lr.priv))
    else if 128 < tm.privVa tid o % 128 + n then some (6, BitVec.ofNat 64 o)
    else none
  ([AccCode.b32, .b64, .b128, .b64a8, .b128a16, .prv, .prvB64, .prvB128].map (fun a => (accBytes a, accUnit a, accPrv a)) =
    [(4, 1, false), (8, 1, false), (16, 1, false), (8, 8, false), (16, 16, false), (4, 1, true), (8, 1, true), (16, 1, true)])
  ∧ (∀ m ac, accPrv ac = false → OnLive (.ld m ac) m.h (lenMem m.mem) false (vW m.d (regsFor (accBytes ac)) :: memOps m.a 2 m.mem)
      fun c g tm live s =>
        let n := accBytes ac
        let r := s.checkLanes c g.team tm false false (lenMem m.mem) n (accUnit ac) (fun t => eaGlobal tm t m.a m.mem) live
        let here := r.1.filter fun a => pkgOf a.gpa == s.pkgid
        let away := r.1.filter fun a => pkgOf a.gpa != s.pkgid
        let one (u : State) (a : Acc) : State :=
          if (u.thread? g.team a.tid).isNone then u
          else
            let v := u.readGlobal c g.team a.tid tm.ctx a.va a.x m.scope a.gpa n (lanesAt here a)
            if v.1.2 then v.2.consume g.team a.tid a.t.pc (dramLoc (localOf a.gpa)) (localOf a.gpa)
            else
              let regs := loaded m.d.toNat n v.1.1
              let u := (v.2.modThread g.team a.tid fun x => x.writeRegs a.upd).openWin g.team a.tid (window r.2 m.h a.t .mem true regs none)
              if acqOrder m.ord then (u.learns g.team a.tid).acquire c tm.ctx m.scope else u
        (accLines away).foldl (fun s ln => s.loadRemote c g.team tm.ctx m r.2.nextId n (accIn away ln))
          (here.foldl one (({ r.2 with nextId := r.2.nextId + 1 } : State).fillLines c tm.ctx here)))
  ∧ (∀ m ac, accPrv ac = true → OnLive (.ld m ac) m.h (lenMem m.mem) false (vW m.d (regsFor (accBytes ac)) :: memOps m.a 1 m.mem)
      fun _ g tm live s =>
        inTurn { s with nextId := s.nextId + 1 } g.team live fun tid t u =>
          let ea := eaLocal tm t m.a m.mem
          let n := accBytes ac
          match prv tm tid n ea.1.toNat with
          | some k => faults u g.team tid k.1 k.2 t (lenMem m.mem)
          | none =>
            match u.engineVa tm.ctx false (tm.privVa tid ea.1.toNat) with
            | (none, u) => u.endLaunch tm.lid 4
            | (some pa, u) =>
              if u.poisonedIn pa n then u.consume g.team tid t.pc (dramLoc pa) pa
              else
                let v := u.prvBytes tm (tm.privVa tid ea.1.toNat) pa n
                let regs := loaded m.d.toNat n v.1
                (v.2.modThread g.team tid fun v => v.writeRegs ea.2).openWin g.team tid (window s m.h t .mem true regs none))
  ∧ (∀ (s : State) tm va pa n, tm.upset = [] → s.prvBytes tm va pa n = (s.peekN pa n, s))
  ∧ (∀ m ac, accPrv ac = false → OnGo (.st m ac) m.h (lenMem m.mem) (vR m.d (regsFor (accBytes ac)) :: memOps m.a 2 m.mem)
      (fun c g tm live s => storeWaits m (accBytes ac) (accUnit ac) c g tm live s = none)
      fun c g tm live s => s.stGlobal c g.team tm m (accBytes ac) (accUnit ac) none live)
  ∧ (∀ m ac, accPrv ac = true → OnGo (.st m ac) m.h (lenMem m.mem) (vR m.d (regsFor (accBytes ac)) :: memOps m.a 1 m.mem)
      (fun c _ tm live s =>
        let lines := live.filterMap fun x =>
          let o := (eaLocal tm x.2.2 m.a m.mem).1.toNat
          if (prv tm x.2.1 (accBytes ac) o).isNone then some (tm.privVa x.2.1 o / 128) else none
        (reqIds (s.core c).storeq).length + (distinct lines).length ≤ 128)
      fun c g tm live s =>
        let n := accBytes ac
        let one (a : List StoreReq × State) (x : Nat × Nat × Thread) : List StoreReq × State :=
          let tid := x.2.1
          let t := x.2.2
          let ea := eaLocal tm t m.a m.mem
          if (a.2.thread? g.team tid).isNone then a
          else
            match prv tm tid n ea.1.toNat with
            | some k => (a.1, faults a.2 g.team tid k.1 k.2 t (lenMem m.mem))
            | none =>
              match a.2.engineVa tm.ctx true (tm.privVa tid ea.1.toNat) with
              | (none, s) => (a.1, s.endLaunch tm.lid 4)
              | (some pa, s) =>
                (a.1 ++ [storeRec c g.team tid tm.ctx t.pc (BitVec.ofNat 64 (tm.privVa tid ea.1.toNat)) pa (t.regBytes m.d.toNat n)],
                  s.modThread g.team tid fun t => t.writeRegs ea.2)
        let r := live.foldl one ([], s)
        (distinct (r.1.map fun q => q.pa / 128)).foldl (fun s ln => s.prvLine tm (r.1.filter fun q => q.pa / 128 == ln)) r.2)
  ∧ (∀ (s : State) tm (r : StoreReq), tm.upset = [] →
    s.prvLine tm [r] = if s.poisonedAt r.pa = true ∧ maskAt r.pa r.data.length ≠ fullMask then s.storeFault r 2
      else (if maskAt r.pa r.data.length = fullMask then s.clearPoison (r.pa / 128 * 128) 128 else s).pokeN r.pa r.data)

/-- R125, R151: bytes written to a team's scratchpad (in canonical form, which the write keeps) are what its reads give from then on, at
that place and nowhere else, and no other team's scratchpad changes. R280, R282 to R284: how a lane's store goes on. Outside a relaunch
window and at a scope within its die it joins the store queue as a request with its bytes, address and order, and nothing but that core's
queue, the team's log and the thread's base register changes; with a wider scope it closes the window and the region. A store performed
at home of a class without a directory writes exactly its bytes. One execution of those that the consistency model permits (log 6), with
the bytes in one memory (log 7). -/
def Obligations.StoresAndReads : Prop :=
  (∀ (s : State) writer team off (b : List Byte) tm, s.team? team = some tm → spWf tm.scratch = true →
     ∃ u, (s.sPutBy writer team off b).team? team = some u ∧ spWf u.scratch = true
       ∧ u.sRead off b.length = b
       ∧ (∀ a, a < off ∨ off + b.length ≤ a → u.sRead a 1 = tm.sRead a 1)
       ∧ (∀ k, k ≠ team → (s.sPutBy writer team off b).team? k = s.team? k)
       ∧ (s.sPutBy writer team off b).mem = s.mem)
  ∧ ((∀ (s : State) c team ctx m n ids a tm, s.team? team = some tm → (s.thread? team a.tid).isSome → tm.window = false →
       pkgOf a.gpa = s.pkgid → wideScope m.scope = false →
       s.stLane c team ctx m n ids none a =
         (s.modThread team a.tid fun t => t.writeRegs a.upd).modCore c fun k => { k with storeq := k.storeq ++
           [{ id := ids (lineOf a.gpa), core := c, team := team, tid := a.tid, lane := a.tid, pc := a.t.pc, ctx := ctx, va := a.va
              pa := a.gpa, data := a.t.regBytes m.d.toNat n, red := none, rel := relOrder m.ord, sc := m.scope, cls := a.x.cls
              hint := a.x.hint, cmp := a.x.cmp, rng := s.rangeAt (dieOf c) ctx a.va.toNat }] })
     ∧ (∀ (s : State) c team ctx m n ids a, (s.thread? team a.tid).isSome → pkgOf a.gpa = s.pkgid → wideScope m.scope = true →
       s.stLane c team ctx m n ids none a =
         (((s.modThread team a.tid fun t => t.writeRegs a.upd).closeWindow team).modCore c fun k => { k with storeq := k.storeq ++
           [{ id := ids (lineOf a.gpa), core := c, team := team, tid := a.tid, lane := a.tid, pc := a.t.pc, ctx := ctx, va := a.va
              pa := a.gpa, data := a.t.regBytes m.d.toNat n, red := none, rel := relOrder m.ord, sc := m.scope, cls := a.x.cls
              hint := a.x.hint, cmp := a.x.cmp, rng := s.rangeAt (dieOf c) ctx a.va.toNat }] }).closeRegion team a.tid)
     ∧ (∀ (s : State) (r : StoreReq) lanes a, Memory.wf s.mem = true → r.red = none → r.cls ≠ 1 → r.cls ≠ 2 →
       localOf r.pa % 128 + r.data.length ≤ 128 →
       let lo := s.home (localOf r.pa)
       (s.storeLocal r lanes).peek a =
         if lo ≤ s.home a ∧ s.home a < lo + r.data.length then r.data.getD (s.home a - lo) 0 else s.peek a))

/-- R285, R286: ATOM, CAS and RED. Each operation's width, code and new value of the old value o and operand d; ATOM gives the old value
and CAS stores its second operand where the old value equals the first; RED gives nothing. One execution of those that the consistency
model permits (log 6). -/
def Obligations.Atomics : Prop :=
  let atom (op : AtomOp) (n code : Nat) (new : DWord → DWord → DWord) : Prop := ∀ m,
    OnGo (.atom m op) m.h (lenMem m.mem) (vR m.d (nr (n == 8)) :: vW m.d (nr (n == 8)) :: memOps m.a 2 m.mem)
      (fun c g tm live s => rmwWaits m n c g tm live s = none)
      fun c g tm live s => s.rmwAll c g.team tm m n .atomic code
        (fun t o => some (new o (BitVec.ofNat 64 (Machine.ofBytes (t.regBytes m.d.toNat n))))) (fun t => t.regBytes m.d.toNat n) live
  let red (op : RedOp) (n : Nat) (new : DWord → DWord → DWord) : Prop :=
    redBytes op = n ∧ (∀ o d, redNew op o d = new o d) ∧ ∀ m,
      OnGo (.red m op) m.h (lenMem m.mem) (vR m.d (nr (n == 8)) :: memOps m.a 2 m.mem)
        (fun c g tm live s => storeWaits m n n c g tm live s = none)
        fun c g tm live s => s.stGlobal c g.team tm m n n (some op) live
  let low (f : Word → Word → Word) (o d : DWord) : DWord := (f (o.setWidth 32) (d.setWidth 32)).setWidth 64
  let least (x y : Word) : Word := if x.toInt < y.toInt then x else y
  let most (x y : Word) : Word := if x.toInt < y.toInt then y else x
  (atom .add 4 0 (low fun o d => o + d) ∧ atom .addB64 8 1 (fun o d => o + d) ∧ atom .exch 4 2 (low fun _ d => d)
    ∧ atom .exchB64 8 3 (fun _ d => d) ∧ atom .minI32 4 4 (low least) ∧ atom .maxI32 4 5 (low most)
    ∧ atom .and 4 6 (low fun o d => o &&& d) ∧ atom .or 4 7 (low fun o d => o ||| d))
  ∧ (red .add 4 (low fun o d => o + d) ∧ red .addB64 8 (fun o d => o + d)
    ∧ red .addF32 4 (fun o d => BitVec.ofNat 64
        (addVal fp32 .rn 0 (decodeF fp32 (o.setWidth 32).toNat) (decodeF fp32 (d.setWidth 32).toNat)).code)
    ∧ red .minI32 4 (low least) ∧ red .maxI32 4 (low most) ∧ red .and 4 (low fun o d => o &&& d) ∧ red .or 4 (low fun o d => o ||| d)
    ∧ red .xor 4 (low fun o d => o ^^^ d))
  ∧ (∀ m w64 (x : VReg), let n := if w64 then 8 else 4
    OnGo (.cas m w64 x) m.h (lenMem m.mem) (vW m.d (nr w64) :: memOps m.a 2 m.mem ++ [vR x (2 * nr w64)])
      (fun c g tm live s => rmwWaits m n c g tm live s = none)
      fun c g tm live s => s.rmwAll c g.team tm m n .cas (if w64 then 1 else 0)
        (fun t o =>
          if o = BitVec.ofNat 64 (Machine.ofBytes (t.regBytes x.toNat n)) then
            some (BitVec.ofNat 64 (Machine.ofBytes (t.regBytes (x.toNat + nr w64) n)))
          else none)
        (fun t => t.regBytes x.toNat n ++ t.regBytes (x.toNat + nr w64) n) live)
  ∧ (∀ (s : State) c team ctx m n win lanes (a : Acc) f b,
    let u := (s.closeWindow team).drainTo c fun r => overlaps r.pa r.data.length a.gpa n
    let rng := u.rangeAt (dieOf c) ctx a.va.toNat
    let v := u.readPoint c ctx rng a.x m.scope (localOf a.gpa) n lanes
    v.1 = (b, false) → (v.2.thread? team a.tid).isSome →
    let o : DWord := BitVec.ofNat 64 (Machine.ofBytes b)
    let w := v.2.writeAtomic c ctx rng a.x m.scope (localOf a.gpa) ((f o).map fun x => toBytes n x.toNat)
      (if a.x.cls = 1 then 0 else lanes)
    let x := (w.modThread team a.tid fun t => t.writeRegs a.upd).openWin team a.tid
      (mkWin m.h win .mem a.t.pc (regsOfBytes m.d.toNat b) true)
    s.rmwLocal c team ctx m n win lanes a f =
      (if acqOrder m.ord then (x.learns team a.tid).acquire c ctx m.scope else x).closeRegion team a.tid)
  ∧ (∀ (s : State) c ctx rng x sc pa b lanes, x.cls = 2 →
    s.writeAtomic c ctx rng x sc pa (some b) lanes = (s.pokeN pa b).aluHold c ctx rng x sc pa (maskAt pa b.length) lanes
    ∧ s.writeAtomic c ctx rng x sc pa none lanes = s.aluHold c ctx rng x sc pa 0 lanes)

/-- R137, R290, R291, R401: FENCE releases, acquires or does both; at .sys its release completes only when no write of the thread to
another package is unacknowledged. WAITW gives the word where its condition holds or its timeout has passed, and else waits with WAIT =
2. One execution of those that the consistency model permits (log 6); a remote watch as log 57 says, one of an RO line as log 82. -/
def Obligations.FencesAndWatches : Prop :=
  let rel (h : Hdr) (sc : Scope) (c team : Nat) (tm : Team) (tid : Nat) (t : Thread) (s : State) : State :=
    let s := (s.tells team tid).release c tm.ctx sc
    if sc = .sys ∧ s.remoteWrites team tid = true then opens s team tid (window s h t .sync false [] none) else s
  (∀ h sc, OnLanes (.fence h .acq sc) h 2 false [] fun c team tm tid _ s => (s.learns team tid).acquire c tm.ctx sc)
  ∧ (∀ h sc, OnLanes (.fence h .rel sc) h 2 false [] fun c team tm tid t s => rel h sc c team tm tid t s)
  ∧ (∀ h sc, OnLanes (.fence h .sc sc) h 2 false [] fun c team tm tid t s =>
    ((rel h sc c team tm tid t s).learns team tid).acquire c tm.ctx sc)
  ∧ (∀ h cond ord sc (d a b : VReg), OnLanes (.waitw h cond ord sc d a b) h 2 false [vR d, vW d, vR a 2, vR b] fun c team tm tid t s =>
      let va := t.reg64 a.toNat
      let x := t.reg d.toNat
      let limit := t.reg b.toNat
      match s.checkVa c team tid tm.ctx false false t.pc 2 va (va.toNat % 4 != 0) with
      | (none, s) => s
      | (some (gpa, y), s) =>
        let dl : Option Nat := if limit = 0xFFFFFFFF then none else some (s.clk + limit.toNat)
        let waits (u : State) (sc : Scope) (poll : Nat) (line : Option Nat) : State :=
          let w := { window s h t (if acqOrder ord then .sync else .mem) false [(d.toNat, 0)]
            (some (.watch va cond x dl (acqOrder ord) sc d.toNat poll line)) with canLate := true }
          let u := u.modThread team tid fun v => v.openWin w [d.toNat] []
          if h.la = 0 then parks u team tid 2 else u
        let s1 : State := { s with nextId := s.nextId + 1 }
        if pkgOf gpa ≠ s.pkgid then
          let u := (s1.closeWindow team).drainTo c fun r => r.pa / 128 == gpa / 128
          ((waits u .sys (u.clk + 256) none).watchSend team tid tm.ctx s.nextId gpa).closeRegion team tid
        else
          match s1.watchRead c team tid tm.ctx va y sc gpa with
          | (none, u) => u.consume team tid t.pc (dramLoc (localOf gpa)) (localOf gpa)
          | (some v, u) =>
            if condHolds cond v x then
              let u := opens u team tid (window u h t .mem true [(d.toNat, v)] none)
              if acqOrder ord then (u.learns team tid).acquire c tm.ctx sc else u
            else if dl.any (fun k => decide (k ≤ u.clk)) then opens u team tid (window u h t .mem true [(d.toNat, v)] none)
            else
              let ln := u.watchLine c s.nextId y gpa
              waits u sc (u.clk + if ln.isSome then 4096 else 256) ln)
  ∧ (∀ v x : Word, condHolds .eq v x = decide (v = x) ∧ condHolds .ne v x = decide (v ≠ x)
      ∧ condHolds .lt v x = decide (v.toInt < x.toInt) ∧ condHolds .ge v x = decide (x.toInt ≤ v.toInt)
      ∧ condHolds .ltu v x = decide (v.toNat < x.toNat) ∧ condHolds .geu v x = decide (x.toNat ≤ v.toNat)
      ∧ condHolds .any v x = decide (v &&& x ≠ 0) ∧ condHolds .none v x = decide (v &&& x = 0))

/-- R294, R295, R297, R305, R306: PFCH fetches its line and never faults; CCTL acts on its line in the caches of its scope; PIN sets and
UNPIN clears a retention range, with the operands of the last live lane; TXQ and FRQ, of a privileged context, give a translation and a
frame's record. CCTL first performs its core's queued stores to the line (log 43). -/
def Obligations.CacheAndQueryInstructions : Prop :=
  (∀ h (a : VReg) mem ex hint sc, OnLanes (.pfch h a mem ex hint sc) h (lenMem mem) false (memOps a 2 mem) fun c _ tm _ t s =>
    let va := (eaGlobal tm t a mem).1
    let r := s.check (dieOf c) (some c) tm.ctx .read va
    match r.1 with
    | .ok gpa x =>
      if pkgOf gpa = r.2.pkgid ∧ x.cls ≠ 0 then
        (r.2.reached tm.ctx gpa).prefetch c tm.ctx va.toNat { x with hint := (match hint with
          | .page => x.hint
          | .ef => 1
          | .el => 2) } (localOf gpa) ex sc
      else r.2
    | _ => r.2)
  ∧ (∀ h (a : VReg) mem op sc, OnLanes (.cctl h a mem op sc) h (lenMem mem) false (memOps a 2 mem) fun c team tm tid t s =>
    let va := (eaGlobal tm t a mem).1
    let r := s.check (dieOf c) (some c) tm.ctx .read va
    match r.1 with
    | .ok gpa x =>
      if pkgOf gpa = r.2.pkgid ∧ x.cls ≠ 0 then
        (cctlCaches c sc (localOf gpa)).foldl (fun s k =>
          if ((s.cache k).line? (lineOf (localOf gpa))).isNone then s
          else match op with
          | .wb => s.writeBack k (lineOf (localOf gpa))
          | .wbinv => s.giveUp k (lineOf (localOf gpa))
          | .ef => s.setCache k ((s.cache k).modLine (lineOf (localOf gpa)) fun l => { l with hint := 1 })
          | .el => s.setCache k ((s.cache k).modLine (lineOf (localOf gpa)) fun l => { l with hint := 2 })
          | .nrm => s.setCache k ((s.cache k).modLine (lineOf (localOf gpa)) fun l => { l with hint := 0 }))
          ((r.2.reached tm.ctx gpa).drainTo c fun q => lineOf q.pa == lineOf gpa)
      else r.2
    | .pageFault k => r.2.pageFault team tid t.pc va k false false
    | .trap _ _ => r.2
    | .poison pa => r.2.consume team tid t.pc (dramLoc pa) pa)
  ∧ (∀ h (a b : VReg) (idx : BitVec 2), OnLive (.pin h a b idx) h 2 false [vR a 2, vR b] fun c g tm live s =>
    match live.getLast? with
    | none => s
    | some x =>
      let base := x.2.2.reg64 a.toNat
      let len := x.2.2.reg b.toNat
      let d := dieOf c
      let r := (s.die d).range tm.ctx idx.toNat
      if base.extractLsb' 55 9 ≠ 0 then live.foldl (fun s y => s.pageFault g.team y.2.1 y.2.2.pc base 2 false false) s
      else if len = 0 then s.unpin d tm.ctx idx.toNat
      else if r.base = base.toNat ∧ r.len = len.toNat then s.modRange d tm.ctx idx.toNat fun r => { r with v := true }
      else
        (s.modDie d fun x => x.unretain tm.ctx idx.toNat).modRange d tm.ctx idx.toNat fun _ =>
          { base := base.toNat, len := len.toNat, v := true, fill := 0, ovf := 0, hit := 0 })
  ∧ (∀ h (idx : BitVec 2), OnLive (.unpin h idx) h 2 false [] fun c _ tm live s =>
    if live = [] ∨ ((s.die (dieOf c)).range tm.ctx idx.toNat).v = false then s
    else (s.modRange (dieOf c) tm.ctx idx.toNat fun r => { r with v := false }).modDie (dieOf c) fun x => x.unretain tm.ctx idx.toNat)
  ∧ (∀ h (d a : VReg), OnLanes (.txq h d a) h 2 true [vW d 4, vR a 2] fun c team tm tid t s =>
    let va := t.reg64 a.toNat
    let gives (s : State) (x : BitVec 128) : State := opens s team tid (window s h t .engine true (wr128 d.toNat x) none)
    if va.extractLsb' 55 9 ≠ 0 then gives s (2#128 <<< 81)
    else
      let r := s.translate (dieOf c) (some c) tm.ctx va.toNat
      match r.1 with
      | .ok x =>
        let gpa := x.pa + va.toNat % 2 ^ x.log2
        gives r.2 (if pkgOf gpa = r.2.pkgid ∧ r.2.unpopulated (localOf gpa) = true then BitVec.ofNat 128 (3 * 2 ^ 81)
          else BitVec.ofNat 128 (b2n x.mism * 2 ^ 85 + 2 ^ 80 + leafCode x.log2 * 2 ^ 72 + b2n x.rlog * 2 ^ 71
            + x.hint * 2 ^ 69 + b2n x.cmp * 2 ^ 68 + b2n x.xp * 2 ^ 67 + b2n x.w * 2 ^ 66 + x.cls * 2 ^ 64 + gpa))
      | .fault k => gives r.2 (BitVec.ofNat 128 (k * 2 ^ 81))
      | .poison pa => r.2.consume team tid t.pc (dramLoc pa) pa)
  ∧ (∀ h (d a : VReg), OnLanes (.frq h d a) h 2 true [vW d 4, vR a 2] fun _ team _ tid t s =>
    let g := (t.reg64 a.toNat).toNat
    let pa := localOf g
    let fr := s.frame (pa / 65536)
    let cnt (o : Nat) : Nat := if s.cn.fetEn then s.peekNat (s.cn.fetBase + 8 * frameNo pa + o) 4 else 0
    let x : BitVec 128 :=
      if pkgOf g ≠ s.pkgid ∨ isDram pa = false ∨ s.absent pa = true then 0
      else BitVec.ofNat 128 (cnt 4 * 2 ^ 64 + cnt 0 * 2 ^ 32 + 8
        + b2n (s.bfl.any fun e => (e.extractLsb' 16 27).toNat == pa / 65536) * 4 + b2n fr.mig * 2 + b2n fr.ret)
    opens s team tid (window s h t .engine true (wr128 d.toNat x) none))

/-- R280, R281, R282, R291, R292: the request at the head of a store queue leaves it and is performed, or fails beyond it as an imprecise
store fault; the log of a team whose threads have all exited is performed; a watch whose line was written, whose poll is due or whose
timeout has passed reads its word again, and goes on with the word or waits on. One execution of those that the consistency model permits
(log 6); the log as log 53 says. -/
def Obligations.StoreQueueAndWatchRows : Prop :=
  (∀ (s : State) r rest, (s.core s.ev.core).storeq = r :: rest →
    let rs := (s.core s.ev.core).storeq.filter fun x => x.id == r.id
    let u := s.modCore s.ev.core fun k => { k with storeq := k.storeq.filter fun x => x.id != r.id }
    (s.reqFails rs = none →
      exec .storeAccepted s = .next (if (s.reqAsk rs).1 then u.performReq rs else (s.reqAsk rs).2))
    ∧ (∀ k, s.reqFails rs = some k → exec .impreciseStoreFault s = .next (u.storeFault r k)))
  ∧ (∀ s : State, (∀ x ∈ s.threadsOf s.ev.team, x.2.st = .exited) → exec .storeLogFlush s = .next (s.closeWindow s.ev.team))
  ∧ (∀ (s : State) team tm, s.team? team = some tm → tm.window = true →
    s.closeWindow team = ((distinct (tm.log.map (·.id))).foldl (fun s i =>
        let rs := tm.log.filter fun r => r.id == i
        ((rs.head?.map fun r => if r.rel then s.release r.core r.ctx r.sc else s).getD s).performReq rs)
      (s.modTeam team fun t => { t with log := [] })).modTeam team fun t => { t with window := false })
  ∧ (∀ (s : State) tm t w va cond x dl acq sc dst poll line gpa y,
    s.team? s.ev.team = some tm → s.thread? s.ev.team s.ev.tid = some t → tm.resident = true →
    (t.waiting fun z => match z with
      | .watch _ _ _ _ _ _ _ _ _ => true
      | _ => false) = some w → w.wait = some (.watch va cond x dl acq sc dst poll line) →
    let c := tm.coreOf s.ev.tid
    let r := s.access (dieOf c) (some c) tm.ctx .read va
    r.1 = .ok gpa y → pkgOf gpa = r.2.pkgid →
    let a := r.2.ctAsk c y.cls y.hint .load (localOf gpa)
    let q := a.2.watchRead c s.ev.team s.ev.tid tm.ctx va y sc gpa
    (a.1 = false → exec .watchWake s = .next a.2)
    ∧ (a.1 = true → ∀ v, q.1 = some v →
      exec .watchWake s = .next (q.2.watchGot s.ev.team s.ev.tid w v (q.2.watchLine c w.id y gpa))
      ∧ (poll ≤ s.clk ∨ (∃ k, dl = some k ∧ k ≤ s.clk) →
        exec .watchPoll s = .next (q.2.watchGot s.ev.team s.ev.tid w v (q.2.watchLine c w.id y gpa)))))
  ∧ (∀ (s : State) team tid tm w v l va cond x dl sc dst poll line, s.team? team = some tm →
    w.wait = some (.watch va cond x dl false sc dst poll line) →
    (condHolds cond v x = true ∨ (∃ k, dl = some k ∧ k ≤ s.clk) →
      s.watchGot team tid w v l = s.waitDone team tid w.id [(dst, v)])
    ∧ (condHolds cond v x = false → (∀ k, dl = some k → s.clk < k) →
      s.watchGot team tid w v l = s.modThread team tid fun t => t.modWin w.id fun u =>
        { u with wait := some (.watch va cond x dl false sc dst (s.clk + if l.isSome then 4096 else 256) l) }))

/-- R323 to R327: a waiting page-fault record enters the ring in its order, or is dropped as a duplicate; SHOOT drops the translations of
its pages and closes windows with stores there, FLUSH the lines of its frames, WAKE restarts the threads and copies parked on its pages;
BUSY clears once a command has run and, of a SHOOT, nothing translated before it is left. R309 to R316, R129: a request at an idle
directory entry that finds no copy against it is granted at once, and probes the holders otherwise; a probed holder gives its copy up, or
its exclusive right; the last acknowledgement grants the request and takes up those that waited; entries merge; an idle cache sleeps with
its lines given up and wakes empty; a snoop of the host cleans or takes its line; an SI line leaves at its lifetime limit. What a
directory grants where there is a choice is the model's (log 47). -/
def Obligations.CoherenceAndRanges : Prop :=
  ((∀ (s : State) r rest, s.pfWait = r :: rest → s.pfRoom = true →
     let u : State := { s with pfWait := rest }
     exec .faultRecordEnter s = .next (if u.pfDup (pfKey r) [] then u else u.pfPut r))
   ∧ (∀ (s : State) k, s.cmd = some k → k.op = 1 → k.ran = false →
     let u : State := { s with
       cores := s.cores.mapKV fun _ (c : Core) => { c with tlb := c.tlb.filter fun x => !k.hits x }
       dies := s.dies.mapKV fun _ (d : Die) => { d with tlb := d.tlb.filter fun x => !k.hits x }
       walkc := s.walkc.filter fun w => w.ctx != k.ctx }
     let hit := u.teams.filter fun e => e.2.ctx == k.ctx && e.2.window && e.2.log.any fun r => k.hasVa r.ctx r.va.toNat
     exec .shoot s = .next { (hit.map (·.1)).foldl State.closeWindow u with cmd := some { k with ran := true } })
   ∧ (∀ (s : State) k, s.cmd = some k → k.op = 2 → k.ran = false →
     exec .flush s = .next { s.flushFrames k.first k.count with cmd := some { k with ran := true } })
   ∧ (∀ (s : State) k, s.cmd = some k → k.op = 3 → k.ran = false →
     let u := (s.faulted k false).foldl (fun s x => s.wakeAway x.1 x.2) ((s.faulted k true).foldl (fun s x => s.restart x.1 x.2) s)
     exec .wake s = .next { u with
       cores := u.cores.mapKV fun _ (c : Core) => { c with copyq := c.copyq.map k.resumes }, cmd := some { k with ran := true } })
   ∧ (∀ (s : State) k, s.cmd = some k → k.ran = true → k.op ≠ 1 ∨ s.shotDone k = true →
     exec .rangeCommandComplete s = .next { s with cmd := none }))
  ∧ ((∀ (s : State) e, let ln := lineOf s.ev.pa
       let a := s.dirEntry s.ev.dref ln
       a.1 = some e → e.busy = [] → e.poisonPend = false →
       let b := a.2.dirSplit s.ev.dref ln e s.ev.holder s.ev.flag
       let ps := b.1.toProbe s.ev.holder s.ev.flag
       exec .directoryRequest s = .next (b.2.dirSet s.ev.dref ln [
         if ps = [] then b.1.granted s.ev.holder s.ev.flag b.2.clk false
         else { b.1 with busy := ps, queue := [(ln, s.ev.holder, s.ev.flag)] }]))
     ∧ (∀ (s : State) e, let ln := lineOf s.ev.pa
       let a := s.dirEntry s.ev.dref ln
       a.1 = some e → (e.busy ≠ [] ∧ e.queue ≠ []) ∨ (e.busy = [] ∧ e.poisonPend = true) →
       let r := (ln, s.ev.holder, s.ev.flag)
       exec .directoryRequest s = .next
         (a.2.dirSet s.ev.dref ln [{ e with queue := if e.queue.contains r then e.queue else e.queue ++ [r] }]))
     ∧ (∀ (s : State) e, let ln := lineOf s.ev.pa
       let a := s.dirEntry s.ev.dref ln
       a.1 = none ∨ (a.1 = some e ∧ e.busy ≠ [] ∧ e.queue = []) → exec .directoryRequest s = .next a.2)
     ∧ (∀ (s : State) e, s.dirFind s.ev.dref (lineOf s.ev.pa) = some e → e.queue = [] → e.busy ≠ [] →
       (∀ h ∈ e.busy, h ∈ s.ev.holders ∧ h ≠ .host) → exec .probeAcknowledgement s = .next (s.dirFree s.ev.dref e))
     ∧ (∀ (s : State) e l h excl rest, s.dirFind s.ev.dref (lineOf s.ev.pa) = some e → e.queue = (l, h, excl) :: rest →
       e.busy.contains s.ev.holder = true → s.ev.holder ≠ .host →
       exec .probe s = .next (if excl then s.invalidate s.ev.holder l else s.downgrade s.ev.holder l))
     ∧ (∀ (s : State) e r rest, s.dirFind s.ev.dref (lineOf s.ev.pa) = some e → e.queue = r :: rest → e.busy ≠ [] →
       let hs := s.ev.holders.filter (· != .host)
       let left := e.busy.filter fun h => !(hs.contains h && s.answered h r.1 r.2.2)
       let dirty := e.busy.any fun h => (holderCaches h).any fun c => ((s.cache c).line? r.1).any fun l => l.dirty != 0
       left ≠ e.busy →
       exec .probeAcknowledgement s = .next
         (if left = [] then
           rest.foldl (fun s q => s.dirAsk s.ev.dref q)
             (s.dirSet s.ev.dref (lineOf s.ev.pa) [({ e with busy := [], queue := [] } : DirEntry).granted r.2.1 r.2.2 s.clk dirty])
         else s.dirSet s.ev.dref (lineOf s.ev.pa) [{ e with busy := left }]))
     ∧ (∀ (s : State) e r, s.dirFind (pkgDir (lineOf s.ev.pa)) (lineOf s.ev.pa) = some e → e.queue = [r] → e.busy = [.host] →
       exec .backInvalidateResponse s = .next
         (s.dirSet (pkgDir (lineOf s.ev.pa)) (lineOf s.ev.pa)
           [({ e with busy := [], queue := [] } : DirEntry).granted r.2.1 r.2.2 s.clk false]))
     ∧ (∀ (s : State) e b, s.dirFind s.ev.dref (lineOf s.ev.pa) = some e → s.sibling s.ev.dref e = some b → s.canMerge e b = true →
       let m := mergeOf e b
       let u : State := { s with dirs := s.dirs.filter fun x => !(x.1 == s.ev.dref && (x.2 == e || x.2 == b)) }
       exec .entryMerge s = .next
         (if m.log2 = 16 ∧ m.st = .i then u.unexport s.ev.dref m.base else { u with dirs := (s.ev.dref, m) :: u.dirs }))
     ∧ (∀ s : State, s.maySleep s.ev.cache = true → (s.cache s.ev.cache).asleep = false →
       let c := s.ev.cache
       let own := ((s.cache c).lines.filter fun l => l.st == .e || l.st == .m || l.st == .o).map (·.ln)
       let u := own.foldl (fun s n => s.giveUp c n) s
       let v := ((u.cache c).lines.map (·.ln)).foldl (fun s n => s.evict c n) u
       exec .cacheSleep s = .next (v.setCache c { v.cache c with asleep := true }))
     ∧ (∀ s : State, (s.cache s.ev.cache).asleep = true →
       exec .cacheWake s = .next (s.setCache s.ev.cache { s.cache s.ev.cache with asleep := false }))
     ∧ (∀ (s : State) e b, regionOf s.ev.pa = .host b → s.dirFind (pkgDir (lineOf s.ev.pa)) (lineOf s.ev.pa) = some e →
       exec .hostSnoop s = .next
         (if e.busy = [] then (e.holders.flatMap holderCaches).foldl (fun u c => u.snooped s.ev.flag (lineOf s.ev.pa) c) s else s))
     ∧ (∀ (s : State) b, regionOf s.ev.pa = .host b → s.dirFind (pkgDir (lineOf s.ev.pa)) (lineOf s.ev.pa) = none →
       exec .hostSnoop s = .next (s.snooped s.ev.flag (lineOf s.ev.pa) (.crown (crownHalf s.ev.pa))))
     ∧ (∀ (s : State) excl ln c l, (s.cache c).line? ln = some l →
       s.snooped excl ln c = if excl then ((s.setCache c ((s.cache c).without ln)).toHome l).leaveDirs c ln
         else (s.setCache c ((s.cache c).modLine ln fun l =>
           { l with dirty := 0, st := if l.st = .si ∨ l.st = .ro then l.st else .s })).toHome l)
     ∧ (∀ (s : State) l, (s.cache s.ev.cache).line? (lineOf s.ev.pa) = some l → l.st = .si → l.filled + 65536 ≤ s.clk →
       exec .lifetimeLimit s = .next (s.evict s.ev.cache (lineOf s.ev.pa))))

/-! ### The copy and binning engine -/

/-- R336 to R343: KICK posts the block at its address once the queue has room; LANDI sets COUNT, TARGET and the scope of a landing word;
LWAIT waits for a generation and LPOLL asks; BINC adds to a bin and gives its old count; BHOLD holds a block address; BREL posts the held
blocks of its mask, of the last live lane, with their bins' counts; CPYQ gives the queue's figures. KICK and BREL wait for all their
entries (log 52, log 58). -/
def Obligations.CopyInstructions : Prop :=
  let post (c team tid : Nat) (tm : Team) (t : Thread) (b : List Byte) (s : State) : State :=
    let s := (s.tells team tid).release c tm.ctx (scopeAt (blkOf b).scope)
    ({ s with nextId := s.nextId + 1 } : State).modCore c fun k => { k with copyq := k.copyq ++
      [{ id := s.nextId, team := team, tid := tid, ctx := tm.ctx, pc := t.pc, raw := b, blk := blkOf b, accepted := s.clk, started := false
         chunks := [], idxs := [], suspended := none }] }
  (∀ h (a : VReg) mem, OnGo (.kick h a mem) h (lenMem mem) (memOps a 1 mem)
    (fun c g tm live s =>
      let good := live.filterMap fun x => match x.2.2.kicked, kickCheck tm (eaLocal tm x.2.2 a mem).1 with
        | none, .ok b => some b
        | _, _ => none
      good.length ≤ 64 - (s.core c).copyq.length
        ∧ ((∀ b ∈ good, (blkOf b).scope ≠ 6) ∨ ∀ x ∈ live, s.sysHold c g.team x.2.1 = false))
    fun c g tm live s => inTurn s g.team live fun tid t s =>
      let x := (eaLocal tm t a mem).1
      match s.team? g.team with
      | none => s
      | some now =>
        if t.kicked.isSome then s
        else match spCheck now 64 x with
        | some k => faults s g.team tid k.1 k.2 t (lenMem mem)
        | none =>
          if now.sPoisoned x.toNat 64 then s.consume g.team tid t.pc 7 x.toNat
          else
            let b := now.sRead x.toNat 64
            match blkCause b now.lr.scratch (blkField b 8 31 0) false with
            | some k => faults s g.team tid 16 (BitVec.ofNat 64 (x.toNat * 2 ^ 32 + k)) t (lenMem mem)
            | none => (post c g.team tid tm t b (s.closeWindow g.team)).modThread g.team tid fun u => u.startEntry u.pc)
  ∧ (∀ h sc (a : VReg) b, OnLanes (.landi h sc a b) h (lenOfB b) false (vR a :: srcOps b) fun c team tm tid t s =>
      let x := t.reg a.toNat
      match spCheck tm 16 x, s.team? team with
      | some k, _ => faults s team tid k.1 k.2 t (lenOfB b)
      | none, none => s
      | none, some now =>
        let w : LandWord := { count := 0, target := bVal tm t b, gen := (now.landAt x.toNat).gen, hi := sc.code.setWidth 32 }
        if now.sPoisoned (x.toNat + 8) 8 then s.storeFault (storeRec c team tid tm.ctx t.pc (x.setWidth 64) x.toNat w.bytes) 2
        else s.sPutBy (some tid) team x.toNat w.bytes)
  ∧ (∀ h (d a : VReg) b, OnLanes (.lwait h d a b) h (lenOfB b) false (vW d 2 :: vR a :: srcOps b) fun c team tm tid t s =>
      let x := t.reg a.toNat
      match spCheck tm 16 x with
      | some k => faults s team tid k.1 k.2 t (lenOfB b)
      | none =>
        if tm.sPoisoned x.toNat 16 then s.consume team tid t.pc 7 x.toNat
        else
          let w := tm.landAt x.toNat
          if doneGen w.gen (bVal tm t b) then
            ((opens s team tid (window s h t .sync true [(d.toNat, w.gen), (d.toNat + 1, w.hi)] none)).learns team tid).acquire
              c tm.ctx w.scope
          else
            let s := opens s team tid (window s h t .sync false [(d.toNat, 0), (d.toNat + 1, 0)]
              (some (.land x.toNat (bVal tm t b) d.toNat (s.clk + 4096))))
            if h.la = 0 then parks s team tid 3 else s)
  ∧ (∀ h (d a : VReg) b, OnLanes (.lpoll h d a b) h (lenOfB b) false (vW d 2 :: vR a :: srcOps b) fun c team tm tid t s =>
      let x := t.reg a.toNat
      match spCheck tm 16 x with
      | some k => faults s team tid k.1 k.2 t (lenOfB b)
      | none =>
        if tm.sPoisoned x.toNat 16 then s.consume team tid t.pc 7 x.toNat
        else
          let w := tm.landAt x.toNat
          if doneGen w.gen (bVal tm t b) then
            ((opens s team tid (window s h t .sync true [(d.toNat, 1), (d.toNat + 1, w.gen)] none)).learns team tid).acquire
              c tm.ctx w.scope
          else opens s team tid (window s h t .engine true [(d.toNat, 0), (d.toNat + 1, w.gen)] none))
  ∧ (∀ h (d a : VReg) b, OnLanes (.binc h d a b) h (lenOfB b) false (vW d :: vR a :: srcOps b) fun _ team tm tid t s =>
      let n := (t.reg a.toNat).toNat % 32
      match s.team? team with
      | none => s
      | some now =>
        let old := now.bins.getD n 0
        let s := (s.closeWindow team).modTeam team fun m => { m with bins := setAt m.bins n (old + bVal tm t b) }
        (opens s team tid (window s h t .engine true [(d.toNat, old)] none)).modThread team tid fun u => u.startEntry u.pc)
  ∧ (∀ h (slot : BitVec 4) (a : VReg), OnLanes (.bhold h slot a) h 2 false [vR a] fun _ team _ tid t s =>
      let s := s.modTeam team fun m =>
        { m with hold := setAt m.hold slot.toNat (t.reg a.toNat), hvalid := m.hvalid ||| (1#16 <<< slot.toNat) }
      opens s team tid (window s h t .engine true [] none))
  ∧ (∀ h clr b, OnGo (.brel h clr b) h (lenOfB b) (srcOps b)
      (fun c g tm live s => ∀ x bs, live.getLast? = some x → brelBlocks tm (heldSlots tm (bVal tm x.2.2 b)) = .inl bs →
        bs.length ≤ 64 - (s.core c).copyq.length
        ∧ ((∀ y ∈ bs, (blkOf y).scope ≠ 6) ∨ ∀ x ∈ live, s.sysHold c g.team x.2.1 = false))
      fun c g tm live s => match live.getLast? with
        | none => s
        | some x =>
          let slots := heldSlots tm (bVal tm x.2.2 b)
          let s := live.dropLast.foldl (fun s y => s.closeRegion g.team y.2.1) s
          match brelBlocks tm slots with
          | .inr (.fault k i) => faults s g.team x.2.1 k i x.2.2 (lenOfB b)
          | .inr _ => s.consume g.team x.2.1 x.2.2.pc 7 0
          | .inl bs =>
            let s := bs.foldl (fun s b => s.brelOne c g.team x.2.1 tm.ctx tm x.2.2.pc b) (s.closeWindow g.team)
            (s.modTeam g.team fun m =>
              { m with hvalid := slots.foldl (fun v i => v &&& ~~~(1#16 <<< i)) m.hvalid
                       bins := if clr then bs.foldl (fun l b => setAt l (blkField b 8 4 0) 0) m.bins else m.bins }).closeRegion g.team x.2.1)
  ∧ (∀ h (d : VReg), OnLanes (.cpyq h d) h 2 false [vW d 4] fun c team tm tid t s =>
      let q := (s.core c).copyq.filter fun r => r.team == team
      opens s team tid (window s h t .engine true
        [(d.toNat, BitVec.ofNat 32 (64 - (s.core c).copyq.length)), (d.toNat + 1, BitVec.ofNat 32 q.length)
         , (d.toNat + 2, tm.hvalid.setWidth 32), (d.toNat + 3, BitVec.ofNat 32 (q.filter fun r => r.suspended.isSome).length)] none))

/-- R333, R334, R338: the landing word's fields in its 16 bytes; a landing event of n bytes adds n to COUNT, and at TARGET takes TARGET
off, advances GEN by one and sets OVR where COUNT still reaches TARGET; an abort sets ERR and advances GEN alone. A generation g is done
when GEN − g lies from 1 to 2^31 − 1. R330: what precise causes 1 and 2 of a block are: a reserved bit, an unused field or a value
outside its limits, and a field that is not a multiple of its unit; R331: the addresses of row r of the kinds. -/
def Obligations.CopyData : Prop :=
  ((∀ (w : LandWord) (t : Team) off, t.sRead off 4 = w.bytes.take 4 → t.sRead (off + 4) 4 = (w.bytes.drop 4).take 4 →
       t.sRead (off + 8) 4 = (w.bytes.drop 8).take 4 → t.sRead (off + 12) 4 = w.bytes.drop 12 → t.landAt off = w)
   ∧ (∀ w : LandWord, w.bytes.length = 16 ∧ Machine.ofBytes (w.bytes.take 4) = w.count.toNat
       ∧ Machine.ofBytes ((w.bytes.drop 4).take 4) = w.target.toNat ∧ Machine.ofBytes ((w.bytes.drop 8).take 4) = w.gen.toNat
       ∧ Machine.ofBytes (w.bytes.drop 12) = w.hi.toNat)
   ∧ (∀ (w : LandWord) n, (w.count + BitVec.ofNat 32 n).toNat < w.target.toNat →
       w.land n false = { w with count := w.count + BitVec.ofNat 32 n })
   ∧ (∀ (w : LandWord) n, w.target.toNat ≤ (w.count + BitVec.ofNat 32 n).toNat →
       let c := w.count + BitVec.ofNat 32 n - w.target
       w.land n false = { w with count := c, gen := w.gen + 1, hi := if w.target.toNat ≤ c.toNat then w.hi ||| 0x200 else w.hi })
   ∧ (∀ (w : LandWord) n, w.land n true = { w with gen := w.gen + 1, hi := w.hi ||| 0x100 })
   ∧ (∀ a b : Word, doneGen a b = true ↔ 1 ≤ (a - b).toNat ∧ (a - b).toNat ≤ 2147483647))
  ∧ ((∀ b S n held, blkCause b S n held = none →
       let k := blkOf b
       k.kind ≤ 3 ∧ k.ssp ≤ 1 ∧ k.dsp ≤ 2 ∧ k.scope ≤ 6 ∧ 8 ≤ k.len ∧ k.len ≤ 16777216 ∧ k.len % 8 = 0 ∧ k.src % 8 = 0 ∧ k.dst % 8 = 0
         ∧ k.sstr % 8 = 0 ∧ k.dstr % 8 = 0 ∧ k.lbin = held ∧ (k.slv = true → k.sland % 16 = 0 ∧ k.sland + 16 ≤ S)
         ∧ (k.ssp = 0 → k.src < 2 ^ 55) ∧ (k.dsp = 0 → k.dst < 2 ^ 55)
         ∧ (∀ r < n, k.kind ≤ 1 → k.ssp = 1 → k.srcAt r 0 + k.len ≤ S) ∧ (∀ r < n, k.kind ≤ 1 → k.dsp = 1 → k.dstAt r 0 + k.len ≤ S))
     ∧ (∀ (k : Blk) r i, let m (sp : Nat) : Nat := if sp = 0 then 2 ^ 64 else 2 ^ 32
       (k.kind = 0 → k.srcAt r i = (k.src + r * k.len) % m k.ssp ∧ k.dstAt r i = (k.dst + r * k.len) % m k.dsp)
       ∧ (k.kind = 1 → k.srcAt r i = (k.src + r * k.sstr) % m k.ssp ∧ k.dstAt r i = (k.dst + r * k.dstr) % m k.dsp)
       ∧ (k.kind = 2 → k.srcAt r i = (k.src + i * k.sstr) % m k.ssp ∧ k.dstAt r i = (k.dst + r * k.dstr) % m k.dsp)
       ∧ (k.kind = 3 → k.srcAt r i = (k.src + r * k.sstr) % m k.ssp ∧ k.dstAt r i = (k.dst + i * k.dstr) % m k.dsp)))

/-- R331, R332 to R349, R345, R403, R404: the rows of the engine, for a request of this package: it starts in queue order, at most eight
at once; a chunk is read into the retry store where that has room, written (bytes that fall on the request's own source are unspecified),
counted into its landing word and acknowledged; the last acknowledgement ends the request. A chunk written again is not counted again. A
waiting LWAIT reads its word again when due; a held landing reaches its team once that is back. Choices of the engine: log 58, log 60;
unspecified bytes: log 5. -/
def Obligations.CopyRows : Prop :=
  (∀ (s : State) r, s.copyReq? s.ev.core s.ev.req = some r → r.started = false → r.blk.nrow ≠ 0 →
    (∀ x ∈ (s.core s.ev.core).copyq.takeWhile fun x => x.id != r.id, x.started = true) →
    ((s.core s.ev.core).copyq.filter (·.started)).length < 8 →
    exec .copyRequestStart s = .next (s.modCopy s.ev.core r.id fun r => { r with started := true }))
  ∧ (∀ (s : State) r, s.copyReq? s.ev.core s.ev.req = some r → r.started = false → r.blk.nrow = 0 → r.blk.dsp ≠ 2 →
    (∀ x ∈ (s.core s.ev.core).copyq.takeWhile fun x => x.id != r.id, x.started = true) →
    ((s.core s.ev.core).copyq.filter (·.started)).length < 8 → s.landBad r.team r.blk.sland = false →
    s.landBad r.team r.blk.dland = false →
    let u := s.dropCopy s.ev.core r.id
    let v := if r.blk.slv then u.landEvent r.team r.blk.sland 0 false else u
    exec .copyRequestStart s = .next (if r.blk.dlv then v.landEvent r.team r.blk.dland 0 false else v))
  ∧ (∀ (s : State) r t, s.copyReq? s.ev.core s.ev.req = some r → s.team? r.team = some t → t.resident = true → r.started = true →
    r.suspended = none → s.ev.row < r.blk.nrow → r.rowKnown s.ev.row = true → r.chunk? s.ev.row s.ev.chunk = none → r.accepted + 40 ≤ s.clk →
    let src := r.src s.ev.row
    let dst := r.dst s.ev.row
    let p := chunkSpan dst r.blk.len s.ev.chunk
    s.ev.chunk < chunksOf dst r.blk.len → s.rowFault r src dst = none → (s.core s.ev.core).retryUsed + p.2 ≤ 262144 →
    r.blk.ssp = 1 → t.sPoisoned (src + p.1) p.2 = false →
    exec .chunkRead s = .next ((s.modCopy s.ev.core r.id fun r => { r with chunks := r.chunks ++
      [{ row := s.ev.row, n := s.ev.chunk, data := t.sRead (src + p.1) p.2, awaits := 0, sent := false, written := false, landed := false
         acked := false }] }).chunkSland s.ev.core r.id s.ev.row s.ev.chunk))
  ∧ (∀ (s : State) c r row (t : Team), let a := r.blk.idx + 4 * row
    s.rowStart c r row (some t) = if t.sPoisoned a 4 then s.copyFault c r 2
      else s.modCopy c r.id fun r => { r with idxs := r.idxs.put row (Machine.ofBytes (t.sRead a 4)) })
  ∧ (∀ (r : CopyReq) row, r.src row = r.blk.srcAt row (r.idxs.get row 0) ∧ r.dst row = r.blk.dstAt row (r.idxs.get row 0)
    ∧ (r.blk.kind ≤ 1 → r.rowKnown row = true) ∧ (r.blk.kind = 2 ∨ r.blk.kind = 3 → r.rowKnown row = (r.idxs.find row).isSome))
  ∧ (∀ (s : State) r k t, s.chunkNow = some (r, k, t) → k.awaits = 0 → k.written = false → k.sent = false → r.suspended = none →
    r.blk.dsp = 1 → t.isSome = true → (s.overlap s.ev.core r k t).any id = false →
    let row := r.dst k.row
    s.rowFault r (r.src k.row) row = none →
    exec .chunkWrite s = .next ((s.sPut r.team (row + (chunkSpan row r.blk.len k.n).1) k.data).modChunk s.ev.core r.id k.row k.n
      fun k => { k with written := true }))
  ∧ (∀ (s : State) r k t ps p rest u, s.chunkNow = some (r, k, t) → k.awaits = 0 → k.written = false → k.sent = false →
    r.suspended = none → r.blk.dsp = 0 → (s.overlap s.ev.core r k t).any id = false →
    let row := r.dst k.row
    let q := chunkSpan row r.blk.len k.n
    s.rowFault r (r.src k.row) row = none →
    s.copyPieces s.ev.core r true (row + q.1) q.2 = (.inr ps, u) → ps = p :: rest → pkgOf p.2.2.1 = u.pkgid →
    u.copyHeld s.ev.core .store ps = none →
    exec .chunkWrite s = .next ((u.chunkPut s.ev.core r (row + q.1) k.data ps).modChunk s.ev.core r.id k.row k.n
      fun k => { k with written := true }))
  ∧ (∀ (s : State) r k t, s.chunkNow = some (r, k, t) → k.awaits = 0 → k.written = false → k.sent = false → r.suspended = none →
    r.blk.dsp = 1 → t.isSome = true → (s.overlap s.ev.core r k t).any id = true →
    let row := r.dst k.row
    let b := (k.data.zip (s.freeBytes k.data.length).1).mapIdx fun i x => if (s.overlap s.ev.core r k t).getD i false then x.2 else x.1
    let u := (s.freeBytes k.data.length).2.modChunk s.ev.core r.id k.row k.n fun k => { k with data := b }
    u.rowFault r (r.src k.row) row = none →
    exec .chunkWrite s = .next ((u.sPut r.team (row + (chunkSpan row r.blk.len k.n).1) b).modChunk s.ev.core r.id k.row k.n
      fun k => { k with written := true }))
  ∧ (∀ (s : State) r k t, r.blk.ssp = 1 → r.blk.dsp = 1 → let row := r.dst k.row
    let p := chunkSpan row r.blk.len k.n
    s.overlap s.ev.core r k t = (upTo p.2).map fun i => (upTo r.blk.nrow).any fun j =>
      decide (r.blk.srcAt j (r.entryNow t j) ≤ row + p.1 + i ∧ row + p.1 + i < r.blk.srcAt j (r.entryNow t j) + r.blk.len))
  ∧ (∀ (s : State) r k t tm, s.chunkNow = some (r, k, t) → r.blk.dlv = true → k.written = true → k.landed = false → r.blk.dsp = 1 →
    s.team? r.team = some tm → tm.resident = true → tm.sPoisoned r.blk.dland 16 = false →
    let row := r.dst k.row
    exec .landingEvent s = .next ((s.landEvent r.team r.blk.dland (chunkSpan row r.blk.len k.n).2 false).modChunk s.ev.core r.id k.row k.n
      fun k => { k with landed := true }))
  ∧ (∀ (s : State) team tm off n, s.team? team = some tm → tm.resident = true → off + 16 ≤ tm.lr.scratch → tm.sPoisoned off 16 = false →
    s.landEvent team off n false = (s.sPut team off ((tm.landAt off).land n false).bytes).landWake team off)
  ∧ (∀ (s : State) r k t, s.chunkNow = some (r, k, t) → k.written = true → (k.landed = true ∨ r.blk.dlv = false) → k.acked = false →
    let u := s.modChunk s.ev.core r.id k.row k.n fun k => { k with acked := true, data := [] }
    exec .chunkAcknowledgement s = .next
      (match u.copyReq? s.ev.core r.id with
        | some q => if q.allChunks (·.acked) = false then u
            else if q.blk.nrow = 0 then u.zeroDone s.ev.core q else u.dropCopy s.ev.core q.id
        | none => u))
  ∧ (∀ (s : State) r k t, s.chunkNow = some (r, k, t) → k.acked = false → k.written = true → r.blk.dsp = 1 →
    s.chunkKept s.ev.core r.id k.row k.n = none → (∃ tm, s.team? r.team = some tm ∧ tm.resident = true) →
    let row := r.dst k.row
    exec .chunkResend s = .next (s.sPut r.team (row + (chunkSpan row r.blk.len k.n).1) k.data))
  ∧ (∀ (s : State) tm w off gen dst poll, s.team? s.ev.team = some tm → tm.resident = true →
    ((s.thread? s.ev.team s.ev.tid).bind fun t => t.waiting fun w => match w with
      | .land _ _ _ poll => decide (poll ≤ s.clk)
      | _ => false) = some w → w.wait = some (.land off gen dst poll) → tm.sPoisoned off 16 = false →
    let k := tm.landAt off
    exec .lwaitRecheck s = .next
      (if doneGen k.gen gen then
        ((s.learns s.ev.team s.ev.tid).acquire (tm.coreOf s.ev.tid) tm.ctx k.scope).waitDone s.ev.team s.ev.tid w.id [(dst, k.gen), (dst + 1, k.hi)]
      else s.modThread s.ev.team s.ev.tid fun t => t.modWin w.id fun u => { u with wait := some (.land off gen dst (s.clk + 4096)) }))
  ∧ (∀ (s : State) x tm, s.held.find? (fun x => x.team == s.ev.team) = some x → s.team? s.ev.team = some tm → tm.resident = true →
    x.msg.kind = .landing →
    exec .heldDelivery s = .next (({ s with held := dropFirst (fun y => y.team == s.ev.team) s.held } : State).landEvent s.ev.team x.msg.addr.toNat
      (Machine.ofBytes x.msg.data) (x.msg.op == 1)))

/-! ### The matrix engine -/

/-- R357 to R359, R364, R375: a team operation. Of the live lanes only the fresh ones, whose arrival record does not name this execution,
take part; the values are those of the highest of them. Where a check fails, every fresh lane takes MatrixFault (0x11) with the lowest
cause; else, with CV = 0, one entry joins the engine's queue and every fresh lane is recorded; with CV = 1 each fresh lane signs in
lane order. -/
def Sys2Proof.Say.TeamOp (i : Instr) (h : Hdr) (len : Nat) (vs : List VOp) (e : Bool) (cv : Option (BitVec 4))
    (bin : Team → Thread → Option Nat) (req : Team → Engine → Thread → MReq) : Prop :=
  ∀ s c slot g tm, State.Ready s c slot g tm h vs →
    let fresh := (s.liveLanes g h).filter fun x => (x.2.2.recorded x.2.2.pc).isNone
    let u := s.issueAll g len
    (fresh = [] → Ends (exec i s) u)
    ∧ ∀ x, fresh.getLast? = some x →
      let r := req tm (tm.engine (b2n e)) x.2.2
      let cause := matCause tm e r (cv.any fun n => (tm.conv n.toNat).size == 0)
      (∀ k, cause = some k → (∃ y ∈ fresh, y.2.2.passed = false) →
        Ends (exec i s) (fresh.foldl (fun u y => faults u g.team y.2.1 17 (BitVec.ofNat 64 k) y.2.2 len) u))
      ∧ (cause = none ∨ (∀ y ∈ fresh, y.2.2.passed = true) → cv = none → (s.core (tm.core + b2n e)).matq.length < 32 →
        Ends (exec i s) (fresh.foldl (fun u y => u.recordArr g.team y.2.1 y.2.2.pc 0)
          (u.matPost g.team (b2n e) x.2.1 r.kind (bin tm x.2.2) none x.2.2.pc)))
      ∧ (∀ n, cause = none ∨ (∀ y ∈ fresh, y.2.2.passed = true) → cv = some n → (s.core (tm.core + b2n e)).matq.length + fresh.length ≤ 32 →
        Ends (exec i s) (fresh.foldl (fun u y =>
          u.sign g.team y.2.1 n.toNat (some { e := b2n e, fmt := r.fmt, kind := r.kind, bin := bin tm x.2.2 }) y.2.2.pc) u))

/-- R354, R355, R362, R364 to R371: the operands of the team operations, and what the checks of each ask: rows {row0, M}, the scratchpad
it reads, the multiples its addresses and strides must be, the format of the front plane. Corners of the sums, and what an operation may
not yet see, are read by inference (log 17, log 20). -/
def Obligations.MatrixOperations : Prop :=
  let reg (t : Thread) (r : VReg) : Nat := (t.reg r.toNat).toNat
  let rows (t : Thread) (r : VReg) : Nat × Nat := (reg t r % 65536, reg t r / 65536)
  (∀ h fmt ns e (d a : VReg) b cv, TeamOp (.mldw h fmt ns e d a b cv) h (lenOfB b)
    ((if scaleUsed fmt ns then [vR d] else []) ++ vR a :: srcOps b) e cv noBin fun tm _ t =>
      let sc := scaleUsed fmt ns
      let str := (bVal tm t b).toNat
      { kind := .mldw fmt ns (if sc then reg t d else 0) (reg t a) str, plane := true, rows := none, fmt := none
        ranges := (reg t a, str, 256, 512) :: (if sc then [(reg t d, 0, 1, if fmt = .e2m1 then 8192 else 4096)] else [])
        aligned := [(reg t a, 512), (str, 512)] ++ if sc then [(reg t d, 256)] else [] })
  ∧ (∀ h e5m2 e (d a : VReg) b cv, TeamOp (.mldws h e5m2 e d a b cv) h (lenOfB b) (vR d :: vR a :: srcOps b) e cv noBin fun tm _ t =>
      let str := (bVal tm t b).toNat
      { kind := .mldws e5m2 (reg t d) (reg t a) str, plane := true, rows := none, fmt := none
        ranges := [(reg t a, str, 256, 512), (reg t d, 0, 1, 32768)], aligned := [(reg t a, 512), (str, 512), (reg t d, 256)] })
  ∧ (∀ h e f, TeamOp (.mswap h e f) h (lenCv f) [] e (cvOf f) noBin fun _ _ _ => { kind := .mswap, plane := true })
  ∧ (∀ h fmt ns z e (d a : VReg) b (c : VReg) cv, TeamOp (.mma h fmt ns z e d a b c cv) h 3
    (vR d :: vR a :: (extOps b ++ if scaleUsed fmt ns then [vR c] else [])) e cv noBin fun tm k t =>
      let sc := scaleUsed fmt ns
      let p := k.front
      let str := (xVal tm t b).toNat
      let unit := if p.sparse then 1024 else 512
      { kind := .mma p fmt ns z (rows t d).1 (rows t d).2 (reg t a) str (if sc then reg t c else 0), plane := true
        rows := some (rows t d), fmt := some fmt
        ranges := (reg t a, str, (rows t d).2, unit) ::
          (if sc then [(reg t c, 32, (rows t d).2, if p.sparse = true ∨ fmt = .e2m1 then 32 else 16)] else [])
        aligned := [(reg t a, unit), (str, unit)] ++ if sc then [(reg t c, 32)] else [] })
  ∧ (∀ h fmt ns bin e (d a : VReg) b (c : VReg) cv, TeamOp (.mgmm h fmt ns bin e d a b c cv) h 3
    (vR d 2 :: vR a :: (extOps b ++ if scaleUsed fmt ns then [vR c] else [])) e cv
    (fun tm t => if bin then some ((xVal tm t b).toNat % 32) else none) fun tm k t =>
      let sc := scaleUsed fmt ns
      let x := (xVal tm t b).toNat
      let g := reg t d
      let q := (t.reg (d.toNat + 1)).toNat
      let n := if bin then 1 else x % 65536
      let unit := if k.front.sparse then 1024 else 512
      { kind := .mgmm k.front fmt ns g q (x % 65536) (reg t a) (x / 65536 * 512) (if sc then reg t c else 0), plane := true
        rows := none, fmt := some fmt, ranges := [(g, 4, n, 4), (q, 4, n, 4)]
        aligned := [(reg t a, unit), (x / 65536 * 512, unit)] ++ (if sc then [(reg t c, 32)] else []) ++ [(g, 4), (q, 4)] })
  ∧ (∀ h e (d : VReg) f, TeamOp (.mclr h e d f) h (lenCv f) [vR d] e (cvOf f) noBin fun _ _ t =>
      { kind := .mclr (rows t d).1 (rows t d).2, rows := some (rows t d) })
  ∧ (∀ h acc e (d a : VReg) b cv, TeamOp (.macld h acc e d a b cv) h (lenOfB b) (vR d :: vR a :: srcOps b) e cv noBin fun tm _ t =>
      let str := (bVal tm t b).toNat
      { kind := .macld acc (rows t d).1 (rows t d).2 (reg t a) str, rows := some (rows t d)
        ranges := [(reg t a, str, (rows t d).2, 1024)], aligned := [(reg t a, 1024), (str, 1024)] })
  ∧ (∀ h o sx e sat clr (d a : VReg) b (c : VReg) cv rm, TeamOp (.macst h o sx e sat clr d a b c cv rm) h 3
    (vR d :: vR a :: (extOps b ++ if sx then [vR c] else [])) e cv noBin fun tm _ t =>
      let str := (xVal tm t b).toNat
      let n := 256 * ofBytesN o
      { kind := .macst o sx sat clr rm (rows t d).1 (rows t d).2 (reg t a) str (if sx then reg t c else 0), rows := some (rows t d)
        ranges := (reg t a, str, (rows t d).2, n) :: (if sx then [(reg t c, 4, (rows t d).2, 4)] else [])
        aligned := [(reg t a, n), (str, n)] ++ if sx then [(reg t c, 4)] else [] })
  ∧ (∀ h op acc e (d a : VReg) f, TeamOp (.mrow h op acc e d a f) h (lenCv f) [vR d, vR a] e (cvOf f) noBin fun _ _ t =>
      { kind := .mrow op acc (rows t d).1 (rows t d).2 (reg t a), rows := some (rows t d)
        ranges := [(reg t a, 4, (rows t d).2, 4)], aligned := [(reg t a, 4)] })

/-- R359, R364, R372 to R379: MACRD faults lane by lane and reads its quads through one entry; MFENCE covers the team's writes once the
thread's earlier results are written; MWAIT and MWAIT.cv return where CMP or DONE has come far enough, and else wait with WAIT = 4; MQRY
gives the engine's figures; CVSET sets a register from the highest fresh lane; SIGN signs in lane order. R360, R375: a signature that
does not complete its register's generation adds one to COUNT; the last one clears it, advances GEN and brings the operation. An
operation starts behind those before it as R360 lets it, at the earliest 8 clk after its entry, and completes at the head of its queue
with its effect, CMP and the threads that wait. What an operation may not yet see is read by inference (log 20). -/
def Obligations.MatrixWaitsAndQueue : Prop :=
  (let pair (e : Bool) (len : Nat) (f : Nat → Nat → Team → Nat → Thread → State → State) : Nat → Nat → Team → Nat → Thread → State → State :=
     fun c team tm tid t s => if e = true ∧ tm.lr.pair = false then faults s team tid 17 2 t len else f c team tm tid t s
   (∀ h e (d a : VReg) b s c slot g tm, State.Ready s c slot g tm h (vW d 4 :: vR a :: srcOps b) →
     let cause (x : Nat × Nat × Thread) : Option Nat :=
       let row := (x.2.2.reg a.toNat).toNat
       let col := (bVal tm x.2.2 b).toNat
       if e = true ∧ tm.lr.pair = false then some 2
       else if tm.lr.accrows ≤ row ∨ col % 4 ≠ 0 ∨ 252 < col then some 3
       else none
     let live := s.liveLanes g h
     let good := live.filter fun x => (cause x).isNone
     let bad := live.filter fun x => (cause x).isSome
     good = [] ∨ (s.core (tm.core + b2n e)).matq.length < 32 →
     let p := good.foldl (fun r x =>
       let q := r.2.macrdOpen g.team x.2.1 h x.2.2.pc (b2n e) d.toNat
       (r.1 ++ [(x.2.1, q.1, (x.2.2.reg a.toNat).toNat, (bVal tm x.2.2 b).toNat, d.toNat)], q.2)) ([], s.issueAll g (lenOfB b))
     let u := match good with
       | x :: _ => p.2.matPost g.team (b2n e) x.2.1 (.macrd p.1) none none x.2.2.pc
       | [] => p.2
     Ends (exec (.macrd h e d a b) s)
       (bad.foldl (fun s x => faults s g.team x.2.1 17 (BitVec.ofNat 64 ((cause x).getD 0)) x.2.2 (lenOfB b)) u))
   ∧ (∀ h, OnLanes (.mfence h) h 2 false [] fun _ team _ tid t s =>
       if t.wins.any fun w => !w.kind.isMacrd then opens s team tid (window s h t .fence false [] none)
       else s.modTeam team fun t => { t with unfenced := t.unfenced.filter fun u => !u.seen.contains tid })
   ∧ (∀ h e, OnLanes (.mwait h e) h 2 false [] (pair e 2 fun c team tm tid t s =>
       let k := tm.engine (b2n e)
       if (k.cmp + 2 ^ 32 - k.ent) % 2 ^ 32 < 2 ^ 31 then
         ((({ s with nextId := s.nextId + 1 } : State).learns team tid).acquire c tm.ctx .core).modThread team tid fun t => t.covered (b2n e) s.nextId
       else
         let s := opens s team tid (window s h t .sync false [] (some (.matrix (b2n e) k.ent)))
         if h.la = 0 then parks s team tid 4 else s))
   ∧ (∀ h e n b, OnLanes (.mwaitCv h e n b) h (lenOfB b) false (srcOps b) (pair e (lenOfB b) fun c team tm tid t s =>
       if doneGen (tm.conv n.toNat).done (bVal tm t b) then (s.learns team tid).acquire c tm.ctx .core
       else
         let s := opens s team tid (window s h t .sync false [] (some (.conv n.toNat (bVal tm t b))))
         if h.la = 0 then parks s team tid 4 else s))
   ∧ (∀ h clr e (d : VReg), OnLive (.mqry h clr e d) h 2 false [vW d 4] fun _ g tm live s =>
       if e = true ∧ tm.lr.pair = false then live.foldl (fun s x => faults s g.team x.2.1 17 2 x.2.2 2) s
       else
         let k := tm.engine (b2n e)
         let core := s.core (tm.core + b2n e)
         let q : List Word := [BitVec.ofNat 32 k.ent, BitVec.ofNat 32 k.cmp
           , BitVec.ofNat 32 (core.sparesUsed (tm.core + b2n e) * 256 + k.mstat.toNat)
           , BitVec.ofNat 32 (b2n k.shadow.valid * 2 ^ 28 + k.shadow.fmt % 16 * 2 ^ 24 + b2n k.front.valid * 2 ^ 20
               + k.front.fmt % 16 * 2 ^ 16 + (32 - core.matq.length))]
         let s := live.foldl (fun s x => opens s g.team x.2.1
           (window s h x.2.2 .engine true ((upTo 4).map fun j => (d.toNat + j, q.getD j 0)) none)) s
         if clr = true ∧ live ≠ [] then s.modTeam g.team fun t => t.modEngine (b2n e) fun k => { k with mstat := 0 } else s)
   ∧ (∀ h (d : BitVec 4) b, OnLive (.cvset h d b) h (lenOfB b) false (srcOps b) fun _ g tm live s =>
       let fresh := live.filter fun x => (x.2.2.recorded x.2.2.pc).isNone
       match fresh.getLast? with
       | none => s
       | some x =>
         let size := bVal tm x.2.2 b
         if size = 0 ∨ 4096 < size.toNat then fresh.foldl (fun s y => faults s g.team y.2.1 17 7 y.2.2 (lenOfB b)) s
         else
           fresh.foldl (fun s y => s.recordArr g.team y.2.1 y.2.2.pc 0)
             (s.modTeam g.team fun t => { t with c := modAt t.c d.toNat fun c => { c with size := size, count := 0 } }))
   ∧ (∀ h (d : VReg) (a : BitVec 4), OnLive (.sign h d a) h 2 false [vW d] fun _ g tm live s =>
       let give (s : State) (x : Nat × Nat × Thread) (gen : Word) : State :=
         opens s g.team x.2.1 (window s h x.2.2 .engine true [(d.toNat, gen)] none)
       let old := live.filter fun x => (x.2.2.recorded x.2.2.pc).isSome
       let fresh := live.filter fun x => (x.2.2.recorded x.2.2.pc).isNone
       let s := old.foldl (fun s x => give s x (((x.2.2.recorded x.2.2.pc).getD 0).setWidth 32)) s
       if fresh ≠ [] ∧ (tm.conv a.toNat).size = 0 then fresh.foldl (fun s y => faults s g.team y.2.1 17 7 y.2.2 2) s
       else fresh.foldl (fun s x =>
         give (s.sign g.team x.2.1 a.toNat none x.2.2.pc) x (((s.team? g.team).map fun t => (t.conv a.toNat).gen).getD 0)) s))
  ∧ ((∀ (s : State) team tid n op pc tm, s.team? team = some tm → (tm.conv n).count + 1 ≠ (tm.conv n).size →
       s.sign team tid n op pc =
         ((s.matFence team tid).recordArr team tid pc ((tm.conv n).gen.setWidth 64)).modTeam team fun t =>
           { t with c := modAt t.c n fun c => { c with count := c.count + 1 } })
     ∧ (∀ (s : State) team tid n op pc tm, s.team? team = some tm → (tm.conv n).count + 1 = (tm.conv n).size →
       s.sign team tid n op pc =
         ((((s.matFence team tid).recordArr team tid pc ((tm.conv n).gen.setWidth 64)).modTeam team fun t =>
           { t with c := modAt t.c n fun c => { c with count := 0, gen := c.gen + 1 } }).sigComplete team tid n (tm.conv n).gen op pc).advanceDone
             team n)
     ∧ (∀ (s : State) o, (s.core s.ev.core).matq.find? (fun o => o.id == s.ev.req) = some o → o.started = false → o.entered + 8 ≤ s.clk →
       let earlier := (s.core s.ev.core).matq.takeWhile fun x => x.id != o.id
       (∀ x ∈ earlier, x.started = true) → (o.kind = .mswap → earlier = []) →
       (o.kind.loads = true → ∀ x ∈ earlier, x.kind ≠ .mswap ∧ x.kind.loads = false) →
       (o.kind.readsPlane = true → ∀ x ∈ earlier, x.kind ≠ .mswap ∧ x.kind.readsPlane = false) →
       exec .matrixOperationStart s = .next (s.modCore s.ev.core fun k => { k with matq := k.matq.map fun x =>
         if x.id == o.id then { x with started := true } else x }))
     ∧ (∀ (s : State) o rest tm, (s.core s.ev.core).matq = o :: rest → o.id = s.ev.req → o.started = true → o.spoiled = [] → o.stale = [] →
       let u := s.modCore s.ev.core fun k => { k with matq := k.matq.filter fun x => x.id != o.id }
       u.team? o.team = some tm → o.poison tm = none →
       let v := (u.matDo o tm).modTeam o.team fun t => t.modEngine o.e fun k => { k with cmp := (k.cmp + 1) % 2 ^ 32 }
       exec .matrixOperationComplete s = .next ((match o.conv with
         | some (n, _) => v.advanceDone o.team n
         | none => v).matWake o.team))
     ∧ (∀ (k : Engine) r (l : List Word), spWf k.acc = true → l.length = 256 →
       (k.setRow r l).row r = l ∧ (∀ q, q ≠ r → (k.setRow r l).row q = k.row q) ∧ spWf (k.setRow r l).acc = true))

/-! ### Rows of the sequencer and the margin controller -/

/-- R163, R164, R177 to R187: the rows of a core's sequencer. A ready result reaches its destinations; the batt that ranks highest has a
group drawn from it into a free slot, else into the pending set; a stray thread takes slot 7; an overdue batt that has waited 16 clk
takes the place of the oldest pending group; the walk selects groups for which quarters are free; a group that has stalled for 4 clk, and
on each eighth clk the one that has held its slot longest, makes place for a ready one; holds, sleeps and fills end. Ties among groups
are the model's (log 48). -/
def Obligations.SequencerRows : Prop :=
  (∀ (s : State) t w, s.away s.ev.team = false → s.thread? s.ev.team s.ev.tid = some t → t.win? s.ev.win = some w →
    (w.kind = .alu ∨ w.kind = .mem ∨ w.kind = .engine) → (t.st = .parked → w.wait = none) →
    exec .longLatencyResult s =
      .next ((s.modThread s.ev.team s.ev.tid fun t => t.deliver s.ev.win s.ev.only).afterResult s.ev.team s.ev.tid))
  ∧ (∀ (s : State) n b, let u := s.refill s.ev.core
    u.battToDraw s.ev.core (fun _ => true) = some (n, b) →
    (u.core s.ev.core).freeSlots ≠ [] ∨ (u.core s.ev.core).pending.length < 56 →
    let r := u.drawFrom s.ev.core b
    exec .cardingDraw s = .next (r.2.modCore s.ev.core fun k =>
      { (match k.freeSlots with
        | i :: _ => { k with active := k.active.put i r.1 }
        | [] => { k with pending := k.pending ++ [r.1] } : Core) with overdueSince := none }))
  ∧ (∀ (s : State) b m rest, (s.core s.ev.core).batts.find 63 = some b → (s.core s.ev.core).active.find 7 = none →
    b.members.filter (fun m => decide (m.hold ≤ s.clk)) = m :: rest →
    let r := s.formGroup s.ev.core m.team [m] true
    exec .strayDraw s = .next (r.2.modCore s.ev.core fun k => { k with active := k.active.put 7 r.1 }))
  ∧ (∀ (s : State), s.ev.core < 128 → s.issueClk s.ev.core = true →
    let c := s.ev.core
    let u := s.refill c
    let k := u.core c
    let groups := (slotsFrom k.rr).filterMap fun i => (k.active.find i).map fun g => (i, g)
    let v := groups.foldl (fun s e => if s.groupReady c e.2 then s else s.stallGroup c e.1 e.2) u
    let sel := pick (groups.filter fun e => decide (e.2.notBefore ≤ v.clk) && v.groupReady c e.2) 4
    exec .issue s = .next { (v.modCore c fun x => { x with rr := match sel.2, sel.1 with
        | some i, _ => i
        | none, i :: _ => (i + 1) % 8
        | none, [] => k.rr }) with issueQ := v.issueQ ++ sel.1.map fun i => (c, i) })
  ∧ (∀ (s : State) t g rest n b, (s.core s.ev.core).overdueSince = some t → sortBy (·.drawn) (s.core s.ev.core).pending = g :: rest →
    t + 16 ≤ s.clk →
    (s.core s.ev.core).freeSlots = [] → 56 ≤ (s.core s.ev.core).pending.length →
    s.battToDraw s.ev.core (fun b => match oldestFiled (b.eligible s.clk) with
      | some f => decide (2 * (s.core s.ev.core).ageLimit ≤ s.clk - f)
      | none => false) = some (n, b) →
    let r := s.drawFrom s.ev.core b
    exec .overdueDraw s = .next (((r.2.modCore s.ev.core fun k =>
      { k with pending := k.pending.filter (· != g) ++ [r.1], overdueSince := none }).fileGroup g).strayRoom s.ev.core))
  ∧ (∀ (s : State) g t p, (s.core s.ev.core).active.find s.ev.slot = some g → g.stray = false → g.stall = some t →
    t + 4 ≤ s.clk ∨ (s.laneThreads g).any (fun x => x.2.2.yieldHint) = true → s.readyPending s.ev.core = some p →
    let c := s.ev.core
    exec .stallSwap s = .next ((s.activate c s.ev.slot p).modCore c fun k =>
      { k with pending := k.pending ++ [{ g with latch := [], since := (s.activate c s.ev.slot p).clk, stall := none }] }))
  ∧ (∀ (s : State) p e rest g, s.readyPending s.ev.core = some p →
    sortBy (fun e => e.2.since) ((s.core s.ev.core).active.filter fun e => !e.2.stray) = e :: rest →
    (s.core s.ev.core).active.find e.1 = some g → s.clk % 8 = 0 → p.since + 8 ≤ s.clk →
    let c := s.ev.core
    exec .rotationSwap s = .next ((s.activate c e.1 p).modCore c fun k =>
      { k with pending := k.pending ++ [{ g with latch := [], since := (s.activate c e.1 p).clk, stall := none }] }))
  ∧ (∀ s : State, exec .yieldHoldEnd s = .next (s.modCore s.ev.core fun k => { k with batts := k.batts.mapKV fun _ (b : Batt) =>
      { b with members := b.members.map fun m =>
        if m.team = s.ev.team ∧ m.tid = s.ev.tid ∧ m.hold ≤ s.clk then { m with hold := 0 } else m } }))
  ∧ (∀ (s : State) t w till, s.thread? s.ev.team s.ev.tid = some t →
    (t.waiting fun w => match w with
      | .sleep till => decide (till ≤ s.clk)
      | _ => false) = some w → w.wait = some (.sleep till) → till ≤ s.clk →
    exec .sleepEnd s = .next (s.waitDone s.ev.team s.ev.tid w.id []))
  ∧ (∀ s : State, let got (g : Group) : Group := { g with awaits := g.awaits.filter fun x => !(x.1 == s.ev.block && x.2 == s.ev.reg) }
    exec .registerCacheFill s = .next (s.modCore s.ev.core fun k =>
      { k with active := k.active.mapKV fun _ g => got g, pending := k.pending.map got }))
  ∧ (∀ (s : State) team tid id regs t, s.thread? team tid = some t → t.st = .parked → (t.win? id).isSome → t.wait ≠ 6 →
    ((s.team? team).map (·.resident)).getD false = true →
    s.waitDone team tid id regs =
      (((s.modThread team tid fun t => t.result id regs).modThread team tid fun t => t.deliver id none).file team tid 0))

/-- R190 to R199, R351, R380, R381, R425: a replay adds 2 clk and counts; past LIMIT the margin steps down with an event, and at CUR = 0
the core is quarantined; a window's end clears the count and, after RELAX clean windows, steps the margin up; a silent error restarts its
threads and counts, four in a window quarantine; MGN_CTL and MGN_LIMIT take their fields, and QUAR written with one clears; a checksum
mismatch restarts the owner of its operation and counts; an empty queue lets the logical map leave the disabled rows out. Quarantine with
EN = 0, and windows while QUAR = 1, are read by inference (log 59). -/
def Obligations.MarginRows : Prop :=
  (∀ s : State, s.ev.core < 128 →
    let c := s.ev.core
    let u := s.modCore c fun k => { k with clock := k.clock + 2, cnt := min (k.cnt + 1) 65535 }
    let k := u.core c
    exec .replay s = .next
      (if k.cnt ≤ k.limit then u
      else if 0 < k.cur then
        (u.modCore c fun k => { k with cur := k.cur - 1, esc := min (k.esc + 1) 255, cnt := 0, winStart := u.clk, serrWin := 0
                                       cleanWins := 0 }).coreEvent c 0x0E 0 (k.cur - 1)
      else u.quarantine c))
  ∧ (∀ s : State, s.ev.core < 128 →
    let k := s.core s.ev.core
    let len := if k.wlen = 0 then 1048576 else if k.wlen = 1 then 262144 else if k.wlen = 2 then 4194304 else 16777216
    k.winStart + len ≤ s.clk →
    let n := if k.cnt ≤ k.limit / 4 then k.cleanWins + 1 else 0
    exec .marginWindowEnd s = .next (s.setCore s.ev.core
      (if k.relax ≠ 0 ∧ k.relax ≤ n then
        { k with cnt := 0, winStart := s.clk, serrWin := 0, cleanWins := 0
                 cur := if k.en = true ∧ k.cur < k.target then k.cur + 1 else k.cur }
      else { k with cnt := 0, winStart := s.clk, serrWin := 0, cleanWins := n })))
  ∧ (∀ (s : State) i rest, s.ev.tids.filter (fun i => s.onCore s.ev.core s.ev.team i) = i :: rest → s.ev.flag = false →
    exec .silentError s = .next (((i :: rest).foldl (fun u i => u.restart s.ev.team i) s).countSilent s.ev.core))
  ∧ (∀ (s : State) c, let u := s.modCore c fun k => { k with serr := min (k.serr + 1) 255, serrWin := k.serrWin + 1 }
    let v := u.coreEvent c 0x10 0 (u.core c).cur
    s.countSilent c = if 4 ≤ (v.core c).serrWin then v.quarantine c else v)
  ∧ (∀ (s : State) c, (s.core c).quar = false →
    s.quarantine c = (s.modCore c fun k => { k with quar := true, draining := true }).drainCore c)
  ∧ (∀ s : State, s.ev.core < 128 → s.ev.hport < 2 → s.dieAnswers (dieOf s.ev.core) (0x100 * (s.ev.core % 16)) = true →
    s.ev.v &&& 0xFFFFFFFFFFFCE0E0 = 0 →
    let v := s.ev.v
    let put (k : Core) (cur : Nat) : Core :=
      { k with wlen := (v.extractLsb' 16 2).toNat, en := v.getLsbD 4, target := (v.extractLsb' 0 4).toNat
               cur := if v.getLsbD 4 then min cur (v.extractLsb' 0 4).toNat else 0 }
    (v.getLsbD 12 = false ∨ (s.core s.ev.core).quar = false →
      exec .mgnCtlWrite s = .next (s.setCore s.ev.core (put (s.core s.ev.core) (s.core s.ev.core).cur)))
    ∧ (v.getLsbD 12 = true → (s.core s.ev.core).quar = true →
      exec .quarantineClear s = .next (s.setCore s.ev.core
        { put (s.core s.ev.core) 0 with quar := false, cnt := 0, cleanWins := 0, winStart := s.clk, serrWin := 0 })))
  ∧ (∀ s : State, s.ev.core < 128 → s.ev.hport < 2 → s.dieAnswers (dieOf s.ev.core) (0x100 * (s.ev.core % 16) + 0x10) = true →
    s.ev.v &&& 0xFFFFFFFFFF000000 = 0 →
    exec .mgnLimitWrite s = .next (s.setCore s.ev.core { s.core s.ev.core with
      relax := (s.ev.v.extractLsb' 16 8).toNat, limit := (s.ev.v.extractLsb' 0 16).toNat }))
  ∧ (∀ (s : State) o i, (s.core s.ev.core).matq.find? (fun o => o.id == s.ev.req && o.started
      && ((s.team? o.team).map o.checked).getD false) = some o → o.owner = some i →
    (s.thread? o.team i).isSome →
    exec .checksumMismatch s = .next
      (((s.modCore s.ev.core fun k => k.rowMismatch s.ev.row s.cn.rowth).restart o.team i).countSilent s.ev.core))
  ∧ (∀ s : State, (s.core s.ev.core).matq = [] →
    let c := s.ev.core
    let u := ((s.core c).badRows.filter fun r => !(s.core c).rowMap.contains r).foldl
      (fun s r => s.event { kind := 0x0D, core := c, die := dieOf c, aux := r }) (s.modCore c fun k => { k with rowMap := k.badRows })
    u.mustLeave c = [] → exec .logicalMapRebuild s = .next u)

/-! ### Links, ports and messages -/

/-- A die-link flit of TYPE t that decodes to `x`, on a link that carries it: its receiver and the other direction's transmitter (R18, R19). -/
def Sys2Proof.Say.DieFlit (s : State) (t : Nat) (rx tx : Chan) (x : RxFlit) : Prop :=
  s.ev.link < 21 ∧ s.ev.dir < 2 ∧ s.linkCarries s.ev.link t = true ∧ (s.link s.ev.link).dirs[s.ev.dir]? = some rx
    ∧ (s.link s.ev.link).dirs[1 - s.ev.dir]? = some tx ∧ dieFmt.decode s.ev.bytes = some (false, x) ∧ x.type = t

/-- The receiver becomes `rx`; the transmitter hears ACK and a NAK, and sends a NAK of its own where asked (R20). -/
def Sys2Proof.Say.dieTook (s : State) (tx : Chan) (x : RxFlit) (rx : Chan) (nak : Bool) : State :=
  let h := tx.acked dieFmt s.clk x.ack
  let h : Chan := if x.nak then { h with replay := some x.ack } else h
  let h : Chan := if nak then { h with wire := h.wire ++ [dieFmt.encode
    { seq := h.txSeq, ack := rx.rxSeq, type := 3, ki := 0, nak := true, payload := [] }] } else h
  let l := s.link s.ev.link
  s.setLink s.ev.link { l with dirs := setAt (setAt l.dirs s.ev.dir rx) (1 - s.ev.dir) h }

/-- A port's flit of TYPE t that decodes to `x`, in a state that carries it (R387, R390). -/
def Sys2Proof.Say.PortFlit (s : State) (t : Nat) (c : Bool) (x : RxFlit) : Prop :=
  s.ev.port < 64 ∧ carries (s.port s.ev.port).st t = true ∧ (s.die (brimOfPort s.ev.port)).lost = false
        ∧ kalsyFmt.decode s.ev.bytes = some (c, x) ∧ x.type = t

/-- The port's receiver becomes `rx`; ACK, a NAK and the counters as R389 and R406 give; open messages are taken up. -/
def Sys2Proof.Say.portTook (s : State) (c : Bool) (x : RxFlit) (rx : Chan) (nak bad : Bool) : State :=
  let p := s.port s.ev.port
  let h := rx.acked kalsyFmt s.clk x.ack
  let h : Chan := if x.nak then { h with replay := some x.ack } else h
  let h := if nak then h.idle kalsyFmt h.rxSeq true else h
  s.setPort s.ev.port ({ p with corr := (p.corr + if c then 1 else 0) % 281474976710656
                                auth := (p.auth + if bad then 1 else 0) % 281474976710656
                                ch := h.push kalsyFmt s.clk h.rxSeq [] } : Port).parse

/-- R18 to R20, R426: on a die link, a data flit in order joins its group, and a later one asks for replay once; a tag flit that verifies
passes its group's payloads on, and one that does not discards the group; control and idle flits carry ACK and NAK; a flit that fails its
check is discarded and replay asked for; a replay sends what is kept, and the eighth failed one fails the link; an open group is
completed with zeros; a poisoned-pending entry is built again from its holders. What is kept, when a replay has failed, the tag's place
and the traffic as an operand are the model's (log 29, log 31). -/
def Obligations.DieLinkRows : Prop :=
  (∀ s rx tx x, DieFlit s 0 rx tx x → x.seq = rx.rxSeq → x.seq % 16 ≠ 15 →
    exec .dieLinkDataFlit s = .next (dieTook s tx x
      { rx with group := rx.group ++ [{ seq := x.seq, type := 0, ki := x.ki, payload := x.payload }]
                rxSeq := (rx.rxSeq + 1) % 16777216, discard := false } false))
  ∧ (∀ s rx tx x, DieFlit s 0 rx tx x → x.seq ≠ rx.rxSeq →
    exec .dieLinkDataFlit s = .next
      (if rx.discard = false ∧ (x.seq + 16777216 - rx.rxSeq) % 16777216 < 8388608 then dieTook s tx x { rx with discard := true } true
       else dieTook s tx x rx false))
  ∧ (∀ s rx tx x k p, DieFlit s 1 rx tx x → x.seq = rx.rxSeq → x.seq % 16 = 15 → (∀ y ∈ rx.group, y.ki = x.ki) →
    rx.rxKeys.getD x.ki none = some k →
    let e := if x.ki = rx.rxKi then rx.rxEpoch else 0
    dieFmt.open k e (x.seq - 15) x.ki rx.group x.payload = some p →
    let next := (rx.rxSeq + 1) % 16777216
    exec .dieLinkTagFlit s = .next (dieTook s tx x
      { rx with rxSeq := next, rxEpoch := if next = 0 then e + 1 else e, group := [], discard := false, rxKi := x.ki
                rxKeys := if x.ki = rx.rxKi then rx.rxKeys else setAt rx.rxKeys rx.rxKi none, delivered := rx.delivered ++ p } false))
  ∧ (∀ s rx tx x k, DieFlit s 1 rx tx x → x.seq = rx.rxSeq → x.seq % 16 = 15 → rx.rxKeys.getD x.ki none = some k →
    dieFmt.open k (if x.ki = rx.rxKi then rx.rxEpoch else 0) (x.seq - 15) x.ki rx.group x.payload = none →
    exec .dieLinkTagFlit s = .next (dieTook s tx x { rx with rxSeq := x.seq - 15, group := [], discard := true } true))
  ∧ (∀ s rx tx x, DieFlit s 2 rx tx x → exec .dieLinkControlFlit s = .next (dieTook s tx x rx false))
  ∧ (∀ s rx tx x, DieFlit s 3 rx tx x → exec .dieLinkIdleFlit s = .next (dieTook s tx x rx false))
  ∧ (∀ (s : State) rx tx, s.ev.link < 21 → s.ev.dir < 2 → s.linkCarries s.ev.link 0 = true →
    (s.link s.ev.link).dirs[s.ev.dir]? = some rx → (s.link s.ev.link).dirs[1 - s.ev.dir]? = some tx → dieFmt.decode s.ev.bytes = none →
    let l := s.link s.ev.link
    let rx' : Chan := { rx with discard := true }
    let tx' : Chan := { tx with
      wire := tx.wire ++ [dieFmt.encode { seq := tx.txSeq, ack := rx.rxSeq, type := 3, ki := 0, nak := true, payload := [] }] }
    let u := s.setLink s.ev.link { l with dirs := setAt (setAt l.dirs s.ev.dir rx') (1 - s.ev.dir) tx' }
    exec .dieLinkDataFlit s = .next u ∧ exec .dieLinkTagFlit s = .next u ∧ exec .dieLinkControlFlit s = .next u
      ∧ exec .dieLinkIdleFlit s = .next u)
  ∧ (∀ (s : State) tx rx a, s.ev.link < 21 → s.ev.dir < 2 → s.linkOk s.ev.link = true → (s.link s.ev.link).dirs[s.ev.dir]? = some tx →
    (s.link s.ev.link).dirs[1 - s.ev.dir]? = some rx → tx.replay = some a →
    let l := s.link s.ev.link
    let n := if tx.nakAt = some a then tx.fails + 1 else 0
    let tx' : Chan := { tx with
      wire := tx.wire ++ (tx.kept.filter fun x => dieFmt.after a x.seq).map (dieFmt.wireOf rx.rxSeq), replay := none
      ackClk := s.clk, nakAt := some a, fails := n }
    let u := s.setLink s.ev.link { l with dirs := setAt l.dirs s.ev.dir tx' }
    exec .dieLinkReplay s = .next (if 8 ≤ n then u.failLink s.ev.link else u.resendChunks))
  ∧ (∀ (s : State) n, (s.failLink n).links = (s.setLink n { s.link n with failed := true, dirs := (s.link n).dirs.map fun (h : Chan) =>
      { h with kept := [], open_ := [], replay := none } }).links)
  ∧ (∀ (s : State) tx rx, s.ev.link < 21 → s.ev.dir < 2 → s.linkOk s.ev.link = true → (s.link s.ev.link).dirs[s.ev.dir]? = some tx →
    (s.link s.ev.link).dirs[1 - s.ev.dir]? = some rx → (s.die (linkEnds s.ev.link).1).attested.st = 3 →
    (s.die (linkEnds s.ev.link).2).attested.st = 3 →
    let l := s.link s.ev.link
    let tx' := (tx.push dieFmt s.clk rx.rxSeq s.ev.bytes).complete dieFmt s.clk rx.rxSeq
    exec .dieLinkOpenGroup s = .next (s.setLink s.ev.link { l with dirs := setAt l.dirs s.ev.dir tx' }))
  ∧ (∀ (h : Chan) f now ack k, h.open_ ≠ [] → h.open_.length < 15 * f.pay → h.maySeal f = true → h.txKeys.getD h.txKi none = some k →
    let next := (h.txSeq + 16) % f.seqs
    let g := f.seal k h.txEpoch h.txSeq h.txKi (padTo (15 * f.pay) h.open_)
    h.complete f now ack = { h with
      txSeq := next, txEpoch := if next = 0 then h.txEpoch + 1 else h.txEpoch, kept := h.kept ++ g, wire := h.wire ++ g.map (f.wireOf ack)
      ackClk := if h.kept.isEmpty then now else h.ackClk, open_ := [] })
  ∧ (∀ (s : State) e, s.dirFind s.ev.dref (lineOf s.ev.pa) = some e → e.poisonPend = true → (s.die 8).census = none →
    (s.die 9).census = none → (∀ h ∈ e.holders, s.reaches (s.dirDie s.ev.dref) (holderDie (s.dirDie s.ev.dref - 8) h) = true) →
    (∀ h, e.owner = some h → s.reaches (s.dirDie s.ev.dref) (holderDie (s.dirDie s.ev.dref - 8) h) = true) →
    exec .entryRebuild s = .next (e.queue.foldl (fun s r => s.dirAsk s.ev.dref r)
      ((s.recall e).dirSet s.ev.dref (lineOf s.ev.pa)
        [{ e with st := .i, holders := [], owner := none, poisonPend := false, queue := [] }])))

/-- R387 to R390, R393, R394, R405: on a port, flits as on a die link, with its counters; a replay counts and the eighth failed one fails
the port, as does ACK that stands still; open groups are completed; a port moves between its states as R390 gives, and each move drops
what it held; a request whose wait is over fails its path; KLCTL takes HOPMAX up to 8, and PKGID while every port is Off. What is kept,
failed replays and KLCTL's fields are read by inference (log 29, log 32). -/
def Obligations.KalsyRows : Prop :=
  (∀ s c x, PortFlit s 0 c x → let h := (s.port s.ev.port).ch
    x.seq = h.rxSeq → x.seq % 16 ≠ 15 →
    exec .kalsyDataFlit s = .next (portTook s c x
      { h with group := h.group ++ [{ seq := x.seq, type := 0, ki := x.ki, payload := x.payload }]
               rxSeq := (h.rxSeq + 1) % 4294967296, discard := false } false false))
  ∧ (∀ s c x, PortFlit s 0 c x → let h := (s.port s.ev.port).ch
    x.seq ≠ h.rxSeq → h.discard = false → (x.seq + 4294967296 - h.rxSeq) % 4294967296 < 2147483648 →
    exec .kalsyDataFlit s = .next (portTook s c x { h with discard := true } true false))
  ∧ (∀ s c x k p, PortFlit s 1 c x → let h := (s.port s.ev.port).ch
    x.seq = h.rxSeq → x.seq % 16 = 15 → (∀ y ∈ h.group, y.ki = x.ki) → h.rxKeys.getD x.ki none = some k →
    let e := if x.ki = h.rxKi then h.rxEpoch else 0
    kalsyFmt.open k e (x.seq - 15) x.ki h.group x.payload = some p →
    let next := (h.rxSeq + 1) % 4294967296
    exec .kalsyTagFlit s = .next (portTook s c x
      { h with rxSeq := next, rxEpoch := if next = 0 then e + 1 else e, group := [], discard := false, rxKi := x.ki
               rxKeys := if x.ki = h.rxKi then h.rxKeys else setAt h.rxKeys h.rxKi none, delivered := h.delivered ++ p } false false))
  ∧ (∀ s c x k, PortFlit s 1 c x → let h := (s.port s.ev.port).ch
    x.seq = h.rxSeq → x.seq % 16 = 15 → h.rxKeys.getD x.ki none = some k →
    kalsyFmt.open k (if x.ki = h.rxKi then h.rxEpoch else 0) (x.seq - 15) x.ki h.group x.payload = none →
    exec .kalsyTagFlit s = .next (portTook s c x { h with rxSeq := x.seq - 15, group := [], discard := true } true true))
  ∧ (∀ s c x, PortFlit s 2 c x → exec .kalsyControlFlit s = .next (portTook s c x (s.port s.ev.port).ch false false))
  ∧ (∀ s c x, PortFlit s 3 c x → exec .kalsyIdleFlit s = .next (portTook s c x (s.port s.ev.port).ch false false))
  ∧ (∀ s : State, s.ev.port < 64 → (s.die (brimOfPort s.ev.port)).lost = false → kalsyFmt.decode s.ev.bytes = none →
    let p := s.port s.ev.port
    let u := s.setPort s.ev.port { p with
      drop := (p.drop + 1) % 281474976710656, ch := ({ p.ch with discard := true } : Chan).idle kalsyFmt p.ch.rxSeq true }
    (p.st = .up → exec .kalsyDataFlit s = .next u ∧ exec .kalsyTagFlit s = .next u ∧ exec .kalsyControlFlit s = .next u
      ∧ exec .kalsyIdleFlit s = .next u)
    ∧ (p.st = .training ∨ p.st = .attest →
      exec .kalsyControlFlit s = .next (s.setPort s.ev.port { p with drop := (p.drop + 1) % 281474976710656 })))
  ∧ (∀ (s : State) a, (s.port s.ev.port).st = .up → (s.port s.ev.port).ch.replay = some a →
    let p := s.port s.ev.port
    let h := p.ch.sendAgain kalsyFmt s.clk p.ch.rxSeq a false
    let u := (s.setPort s.ev.port { p with rpl := (p.rpl + 1) % 281474976710656, ch := h }).resendChunks
    exec .kalsyReplay s = .next (if h.fails < 8 then u else u.failPort s.ev.port))
  ∧ (∀ (s : State), (s.port s.ev.port).st = .up → (s.port s.ev.port).ch.kept ≠ [] →
    (s.port s.ev.port).ch.ackClk + 16384 ≤ s.clk →
    let p := s.port s.ev.port
    let h := p.ch.sendAgain kalsyFmt s.clk p.ch.rxSeq (p.ch.nakAt.getD p.ch.lastAck) true
    let u := (s.setPort s.ev.port { p with rpl := (p.rpl + 1) % 281474976710656, ch := h }).resendChunks
    exec .ackTimeout s = .next (if p.ch.fails < 7 then u else u.failPort s.ev.port))
  ∧ (∀ s : State, (s.port s.ev.port).st = .up → (s.port s.ev.port).ch.open_ ≠ [] →
    let p := s.port s.ev.port
    exec .kalsyOpenGroup s = .next (s.setPort s.ev.port { p with ch := p.ch.complete kalsyFmt s.clk p.ch.rxSeq }))
  ∧ (∀ s : State, s.ev.port < 64 → (s.port s.ev.port).st = .off →
    exec .portEnable s = .next ((s.modPort s.ev.port fun x => { x with en := true }).portTo s.ev.port .training 0))
  ∧ (∀ s : State, s.ev.port < 64 → (s.port s.ev.port).st ≠ .off →
    exec .portEnable s = .next (s.modPort s.ev.port fun x => { x with en := true })
    ∧ exec .portDisable s = .next ((s.modPort s.ev.port fun x => { x with en := false }).portTo s.ev.port .off 0))
  ∧ (∀ s : State, s.ev.port < 64 → (s.port s.ev.port).st = .failed → exec .train s = .next (s.portTo s.ev.port .training 0))
  ∧ (∀ s : State, s.ev.port < 64 → (s.port s.ev.port).st = .training → s.ev.idx ≠ s.pkgid →
    exec .trainingLock s = .next (s.portTo s.ev.port .attest s.ev.idx))
  ∧ (∀ s : State, s.ev.port < 64 → (s.port s.ev.port).st = .training → s.ev.idx = s.pkgid →
    exec .trainingLock s = .next ((s.portTo s.ev.port .attest s.ev.idx).failPort s.ev.port))
  ∧ (∀ s : State, (s.port s.ev.port).st = .training → (s.port s.ev.port).since + 1073741824 ≤ s.clk →
    exec .trainingTimeout s = .next (s.failPort s.ev.port))
  ∧ (∀ s : State, (s.port s.ev.port).st = .up → exec .lossOfLight s = .next (s.failPort s.ev.port))
  ∧ (∀ (s : State) p st peer, (∀ r ∈ s.reqs, ∃ q, r.port = some q ∧ q ≠ p) → s.transit = [] → s.portTo p st peer = s.modPort p fun x =>
    { x with st := st, since := s.clk, peer := peer, ch := { Chan.init with wire := x.ch.wire, lastKey := s.clk } })
  ∧ (∀ (s : State) p, s.failPort p = (s.portTo p .failed (s.port p).peer).event { kind := 20, aux := 256 + p })
  ∧ (∀ (s : State) r t, s.ev.flag = false → s.reqs.find? (fun r => r.rid == s.ev.rid) = some r → r.port = none → r.waitTill = some t → t ≤ s.clk →
    exec .pathWaitExpire s = .next (((r.lanesOf.foldl (fun s l => s.remoteFault r.team l.1 l.2.1 l.2.2)
      ((s.dropReq r.rid).event { kind := 19, ctx := r.ctx, info := r.rid, aux := r.msg.dpkg }))).postedFault r 1))
  ∧ (∀ s : State, s.ev.flag = true →
    exec .pathWaitExpire s = .next ((s.transit.filter fun t => decide (t.till ≤ s.clk)).foldl State.turnBack
      { s with transit := s.transit.filter fun t => decide (s.clk < t.till) }))
  ∧ (∀ (s : State) t, s.turnBack t = if isRequest t.msg.kind then s.sendMsg t.via (s.answerTo t.msg .refusal 2 []) else s)
  ∧ (∀ s : State, s.ev.hport < 2 → s.dieAnswers 10 0x100000 = true → s.ev.v &&& 0xFFFFFFFFFF0FFE00 = 0 →
    let hop := (s.ev.v.extractLsb' 20 4).toNat
    let pkg := (s.ev.v.extractLsb' 0 9).toNat
    exec .klctlWrite s = .next { s with
      hopmax := if hop ≤ 8 then hop else s.hopmax
      pkgid := if ((List.range 64).all fun p => decide ((s.port p).st = .off)) = true ∧ pkg ≤ 287 then pkg else s.pkgid })

/-- The first message at the port of the row, of a kind, for this package. -/
def Sys2Proof.Say.Comes (s : State) (k : MsgKind) (m : Msg) (rest : List Msg) : Prop :=
  (s.port s.ev.port).inbox = m :: rest ∧ m.kind = k

/-- The state with the first message taken from a port. -/
def Sys2Proof.Say.popped (s : State) (p : Nat) : State := s.modPort p fun x => { x with inbox := x.inbox.drop 1 }

/-- A row that serves a message asks the directories for its lines first (R309, R311, R399): `v` is what they answered; the message is then
taken, and what it does is `f`, wherever `good` holds. -/
def Sys2Proof.Say.Serves (i : Instr) (s : State) (v : Bool × State) (good : State → Prop) (f : State → State) : Prop :=
  (v.1 = false → exec i s = .next v.2)
    ∧ (v.1 = true → good (popped v.2 s.ev.port) → exec i s = .next (f (popped v.2 s.ev.port)))

/-- No record answers the request, and there is room for one (R400). -/
def Sys2Proof.Say.Fresh (s : State) (m : Msg) : Prop :=
  s.doneReqs.find? (fun d => d.spkg == m.spkg && d.rid == m.rid) = none
    ∧ (s.doneReqs.filter fun d => d.spkg == m.spkg).length < 65536
    ∧ (∀ h ∈ s.held, h.chunk = none → h.msg.spkg = m.spkg → h.msg.rid = m.rid → h.msg.spkg = s.pkgid)

/-- The row of each kind of message. -/
def Sys2Proof.Say.msgRows : List (Instr × MsgKind) :=
  [(.readMessage, .read), (.writeMessage, .write), (.atomicMessage, .atomic), (.casMessage, .cas), (.chunkWriteMessage, .chunk)
   , (.landingMessage, .landing), (.response, .response), (.acknowledgement, .ack), (.refusal, .refusal), (.responseAcknowledgement, .respAck)]

/-- The local address that a message names. -/
def Sys2Proof.Say.home (m : Msg) : Nat := localOf m.addr.toNat

/-- R348, R395, R397 to R404: what a message does here. One for another package goes on with one hop more, or a request is refused with
cause 2; a request repeated has its reply sent again, and one that no window admits is refused with cause 1; a read answers with its
bytes, a write stores its enabled bytes, an atomic performs its function at the home, a chunk lands in memory or in a team's scratchpad,
a landing is counted; a response, an acknowledgement and a refusal end the request they answer; an acknowledged response frees its
record. How an uncorrectable reply is said and how replies travel are the model's (log 30, log 33). -/
def Obligations.MessageRows : Prop :=
  (∀ r ∈ msgRows, ∀ s m rest, Comes s r.2 m rest → m.dpkg ≠ s.pkgid →
    (∀ q, m.hops + 1 ≤ s.hopmax → s.path m.dpkg m.addr.toNat = .port q →
      exec r.1 s = .next ((popped s s.ev.port).transmit q { m with hops := m.hops + 1 }))
    ∧ (∀ q, m.hops + 1 ≤ s.hopmax → s.path m.dpkg m.addr.toNat = .wait q → exec r.1 s = .next { popped s s.ev.port with
      transit := s.transit ++ [{ via := s.ev.port, msg := { m with hops := m.hops + 1 }, till := s.clk + 16777216 }] })
    ∧ (s.hopmax < m.hops + 1 ∨ s.path m.dpkg m.addr.toNat = .failed ∨ s.path m.dpkg m.addr.toNat = .noRoute → isRequest m.kind = true →
      exec r.1 s = .next ((popped s s.ev.port).sendMsg s.ev.port (s.answerTo m .refusal 2 [])))
    ∧ (s.hopmax < m.hops + 1 ∨ s.path m.dpkg m.addr.toNat = .failed ∨ s.path m.dpkg m.addr.toNat = .noRoute → isRequest m.kind = false →
        exec r.1 s = .next (popped s s.ev.port)))
  ∧ (∀ r ∈ msgRows, ∀ s m rest d, Comes s r.2 m rest → m.dpkg = s.pkgid → isRequest m.kind = true →
    s.doneReqs.find? (fun d => d.spkg == m.spkg && d.rid == m.rid) = some d →
    exec r.1 s = .next ((popped s s.ev.port).sendMsg s.ev.port d.reply))
  ∧ (∀ s m rest, Comes s .read m rest → m.dpkg = s.pkgid → Fresh s m →
    let p := popped s s.ev.port
    let n := m.op.toNat
    (s.admits m 1 (home m) n = false → exec .readMessage s = .next
      ((p.sendMsg s.ev.port (p.answerTo m .refusal 1 [])).peerRefused m.sctx m.rid m.spkg))
    ∧ (s.admits m 1 (home m) n = true → Serves .readMessage s (s.visitLines (home m) n false) (fun _ => True) fun p =>
      let u := p.linesCleaned (home m) n
      u.replyTo s.ev.port m (u.answerTo m .response 0 (if u.badAt (home m) n then [] else u.peekN (home m) n))))
  ∧ (∀ s m rest, Comes s .write m rest → m.dpkg = s.pkgid → Fresh s m →
    let a := home m - home m % 128
    let mask := Machine.ofBytes (m.data.take 16)
    let u (p : State) : State :=
      let u := p.lineTaken (a / 128)
      if mask = fullMask then u.clearPoison a 128 else u
    s.admits m 2 a 128 = true → Serves .writeMessage s (s.visitLines a 128 true) (fun p => (u p).badAt a 128 = false) fun p =>
      let v := (u p).pokeN a (overlayMask mask (padTo 128 (m.data.drop 16)) ((u p).peekN a 128))
      v.replyTo s.ev.port m (v.answerTo m .ack 0 []))
  ∧ (∀ s m rest, Comes s .atomic m rest → m.dpkg = s.pkgid → Fresh s m →
    let u (p : State) : State := p.lineTaken (home m / 128)
    (∀ op, m.op.toNat = atomCode op → let n := atomBytes op
      s.admits m 3 (home m) n = true →
      Serves .atomicMessage s (s.visitLines (home m) n true) (fun p => (u p).badAt (home m) n = false) fun p =>
        let o := BitVec.ofNat 64 ((u p).peekNat (home m) n)
        let v := (u p).pokeNat (home m) n (atomNew op o (BitVec.ofNat 64 (Machine.ofBytes (m.data.take n)))).toNat
        v.replyTo s.ev.port m (v.answerTo m .response 0 (toBytes n o.toNat)))
    ∧ (∀ op, m.op.toNat = 128 + redCode op → let n := redBytes op
      s.admits m 3 (home m) n = true →
      Serves .atomicMessage s (s.visitLines (home m) n true) (fun p => (u p).badAt (home m) n = false) fun p =>
        let o := BitVec.ofNat 64 ((u p).peekNat (home m) n)
        let v := (u p).pokeNat (home m) n (redNew op o (BitVec.ofNat 64 (Machine.ofBytes (m.data.take n)))).toNat
        v.replyTo s.ev.port m (v.answerTo m .ack 0 [])))
  ∧ (∀ s m rest n, Comes s .cas m rest → m.dpkg = s.pkgid → Fresh s m → n = (if m.op = 0 then 4 else 8) →
    let u (p : State) : State := p.lineTaken (home m / 128)
    s.admits m 3 (home m) n = true →
    Serves .casMessage s (s.visitLines (home m) n true) (fun p => (u p).badAt (home m) n = false) fun p =>
      let o := BitVec.ofNat 64 ((u p).peekNat (home m) n)
      let v := if o.toNat = Machine.ofBytes (m.data.take n) then
          (u p).pokeNat (home m) n (BitVec.ofNat 64 (Machine.ofBytes ((m.data.drop n).take n))).toNat else u p
      v.replyTo s.ev.port m (v.answerTo m .response 0 (toBytes n o.toNat)))
  ∧ (∀ s m rest, Comes s .chunk m rest → m.dpkg = s.pkgid → Fresh s m → m.scr = false →
    let n := m.data.length
    let u (p : State) : State := (linesOf (home m) n).foldl (fun s ln => s.lineTaken ln) p
    s.admits m 2 (home m) n = true →
    Serves .chunkWriteMessage s (s.visitLines (home m) n true) (fun p => (u p).absent (home m) = false) fun p =>
      let v := ((u p).clearPoison (home m) n).pokeN (home m) m.data
      v.replyTo s.ev.port m (v.answerTo m .ack 0 []))
  ∧ (∀ s m rest tm, Comes s .chunk m rest → m.dpkg = s.pkgid → Fresh s m → m.scr = true → s.team? (unitTeam m.data) = some tm →
    s.deliveryOk m.spkg m.sctx tm.ctx = true → m.addr.toNat + (m.data.length - 16) ≤ tm.lr.scratch → tm.resident = true →
    (∀ x ∈ s.held, x.team ≠ unitTeam m.data) → unitDlv m.data = false →
    let v := (popped s s.ev.port).sPut (unitTeam m.data) m.addr.toNat (m.data.drop 16)
    exec .chunkWriteMessage s = .next (v.replyTo s.ev.port m (v.answerTo m .ack 0 [])))
  ∧ (∀ s m rest tm, Comes s .landing m rest → m.dpkg = s.pkgid → Fresh s m → s.team? (unitTeam m.data) = some tm →
    s.deliveryOk m.spkg m.sctx tm.ctx = true →
    let v := if m.op = 1 then (popped s s.ev.port).landEvent (unitTeam m.data) (unitLand m.data) 0 true else popped s s.ev.port
    exec .landingMessage s = .next (v.replyTo s.ev.port m (v.answerTo m .ack 0 [])))
  ∧ (∀ s m rest r, Comes s .response m rest → m.dpkg = s.pkgid →
    s.reqs.find? (fun r => r.rid == m.rid && r.msg.dpkg == m.spkg) = some r →
    let u := ((popped s s.ev.port).sendMsg s.ev.port ((popped s s.ev.port).answerTo m .respAck 0 [])).dropReq r.rid
    (∀ team win lanes acq, r.what = .load team win lanes acq → m.data ≠ [] →
      exec .response s = .next (lanes.foldl (fun s l =>
        s.laneDone team l.1 win (regsOfBytes l.2.2.2 (((m.data.take r.msg.op.toNat).drop l.2.1).take l.2.2.1)) acq) u))
    ∧ (∀ team tid win dst w64 acq, r.what = .rmw team tid win dst w64 acq → m.data ≠ [] →
      exec .response s = .next (u.laneDone team tid win (regsOfBytes dst (m.data.take (if w64 then 8 else 4))) acq)))
  ∧ (∀ s m rest r, Comes s .ack m rest → m.dpkg = s.pkgid → m.data = [] →
    s.reqs.find? (fun r => r.rid == m.rid && r.msg.dpkg == m.spkg) = some r →
    let u := ((popped s s.ev.port).sendMsg s.ev.port ((popped s s.ev.port).answerTo m .respAck 0 [])).dropReq r.rid
    (∀ q, r.what = .red q → exec .acknowledgement s = .next (u.fenceDone q.team q.tid))
    ∧ (∀ core req row n, r.what = .chunkWrite core req row n →
      exec .acknowledgement s = .next (u.modChunk core req row n fun k => { k with written := true, landed := k.landed || r.msg.scr })))
  ∧ (∀ s m rest r, Comes s .refusal m rest → m.dpkg = s.pkgid →
    s.reqs.find? (fun r => r.rid == m.rid && r.msg.dpkg == m.spkg) = some r →
    exec .refusal s = .next (if m.op = 2 then (popped s s.ev.port).pathFailed r else (popped s s.ev.port).refused r))
  ∧ (∀ s m rest, Comes s .respAck m rest → m.dpkg = s.pkgid →
    exec .responseAcknowledgement s = .next
      { popped s s.ev.port with doneReqs := s.doneReqs.filter fun d => !(d.spkg == m.spkg && d.rid == m.rid) })

/-! ### Containment -/

/-- R409 to R414, R421 to R425: what an error does. A dirty line in a failing way is poisoned at its home and its owner's context faults;
DRAM's line is poisoned, counted, and its frame's retirement falls due; a register line, scratchpad words, accumulators and planes are
poisoned, a lost store poisons its line and faults its context, a lost log entry kills its team, a fixed margin faults its context; a
corrected error counts in its way or its frame and changes nothing else; a window's end clears the counts; scrubs change nothing. The
class of an error and the block of a poisoned register line are read by inference (log 56). -/
def Obligations.ErrorRows : Prop :=
  (∀ (s : State) c pa way l, s.ev.loc = .cacheLine c pa way → (s.cache c).line? (lineOf pa) = some l → l.way = way →
    (l.dirty = 0 → exec .uncorrectableError s = .next ((s.giveUp c (lineOf pa)).badWay c (lineOf pa) way))
    ∧ (l.dirty ≠ 0 → l.st ≠ .si → l.tagv = true → let ln := lineOf pa
      let u := s.setPoison (ln * 128)
      exec .uncorrectableError s = .next ((u.contextFault l.ctx (Event.encode
        { kind := 2, ctx := l.ctx, core := if cacheCode c = 1 then sliceNo c ln else 0, die := cacheDie c
          pa := s.pkgid * 8796093022208 + ln * 128, aux := cacheCode c, clock := u.clk })).badWay c ln way)))
  ∧ (∀ (s : State) c ln way, (s.cache c).badWays.contains (wayNo c ln way) = false →
    ((s.cache c).badHere c ln < if cacheCode c = 1 then 4 else 8) → (s.cache c).wayLines c ln way = [] →
    s.badWay c ln way = (s.setCache c { s.cache c with badWays := (s.cache c).badWays ++ [wayNo c ln way] }).event
      { kind := 12, core := if cacheCode c = 1 then sliceNo c ln else 0, die := cacheDie c
        aux := cacheCode c * 16777216 + sliceNo c ln * 256 + way })
  ∧ (∀ (s : State) pa, s.ev.loc = .dram pa → isDram pa = true →
    let u := if s.dirtyElsewhere (lineOf pa) then s else s.setPoison pa
    exec .uncorrectableError s = .next ((u.countUE pa).poisonedLine ((homeDies pa).headD 0) (lineOf pa * 128) (dramLoc pa)))
  ∧ (∀ (s : State) team tid reg, s.ev.loc = .register team tid reg →
    exec .uncorrectableError s = .next (((upTo 32).map fun i => tid / 32 * 32 + i).foldl (fun s i => s.modThread team i fun t =>
      { t with poisoned := if t.poisoned.contains reg then t.poisoned else t.poisoned ++ [reg] }) s))
  ∧ (∀ (s : State) team tid, s.ev.loc = .predicates team tid →
    exec .uncorrectableError s = .next (((upTo 32).map fun i => tid / 32 * 32 + i).foldl (fun s i => s.modThread team i fun t =>
      { t with predPoison := true }) s))
  ∧ (∀ (s : State) team off, s.ev.loc = .scratch team off →
    exec .uncorrectableError s = .next (s.modTeam team fun t => { t with
      poisonScratch := if t.poisonScratch.contains (off / 8) then t.poisonScratch else t.poisonScratch ++ [off / 8] }))
  ∧ (∀ (s : State) team e row col, s.ev.loc = .accumulator team e row col →
    exec .uncorrectableError s = .next (s.modTeam team fun t => { t with
      eng := modAt t.eng e fun k => { k with poisonAcc := k.poisonAcc ++ [256 * row + col] } }))
  ∧ (∀ (s : State) team e byte, s.ev.loc = .plane team e false byte →
    exec .uncorrectableError s = .next (s.modTeam team fun t => { t with
      eng := modAt t.eng e fun k => { k with poisonFront := k.poisonFront ++ [byte / 8] } }))
  ∧ (∀ (s : State) core i r, s.ev.loc = .storeQueue core i → (s.core core).storeq[i]? = some r → pkgOf r.pa = s.pkgid →
    let u := (s.modCore core fun k => { k with storeq := dropAt k.storeq i }).setPoison (localOf r.pa)
    exec .uncorrectableError s = .next (u.contextFault r.ctx (Event.encode
      { kind := 2, ctx := r.ctx, core := core, die := dieOf core, pa := r.pa, aux := 9, clock := u.clk })))
  ∧ (∀ (s : State) team i tm r, s.ev.loc = .storeLog team i → s.team? team = some tm → tm.log[i]? = some r → tm.window = true →
    exec .uncorrectableError s = .next (s.killTeam team r.tid r.pc r.pa))
  ∧ (∀ (s : State) team tid tm t, s.ev.loc = .fixedMargin team tid → s.team? team = some tm → s.thread? team tid = some t →
    exec .uncorrectableError s = .next (s.contextFault tm.ctx (s.threadRec 3 team tid t.pc 0 10 0)))
  ∧ (∀ (s : State) c pa way, s.ev.loc = .cacheLine c pa way → let k := s.cache c
    let n := wayNo c (lineOf pa) way
    let u := s.setCache c { k with wayErrs := k.wayErrs.put n (k.wayErrs.get n 0 + 1) }
    exec .correctedError s = .next
      (if u.cn.wayth ≠ 0 ∧ u.cn.wayth ≤ k.wayErrs.get n 0 + 1 then u.badWay c (lineOf pa) way else u))
  ∧ (∀ (s : State) pa, s.ev.loc = .dram pa → isDram pa = true → s.cn.fetEn = true →
    let a := s.cn.fetBase + 8 * frameNo pa
    let n := min (s.peekNat a 4 + 1) 4294967295
    let u := s.pokeNat a 4 n
    let f := u.frame (pa / 65536)
    exec .correctedError s = .next (if u.cn.fceth ≠ 0 ∧ u.cn.fceth ≤ n ∧ f.ret = false ∧ f.mig = false then
      u.soon [Happening.row .frameRetirement { frame := pa / 65536, cause := 2 }] else u))
  ∧ (∀ s : State, s.ev.flag = false → (s.cache s.ev.cache).windowStart + 1073741824 ≤ s.clk →
    exec .errorWindowEnd s = .next (s.setCache s.ev.cache { s.cache s.ev.cache with wayErrs := [], windowStart := s.clk }))
  ∧ (∀ s : State, s.ev.flag = true → (s.core s.ev.core).rowWin + 16777216 ≤ s.clk →
    exec .errorWindowEnd s = .next (s.modCore s.ev.core fun k => { k with rowErrs := [], rowWin := s.clk }))
  ∧ (∀ s : State, exec .patrolScrub s = .next s ∧ exec .dramScrub s = .next s)

/-- R413, R414, R420 to R423: a consumption inside the relaunch window kills its team; a Faulted context's threads stop; a frame's
retirement begins where its cause holds, gives up its lines, and ends with the first suitable spare, an entry of the bad-frame list and a
record; FRET and SPARE do as a retirement of cause 3 and one spare more. A context's stop in a row of its own, accesses during migration,
and spares that are mapped, are the model's (log 34, log 61, log 63). -/
def Obligations.KillAndFrameRows : Prop :=
  (∀ (s : State) tm t, s.team? s.ev.team = some tm → s.thread? s.ev.team s.ev.tid = some t → tm.window = true →
    exec .teamKill s = .next (s.killTeam s.ev.team s.ev.tid t.pc s.ev.pa))
  ∧ (∀ s : State, (s.ctx s.ev.ctx).st = .faulted → exec .contextFault s = .next (s.stopContext s.ev.ctx))
  ∧ (∀ (s : State) f k, (s.frame f).ret = false → (s.frame f).mig = false → isDram (f * 65536) = true →
    s.retireFrame f k = (s.modFrame f fun x => { x with mig := true, cause := k }).flushFrames f 1)
  ∧ (∀ (s : State) f k, (s.frame f).ret = true ∨ (s.frame f).mig = true ∨ isDram (f * 65536) = false → s.retireFrame f k = s)
  ∧ (∀ s : State, let a := s.cn.fetBase + 8 * frameNo (s.ev.frame * 65536)
    ((s.ev.cause = 1 ∧ (s.cn.fetEn = true → s.peekNat (a + 4) 4 ≠ 0))
      ∨ (s.ev.cause = 2 ∧ s.cn.fetEn = true ∧ s.cn.fceth ≠ 0 ∧ s.cn.fceth ≤ s.peekNat a 4)) →
    exec .frameRetirement s = .next (s.retireFrame s.ev.frame s.ev.cause))
  ∧ (∀ s : State, let f := s.ev.frame
    let x := s.frame f
    x.mig = true → s.homeLost (f * 65536) = true →
    exec .frameRetired s = .next (s.modFrame f fun x => { x with mig := false, cause := 0 }))
  ∧ (∀ (s : State) g, let f := s.ev.frame
    let x := s.frame f
    x.mig = true → s.homeLost (f * 65536) = false → s.remapFull f = false → s.cn.fetEn = false → s.bfl.length < 4096 →
    s.cn.spares.find? (fun g => sameHome f g && g != f) = some g →
    let c := s.takeSpare f g
    let u : State := { c with
      cn := { s.cn with spares := s.cn.spares.erase g, mapped := s.cn.mapped.erase g }
      bfl := c.bfl ++ [BitVec.ofNat 128 (x.cause % 16 * 1152921504606846976 + f % 134217728 * 65536)] }
    exec .frameRetired s = .next ((u.modFrame f fun x => { x with ret := true, mig := false }).event
      { kind := 11, pa := s.pkgid * 8796093022208 + f * 65536, info := g * 65536, aux := x.cause }))
  ∧ (∀ (s : State) f g, s.takeSpare f g = if g ∈ s.cn.mapped then (s.freeFrame f).freeFrame g
      else (s.copyFrame f g).modFrame f fun x => { x with spare := some g })
  ∧ (∀ s : State, s.ev.hport < 2 → s.dieAnswers 8 0x400030 = true → s.ev.v.extractLsb' 43 21 = 0 → s.ev.v.extractLsb' 1 15 = 0 →
      s.ev.v.getLsbD 0 = true →
    exec .fretGo s = .next (s.retireFrame (s.ev.v.extractLsb' 16 27).toNat 3))
  ∧ (∀ s : State, s.ev.hport < 2 → s.dieAnswers 8 0x400028 = true → s.ev.v.extractLsb' 43 21 = 0 → s.ev.v.extractLsb' 12 4 = 0 →
    let g := (s.ev.v.extractLsb' 16 27).toNat
    exec .sparePush s = .next (if s.cn.spares.length < 4095 then
      { s with cn := { s.cn with
        spares := s.cn.spares ++ [g], mapped := if s.frameMapped g then s.cn.mapped ++ [g] else s.cn.mapped } } else s))

/-- R427, R428, R430, R431, R453: a die without a link, or with a fatal error, is lost; the census of a lost crown builds its half of the
directory from the surviving C-dies' lines and ends with its record; a reading of temperature throttles or ends the throttle, and 2^20
clk above TCRIT resets the die; a reading of power throttles or ends the throttle, and 25,000,000 clk above LIMIT throttle the more. What
a lost die takes with it is read by inference (log 35). -/
def Obligations.DieAndPowerRows : Prop :=
  (∀ s : State, s.ev.die < 14 → (s.die s.ev.die).lost = false →
    s.ev.flag = true ∨ (∀ n ∈ linksOf s.ev.die, (s.link n).failed = true) →
    exec .dieLoss s = .next (s.loseDie s.ev.die false))
  ∧ (∀ (s : State) t, s.ev.die = 8 ∨ s.ev.die = 9 → (s.die (17 - s.ev.die)).lost = false →
    (s.die s.ev.die).census = some t →
    let k := s.ev.die - 8
    let rs := (upTo 8).flatMap fun i => if (s.die i).lost then [] else
      ((s.die i).cache.lines.filter fun l => l.st != .si && l.st != .ro && pkgDir l.ln == .package k).map
        fun l => (l.ln, Holder.l2 i, l.st == .e || l.st == .m, l.st == .o)
    let lines := distinct (rs.map (·.1))
    let rest := s.dirs.filter fun (x : DirRef × DirEntry) => x.1 != DirRef.package k
    let u : State := { s with dirs := lines.map (fun l => (DirRef.package k, censusEntry s.clk rs l)) ++ rest }
    let v := (s.dirs.flatMap fun x => if x.1 = .package k then x.2.queue else []).foldl (fun s r => s.dirAsk (.package k) r)
      (u.modDie s.ev.die fun x => { x with census := none })
    exec .census s = .next (v.event { kind := 10, die := s.ev.die, info := v.clk - t, aux := lines.length }))
  ∧ (∀ s : State, s.ev.die < 14 → (16 * (s.die s.ev.die).twarn : Int) < s.ev.temp.toInt →
    let u := s.modDie s.ev.die fun x => { x with
      montemp := s.ev.temp.toNat, throttled := true
      critSince := if (16 * x.tcrit : Int) < s.ev.temp.toInt then some (x.critSince.getD s.clk) else none }
    exec .thermalThrottle s = .next (if (s.die s.ev.die).throttled then u
      else u.event { kind := 21, die := s.ev.die, aux := s.ev.temp.toNat }))
  ∧ (∀ s : State, s.ev.die < 14 → s.ev.temp.toInt ≤ (16 * (s.die s.ev.die).twarn : Int) →
    exec .thermalThrottleEnd s = .next (s.modDie s.ev.die fun x => { x with
      montemp := s.ev.temp.toNat, throttled := false, critSince := none }))
  ∧ (∀ s : State, s.ev.die < 14 → (s.die s.ev.die).lost = false →
    ((s.die s.ev.die).critSince.any fun t => decide (t + 1048576 ≤ s.clk)) = true →
    exec .thermalReset s = .next (s.loseDie s.ev.die true))
  ∧ (∀ s : State, let w := s.ev.size % 65536
    (s.pwrLimit < w → exec .powerThrottle s = .next { s with power := w, thr := true, thrSince := if s.thr then s.thrSince else s.clk })
    ∧ (w ≤ s.pwrLimit → exec .powerThrottleEnd s = .next { s with power := w, thr := false, thrDeep := false }))
  ∧ (∀ s : State, s.thr = true → s.thrSince + 25000000 ≤ s.clk → exec .powerThrottleDeep s = .next { s with thrDeep := true })

/-! ### The attestation engine and the host -/

/-- R391, R429, R434 to R443, R449: the package start attests brim[0]; a die whose reset has ended is measured in its turn, and the
root's checks make it Attested or Quarantined; keys drawn for a die link go to both directions, and a port's come from its session; a
rollover starts where it is due, its completion puts the new key in use, and one unanswered for 2^24 clk is abandoned; a Keyed die zeroes
its stack or trains its far memory; a reset of one die alone counts as its loss. READY, the two rows of a rollover and records are the
model's (log 64, log 65, log 66, log 67). -/
def Obligations.AttestationRows : Prop :=
  (∀ s : State, s.ev.flag = true → (s.die 10).attested.st = 0 →
    exec .packageStart s = .next (({ s with anchok := true } : State).modDie 10 fun x => { x with attested := { x.attested with st := 2 } }))
  ∧ (∀ s : State, let d := s.ev.die
    let a := (s.die d).attested
    s.anchok = true → d ∈ measureOrder → a.st = 0 →
    (a.nrst = 0 ∧ s.turnToMeasure d = true) ∨ (a.nrst ≠ 0 ∧ (8 ≤ d ∨ (s.die d).zeroed = true)) →
    exec .dieMeasurement s = .next (s.modDie d fun x => { x with attested := { x.attested with st := 1, why := a.why } }))
  ∧ (∀ s : State, let d := s.ev.die
    let a := (s.die d).attested
    s.anchok = true → d ∈ measureOrder → a.st = 1 →
    (s.ev.measured = .accepted →
      exec .dieMeasurement s = .next (s.modDie d fun x => { x with attested := { x.attested with st := 2, why := a.why } }))
    ∧ (s.ev.measured ≠ .accepted →
      exec .dieMeasurement s = .next ((s.modDie d fun x => { x with attested := { x.attested with st := 4, why := match s.ev.measured with
          | .accepted => 0
          | .certificate => 1
          | .firmware => 2
          | .measurement => 3
          | .session => 4 } }).modDie d fun x => { x with lost := true })))
  ∧ (∀ s : State, let d := s.ev.die
    d < 8 → (s.die d).attested.st = 0 → (s.die d).attested.nrst ≠ 0 → (s.die d).zeroed = false →
    exec .stackZeroing s = .next (s.zeroStack d))
  ∧ (∀ (s : State) d a, d * 51539607552 ≤ s.home a → s.home a < (d + 1) * 51539607552 → (s.zeroStack d).peek a = 0)
  ∧ (∀ (s : State) d a, d * 51539607552 ≤ a → a < (d + 1) * 51539607552 → (s.zeroStack d).poison.contains (a / 128) = false)
  ∧ (∀ s : State, let d := s.ev.die
    d < 14 → (s.die d).attested.st = 3 → (s.die d).zeroed = false →
    let u := if d < 8 then s.zeroStack d else s.modDie d fun x => { x with zeroed := true, farOk := decide (10 ≤ d) && s.ev.flag }
    let v : State := { u with ready := u.ready || (upTo 14).all u.startDone }
    exec .dieStart s = .next (if v.hstat = s.hstat then v else v.raiseV 2))
  ∧ (∀ (s : State) n, s.ev.lref = .die n → n < 21 → (s.link n).failed = false → (s.link n).keyed = false →
    (∀ d, d = (linkEnds n).1 ∨ d = (linkEnds n).2 → (s.die d).attested.st = 2 ∨ (s.die d).attested.st = 3) →
    exec .keyInstall s = .next ((s.keyLink n).hstatFrom s))
  ∧ (∀ (s : State) n h0 h1, (s.link n).dirs = [h0, h1] →
    let k (i : Nat) : KeySlot := { key := Config.rootKey (s.keysDrawn + i), salt := Config.rootSalt (s.keysDrawn + i) }
    s.keyLink n = (((({ s with keysDrawn := s.keysDrawn + 2 } : State).setLink n { s.link n with
      dirs := [h0.firstKey (k 0) s.clk, h1.firstKey (k 1) s.clk] }).tryKeyed (linkEnds n).1).tryKeyed (linkEnds n).2))
  ∧ (∀ (s : State) p, s.ev.lref = .port p → p < 64 → (s.port p).st = .attest → s.ev.measured = .accepted →
    let n := s.keysDrawn
    exec .keyInstall s = .next (({ s with keysDrawn := n + 1 } : State).modPort p fun x => { x with
      st := .up, since := s.clk
      ch := { Chan.init with
        wire := (s.port p).ch.wire, txKeys := [some (slotOf (Config.sessionKey n 0 true)), none]
        rxKeys := [some (slotOf (Config.sessionKey n 0 false)), none], lastKey := s.clk, ackClk := s.clk, session := n } }).sendWaiting)
  ∧ (∀ (s : State) p, s.ev.lref = .port p → p < 64 → (s.port p).st = .attest → s.ev.measured ≠ .accepted →
    exec .keyInstall s = .next (s.failPort p))
  ∧ (∀ (s : State) n h0 h1, s.ev.lref = .die n → n < 21 → s.linkOk n = true → (s.link n).dirs = [h0, h1] →
    s.rollDue h0 = true → s.rollDue h1 = true → s.turnToRoll n = true →
    let k (i : Nat) : KeySlot := { key := Config.rootKey (s.keysDrawn + i), salt := Config.rootSalt (s.keysDrawn + i) }
    exec .keyRollover s = .next (({ s with keysDrawn := s.keysDrawn + 2 } : State).setLink n { s.link n with
      dirs := [h0.startRoll (k 0) (k 0) s.clk, h1.startRoll (k 1) (k 1) s.clk] }))
  ∧ (∀ (s : State) p slot k at_, s.ev.lref = .port p → p < 64 → (s.port p).st = .up → (s.port p).ch.roll = some (slot, k, at_) →
    let x := s.port p
    exec .keyRollover s = .next (s.setPort p { x with ch := { x.ch with
      txKeys := Machine.setAt x.ch.txKeys (1 - x.ch.txKi) (some k), txKi := 1 - x.ch.txKi, txEpoch := 0, roll := none
      lastKey := s.clk } }))
  ∧ (∀ (s : State) p slot k at_, s.ev.lref = .port p → p < 64 → (s.port p).ch.roll = some (slot, k, at_) →
    ((s.port p).ch.roll.any fun r => decide (r.2.2 + 16777216 ≤ s.clk)) = true →
    let x := s.port p
    exec .rolloverAbandon s = .next (s.setPort p { x with ch := { x.ch with
      rxKeys := if slot = x.ch.rxKi then x.ch.rxKeys else Machine.setAt x.ch.rxKeys slot none, roll := none
      lastKey := x.ch.lastKey + 2 ^ s.keyint } }))
  ∧ (∀ s : State, let d := s.ev.die
    let v := s.ev.v.toNat
    d < 14 → v / 4096 % 2 = 1 → s.ev.hport < 2 → s.dieAnswers 10 (0x600000 + 8 * d) = true →
    (v &&& 0xFFFFFFFF0000E0F8 ≠ 0 → exec .atdieRst s = .next (s.reject s.ev.hport 1 (10 * 2 ^ 32 + (0x600000 + 8 * d)) 8 false))
    ∧ (v &&& 0xFFFFFFFF0000E0F8 = 0 → d = 10 ∨ (s.die d).attested.st ≤ 1 → exec .atdieRst s = .next s)
    ∧ (v &&& 0xFFFFFFFF0000E0F8 = 0 → d ≠ 10 → 2 ≤ (s.die d).attested.st →
        exec .atdieRst s = .next (if (s.die d).attested.st = 4 then (s.resetDie d).hstatFrom s else s.loseDie d true)))

/-- R412, R442, R444 to R454: a host read answers with the bytes of its range, or with poison (no bytes) before READY and of poisoned
lines; a host write stores its bytes and lifts the poison of whole lines; both take their lines from the directory; an access to the
register window reads or writes the register, or is turned away with its cause, HIERR holding the first; posted words fill a record
buffer; SPDM requests are answered by the root, and the management controller reads registers and writes PWRCTL. HIERR of CXL.mem and an
empty reply are read by inference (log 69), copies in caches as log 54 says, registers kept by crown[1] as log 83, waiting accesses as
log 87; answers are free (log 8). -/
def Obligations.HostRows : Prop :=
  (∀ s u : State, let e := s.ev
    e.hport < 2 → e.flag = false → hdmOk e.pa e.size = true → (s.hport e.hport).waits = [] → s.ready = true → s.absent e.pa = false →
    (s.hostLines e.pa e.size false = (true, u) → let t := u.linesCleaned e.pa e.size
      exec .cxlMemRead s = .next (t.modHPort e.hport fun h => { h with
        replies := h.replies ++ [if t.badAt e.pa e.size then [] else t.peekN e.pa e.size] }))
    ∧ (s.hostLines e.pa e.size false = (false, u) →
      exec .cxlMemRead s = .next (u.modHPort e.hport fun h => { h with waits := h.waits ++ [{ pa := e.pa, size := e.size, data := none }] })))
  ∧ (∀ s u : State, let e := s.ev
    let n := e.bytes.length
    e.hport < 2 → e.flag = false → hdmOk e.pa n = true → (s.hport e.hport).waits = [] → s.ready = true → s.absent e.pa = false →
    (s.hostLines e.pa n true = (true, u) →
      let t := (linesOf e.pa n).foldl (fun s ln => (s.lineTaken ln).dirLeave (pkgDir ln) ln .host) u
      exec .cxlMemWrite s = .next (((t.clearPoison e.pa n).pokeN e.pa e.bytes).upsetHoods e.pa n))
    ∧ (s.hostLines e.pa n true = (false, u) →
      exec .cxlMemWrite s = .next (u.modHPort e.hport fun h => { h with waits := h.waits ++ [{ pa := e.pa, size := 0, data := some e.bytes }] })))
  ∧ (∀ (s : State) ln x, s.hostLines (128 * ln) 128 x = (s.setExport 14 ln).dirServe (pkgDir ln) ln .host x)
  ∧ (∀ s u : State, let e := s.ev
    ∀ a rest, e.hport < 2 → e.flag = true → (s.hport e.hport).waits = a :: rest → s.hostAccess e.hport a = (true, u) →
    exec .cxlMemRead s = .next (u.modHPort e.hport fun h => { h with waits := h.waits.drop 1 })
    ∧ exec .cxlMemWrite s = .next (u.modHPort e.hport fun h => { h with waits := h.waits.drop 1 }))
  ∧ (∀ s : State, let e := s.ev
    e.hport < 2 → e.flag = false → hdmOk e.pa e.size = true → (s.hport e.hport).waits = [] → s.ready = false →
    let t := s.modHPort e.hport fun h => { h with replies := h.replies ++ [[]] }
    exec .cxlMemRead s = .next (t.free.2.reject e.hport 3 (t.free.1.toNat % 2 ^ 36) 0 false))
  ∧ (∀ s : State, let e := s.ev
    e.hport < 2 → e.flag = false → hdmOk e.pa e.bytes.length = true → (s.hport e.hport).waits = [] → s.ready = false →
    exec .cxlMemWrite s = .next (s.free.2.reject e.hport 3 (s.free.1.toNat % 2 ^ 36) 0 false))
  ∧ (∀ (s : State) a, let e := s.ev
    e.hport < 2 → e.flag = false → e.off < 68719476736 → e.size = 8 → e.off % 8 = 0 →
    (e.off / 4294967296 < 14 → s.dieAnswers (e.off / 4294967296) (e.off % 4294967296) = true) →
    (e.write = none → s.regAt (e.off / 4294967296) (e.off % 4294967296) 0 = some a →
      exec .registerWrite s = .next (s.hostReply e.hport a.val))
    ∧ (∀ v, e.write = some v → s.regAt (e.off / 4294967296) (e.off % 4294967296) v.toNat = some a →
      exec .registerWrite s = .next (if v.toNat &&& a.res = 0 then a.put s else s.reject e.hport 1 e.off 8 false)))
  ∧ (∀ s : State, let e := s.ev
    let d := e.off / 4294967296
    e.hport < 2 → e.flag = false → e.off < 68719476736 → e.size = 8 → e.off % 8 = 0 →
    (d < 14 → s.dieAnswers d (e.off % 4294967296) = false → exec .registerWrite s = .next (s.reject e.hport 3 e.off 8 e.write.isNone))
    ∧ (14 ≤ d → exec .registerWrite s = .next (s.reject e.hport 4 e.off 8 e.write.isNone)))
  ∧ (∀ s : State, let e := s.ev
    e.hport < 2 → e.flag = false → e.off < 68719476736 → e.size ≠ 8 ∨ e.off % 8 ≠ 0 →
    exec .registerWrite s = .next (s.reject e.hport 2 e.off e.size e.write.isNone))
  ∧ (∀ (s : State) v, let e := s.ev
    e.hport < 2 → e.flag = true → e.off < 4194304 → e.write = some v → e.size = 8 → e.off % 8 = 0 → e.off % 4096 < 120 →
    exec .registerWrite s = .next (s.modHPort e.hport fun h => { h with
      bufs := h.bufs.put (e.off / 4096) (overlayAt (h.buf (e.off / 4096)) (e.off % 4096) (toBytes 8 v.toNat)) }))
  ∧ (∀ (s : State) p c off n r, (s.hport p).hierrV = true →
    s.reject p c off n r = s.modHPort p fun h => if r then { h with replies := h.replies ++ [List.replicate n 255] } else h)
  ∧ (∀ (s : State) p c off n, (s.hport p).hierrV = false →
    s.reject p c off n false = s.modHPort p fun h => { h with hierrV := true, hierrCause := c, hierrOff := off })
  ∧ (∀ s : State, s.anchok = true →
    exec .doeSpdmRequest s = .next { s with doe := s.doe ++ [Config.spdmAnswer s.fresh s.ev.bytes], fresh := s.fresh + 1 })
  ∧ (∀ (s : State) b rest, s.ev.bytes = b :: rest →
    exec .mctpRequest s = .next { s with mctp := s.mctp ++ [Config.spdmAnswer s.fresh s.ev.bytes], fresh := s.fresh + 1 })
  ∧ (∀ (s : State) v, s.ev.bytes = [] → s.ev.write = some v → s.ev.off = 42957013008 → 1500 ≤ v.toNat → v.toNat ≤ 4200 →
    exec .mctpRequest s = .next { s with pwrLimit := v.toNat })
  ∧ (∀ (s : State) a, s.ev.bytes = [] → s.ev.write = none → s.regAt (s.ev.off / 4294967296) (s.ev.off % 4294967296) 0 = some a →
    mctpReads (s.ev.off % 4294967296) = true → s.ev.off % 8 = 0 →
    exec .mctpRequest s = .next { s with mctp := s.mctp ++ [toBytes 8 a.val] })

/-! ### Where the rows of cores and links complete -/

/-- R177 to R187, R163, R164, R190 to R198, R351, R380: a result that is ready reaches its register and closes its window; a draw puts
the group in a free slot, a stray thread in slot 7, an overdue batt's in the pending set; a ready group is selected and the walk goes on
behind it; a swap puts the ready group in the slot and the other in the pending set; an ended hold is 0, an ended sleep files its thread,
a line that arrives is awaited no more; a replay, a window's end, a silent error and a mismatch count as the registers say; MGN_CTL and
MGN_LIMIT are written, QUAR cleared, and the logical map leaves the disabled rows out. R18 to R20, R426: a data flit in order joins its
group, a tag flit that verifies gives the group's payloads on, control and idle flits leave the receiver as it was; a replay sends what
is kept once more, an open group is sealed, and an entry is built again. Ties among groups, what a link keeps and the traffic as an
operand are the model's (log 29, log 31, log 48). -/
def Obligations.CoreAndLinkRowsComplete : Prop :=
  ((∀ (s : State) t w r v, s.away s.ev.team = false → s.thread? s.ev.team s.ev.tid = some t → t.wins = [w] → w.id = s.ev.win →
     w.kind = .alu → w.ready = true → w.late = none → w.regs = [(r, v)] → w.preds = [] → s.ev.only = none → t.st = .running →
     t.trap = none → t.entry = none → r < t.regs.length →
     ∃ u x, exec .longLatencyResult s = .next u ∧ u.thread? s.ev.team s.ev.tid = some x ∧ x.reg r = v ∧ x.wins = []
       ∧ x.flags = t.flags ||| w.flags.setWidth 32)
   ∧ (∀ (s : State) n b i rest, let c := s.ev.core
     (s.core c).pending = [] → s.battToDraw c (fun _ => true) = some (n, b) → (s.core c).freeSlots = i :: rest →
     ∃ u, exec .cardingDraw s = .next u ∧ (u.core c).active.find i = some (s.drawFrom c b).1 ∧ (u.core c).overdueSince = none)
   ∧ (∀ (s : State) b m rest, let c := s.ev.core
     (s.core c).batts.find 63 = some b → (s.core c).active.find 7 = none → b.members.filter (fun m => decide (m.hold ≤ s.clk)) = m :: rest →
     ∃ u g, exec .strayDraw s = .next u ∧ (u.core c).active.find 7 = some g ∧ g.team = m.team ∧ g.lanes = [(0, m.tid)] ∧ g.stray = true)
   ∧ (∀ (s : State) i g, let c := s.ev.core
     c < 128 → s.issueClk c = true → (s.core c).active = [(i, g)] → (s.core c).pending = [] → i < 8 → (s.core c).rr = i →
     g.notBefore ≤ s.clk → g.quarters ≤ 4 → s.groupReady c g = true →
     exec .issue s = .next { (s.modCore c fun k => { k with rr := (i + 1) % 8 }) with issueQ := s.issueQ ++ [(c, i)] })
   ∧ (∀ (s : State) t g rest n b, let c := s.ev.core
     (s.core c).overdueSince = some t → sortBy (·.drawn) (s.core c).pending = g :: rest → t + 16 ≤ s.clk → (s.core c).freeSlots = [] →
     56 ≤ (s.core c).pending.length → s.battToDraw c (fun b => b.isOverdue (s.core c).ageLimit s.clk) = some (n, b) →
     ∃ u, exec .overdueDraw s = .next u ∧ (s.drawFrom c b).1 ∈ (u.core c).pending ∧ (u.core c).overdueSince = none)
   ∧ (∀ (s : State) g t p, let c := s.ev.core
     (s.core c).active.find s.ev.slot = some g → g.stray = false → g.stall = some t → t + 4 ≤ s.clk → s.readyPending c = some p →
     ∃ u, exec .stallSwap s = .next u ∧ { g with latch := [], since := s.clk, stall := none } ∈ (u.core c).pending
       ∧ (u.core c).active.find s.ev.slot = some { p with since := s.clk, notBefore := s.clk + 2, stall := none })
   ∧ (∀ (s : State) i g p, let c := s.ev.core
     (s.core c).active = [(i, g)] → g.stray = false → s.readyPending c = some p → s.clk % 8 = 0 → p.since + 8 ≤ s.clk →
     ∃ u, exec .rotationSwap s = .next u ∧ { g with latch := [], since := s.clk, stall := none } ∈ (u.core c).pending
       ∧ (u.core c).active.find i = some { p with since := s.clk, notBefore := s.clk + 2, stall := none })
   ∧ (∀ (s : State) n b m, let c := s.ev.core
     (s.core c).batts = [(n, b)] → b.members = [m] → m.team = s.ev.team → m.tid = s.ev.tid → m.hold ≤ s.clk →
     ∃ u, exec .yieldHoldEnd s = .next u ∧ (u.core c).batts = [(n, { b with members := [{ m with hold := 0 }] })])
   ∧ (∀ (s : State) tm t w till, s.team? s.ev.team = some tm → tm.resident = true → s.thread? s.ev.team s.ev.tid = some t →
     t.st = .parked → t.wait ≠ 6 → t.wins = [w] → w.wait = some (.sleep till) → till ≤ s.clk → w.regs = [] → w.late = none → t.entry = none →
     ∃ u x, exec .sleepEnd s = .next u ∧ u.thread? s.ev.team s.ev.tid = some x ∧ x.st = .filed ∧ x.wins = [])
   ∧ (∀ (s : State) i g, let c := s.ev.core
     (s.core c).active = [(i, g)] → g.awaits = [(s.ev.block, s.ev.reg)] →
     ∃ u, exec .registerCacheFill s = .next u ∧ (u.core c).active = [(i, { g with awaits := [] })])
   ∧ (∀ s : State, let c := s.ev.core
     c < 128 → (s.core c).cnt < (s.core c).limit → (s.core c).cnt < 65535 →
     exec .replay s = .next (s.modCore c fun k => { k with clock := k.clock + 2, cnt := k.cnt + 1 }))
   ∧ (∀ s : State, let c := s.ev.core
     c < 128 → (s.core c).wlen = 0 → (s.core c).winStart + 1048576 ≤ s.clk → (s.core c).relax = 0 →
     exec .marginWindowEnd s = .next (s.modCore c fun k =>
       { k with cnt := 0, winStart := s.clk, serrWin := 0, cleanWins := if 4 * k.cnt ≤ k.limit then k.cleanWins + 1 else 0 }))
   ∧ (∀ (s : State) i, let c := s.ev.core
     s.ev.tids = [i] → s.onCore c s.ev.team i = true → s.ev.flag = false → (s.core c).serrWin < 3 →
     ∃ u x t, exec .silentError s = .next u ∧ s.thread? s.ev.team i = some t ∧ u.thread? s.ev.team i = some x ∧ x.pc = t.rpc
       ∧ (u.core c).serr = min ((s.core c).serr + 1) 255)
   ∧ (∀ s : State, let c := s.ev.core
     c < 128 → s.ev.hport < 2 → (s.die (c / 16)).attested.st = 3 →
     (s.ev.v = 0x20013 → exec .mgnCtlWrite s = .next (s.modCore c fun k =>
       { k with wlen := 2, en := true, target := 3, cur := min k.cur 3 }))
     ∧ (s.ev.v = 0x1000 → (s.core c).quar = true → exec .quarantineClear s = .next (s.modCore c fun k =>
       { k with wlen := 0, en := false, target := 0, cur := 0, quar := false, cnt := 0, cleanWins := 0, winStart := s.clk, serrWin := 0 }))
     ∧ (s.ev.v = 0x040064 → exec .mgnLimitWrite s = .next (s.modCore c fun k => { k with relax := 4, limit := 100 })))
   ∧ (∀ (s : State) o tm, let c := s.ev.core
     (s.core c).matq = [o] → o.id = s.ev.req → o.started = true → s.team? o.team = some tm → o.checked tm = true →
     (s.core c).serrWin < 3 →
     ∃ u, exec .checksumMismatch s = .next u ∧ (u.core c).serr = min ((s.core c).serr + 1) 255
       ∧ (u.core c).rowErrs.get s.ev.row 0 = (s.core c).rowErrs.get s.ev.row 0 + 1)
   ∧ (∀ s : State, let c := s.ev.core
     (s.core c).matq = [] → (s.core c).draining = false → (∀ e ∈ s.teams, e.2.lr.mx = false) →
     ∃ u, exec .logicalMapRebuild s = .next u ∧ (u.core c).rowMap = (s.core c).badRows))
  ∧ ((∀ s rx tx x, DieFlit s 0 rx tx x → x.seq = rx.rxSeq → x.seq % 16 ≠ 15 → x.nak = false →
       ∃ u h, exec .dieLinkDataFlit s = .next u ∧ (u.link s.ev.link).dirs[s.ev.dir]? = some h ∧ h.rxSeq = (x.seq + 1) % 16777216
         ∧ h.group = rx.group ++ [{ seq := x.seq, type := 0, ki := x.ki, payload := x.payload }] ∧ h.delivered = rx.delivered)
     ∧ (∀ s rx tx x k p, DieFlit s 1 rx tx x → x.seq = rx.rxSeq → x.seq % 16 = 15 → x.nak = false → x.ki = rx.rxKi →
       (∀ y ∈ rx.group, y.ki = x.ki) → rx.rxKeys.getD rx.rxKi none = some k →
       dieFmt.open k rx.rxEpoch (x.seq - 15) rx.rxKi rx.group x.payload = some p →
       ∃ u h, exec .dieLinkTagFlit s = .next u ∧ (u.link s.ev.link).dirs[s.ev.dir]? = some h ∧ h.group = []
         ∧ h.delivered = rx.delivered ++ p)
     ∧ (∀ s rx tx x, DieFlit s 2 rx tx x → x.nak = false →
       ∃ u, exec .dieLinkControlFlit s = .next u ∧ (u.link s.ev.link).dirs[s.ev.dir]? = some rx
         ∧ (u.link s.ev.link).dirs[1 - s.ev.dir]? = some (tx.acked dieFmt s.clk x.ack))
     ∧ (∀ s rx tx x, DieFlit s 3 rx tx x → x.nak = true →
       ∃ u h, exec .dieLinkIdleFlit s = .next u ∧ (u.link s.ev.link).dirs[s.ev.dir]? = some rx
         ∧ (u.link s.ev.link).dirs[1 - s.ev.dir]? = some h ∧ h.replay = some x.ack)
     ∧ (∀ (s : State) tx rx a, s.ev.link < 21 → s.ev.dir < 2 → s.linkOk s.ev.link = true → (s.link s.ev.link).dirs[s.ev.dir]? = some tx →
       (s.link s.ev.link).dirs[1 - s.ev.dir]? = some rx → tx.replay = some a → tx.nakAt = none →
       ∃ u h, exec .dieLinkReplay s = .next u ∧ (u.link s.ev.link).dirs[s.ev.dir]? = some h ∧ h.replay = none ∧ h.kept = tx.kept ∧ h.fails = 0
         ∧ h.wire = tx.wire ++ (tx.kept.filter fun x => dieFmt.after a x.seq).map (dieFmt.wireOf rx.rxSeq))
     ∧ (∀ (s : State) tx rx, s.ev.link < 21 → s.ev.dir < 2 → s.linkOk s.ev.link = true → (s.link s.ev.link).dirs[s.ev.dir]? = some tx →
       (s.link s.ev.link).dirs[1 - s.ev.dir]? = some rx → (s.die (linkEnds s.ev.link).1).attested.st = 3 →
       (s.die (linkEnds s.ev.link).2).attested.st = 3 → tx.open_ = [] → tx.maySeal dieFmt = true → s.ev.bytes ≠ [] →
       s.ev.bytes.length < 15 * dieFmt.pay →
       ∃ u h, exec .dieLinkOpenGroup s = .next u ∧ (u.link s.ev.link).dirs[s.ev.dir]? = some h ∧ h.open_ = []
         ∧ h.txSeq = (tx.txSeq + 16) % 16777216)
     ∧ (∀ (s : State) e, s.dirFind s.ev.dref (lineOf s.ev.pa) = some e → e.poisonPend = true → e.queue = [] → e.holders = [] → e.owner = none →
       (s.die 8).census = none → (s.die 9).census = none →
       ∃ u f, exec .entryRebuild s = .next u ∧ u.dirFind s.ev.dref (lineOf s.ev.pa) = some f ∧ f.poisonPend = false ∧ f.st = .i ∧ f.holders = []))
end

