-- ==== Sys2Proof/Laws/Tbl.lean ====
section
/-! SUPPORT. Laws of sparse tables. -/

namespace Sys2Proof.Machine.Tbl

variable {α : Type}

theorem find_put (t : Tbl α) (k : Nat) (x : α) (j : Nat) : (t.put k x).find j = if k = j then some x else t.find j := by
  induction t with
  | nil => simp [put, find]
  | cons e r ih =>
    obtain ⟨i, y⟩ := e
    unfold put
    split
    · by_cases h : k = j <;> simp [find, h]
    · split
      · next h => subst h; by_cases hj : i = j <;> simp [find, hj]
      · next h =>
        by_cases hi : i = j
        · subst hi; simp [find, Ne.symm h]
        · simp [find, hi, ih]

@[simp] theorem find_put_self (t : Tbl α) (k : Nat) (x : α) : (t.put k x).find k = some x := by simp [find_put]

theorem find_put_ne (t : Tbl α) {k j : Nat} (x : α) (h : k ≠ j) : (t.put k x).find j = t.find j := by simp [find_put, h]

@[simp] theorem find_mapKV (f : Nat → α → α) (t : Tbl α) (k : Nat) : (t.mapKV f).find k = (t.find k).map (f k) := by
  induction t with
  | nil => rfl
  | cons e r ih =>
    obtain ⟨i, y⟩ := e
    have hm : mapKV f ((i, y) :: r) = (i, f i y) :: mapKV f r := rfl
    rw [hm, find, find]
    by_cases h : i = k
    · subst h; simp
    · simp [h, ih]

theorem get_put (t : Tbl α) (k : Nat) (x : α) (j : Nat) (d : α) : (t.put k x).get j d = if k = j then x else t.get j d := by
  unfold get; rw [find_put]; split <;> rfl

@[simp] theorem get_put_self (t : Tbl α) (k : Nat) (x d : α) : (t.put k x).get k d = x := by simp [get_put]

theorem find_drop (t : Tbl α) (k j : Nat) : (t.drop k).find j = if k = j then none else t.find j := by
  induction t with
  | nil => simp [drop, find]
  | cons e r ih =>
    obtain ⟨i, y⟩ := e
    have hd : drop ((i, y) :: r) k = if i = k then drop r k else (i, y) :: drop r k := by
      by_cases h : i = k <;> simp [drop, h]
    rw [hd]
    by_cases h : i = k
    · subst h; rw [if_pos rfl, ih]
      by_cases hj : i = j <;> simp [find, hj]
    · rw [if_neg h]
      by_cases hi : i = j
      · subst hi; simp [find, Ne.symm h]
      · simp [find, hi, ih]

end Sys2Proof.Machine.Tbl
end

