-- ==== Sys2Proof/Laws/Seq.lean ====
section
/-! SUPPORT. The sequencer's moves leave every register, team and byte of memory as they were: filing threads, and a group's
parts after an instruction. -/

namespace Sys2Proof.Machine

namespace State

theorem SeqOnly.refl (s : State) : s.SeqOnly s := ⟨rfl, fun _ => rfl, fun _ => rfl⟩

theorem SeqOnly.trans {a b c : State} (h : a.SeqOnly b) (k : b.SeqOnly c) : a.SeqOnly c := by
  obtain ⟨h1, h2, h3⟩ := h
  obtain ⟨k1, k2, k3⟩ := k
  refine ⟨?_, fun n => (k2 n).trans (h2 n), fun n => (k3 n).trans (h3 n)⟩
  rw [k1, h1]

theorem core_setCore (s : State) (c : Nat) (k : Core) (n : Nat) : (s.setCore c k).core n = if c = n then k else s.core n := by
  unfold core setCore
  by_cases h : c = n
  · subst h; simp
  · simp [Tbl.get_put, h]

/-- The same moves from a state whose threads are found the same. -/
theorem SeqOnly.congr {u v t : State} (h : u.SeqOnly t) (hv : v = { u with threads := v.threads })
    (hf : ∀ k, v.threads.find k = u.threads.find k) : v.SeqOnly t := by
  obtain ⟨h1, h2, h3⟩ := h
  refine ⟨?_, fun k => by rw [hf]; exact h2 k, fun n => ?_⟩
  · rw [hv]; exact h1
  · have : v.core n = u.core n := by rw [hv]; rfl
    rw [this]; exact h3 n

/-- A core replaced by one that differs only in the sequencer's sets. -/
theorem SeqOnly.setCore (s : State) (c : Nat) (k : Core) (h : k.bare = (s.core c).bare) : s.SeqOnly (s.setCore c k) := by
  refine ⟨rfl, fun _ => rfl, fun n => ?_⟩
  rw [core_setCore]
  split
  · next e => subst e; exact h
  · rfl

theorem SeqOnly.modCore (s : State) (c : Nat) (f : Core → Core) (h : ∀ k, (f k).bare = k.bare) : s.SeqOnly (s.modCore c f) :=
  .setCore s c _ (h _)

/-- A thread replaced by one that differs only in STATE and WAIT. -/
theorem SeqOnly.modThread (s : State) (team tid : Nat) (f : Thread → Thread) (h : ∀ t, (f t).bare = t.bare) :
    s.SeqOnly (s.modThread team tid f) := by
  unfold State.modThread
  split
  · next t ht =>
    refine ⟨rfl, fun k => ?_, fun _ => rfl⟩
    simp only [Tbl.find_put]
    split
    · next e => subst e; simp [ht, h]
    · rfl
  · exact .refl s

theorem SeqOnly.foldl {α : Type} (f : State → α → State) (h : ∀ (s : State) (x : α), s.SeqOnly (f s x)) (l : List α) (s : State) :
    s.SeqOnly (l.foldl f s) := by
  induction l generalizing s with
  | nil => exact .refl s
  | cons x r ih => exact (h s x).trans (ih _)

theorem fileRaw_seqOnly (s : State) (team tid hold : Nat) : s.SeqOnly (s.fileRaw team tid hold) := by
  unfold fileRaw
  have h0 := SeqOnly.modThread s team tid Thread.pastKick (fun _ => rfl)
  dsimp only
  split
  · have h1 := h0.trans (.modThread (s.modThread team tid Thread.pastKick) team tid (fun t => { t with st := .filed, wait := 0 }) fun _ => rfl)
    split
    · exact h1.trans (.modCore _ _ _ fun _ => rfl)
    · exact h1
  · exact h0

theorem fileGroup_seqOnly (s : State) (g : Group) : s.SeqOnly (s.fileGroup g) :=
  .foldl _ (fun s (l : Nat × Nat) => fileRaw_seqOnly s g.team l.2 0) _ _

theorem strayRoom_seqOnly (s : State) (c : Nat) : s.SeqOnly (s.strayRoom c) := by
  unfold strayRoom
  dsimp only
  split
  · split
    · exact .refl s
    · split
      · exact .setCore s c _ rfl
      · refine SeqOnly.trans (SeqOnly.setCore s c _ ?_) (fileGroup_seqOnly _ _); rfl
  · exact .refl s

/-- A thread filed: nothing but its STATE, its WAIT and the sequencers' sets. -/
theorem file_seqOnly (s : State) (team tid hold : Nat) : s.SeqOnly (s.file team tid hold) := by
  unfold file
  split
  · split
    · exact (fileRaw_seqOnly ..).trans (strayRoom_seqOnly _ _)
    · exact fileRaw_seqOnly ..
  · exact .refl s

theorem placePart_seqOnly (s : State) (c : Nat) (g : Group) (lanes : List (Nat × Nat)) : s.SeqOnly (s.placePart c g lanes) := by
  unfold placePart
  dsimp only
  split
  · exact .setCore s c _ rfl
  · exact .foldl _ (fun s (l : Nat × Nat) => file_seqOnly s g.team l.2 0) _ _

/-- A group's parts after an instruction. -/
theorem parts_seqOnly (s : State) (c slot : Nat) (latch : List Nat) : s.SeqOnly (s.parts c slot latch) := by
  unfold parts
  dsimp only
  split
  · exact .refl s
  · split
    · refine SeqOnly.trans (SeqOnly.setCore s c _ ?_) (.foldl _ (fun s (l : Nat × Nat) => file_seqOnly s _ l.2 0) _ _); rfl
    · split
      · exact .refl s
      · split
        · exact .refl s
        · exact .setCore s c _ rfl
      · refine SeqOnly.trans (SeqOnly.setCore s c _ ?_) (.foldl _ (fun s (q : Pc × List (Nat × Nat)) => placePart_seqOnly s c _ q.2) _ _); rfl

theorem settle_seqOnly (s : State) (c slot : Nat) (latch : List Nat) : s.SeqOnly (s.settle c slot latch) :=
  (parts_seqOnly s c slot latch).trans (strayRoom_seqOnly _ _)

end State

/-- A next state after the sequencer's moves. -/
theorem Ends.settle (u : State) (c slot : Nat) (latch : List Nat) : Ends (.next (u.settle c slot latch)) u :=
  ⟨_, rfl, State.settle_seqOnly u c slot latch⟩

theorem Ends.self (u : State) : Ends (.next u) u := ⟨u, rfl, .refl u⟩

end Sys2Proof.Machine
end

