-- ==== Sys2Proof/Laws/Run.lean ====
section
/-! SUPPORT. What running an instruction on a group comes to, once: the group executes with operands below NREG, reads no poison,
and the rest is the instruction's effect on its threads. -/

namespace Sys2Proof.Machine

theorem preFault_none {tm : Team} {vs : List VOp} {p : Bool} (h : ∀ v ∈ vs, v.reg + v.n ≤ tm.lr.nreg) :
    preFault tm none vs p = none := by
  have : (vs.find? fun v => decide (tm.lr.nreg < v.reg + v.n)) = none := by
    rw [List.find?_eq_none]; intro v hv; have := h v hv; simp; omega
  unfold preFault; rw [this]

theorem preFault_priv {tm : Team} {vs : List VOp} {i : Option DWord} {p : Bool} (h : ∀ v ∈ vs, v.reg + v.n ≤ tm.lr.nreg)
    (hp : i = none ∨ p = true) : preFault tm i vs p = none := by
  have : (vs.find? fun v => decide (tm.lr.nreg < v.reg + v.n)) = none := by
    rw [List.find?_eq_none]; intro v hv; have := h v hv; simp; omega
  unfold preFault; rw [this]; rcases hp with rfl | rfl
  · rfl
  · cases i <;> rfl

theorem eatFirst_none {s : State} {g : Group} {h : Hdr} {vs : List VOp} (he : ∀ x ∈ s.laneThreads g, x.2.2.eats h vs = false) :
    s.eatFirst g h vs = none := by
  have : (s.laneThreads g).find? (fun x => x.2.2.eats h vs) = none := by
    rw [List.find?_eq_none]; intro x hx; simp [he x hx]
  unfold State.eatFirst; rw [this]; rfl

theorem runAlu_ends {h : Hdr} {len : Nat} {long : Bool} {vs : List VOp} {a : Option VReg} {f : Team → Nat → Thread → Except Flt Eff}
    {s : State} {c slot : Nat} {g : Group} {tm : Team} (hr : s.Ready c slot g tm h vs)
    (ht : ∀ x ∈ s.laneThreads g, (aluThread h len long s.nextId (f tm x.2.1) x.2.2).2 = none) :
    Ends (runAlu h len long vs a f s) (s.aluAll g h len long (f tm)) := by
  obtain ⟨h1, h2, h3⟩ := hr
  have hn : s.aluTraps g h len long (f tm) = [] := by
    unfold State.aluTraps
    rw [List.filterMap_eq_nil_iff]
    intro x hx; rw [ht x hx]; rfl
  unfold runAlu
  rw [h1]
  simp only [preFault_none h2, eatFirst_none h3, hn, List.foldl_nil]
  exact Ends.settle _ _ _ _

theorem runLive_ends {h : Hdr} {len : Nat} {priv : Option DWord} {vs : List VOp} {a : Option VReg}
    {f : Nat → Group → Team → List (Nat × Nat × Thread) → State → State} {s : State} {c slot : Nat} {g : Group} {tm : Team}
    (hr : s.Ready c slot g tm h vs) (hp : priv = none ∨ (s.ctx tm.ctx).priv = true) :
    Ends (runLive h len priv vs a f s) (f c g tm (s.liveLanes g h) (s.issueAll g len)) := by
  obtain ⟨h1, h2, h3⟩ := hr
  unfold runLive
  rw [h1]
  simp only [preFault_priv h2 hp, eatFirst_none h3]
  exact Ends.settle _ _ _ _

theorem runLanes_ends {h : Hdr} {len : Nat} {priv : Option DWord} {vs : List VOp} {a : Option VReg}
    {f : Nat → Nat → Team → Nat → Thread → State → State} {s : State} {c slot : Nat} {g : Group} {tm : Team}
    (hr : s.Ready c slot g tm h vs) (hp : priv = none ∨ (s.ctx tm.ctx).priv = true) :
    Ends (runLanes h len priv vs a f s)
      ((s.liveLanes g h).foldl (fun s x => if (s.thread? g.team x.2.1).isSome then f c g.team tm x.2.1 x.2.2 s else s)
        (s.issueAll g len)) := runLive_ends hr hp

/-- A thread of a group is one of the group's lanes. -/
theorem mem_laneThreads {s : State} {g : Group} {k : Nat} {t : Thread} (hk : k / 4096 = g.team)
    (hl : g.lanes.any (fun l => l.2 == k % 4096) = true) (ht : s.threads.find k = some t) :
    ∃ l, (l, k % 4096, t) ∈ s.laneThreads g := by
  rw [List.any_eq_true] at hl
  obtain ⟨⟨l, i⟩, hm, hi⟩ := hl
  have hi : i = k % 4096 := by simpa using hi
  subst hi
  refine ⟨l, ?_⟩
  unfold State.laneThreads
  rw [List.mem_filterMap]
  refine ⟨(l, k % 4096), hm, ?_⟩
  have : tkey g.team (k % 4096) = k := by unfold tkey; omega
  simp [State.thread?, this, ht]

theorem find_mapGroup (s : State) (g : Group) (f : Nat → Thread → Thread) (k : Nat) :
    (s.mapGroup g f).threads.find k =
      (s.threads.find k).map fun t => if k / 4096 = g.team ∧ g.lanes.any (fun l => l.2 == k % 4096) then f (k % 4096) t else t := by
  unfold State.mapGroup; simp only [Tbl.find_mapKV]

/-- One thread's part in an instruction that raises no enabled condition. -/
theorem aluThread_quiet (h : Hdr) (len : Nat) (long : Bool) (id : Nat) (f : Thread → Except Flt Eff) (e : Eff) (t : Thread)
    (hf : t.live h = true → f t = .ok e) (hq : t.live h = true → e.flags &&& t.enables = 0) :
    aluThread h len long id f t = (t.after h len long id e, none) := by
  unfold aluThread Thread.after
  by_cases hl : t.live h = true
  · simp only [hl, hf hl, Bool.not_true]
    cases long
    · have hr : ∀ (l : List (Nat × Word)) (u : Thread), (u.writeRegs l).flags = u.flags ∧ (u.writeRegs l).rngctr = u.rngctr := by
        intro l; induction l with
        | nil => intro u; exact ⟨rfl, rfl⟩
        | cons x r ih => intro u; exact ih _
      have hp : ∀ (l : List (Nat × Bool)) (u : Thread), (u.writePreds l).flags = u.flags ∧ (u.writePreds l).rngctr = u.rngctr := by
        intro l; induction l with
        | nil => intro u; exact ⟨rfl, rfl⟩
        | cons x r ih =>
          intro u
          have := ih (u.writePred x.1 x.2)
          refine ⟨this.1.trans ?_, this.2.trans ?_⟩ <;> (unfold Thread.writePred Thread.putPred; dsimp only; split <;> rfl)
      simp [hq hl, Thread.short, Thread.orFlags, hr, hp, Thread.issue]
    · have hb : (e.flags &&& (t.issue (t.pc + BitVec.ofNat 55 (4 * len))).enables != 0) = false := by
        have : (t.issue (t.pc + BitVec.ofNat 55 (4 * len))).enables = t.enables := rfl
        rw [this, hq hl]; rfl
      simp only [Thread.long, hb]
      rfl
  · simp [hl]

/-- A vector ALU instruction whose live threads raise no enabled condition. -/
theorem alu_ends {h : Hdr} {len : Nat} {long : Bool} {vs : List VOp} {a : Option VReg} {f : Team → Nat → Thread → Except Flt Eff}
    {e : Nat → Thread → Eff} {s : State} {c slot : Nat} {g : Group} {tm : Team} (hr : s.Ready c slot g tm h vs)
    (hf : ∀ i t, t.live h = true → f tm i t = .ok (e i t))
    (hq : ∀ x ∈ s.laneThreads g, x.2.2.live h = true → (e x.2.1 x.2.2).flags &&& x.2.2.enables = 0) :
    Ends (runAlu h len long vs a f s) (s.threadsDo g fun i t => t.after h len long s.nextId (e i t)) := by
  have he := runAlu_ends (h := h) (len := len) (long := long) (vs := vs) (a := a) (f := f) hr (by
    intro x hx
    rw [aluThread_quiet h len long s.nextId _ (e x.2.1 x.2.2) x.2.2 (hf _ _) (hq x hx)])
  obtain ⟨t, h1, h2⟩ := he
  refine ⟨t, h1, h2.congr rfl ?_⟩
  intro k
  simp only [State.threadsDo, State.aluAll, find_mapGroup]
  cases hk : s.threads.find k with
  | none => rfl
  | some th =>
    simp only [Option.map_some]
    split
    · next hg =>
      obtain ⟨l, hl⟩ := mem_laneThreads hg.1 hg.2 hk
      rw [aluThread_quiet h len long s.nextId _ (e (k % 4096) th) th (hf _ _) (hq _ hl)]
    · rfl

/-- What a vector ALU instruction gives, from its effect on one live thread. -/
theorem gives_of {i : Instr} {h : Hdr} {len : Nat} {long : Bool} {vs : List VOp} {e : Nat → State → Team → Nat → Thread → Eff}
    (a : Option VReg) (f : State → Team → Nat → Thread → Except Flt Eff) (hx : ∀ s, exec i s = runAlu h len long vs a (f s) s)
    (hf : ∀ s c slot g tm id t, s.curGroup = some (c, slot, g, tm) → f s tm id t = .ok (e c s tm id t)) : Gives i h len long vs e := by
  intro s c slot g tm hr hq
  rw [hx]
  exact alu_ends hr (fun id t _ => hf s c slot g tm id t hr.1) hq

/-- What an instruction does lane by lane, from its meaning and its effect on a lane, the effect said in other words. -/
theorem onLanes_of {i : Instr} {h : Hdr} {len : Nat} {priv : Bool} {vs : List VOp}
    {f f' : Nat → Nat → Team → Nat → Thread → State → State} (p : Option DWord) (a : Option VReg)
    (hx : ∀ s, exec i s = runLanes h len p vs a f s) (hp : priv = false → p = none)
    (hf : ∀ c team tm tid t s, f c team tm tid t s = f' c team tm tid t s) : OnLanes i h len priv vs f' := by
  have e : f = f' := by funext c team tm tid t s; exact hf _ _ _ _ _ _
  subst e
  intro s c slot g tm hr hq
  rw [hx]
  refine runLanes_ends hr ?_
  cases priv
  · exact .inl (hp rfl)
  · exact .inr (hq rfl)

/-- The same for an instruction with one effect on its live lanes together. -/
theorem onLive_of {i : Instr} {h : Hdr} {len : Nat} {priv : Bool} {vs : List VOp}
    {f f' : Nat → Group → Team → List (Nat × Nat × Thread) → State → State} (p : Option DWord) (a : Option VReg)
    (hx : ∀ s, exec i s = runLive h len p vs a f s) (hp : priv = false → p = none)
    (hf : ∀ c g tm live s, f c g tm live s = f' c g tm live s) : OnLive i h len priv vs f' := by
  have e : f = f' := by funext c g tm live s; exact hf _ _ _ _ _
  subst e
  intro s c slot g tm hr hq
  rw [hx]
  refine runLive_ends hr ?_
  cases priv
  · exact .inl (hp rfl)
  · exact .inr (hq rfl)

/-- The same for an instruction that waits at its issue while `waits` says so. -/
theorem onGo_of {i : Instr} {h : Hdr} {len : Nat} {vs : List VOp}
    {waits : Nat → Group → Team → List (Nat × Nat × Thread) → State → Option State}
    {go : Nat → Group → Team → List (Nat × Nat × Thread) → State → Prop}
    {f f' : Nat → Group → Team → List (Nat × Nat × Thread) → State → State} (a : Option VReg)
    (hx : ∀ s, exec i s = runWait h len vs a waits f s) (hw : ∀ c g tm live s, go c g tm live s → waits c g tm live s = none)
    (hf : ∀ c g tm live s, f c g tm live s = f' c g tm live s) : OnGo i h len vs go f' := by
  have e : f = f' := by funext c g tm live s; exact hf _ _ _ _ _
  subst e
  intro s c slot g tm hr hg
  rw [hx]
  obtain ⟨h1, h2, h3⟩ := hr
  unfold runWait runHeld
  rw [h1]
  simp only [preFault_none h2, eatFirst_none h3, hw _ _ _ _ _ hg]
  exact Ends.settle _ _ _ _

end Sys2Proof.Machine
end

