-- ==== Sys2Proof/Laws/Alu.lean ====
section
/-! SUPPORT. What the vector ALU's shared computations come to on words and pairs: narrowing, shifts, counts and bit fields. -/

namespace Sys2Proof.Machine

theorem loW_ofInt (x : Int) : loW (BitVec.ofInt 64 x) = BitVec.ofInt 32 x := by
  apply BitVec.eq_of_toNat_eq; unfold loW; simp [BitVec.toNat_ofInt]; omega

theorem loW_ofNat (x : Nat) : loW (BitVec.ofNat 64 x) = BitVec.ofNat 32 x := by
  apply BitVec.eq_of_toNat_eq; unfold loW; simp

@[simp] theorem loW_wide (x : Word) : loW (x.setWidth 64) = x := by unfold loW; simp

@[simp] theorem intOf_i32 (w : Word) : intOf .i32 (w.setWidth 64) = w.toInt := by unfold intOf; simp
@[simp] theorem intOf_n32 (w : Word) : intOf .n32 (w.setWidth 64) = (w.toNat : Int) := by unfold intOf; simp
@[simp] theorem intOf_i64 (x : DWord) : intOf .i64 x = x.toInt := rfl
@[simp] theorem intOf_n64 (x : DWord) : intOf .n64 x = (x.toNat : Int) := rfl

/-- A 32-bit result takes one register, a 64-bit one two. -/
theorem wrReg_eq (w64 : Bool) (d : VReg) (x : DWord) : wrReg w64 d x = if w64 then wr64 d.toNat x else [(d.toNat, loW x)] := rfl

/-- An exact value narrowed without SAT wraps. -/
theorem intEff_wrap (ty : IntTy) (d : VReg) (x : Int) :
    intEff ty d (narrow ty false x) =
      { regs := if ty.w64 then wr64 d.toNat (BitVec.ofInt 64 x) else [(d.toNat, BitVec.ofInt 32 x)] } := by
  simp [intEff, narrow, wrReg_eq, loW_ofInt]

/-- An exact value narrowed with SAT is clamped, and SAT is set where that changed it. -/
theorem intEff_sat (ty : IntTy) (d : VReg) (x : Int) :
    intEff ty d (narrow ty true x) =
      { regs := if ty.w64 then wr64 d.toNat (BitVec.ofInt 64 (max (intMin ty) (min x (intMax ty))))
                else [(d.toNat, BitVec.ofInt 32 (max (intMin ty) (min x (intMax ty))))]
        flags := if max (intMin ty) (min x (intMax ty)) = x then 0 else cSAT } := by
  have hle : intMin ty ≤ intMax ty := by cases ty <;> decide
  simp only [intEff, narrow, wrReg_eq]
  by_cases h1 : x < intMin ty
  · have : max (intMin ty) (min x (intMax ty)) = intMin ty := by omega
    rw [this]; simp [h1, loW_ofInt, show ¬ intMin ty = x by omega]
  · by_cases h2 : intMax ty < x
    · have : max (intMin ty) (min x (intMax ty)) = intMax ty := by omega
      rw [this]; simp [h1, h2, loW_ofInt, show ¬ intMax ty = x by omega]
    · have : max (intMin ty) (min x (intMax ty)) = x := by omega
      rw [this]; simp [h1, h2, loW_ofInt]

end Sys2Proof.Machine
end

