-- ==== Sys2Proof/Laws/Encode.lean ====
section
/-! SUPPORT. Encoding and decoding, once for all instructions: the words of fields are read back as the same fields, so that an
instruction's own part is only what its opcode's decoder makes of its fields. -/

namespace Sys2Proof

/-- The upper part of an append. -/
theorem ext_append_hi {n m : Nat} (x : BitVec n) (y : BitVec m) (s w : Nat) (h : m ≤ s) :
    (x ++ y).extractLsb' s w = x.extractLsb' (s - m) w := by
  apply BitVec.eq_of_getLsbD_eq
  intro i hi
  simp only [BitVec.getLsbD_extractLsb', BitVec.getLsbD_append, hi, decide_true, Bool.true_and]
  rw [if_neg (by omega)]
  congr 1; omega

/-- The lower part of an append. -/
theorem ext_append_lo {n m : Nat} (x : BitVec n) (y : BitVec m) (s w : Nat) (h : s + w ≤ m) :
    (x ++ y).extractLsb' s w = y.extractLsb' s w := by
  apply BitVec.eq_of_getLsbD_eq
  intro i hi
  simp only [BitVec.getLsbD_extractLsb', BitVec.getLsbD_append, hi, decide_true, Bool.true_and]
  rw [if_pos (by omega)]

theorem ext_self {n : Nat} (x : BitVec n) : x.extractLsb' 0 n = x := by
  apply BitVec.eq_of_getLsbD_eq; intro i hi; simp [hi]

theorem bit_append_hi {n m : Nat} (x : BitVec n) (y : BitVec m) (s : Nat) (h : m ≤ s) :
    (x ++ y).getLsbD s = x.getLsbD (s - m) := by
  rw [BitVec.getLsbD_append, if_neg (by omega)]

theorem bit_append_lo {n m : Nat} (x : BitVec n) (y : BitVec m) (s : Nat) (h : s < m) : (x ++ y).getLsbD s = y.getLsbD s := by
  rw [BitVec.getLsbD_append, if_pos h]

theorem bit1_get (b : Bool) : (bit1 b).getLsbD 0 = b := by cases b <;> rfl

/-- The two words of a 64-bit value, joined again. -/
theorem join_words (v : BitVec 64) : v.extractLsb' 32 32 ++ v.extractLsb' 0 32 = v := by
  apply BitVec.eq_of_getLsbD_eq
  intro i hi
  rw [BitVec.getLsbD_append]
  split
  · next h => simp [h]
  · next h =>
    have e : 32 + (i - 32) = i := by omega
    have l : i - 32 < 32 := by omega
    simp [e, l]

/-- The fields of two words are what was put into them. -/
theorem unpackTwo_packTwo (f : Fields) (x : Bool) (form : BitVec 2) (t : Third) :
    unpackTwo (packTwo f x form) t = { f with t := t } := by
  obtain ⟨opc, ⟨gp, gn, la, yh, ru⟩, d, a, b, md, th⟩ := f
  simp only [unpackTwo, packTwo, Fields.mk.injEq, Hdr.mk.injEq]
  refine ⟨?_, ⟨?_, ?_, ?_, ?_, ?_⟩, ?_, ?_, ?_, ?_, trivial⟩
  all_goals repeat first
    | refine (ext_append_hi _ _ _ _ (by decide)).trans ?_
    | refine (bit_append_hi _ _ _ (by decide)).trans ?_
  all_goals first
    | exact (ext_append_lo _ _ _ _ (by decide)).trans (ext_self _)
    | exact (bit_append_lo _ _ _ (by decide)).trans (bit1_get _)

theorem packTwo_form (f : Fields) (x : Bool) (form : BitVec 2) : (packTwo f x form).extractLsb' 0 2 = form := by
  unfold packTwo; exact (ext_append_lo _ _ _ _ (by decide)).trans (ext_self _)

theorem packTwo_x (f : Fields) (x : Bool) (form : BitVec 2) : (packTwo f x form).getLsbD 63 = x := by
  unfold packTwo
  repeat refine (bit_append_hi _ _ _ (by decide)).trans ?_
  exact bit1_get x

theorem ext_ext {n : Nat} (v : BitVec n) : (v.extractLsb' 0 32).extractLsb' 0 2 = v.extractLsb' 0 2 := by
  apply BitVec.eq_of_getLsbD_eq
  intro i hi
  simp only [BitVec.getLsbD_extractLsb', hi, decide_true, Bool.true_and, Nat.zero_add]
  have : i < 32 := by omega
  simp [this]

/-- Words that are no C form decode by their fields. -/
theorem decode_fields {v : BitVec 64} {w2 : Word} {t : Third} {i : Instr} {form : BitVec 2} (hv : v.extractLsb' 0 2 = form)
    (h0 : form = 0b01#2 ∨ form = 0b10#2) (hx : form = 0b01#2 → v.getLsbD 63 = false)
    (ht : (if form = 0b01#2 then Third.none else thirdOf (v.getLsbD 63) w2) = t)
    (ha : assigned (unpackTwo v t).opc.toNat = true) (hd : decFields (unpackTwo v t) = some i) :
    decode (v.extractLsb' 0 32) (v.extractLsb' 32 32) w2 = i := by
  have hw : (v.extractLsb' 0 32).extractLsb' 0 2 = form := by rw [ext_ext, hv]
  unfold decode
  rw [hw, join_words]
  rcases h0 with rfl | rfl
  · simp only [if_true] at ht
    rw [if_neg (by decide), if_neg (by decide)]
    simp only [if_true, ht, ha, hd, hx rfl]
    rfl
  · simp only [show ¬ ((0b10#2 : BitVec 2) = 0b01#2) by decide, if_false] at ht
    rw [if_neg (by decide), if_neg (by decide)]
    simp only [ht, ha, hd, show ¬ ((0b10#2 : BitVec 2) = 0b01#2) by decide, if_false, false_and]
    rfl

/-- The words of fields decode to what the opcode's decoder makes of the fields. -/
theorem decode_wordsOf {f : Fields} {i : Instr} (ha : assigned f.opc.toNat = true) (hd : decFields f = some i) :
    decodeWords (wordsOf f) = i := by
  have hu : ∀ x form, unpackTwo (packTwo f x form) f.t = f := by intro x form; rw [unpackTwo_packTwo]
  unfold decodeWords
  cases ht : f.t with
  | none =>
    simp only [wordsOf, ht]
    refine decode_fields (form := 0b01#2) (t := Third.none) (packTwo_form _ _ _) (.inl rfl) (fun _ => packTwo_x _ _ _) (if_pos rfl) ?_ ?_
    · rw [← ht, hu]; exact ha
    · rw [← ht, hu]; exact hd
  | lit w =>
    simp only [wordsOf, ht]
    refine decode_fields (form := 0b10#2) (t := .lit w) (packTwo_form _ _ _) (.inr rfl) (fun h => absurd h (by decide)) ?_ ?_ ?_
    · rw [if_neg (by decide), packTwo_x]; rfl
    · rw [← ht, hu]; exact ha
    · rw [← ht, hu]; exact hd
  | ext xm cls c =>
    simp only [wordsOf, ht]
    refine decode_fields (form := 0b10#2) (t := .ext xm cls c) (packTwo_form _ _ _) (.inr rfl) (fun h => absurd h (by decide)) ?_ ?_ ?_
    · rw [if_neg (by decide), packTwo_x]
      show Third.ext _ _ _ = _
      congr 1
      · exact ((ext_append_hi _ _ _ _ (by decide)).trans (ext_append_hi _ _ _ _ (by decide))).trans (ext_self _)
      · exact ((ext_append_hi _ _ _ _ (by decide)).trans (ext_append_lo _ _ _ _ (by decide))).trans (ext_self _)
      · exact (ext_append_lo _ _ _ _ (by decide)).trans (ext_self _)
    · rw [← ht, hu]; exact ha
    · rw [← ht, hu]; exact hd

/-- The word of a two-source C form decodes by its short opcode. -/
theorem decode_cTwo {n : BitVec 8} {c : CTwo} {i : Instr} (k : CTwo → Instr)
    (h : ∀ w : Word, w.extractLsb' 2 8 = n → decShort w = some (cTwo w k)) (hk : k c = i) : decodeWords [cTwoEnc n c] = i := by
  have h0 : (cTwoEnc n c).extractLsb' 0 2 = 0b00#2 := (ext_append_lo _ _ _ _ (by decide)).trans (ext_self _)
  have h1 : (cTwoEnc n c).extractLsb' 2 8 = n :=
    ((ext_append_hi _ _ _ _ (by decide)).trans (ext_append_lo _ _ _ _ (by decide))).trans (ext_self _)
  have h3 : cTwo (cTwoEnc n c) k = some i := by
    subst hk
    have e : cTwoEnc n c = c.b ++ c.a ++ c.d ++ 0#1 ++ c.gp ++ n ++ 0#2 := rfl
    unfold cTwo chk
    rw [show (cTwoEnc n c).getLsbD 13 = false from by
      rw [e]
      repeat refine (bit_append_hi _ _ _ (by decide)).trans ?_
      exact bit_append_lo _ _ _ (by decide)]
    simp only [Bool.not_false, if_true, Option.some.injEq]
    congr 1
    obtain ⟨gp, d, a, b⟩ := c
    simp only [CTwo.mk.injEq]
    rw [e]
    refine ⟨?_, ?_, ?_, ?_⟩
    all_goals repeat refine (ext_append_hi _ _ _ _ (by decide)).trans ?_
    all_goals first
      | exact (ext_append_lo _ _ _ _ (by decide)).trans (ext_self _)
      | exact ext_self _
  unfold decodeWords decode
  simp only [List.getD_cons_zero, h0, if_true, h _ h1, h3]

/-- The word of a one-source C form decodes by its short opcode. -/
theorem decode_cOne {n : BitVec 8} {c : COne} {i : Instr} (k : COne → Instr)
    (h : ∀ w : Word, w.extractLsb' 2 8 = n → decShort w = some (cOne w k)) (hk : k c = i) : decodeWords [cOneEnc n c] = i := by
  have h0 : (cOneEnc n c).extractLsb' 0 2 = 0b00#2 := (ext_append_lo _ _ _ _ (by decide)).trans (ext_self _)
  have h1 : (cOneEnc n c).extractLsb' 2 8 = n :=
    ((ext_append_hi _ _ _ _ (by decide)).trans (ext_append_lo _ _ _ _ (by decide))).trans (ext_self _)
  have h3 : cOne (cOneEnc n c) k = some i := by
    subst hk
    have e : cOneEnc n c = 0#6 ++ c.a ++ c.d ++ 0#1 ++ c.gp ++ n ++ 0#2 := rfl
    unfold cOne chk
    rw [show (cOneEnc n c).getLsbD 13 = false from by
      rw [e]
      repeat refine (bit_append_hi _ _ _ (by decide)).trans ?_
      exact bit_append_lo _ _ _ (by decide)]
    rw [show (cOneEnc n c).extractLsb' 26 6 = 0#6 from by
      rw [e]
      repeat refine (ext_append_hi _ _ _ _ (by decide)).trans ?_
      exact ext_self _]
    rw [if_pos (by decide)]
    congr 1; congr 1
    obtain ⟨gp, d, a⟩ := c
    simp only [COne.mk.injEq]
    rw [e]
    refine ⟨?_, ?_, ?_⟩
    all_goals repeat refine (ext_append_hi _ _ _ _ (by decide)).trans ?_
    all_goals exact (ext_append_lo _ _ _ _ (by decide)).trans (ext_self _)
  unfold decodeWords decode
  simp only [List.getD_cons_zero, h0, if_true, h _ h1, h3]

/-! ### Operands -/

theorem chk_true {α : Type} {b : Bool} (h : b = true) (x : Option α) : chk b x = x := by unfold chk; rw [if_pos h]

theorem narrow6 (k : BitVec 6) : (k.setWidth 11).toNat < 64 ∧ (k.setWidth 11).setWidth 6 = k := by
  have := k.isLt
  refine ⟨by simp; omega, ?_⟩
  apply BitVec.eq_of_toNat_eq; simp

/-- Operand B under an extension word is read back. -/
theorem extBOf_enc {w64 : Bool} {b : ExtB} (h : b.ok w64 = true) : extBOf w64 b.enc.1 b.enc.2 = some b := by
  cases b with
  | v r => exact chk_true h _
  | k i =>
    obtain ⟨h1, h2⟩ := narrow6 i
    have h3 : (decide ((i.setWidth 11).toNat < 64) && algn (wAl w64) (i.setWidth 11)) = true := by
      rw [decide_eq_true h1]; exact h
    show chk (decide ((i.setWidth 11).toNat < 64) && algn (wAl w64) (i.setWidth 11)) (some (ExtB.k ((i.setWidth 11).setWidth 6))) = _
    rw [chk_true h3, h2]

/-- Operand B of a two-source instruction is read back. -/
theorem srcBOf_enc {w64 : Bool} {b : SrcB} {f : Fields} (h : b.ok w64 = true) (hb : f.b = b.enc.1) (ht : f.t = b.enc.2) :
    srcBOf w64 f = some b := by
  unfold srcBOf
  rw [hb, ht]
  cases b with
  | reg r => exact chk_true h _
  | lit w => exact chk_true rfl _
  | xreg r =>
    have := extBOf_enc (w64 := w64) (b := .v r) h
    simp only [SrcB.enc]
    rw [show extBOf w64 r 0 = some (ExtB.v r) from this]; rfl
  | xk i =>
    have := extBOf_enc (w64 := w64) (b := .k i) h
    simp only [SrcB.enc]
    rw [show extBOf w64 (i.setWidth 11) 1 = some (ExtB.k i) from this]; rfl

/-- The operands of a two-source instruction are read back. -/
theorem twoOf_enc {dA aA : Nat} {b64 : Bool} {o : Two} (opc : BitVec 10) (md : BitVec 8) (k : Two → Option Instr)
    (h : o.ok dA aA b64 = true) : twoOf dA aA b64 (o.enc opc md) k = k o := by
  simp only [Two.ok, Bool.and_eq_true] at h
  unfold twoOf
  rw [srcBOf_enc h.2 rfl rfl]
  exact chk_true (Bool.and_eq_true _ _ ▸ h.1) _

/-- The operands of a three-source instruction are read back. -/
theorem threeOf_enc {al cA : Nat} {b64 : Bool} {o : Three} (opc : BitVec 10) (md : BitVec 8) (xm : BitVec 19)
    (k : Three → BitVec 19 → Option Instr) (h : o.ok al b64 cA = true) : threeOf al b64 cA (o.enc opc md xm) k = k o xm := by
  simp only [Three.ok, Bool.and_eq_true] at h
  simp only [threeOf, Three.enc]
  rw [extBOf_enc h.1.2]
  exact chk_true (by rw [h.1.1.1, h.1.1.2, h.2]; rfl) _

/-- The operands of a one-source instruction are read back. -/
theorem oneOf_enc {dA aA : Nat} {o : One} (opc : BitVec 10) (md : BitVec 8) (k : One → Option Instr) (h : o.ok dA aA = true) :
    oneOf dA aA (o.enc opc md) k = k o := by
  obtain ⟨hd, d, a, e⟩ := o
  have he : oneExtOf (One.enc { h := hd, d := d, a := a, ext := e } opc md) = some e := by cases e <;> rfl
  unfold oneOf
  rw [he]
  exact chk_true h _

end Sys2Proof
end

