-- ==== Sys2Proof/Laws/Mem.lean ====
section
/-! SUPPORT. Laws of sparse stores and of physical memory: a read after a write, and that every memory operation keeps the
canonical form. -/

namespace Sys2Proof.Machine

variable {w : Nat}

theorem spWfFrom_le {lo hi : Nat} (h : lo ≤ hi) {t : List (Nat × BitVec w)} (ht : spWfFrom hi t = true) : spWfFrom lo t = true := by
  cases t with
  | nil => rfl
  | cons e r =>
    obtain ⟨j, x⟩ := e
    simp only [spWfFrom, Bool.and_eq_true, decide_eq_true_eq] at ht ⊢
    exact ⟨⟨by omega, ht.1.2⟩, ht.2⟩

theorem spPut_wfFrom (t : List (Nat × BitVec w)) (k : Nat) (x : BitVec w) {lo : Nat} (hk : lo ≤ k) (ht : spWfFrom lo t = true) :
    spWfFrom lo (spPut t k x) = true := by
  induction t generalizing lo with
  | nil => unfold spPut; split <;> simp_all [spWfFrom]
  | cons e r ih =>
    obtain ⟨j, y⟩ := e
    simp only [spWfFrom, Bool.and_eq_true, decide_eq_true_eq] at ht
    obtain ⟨⟨h1, h2⟩, h3⟩ := ht
    unfold spPut
    split
    · split
      · simp only [spWfFrom, h3, h2, Bool.and_true, decide_eq_true_eq]; exact h1
      · next hlt hx =>
        have : spWfFrom (j + 1) r = true := h3
        simp only [spWfFrom, Bool.and_eq_true, decide_eq_true_eq]
        exact ⟨⟨hk, by simpa using hx⟩, ⟨⟨by omega, h2⟩, h3⟩⟩
    · split
      · next hne heq =>
        subst heq
        split
        · exact spWfFrom_le (by omega) h3
        · next hx =>
          simp only [spWfFrom, Bool.and_eq_true, decide_eq_true_eq]
          exact ⟨⟨hk, by simpa using hx⟩, h3⟩
      · next h4 h5 =>
        simp only [spWfFrom, Bool.and_eq_true, decide_eq_true_eq]
        exact ⟨⟨h1, h2⟩, ih (by omega) h3⟩

/-- A write keeps the canonical form. -/
theorem spPut_wf (t : List (Nat × BitVec w)) (k : Nat) (x : BitVec w) (ht : spWf t = true) : spWf (spPut t k x) = true :=
  spPut_wfFrom t k x (Nat.zero_le _) ht

theorem spPutN_wf (l : List (BitVec w)) : ∀ (t : List (Nat × BitVec w)) (k : Nat), spWf t = true → spWf (spPutN t k l) = true := by
  induction l with
  | nil => intro t k h; exact h
  | cons x r ih => intro t k h; exact ih _ _ (spPut_wf t k x h)

/-- Entries left out keep the canonical form. -/
theorem filter_wfFrom (p : Nat × BitVec w → Bool) (t : List (Nat × BitVec w)) {lo : Nat} (ht : spWfFrom lo t = true) :
    spWfFrom lo (t.filter p) = true := by
  induction t generalizing lo with
  | nil => rfl
  | cons e r ih =>
    obtain ⟨j, x⟩ := e
    simp only [spWfFrom, Bool.and_eq_true, decide_eq_true_eq] at ht
    by_cases h : p (j, x) = true
    · rw [List.filter_cons_of_pos h]
      simp only [spWfFrom, Bool.and_eq_true, decide_eq_true_eq]
      exact ⟨ht.1, ih ht.2⟩
    · rw [List.filter_cons_of_neg h]
      exact spWfFrom_le (by omega) (ih ht.2)

theorem filter_wf (p : Nat × BitVec w → Bool) (t : List (Nat × BitVec w)) (ht : spWf t = true) : spWf (t.filter p) = true :=
  filter_wfFrom p t ht

theorem spClear_wf (t : List (Nat × BitVec w)) (lo n : Nat) (ht : spWf t = true) : spWf (spClear t lo n) = true := filter_wf _ t ht

/-! ### Reads after writes -/

theorem spGet_below {t : List (Nat × BitVec w)} {lo k : Nat} (ht : spWfFrom lo t = true) (h : k < lo) : spGet t k = 0 := by
  cases t with
  | nil => rfl
  | cons e r =>
    obtain ⟨j, x⟩ := e
    simp only [spWfFrom, Bool.and_eq_true, decide_eq_true_eq] at ht
    unfold spGet; rw [if_pos (by omega)]

/-- A read after a write: the value written, elsewhere what was there. -/
theorem spGet_spPut (t : List (Nat × BitVec w)) (k : Nat) (x : BitVec w) (j : Nat) (ht : spWf t = true) :
    spGet (spPut t k x) j = if k = j then x else spGet t j := by
  have key : ∀ (t : List (Nat × BitVec w)) (lo : Nat), spWfFrom lo t = true → spGet (spPut t k x) j = if k = j then x else spGet t j := by
    intro t
    induction t with
    | nil =>
      intro lo _
      unfold spPut
      by_cases hx : x = 0
      · rw [if_pos hx]; by_cases hj : k = j <;> simp [spGet, hj, hx]
      · rw [if_neg hx]
        by_cases hj : k = j
        · simp [spGet, hj]
        · simp only [spGet, if_neg hj]; split <;> rfl
    | cons e r ih =>
      intro lo h
      obtain ⟨i, y⟩ := e
      have hr := h
      simp only [spWfFrom, Bool.and_eq_true, decide_eq_true_eq] at hr
      obtain ⟨⟨h1, h2⟩, h3⟩ := hr
      unfold spPut
      by_cases hki : k < i
      · rw [if_pos hki]
        by_cases hx : x = 0
        · rw [if_pos hx]
          by_cases hj : k = j
          · subst hj; rw [if_pos rfl, hx]; unfold spGet; rw [if_pos hki]
          · rw [if_neg hj]
        · rw [if_neg hx]
          by_cases hj : k = j
          · subst hj; simp [spGet]
          · rw [if_neg hj]
            conv => lhs; unfold spGet
            by_cases hjk : j < k
            · rw [if_pos hjk, spGet, if_pos (by omega)]
            · rw [if_neg hjk, if_neg hj]
      · rw [if_neg hki]
        by_cases hik : i = k
        · rw [if_pos hik]
          subst hik
          by_cases hx : x = 0
          · rw [if_pos hx]
            by_cases hj : i = j
            · subst hj; rw [if_pos rfl, hx, spGet_below h3 (by omega)]
            · rw [if_neg hj]
              conv => rhs; unfold spGet
              by_cases hji : j < i
              · rw [if_pos hji, spGet_below h3 (by omega)]
              · rw [if_neg hji, if_neg hj]
          · rw [if_neg hx]
            unfold spGet
            by_cases hj : i = j
            · subst hj; simp
            · simp only [if_neg hj]
        · rw [if_neg hik]
          have hih := ih (i + 1) h3
          conv => lhs; unfold spGet
          by_cases hji : j < i
          · rw [if_pos hji, if_neg (by omega : ¬ k = j)]
            conv => rhs; unfold spGet
            rw [if_pos hji]
          · rw [if_neg hji]
            by_cases hij : i = j
            · subst hij
              rw [if_pos rfl, if_neg (fun hc => hik hc.symm)]
              conv => rhs; unfold spGet
              simp
            · rw [if_neg hij, hih]
              conv => rhs; rw [spGet, if_neg hji, if_neg hij]
  exact key t 0 ht

/-! ### Physical memory -/

theorem poke_wf {s : State} (pa : Nat) (b : Byte) (h : Memory.wf s.mem = true) : Memory.wf (s.poke pa b).mem = true :=
  spPut_wf s.mem _ b h

theorem pokeN_wf (l : List Byte) : ∀ {s : State} (pa : Nat), Memory.wf s.mem = true → Memory.wf (s.pokeN pa l).mem = true := by
  induction l with
  | nil => intro s pa h; exact h
  | cons b r ih => intro s pa h; exact ih (pa + 1) (poke_wf pa b h)

theorem pokeNat_wf {s : State} (pa n x : Nat) (h : Memory.wf s.mem = true) : Memory.wf (s.pokeNat pa n x).mem = true :=
  pokeN_wf _ pa h

theorem clear_wf {s : State} (pa n : Nat) (h : Memory.wf s.mem = true) : Memory.wf (s.clear pa n).mem = true :=
  spClear_wf s.mem _ n h

theorem reset_mem_wf : Memory.wf State.reset.mem = true := by decide

/-- A byte read after a byte written through the same state (R12). -/
theorem peek_poke {s : State} (pa qa : Nat) (b : Byte) (h : Memory.wf s.mem = true) :
    (s.poke pa b).peek qa = if s.home pa = s.home qa then b else s.peek qa :=
  spGet_spPut s.mem (s.home pa) b (s.home qa) h

/-- A write writes nothing but memory. -/
theorem pokeN_rest (l : List Byte) : ∀ (s : State) (pa : Nat), s.pokeN pa l = { s with mem := (s.pokeN pa l).mem } := by
  induction l with
  | nil => intro s pa; rfl
  | cons b r ih => intro s pa; exact ih (s.poke pa b) (pa + 1)

end Sys2Proof.Machine
end

