-- ==== Sys2Proof/Laws/Keep.lean ====
section
/-! SUPPORT. What keeps a state legal: the rules of that property, and that every operation on registers, memory, translations, caches, events and threads
keeps it. -/

namespace Sys2Proof.Machine

namespace Keep

/-- An answer that, where there is one, is legal. -/
def Opt (o : Option State) : Prop := ∀ t, o = some t → t.Legal

/-- An outcome that, where it is a next state, is legal. -/
def Out (o : Host.Outcome State Fault Refusal) : Prop := ∀ t, o = .next t → t.Legal

theorem fold {s : State} (h : s.Legal) : Memory.wf s.mem = true ∧ s.hopmax ≤ 8 ∧ s.pkgid ≤ 287 ∧ 30 ≤ s.keyint ∧ s.keyint ≤ 44
    ∧ 1500 ≤ s.pwrLimit ∧ s.pwrLimit ≤ 4200 := h

theorem next {s : State} (h : s.Legal) : Out (.next s) := by intro t e; cases e; exact h

theorem fault {f : Fault} : Out (.fault f) := by intro t e; cases e

theorem some {s : State} (h : s.Legal) : Opt (some s) := by intro t e; cases e; exact h

theorem none : Opt none := by intro t e; cases e

theorem of_some {o : Option State} {t : State} (e : o = .some t) (h : Opt o) : t.Legal := h t e

/-- A result whose state is legal. -/
def Snd {α : Type} (p : α × State) : Prop := p.2.Legal

theorem pair {α : Type} {a : α} {s : State} (h : s.Legal) : Snd (a, s) := h

theorem snd {α : Type} {p : α × State} (h : Snd p) : p.2.Legal := h

theorem of_pair {α : Type} {p : α × State} {a : α} {t : State} (e : p = (a, t)) (h : Snd p) : t.Legal := by subst e; exact h

theorem getD {o : Option State} {d : State} (h : Opt o) (h' : d.Legal) : (o.getD d).Legal := by
  cases o with
  | none => exact h'
  | some t => exact h t rfl

theorem foldl {α : Type} {f : State → α → State} {l : List α} {s : State} (hf : ∀ s a, s.Legal → (f s a).Legal) (h : s.Legal) :
    (l.foldl f s).Legal := by
  induction l generalizing s with
  | nil => exact h
  | cons a l ih => exact ih (hf s a h)

theorem foldl2 {α β : Type} {f : β × State → α → β × State} {l : List α} {s : β × State} (hf : ∀ s a, Snd s → Snd (f s a))
    (h : Snd s) : Snd (l.foldl f s) := by
  induction l generalizing s with
  | nil => exact h
  | cons a l ih => exact ih (hf s a h)

theorem fst {α β : Type} {f : State × β → α → State × β} {l : List α} {s : State × β} (hf : ∀ s a, s.1.Legal → (f s a).1.Legal)
    (h : s.1.Legal) : (l.foldl f s).1.Legal := by
  induction l generalizing s with
  | nil => exact h
  | cons a l ih => exact ih (hf s a h)

theorem map {α : Type} {o : Option α} {f : α → State} (h : ∀ a, (f a).Legal) : Opt (o.map f) := by
  intro t e
  cases o with
  | none => cases e
  | some a => cases e; exact h a

theorem opt_find {α : Type} {f : α → Option State} {l : List α} (hf : ∀ a, Opt (f a)) : Opt (l.findSome? f) := by
  intro t e
  obtain ⟨a, -, ha⟩ := List.exists_of_findSome?_eq_some e
  exact hf a t ha

theorem bind {α : Type} {o : Option α} {f : α → Option State} (h : ∀ a, Opt (f a)) : Opt (o.bind f) := by
  cases o with
  | none => exact none
  | some a => exact h a

theorem foldl3 {α β γ : Type} {f : β × γ × State → α → β × γ × State} {l : List α} {s : β × γ × State}
    (hf : ∀ s a, s.2.2.Legal → (f s a).2.2.Legal) (h : s.2.2.Legal) : (l.foldl f s).2.2.Legal := by
  induction l generalizing s with
  | nil => exact h
  | cons a l ih => exact ih (hf s a h)

/-- A register's access, where there is one, leaves a legal state. -/
def Reg (o : Option RegAcc) : Prop := ∀ a, o = .some a → ∀ s, s.Legal → (a.put s).Legal

theorem reg_some {r v : Nat} {f : State → State} (h : ∀ s, s.Legal → (f s).Legal) : Reg (.some ⟨r, v, f⟩) := by
  intro a e
  cases e
  exact h

theorem reg_none : Reg .none := by intro a e; cases e

theorem reg_ite {c : Prop} [Decidable c] {a b : Option RegAcc} (ha : Reg a) (hb : Reg b) : Reg (if c then a else b) := by
  split
  · exact ha
  · exact hb

theorem of_reg {o : Option RegAcc} {a : RegAcc} {s : State} (e : o = .some a) (h : Reg o) (hs : s.Legal) : (a.put s).Legal := h a e s hs

theorem keyint {s : State} {n : Nat} (hn : 30 ≤ n ∧ n ≤ 44) (h : s.Legal) : ({ s with keyint := n } : State).Legal :=
  ⟨h.1, h.2.1, h.2.2.1, hn.1, hn.2, h.2.2.2.2.2⟩

theorem pwrLimit {s : State} {n : Nat} (hn : 1500 ≤ n ∧ n ≤ 4200) (h : s.Legal) : ({ s with pwrLimit := n } : State).Legal :=
  ⟨h.1, h.2.1, h.2.2.1, h.2.2.2.1, h.2.2.2.2.1, hn.1, hn.2⟩

theorem wf {w : Nat} {α : Type} {f : List (Nat × BitVec w) → α → List (Nat × BitVec w)} {l : List α} {m : List (Nat × BitVec w)}
    (hf : ∀ m a, spWf m = true → spWf (f m a) = true) (h : spWf m = true) : spWf (l.foldl f m) = true := by
  induction l generalizing m with
  | nil => exact h
  | cons a l ih => exact ih (hf m a h)

/-- What the front of a step leaves is legal. -/
def Fr : Front → Prop
  | .run _ s => s.Legal
  | .done s => s.Legal

theorem run {i : Instr} {s : State} (h : s.Legal) : Fr (.run i s) := h

theorem done {s : State} (h : s.Legal) : Fr (.done s) := h

theorem reg_nil : Reg (([] : List (Option RegAcc)).findSome? fun x => x) := by intro a e; cases e

theorem reg_cons {o : Option RegAcc} {l : List (Option RegAcc)} (h : Reg o) (hl : Reg (l.findSome? fun x => x)) :
    Reg ((o :: l).findSome? fun x => x) := by
  cases o with
  | none => exact hl
  | some a => exact h

end Keep

theorem State.setCore_legal : ∀ (s : State) (c : Nat) (k : Core), s.Legal → (s.setCore c k).Legal := by
  intros
  unfold State.setCore
  repeat' (first | with_reducible assumption | (unfold State.Legal; dsimp only; with_reducible apply Keep.fold))

theorem State.modCore_legal : ∀ (s : State) (c : Nat) (f : Core → Core), s.Legal → (s.modCore c f).Legal := by
  intros
  unfold State.modCore
  repeat' (first | with_reducible assumption | (with_reducible first | apply State.setCore_legal))

theorem State.setDie_legal : ∀ (s : State) (d : Nat) (x : Die), s.Legal → (s.setDie d x).Legal := by
  intros
  unfold State.setDie
  repeat' (first | with_reducible assumption | (unfold State.Legal; dsimp only; with_reducible apply Keep.fold))

theorem State.modDie_legal : ∀ (s : State) (d : Nat) (f : Die → Die), s.Legal → (s.modDie d f).Legal := by
  intros
  unfold State.modDie
  repeat' (first | with_reducible assumption | (with_reducible first | apply State.setDie_legal))

theorem State.setCtx_legal : ∀ (s : State) (c : Nat) (x : Ctx), s.Legal → (s.setCtx c x).Legal := by
  intros
  unfold State.setCtx
  repeat' (first | with_reducible assumption | (unfold State.Legal; dsimp only; with_reducible apply Keep.fold))

theorem State.modCtx_legal : ∀ (s : State) (c : Nat) (f : Ctx → Ctx), s.Legal → (s.modCtx c f).Legal := by
  intros
  unfold State.modCtx
  repeat' (first | with_reducible assumption | (with_reducible first | apply State.setCtx_legal))

theorem State.setQueue_legal : ∀ (s : State) (q : Nat) (x : Queue), s.Legal → (s.setQueue q x).Legal := by
  intros
  unfold State.setQueue
  repeat' (first | with_reducible assumption | (unfold State.Legal; dsimp only; with_reducible apply Keep.fold))

theorem State.modQueue_legal : ∀ (s : State) (q : Nat) (f : Queue → Queue), s.Legal → (s.modQueue q f).Legal := by
  intros
  unfold State.modQueue
  repeat' (first | with_reducible assumption | (with_reducible first | apply State.setQueue_legal))

theorem State.setPort_legal : ∀ (s : State) (p : Nat) (x : Port), s.Legal → (s.setPort p x).Legal := by
  intros
  unfold State.setPort
  repeat' (first | with_reducible assumption | (unfold State.Legal; dsimp only; with_reducible apply Keep.fold))

theorem State.modPort_legal : ∀ (s : State) (p : Nat) (f : Port → Port), s.Legal → (s.modPort p f).Legal := by
  intros
  unfold State.modPort
  repeat' (first | with_reducible assumption | (with_reducible first | apply State.setPort_legal))

theorem State.modHPort_legal : ∀ (s : State) (p : Nat) (f : HPort → HPort), s.Legal → (s.modHPort p f).Legal := by
  intros
  unfold State.modHPort
  repeat' (first | with_reducible assumption | (unfold State.Legal; dsimp only; with_reducible apply Keep.fold))

theorem State.setLink_legal : ∀ (s : State) (n : Nat) (x : DieLink), s.Legal → (s.setLink n x).Legal := by
  intros
  unfold State.setLink
  repeat' (first | with_reducible assumption | (unfold State.Legal; dsimp only; with_reducible apply Keep.fold))

theorem State.modFrame_legal : ∀ (s : State) (f : Nat) (g : FrameSt → FrameSt), s.Legal → (s.modFrame f g).Legal := by
  intros
  unfold State.modFrame
  repeat' (first | with_reducible assumption | (unfold State.Legal; dsimp only; with_reducible apply Keep.fold))

theorem State.modThread_legal : ∀ (s : State) (team tid : Nat) (f : Thread → Thread), s.Legal → (s.modThread team tid f).Legal := by
  intros
  unfold State.modThread
  repeat' (first | with_reducible assumption | split | (unfold State.Legal; dsimp only; with_reducible apply Keep.fold))

theorem State.modTeam_legal : ∀ (s : State) (team : Nat) (f : Team → Team), s.Legal → (s.modTeam team f).Legal := by
  intros
  unfold State.modTeam
  repeat' (first | with_reducible assumption | split | (unfold State.Legal; dsimp only; with_reducible apply Keep.fold))

theorem State.modLaunch_legal : ∀ (s : State) (lid : Nat) (f : Launch → Launch), s.Legal → (s.modLaunch lid f).Legal := by
  intros
  unfold State.modLaunch
  repeat' (first | with_reducible assumption | split | (unfold State.Legal; dsimp only; with_reducible apply Keep.fold))

theorem State.modThreads_legal : ∀ (s : State) (team : Nat) (f : Nat → Thread → Thread), s.Legal → (s.modThreads team f).Legal := by
  intros
  unfold State.modThreads
  repeat' (first | with_reducible assumption | (unfold State.Legal; dsimp only; with_reducible apply Keep.fold))

theorem State.free_legal : ∀ (s : State), s.Legal → Keep.Snd s.free := by
  intros
  unfold State.free
  repeat' (first | with_reducible assumption | (with_reducible apply_assumption -exfalso -symm))

theorem State.takeId_legal : ∀ (s : State), s.Legal → Keep.Snd s.takeId := by
  intros
  unfold State.takeId
  repeat' (first | with_reducible assumption | (with_reducible apply_assumption -exfalso -symm))

theorem State.soon_legal : ∀ (s : State) (l : List Happening), s.Legal → (s.soon l).Legal := by
  intros
  unfold State.soon
  repeat' (first | with_reducible assumption | (unfold State.Legal; dsimp only; with_reducible apply Keep.fold))

theorem State.freeBytes_legal : ∀ (s : State) (n : Nat), s.Legal → Keep.Snd (s.freeBytes n) := by
  intros
  unfold State.freeBytes
  repeat' (first | with_reducible assumption | (with_reducible apply_assumption -exfalso -symm))

theorem State.changed_legal : ∀ (s : State) (a b : List Byte), s.Legal → Keep.Snd (s.changed a b) := by
  intros
  unfold State.changed
  repeat' (first
      | with_reducible assumption | (with_reducible first | apply State.freeBytes_legal) | split
      | (with_reducible apply Keep.of_pair; with_reducible assumption) | (with_reducible apply Keep.pair))

theorem State.poke_legal : ∀ (s : State) (pa : Nat) (b : Byte), s.Legal → (s.poke pa b).Legal := by
  intro s a b h
  exact ⟨poke_wf _ _ h.1, h.2⟩

theorem State.pokeN_legal : ∀ (s : State) (a : Nat) (a_1 : List Byte), s.Legal → (s.pokeN a a_1).Legal := by
  intro s a l; induction l generalizing s a <;> intros <;> unfold State.pokeN
  all_goals repeat' (first
      | with_reducible assumption | (with_reducible first | apply State.poke_legal) | (with_reducible apply_assumption -exfalso -symm))

theorem State.pokeNat_legal : ∀ (s : State) (pa n x : Nat), s.Legal → (s.pokeNat pa n x).Legal := by
  intros
  unfold State.pokeNat
  repeat' (first | with_reducible assumption | (with_reducible first | apply State.pokeN_legal))

theorem State.clear_legal : ∀ (s : State) (pa n : Nat), s.Legal → (s.clear pa n).Legal := by
  intro s a n h
  exact ⟨clear_wf _ _ h.1, h.2⟩

theorem State.clearPoison_legal : ∀ (s : State) (pa n : Nat), s.Legal → (s.clearPoison pa n).Legal := by
  intros
  unfold State.clearPoison
  repeat' (first | with_reducible assumption | (unfold State.Legal; dsimp only; with_reducible apply Keep.fold))

theorem State.setPoison_legal : ∀ (s : State) (pa : Nat), s.Legal → (s.setPoison pa).Legal := by
  intros
  unfold State.setPoison
  repeat' (first | with_reducible assumption | (unfold State.Legal; dsimp only; with_reducible apply Keep.fold))

theorem State.touch_legal : ∀ (s : State) (c d : Nat), s.Legal → (s.touch c d).Legal := by
  intros
  unfold State.touch
  repeat' (first | with_reducible assumption | (with_reducible first | apply State.modCtx_legal))

theorem State.touchAll_legal : ∀ (s : State) (c : Nat) (ds : List Nat), s.Legal → (s.touchAll c ds).Legal := by
  intros
  unfold State.touchAll
  repeat' (first | with_reducible assumption | (with_reducible first | intro _ | apply State.touch_legal | apply Keep.foldl))

theorem State.reject_legal : ∀ (s : State) (p cause off size : Nat) (read : Bool), s.Legal → (s.reject p cause off size read).Legal :=
    by
  intros
  unfold State.reject
  repeat' (first | with_reducible assumption | (with_reducible first | apply State.modHPort_legal))

theorem State.windowWrite_legal : ∀ (s : State) (d off res v : Nat) (put : State → State), s.Legal → (∀ (a : State), a.Legal → (put
    a).Legal) → (s.windowWrite d off res v put).Legal := by
  intros
  unfold State.windowWrite
  repeat' (first | with_reducible assumption | split | (with_reducible apply_assumption -exfalso -symm))

theorem State.walk_legal : ∀ (s : State) (crown ctx va : Nat), s.Legal → Keep.Snd (s.walk crown ctx va) := by
  intros
  unfold State.walk
  repeat' (first | with_reducible assumption | (with_reducible apply_assumption -exfalso -symm))

theorem State.translate_legal : ∀ (s : State) (die : Nat) (core : Option Nat) (ctx va : Nat), s.Legal → Keep.Snd (s.translate die core
    ctx va) := by
  intros
  unfold State.translate
  repeat' (first
      | with_reducible assumption
      | (with_reducible first
          | apply State.modCore_legal | apply State.walk_legal | apply State.modDie_legal)
      | split | (with_reducible apply Keep.of_pair; with_reducible assumption) | (with_reducible apply Keep.pair))

theorem State.check_legal : ∀ (s : State) (die : Nat) (core : Option Nat) (ctx : Nat) (k : AccKind) (va : DWord), s.Legal → Keep.Snd
    (s.check die core ctx k va) := by
  intros
  unfold State.check
  repeat' (first
      | with_reducible assumption | (with_reducible first | apply State.translate_legal) | split
      | (with_reducible apply Keep.of_pair; with_reducible assumption) | (with_reducible apply Keep.pair))

theorem State.reached_legal : ∀ (s : State) (ctx gpa : Nat), s.Legal → (s.reached ctx gpa).Legal := by
  intros
  unfold State.reached
  repeat' (first | with_reducible assumption | (with_reducible first | apply State.touchAll_legal) | split)

theorem State.access_legal : ∀ (s : State) (die : Nat) (core : Option Nat) (ctx : Nat) (k : AccKind) (va : DWord), s.Legal → Keep.Snd
    (s.access die core ctx k va) := by
  intros
  unfold State.access
  repeat' (first
      | with_reducible assumption | (with_reducible first | apply State.check_legal | apply State.reached_legal) | split
      | (with_reducible apply Keep.of_pair; with_reducible assumption) | (with_reducible apply Keep.pair))

theorem State.engineVa_legal : ∀ (s : State) (ctx : Nat) (write : Bool) (va : Nat), s.Legal → Keep.Snd (s.engineVa ctx write va) := by
  intros
  unfold State.engineVa
  repeat' (first
      | with_reducible assumption | (with_reducible first | apply State.access_legal) | split
      | (with_reducible apply Keep.of_pair; with_reducible assumption) | (with_reducible apply Keep.pair))

theorem State.vRead_legal : ∀ (s : State) (ctx va len : Nat), s.Legal → Keep.Snd (s.vRead ctx va len) := by
  intros
  unfold State.vRead
  repeat' (first
      | with_reducible assumption | (with_reducible first | intro _ | apply State.engineVa_legal | apply Keep.foldl2 | apply Keep.snd)
      | split | (with_reducible apply Keep.of_pair; with_reducible assumption) | (with_reducible apply Keep.pair))

theorem State.vWrite_legal : ∀ (s : State) (ctx va : Nat) (b : List Byte), s.Legal → Keep.Snd (s.vWrite ctx va b) := by
  intro s c a l; induction l generalizing s a <;> intros <;> unfold State.vWrite
  all_goals repeat' (first
      | with_reducible assumption
      | (with_reducible first
          | intro _ | apply State.pokeN_legal | apply State.clearPoison_legal | apply State.engineVa_legal | apply Keep.foldl2
          | apply Keep.snd)
      | split | (with_reducible apply Keep.of_pair; with_reducible assumption) | (with_reducible apply Keep.pair))

theorem State.vClear_legal : ∀ (s : State) (ctx va len : Nat), s.Legal → Keep.Snd (s.vClear ctx va len) := by
  intros
  unfold State.vClear
  repeat' (first
      | with_reducible assumption
      | (with_reducible first
          | intro _ | apply State.engineVa_legal | apply State.clear_legal | apply State.clearPoison_legal | apply Keep.foldl2
          | apply Keep.snd)
      | split | (with_reducible apply Keep.of_pair; with_reducible assumption) | (with_reducible apply Keep.pair))

theorem State.raiseV_legal : ∀ (s : State) (v : Nat), s.Legal → (s.raiseV v).Legal := by
  intros
  unfold State.raiseV
  repeat' (first | with_reducible assumption | (with_reducible first | apply State.modHPort_legal))

theorem State.eventRec_legal : ∀ (s : State) (r : EvRec), s.Legal → (s.eventRec r).Legal := by
  intros
  unfold State.eventRec
  repeat' (first
      | with_reducible assumption | (with_reducible first | apply State.pokeNat_legal | apply State.raiseV_legal) | split
      | (unfold State.Legal; dsimp only; with_reducible apply Keep.fold))

theorem State.event_legal : ∀ (s : State) (e : Event), s.Legal → (s.event e).Legal := by
  intros
  unfold State.event
  repeat' (first | with_reducible assumption | (with_reducible first | apply State.eventRec_legal))

theorem State.coreEvent_legal : ∀ (s : State) (core kind info aux : Nat), s.Legal → (s.coreEvent core kind info aux).Legal := by
  intros
  unfold State.coreEvent
  repeat' (first | with_reducible assumption | (with_reducible first | apply State.eventRec_legal))

theorem State.pfPut_legal : ∀ (s : State) (r : PfRec), s.Legal → (s.pfPut r).Legal := by
  intros
  unfold State.pfPut
  repeat' (first
      | with_reducible assumption | (with_reducible first | apply State.pokeNat_legal | apply State.raiseV_legal)
      | (unfold State.Legal; dsimp only; with_reducible apply Keep.fold))

theorem State.pfRecord_legal : ∀ (s : State) (e : PfFields), s.Legal → (s.pfRecord e).Legal := by
  intros
  unfold State.pfRecord
  repeat' (first
      | with_reducible assumption | (with_reducible first | apply State.pfPut_legal | apply State.event_legal) | split
      | (unfold State.Legal; dsimp only; with_reducible apply Keep.fold) | dsimp only)

theorem State.unsched_legal : ∀ (s : State) (team tid : Nat), s.Legal → (s.unsched team tid).Legal := by
  intros
  unfold State.unsched
  repeat' (first | with_reducible assumption | (with_reducible first | apply State.modCore_legal) | split)

theorem State.fileRaw_legal : ∀ (s : State) (team tid hold : Nat), s.Legal → (s.fileRaw team tid hold).Legal := by
  intros
  unfold State.fileRaw
  repeat' (first
      | with_reducible assumption | (with_reducible first | apply State.modThread_legal | apply State.modCore_legal) | split
      | (unfold State.Legal; dsimp only; with_reducible apply Keep.fold))

theorem State.fileGroup_legal : ∀ (s : State) (g : Group), s.Legal → (s.fileGroup g).Legal := by
  intros
  unfold State.fileGroup
  repeat' (first | with_reducible assumption | (with_reducible first | intro _ | apply State.fileRaw_legal | apply Keep.foldl))

theorem State.strayRoom_legal : ∀ (s : State) (c : Nat), s.Legal → (s.strayRoom c).Legal := by
  intros
  unfold State.strayRoom
  repeat' (first
      | with_reducible assumption | (with_reducible first | apply State.setCore_legal | apply State.fileGroup_legal) | split
      | dsimp only)

theorem State.file_legal : ∀ (s : State) (team tid hold : Nat), s.Legal → (s.file team tid hold).Legal := by
  intros
  unfold State.file
  repeat' (first | with_reducible assumption | (with_reducible first | apply State.strayRoom_legal | apply State.fileRaw_legal) | split)

theorem State.restart_legal : ∀ (s : State) (team tid : Nat), s.Legal → (s.restart team tid).Legal := by
  intros
  unfold State.restart
  repeat' (first
      | with_reducible assumption
      | (with_reducible first
          | apply State.file_legal | apply State.modThread_legal | apply State.unsched_legal)
      | split)

theorem State.waitDone_legal : ∀ (s : State) (team tid id : Nat) (regs : List (Nat × Word)), s.Legal → (s.waitDone team tid id
    regs).Legal := by
  intros
  unfold State.waitDone
  repeat' (first
      | with_reducible assumption | (with_reducible first | apply State.modThread_legal | apply State.file_legal) | split | dsimp only)

theorem State.spoil_legal : ∀ (s : State) (team : Nat) (t : Team) (off n : Nat), s.Legal → (s.spoil team t off n).Legal := by
  intros
  unfold State.spoil
  repeat' (first | with_reducible assumption | (with_reducible first | intro _ | apply State.modCore_legal | apply Keep.foldl))

theorem State.sPutBy_legal : ∀ (s : State) (writer : Option Nat) (team off : Nat) (b : List Byte), s.Legal → (s.sPutBy writer team off
    b).Legal := by
  intros
  unfold State.sPutBy
  repeat' (first | with_reducible assumption | (with_reducible first | apply State.modTeam_legal | apply State.spoil_legal) | split)

theorem State.sPut_legal : ∀ (s : State) (team off : Nat) (b : List Byte), s.Legal → (s.sPut team off b).Legal := by
  intros
  unfold State.sPut
  repeat' (first | with_reducible assumption | (with_reducible first | apply State.sPutBy_legal))

theorem State.tells_legal : ∀ (s : State) (team tid : Nat), s.Legal → (s.tells team tid).Legal := by
  intros
  unfold State.tells
  repeat' (first | with_reducible assumption | (with_reducible first | apply State.modTeam_legal))

theorem State.learns_legal : ∀ (s : State) (team tid : Nat), s.Legal → (s.learns team tid).Legal := by
  intros
  unfold State.learns
  repeat' (first | with_reducible assumption | (with_reducible first | apply State.modTeam_legal))

theorem State.matFence_legal : ∀ (s : State) (team tid : Nat), s.Legal → (s.matFence team tid).Legal := by
  intros
  unfold State.matFence
  repeat' (first | with_reducible assumption | (with_reducible first | apply State.modTeam_legal))

theorem State.landWake_legal : ∀ (s : State) (team off : Nat), s.Legal → (s.landWake team off).Legal := by
  intros
  unfold State.landWake
  repeat' (first
      | with_reducible assumption
      | (with_reducible first
          | intro _ | apply State.modThread_legal | apply State.soon_legal | apply Keep.foldl))

theorem State.landEvent_legal : ∀ (s : State) (team off n : Nat) (abort : Bool), s.Legal → (s.landEvent team off n abort).Legal := by
  intros
  unfold State.landEvent
  repeat' (first
      | with_reducible assumption | (with_reducible first | apply State.landWake_legal | apply State.sPut_legal) | split
      | (unfold State.Legal; dsimp only; with_reducible apply Keep.fold))

theorem State.transmit_legal : ∀ (s : State) (port : Nat) (m : Msg), s.Legal → (s.transmit port m).Legal := by
  intros
  unfold State.transmit
  repeat' (first | with_reducible assumption | (with_reducible first | apply State.modPort_legal))

theorem State.sendMsg_legal : ∀ (s : State) (via : Nat) (m : Msg), s.Legal → (s.sendMsg via m).Legal := by
  intros
  unfold State.sendMsg
  repeat' (first
      | with_reducible assumption | (with_reducible first | apply State.transmit_legal) | split
      | (unfold State.Legal; dsimp only; with_reducible apply Keep.fold))

theorem State.turnBack_legal : ∀ (s : State) (t : Transit), s.Legal → (s.turnBack t).Legal := by
  intros
  unfold State.turnBack
  repeat' (first | with_reducible assumption | (with_reducible first | apply State.sendMsg_legal) | split)

theorem State.sendOnward_legal : ∀ (s : State) (t : Transit), s.Legal → (s.sendOnward t).Legal := by
  intros
  unfold State.sendOnward
  repeat' (first
      | with_reducible assumption | (with_reducible first | apply State.transmit_legal | apply State.turnBack_legal) | split
      | (unfold State.Legal; dsimp only; with_reducible apply Keep.fold))

theorem State.moveTransit_legal : ∀ (s : State), s.Legal → s.moveTransit.Legal := by
  intros
  unfold State.moveTransit
  repeat' (first
      | with_reducible assumption | (with_reducible first | apply State.sendOnward_legal | apply Keep.foldl)
      | (unfold State.Legal; dsimp only; with_reducible apply Keep.fold))

theorem State.takeRid_legal : ∀ (s : State), s.Legal → Keep.Snd s.takeRid := by
  intros
  unfold State.takeRid
  repeat' (first | with_reducible assumption | (with_reducible apply_assumption -exfalso -symm))

theorem State.modReq_legal : ∀ (s : State) (rid : Nat) (f : RemReq → RemReq), s.Legal → (s.modReq rid f).Legal := by
  intros
  unfold State.modReq
  repeat' (first | with_reducible assumption | (unfold State.Legal; dsimp only; with_reducible apply Keep.fold))

theorem State.sendOn_legal : ∀ (s : State) (r : RemReq) (port : Nat), s.Legal → (s.sendOn r port).Legal := by
  intros
  unfold State.sendOn
  repeat' (first
      | with_reducible assumption
      | (with_reducible first
          | apply State.touch_legal | apply State.transmit_legal | apply State.modReq_legal))

theorem State.sendKept_legal : ∀ (s : State) (r : RemReq), s.Legal → (s.sendKept r).Legal := by
  intros
  unfold State.sendKept
  repeat' (first | with_reducible assumption | (with_reducible first | apply State.modReq_legal | apply State.sendOn_legal) | split)

theorem State.sendReq_legal : ∀ (s : State) (m : Msg) (what : ReqWhat) (team tid ctx : Nat), s.Legal → Keep.Snd (s.sendReq m what team
    tid ctx) := by
  intros
  unfold State.sendReq
  repeat' (first
      | with_reducible assumption | (with_reducible first | apply State.takeRid_legal | apply State.sendKept_legal | apply Keep.snd)
      | (unfold State.Legal; dsimp only; with_reducible apply Keep.fold)
      | (with_reducible apply Keep.of_pair; with_reducible assumption) | (with_reducible apply Keep.pair))

theorem State.sendWaiting_legal : ∀ (s : State), s.Legal → s.sendWaiting.Legal := by
  intros
  unfold State.sendWaiting
  repeat' (first
      | with_reducible assumption
      | (with_reducible first
          | apply State.moveTransit_legal | apply State.sendKept_legal | apply Keep.foldl))

theorem State.writeRecords_legal : ∀ (s : State) (team : Nat), s.Legal → (s.writeRecords team).Legal := by
  intros
  unfold State.writeRecords
  repeat' (first
      | with_reducible assumption | (with_reducible first | intro _ | apply State.vWrite_legal | apply Keep.foldl | apply Keep.snd)
      | split)

theorem State.mendHood_legal : ∀ (s : State) (tm : Team) (va n : Nat), s.Legal → (s.mendHood tm va n).Legal := by
  intros
  unfold State.mendHood
  repeat' (first | with_reducible assumption | (with_reducible first | apply State.modTeam_legal) | split)

theorem State.frameAt_legal : ∀ (s : State) (tm : Team) (tid i : Nat), s.Legal → Keep.Snd (s.frameAt tm tid i) := by
  intros
  unfold State.frameAt
  repeat' (first
      | with_reducible assumption | (with_reducible first | apply State.vRead_legal | apply State.freeBytes_legal) | split
      | (with_reducible apply Keep.of_pair; with_reducible assumption) | (with_reducible apply Keep.pair))

theorem State.setFrame_legal : ∀ (s : State) (tm : Team) (tid i : Nat) (f : BitVec 128), s.Legal → Keep.Snd (s.setFrame tm tid i f) :=
    by
  intros
  unfold State.setFrame
  repeat' (first
      | with_reducible assumption | (with_reducible first | apply State.vWrite_legal | apply State.mendHood_legal | apply Keep.snd)
      | (with_reducible apply Keep.of_pair; with_reducible assumption) | (with_reducible apply Keep.pair))

theorem State.landAborts_legal : ∀ (s : State) (r : CopyReq), s.Legal → (s.landAborts r).Legal := by
  intros
  unfold State.landAborts
  repeat' (first
      | with_reducible assumption | (with_reducible first | apply State.landEvent_legal | apply State.sendReq_legal | apply Keep.snd)
      | split | (unfold State.Legal; dsimp only; with_reducible apply Keep.fold))

theorem State.dropCopy_legal : ∀ (s : State) (core id : Nat), s.Legal → (s.dropCopy core id).Legal := by
  intros
  unfold State.dropCopy
  repeat' (first | with_reducible assumption | (with_reducible first | apply State.modCore_legal))

theorem State.dropCopies_legal : ∀ (s : State) (p : CopyReq → Bool), s.Legal → (s.dropCopies p).Legal := by
  intros
  unfold State.dropCopies
  repeat' (first
      | with_reducible assumption
      | (with_reducible first
          | intro _ | apply State.landAborts_legal | apply State.dropCopy_legal | apply Keep.foldl))

theorem State.copyAbort_legal : ∀ (s : State) (core : Nat) (r : CopyReq) (cause row : Nat), s.Legal → (s.copyAbort core r cause
    row).Legal := by
  intros
  unfold State.copyAbort
  repeat' (first
      | with_reducible assumption
      | (with_reducible first
          | apply State.landAborts_legal | apply State.dropCopy_legal | apply State.event_legal))

theorem State.freeSlot_legal : ∀ (s : State) (n : Nat), s.Legal → (s.freeSlot n).Legal := by
  intros
  unfold State.freeSlot
  repeat' (first
      | with_reducible assumption
      | (with_reducible first
          | apply State.setQueue_legal | apply State.modQueue_legal | apply State.file_legal | apply State.modThread_legal)
      | split | dsimp only)

theorem State.freeRsv_legal : ∀ (s : State) (team tid : Nat), s.Legal → (s.freeRsv team tid).Legal := by
  intros
  unfold State.freeRsv
  repeat' (first
      | with_reducible assumption
      | (with_reducible first
          | apply State.freeSlot_legal | apply State.modQueue_legal | apply State.modThread_legal)
      | split)

theorem State.pendTrap_legal : ∀ (s : State) (team tid : Nat) (x : Trap), s.Legal → (s.pendTrap team tid x).Legal := by
  intros
  unfold State.pendTrap
  repeat' (first | with_reducible assumption | (with_reducible first | apply State.modThread_legal | apply State.unsched_legal))

theorem State.launchFault_legal : ∀ (s : State) (q team tid : Nat), s.Legal → (s.launchFault q team tid).Legal := by
  intros
  unfold State.launchFault
  repeat' (first | with_reducible assumption | (with_reducible first | apply State.pendTrap_legal | apply State.modThread_legal) | split)

theorem State.posterFault_legal : ∀ (s : State) (q : Nat) (p : Post), s.Legal → (s.posterFault q p).Legal := by
  intros
  unfold State.posterFault
  repeat' (first | with_reducible assumption | (with_reducible first | apply State.launchFault_legal) | split)

theorem State.disableQueue_legal : ∀ (s : State) (n : Nat), s.Legal → (s.disableQueue n).Legal := by
  intros
  unfold State.disableQueue
  repeat' (first
      | with_reducible assumption
      | (with_reducible first
          | intro _ | apply State.setQueue_legal | apply State.posterFault_legal | apply Keep.foldl))

theorem State.clearThreads_legal : ∀ (s : State) (team : Nat), s.Legal → (s.clearThreads team).Legal := by
  intros
  unfold State.clearThreads
  repeat' (first
      | with_reducible assumption
      | (with_reducible first
          | intro _ | apply State.freeRsv_legal | apply State.modCore_legal | apply Keep.foldl)
      | split | (unfold State.Legal; dsimp only; with_reducible apply Keep.fold))

theorem State.dropTeam_legal : ∀ (s : State) (team : Nat), s.Legal → (s.dropTeam team).Legal := by
  intros
  unfold State.dropTeam
  repeat' (first
      | with_reducible assumption | (with_reducible first | apply State.clearThreads_legal | apply State.modLaunch_legal) | split
      | (unfold State.Legal; dsimp only; with_reducible apply Keep.fold))

theorem State.endLaunch_legal : ∀ (s : State) (lid status : Nat), s.Legal → (s.endLaunch lid status).Legal := by
  intros
  unfold State.endLaunch
  repeat' (first
      | with_reducible assumption
      | (with_reducible first
          | apply State.dropCopies_legal | apply State.modLaunch_legal | apply State.dropTeam_legal | apply Keep.foldl)
      | split)

theorem State.keepRsvs_legal : ∀ (s : State) (c : Nat), s.Legal → (s.keepRsvs c).Legal := by
  intros
  unfold State.keepRsvs
  repeat' (first
      | with_reducible assumption
      | (with_reducible first
          | intro _ | apply State.modCtx_legal | apply State.modThreads_legal | apply Keep.foldl))

theorem State.closeQueues_legal : ∀ (s : State) (c : Nat), s.Legal → (s.closeQueues c).Legal := by
  intros
  unfold State.closeQueues
  repeat' (first
      | with_reducible assumption
      | (with_reducible first
          | intro _ | apply State.disableQueue_legal | apply State.posterFault_legal | apply State.modQueue_legal | apply Keep.foldl))

theorem State.stopContext_legal : ∀ (s : State) (c : Nat), s.Legal → (s.stopContext c).Legal := by
  intros
  unfold State.stopContext
  repeat' (first
      | with_reducible assumption
      | (with_reducible first
          | intro _ | apply State.closeQueues_legal | apply State.modCtx_legal | apply State.dropCopies_legal
          | apply State.writeRecords_legal | apply State.keepRsvs_legal | apply State.endLaunch_legal | apply Keep.foldl)
      | (unfold State.Legal; dsimp only; with_reducible apply Keep.fold))

theorem State.faultContext_legal : ∀ (s : State) (c : Nat), s.Legal → (s.faultContext c).Legal := by
  intros
  unfold State.faultContext
  repeat' (first | with_reducible assumption | (with_reducible first | apply State.soon_legal | apply State.modCtx_legal) | split)

theorem State.contextFault_legal : ∀ (s : State) (c : Nat) (r : EvRec), s.Legal → (s.contextFault c r).Legal := by
  intros
  unfold State.contextFault
  repeat' (first
      | with_reducible assumption | (with_reducible first | apply State.eventRec_legal | apply State.faultContext_legal) | split
      | (unfold State.Legal; dsimp only; with_reducible apply Keep.fold))

theorem State.modCopy_legal : ∀ (s : State) (c id : Nat) (f : CopyReq → CopyReq), s.Legal → (s.modCopy c id f).Legal := by
  intros
  unfold State.modCopy
  repeat' (first | with_reducible assumption | (with_reducible first | apply State.modCore_legal))

theorem State.copyFault_legal : ∀ (s : State) (c : Nat) (r : CopyReq) (aux : Nat), s.Legal → (s.copyFault c r aux).Legal := by
  intros
  unfold State.copyFault
  repeat' (first | with_reducible assumption | (with_reducible first | apply State.dropCopy_legal | apply State.contextFault_legal))

theorem State.deliverTrap_legal : ∀ (s : State) (team tid : Nat), s.Legal → (s.deliverTrap team tid).Legal := by
  intros
  unfold State.deliverTrap
  repeat' (first
      | with_reducible assumption
      | (with_reducible first
          | apply State.contextFault_legal | apply State.setFrame_legal | apply State.file_legal | apply State.modThread_legal
          | apply State.endLaunch_legal)
      | split | (with_reducible apply Keep.of_pair; with_reducible assumption))

theorem State.takeTrap_legal : ∀ (s : State) (team tid : Nat) (x : Trap), s.Legal → (s.takeTrap team tid x).Legal := by
  intros
  unfold State.takeTrap
  repeat' (first | with_reducible assumption | (with_reducible first | apply State.deliverTrap_legal | apply State.pendTrap_legal))

theorem State.pageFault_legal : ∀ (s : State) (team tid : Nat) (pc : Pc) (va : DWord) (cause : Nat) (wr xf : Bool), s.Legal →
    (s.pageFault team tid pc va cause wr xf).Legal := by
  intros
  unfold State.pageFault
  repeat' (first
      | with_reducible assumption
      | (with_reducible first
          | apply State.modThread_legal | apply State.unsched_legal | apply State.pfRecord_legal)
      | split)

theorem State.withdraw_legal : ∀ (s : State) (team : Nat), s.Legal → (s.withdraw team).Legal := by
  intros
  unfold State.withdraw
  repeat' (first | with_reducible assumption | (with_reducible first | apply State.modLaunch_legal) | split)

theorem State.stopTeam_legal : ∀ (s : State) (team : Nat) (rec : EvRec), s.Legal → (s.stopTeam team rec).Legal := by
  intros
  unfold State.stopTeam
  repeat' (first
      | with_reducible assumption
      | (with_reducible first
          | apply State.modTeam_legal | apply State.clearThreads_legal | apply State.withdraw_legal | apply State.vWrite_legal
          | apply State.contextFault_legal | apply State.endLaunch_legal | apply Keep.snd)
      | split | (unfold State.Legal; dsimp only; with_reducible apply Keep.fold))

theorem State.killTeam_legal : ∀ (s : State) (team tid : Nat) (pc : Pc) (pa : Nat), s.Legal → (s.killTeam team tid pc pa).Legal := by
  intros
  unfold State.killTeam
  repeat' (first
      | with_reducible assumption
      | (with_reducible first
          | intro _ | apply State.eventRec_legal | apply State.stopTeam_legal | apply Keep.foldl)
      | split)

theorem State.consume_legal : ∀ (s : State) (team tid : Nat) (pc : Pc) (loc pa : Nat), s.Legal → (s.consume team tid pc loc pa).Legal :=
    by
  intros
  unfold State.consume
  repeat' (first
      | with_reducible assumption | (with_reducible first | apply State.killTeam_legal | apply State.contextFault_legal) | split)

theorem State.mapGroup_legal : ∀ (s : State) (g : Group) (f : Nat → Thread → Thread), s.Legal → (s.mapGroup g f).Legal := by
  intros
  unfold State.mapGroup
  repeat' (first | with_reducible assumption | (unfold State.Legal; dsimp only; with_reducible apply Keep.fold))

theorem State.trapGroup_legal : ∀ (s : State) (g : Group) (kind : Nat) (info : DWord) (len : Nat), s.Legal → (s.trapGroup g kind info
    len).Legal := by
  intros
  unfold State.trapGroup
  repeat' (first | with_reducible assumption | (with_reducible first | intro _ | apply State.takeTrap_legal | apply Keep.foldl))

theorem State.placePart_legal : ∀ (s : State) (c : Nat) (g : Group) (lanes : List (Nat × Nat)), s.Legal → (s.placePart c g lanes).Legal
    := by
  intros
  unfold State.placePart
  repeat' (first
      | with_reducible assumption
      | (with_reducible first
          | intro _ | apply State.setCore_legal | apply State.file_legal | apply Keep.foldl)
      | split | dsimp only)

theorem State.parts_legal : ∀ (s : State) (c slot : Nat) (latch : List Nat), s.Legal → (s.parts c slot latch).Legal := by
  intros
  unfold State.parts
  repeat' (first
      | with_reducible assumption
      | (with_reducible first
          | intro _ | apply State.setCore_legal | apply State.file_legal | apply State.placePart_legal | apply Keep.foldl)
      | split | (unfold State.Legal; dsimp only; with_reducible apply Keep.fold))

theorem State.settle_legal : ∀ (s : State) (c slot : Nat) (latch : List Nat), s.Legal → (s.settle c slot latch).Legal := by
  intros
  unfold State.settle
  repeat' (first | with_reducible assumption | (with_reducible first | apply State.strayRoom_legal | apply State.parts_legal))

theorem State.eatFirst_legal : ∀ (s : State) (g : Group) (h : Hdr) (vs : List VOp), s.Legal → Keep.Opt (s.eatFirst g h vs) := by
  intros
  unfold State.eatFirst
  repeat' (first | with_reducible assumption | (with_reducible first | intro _ | apply State.consume_legal | apply Keep.map))

theorem State.aluAll_legal : ∀ (s : State) (g : Group) (h : Hdr) (len : Nat) (long : Bool) (f : Nat → Thread → Except Flt Eff), s.Legal
    → (s.aluAll g h len long f).Legal := by
  intros
  unfold State.aluAll
  repeat' (first
      | with_reducible assumption | (with_reducible first | apply State.mapGroup_legal)
      | (unfold State.Legal; dsimp only; with_reducible apply Keep.fold))

theorem runAlu_legal : ∀ (h : Hdr) (len : Nat) (long : Bool) (vs : List VOp) (a : Option VReg) (f : Team → Nat → Thread → Except Flt
    Eff) (s : State), s.Legal → Keep.Out (runAlu h len long vs a f s) := by
  intros
  unfold runAlu
  repeat' (first
      | with_reducible assumption
      | (with_reducible first
          | intro _ | apply State.settle_legal | apply State.trapGroup_legal | apply State.eatFirst_legal | apply State.aluAll_legal
          | apply State.takeTrap_legal | apply Keep.next | apply Keep.foldl)
      | split | (with_reducible apply Keep.of_some; with_reducible assumption))

theorem State.issueAll_legal : ∀ (s : State) (g : Group) (len : Nat), s.Legal → (s.issueAll g len).Legal := by
  intros
  unfold State.issueAll
  repeat' (first
      | with_reducible assumption | (with_reducible first | apply State.mapGroup_legal)
      | (unfold State.Legal; dsimp only; with_reducible apply Keep.fold))

theorem runLive_legal : ∀ (h : Hdr) (len : Nat) (priv : Option DWord) (vs : List VOp) (a : Option VReg) (f : Nat → Group → Team → List
    (Nat × Nat × Thread) → State → State) (s : State), (∀ (a : Nat) (a_1 : Group) (a_2 : Team) (a_3 : List (Nat × Nat × Thread)) (a_4 :
    State), a_4.Legal → (f a a_1 a_2 a_3 a_4).Legal) → s.Legal → Keep.Out (runLive h len priv vs a f s) := by
  intros
  unfold runLive
  repeat' (first
      | with_reducible assumption
      | (with_reducible first
          | apply State.settle_legal | apply State.trapGroup_legal | apply State.eatFirst_legal | apply Keep.next)
      | split | (with_reducible apply Keep.of_some; with_reducible assumption) | (with_reducible apply_assumption -exfalso -symm))

theorem runLanes_legal : ∀ (h : Hdr) (len : Nat) (priv : Option DWord) (vs : List VOp) (a : Option VReg) (f : Nat → Nat → Team → Nat →
    Thread → State → State) (s : State), (∀ (a a_1 : Nat) (a_2 : Team) (a_3 : Nat) (a_4 : Thread) (a_5 : State), a_5.Legal → (f a a_1 a_2
    a_3 a_4 a_5).Legal) → s.Legal → Keep.Out (runLanes h len priv vs a f s) := by
  intros
  unfold runLanes
  repeat' (first
      | with_reducible assumption | (with_reducible first | intro _ | apply runLive_legal | apply Keep.foldl) | split
      | (with_reducible apply_assumption -exfalso -symm))

theorem State.park_legal : ∀ (s : State) (team tid : Nat) (w : Wait), s.Legal → (s.park team tid w).Legal := by
  intros
  unfold State.park
  repeat' (first | with_reducible assumption | (with_reducible first | apply State.modThread_legal | apply State.unsched_legal))

theorem State.openWin_legal : ∀ (s : State) (team tid : Nat) (w : Window), s.Legal → (s.openWin team tid w).Legal := by
  intros
  unfold State.openWin
  repeat' (first | with_reducible assumption | (with_reducible first | apply State.modThread_legal))

theorem State.openWait_legal : ∀ (s : State) (team tid : Nat) (w : Window) (x : Wait), s.Legal → (s.openWait team tid w x).Legal := by
  intros
  unfold State.openWait
  repeat' (first | with_reducible assumption | (with_reducible first | apply State.openWin_legal | apply State.park_legal) | split)

theorem State.closeRegion_legal : ∀ (s : State) (team tid : Nat), s.Legal → (s.closeRegion team tid).Legal := by
  intros
  unfold State.closeRegion
  repeat' (first | with_reducible assumption | (with_reducible first | apply State.modThread_legal))

theorem State.setCache_legal : ∀ (s : State) (c : CacheRef) (x : Cache), s.Legal → (s.setCache c x).Legal := by
  intros
  unfold State.setCache
  repeat' (first | with_reducible assumption | (with_reducible first | apply State.modCore_legal | apply State.modDie_legal) | split)

theorem State.modKey_legal : ∀ (s : State) (die key : Nat) (f : Retain → Retain), s.Legal → (s.modKey die key f).Legal := by
  intros
  unfold State.modKey
  repeat' (first | with_reducible assumption | (with_reducible first | apply State.modDie_legal))

theorem State.modRange_legal : ∀ (s : State) (die ctx idx : Nat) (f : Retain → Retain), s.Legal → (s.modRange die ctx idx f).Legal := by
  intros
  unfold State.modRange
  repeat' (first | with_reducible assumption | (with_reducible first | apply State.modKey_legal))

theorem State.countFill_legal : ∀ (s : State) (d : Nat) (rng : Option Nat) (keep : Bool), s.Legal → (s.countFill d rng keep).Legal := by
  intros
  unfold State.countFill
  repeat' (first | with_reducible assumption | (with_reducible first | apply State.modKey_legal) | split)

theorem State.countHit_legal : ∀ (s : State) (d : Nat) (rng : Option Nat) (l : Line) (lanes : Nat), s.Legal → (s.countHit d rng l
    lanes).Legal := by
  intros
  unfold State.countHit
  repeat' (first | with_reducible assumption | (with_reducible first | apply State.modKey_legal) | split)

theorem State.countUE_legal : ∀ (s : State) (pa : Nat), s.Legal → (s.countUE pa).Legal := by
  intros
  unfold State.countUE
  repeat' (first
      | with_reducible assumption | (with_reducible first | apply State.soon_legal | apply State.pokeNat_legal) | split | dsimp only)

theorem State.siHome_legal : ∀ (s : State) (l : Line), s.Legal → (s.siHome l).Legal := by
  intro s l h
  have : State.Legal { s with mem := (upTo 128).foldl (fun m i => if l.dirty.testBit i then spPut m (s.home (l.ln * 128 + i))
      (l.data.getD i 0) else m) s.mem } := ⟨Keep.wf (fun m a hm => by split; exact spPut_wf _ _ _ hm; exact hm) h.1, h.2⟩
  unfold State.siHome
  dsimp only
  split
  exact State.setPoison_legal _ _ this
  exact this

theorem State.toHome_legal : ∀ (s : State) (l : Line), s.Legal → (s.toHome l).Legal := by
  intros
  unfold State.toHome
  repeat' (first
      | with_reducible assumption | (with_reducible first | apply State.siHome_legal | apply State.countUE_legal) | split | dsimp only)

theorem State.dirSet_legal : ∀ (s : State) (d : DirRef) (ln : Nat) (es : List DirEntry), s.Legal → (s.dirSet d ln es).Legal := by
  intros
  unfold State.dirSet
  repeat' (first | with_reducible assumption | (unfold State.Legal; dsimp only; with_reducible apply Keep.fold))

theorem State.dropEntry_legal : ∀ (s : State) (e : DirEntry) (c : CacheRef), s.Legal → (s.dropEntry e c).Legal := by
  intros
  unfold State.dropEntry
  repeat' (first
      | with_reducible assumption | (with_reducible first | apply State.toHome_legal | apply State.setCache_legal | apply Keep.foldl))

theorem State.recall_legal : ∀ (s : State) (e : DirEntry), s.Legal → (s.recall e).Legal := by
  intros
  unfold State.recall
  repeat' (first | with_reducible assumption | (with_reducible first | intro _ | apply State.dropEntry_legal | apply Keep.foldl) | split)

theorem State.unexport_legal : ∀ (s : State) (d : DirRef) (base : Nat), s.Legal → (s.unexport d base).Legal := by
  intros
  unfold State.unexport
  repeat' (first | with_reducible assumption | (with_reducible first | apply State.modDie_legal) | split)

theorem State.dirFree_legal : ∀ (s : State) (d : DirRef) (e : DirEntry), s.Legal → (s.dirFree d e).Legal := by
  intros
  unfold State.dirFree
  repeat' (first
      | with_reducible assumption | (with_reducible first | apply State.unexport_legal)
      | (unfold State.Legal; dsimp only; with_reducible apply Keep.fold))

theorem State.recallEntry_legal : ∀ (s : State) (d : DirRef) (e : DirEntry), s.Legal → (s.recallEntry d e).Legal := by
  intros
  unfold State.recallEntry
  repeat' (first
      | with_reducible assumption | (with_reducible first | apply State.recall_legal | apply State.dirFree_legal) | split
      | (unfold State.Legal; dsimp only; with_reducible apply Keep.fold))

theorem State.dirRoom_legal : ∀ (s : State) (d : DirRef) (base : Nat), s.Legal → Keep.Snd (s.dirRoom d base) := by
  intros
  unfold State.dirRoom
  repeat' (first
      | with_reducible assumption | (with_reducible first | apply State.recallEntry_legal) | split | (with_reducible apply Keep.pair))

theorem State.dirEntry_legal : ∀ (s : State) (d : DirRef) (ln : Nat), s.Legal → Keep.Snd (s.dirEntry d ln) := by
  intros
  unfold State.dirEntry
  repeat' (first
      | with_reducible assumption | (with_reducible first | apply State.dirRoom_legal) | split
      | (unfold State.Legal; dsimp only; with_reducible apply Keep.fold)
      | (with_reducible apply Keep.of_pair; with_reducible assumption) | (with_reducible apply Keep.pair))

theorem State.toCrown_legal : ∀ (s : State) (l : Line), s.Legal → (s.toCrown l).Legal := by
  intros
  unfold State.toCrown
  repeat' (first
      | with_reducible assumption
      | (with_reducible first
          | apply State.dirEntry_legal | apply State.toHome_legal | apply State.dirSet_legal | apply State.setCache_legal
          | apply Keep.foldl)
      | split | (with_reducible apply Keep.of_pair; with_reducible assumption))

theorem State.l2Out_legal : ∀ (s : State) (l : Line), s.Legal → (s.l2Out l).Legal := by
  intros
  unfold State.l2Out
  repeat' (first | with_reducible assumption | (with_reducible first | apply State.toHome_legal | apply State.toCrown_legal) | split)

theorem State.expandL2_legal : ∀ (s : State) (d ln : Nat), s.Legal → (s.expandL2 d ln).Legal := by
  intros
  unfold State.expandL2
  repeat' (first
      | with_reducible assumption | (with_reducible first | apply State.l2Out_legal | apply State.setCache_legal | apply Keep.foldl))

theorem State.fillL2_legal : ∀ (s : State) (d : Nat) (l : Line), s.Legal → (s.fillL2 d l).Legal := by
  intros
  unfold State.fillL2
  repeat' (first
      | with_reducible assumption | (with_reducible first | apply State.l2Out_legal | apply State.setCache_legal | apply Keep.foldl))

theorem State.pokeMask_legal : ∀ (s : State) (ln mask : Nat) (data : List Byte), s.Legal → (s.pokeMask ln mask data).Legal := by
  intro s l m d h
  exact ⟨Keep.wf (fun m i hm => by split; exact spPut_wf _ _ _ hm; exact hm) h.1, h.2⟩

theorem State.siL2Write_legal : ∀ (s : State) (d ctx ln hint mask : Nat) (cmp : Bool) (data : List Byte) (poison : Bool), s.Legal →
    (s.siL2Write d ctx ln hint mask cmp data poison).Legal := by
  intros
  unfold State.siL2Write
  repeat' (first
      | with_reducible assumption
      | (with_reducible first
          | apply State.setCache_legal | apply State.expandL2_legal | apply State.fillL2_legal | apply State.pokeMask_legal
          | apply State.setPoison_legal)
      | split | (unfold State.Legal; dsimp only; with_reducible apply Keep.fold))

theorem State.l1Out_legal : ∀ (s : State) (core : Nat) (l : Line), s.Legal → (s.l1Out core l).Legal := by
  intros
  unfold State.l1Out
  repeat' (first | with_reducible assumption | (with_reducible first | apply State.siL2Write_legal) | split)

theorem State.fillL1_legal : ∀ (s : State) (core : Nat) (l : Line), s.Legal → (s.fillL1 core l).Legal := by
  intros
  unfold State.fillL1
  repeat' (first
      | with_reducible assumption
      | (with_reducible first
          | intro _ | apply State.l1Out_legal | apply State.setCache_legal | apply Keep.foldl))

theorem State.evict_legal : ∀ (s : State) (c : CacheRef) (ln : Nat), s.Legal → (s.evict c ln).Legal := by
  intros
  unfold State.evict
  repeat' (first
      | with_reducible assumption
      | (with_reducible first
          | apply State.setCache_legal | apply State.l1Out_legal | apply State.l2Out_legal | apply State.toHome_legal)
      | split)

theorem State.writeBack_legal : ∀ (s : State) (c : CacheRef) (ln : Nat), s.Legal → (s.writeBack c ln).Legal := by
  intros
  unfold State.writeBack
  repeat' (first
      | with_reducible assumption
      | (with_reducible first
          | apply State.setCache_legal | apply State.l1Out_legal | apply State.l2Out_legal | apply State.toHome_legal)
      | split)

theorem State.siRelease_legal : ∀ (s : State) (core ctx : Nat) (sc : Scope), s.Legal → (s.siRelease core ctx sc).Legal := by
  intros
  unfold State.siRelease
  repeat' (first | with_reducible assumption | (with_reducible first | intro _ | apply State.writeBack_legal | apply Keep.foldl) | split)

theorem State.siAcquire_legal : ∀ (s : State) (core ctx : Nat) (sc : Scope), s.Legal → (s.siAcquire core ctx sc).Legal := by
  intros
  unfold State.siAcquire
  repeat' (first | with_reducible assumption | (with_reducible first | intro _ | apply State.evict_legal | apply Keep.foldl) | split)

theorem State.invalidate_legal : ∀ (s : State) (h : Holder) (ln : Nat), s.Legal → (s.invalidate h ln).Legal := by
  intros
  unfold State.invalidate
  repeat' (first | with_reducible assumption | (with_reducible first | intro _ | apply State.setCache_legal | apply Keep.foldl) | split)

theorem State.downgrade_legal : ∀ (s : State) (h : Holder) (ln : Nat), s.Legal → (s.downgrade h ln).Legal := by
  intros
  unfold State.downgrade
  repeat' (first | with_reducible assumption | (with_reducible first | apply State.setCache_legal) | split)

theorem State.dirTrim_legal : ∀ (s : State) (d : DirRef) (ln base : Nat), s.Legal → (s.dirTrim d ln base).Legal := by
  intros
  unfold State.dirTrim
  repeat' (first | with_reducible assumption | (with_reducible first | apply State.recallEntry_legal) | split)

theorem State.dirSplit_legal : ∀ (s : State) (d : DirRef) (ln : Nat) (e : DirEntry) (h : Holder) (excl : Bool), s.Legal → Keep.Snd
    (s.dirSplit d ln e h excl) := by
  intros
  unfold State.dirSplit
  repeat' (first
      | with_reducible assumption
      | (with_reducible first
          | intro _ | apply State.dirTrim_legal | apply State.dirSet_legal | apply Keep.foldl)
      | split | (with_reducible apply Keep.pair))

theorem State.dirServe_legal : ∀ (s : State) (d : DirRef) (ln : Nat) (h : Holder) (excl : Bool), s.Legal → Keep.Snd (s.dirServe d ln h
    excl) := by
  intros
  unfold State.dirServe
  repeat' (first
      | with_reducible assumption
      | (with_reducible first
          | intro _ | apply State.dirEntry_legal | apply State.dirSet_legal | apply State.dirSplit_legal | apply State.invalidate_legal
          | apply State.downgrade_legal | apply Keep.foldl)
      | split | (with_reducible apply Keep.of_pair; with_reducible assumption) | (with_reducible apply Keep.pair))

theorem State.setExport_legal : ∀ (s : State) (d ln : Nat), s.Legal → (s.setExport d ln).Legal := by
  intros
  unfold State.setExport
  repeat' (first
      | with_reducible assumption
      | (with_reducible first
          | intro _ | apply State.dirServe_legal | apply State.modDie_legal | apply Keep.foldl | apply Keep.snd)
      | split | (unfold State.Legal; dsimp only; with_reducible apply Keep.fold))

theorem State.l2Obtain_legal : ∀ (s : State) (d ln : Nat) (excl : Bool), s.Legal → Keep.Snd (s.l2Obtain d ln excl) := by
  intros
  unfold State.l2Obtain
  repeat' (first
      | with_reducible assumption | (with_reducible first | apply State.dirServe_legal | apply State.setExport_legal) | split
      | (with_reducible apply_assumption -exfalso -symm))

theorem State.l1Obtain_legal : ∀ (s : State) (core ln : Nat) (excl : Bool), s.Legal → Keep.Snd (s.l1Obtain core ln excl) := by
  intros
  unfold State.l1Obtain
  repeat' (first
      | with_reducible assumption | (with_reducible first | apply State.dirServe_legal | apply Keep.snd)
      | (with_reducible apply Keep.of_pair; with_reducible assumption) | (with_reducible apply Keep.pair))

theorem State.wakeWatch_legal : ∀ (s : State) (ln : Nat), s.Legal → (s.wakeWatch ln).Legal := by
  intros
  unfold State.wakeWatch
  repeat' (first | with_reducible assumption | (with_reducible first | apply State.soon_legal) | split | dsimp only)

theorem State.l2Fetch_legal : ∀ (s : State) (d ctx : Nat) (rng : Option Nat) (x : Xlat) (ln lanes : Nat), s.Legal → Keep.Snd (s.l2Fetch
    d ctx rng x ln lanes) := by
  intros
  unfold State.l2Fetch
  repeat' (first
      | with_reducible assumption
      | (with_reducible first
          | apply State.countHit_legal | apply State.setCache_legal | apply State.l2Obtain_legal | apply State.setExport_legal
          | apply State.fillL2_legal | apply State.countFill_legal)
      | split | (with_reducible apply Keep.of_pair; with_reducible assumption) | (with_reducible apply Keep.pair))

theorem State.l1Fetch_legal : ∀ (s : State) (core ctx : Nat) (x : Xlat) (ln : Nat) (ex : Bool), s.Legal → (s.l1Fetch core ctx x ln
    ex).Legal := by
  intros
  unfold State.l1Fetch
  repeat' (first
      | with_reducible assumption | (with_reducible first | apply State.l1Obtain_legal | apply State.fillL1_legal) | split
      | (with_reducible apply Keep.of_pair; with_reducible assumption) | (with_reducible apply_assumption -exfalso -symm))

theorem State.lineLoad_legal : ∀ (s : State) (core ctx va : Nat) (x : Xlat) (ln lanes : Nat), s.Legal → (s.lineLoad core ctx va x ln
    lanes).Legal := by
  intros
  unfold State.lineLoad
  repeat' (first
      | with_reducible assumption
      | (with_reducible first
          | apply State.setCache_legal | apply State.l2Fetch_legal | apply State.l1Fetch_legal)
      | split | (with_reducible apply Keep.of_pair; with_reducible assumption))

theorem State.lineStore_legal : ∀ (s : State) (d : Nat) (core : Option Nat) (ctx : Nat) (rng : Option Nat) (hint : Nat) (cmp : Bool) (ln
    mask lanes : Nat), s.Legal → (s.lineStore d core ctx rng hint cmp ln mask lanes).Legal := by
  intros
  unfold State.lineStore
  repeat' (first
      | with_reducible assumption
      | (with_reducible first
          | intro _ | apply State.l2Obtain_legal | apply State.invalidate_legal | apply State.wakeWatch_legal
          | apply State.setCache_legal | apply State.countHit_legal | apply State.expandL2_legal | apply State.fillL2_legal
          | apply State.countFill_legal | apply Keep.foldl)
      | split | (unfold State.Legal; dsimp only; with_reducible apply Keep.fold)
      | (with_reducible apply Keep.of_pair; with_reducible assumption))

theorem State.crownStore_legal : ∀ (s : State) (ctx hint : Nat) (cmp : Bool) (ln mask : Nat), s.Legal → (s.crownStore ctx hint cmp ln
    mask).Legal := by
  intros
  unfold State.crownStore
  repeat' (first
      | with_reducible assumption
      | (with_reducible first
          | apply State.dirServe_legal | apply State.wakeWatch_legal | apply State.setCache_legal | apply State.toHome_legal
          | apply Keep.foldl | apply Keep.snd)
      | split | (unfold State.Legal; dsimp only; with_reducible apply Keep.fold))

theorem State.ctAsk_legal : ∀ (s : State) (core cls hint : Nat) (a : Ask) (pa : Nat), s.Legal → Keep.Snd (s.ctAsk core cls hint a pa) :=
    by
  intros
  unfold State.ctAsk
  repeat' (first
      | with_reducible assumption
      | (with_reducible first
          | apply State.l2Obtain_legal | apply State.l1Obtain_legal | apply State.setExport_legal | apply State.dirServe_legal
          | apply Keep.snd)
      | split | (with_reducible apply_assumption -exfalso -symm) | dsimp only)

theorem State.lineTaken_legal : ∀ (s : State) (ln : Nat), s.Legal → (s.lineTaken ln).Legal := by
  intros
  unfold State.lineTaken
  repeat' (first
      | with_reducible assumption | (with_reducible first | apply State.wakeWatch_legal)
      | (unfold State.Legal; dsimp only; with_reducible apply Keep.fold))

theorem State.siL2Get_legal : ∀ (s : State) (core ctx : Nat) (rng : Option Nat) (hint : Nat) (cmp : Bool) (ln lanes : Nat), s.Legal →
    (s.siL2Get core ctx rng hint cmp ln lanes).Legal := by
  intros
  unfold State.siL2Get
  repeat' (first
      | with_reducible assumption
      | (with_reducible first
          | apply State.countHit_legal | apply State.setCache_legal | apply State.fillL2_legal | apply State.countFill_legal)
      | split | (unfold State.Legal; dsimp only; with_reducible apply Keep.fold))

theorem State.siBack_legal : ∀ (s : State) (c : CacheRef) (ln : Nat), s.Legal → (s.siBack c ln).Legal := by
  intros
  unfold State.siBack
  repeat' (first | with_reducible assumption | (with_reducible first | apply State.writeBack_legal) | split)

theorem State.siOut_legal : ∀ (s : State) (p : Point) (core ln : Nat), s.Legal → (s.siOut p core ln).Legal := by
  intros
  unfold State.siOut
  repeat' (first | with_reducible assumption | (with_reducible first | apply State.siBack_legal) | split)

theorem State.siFresh_legal : ∀ (s : State) (p : Point) (core ln : Nat) (b : List Byte × Bool), s.Legal → (s.siFresh p core ln b).Legal
    := by
  intros
  unfold State.siFresh
  repeat' (first | with_reducible assumption | (with_reducible first | apply State.setCache_legal) | split)

theorem State.siLine_legal : ∀ (s : State) (p : Point) (core ctx : Nat) (rng : Option Nat) (hint : Nat) (cmp : Bool) (ln lanes : Nat),
    s.Legal → Keep.Snd (s.siLine p core ctx rng hint cmp ln lanes) := by
  intros
  unfold State.siLine
  repeat' (first
      | with_reducible assumption
      | (with_reducible first
          | apply State.siOut_legal | apply State.siFresh_legal | apply State.siL2Get_legal | apply State.setCache_legal
          | apply State.fillL1_legal)
      | split | (with_reducible apply Keep.pair))

theorem State.asked_legal : ∀ (s : State) (core pa : Nat), s.Legal → (s.asked core pa).Legal := by
  intros
  unfold State.asked
  repeat' (first | with_reducible assumption | (with_reducible first | apply State.setExport_legal))

theorem State.readPoint_legal : ∀ (s : State) (core ctx : Nat) (rng : Option Nat) (x : Xlat) (sc : Scope) (pa n lanes : Nat), s.Legal →
    Keep.Snd (s.readPoint core ctx rng x sc pa n lanes) := by
  intros
  unfold State.readPoint
  repeat' (first
      | with_reducible assumption | (with_reducible first | apply State.siLine_legal | apply State.asked_legal) | split
      | (with_reducible apply Keep.of_pair; with_reducible assumption) | (with_reducible apply Keep.pair))

theorem State.siWrite_legal : ∀ (s : State) (p : Point) (core ctx : Nat) (rng : Option Nat) (hint : Nat) (cmp : Bool) (pa : Nat) (b :
    List Byte) (lanes : Nat), s.Legal → (s.siWrite p core ctx rng hint cmp pa b lanes).Legal := by
  intros
  unfold State.siWrite
  repeat' (first
      | with_reducible assumption
      | (with_reducible first
          | apply State.siOut_legal | apply State.siLine_legal | apply State.setCache_legal | apply State.siL2Write_legal
          | apply State.siL2Get_legal | apply State.pokeN_legal | apply State.asked_legal | apply Keep.snd)
      | split | (unfold State.Legal; dsimp only; with_reducible apply Keep.fold))

theorem State.writePoint_legal : ∀ (s : State) (core ctx : Nat) (rng : Option Nat) (cls hint : Nat) (cmp : Bool) (sc : Scope) (pa : Nat)
    (b : List Byte) (lanes : Nat), s.Legal → (s.writePoint core ctx rng cls hint cmp sc pa b lanes).Legal := by
  intros
  unfold State.writePoint
  repeat' (first
      | with_reducible assumption
      | (with_reducible first
          | apply State.siWrite_legal | apply State.lineStore_legal | apply State.pokeN_legal | apply State.wakeWatch_legal
          | apply State.asked_legal)
      | split)

theorem State.aluHold_legal : ∀ (s : State) (core ctx : Nat) (rng : Option Nat) (x : Xlat) (sc : Scope) (pa mask lanes : Nat), s.Legal →
    (s.aluHold core ctx rng x sc pa mask lanes).Legal := by
  intros
  unfold State.aluHold
  repeat' (first
      | with_reducible assumption
      | (with_reducible first
          | apply State.lineStore_legal | apply State.l1Obtain_legal | apply State.l1Fetch_legal | apply State.setExport_legal
          | apply State.crownStore_legal | apply Keep.snd)
      | split | (unfold State.Legal; dsimp only; with_reducible apply Keep.fold))

theorem State.writeAtomic_legal : ∀ (s : State) (core ctx : Nat) (rng : Option Nat) (x : Xlat) (sc : Scope) (pa : Nat) (b : Option (List
    Byte)) (lanes : Nat), s.Legal → (s.writeAtomic core ctx rng x sc pa b lanes).Legal := by
  intros
  unfold State.writeAtomic
  repeat' (first
      | with_reducible assumption
      | (with_reducible first
          | apply State.aluHold_legal | apply State.pokeN_legal | apply State.writePoint_legal)
      | split)

theorem State.storeFault_legal : ∀ (s : State) (r : StoreReq) (aux : Nat), s.Legal → (s.storeFault r aux).Legal := by
  intros
  unfold State.storeFault
  repeat' (first | with_reducible assumption | (with_reducible first | apply State.contextFault_legal))

theorem State.storeLocal_legal : ∀ (s : State) (r : StoreReq) (lanes : Nat), s.Legal → (s.storeLocal r lanes).Legal := by
  intros
  unfold State.storeLocal
  repeat' (first
      | with_reducible assumption
      | (with_reducible first
          | apply State.writePoint_legal | apply State.readPoint_legal | apply State.writeAtomic_legal | apply Keep.snd)
      | split)

theorem State.storeLanes_legal : ∀ (s : State) (rs : List StoreReq), s.Legal → (s.storeLanes rs).Legal := by
  intro s rs h
  unfold State.storeLanes
  exact Keep.fst (fun a r ha => State.storeLocal_legal _ _ _ ha) h

theorem State.sendStore_legal : ∀ (s : State) (r : StoreReq) (rs : List StoreReq), s.Legal → (s.sendStore r rs).Legal := by
  intros
  unfold State.sendStore
  repeat' (first
      | with_reducible assumption | (with_reducible first | intro _ | apply State.sendReq_legal | apply Keep.foldl | apply Keep.snd)
      | split)

theorem State.performReq_legal : ∀ (s : State) (rs : List StoreReq), s.Legal → (s.performReq rs).Legal := by
  intros
  unfold State.performReq
  repeat' (first
      | with_reducible assumption
      | (with_reducible first
          | apply State.storeFault_legal | apply State.sendStore_legal | apply State.storeLanes_legal | apply State.clearPoison_legal)
      | split | (unfold State.Legal; dsimp only; with_reducible apply Keep.fold))

theorem State.reqAsk_legal : ∀ (s : State) (rs : List StoreReq), s.Legal → Keep.Snd (s.reqAsk rs) := by
  intros
  unfold State.reqAsk
  repeat' (first
      | with_reducible assumption | (with_reducible first | apply State.ctAsk_legal) | split
      | (with_reducible apply_assumption -exfalso -symm))

theorem State.acceptReq_legal : ∀ (s : State) (core id : Nat), s.Legal → (s.acceptReq core id).Legal := by
  intros
  unfold State.acceptReq
  repeat' (first | with_reducible assumption | (with_reducible first | apply State.performReq_legal | apply State.modCore_legal))

theorem State.drainTo_legal : ∀ (s : State) (core : Nat) (p : StoreReq → Bool), s.Legal → (s.drainTo core p).Legal := by
  intros
  unfold State.drainTo
  repeat' (first
      | with_reducible assumption | (with_reducible first | intro _ | apply State.acceptReq_legal | apply Keep.foldl) | split
      | dsimp only)

theorem State.drain_legal : ∀ (s : State) (core : Nat), s.Legal → (s.drain core).Legal := by
  intros
  unfold State.drain
  repeat' (first | with_reducible assumption | (with_reducible first | apply State.drainTo_legal))

theorem State.acquire_legal : ∀ (s : State) (core ctx : Nat) (sc : Scope), s.Legal → (s.acquire core ctx sc).Legal := by
  intros
  unfold State.acquire
  repeat' (first | with_reducible assumption | (with_reducible first | apply State.siAcquire_legal))

theorem State.release_legal : ∀ (s : State) (core ctx : Nat) (sc : Scope), s.Legal → (s.release core ctx sc).Legal := by
  intros
  unfold State.release
  repeat' (first | with_reducible assumption | (with_reducible first | apply State.siRelease_legal | apply State.drain_legal))

theorem State.acqIf_legal : ∀ (s : State) (o : Order) (core ctx : Nat) (sc : Scope), s.Legal → (s.acqIf o core ctx sc).Legal := by
  intros
  unfold State.acqIf
  repeat' (first | with_reducible assumption | (with_reducible first | apply State.acquire_legal) | split)

theorem State.relIf_legal : ∀ (s : State) (o : Order) (core ctx : Nat) (sc : Scope), s.Legal → (s.relIf o core ctx sc).Legal := by
  intros
  unfold State.relIf
  repeat' (first | with_reducible assumption | (with_reducible first | apply State.release_legal) | split)

theorem State.acqBy_legal : ∀ (s : State) (o : Order) (team tid core ctx : Nat) (sc : Scope), s.Legal → (s.acqBy o team tid core ctx
    sc).Legal := by
  intros
  unfold State.acqBy
  repeat' (first | with_reducible assumption | (with_reducible first | apply State.acqIf_legal | apply State.learns_legal) | split)

theorem State.relBy_legal : ∀ (s : State) (o : Order) (team : Nat) (live : List (Nat × Nat × Thread)) (core ctx : Nat) (sc : Scope),
    s.Legal → (s.relBy o team live core ctx sc).Legal := by
  intros
  unfold State.relBy
  repeat' (first
      | with_reducible assumption
      | (with_reducible first
          | intro _ | apply State.relIf_legal | apply State.tells_legal | apply Keep.foldl)
      | split)

theorem State.readGlobal_legal : ∀ (s : State) (core team tid ctx : Nat) (va : DWord) (x : Xlat) (sc : Scope) (gpa n lanes : Nat),
    s.Legal → Keep.Snd (s.readGlobal core team tid ctx va x sc gpa n lanes) := by
  intros
  unfold State.readGlobal
  repeat' (first
      | with_reducible assumption | (with_reducible first | apply State.drainTo_legal | apply State.readPoint_legal | apply Keep.snd)
      | (with_reducible apply Keep.pair))

theorem State.flushLog_legal : ∀ (s : State) (team : Nat), s.Legal → (s.flushLog team).Legal := by
  intros
  unfold State.flushLog
  repeat' (first
      | with_reducible assumption
      | (with_reducible first
          | intro _ | apply State.modTeam_legal | apply State.performReq_legal | apply State.release_legal | apply Keep.foldl)
      | split | (unfold State.Legal; dsimp only; with_reducible apply Keep.fold))

theorem State.closeWindow_legal : ∀ (s : State) (team : Nat), s.Legal → (s.closeWindow team).Legal := by
  intros
  unfold State.closeWindow
  repeat' (first | with_reducible assumption | (with_reducible first | apply State.modTeam_legal | apply State.flushLog_legal) | split)

theorem State.crossGate_legal : ∀ (s : State) (team : Nat), s.Legal → (s.crossGate team).Legal := by
  intros
  unfold State.crossGate
  repeat' (first | with_reducible assumption | (with_reducible first | apply State.closeWindow_legal))

theorem State.relWaits_legal : ∀ (s : State) (c team : Nat) (live : List (Nat × Nat × Thread)) (ord : Order) (sys : Bool), s.Legal →
    Keep.Opt (s.relWaits c team live ord sys) := by
  intros
  unfold State.relWaits
  repeat' (first
      | with_reducible assumption | (with_reducible first | apply State.drain_legal | apply Keep.some | apply Keep.none) | split)

theorem State.collIssue_legal : ∀ (s : State) (core : Nat) (c : Coll), s.Legal → (s.collIssue core c).Legal := by
  intros
  unfold State.collIssue
  repeat' (first
      | with_reducible assumption
      | (with_reducible first
          | intro _ | apply State.modCore_legal | apply State.modThread_legal | apply Keep.foldl))

theorem State.collCheckAt_legal : ∀ (s : State) (core team : Nat), s.Legal → (s.collCheckAt core team).Legal := by
  intros
  unfold State.collCheckAt
  repeat' (first | with_reducible assumption | (with_reducible first | intro _ | apply State.collIssue_legal | apply Keep.foldl))

theorem State.collCheck_legal : ∀ (s : State) (team : Nat), s.Legal → (s.collCheck team).Legal := by
  intros
  unfold State.collCheck
  repeat' (first
      | with_reducible assumption | (with_reducible first | intro _ | apply State.collCheckAt_legal | apply Keep.foldl) | split)

theorem State.modColls_legal : ∀ (s : State) (team : Nat) (f : Coll → Coll), s.Legal → (s.modColls team f).Legal := by
  intros
  unfold State.modColls
  repeat' (first | with_reducible assumption | (with_reducible first | intro _ | apply State.modCore_legal | apply Keep.foldl) | split)

theorem State.abstain_legal : ∀ (s : State) (team tid : Nat) (pci : Pc), s.Legal → (s.abstain team tid pci).Legal := by
  intros
  unfold State.abstain
  repeat' (first | with_reducible assumption | (with_reducible first | apply State.modThread_legal | apply State.modColls_legal))

theorem State.collJoin_legal : ∀ (s : State) (core team tid size : Nat) (pci : Pc) (mask : DWord) (op : CollOp) (m : CollMember),
    s.Legal → Keep.Snd (s.collJoin core team tid size pci mask op m) := by
  intros
  unfold State.collJoin
  repeat' (first
      | with_reducible assumption | (with_reducible first | apply State.modCore_legal | apply State.takeId_legal) | split
      | (with_reducible apply Keep.of_pair; with_reducible assumption) | (with_reducible apply Keep.pair))

theorem State.collArrive_legal : ∀ (s : State) (core team tid size : Nat) (h : Hdr) (pci : Pc) (mask : DWord) (op : CollOp) (a : DWord)
    (p : Bool) (dst : Nat), s.Legal → (s.collArrive core team tid size h pci mask op a p dst).Legal := by
  intros
  unfold State.collArrive
  repeat' (first
      | with_reducible assumption
      | (with_reducible first
          | apply State.takeId_legal | apply State.collJoin_legal | apply State.modThread_legal | apply Keep.snd))

theorem runColl_legal : ∀ (h : Hdr) (len : Nat) (vs : List VOp) (a : Option VReg) (op : CollOp) (dst : Nat) (msk : Team → Thread →
    DWord) (val : Thread → DWord × Bool) (s : State), s.Legal → Keep.Out (runColl h len vs a op dst msk val s) := by
  intros
  unfold runColl
  repeat' (first
      | with_reducible assumption
      | (with_reducible first
          | intro _ | apply runLive_legal | apply State.abstain_legal | apply State.modThread_legal | apply State.takeTrap_legal
          | apply State.collArrive_legal | apply State.collCheck_legal | apply State.park_legal | apply Keep.foldl)
      | split | (unfold State.Legal; dsimp only; with_reducible apply Keep.fold))

theorem State.leaveCohort_legal : ∀ (s : State) (team : Nat), s.Legal → (s.leaveCohort team).Legal := by
  intros
  unfold State.leaveCohort
  repeat' (first
      | with_reducible assumption
      | (with_reducible first
          | intro _ | apply State.release_legal | apply State.modLaunch_legal | apply Keep.foldl)
      | split)

theorem State.exitThread_legal : ∀ (s : State) (team tid : Nat), s.Legal → (s.exitThread team tid).Legal := by
  intros
  unfold State.exitThread
  repeat' (first
      | with_reducible assumption
      | (with_reducible first
          | apply State.unsched_legal | apply State.freeRsv_legal | apply State.modThread_legal | apply State.leaveCohort_legal
          | apply State.collCheck_legal | apply State.modColls_legal))

end Sys2Proof.Machine
end

