-- ==== Sys2Proof/Laws/KeepIns.lean ====
section
/-! SUPPORT. The sequencer and the instructions of the vector ALU, the lanes and the matrix engine keep a state legal. -/

namespace Sys2Proof.Machine

theorem State.viaBrim_legal : ∀ (s : State) (ctx gpa : Nat), s.Legal → (s.viaBrim ctx gpa).Legal := by
  intros
  unfold State.viaBrim
  repeat' (first | with_reducible assumption | (with_reducible first | apply State.touch_legal) | split)

theorem State.fetchWord_legal : ∀ (s : State) (core ctx lid : Nat) (pc : Pc), s.Legal → Keep.Snd (s.fetchWord core ctx lid pc) := by
  intros
  unfold State.fetchWord
  repeat' (first
      | with_reducible assumption
      | (with_reducible first
          | apply State.access_legal | apply State.freeBytes_legal | apply State.viaBrim_legal)
      | split | (with_reducible apply Keep.of_pair; with_reducible assumption) | (with_reducible apply Keep.pair))

theorem State.fetchRest_legal : ∀ (s : State) (core ctx lid a : Nat) (a_1 : Pc) (a_2 : List Word), s.Legal → Keep.Snd (s.fetchRest core
    ctx lid a a_1 a_2) := by
  intro s c x lid n; induction n generalizing s <;> intros <;> unfold State.fetchRest
  all_goals repeat' (first
      | with_reducible assumption | (with_reducible first | apply State.fetchWord_legal) | split
      | (with_reducible apply Keep.of_pair; with_reducible assumption) | (with_reducible apply_assumption -exfalso -symm)
      | (with_reducible apply Keep.pair))

theorem State.fetch_legal : ∀ (s : State) (core ctx lid : Nat) (pc : Pc), s.Legal → Keep.Snd (s.fetch core ctx lid pc) := by
  intros
  unfold State.fetch
  repeat' (first
      | with_reducible assumption | (with_reducible first | apply State.fetchWord_legal | apply State.fetchRest_legal) | split
      | (with_reducible apply Keep.of_pair; with_reducible assumption) | (with_reducible apply Keep.pair))

theorem State.askWait_legal : ∀ (s : State) (c : Nat) (tm : Team) (t : Thread) (i : Instr), s.Legal → Keep.Opt (s.askWait c tm t i) :=
    by
  intros
  unfold State.askWait
  repeat' (first
      | with_reducible assumption | (with_reducible first | apply State.ctAsk_legal | apply Keep.some | apply Keep.none) | split
      | (with_reducible apply Keep.of_pair; with_reducible assumption))

theorem State.reqsWait_legal : ∀ (s : State) (q : List StoreReq), s.Legal → Keep.Opt (s.reqsWait q) := by
  intros
  unfold State.reqsWait
  repeat' (first
      | with_reducible assumption
      | (with_reducible first
          | intro _ | apply State.reqAsk_legal | apply Keep.opt_find | apply Keep.some | apply Keep.none)
      | split | (with_reducible apply Keep.of_pair; with_reducible assumption))

theorem State.stallGroup_legal : ∀ (s : State) (c slot : Nat) (g : Group), s.Legal → (s.stallGroup c slot g).Legal := by
  intros
  unfold State.stallGroup
  repeat' (first | with_reducible assumption | (with_reducible first | apply State.modCore_legal) | split)

theorem State.unstall_legal : ∀ (s : State) (c slot : Nat) (g : Group), s.Legal → (s.unstall c slot g).Legal := by
  intros
  unfold State.unstall
  repeat' (first | with_reducible assumption | (with_reducible first | apply State.modCore_legal) | split)

theorem State.fetchFault_legal : ∀ (s : State) (g : Group) (cause : Nat) (va : DWord), s.Legal → (s.fetchFault g cause va).Legal := by
  intros
  unfold State.fetchFault
  repeat' (first | with_reducible assumption | (with_reducible first | intro _ | apply State.pageFault_legal | apply Keep.foldl))

theorem State.badFetch_legal : ∀ (s : State) (g : Group) (a : Fetch), s.Legal → (s.badFetch g a).Legal := by
  intros
  unfold State.badFetch
  repeat' (first
      | with_reducible assumption
      | (with_reducible first
          | apply State.fetchFault_legal | apply State.trapGroup_legal | apply State.consume_legal)
      | split)

theorem State.lineWait_legal : ∀ (s : State) (c : Nat) (g : Group) (tm : Team) (i : Instr), s.Legal → Keep.Opt (s.lineWait c g tm i) :=
    by
  intros
  unfold State.lineWait
  repeat' (first
      | with_reducible assumption
      | (with_reducible first
          | intro _ | apply State.reqsWait_legal | apply State.askWait_legal | apply Keep.opt_find | apply Keep.some)
      | split | (with_reducible apply Keep.of_some; with_reducible assumption))

theorem State.heldState_legal : ∀ (s : State) (c : Nat) (g : Group) (i : Instr), s.Legal → (s.heldState c g i).Legal := by
  intros
  unfold State.heldState
  repeat' (first
      | with_reducible assumption | (with_reducible first | intro _ | apply State.lineWait_legal | apply Keep.getD | apply Keep.bind))

theorem State.offer_legal : ∀ (s : State) (c slot : Nat) (g : Group) (i : Instr), s.Legal → Keep.Fr (s.offer c slot g i) := by
  intros
  unfold State.offer
  repeat' (first
      | with_reducible assumption
      | (with_reducible first
          | apply State.stallGroup_legal | apply State.heldState_legal | apply State.unstall_legal | apply Keep.run | apply Keep.done)
      | split | (unfold State.Legal; dsimp only; with_reducible apply Keep.fold))

theorem State.fetchDecode_legal : ∀ (s : State) (c slot : Nat) (g : Group) (tm : Team) (pc : Pc), s.Legal → Keep.Fr (s.fetchDecode c
    slot g tm pc) := by
  intros
  unfold State.fetchDecode
  repeat' (first
      | with_reducible assumption
      | (with_reducible first
          | apply State.fetch_legal | apply State.offer_legal | apply State.badFetch_legal | apply Keep.done)
      | split | (with_reducible apply Keep.of_pair; with_reducible assumption))

theorem State.front_legal : ∀ (s : State) (c slot : Nat), s.Legal → Keep.Fr (s.front c slot) := by
  intros
  unfold State.front
  repeat' (first
      | with_reducible assumption
      | (with_reducible first
          | intro _ | apply State.park_legal | apply State.stallGroup_legal | apply State.fetchDecode_legal | apply Keep.done
          | apply Keep.foldl)
      | split | dsimp only)

theorem State.jump_legal : ∀ (s : State) (team tid : Nat) (pc : Pc), s.Legal → (s.jump team tid pc).Legal := by
  intros
  unfold State.jump
  repeat' (first | with_reducible assumption | (with_reducible first | apply State.modThread_legal))

theorem execNonInstructionEncoding_legal : ∀ (e : EncFault) (len : Nat) (s : State), s.Legal → Keep.Out (execNonInstructionEncoding e
    len s) := by
  intros
  unfold execNonInstructionEncoding
  repeat' (first
      | with_reducible assumption | (with_reducible first | apply State.settle_legal | apply State.trapGroup_legal | apply Keep.next)
      | split)

theorem execNop_legal : ∀ (h : Hdr) (s : State), s.Legal → Keep.Out (execNop h s) := by
  intros
  unfold execNop
  repeat' (first | with_reducible assumption | (with_reducible first | intro _ | apply runLanes_legal))

theorem execBra_legal : ∀ (h : Hdr) (off : Word) (s : State), s.Legal → Keep.Out (execBra h off s) := by
  intros
  unfold execBra
  repeat' (first | with_reducible assumption | (with_reducible first | intro _ | apply runLanes_legal | apply State.jump_legal))

theorem State.branchTo_legal : ∀ (s : State) (team tid : Nat) (t : Thread) (len : Nat) (va : DWord) (k : Pc → State), s.Legal → (∀ (a :
    Pc), (k a).Legal) → (s.branchTo team tid t len va k).Legal := by
  intros
  unfold State.branchTo
  repeat' (first
      | with_reducible assumption | (with_reducible first | apply State.pageFault_legal | apply State.takeTrap_legal) | split
      | (with_reducible apply_assumption -exfalso -symm))

theorem execBrx_legal : ∀ (h : Hdr) (a : VReg) (s : State), s.Legal → Keep.Out (execBrx h a s) := by
  intros
  unfold execBrx
  repeat' (first
      | with_reducible assumption
      | (with_reducible first
          | intro _ | apply runLanes_legal | apply State.branchTo_legal | apply State.jump_legal))

theorem State.callTo_legal : ∀ (s : State) (team : Nat) (tm : Team) (tid : Nat) (t : Thread) (len : Nat) (pc : Pc), s.Legal → (s.callTo
    team tm tid t len pc).Legal := by
  intros
  unfold State.callTo
  repeat' (first
      | with_reducible assumption
      | (with_reducible first
          | apply State.takeTrap_legal | apply State.setFrame_legal | apply State.modThread_legal | apply State.endLaunch_legal)
      | split | (with_reducible apply Keep.of_pair; with_reducible assumption))

theorem execCall_legal : ∀ (h : Hdr) (off : Word) (s : State), s.Legal → Keep.Out (execCall h off s) := by
  intros
  unfold execCall
  repeat' (first | with_reducible assumption | (with_reducible first | intro _ | apply runLanes_legal | apply State.callTo_legal))

theorem execCallx_legal : ∀ (h : Hdr) (a : VReg) (s : State), s.Legal → Keep.Out (execCallx h a s) := by
  intros
  unfold execCallx
  repeat' (first
      | with_reducible assumption
      | (with_reducible first
          | intro _ | apply runLanes_legal | apply State.branchTo_legal | apply State.callTo_legal))

theorem State.retFrom_legal : ∀ (s : State) (team : Nat) (tm : Team) (tid : Nat) (t : Thread), s.Legal → (s.retFrom team tm tid t).Legal
    := by
  intros
  unfold State.retFrom
  repeat' (first
      | with_reducible assumption
      | (with_reducible first
          | apply State.takeTrap_legal | apply State.frameAt_legal | apply State.endLaunch_legal | apply State.modThread_legal)
      | split | (with_reducible apply Keep.of_pair; with_reducible assumption))

theorem execRet_legal : ∀ (h : Hdr) (s : State), s.Legal → Keep.Out (execRet h s) := by
  intros
  unfold execRet
  repeat' (first | with_reducible assumption | (with_reducible first | intro _ | apply runLanes_legal | apply State.retFrom_legal))

theorem execReform_legal : ∀ (h : Hdr) (s : State), s.Legal → Keep.Out (execReform h s) := by
  intros
  unfold execReform
  repeat' (first
      | with_reducible assumption
      | (with_reducible first
          | intro _ | apply runLanes_legal | apply State.file_legal | apply State.unsched_legal))

theorem execExit_legal : ∀ (h : Hdr) (s : State), s.Legal → Keep.Out (execExit h s) := by
  intros
  unfold execExit
  repeat' (first | with_reducible assumption | (with_reducible first | intro _ | apply runLanes_legal | apply State.exitThread_legal))

theorem execYield_legal : ∀ (h : Hdr) (s : State), s.Legal → Keep.Out (execYield h s) := by
  intros
  unfold execYield
  repeat' (first
      | with_reducible assumption
      | (with_reducible first
          | intro _ | apply runLanes_legal | apply State.file_legal | apply State.unsched_legal))

theorem execSleep_legal : ∀ (h : Hdr) (b : SrcB) (s : State), s.Legal → Keep.Out (execSleep h b s) := by
  intros
  unfold execSleep
  repeat' (first
      | with_reducible assumption
      | (with_reducible first
          | intro _ | apply runLanes_legal | apply State.file_legal | apply State.unsched_legal | apply State.takeId_legal
          | apply State.openWait_legal)
      | split | (with_reducible apply Keep.of_pair; with_reducible assumption) | dsimp only)

theorem execRgn_legal : ∀ (h : Hdr) (s : State), s.Legal → Keep.Out (execRgn h s) := by
  intros
  unfold execRgn
  repeat' (first | with_reducible assumption | (with_reducible first | intro _ | apply runLanes_legal | apply State.modThread_legal))

theorem runTrap_legal : ∀ (kind : Nat) (h : Hdr) (b : SrcB) (s : State), s.Legal → Keep.Out (runTrap kind h b s) := by
  intros
  unfold runTrap
  repeat' (first | with_reducible assumption | (with_reducible first | intro _ | apply runLanes_legal | apply State.takeTrap_legal))

theorem execTrap_legal : ∀ (h : Hdr) (b : SrcB) (s : State), s.Legal → Keep.Out (execTrap h b s) := by
  intros
  unfold execTrap
  repeat' (first | with_reducible assumption | (with_reducible first | apply runTrap_legal))

theorem execTrapRgn_legal : ∀ (h : Hdr) (b : SrcB) (s : State), s.Legal → Keep.Out (execTrapRgn h b s) := by
  intros
  unfold execTrapRgn
  repeat' (first | with_reducible assumption | (with_reducible first | apply runTrap_legal))

theorem execBkpt_legal : ∀ (h : Hdr) (b : SrcB) (s : State), s.Legal → Keep.Out (execBkpt h b s) := by
  intros
  unfold execBkpt
  repeat' (first | with_reducible assumption | (with_reducible first | apply runTrap_legal))

theorem State.withPair_legal : ∀ (s : State) (team : Nat) (tm : Team) (tid : Nat) (t : Thread) (k : BitVec 128 → BitVec 128 → State →
    State), s.Legal → (∀ (a a_1 : BitVec 128) (a_2 : State), a_2.Legal → (k a a_1 a_2).Legal) → (s.withPair team tm tid t k).Legal := by
  intros
  unfold State.withPair
  repeat' (first
      | with_reducible assumption
      | (with_reducible first
          | apply State.takeTrap_legal | apply State.frameAt_legal | apply State.endLaunch_legal)
      | split | (with_reducible apply Keep.of_pair; with_reducible assumption) | (with_reducible apply_assumption -exfalso -symm))

theorem runTret_legal : ∀ (m : TretMode) (h : Hdr) (s : State), s.Legal → Keep.Out (runTret m h s) := by
  intros
  unfold runTret
  repeat' (first
      | with_reducible assumption
      | (with_reducible first
          | intro _ | apply runLanes_legal | apply State.withPair_legal | apply State.modThread_legal))

theorem execTret_legal : ∀ (h : Hdr) (s : State), s.Legal → Keep.Out (execTret h s) := by
  intros
  unfold execTret
  repeat' (first | with_reducible assumption | (with_reducible first | apply runTret_legal))

theorem execTretSkip_legal : ∀ (h : Hdr) (s : State), s.Legal → Keep.Out (execTretSkip h s) := by
  intros
  unfold execTretSkip
  repeat' (first | with_reducible assumption | (with_reducible first | apply runTret_legal))

theorem execTretRgn_legal : ∀ (h : Hdr) (s : State), s.Legal → Keep.Out (execTretRgn h s) := by
  intros
  unfold execTretRgn
  repeat' (first | with_reducible assumption | (with_reducible first | apply runTret_legal))

theorem execTretRd_legal : ∀ (h : Hdr) (d : VReg) (s : State), s.Legal → Keep.Out (execTretRd h d s) := by
  intros
  unfold execTretRd
  repeat' (first
      | with_reducible assumption
      | (with_reducible first
          | intro _ | apply runLanes_legal | apply State.withPair_legal | apply State.modThread_legal))

theorem execGets_legal : ∀ (h : Hdr) (d : VReg) (sel : SReg) (s : State), s.Legal → Keep.Out (execGets h d sel s) := by
  intros
  unfold execGets
  repeat' (first
      | with_reducible assumption
      | (with_reducible first
          | intro _ | apply runLive_legal | apply State.modThread_legal | apply Keep.foldl))

theorem State.setSpecial_legal : ∀ (s : State) (c team : Nat) (sel : SReg) (w : Word), s.Legal → (s.setSpecial c team sel w).Legal := by
  intros
  unfold State.setSpecial
  repeat' (first | with_reducible assumption | (with_reducible first | apply State.modTeam_legal | apply State.modCore_legal) | split)

theorem State.setsThread_legal : ∀ (s : State) (team tid : Nat) (tm : Team) (t : Thread) (sel : SReg) (w : Word) (len : Nat), s.Legal →
    (s.setsThread team tid tm t sel w len).Legal := by
  intros
  unfold State.setsThread
  repeat' (first | with_reducible assumption | (with_reducible first | apply State.modThread_legal | apply State.takeTrap_legal) | split)

theorem execSets_legal : ∀ (h : Hdr) (sel : SReg) (b : SrcB) (s : State), s.Legal → Keep.Out (execSets h sel b s) := by
  intros
  unfold execSets
  repeat' (first
      | with_reducible assumption
      | (with_reducible first
          | intro _ | apply runLive_legal | apply State.setsThread_legal | apply State.setSpecial_legal | apply State.closeRegion_legal
          | apply State.crossGate_legal | apply State.takeTrap_legal | apply Keep.foldl)
      | split | dsimp only)

theorem execMovk_legal : ∀ (h : Hdr) (dst : MovkDst) (b : SrcB) (s : State), s.Legal → Keep.Out (execMovk h dst b s) := by
  intros
  unfold execMovk
  repeat' (first | with_reducible assumption | (with_reducible first | intro _ | apply runLive_legal | apply State.modTeam_legal) | split)

theorem State.freeRows_legal : ∀ (s : State) (team e : Nat) (rows : List Nat), s.Legal → (s.freeRows team e rows).Legal := by
  intros
  unfold State.freeRows
  repeat' (first
      | with_reducible assumption | (with_reducible first | intro _ | apply State.modTeam_legal | apply Keep.foldl)
      | (unfold State.Legal; dsimp only; with_reducible apply Keep.fold))

theorem State.matWrites_legal : ∀ (s : State) (team : Nat) (l : List (Nat × List Byte)), s.Legal → (s.matWrites team l).Legal := by
  intros
  unfold State.matWrites
  repeat' (first | with_reducible assumption | (with_reducible first | apply State.modTeam_legal))

theorem State.matWritesFree_legal : ∀ (s : State) (team : Nat) (l : List (Nat × Nat)), s.Legal → (s.matWritesFree team l).Legal := by
  intros
  unfold State.matWritesFree
  repeat' (first
      | with_reducible assumption
      | (with_reducible first
          | intro _ | apply State.freeBytes_legal | apply State.matWrites_legal | apply Keep.foldl | apply Keep.snd))

theorem State.macrdRead_legal : ∀ (s : State) (team : Nat) (k : Engine) (ls : List (Nat × Nat × Nat × Nat × Nat)), s.Legal →
    (s.macrdRead team k ls).Legal := by
  intros
  unfold State.macrdRead
  repeat' (first | with_reducible assumption | (with_reducible first | intro _ | apply State.modThread_legal | apply Keep.foldl))

theorem State.matDo_legal : ∀ (s : State) (o : MOp) (t : Team), s.Legal → (s.matDo o t).Legal := by
  intros
  unfold State.matDo
  repeat' (first
      | with_reducible assumption
      | (with_reducible first
          | apply State.modTeam_legal | apply State.matWrites_legal | apply State.macrdRead_legal)
      | split)

theorem State.freeMstat_legal : ∀ (s : State) (team e : Nat) (bits : BitVec 5), s.Legal → (s.freeMstat team e bits).Legal := by
  intros
  unfold State.freeMstat
  repeat' (first
      | with_reducible assumption | (with_reducible first | apply State.modTeam_legal)
      | (unfold State.Legal; dsimp only; with_reducible apply Keep.fold))

theorem State.gatherSpoiled_legal : ∀ (s : State) (team e : Nat) (now then' : List Nat × BitVec 5), s.Legal → (s.gatherSpoiled team e
    now then').Legal := by
  intros
  unfold State.gatherSpoiled
  repeat' (first
      | with_reducible assumption
      | (with_reducible first
          | apply State.freeRows_legal | apply State.modTeam_legal | apply State.freeMstat_legal))

theorem State.matSpoiled_legal : ∀ (s : State) (o : MOp) (t : Team), s.Legal → (s.matSpoiled o t).Legal := by
  intros
  unfold State.matSpoiled
  repeat' (first
      | with_reducible assumption
      | (with_reducible first
          | apply State.freeBytes_legal | apply State.modTeam_legal | apply State.freeMstat_legal | apply State.matDo_legal
          | apply State.freeRows_legal | apply State.gatherSpoiled_legal | apply State.matWritesFree_legal | apply Keep.snd)
      | split)

theorem State.staleTeam_legal : ∀ (s : State) (o : MOp) (t : Team), s.Legal → Keep.Snd (s.staleTeam o t) := by
  intros
  unfold State.staleTeam
  repeat' (first
      | with_reducible assumption | (with_reducible first | intro _ | apply State.freeBytes_legal | apply Keep.foldl2 | apply Keep.snd)
      | (with_reducible apply Keep.of_pair; with_reducible assumption) | (with_reducible apply Keep.pair))

theorem State.matWake_legal : ∀ (s : State) (team : Nat), s.Legal → (s.matWake team).Legal := by
  intros
  unfold State.matWake
  repeat' (first
      | with_reducible assumption
      | (with_reducible first
          | intro _ | apply State.waitDone_legal | apply State.acquire_legal | apply State.learns_legal | apply State.modThread_legal
          | apply Keep.foldl)
      | split)

theorem State.advanceDone_legal : ∀ (s : State) (team n : Nat), s.Legal → (s.advanceDone team n).Legal := by
  intros
  unfold State.advanceDone
  repeat' (first | with_reducible assumption | (with_reducible first | apply State.matWake_legal | apply State.modTeam_legal) | split)

theorem State.matEnter_legal : ∀ (s : State) (team e : Nat) (kind : MKind) (owner : Nat) (conv : Option (Nat × Word)) (pc : Pc), s.Legal
    → (s.matEnter team e kind owner conv pc).Legal := by
  intros
  unfold State.matEnter
  repeat' (first
      | with_reducible assumption
      | (with_reducible first
          | apply State.takeId_legal | apply State.modTeam_legal | apply State.modCore_legal | apply Keep.snd)
      | split)

theorem State.matStart_legal : ∀ (s : State) (core id : Nat), s.Legal → (s.matStart core id).Legal := by
  intros
  unfold State.matStart
  repeat' (first | with_reducible assumption | (with_reducible first | apply State.modCore_legal))

theorem State.matRun_legal : ∀ (s : State) (o : MOp) (t : Team), s.Legal → (s.matRun o t).Legal := by
  intros
  unfold State.matRun
  repeat' (first
      | with_reducible assumption | (with_reducible first | apply State.matDo_legal | apply State.staleTeam_legal | apply Keep.snd)
      | split)

theorem State.matComplete_legal : ∀ (s : State) (core : Nat) (o : MOp), s.Legal → (s.matComplete core o).Legal := by
  intros
  unfold State.matComplete
  repeat' (first
      | with_reducible assumption
      | (with_reducible first
          | apply State.modCore_legal | apply State.consume_legal | apply State.matRun_legal | apply State.matSpoiled_legal
          | apply State.modTeam_legal | apply State.advanceDone_legal | apply State.matWake_legal)
      | split | (unfold State.Legal; dsimp only; with_reducible apply Keep.fold))

theorem State.matDrain_legal : ∀ (s : State) (core : Nat), s.Legal → (s.matDrain core).Legal := by
  intros
  unfold State.matDrain
  repeat' (first | with_reducible assumption | (with_reducible first | intro _ | apply State.matComplete_legal | apply Keep.foldl))

theorem execMatrixOperationStart_legal : ∀ (s : State), s.Legal → Keep.Out (execMatrixOperationStart s) := by
  intros
  unfold execMatrixOperationStart
  repeat' (first | with_reducible assumption | (with_reducible first | apply State.matStart_legal | apply Keep.next) | split)

theorem execMatrixOperationComplete_legal : ∀ (s : State), s.Legal → Keep.Out (execMatrixOperationComplete s) := by
  intros
  unfold execMatrixOperationComplete
  repeat' (first | with_reducible assumption | (with_reducible first | apply State.matComplete_legal | apply Keep.next) | split)

theorem runInt2_legal : ∀ (op : Int → Int → Int) (o : Two) (len : Nat) (ty : IntTy) (sat : Bool) (s : State), s.Legal → Keep.Out
    (runInt2 op o len ty sat s) := by
  intros
  unfold runInt2
  repeat' (first | with_reducible assumption | (with_reducible first | apply runAlu_legal))

theorem runInt3_legal : ∀ (op : Int → Int → Int → Int) (o : Three) (ty : IntTy) (sat : Bool) (s : State), s.Legal → Keep.Out (runInt3 op
    o ty sat s) := by
  intros
  unfold runInt3
  repeat' (first | with_reducible assumption | (with_reducible first | apply runAlu_legal))

theorem runInt1_legal : ∀ (op : Int → Int) (o : One) (len : Nat) (ty : IntTy) (sat : Bool) (s : State), s.Legal → Keep.Out (runInt1 op o
    len ty sat s) := by
  intros
  unfold runInt1
  repeat' (first | with_reducible assumption | (with_reducible first | apply runAlu_legal))

theorem execIadd_legal : ∀ (o : Two) (ty : IntTy) (sat : Bool) (s : State), s.Legal → Keep.Out (execIadd o ty sat s) := by
  intros
  unfold execIadd
  repeat' (first | with_reducible assumption | (with_reducible first | apply runInt2_legal))

theorem execIadd3_legal : ∀ (o : Three) (ty : IntTy) (sat : Bool) (s : State), s.Legal → Keep.Out (execIadd3 o ty sat s) := by
  intros
  unfold execIadd3
  repeat' (first | with_reducible assumption | (with_reducible first | apply runInt3_legal))

theorem execIsub_legal : ∀ (o : Two) (ty : IntTy) (sat : Bool) (s : State), s.Legal → Keep.Out (execIsub o ty sat s) := by
  intros
  unfold execIsub
  repeat' (first | with_reducible assumption | (with_reducible first | apply runInt2_legal))

theorem execImul_legal : ∀ (o : Two) (ty : IntTy) (sat : Bool) (s : State), s.Legal → Keep.Out (execImul o ty sat s) := by
  intros
  unfold execImul
  repeat' (first | with_reducible assumption | (with_reducible first | apply runInt2_legal))

theorem execImulh_legal : ∀ (o : Two) (ty : IntTy) (s : State), s.Legal → Keep.Out (execImulh o ty s) := by
  intros
  unfold execImulh
  repeat' (first | with_reducible assumption | (with_reducible first | apply runInt2_legal))

theorem execImad_legal : ∀ (o : Three) (ty : IntTy) (sat : Bool) (s : State), s.Legal → Keep.Out (execImad o ty sat s) := by
  intros
  unfold execImad
  repeat' (first | with_reducible assumption | (with_reducible first | apply runInt3_legal))

theorem execImin_legal : ∀ (o : Two) (ty : IntTy) (s : State), s.Legal → Keep.Out (execImin o ty s) := by
  intros
  unfold execImin
  repeat' (first | with_reducible assumption | (with_reducible first | apply runInt2_legal))

theorem execImax_legal : ∀ (o : Two) (ty : IntTy) (s : State), s.Legal → Keep.Out (execImax o ty s) := by
  intros
  unfold execImax
  repeat' (first | with_reducible assumption | (with_reducible first | apply runInt2_legal))

theorem execIabs_legal : ∀ (o : One) (ty : IntTy) (sat : Bool) (s : State), s.Legal → Keep.Out (execIabs o ty sat s) := by
  intros
  unfold execIabs
  repeat' (first | with_reducible assumption | (with_reducible first | apply runInt1_legal))

theorem execIneg_legal : ∀ (o : One) (ty : IntTy) (sat : Bool) (s : State), s.Legal → Keep.Out (execIneg o ty sat s) := by
  intros
  unfold execIneg
  repeat' (first | with_reducible assumption | (with_reducible first | apply runInt1_legal))

theorem execIsad_legal : ∀ (o : Three) (ty : IntTy) (s : State), s.Legal → Keep.Out (execIsad o ty s) := by
  intros
  unfold execIsad
  repeat' (first | with_reducible assumption | (with_reducible first | apply runInt3_legal))

theorem execImadw_legal : ∀ (o : Three) (ty : IntTy) (sat : Bool) (s : State), s.Legal → Keep.Out (execImadw o ty sat s) := by
  intros
  unfold execImadw
  repeat' (first | with_reducible assumption | (with_reducible first | apply runAlu_legal))

theorem execIcmp_legal : ∀ (o : Two) (cc : ICond) (ty : IntTy) (s : State), s.Legal → Keep.Out (execIcmp o cc ty s) := by
  intros
  unfold execIcmp
  repeat' (first | with_reducible assumption | (with_reducible first | apply runAlu_legal))

theorem execIaddc_legal : ∀ (o : Two) (sub : Bool) (p : PReg) (ty : IntTy) (s : State), s.Legal → Keep.Out (execIaddc o sub p ty s) :=
    by
  intros
  unfold execIaddc
  repeat' (first | with_reducible assumption | (with_reducible first | apply runAlu_legal))

theorem execIaddC_legal : ∀ (c : CTwo) (s : State), s.Legal → Keep.Out (execIaddC c s) := by
  intros
  unfold execIaddC
  repeat' (first | with_reducible assumption | (with_reducible first | apply runInt2_legal))

theorem execIsubC_legal : ∀ (c : CTwo) (s : State), s.Legal → Keep.Out (execIsubC c s) := by
  intros
  unfold execIsubC
  repeat' (first | with_reducible assumption | (with_reducible first | apply runInt2_legal))

theorem execImulC_legal : ∀ (c : CTwo) (s : State), s.Legal → Keep.Out (execImulC c s) := by
  intros
  unfold execImulC
  repeat' (first | with_reducible assumption | (with_reducible first | apply runInt2_legal))

theorem execIminI32C_legal : ∀ (c : CTwo) (s : State), s.Legal → Keep.Out (execIminI32C c s) := by
  intros
  unfold execIminI32C
  repeat' (first | with_reducible assumption | (with_reducible first | apply runInt2_legal))

theorem execIminN32C_legal : ∀ (c : CTwo) (s : State), s.Legal → Keep.Out (execIminN32C c s) := by
  intros
  unfold execIminN32C
  repeat' (first | with_reducible assumption | (with_reducible first | apply runInt2_legal))

theorem execImaxI32C_legal : ∀ (c : CTwo) (s : State), s.Legal → Keep.Out (execImaxI32C c s) := by
  intros
  unfold execImaxI32C
  repeat' (first | with_reducible assumption | (with_reducible first | apply runInt2_legal))

theorem execImaxN32C_legal : ∀ (c : CTwo) (s : State), s.Legal → Keep.Out (execImaxN32C c s) := by
  intros
  unfold execImaxN32C
  repeat' (first | with_reducible assumption | (with_reducible first | apply runInt2_legal))

theorem execIabsC_legal : ∀ (c : COne) (s : State), s.Legal → Keep.Out (execIabsC c s) := by
  intros
  unfold execIabsC
  repeat' (first | with_reducible assumption | (with_reducible first | apply runInt1_legal))

theorem execInegC_legal : ∀ (c : COne) (s : State), s.Legal → Keep.Out (execInegC c s) := by
  intros
  unfold execInegC
  repeat' (first | with_reducible assumption | (with_reducible first | apply runInt1_legal))

theorem execImulhI32C_legal : ∀ (c : CTwo) (s : State), s.Legal → Keep.Out (execImulhI32C c s) := by
  intros
  unfold execImulhI32C
  repeat' (first | with_reducible assumption | (with_reducible first | apply runInt2_legal))

theorem execImulhN32C_legal : ∀ (c : CTwo) (s : State), s.Legal → Keep.Out (execImulhN32C c s) := by
  intros
  unfold execImulhN32C
  repeat' (first | with_reducible assumption | (with_reducible first | apply runInt2_legal))

theorem execIaddSatI32C_legal : ∀ (c : CTwo) (s : State), s.Legal → Keep.Out (execIaddSatI32C c s) := by
  intros
  unfold execIaddSatI32C
  repeat' (first | with_reducible assumption | (with_reducible first | apply runInt2_legal))

theorem execIsubSatI32C_legal : ∀ (c : CTwo) (s : State), s.Legal → Keep.Out (execIsubSatI32C c s) := by
  intros
  unfold execIsubSatI32C
  repeat' (first | with_reducible assumption | (with_reducible first | apply runInt2_legal))

theorem execIaddSatN32C_legal : ∀ (c : CTwo) (s : State), s.Legal → Keep.Out (execIaddSatN32C c s) := by
  intros
  unfold execIaddSatN32C
  repeat' (first | with_reducible assumption | (with_reducible first | apply runInt2_legal))

theorem execIsubSatN32C_legal : ∀ (c : CTwo) (s : State), s.Legal → Keep.Out (execIsubSatN32C c s) := by
  intros
  unfold execIsubSatN32C
  repeat' (first | with_reducible assumption | (with_reducible first | apply runInt2_legal))

theorem runBits2_legal : ∀ (op : DWord → DWord → DWord) (o : Two) (len : Nat) (w64 b64 : Bool) (s : State), s.Legal → Keep.Out (runBits2
    op o len w64 b64 s) := by
  intros
  unfold runBits2
  repeat' (first | with_reducible assumption | (with_reducible first | apply runAlu_legal))

theorem runBits1_legal : ∀ (op : DWord → DWord) (o : One) (len : Nat) (w64 d64 : Bool) (s : State), s.Legal → Keep.Out (runBits1 op o
    len w64 d64 s) := by
  intros
  unfold runBits1
  repeat' (first | with_reducible assumption | (with_reducible first | apply runAlu_legal))

theorem execAnd_legal : ∀ (o : Two) (w64 : Bool) (s : State), s.Legal → Keep.Out (execAnd o w64 s) := by
  intros
  unfold execAnd
  repeat' (first | with_reducible assumption | (with_reducible first | apply runBits2_legal))

theorem execOr_legal : ∀ (o : Two) (w64 : Bool) (s : State), s.Legal → Keep.Out (execOr o w64 s) := by
  intros
  unfold execOr
  repeat' (first | with_reducible assumption | (with_reducible first | apply runBits2_legal))

theorem execXor_legal : ∀ (o : Two) (w64 : Bool) (s : State), s.Legal → Keep.Out (execXor o w64 s) := by
  intros
  unfold execXor
  repeat' (first | with_reducible assumption | (with_reducible first | apply runBits2_legal))

theorem execNot_legal : ∀ (o : One) (w64 : Bool) (s : State), s.Legal → Keep.Out (execNot o w64 s) := by
  intros
  unfold execNot
  repeat' (first | with_reducible assumption | (with_reducible first | apply runBits1_legal))

theorem execShl_legal : ∀ (o : Two) (w64 : Bool) (s : State), s.Legal → Keep.Out (execShl o w64 s) := by
  intros
  unfold execShl
  repeat' (first | with_reducible assumption | (with_reducible first | apply runBits2_legal))

theorem execShr_legal : ∀ (o : Two) (w64 : Bool) (s : State), s.Legal → Keep.Out (execShr o w64 s) := by
  intros
  unfold execShr
  repeat' (first | with_reducible assumption | (with_reducible first | apply runBits2_legal))

theorem execSar_legal : ∀ (o : Two) (w64 : Bool) (s : State), s.Legal → Keep.Out (execSar o w64 s) := by
  intros
  unfold execSar
  repeat' (first | with_reducible assumption | (with_reducible first | apply runBits2_legal))

theorem execRotl_legal : ∀ (o : Two) (w64 : Bool) (s : State), s.Legal → Keep.Out (execRotl o w64 s) := by
  intros
  unfold execRotl
  repeat' (first | with_reducible assumption | (with_reducible first | apply runBits2_legal))

theorem runBits3_legal : ∀ (op : DWord → DWord → DWord → DWord) (o : Three) (w64 : Bool) (s : State), s.Legal → Keep.Out (runBits3 op o
    w64 s) := by
  intros
  unfold runBits3
  repeat' (first | with_reducible assumption | (with_reducible first | apply runAlu_legal))

theorem execTern_legal : ∀ (o : Three) (tbl : BitVec 8) (w64 : Bool) (s : State), s.Legal → Keep.Out (execTern o tbl w64 s) := by
  intros
  unfold execTern
  repeat' (first | with_reducible assumption | (with_reducible first | apply runBits3_legal))

theorem execFshl_legal : ∀ (o : Three) (s : State), s.Legal → Keep.Out (execFshl o s) := by
  intros
  unfold execFshl
  repeat' (first | with_reducible assumption | (with_reducible first | apply runBits3_legal))

theorem execPopc_legal : ∀ (o : One) (w64 : Bool) (s : State), s.Legal → Keep.Out (execPopc o w64 s) := by
  intros
  unfold execPopc
  repeat' (first | with_reducible assumption | (with_reducible first | apply runBits1_legal))

theorem execClz_legal : ∀ (o : One) (w64 : Bool) (s : State), s.Legal → Keep.Out (execClz o w64 s) := by
  intros
  unfold execClz
  repeat' (first | with_reducible assumption | (with_reducible first | apply runBits1_legal))

theorem execCtz_legal : ∀ (o : One) (w64 : Bool) (s : State), s.Legal → Keep.Out (execCtz o w64 s) := by
  intros
  unfold execCtz
  repeat' (first | with_reducible assumption | (with_reducible first | apply runBits1_legal))

theorem execBrev_legal : ∀ (o : One) (w64 : Bool) (s : State), s.Legal → Keep.Out (execBrev o w64 s) := by
  intros
  unfold execBrev
  repeat' (first | with_reducible assumption | (with_reducible first | apply runBits1_legal))

theorem execBfx_legal : ∀ (o : Two) (sx : Bool) (s : State), s.Legal → Keep.Out (execBfx o sx s) := by
  intros
  unfold execBfx
  repeat' (first | with_reducible assumption | (with_reducible first | apply runBits2_legal))

theorem execBfi_legal : ∀ (o : Three) (s : State), s.Legal → Keep.Out (execBfi o s) := by
  intros
  unfold execBfi
  repeat' (first | with_reducible assumption | (with_reducible first | apply runBits3_legal))

theorem execPrmt_legal : ∀ (o : Three) (s : State), s.Legal → Keep.Out (execPrmt o s) := by
  intros
  unfold execPrmt
  repeat' (first | with_reducible assumption | (with_reducible first | apply runBits3_legal))

theorem runMov_legal : ∀ (o : One) (len n : Nat) (s : State), s.Legal → Keep.Out (runMov o len n s) := by
  intros
  unfold runMov
  repeat' (first | with_reducible assumption | (with_reducible first | apply runAlu_legal))

theorem execMov_legal : ∀ (o : One) (w : MovW) (s : State), s.Legal → Keep.Out (execMov o w s) := by
  intros
  unfold execMov
  repeat' (first | with_reducible assumption | (with_reducible first | apply runMov_legal))

theorem execMovl_legal : ∀ (h : Hdr) (d : VReg) (lit : Word) (ty : MovlTy) (s : State), s.Legal → Keep.Out (execMovl h d lit ty s) := by
  intros
  unfold execMovl
  repeat' (first | with_reducible assumption | (with_reducible first | apply runAlu_legal))

theorem execSel_legal : ∀ (o : Two) (p : PReg) (neg w64 : Bool) (s : State), s.Legal → Keep.Out (execSel o p neg w64 s) := by
  intros
  unfold execSel
  repeat' (first | with_reducible assumption | (with_reducible first | apply runAlu_legal))

theorem execLea_legal : ∀ (o : Two) (sh : BitVec 3) (w64 zx : Bool) (s : State), s.Legal → Keep.Out (execLea o sh w64 zx s) := by
  intros
  unfold execLea
  repeat' (first | with_reducible assumption | (with_reducible first | apply runAlu_legal))

theorem execPset_legal : ∀ (o : Two) (z w64 : Bool) (s : State), s.Legal → Keep.Out (execPset o z w64 s) := by
  intros
  unfold execPset
  repeat' (first | with_reducible assumption | (with_reducible first | apply runAlu_legal))

theorem execPlop_legal : ∀ (h : Hdr) (d a b : PReg) (lut : BitVec 4) (s : State), s.Legal → Keep.Out (execPlop h d a b lut s) := by
  intros
  unfold execPlop
  repeat' (first | with_reducible assumption | (with_reducible first | apply runAlu_legal))

theorem execP2v_legal : ∀ (h : Hdr) (d : VReg) (ext : Bool) (s : State), s.Legal → Keep.Out (execP2v h d ext s) := by
  intros
  unfold execP2v
  repeat' (first | with_reducible assumption | (with_reducible first | apply runAlu_legal))

theorem execV2p_legal : ∀ (h : Hdr) (a : VReg) (mask : BitVec 7) (ext : Bool) (s : State), s.Legal → Keep.Out (execV2p h a mask ext s)
    := by
  intros
  unfold execV2p
  repeat' (first | with_reducible assumption | (with_reducible first | apply runAlu_legal))

theorem execAndC_legal : ∀ (c : CTwo) (s : State), s.Legal → Keep.Out (execAndC c s) := by
  intros
  unfold execAndC
  repeat' (first | with_reducible assumption | (with_reducible first | apply runBits2_legal))

theorem execOrC_legal : ∀ (c : CTwo) (s : State), s.Legal → Keep.Out (execOrC c s) := by
  intros
  unfold execOrC
  repeat' (first | with_reducible assumption | (with_reducible first | apply runBits2_legal))

theorem execXorC_legal : ∀ (c : CTwo) (s : State), s.Legal → Keep.Out (execXorC c s) := by
  intros
  unfold execXorC
  repeat' (first | with_reducible assumption | (with_reducible first | apply runBits2_legal))

theorem execNotC_legal : ∀ (c : COne) (s : State), s.Legal → Keep.Out (execNotC c s) := by
  intros
  unfold execNotC
  repeat' (first | with_reducible assumption | (with_reducible first | apply runBits1_legal))

theorem execShlC_legal : ∀ (c : CTwo) (s : State), s.Legal → Keep.Out (execShlC c s) := by
  intros
  unfold execShlC
  repeat' (first | with_reducible assumption | (with_reducible first | apply runBits2_legal))

theorem execShrC_legal : ∀ (c : CTwo) (s : State), s.Legal → Keep.Out (execShrC c s) := by
  intros
  unfold execShrC
  repeat' (first | with_reducible assumption | (with_reducible first | apply runBits2_legal))

theorem execSarC_legal : ∀ (c : CTwo) (s : State), s.Legal → Keep.Out (execSarC c s) := by
  intros
  unfold execSarC
  repeat' (first | with_reducible assumption | (with_reducible first | apply runBits2_legal))

theorem execRotlC_legal : ∀ (c : CTwo) (s : State), s.Legal → Keep.Out (execRotlC c s) := by
  intros
  unfold execRotlC
  repeat' (first | with_reducible assumption | (with_reducible first | apply runBits2_legal))

theorem execPopcC_legal : ∀ (c : COne) (s : State), s.Legal → Keep.Out (execPopcC c s) := by
  intros
  unfold execPopcC
  repeat' (first | with_reducible assumption | (with_reducible first | apply runBits1_legal))

theorem execClzC_legal : ∀ (c : COne) (s : State), s.Legal → Keep.Out (execClzC c s) := by
  intros
  unfold execClzC
  repeat' (first | with_reducible assumption | (with_reducible first | apply runBits1_legal))

theorem execCtzC_legal : ∀ (c : COne) (s : State), s.Legal → Keep.Out (execCtzC c s) := by
  intros
  unfold execCtzC
  repeat' (first | with_reducible assumption | (with_reducible first | apply runBits1_legal))

theorem execBrevC_legal : ∀ (c : COne) (s : State), s.Legal → Keep.Out (execBrevC c s) := by
  intros
  unfold execBrevC
  repeat' (first | with_reducible assumption | (with_reducible first | apply runBits1_legal))

theorem execMovC_legal : ∀ (c : COne) (s : State), s.Legal → Keep.Out (execMovC c s) := by
  intros
  unfold execMovC
  repeat' (first | with_reducible assumption | (with_reducible first | apply runMov_legal))

theorem runF2_legal : ∀ (w64 : Bool) (op : Fmt → RMode → Nat → FVal → FVal → FRes) (o : Two) (len : Nat) (m : FRm) (s : State), s.Legal
    → Keep.Out (runF2 w64 op o len m s) := by
  intros
  unfold runF2
  repeat' (first | with_reducible assumption | (with_reducible first | apply runAlu_legal))

theorem runFma_legal : ∀ (w64 : Bool) (o : Three) (m : FRm) (cm : FCm) (s : State), s.Legal → Keep.Out (runFma w64 o m cm s) := by
  intros
  unfold runFma
  repeat' (first | with_reducible assumption | (with_reducible first | apply runAlu_legal))

theorem runFMinMax_legal : ∀ (w64 isMax : Bool) (o : Two) (len : Nat) (m : FMods) (s : State), s.Legal → Keep.Out (runFMinMax w64 isMax
    o len m s) := by
  intros
  unfold runFMinMax
  repeat' (first | with_reducible assumption | (with_reducible first | apply runAlu_legal))

theorem runFCmp_legal : ∀ (w64 : Bool) (o : Two) (cc : FCond) (m : FMods) (s : State), s.Legal → Keep.Out (runFCmp w64 o cc m s) := by
  intros
  unfold runFCmp
  repeat' (first | with_reducible assumption | (with_reducible first | apply runAlu_legal))

theorem execFadd_legal : ∀ (o : Two) (m : FRm) (s : State), s.Legal → Keep.Out (execFadd o m s) := by
  intros
  unfold execFadd
  repeat' (first | with_reducible assumption | (with_reducible first | apply runF2_legal))

theorem execFmul_legal : ∀ (o : Two) (m : FRm) (s : State), s.Legal → Keep.Out (execFmul o m s) := by
  intros
  unfold execFmul
  repeat' (first | with_reducible assumption | (with_reducible first | apply runF2_legal))

theorem execFfma_legal : ∀ (o : Three) (m : FRm) (c : FCm) (s : State), s.Legal → Keep.Out (execFfma o m c s) := by
  intros
  unfold execFfma
  repeat' (first | with_reducible assumption | (with_reducible first | apply runFma_legal))

theorem execFmin_legal : ∀ (o : Two) (m : FMods) (s : State), s.Legal → Keep.Out (execFmin o m s) := by
  intros
  unfold execFmin
  repeat' (first | with_reducible assumption | (with_reducible first | apply runFMinMax_legal))

theorem execFmax_legal : ∀ (o : Two) (m : FMods) (s : State), s.Legal → Keep.Out (execFmax o m s) := by
  intros
  unfold execFmax
  repeat' (first | with_reducible assumption | (with_reducible first | apply runFMinMax_legal))

theorem execFcmp_legal : ∀ (o : Two) (cc : FCond) (m : FMods) (s : State), s.Legal → Keep.Out (execFcmp o cc m s) := by
  intros
  unfold execFcmp
  repeat' (first | with_reducible assumption | (with_reducible first | apply runFCmp_legal))

theorem execDadd_legal : ∀ (o : Two) (m : FRm) (s : State), s.Legal → Keep.Out (execDadd o m s) := by
  intros
  unfold execDadd
  repeat' (first | with_reducible assumption | (with_reducible first | apply runF2_legal))

theorem execDmul_legal : ∀ (o : Two) (m : FRm) (s : State), s.Legal → Keep.Out (execDmul o m s) := by
  intros
  unfold execDmul
  repeat' (first | with_reducible assumption | (with_reducible first | apply runF2_legal))

theorem execDfma_legal : ∀ (o : Three) (m : FRm) (c : FCm) (s : State), s.Legal → Keep.Out (execDfma o m c s) := by
  intros
  unfold execDfma
  repeat' (first | with_reducible assumption | (with_reducible first | apply runFma_legal))

theorem execDmin_legal : ∀ (o : Two) (m : FMods) (s : State), s.Legal → Keep.Out (execDmin o m s) := by
  intros
  unfold execDmin
  repeat' (first | with_reducible assumption | (with_reducible first | apply runFMinMax_legal))

theorem execDmax_legal : ∀ (o : Two) (m : FMods) (s : State), s.Legal → Keep.Out (execDmax o m s) := by
  intros
  unfold execDmax
  repeat' (first | with_reducible assumption | (with_reducible first | apply runFMinMax_legal))

theorem execDcmp_legal : ∀ (o : Two) (cc : FCond) (m : FMods) (s : State), s.Legal → Keep.Out (execDcmp o cc m s) := by
  intros
  unfold execDcmp
  repeat' (first | with_reducible assumption | (with_reducible first | apply runFCmp_legal))

theorem execFclass_legal : ∀ (o : One) (s : State), s.Legal → Keep.Out (execFclass o s) := by
  intros
  unfold execFclass
  repeat' (first | with_reducible assumption | (with_reducible first | apply runAlu_legal))

theorem runFrnd_legal : ∀ (o : One) (len : Nat) (rm : RoundCode) (s : State), s.Legal → Keep.Out (runFrnd o len rm s) := by
  intros
  unfold runFrnd
  repeat' (first | with_reducible assumption | (with_reducible first | apply runAlu_legal))

theorem execFrnd_legal : ∀ (o : One) (rm : RoundCode) (s : State), s.Legal → Keep.Out (execFrnd o rm s) := by
  intros
  unfold execFrnd
  repeat' (first | with_reducible assumption | (with_reducible first | apply runFrnd_legal))

theorem runFscale_legal : ∀ (o : Two) (len : Nat) (rm : RoundCode) (na aa : Bool) (s : State), s.Legal → Keep.Out (runFscale o len rm na
    aa s) := by
  intros
  unfold runFscale
  repeat' (first | with_reducible assumption | (with_reducible first | apply runAlu_legal))

theorem execFscale_legal : ∀ (o : Two) (rm : RoundCode) (na aa : Bool) (s : State), s.Legal → Keep.Out (execFscale o rm na aa s) := by
  intros
  unfold execFscale
  repeat' (first | with_reducible assumption | (with_reducible first | apply runFscale_legal))

theorem execFfrexp_legal : ∀ (o : One) (exp : Bool) (s : State), s.Legal → Keep.Out (execFfrexp o exp s) := by
  intros
  unfold execFfrexp
  repeat' (first | with_reducible assumption | (with_reducible first | apply runAlu_legal))

theorem runH2_legal : ∀ (op : Fmt → RMode → Nat → FVal → FVal → FRes) (o : Two) (len : Nat) (bf : Bool) (rm : RoundCode) (na nb : Bool)
    (s : State), s.Legal → Keep.Out (runH2 op o len bf rm na nb s) := by
  intros
  unfold runH2
  repeat' (first | with_reducible assumption | (with_reducible first | apply runAlu_legal))

theorem execHadd2_legal : ∀ (o : Two) (bf : Bool) (rm : RoundCode) (na nb : Bool) (s : State), s.Legal → Keep.Out (execHadd2 o bf rm na
    nb s) := by
  intros
  unfold execHadd2
  repeat' (first | with_reducible assumption | (with_reducible first | apply runH2_legal))

theorem execHmul2_legal : ∀ (o : Two) (bf : Bool) (rm : RoundCode) (na nb : Bool) (s : State), s.Legal → Keep.Out (execHmul2 o bf rm na
    nb s) := by
  intros
  unfold execHmul2
  repeat' (first | with_reducible assumption | (with_reducible first | apply runH2_legal))

theorem execHfma2_legal : ∀ (o : Three) (bf : Bool) (rm : RoundCode) (na nb nc : Bool) (s : State), s.Legal → Keep.Out (execHfma2 o bf
    rm na nb nc s) := by
  intros
  unfold execHfma2
  repeat' (first | with_reducible assumption | (with_reducible first | apply runAlu_legal))

theorem runHMinMax_legal : ∀ (isMax : Bool) (o : Two) (len : Nat) (bf na nb : Bool) (s : State), s.Legal → Keep.Out (runHMinMax isMax o
    len bf na nb s) := by
  intros
  unfold runHMinMax
  repeat' (first | with_reducible assumption | (with_reducible first | apply runAlu_legal))

theorem execHmin2_legal : ∀ (o : Two) (bf na nb : Bool) (s : State), s.Legal → Keep.Out (execHmin2 o bf na nb s) := by
  intros
  unfold execHmin2
  repeat' (first | with_reducible assumption | (with_reducible first | apply runHMinMax_legal))

theorem execHmax2_legal : ∀ (o : Two) (bf na nb : Bool) (s : State), s.Legal → Keep.Out (execHmax2 o bf na nb s) := by
  intros
  unfold execHmax2
  repeat' (first | with_reducible assumption | (with_reducible first | apply runHMinMax_legal))

theorem runSpecial_legal : ∀ (fn : FVal → FRes) (o : One) (s : State), s.Legal → Keep.Out (runSpecial fn o s) := by
  intros
  unfold runSpecial
  repeat' (first | with_reducible assumption | (with_reducible first | apply runAlu_legal))

theorem execRcp_legal : ∀ (o : One) (s : State), s.Legal → Keep.Out (execRcp o s) := by
  intros
  unfold execRcp
  repeat' (first | with_reducible assumption | (with_reducible first | apply runSpecial_legal))

theorem execRsq_legal : ∀ (o : One) (s : State), s.Legal → Keep.Out (execRsq o s) := by
  intros
  unfold execRsq
  repeat' (first | with_reducible assumption | (with_reducible first | apply runSpecial_legal))

theorem execSqrt_legal : ∀ (o : One) (s : State), s.Legal → Keep.Out (execSqrt o s) := by
  intros
  unfold execSqrt
  repeat' (first | with_reducible assumption | (with_reducible first | apply runSpecial_legal))

theorem execExp2_legal : ∀ (o : One) (s : State), s.Legal → Keep.Out (execExp2 o s) := by
  intros
  unfold execExp2
  repeat' (first | with_reducible assumption | (with_reducible first | apply runSpecial_legal))

theorem execLog2_legal : ∀ (o : One) (s : State), s.Legal → Keep.Out (execLog2 o s) := by
  intros
  unfold execLog2
  repeat' (first | with_reducible assumption | (with_reducible first | apply runSpecial_legal))

theorem execSin_legal : ∀ (o : One) (s : State), s.Legal → Keep.Out (execSin o s) := by
  intros
  unfold execSin
  repeat' (first | with_reducible assumption | (with_reducible first | apply runSpecial_legal))

theorem execCos_legal : ∀ (o : One) (s : State), s.Legal → Keep.Out (execCos o s) := by
  intros
  unfold execCos
  repeat' (first | with_reducible assumption | (with_reducible first | apply runSpecial_legal))

theorem execTanh_legal : ∀ (o : One) (s : State), s.Legal → Keep.Out (execTanh o s) := by
  intros
  unfold execTanh
  repeat' (first | with_reducible assumption | (with_reducible first | apply runSpecial_legal))

theorem runCvti_legal : ∀ (o : One) (len : Nat) (src : FName) (ty : IntTy) (rm : RoundCode) (s : State), s.Legal → Keep.Out (runCvti o
    len src ty rm s) := by
  intros
  unfold runCvti
  repeat' (first | with_reducible assumption | (with_reducible first | apply runAlu_legal))

theorem execCvti_legal : ∀ (o : One) (src : FName) (ty : IntTy) (rm : RoundCode) (s : State), s.Legal → Keep.Out (execCvti o src ty rm
    s) := by
  intros
  unfold execCvti
  repeat' (first | with_reducible assumption | (with_reducible first | apply runCvti_legal))

theorem runCvtf_legal : ∀ (o : One) (len : Nat) (src : CvtSrc) (dst : FName) (rm : RoundCode) (s : State), s.Legal → Keep.Out (runCvtf o
    len src dst rm s) := by
  intros
  unfold runCvtf
  repeat' (first | with_reducible assumption | (with_reducible first | apply runAlu_legal))

theorem execCvtf_legal : ∀ (o : One) (src : CvtSrc) (dst : FName) (rm : RoundCode) (s : State), s.Legal → Keep.Out (execCvtf o src dst
    rm s) := by
  intros
  unfold execCvtf
  repeat' (first | with_reducible assumption | (with_reducible first | apply runCvtf_legal))

theorem execCvtq_legal : ∀ (o : Two) (q : QFmt) (sat : Bool) (rm : RoundCode) (s : State), s.Legal → Keep.Out (execCvtq o q sat rm s) :=
    by
  intros
  unfold execCvtq
  repeat' (first | with_reducible assumption | (with_reducible first | apply runAlu_legal))

theorem execCvtp_legal : ∀ (o : Two) (op : CvtpOp) (rm : RoundCode) (s : State), s.Legal → Keep.Out (execCvtp o op rm s) := by
  intros
  unfold execCvtp
  repeat' (first | with_reducible assumption | (with_reducible first | apply runAlu_legal))

theorem execFaddC_legal : ∀ (c : CTwo) (s : State), s.Legal → Keep.Out (execFaddC c s) := by
  intros
  unfold execFaddC
  repeat' (first | with_reducible assumption | (with_reducible first | apply runF2_legal))

theorem execFmulC_legal : ∀ (c : CTwo) (s : State), s.Legal → Keep.Out (execFmulC c s) := by
  intros
  unfold execFmulC
  repeat' (first | with_reducible assumption | (with_reducible first | apply runF2_legal))

theorem execFminC_legal : ∀ (c : CTwo) (s : State), s.Legal → Keep.Out (execFminC c s) := by
  intros
  unfold execFminC
  repeat' (first | with_reducible assumption | (with_reducible first | apply runFMinMax_legal))

theorem execFmaxC_legal : ∀ (c : CTwo) (s : State), s.Legal → Keep.Out (execFmaxC c s) := by
  intros
  unfold execFmaxC
  repeat' (first | with_reducible assumption | (with_reducible first | apply runFMinMax_legal))

theorem execFscaleC_legal : ∀ (c : CTwo) (s : State), s.Legal → Keep.Out (execFscaleC c s) := by
  intros
  unfold execFscaleC
  repeat' (first | with_reducible assumption | (with_reducible first | apply runFscale_legal))

theorem execFrndRnC_legal : ∀ (c : COne) (s : State), s.Legal → Keep.Out (execFrndRnC c s) := by
  intros
  unfold execFrndRnC
  repeat' (first | with_reducible assumption | (with_reducible first | apply runFrnd_legal))

theorem execHadd2F16C_legal : ∀ (c : CTwo) (s : State), s.Legal → Keep.Out (execHadd2F16C c s) := by
  intros
  unfold execHadd2F16C
  repeat' (first | with_reducible assumption | (with_reducible first | apply runH2_legal))

theorem execHmul2F16C_legal : ∀ (c : CTwo) (s : State), s.Legal → Keep.Out (execHmul2F16C c s) := by
  intros
  unfold execHmul2F16C
  repeat' (first | with_reducible assumption | (with_reducible first | apply runH2_legal))

theorem execHmin2F16C_legal : ∀ (c : CTwo) (s : State), s.Legal → Keep.Out (execHmin2F16C c s) := by
  intros
  unfold execHmin2F16C
  repeat' (first | with_reducible assumption | (with_reducible first | apply runHMinMax_legal))

theorem execHmax2F16C_legal : ∀ (c : CTwo) (s : State), s.Legal → Keep.Out (execHmax2F16C c s) := by
  intros
  unfold execHmax2F16C
  repeat' (first | with_reducible assumption | (with_reducible first | apply runHMinMax_legal))

theorem execHadd2Bf16C_legal : ∀ (c : CTwo) (s : State), s.Legal → Keep.Out (execHadd2Bf16C c s) := by
  intros
  unfold execHadd2Bf16C
  repeat' (first | with_reducible assumption | (with_reducible first | apply runH2_legal))

theorem execHmul2Bf16C_legal : ∀ (c : CTwo) (s : State), s.Legal → Keep.Out (execHmul2Bf16C c s) := by
  intros
  unfold execHmul2Bf16C
  repeat' (first | with_reducible assumption | (with_reducible first | apply runH2_legal))

theorem execHmin2Bf16C_legal : ∀ (c : CTwo) (s : State), s.Legal → Keep.Out (execHmin2Bf16C c s) := by
  intros
  unfold execHmin2Bf16C
  repeat' (first | with_reducible assumption | (with_reducible first | apply runHMinMax_legal))

theorem execHmax2Bf16C_legal : ∀ (c : CTwo) (s : State), s.Legal → Keep.Out (execHmax2Bf16C c s) := by
  intros
  unfold execHmax2Bf16C
  repeat' (first | with_reducible assumption | (with_reducible first | apply runHMinMax_legal))

theorem execCvtfF32I32C_legal : ∀ (c : COne) (s : State), s.Legal → Keep.Out (execCvtfF32I32C c s) := by
  intros
  unfold execCvtfF32I32C
  repeat' (first | with_reducible assumption | (with_reducible first | apply runCvtf_legal))

theorem execCvtfF32N32C_legal : ∀ (c : COne) (s : State), s.Legal → Keep.Out (execCvtfF32N32C c s) := by
  intros
  unfold execCvtfF32N32C
  repeat' (first | with_reducible assumption | (with_reducible first | apply runCvtf_legal))

theorem execCvtiI32F32RzC_legal : ∀ (c : COne) (s : State), s.Legal → Keep.Out (execCvtiI32F32RzC c s) := by
  intros
  unfold execCvtiI32F32RzC
  repeat' (first | with_reducible assumption | (with_reducible first | apply runCvti_legal))

theorem execCvtiN32F32RzC_legal : ∀ (c : COne) (s : State), s.Legal → Keep.Out (execCvtiN32F32RzC c s) := by
  intros
  unfold execCvtiN32F32RzC
  repeat' (first | with_reducible assumption | (with_reducible first | apply runCvti_legal))

theorem execHash_legal : ∀ (o : Two) (k64 h64 : Bool) (s : State), s.Legal → Keep.Out (execHash o k64 h64 s) := by
  intros
  unfold execHash
  repeat' (first | with_reducible assumption | (with_reducible first | apply runAlu_legal))

theorem runCrc_legal : ∀ (o : Two) (len : Nat) (w : CrcW) (s : State), s.Legal → Keep.Out (runCrc o len w s) := by
  intros
  unfold runCrc
  repeat' (first | with_reducible assumption | (with_reducible first | apply runAlu_legal))

theorem execCrc32c_legal : ∀ (o : Two) (w : CrcW) (s : State), s.Legal → Keep.Out (execCrc32c o w s) := by
  intros
  unfold execCrc32c
  repeat' (first | with_reducible assumption | (with_reducible first | apply runCrc_legal))

theorem execCrc32cC_legal : ∀ (c : CTwo) (s : State), s.Legal → Keep.Out (execCrc32cC c s) := by
  intros
  unfold execCrc32cC
  repeat' (first | with_reducible assumption | (with_reducible first | apply runCrc_legal))

theorem execRand_legal : ∀ (h : Hdr) (d : VReg) (b64 ext : Bool) (s : State), s.Legal → Keep.Out (execRand h d b64 ext s) := by
  intros
  unfold execRand
  repeat' (first | with_reducible assumption | (with_reducible first | apply runAlu_legal))

theorem execSpack_legal : ∀ (o : One) (e5 : Bool) (s : State), s.Legal → Keep.Out (execSpack o e5 s) := by
  intros
  unfold execSpack
  repeat' (first | with_reducible assumption | (with_reducible first | apply runAlu_legal))

theorem State.answer_legal : ∀ (s : State) (team tid : Nat) (h : Hdr) (pci : Pc) (kind : WinKind) (regs : List (Nat × Word)), s.Legal →
    (s.answer team tid h pci kind regs).Legal := by
  intros
  unfold State.answer
  repeat' (first
      | with_reducible assumption | (with_reducible first | apply State.takeId_legal | apply State.openWin_legal | apply Keep.snd))

theorem execPart_legal : ∀ (h : Hdr) (op : PartOp) (d : VReg) (s : State), s.Legal → Keep.Out (execPart h op d s) := by
  intros
  unfold execPart
  repeat' (first | with_reducible assumption | (with_reducible first | intro _ | apply runLanes_legal | apply State.answer_legal))

theorem execVote_legal : ∀ (h : Hdr) (op : VoteOp) (neg : Bool) (d : VReg) (pa : PReg) (b : SrcB) (s : State), s.Legal → Keep.Out
    (execVote h op neg d pa b s) := by
  intros
  unfold execVote
  repeat' (first | with_reducible assumption | (with_reducible first | apply runColl_legal))

theorem execPick_legal : ∀ (h : Hdr) (mode : PickMode) (delta : BitVec 6) (d a : VReg) (b : SrcB) (s : State), s.Legal → Keep.Out
    (execPick h mode delta d a b s) := by
  intros
  unfold execPick
  repeat' (first | with_reducible assumption | (with_reducible first | apply runColl_legal))

theorem execTred_legal : ∀ (h : Hdr) (op : RedKind) (ty : RedTy) (d a : VReg) (b : SrcB) (s : State), s.Legal → Keep.Out (execTred h op
    ty d a b s) := by
  intros
  unfold execTred
  repeat' (first | with_reducible assumption | (with_reducible first | apply runColl_legal))

theorem execTscan_legal : ∀ (h : Hdr) (op : RedKind) (ty : RedTy) (exc : Bool) (d a : VReg) (b : SrcB) (s : State), s.Legal → Keep.Out
    (execTscan h op ty exc d a b s) := by
  intros
  unfold execTscan
  repeat' (first | with_reducible assumption | (with_reducible first | apply runColl_legal))

theorem execMatchEq_legal : ∀ (h : Hdr) (w64 : Bool) (d a : VReg) (b : SrcB) (s : State), s.Legal → Keep.Out (execMatchEq h w64 d a b s)
    := by
  intros
  unfold execMatchEq
  repeat' (first | with_reducible assumption | (with_reducible first | apply runColl_legal))

theorem execCollectiveResult_legal : ∀ (s : State), s.Legal → Keep.Out (execCollectiveResult s) := by
  intros
  unfold execCollectiveResult
  repeat' (first
      | with_reducible assumption | (with_reducible first | apply State.modThread_legal | apply State.file_legal | apply Keep.next)
      | split | dsimp only)

theorem State.barMark_legal : ∀ (s : State) (team tid : Nat) (b : BarRef), s.Legal → (s.barMark team tid b).Legal := by
  intros
  unfold State.barMark
  repeat' (first | with_reducible assumption | (with_reducible first | apply State.modThread_legal | apply State.modLaunch_legal) | split)

theorem State.barRelease_legal : ∀ (s : State) (c : Nat) (tm : Team) (lvl : BarLevel), s.Legal → (s.barRelease c tm lvl).Legal := by
  intros
  unfold State.barRelease
  repeat' (first | with_reducible assumption | (with_reducible first | intro _ | apply State.release_legal | apply Keep.foldl) | split)

theorem State.barArrive_legal : ∀ (s : State) (c team tid : Nat) (tm : Team) (t : Thread) (lvl : BarLevel) (idx : Nat), s.Legal →
    Keep.Snd (s.barArrive c team tid tm t lvl idx) := by
  intros
  unfold State.barArrive
  repeat' (first
      | with_reducible assumption
      | (with_reducible first
          | apply State.barMark_legal | apply State.barRelease_legal | apply State.tells_legal | apply State.modThread_legal)
      | split | (with_reducible apply Keep.pair))

theorem State.barAwait_legal : ∀ (s : State) (c team tid : Nat) (tm : Team) (t : Thread) (h : Hdr) (lvl : BarLevel) (idx : Nat) (g :
    Word), s.Legal → (s.barAwait c team tid tm t h lvl idx g).Legal := by
  intros
  unfold State.barAwait
  repeat' (first
      | with_reducible assumption
      | (with_reducible first
          | apply State.acquire_legal | apply State.learns_legal | apply State.takeId_legal | apply State.openWait_legal)
      | split | (unfold State.Legal; dsimp only; with_reducible apply Keep.fold)
      | (with_reducible apply Keep.of_pair; with_reducible assumption))

theorem runBar_legal : ∀ (h : Hdr) (lvl : BarLevel) (idx : BitVec 4) (vs : List VOp) (a : Option VReg) (f : Nat → Nat → Team → Nat →
    Thread → State → State) (s : State), (∀ (a a_1 : Nat) (a_2 : Team) (a_3 : Nat) (a_4 : Thread) (a_5 : State), a_5.Legal → (f a a_1 a_2
    a_3 a_4 a_5).Legal) → s.Legal → Keep.Out (runBar h lvl idx vs a f s) := by
  intros
  unfold runBar
  repeat' (first
      | with_reducible assumption | (with_reducible first | intro _ | apply runLanes_legal | apply State.takeTrap_legal) | split
      | (with_reducible apply_assumption -exfalso -symm))

theorem execBarArv_legal : ∀ (h : Hdr) (lvl : BarLevel) (idx : BitVec 4) (d : VReg) (s : State), s.Legal → Keep.Out (execBarArv h lvl
    idx d s) := by
  intros
  unfold execBarArv
  repeat' (first
      | with_reducible assumption
      | (with_reducible first
          | intro _ | apply runBar_legal | apply State.barArrive_legal | apply State.answer_legal | apply Keep.snd))

theorem execBarWait_legal : ∀ (h : Hdr) (lvl : BarLevel) (idx : BitVec 4) (a : VReg) (s : State), s.Legal → Keep.Out (execBarWait h lvl
    idx a s) := by
  intros
  unfold execBarWait
  repeat' (first | with_reducible assumption | (with_reducible first | intro _ | apply runBar_legal | apply State.barAwait_legal))

theorem execBarSync_legal : ∀ (h : Hdr) (lvl : BarLevel) (idx : BitVec 4) (s : State), s.Legal → Keep.Out (execBarSync h lvl idx s) :=
    by
  intros
  unfold execBarSync
  repeat' (first
      | with_reducible assumption
      | (with_reducible first
          | intro _ | apply runBar_legal | apply State.barArrive_legal | apply State.barAwait_legal | apply Keep.snd))

theorem execBarQ_legal : ∀ (h : Hdr) (lvl : BarLevel) (idx : BitVec 4) (d : VReg) (s : State), s.Legal → Keep.Out (execBarQ h lvl idx d
    s) := by
  intros
  unfold execBarQ
  repeat' (first | with_reducible assumption | (with_reducible first | intro _ | apply runBar_legal | apply State.answer_legal))

theorem State.barAdvance_legal : ∀ (s : State) (b : BarRef), s.Legal → (s.barAdvance b).Legal := by
  intros
  unfold State.barAdvance
  repeat' (first
      | with_reducible assumption
      | (with_reducible first
          | apply State.modThreads_legal | apply State.modTeam_legal | apply State.modLaunch_legal)
      | split)

theorem State.barWake_legal : ∀ (s : State) (b : BarRef), s.Legal → (s.barWake b).Legal := by
  intros
  unfold State.barWake
  repeat' (first
      | with_reducible assumption
      | (with_reducible first
          | intro _ | apply State.waitDone_legal | apply State.acquire_legal | apply State.learns_legal | apply Keep.foldl)
      | split)

theorem execBarrierPhaseComplete_legal : ∀ (s : State), s.Legal → Keep.Out (execBarrierPhaseComplete s) := by
  intros
  unfold execBarrierPhaseComplete
  repeat' (first
      | with_reducible assumption | (with_reducible first | apply State.barWake_legal | apply State.barAdvance_legal | apply Keep.next)
      | split)

theorem State.recordArr_legal : ∀ (s : State) (team tid : Nat) (pci : Pc) (result : DWord), s.Legal → (s.recordArr team tid pci
    result).Legal := by
  intros
  unfold State.recordArr
  repeat' (first | with_reducible assumption | (with_reducible first | apply State.modThread_legal))

theorem State.faultLanes_legal : ∀ (s : State) (team : Nat) (l : List (Nat × Nat × Thread)) (kind : Nat) (info : DWord) (len : Nat),
    s.Legal → (s.faultLanes team l kind info len).Legal := by
  intros
  unfold State.faultLanes
  repeat' (first | with_reducible assumption | (with_reducible first | intro _ | apply State.takeTrap_legal | apply Keep.foldl))

theorem runHeld_legal : ∀ (h : Hdr) (len : Nat) (vs : List VOp) (f : Nat → Nat → Group → Team → List (Nat × Nat × Thread) → State →
    State) (s : State), (∀ (a a_1 : Nat) (a_2 : Group) (a_3 : Team) (a_4 : List (Nat × Nat × Thread)) (a_5 : State), a_5.Legal → (f a a_1
    a_2 a_3 a_4 a_5).Legal) → s.Legal → Keep.Out (runHeld h len vs f s) := by
  intros
  unfold runHeld
  repeat' (first
      | with_reducible assumption
      | (with_reducible first
          | apply State.settle_legal | apply State.trapGroup_legal | apply State.eatFirst_legal | apply Keep.next)
      | split | (with_reducible apply Keep.of_some; with_reducible assumption) | (with_reducible apply_assumption -exfalso -symm))

theorem State.matPost_legal : ∀ (s : State) (team e tid : Nat) (k : MKind) (bin : Option Nat) (conv : Option (Nat × Word)) (pc : Pc),
    s.Legal → (s.matPost team e tid k bin conv pc).Legal := by
  intros
  unfold State.matPost
  repeat' (first | with_reducible assumption | (with_reducible first | apply State.modTeam_legal | apply State.matEnter_legal) | split)

theorem State.sigComplete_legal : ∀ (s : State) (team tid n : Nat) (g : Word) (op : Option SigOp) (pc : Pc), s.Legal → (s.sigComplete
    team tid n g op pc).Legal := by
  intros
  unfold State.sigComplete
  repeat' (first | with_reducible assumption | (with_reducible first | apply State.matPost_legal | apply State.modTeam_legal) | split)

theorem State.sign_legal : ∀ (s : State) (team tid n : Nat) (op : Option SigOp) (pc : Pc), s.Legal → (s.sign team tid n op pc).Legal :=
    by
  intros
  unfold State.sign
  repeat' (first
      | with_reducible assumption
      | (with_reducible first
          | apply State.recordArr_legal | apply State.matFence_legal | apply State.modTeam_legal | apply State.advanceDone_legal
          | apply State.sigComplete_legal)
      | split | (unfold State.Legal; dsimp only; with_reducible apply Keep.fold))

theorem State.passAll_legal : ∀ (s : State) (team : Nat) (l : List (Nat × Nat × Thread)), s.Legal → (s.passAll team l).Legal := by
  intros
  unfold State.passAll
  repeat' (first | with_reducible assumption | (with_reducible first | intro _ | apply State.modThread_legal | apply Keep.foldl))

theorem State.convRun_legal : ∀ (s : State) (c slot : Nat) (g : Group) (tm : Team) (len n : Nat) (fresh : List (Nat × Nat × Thread)) (op
    : SigOp) (latch : List Nat), s.Legal → (s.convRun c slot g tm len n fresh op latch).Legal := by
  intros
  unfold State.convRun
  repeat' (first
      | with_reducible assumption
      | (with_reducible first
          | intro _ | apply State.sign_legal | apply State.settle_legal | apply State.issueAll_legal | apply State.stallGroup_legal
          | apply State.passAll_legal | apply Keep.foldl)
      | split | (unfold State.Legal; dsimp only; with_reducible apply Keep.fold))

theorem runTeamOp_legal : ∀ (h : Hdr) (len : Nat) (vs : List VOp) (a : Option VReg) (e : Bool) (cv : Option (BitVec 4)) (bin : Team →
    Thread → Option Nat) (req : Team → Engine → Thread → MReq) (s : State), s.Legal → Keep.Out (runTeamOp h len vs a e cv bin req s) := by
  intros
  unfold runTeamOp
  repeat' (first
      | with_reducible assumption
      | (with_reducible first
          | intro _ | apply runHeld_legal | apply State.settle_legal | apply State.issueAll_legal | apply State.faultLanes_legal
          | apply State.convRun_legal | apply State.stallGroup_legal | apply State.passAll_legal | apply State.matPost_legal
          | apply State.recordArr_legal | apply Keep.foldl)
      | split | (unfold State.Legal; dsimp only; with_reducible apply Keep.fold))

theorem execMldw_legal : ∀ (h : Hdr) (fmt : MFmt) (ns e : Bool) (d a : VReg) (b : SrcB) (cv : Option (BitVec 4)) (s : State), s.Legal →
    Keep.Out (execMldw h fmt ns e d a b cv s) := by
  intros
  unfold execMldw
  repeat' (first | with_reducible assumption | (with_reducible first | apply runTeamOp_legal))

theorem execMldws_legal : ∀ (h : Hdr) (e5m2 e : Bool) (d a : VReg) (b : SrcB) (cv : Option (BitVec 4)) (s : State), s.Legal → Keep.Out
    (execMldws h e5m2 e d a b cv s) := by
  intros
  unfold execMldws
  repeat' (first | with_reducible assumption | (with_reducible first | apply runTeamOp_legal))

theorem execMswap_legal : ∀ (h : Hdr) (e : Bool) (f : CvForm) (s : State), s.Legal → Keep.Out (execMswap h e f s) := by
  intros
  unfold execMswap
  repeat' (first | with_reducible assumption | (with_reducible first | apply runTeamOp_legal))

theorem execMma_legal : ∀ (h : Hdr) (fmt : MFmt) (ns z e : Bool) (d a : VReg) (b : ExtB) (c : VReg) (cv : Option (BitVec 4)) (s :
    State), s.Legal → Keep.Out (execMma h fmt ns z e d a b c cv s) := by
  intros
  unfold execMma
  repeat' (first | with_reducible assumption | (with_reducible first | apply runTeamOp_legal))

theorem execMgmm_legal : ∀ (h : Hdr) (fmt : MFmt) (ns bin e : Bool) (d a : VReg) (b : ExtB) (c : VReg) (cv : Option (BitVec 4)) (s :
    State), s.Legal → Keep.Out (execMgmm h fmt ns bin e d a b c cv s) := by
  intros
  unfold execMgmm
  repeat' (first | with_reducible assumption | (with_reducible first | apply runTeamOp_legal))

theorem execMclr_legal : ∀ (h : Hdr) (e : Bool) (d : VReg) (f : CvForm) (s : State), s.Legal → Keep.Out (execMclr h e d f s) := by
  intros
  unfold execMclr
  repeat' (first | with_reducible assumption | (with_reducible first | apply runTeamOp_legal))

theorem execMacld_legal : ∀ (h : Hdr) (acc e : Bool) (d a : VReg) (b : SrcB) (cv : Option (BitVec 4)) (s : State), s.Legal → Keep.Out
    (execMacld h acc e d a b cv s) := by
  intros
  unfold execMacld
  repeat' (first | with_reducible assumption | (with_reducible first | apply runTeamOp_legal))

theorem execMacst_legal : ∀ (h : Hdr) (o : OFmt) (sx e sat clr : Bool) (d a : VReg) (b : ExtB) (c : VReg) (cv : Option (BitVec 4)) (rm :
    StRm) (s : State), s.Legal → Keep.Out (execMacst h o sx e sat clr d a b c cv rm s) := by
  intros
  unfold execMacst
  repeat' (first | with_reducible assumption | (with_reducible first | apply runTeamOp_legal))

theorem execMrow_legal : ∀ (h : Hdr) (op : RowOp) (acc e : Bool) (d a : VReg) (f : CvForm) (s : State), s.Legal → Keep.Out (execMrow h
    op acc e d a f s) := by
  intros
  unfold execMrow
  repeat' (first | with_reducible assumption | (with_reducible first | apply runTeamOp_legal))

theorem State.macrdOpen_legal : ∀ (s : State) (team tid : Nat) (h : Hdr) (pci : Pc) (e dst : Nat), s.Legal → Keep.Snd (s.macrdOpen team
    tid h pci e dst) := by
  intros
  unfold State.macrdOpen
  repeat' (first
      | with_reducible assumption
      | (with_reducible first
          | apply State.takeId_legal | apply State.openWin_legal | apply State.modThread_legal | apply Keep.snd)
      | (unfold State.Legal; dsimp only; with_reducible apply Keep.fold)
      | (with_reducible apply Keep.of_pair; with_reducible assumption) | (with_reducible apply Keep.pair))

theorem execMacrd_legal : ∀ (h : Hdr) (e : Bool) (d a : VReg) (b : SrcB) (s : State), s.Legal → Keep.Out (execMacrd h e d a b s) := by
  intros
  unfold execMacrd
  repeat' (first
      | with_reducible assumption
      | (with_reducible first
          | intro _ | apply runHeld_legal | apply State.stallGroup_legal | apply State.issueAll_legal | apply State.macrdOpen_legal
          | apply State.matPost_legal | apply State.faultLanes_legal | apply State.settle_legal | apply Keep.foldl | apply Keep.foldl2
          | apply Keep.snd)
      | split | (unfold State.Legal; dsimp only; with_reducible apply Keep.fold) | (with_reducible apply Keep.pair))

theorem execMfence_legal : ∀ (h : Hdr) (s : State), s.Legal → Keep.Out (execMfence h s) := by
  intros
  unfold execMfence
  repeat' (first
      | with_reducible assumption
      | (with_reducible first
          | intro _ | apply runLanes_legal | apply State.takeId_legal | apply State.openWin_legal | apply State.matFence_legal
          | apply Keep.snd)
      | split)

theorem State.ifEngine_legal : ∀ (s : State) (team tid : Nat) (tm : Team) (t : Thread) (len : Nat) (e : Bool) (k : State), s.Legal →
    k.Legal → (s.ifEngine team tid tm t len e k).Legal := by
  intros
  unfold State.ifEngine
  repeat' (first | with_reducible assumption | (with_reducible first | apply State.takeTrap_legal) | split)

theorem execMwait_legal : ∀ (h : Hdr) (e : Bool) (s : State), s.Legal → Keep.Out (execMwait h e s) := by
  intro h e s hs
  unfold execMwait
  refine runLanes_legal _ _ _ _ _ _ _ (fun c team tm tid t u hu => State.ifEngine_legal _ _ _ _ _ _ _ _ hu ?_) hs
  have hn : u.takeId.2.Legal := State.takeId_legal u hu
  generalize u.takeId = p at hn
  dsimp only
  generalize cmpReached _ _ = b
  cases b with
  | true => exact State.modThread_legal _ _ _ _ (State.acquire_legal _ _ _ _ (State.learns_legal _ _ _ hn))
  | false => exact State.openWait_legal _ _ _ _ _ hn

theorem execMwaitCv_legal : ∀ (h : Hdr) (e : Bool) (n : BitVec 4) (b : SrcB) (s : State), s.Legal → Keep.Out (execMwaitCv h e n b s) :=
    by
  intros
  unfold execMwaitCv
  repeat' (first
      | with_reducible assumption
      | (with_reducible first
          | intro _ | apply runLanes_legal | apply State.ifEngine_legal | apply State.acquire_legal | apply State.learns_legal
          | apply State.takeId_legal | apply State.openWait_legal)
      | split | (unfold State.Legal; dsimp only; with_reducible apply Keep.fold)
      | (with_reducible apply Keep.of_pair; with_reducible assumption))

theorem execMqry_legal : ∀ (h : Hdr) (clr e : Bool) (d : VReg) (s : State), s.Legal → Keep.Out (execMqry h clr e d s) := by
  intros
  unfold execMqry
  repeat' (first
      | with_reducible assumption
      | (with_reducible first
          | intro _ | apply runLive_legal | apply State.faultLanes_legal | apply State.answer_legal | apply State.modTeam_legal
          | apply Keep.foldl)
      | split)

theorem execCvset_legal : ∀ (h : Hdr) (d : BitVec 4) (b : SrcB) (s : State), s.Legal → Keep.Out (execCvset h d b s) := by
  intros
  unfold execCvset
  repeat' (first
      | with_reducible assumption
      | (with_reducible first
          | intro _ | apply runLive_legal | apply State.faultLanes_legal | apply State.modTeam_legal | apply State.recordArr_legal
          | apply Keep.foldl)
      | split | dsimp only)

theorem execSign_legal : ∀ (h : Hdr) (d : VReg) (a : BitVec 4) (s : State), s.Legal → Keep.Out (execSign h d a s) := by
  intros
  unfold execSign
  repeat' (first
      | with_reducible assumption
      | (with_reducible first
          | intro _ | apply runLive_legal | apply State.answer_legal | apply State.faultLanes_legal | apply State.sign_legal
          | apply Keep.foldl)
      | split | dsimp only)

theorem State.imageWrite_legal : ∀ (s : State) (t : Team) (ok : Bool) (va : Nat) (b : List Byte), s.Legal → Keep.Snd (s.imageWrite t ok
    va b) := by
  intros
  unfold State.imageWrite
  repeat' (first
      | with_reducible assumption | (with_reducible first | apply State.vWrite_legal | apply Keep.snd)
      | (with_reducible apply Keep.of_pair; with_reducible assumption) | (with_reducible apply Keep.pair))

theorem State.imageSparse_legal : ∀ (s : State) (t : Team) (ok : Bool) (va len : Nat) (x : Tbl Byte), s.Legal → Keep.Snd (s.imageSparse
    t ok va len x) := by
  intros
  unfold State.imageSparse
  repeat' (first
      | with_reducible assumption
      | (with_reducible first
          | intro _ | apply State.vClear_legal | apply State.imageWrite_legal | apply Keep.foldl2 | apply Keep.snd)
      | split | (with_reducible apply Keep.pair))

theorem State.writeLines_legal : ∀ (s : State) (team : Nat) (t : Team) (ok : Bool), s.Legal → Keep.Snd (s.writeLines team t ok) := by
  intros
  unfold State.writeLines
  repeat' (first
      | with_reducible assumption | (with_reducible first | intro _ | apply State.imageWrite_legal | apply Keep.foldl2)
      | (with_reducible apply_assumption -exfalso -symm))

theorem State.writeHood_legal : ∀ (s : State) (team : Nat) (t : Team) (ok : Bool), s.Legal → Keep.Snd (s.writeHood team t ok) := by
  intros
  unfold State.writeHood
  repeat' (first
      | with_reducible assumption | (with_reducible first | intro _ | apply State.imageWrite_legal | apply Keep.foldl2 | apply Keep.snd))

theorem State.fileTeam_legal : ∀ (s : State) (team : Nat), s.Legal → (s.fileTeam team).Legal := by
  intros
  unfold State.fileTeam
  repeat' (first | with_reducible assumption | (with_reducible first | intro _ | apply State.file_legal | apply Keep.foldl) | split)

theorem State.startAcquire_legal : ∀ (s : State) (t : Team), s.Legal → (s.startAcquire t).Legal := by
  intros
  unfold State.startAcquire
  repeat' (first | with_reducible assumption | (with_reducible first | intro _ | apply State.acquire_legal | apply Keep.foldl))

theorem State.createTeam_legal : ∀ (s : State) (lid n ctx : Nat) (l : LaunchRec) (h retry : Nat) (p : Nat × Nat × Nat), s.Legal →
    (s.createTeam lid n ctx l h retry p).Legal := by
  intros
  unfold State.createTeam
  repeat' (first
      | with_reducible assumption
      | (with_reducible first
          | apply State.vRead_legal | apply State.endLaunch_legal | apply State.vClear_legal | apply State.writeHood_legal
          | apply State.fileTeam_legal | apply State.modThreads_legal | apply State.startAcquire_legal | apply Keep.snd)
      | split | (unfold State.Legal; dsimp only; with_reducible apply Keep.fold)
      | (with_reducible apply Keep.of_pair; with_reducible assumption) | (with_reducible apply_assumption -exfalso -symm))

theorem State.readIndexes_legal : ∀ (s : State) (c : Nat) (r : CopyReq), s.Legal → (s.readIndexes c r).Legal := by
  intros
  unfold State.readIndexes
  repeat' (first | with_reducible assumption | (with_reducible first | apply State.copyFault_legal | apply State.modCopy_legal) | split)

theorem State.readLists_legal : ∀ (s : State) (teams : List Nat), s.Legal → (s.readLists teams).Legal := by
  intros
  unfold State.readLists
  repeat' (first | with_reducible assumption | (with_reducible first | intro _ | apply State.readIndexes_legal | apply Keep.foldl))

theorem State.deliverTraps_legal : ∀ (s : State) (team : Nat), s.Legal → (s.deliverTraps team).Legal := by
  intros
  unfold State.deliverTraps
  repeat' (first
      | with_reducible assumption | (with_reducible first | intro _ | apply State.deliverTrap_legal | apply Keep.foldl) | split)

theorem State.unschedTeam_legal : ∀ (s : State) (team : Nat), s.Legal → (s.unschedTeam team).Legal := by
  intros
  unfold State.unschedTeam
  repeat' (first | with_reducible assumption | (with_reducible first | intro _ | apply State.modCore_legal | apply Keep.foldl) | split)

theorem State.writeAcc_legal : ∀ (s : State) (t : Team) (ok : Bool), s.Legal → Keep.Snd (s.writeAcc t ok) := by
  intros
  unfold State.writeAcc
  repeat' (first
      | with_reducible assumption
      | (with_reducible first
          | intro _ | apply State.vClear_legal | apply State.imageWrite_legal | apply Keep.foldl2 | apply Keep.snd)
      | split | (with_reducible apply Keep.pair))

theorem writePlane_legal : ∀ (t : Team) (r : Bool × State) (e : Nat), Keep.Snd r → Keep.Snd (writePlane t r e) := by
  intros
  unfold writePlane
  repeat' (first | with_reducible assumption | (with_reducible first | apply State.imageSparse_legal | apply Keep.snd))

theorem State.writePlanes_legal : ∀ (s : State) (t : Team) (ok : Bool), s.Legal → Keep.Snd (s.writePlanes t ok) := by
  intros
  unfold State.writePlanes
  repeat' (first
      | with_reducible assumption | (with_reducible first | apply writePlane_legal | apply Keep.foldl2) | split
      | (with_reducible apply_assumption -exfalso -symm))

theorem State.writeImages_legal : ∀ (s : State) (team : Nat) (t : Team) (ok : Bool), s.Legal → Keep.Snd (s.writeImages team t ok) := by
  intros
  unfold State.writeImages
  repeat' (first
      | with_reducible assumption
      | (with_reducible first
          | intro _ | apply State.imageSparse_legal | apply State.writeAcc_legal | apply State.writePlanes_legal
          | apply State.imageWrite_legal | apply Keep.foldl2 | apply Keep.snd))

theorem State.fencesDone_legal : ∀ (s : State) (team : Nat), s.Legal → (s.fencesDone team).Legal := by
  intros
  unfold State.fencesDone
  repeat' (first | with_reducible assumption | (with_reducible first | intro _ | apply State.matFence_legal | apply Keep.foldl) | split)

theorem State.saveTeam_legal : ∀ (s : State) (team : Nat) (restart : Bool), s.Legal → (s.saveTeam team restart).Legal := by
  intros
  unfold State.saveTeam
  repeat' (first
      | with_reducible assumption
      | (with_reducible first
          | intro _ | apply State.deliverTraps_legal | apply State.modThreads_legal | apply State.fencesDone_legal
          | apply State.restart_legal | apply State.modTeam_legal | apply State.unschedTeam_legal | apply State.writeHood_legal
          | apply State.writeLines_legal | apply State.writeImages_legal | apply State.vRead_legal | apply State.endLaunch_legal
          | apply Keep.foldl | apply Keep.snd)
      | split | (unfold State.Legal; dsimp only; with_reducible apply Keep.fold))

theorem State.moveColls_legal : ∀ (s : State) (team : Nat) (t : Team), s.Legal → (s.moveColls team t).Legal := by
  intros
  unfold State.moveColls
  repeat' (first
      | with_reducible assumption | (with_reducible first | intro _ | apply State.modCore_legal | apply Keep.foldl)
      | (unfold State.Legal; dsimp only; with_reducible apply Keep.fold))

theorem State.watchAgainAll_legal : ∀ (s : State) (team : Nat), s.Legal → (s.watchAgainAll team).Legal := by
  intros
  unfold State.watchAgainAll
  repeat' (first
      | with_reducible assumption
      | (with_reducible first
          | intro _ | apply State.landWake_legal | apply State.soon_legal | apply Keep.foldl))

theorem State.reclaim_legal : ∀ (s : State) (team : Nat) (t : Team) (save : List Byte), s.Legal → (s.reclaim team t save).Legal := by
  intros
  unfold State.reclaim
  repeat' (first
      | with_reducible assumption | (with_reducible first | intro _ | apply State.freeRsv_legal | apply Keep.foldl) | split
      | (unfold State.Legal; dsimp only; with_reducible apply Keep.fold))

theorem State.loadTeam_legal : ∀ (s : State) (team : Nat) (p : Nat × Nat × Nat), s.Legal → (s.loadTeam team p).Legal := by
  intros
  unfold State.loadTeam
  repeat' (first
      | with_reducible assumption
      | (with_reducible first
          | apply State.vRead_legal | apply State.changed_legal | apply State.reclaim_legal | apply State.modThreads_legal
          | apply State.imageWrite_legal | apply State.moveColls_legal | apply State.watchAgainAll_legal | apply State.fileTeam_legal
          | apply State.endLaunch_legal | apply Keep.snd)
      | split | (unfold State.Legal; dsimp only; with_reducible apply Keep.fold))

theorem State.upsetWord_legal : ∀ (s : State) (hits : List Nat) (o : Nat) (w : Word), s.Legal → Keep.Snd (s.upsetWord hits o w) := by
  intros
  unfold State.upsetWord
  repeat' (first | with_reducible assumption | split | (with_reducible apply_assumption -exfalso -symm))

theorem State.upsetWords_legal : ∀ (s : State) (hits : List Nat) (o step : Nat) (ws : List Word), s.Legal → Keep.Snd (s.upsetWords hits
    o step ws) := by
  intro s hits o step ws h
  unfold State.upsetWords
  exact Keep.foldl3 (fun a w ha => State.upsetWord_legal _ _ _ _ ha) h

theorem State.upsetThread_legal : ∀ (s : State) (hits : List Nat) (l : LaunchRec) (i : Nat) (t : Thread), s.Legal → Keep.Snd
    (s.upsetThread hits l i t) := by
  intros
  unfold State.upsetThread
  repeat' (first
      | with_reducible assumption | (with_reducible first | apply State.upsetWords_legal | apply State.freeBytes_legal | apply Keep.snd)
      | (with_reducible apply Keep.of_pair; with_reducible assumption) | (with_reducible apply Keep.pair))

theorem State.upsetHeader_legal : ∀ (s : State) (hits : List Nat) (t : Team), s.Legal → Keep.Snd (s.upsetHeader hits t) := by
  intros
  unfold State.upsetHeader
  repeat' (first
      | with_reducible assumption | (with_reducible first | apply State.upsetWords_legal | apply Keep.snd)
      | (with_reducible apply Keep.of_pair; with_reducible assumption) | (with_reducible apply Keep.pair))

theorem State.upsetTeam_legal : ∀ (s : State) (team : Nat) (t : Team) (hits : List Nat), s.Legal → (s.upsetTeam team t hits).Legal := by
  intros
  unfold State.upsetTeam
  repeat' (first
      | with_reducible assumption
      | (with_reducible first
          | intro _ | apply State.modTeam_legal | apply State.upsetHeader_legal | apply State.upsetThread_legal
          | apply State.modThread_legal | apply Keep.foldl | apply Keep.snd)
      | split | (unfold State.Legal; dsimp only; with_reducible apply Keep.fold)
      | (with_reducible apply Keep.of_pair; with_reducible assumption))

theorem State.upsetHoods_legal : ∀ (s : State) (pa n : Nat), s.Legal → (s.upsetHoods pa n).Legal := by
  intros
  unfold State.upsetHoods
  repeat' (first | with_reducible assumption | (with_reducible first | intro _ | apply State.upsetTeam_legal | apply Keep.foldl))

end Sys2Proof.Machine
end

