-- ==== Sys2Proof/Laws/KeepMem.lean ====
section
/-! SUPPORT. The launch engine, the load-store engine, coherence, the copy engine and the rows of the sequencer keep a state legal. -/

namespace Sys2Proof.Machine

theorem runWait_legal : ∀ (h : Hdr) (len : Nat) (vs : List VOp) (a : Option VReg) (waits : Nat → Group → Team → List (Nat × Nat ×
    Thread) → State → Option State) (f : Nat → Group → Team → List (Nat × Nat × Thread) → State → State) (s : State), (∀ (a : Nat) (a_1 :
    Group) (a_2 : Team) (a_3 : List (Nat × Nat × Thread)) (a_4 : State), a_4.Legal → Keep.Opt (waits a a_1 a_2 a_3 a_4)) → (∀ (a : Nat) (a_1
    : Group) (a_2 : Team) (a_3 : List (Nat × Nat × Thread)) (a_4 : State), a_4.Legal → (f a a_1 a_2 a_3 a_4).Legal) → s.Legal → Keep.Out
    (runWait h len vs a waits f s) := by
  intro h len vs a w f s hw hf hs
  unfold runWait
  apply runHeld_legal
  intro c slot g tm live u hu
  split
  rename_i e
  exact State.stallGroup_legal _ _ _ _ (hw _ _ _ _ _ hu _ e)
  apply State.settle_legal
  apply hf
  apply State.issueAll_legal
  exact hu
  exact hs

theorem State.eachLane_legal : ∀ (s : State) (team : Nat) (live : List (Nat × Nat × Thread)) (f : Nat → Thread → State → State), s.Legal
    → (∀ (a : Nat) (a_1 : Thread) (a_2 : State), a_2.Legal → (f a a_1 a_2).Legal) → (s.eachLane team live f).Legal := by
  intros
  unfold State.eachLane
  repeat' (first
      | with_reducible assumption | (with_reducible first | intro _ | apply Keep.foldl) | split
      | (with_reducible apply_assumption -exfalso -symm))

theorem State.qres_legal : ∀ (s : State) (team tid : Nat) (tm : Team) (t : Thread) (h : Hdr) (d len q : Nat), s.Legal → (s.qres team tid
    tm t h d len q).Legal := by
  intros
  unfold State.qres
  repeat' (first
      | with_reducible assumption
      | (with_reducible first
          | apply State.takeTrap_legal | apply State.answer_legal | apply State.touch_legal | apply State.modThread_legal
          | apply State.modQueue_legal)
      | split)

theorem execQres_legal : ∀ (h : Hdr) (d : VReg) (b : SrcB) (s : State), s.Legal → Keep.Out (execQres h d b s) := by
  intros
  unfold execQres
  repeat' (first | with_reducible assumption | (with_reducible first | intro _ | apply runLanes_legal | apply State.qres_legal))

theorem execQfree_legal : ∀ (h : Hdr) (s : State), s.Legal → Keep.Out (execQfree h s) := by
  intros
  unfold execQfree
  repeat' (first | with_reducible assumption | (with_reducible first | intro _ | apply runLanes_legal | apply State.freeRsv_legal))

theorem State.launchEnter_legal : ∀ (s : State) (team tid win q : Nat) (p : Post) (d : Nat) (took : Bool), s.Legal → (s.launchEnter team
    tid win q p d took).Legal := by
  intros
  unfold State.launchEnter
  repeat' (first
      | with_reducible assumption
      | (with_reducible first
          | apply State.modQueue_legal | apply State.park_legal | apply State.modThread_legal)
      | split)

theorem State.launchPost_legal : ∀ (s : State) (c team tid : Nat) (tm : Team) (win d q : Nat) (b : List Byte) (sys res : Bool), s.Legal
    → (s.launchPost c team tid tm win d q b sys res).Legal := by
  intros
  unfold State.launchPost
  repeat' (first
      | with_reducible assumption
      | (with_reducible first
          | apply State.touch_legal | apply State.release_legal | apply State.tells_legal | apply State.launchEnter_legal
          | apply State.modQueue_legal | apply State.modThread_legal)
      | split)

theorem State.launchCause_legal : ∀ (s : State) (q : Nat) (tm : Team) (t : Thread) (b : List Byte) (res : Bool), s.Legal → Keep.Snd
    (s.launchCause q tm t b res) := by
  intros
  unfold State.launchCause
  repeat' (first | with_reducible assumption | split | (with_reducible apply_assumption -exfalso -symm))

theorem State.launchHere_legal : ∀ (s : State) (c team tid : Nat) (tm : Team) (t : Thread) (h : Hdr) (sys res : Bool) (d len q : Nat)
    (va : DWord) (x : Xlat) (gpa : Nat), s.Legal → (s.launchHere c team tid tm t h sys res d len q va x gpa).Legal := by
  intros
  unfold State.launchHere
  repeat' (first
      | with_reducible assumption
      | (with_reducible first
          | apply State.lineLoad_legal | apply State.readGlobal_legal | apply State.consume_legal | apply State.launchCause_legal
          | apply State.takeTrap_legal | apply State.takeId_legal | apply State.openWin_legal | apply State.crossGate_legal
          | apply State.closeRegion_legal | apply State.launchPost_legal | apply Keep.snd)
      | split | (unfold State.Legal; dsimp only; with_reducible apply Keep.fold)
      | (with_reducible apply Keep.of_pair; with_reducible assumption))

theorem State.launchAway_legal : ∀ (s : State) (c team tid : Nat) (tm : Team) (t : Thread) (h : Hdr) (sys res : Bool) (d len q gpa :
    Nat), s.Legal → (s.launchAway c team tid tm t h sys res d len q gpa).Legal := by
  intros
  unfold State.launchAway
  repeat' (first
      | with_reducible assumption
      | (with_reducible first
          | apply State.takeId_legal | apply State.drainTo_legal | apply State.crossGate_legal | apply State.sendReq_legal
          | apply State.closeRegion_legal | apply State.openWin_legal | apply Keep.snd))

theorem State.launchGot_legal : ∀ (s : State) (team tid win d q : Nat) (sys res : Bool) (b : List Byte), s.Legal → (s.launchGot team tid
    win d q sys res b).Legal := by
  intros
  unfold State.launchGot
  repeat' (first
      | with_reducible assumption
      | (with_reducible first
          | apply State.modThread_legal | apply State.launchCause_legal | apply State.launchFault_legal | apply State.launchPost_legal)
      | split | (unfold State.Legal; dsimp only; with_reducible apply Keep.fold)
      | (with_reducible apply Keep.of_pair; with_reducible assumption))

theorem State.launchLane_legal : ∀ (s : State) (c team tid : Nat) (tm : Team) (t : Thread) (h : Hdr) (sys res : Bool) (d len q : Nat)
    (va : DWord), s.Legal → (s.launchLane c team tid tm t h sys res d len q va).Legal := by
  intros
  unfold State.launchLane
  repeat' (first
      | with_reducible assumption
      | (with_reducible first
          | apply State.takeTrap_legal | apply State.access_legal | apply State.pageFault_legal | apply State.consume_legal
          | apply State.launchHere_legal | apply State.launchAway_legal)
      | split | (with_reducible apply Keep.of_pair; with_reducible assumption))

theorem execLaunch_legal : ∀ (h : Hdr) (sys res : Bool) (d a : VReg) (b : SrcB) (s : State), s.Legal → Keep.Out (execLaunch h sys res d
    a b s) := by
  intros
  unfold execLaunch
  repeat' (first
      | with_reducible assumption
      | (with_reducible first
          | intro _ | apply runWait_legal | apply State.relWaits_legal | apply State.eachLane_legal | apply State.launchLane_legal))

theorem State.recordCopy_legal : ∀ (s : State) (n : Nat), s.Legal → (s.recordCopy n).Legal := by
  intros
  unfold State.recordCopy
  repeat' (first
      | with_reducible assumption
      | (with_reducible first
          | apply State.takeId_legal | apply State.pokeN_legal | apply State.setQueue_legal | apply State.touch_legal
          | apply State.waitDone_legal)
      | split | (unfold State.Legal; dsimp only; with_reducible apply Keep.fold)
      | (with_reducible apply Keep.of_pair; with_reducible assumption))

theorem execLaunchRecordCopy_legal : ∀ (s : State), s.Legal → Keep.Out (execLaunchRecordCopy s) := by
  intros
  unfold execLaunchRecordCopy
  repeat' (first | with_reducible assumption | (with_reducible first | apply State.recordCopy_legal | apply Keep.next))

theorem State.ringRead_legal : ∀ (s : State) (lid : Nat), s.Legal → (s.ringRead lid).Legal := by
  intros
  unfold State.ringRead
  repeat' (first
      | with_reducible assumption | (with_reducible first | apply State.changed_legal | apply State.modLaunch_legal | apply Keep.snd)
      | split)

theorem execLaunchStart_legal : ∀ (s : State), s.Legal → Keep.Out (execLaunchStart s) := by
  intros
  unfold execLaunchStart
  repeat' (first
      | with_reducible assumption | (with_reducible first | apply State.modLaunch_legal | apply State.ringRead_legal | apply Keep.next)
      | split | (unfold State.Legal; dsimp only; with_reducible apply Keep.fold))

theorem State.startSlice_legal : ∀ (s : State) (ctx : Nat) (cores : List Nat), s.Legal → (s.startSlice ctx cores).Legal := by
  intros
  unfold State.startSlice
  repeat' (first | with_reducible assumption | (with_reducible first | apply State.modCtx_legal))

theorem State.putTeam_legal : ∀ (s : State) (lid n : Nat) (p : Nat × Nat × Nat), s.Legal → (s.putTeam lid n p).Legal := by
  intros
  unfold State.putTeam
  repeat' (first
      | with_reducible assumption
      | (with_reducible first
          | apply State.touch_legal | apply State.startSlice_legal | apply State.createTeam_legal | apply State.loadTeam_legal
          | apply State.modLaunch_legal)
      | split | dsimp only)

theorem State.putTeams_legal : ∀ (s : State) (lid : Nat) (ns : List Nat) (ps : List (Nat × Nat × Nat)), s.Legal → (s.putTeams lid ns
    ps).Legal := by
  intros
  unfold State.putTeams
  repeat' (first | with_reducible assumption | (with_reducible first | intro _ | apply State.putTeam_legal | apply Keep.foldl))

theorem State.grantBars_legal : ∀ (s : State) (lid j inst : Nat), s.Legal → (s.grantBars lid j inst).Legal := by
  intros
  unfold State.grantBars
  repeat' (first | with_reducible assumption | (with_reducible first | apply State.modLaunch_legal))

theorem State.placeNext_legal : ∀ (s : State) (lid : Nat) (l : Launch), s.Legal → (s.placeNext lid l).Legal := by
  intros
  unfold State.placeNext
  repeat' (first | with_reducible assumption | (with_reducible first | apply State.putTeam_legal) | split)

theorem State.placeCohort_legal : ∀ (s : State) (lid : Nat) (l : Launch), s.Legal → (s.placeCohort lid l).Legal := by
  intros
  unfold State.placeCohort
  repeat' (first | with_reducible assumption | (with_reducible first | apply State.putTeams_legal | apply State.grantBars_legal) | split)

theorem State.renewClaim_legal : ∀ (s : State) (lid : Nat), s.Legal → (s.renewClaim lid).Legal := by
  intros
  unfold State.renewClaim
  repeat' (first | with_reducible assumption | (with_reducible first | apply State.modLaunch_legal) | split)

theorem State.placeResident_legal : ∀ (s : State) (lid : Nat), s.Legal → (s.placeResident lid).Legal := by
  intros
  unfold State.placeResident
  repeat' (first
      | with_reducible assumption
      | (with_reducible first
          | intro _ | apply State.renewClaim_legal | apply State.grantBars_legal | apply State.putTeams_legal | apply Keep.foldl)
      | split | dsimp only)

theorem State.moveCohort_legal : ∀ (s : State) (lid j inst : Nat) (again : Bool), s.Legal → (s.moveCohort lid j inst again).Legal := by
  intros
  unfold State.moveCohort
  repeat' (first | with_reducible assumption | (with_reducible first | apply State.grantBars_legal | apply State.modLaunch_legal) | split)

theorem State.replaceCohort_legal : ∀ (s : State) (lid : Nat) (l : Launch) (tm : Team) (unit : List Nat), s.Legal → (s.replaceCohort lid
    l tm unit).Legal := by
  intros
  unfold State.replaceCohort
  repeat' (first
      | with_reducible assumption | (with_reducible first | apply State.putTeams_legal | apply State.moveCohort_legal) | split
      | dsimp only)

theorem State.placeAgain_legal : ∀ (s : State) (team : Nat), s.Legal → (s.placeAgain team).Legal := by
  intros
  unfold State.placeAgain
  repeat' (first
      | with_reducible assumption
      | (with_reducible first
          | apply State.placeResident_legal | apply State.putTeam_legal | apply State.replaceCohort_legal | apply State.putTeams_legal)
      | split | dsimp only)

theorem execTeamPlacement_legal : ∀ (s : State), s.Legal → Keep.Out (execTeamPlacement s) := by
  intros
  unfold execTeamPlacement
  repeat' (first
      | with_reducible assumption
      | (with_reducible first
          | apply State.placeAgain_legal | apply State.ringRead_legal | apply State.placeResident_legal | apply State.placeNext_legal
          | apply State.placeCohort_legal | apply Keep.next)
      | split | dsimp only)

theorem State.retireTeam_legal : ∀ (s : State) (team : Nat), s.Legal → (s.retireTeam team).Legal := by
  intros
  unfold State.retireTeam
  repeat' (first
      | with_reducible assumption
      | (with_reducible first
          | apply State.leaveCohort_legal | apply State.closeWindow_legal | apply State.writeHood_legal | apply State.writeLines_legal
          | apply State.dropTeam_legal | apply State.modLaunch_legal | apply State.endLaunch_legal | apply Keep.snd)
      | split | (unfold State.Legal; dsimp only; with_reducible apply Keep.fold))

theorem execTeamRetire_legal : ∀ (s : State), s.Legal → Keep.Out (execTeamRetire s) := by
  intros
  unfold execTeamRetire
  repeat' (first | with_reducible assumption | (with_reducible first | apply State.retireTeam_legal | apply Keep.next))

theorem State.doneAt_legal : ∀ (s : State) (ctx va : Nat), s.Legal → Keep.Snd (s.doneAt ctx va) := by
  intros
  unfold State.doneAt
  repeat' (first
      | with_reducible assumption | (with_reducible first | apply State.access_legal) | split
      | (with_reducible apply Keep.of_pair; with_reducible assumption) | (with_reducible apply Keep.pair))

theorem State.putDone_legal : ∀ (s : State) (lid ctx : Nat) (at' : Nat × Xlat) (b : List Byte), s.Legal → (s.putDone lid ctx at'
    b).Legal := by
  intros
  unfold State.putDone
  repeat' (first
      | with_reducible assumption
      | (with_reducible first
          | apply State.lineTaken_legal | apply State.pokeN_legal | apply State.wakeWatch_legal | apply State.sendReq_legal
          | apply Keep.snd)
      | split | (unfold State.Legal; dsimp only; with_reducible apply Keep.fold))

theorem State.writeDone_legal : ∀ (s : State) (l : Launch) (lid status : Nat), s.Legal → (s.writeDone l lid status).Legal := by
  intros
  unfold State.writeDone
  repeat' (first
      | with_reducible assumption | (with_reducible first | apply State.doneAt_legal | apply State.putDone_legal) | split
      | (with_reducible apply Keep.of_pair; with_reducible assumption))

theorem State.freeLaunch_legal : ∀ (s : State) (lid : Nat), s.Legal → (s.freeLaunch lid).Legal := by
  intros
  unfold State.freeLaunch
  repeat' (first
      | with_reducible assumption | (with_reducible first | apply State.freeSlot_legal | apply State.modQueue_legal) | split
      | (unfold State.Legal; dsimp only; with_reducible apply Keep.fold))

theorem State.retireLaunch_legal : ∀ (s : State) (lid : Nat), s.Legal → (s.retireLaunch lid).Legal := by
  intros
  unfold State.retireLaunch
  repeat' (first
      | with_reducible assumption
      | (with_reducible first
          | intro _ | apply State.writeDone_legal | apply State.release_legal | apply State.freeLaunch_legal
          | apply State.modLaunch_legal | apply Keep.foldl)
      | split)

theorem execLaunchRetire_legal : ∀ (s : State), s.Legal → Keep.Out (execLaunchRetire s) := by
  intros
  unfold execLaunchRetire
  repeat' (first
      | with_reducible assumption
      | (with_reducible first
          | apply State.retireLaunch_legal | apply State.ringRead_legal | apply Keep.next))

theorem State.stopIssue_legal : ∀ (s : State) (ctx c : Nat), s.Legal → (s.stopIssue ctx c).Legal := by
  intros
  unfold State.stopIssue
  repeat' (first | with_reducible assumption | (with_reducible first | apply State.modCtx_legal))

theorem execTimeSliceEnd_legal : ∀ (s : State), s.Legal → Keep.Out (execTimeSliceEnd s) := by
  intros
  unfold execTimeSliceEnd
  repeat' (first | with_reducible assumption | (with_reducible first | apply State.stopIssue_legal | apply Keep.next) | split)

theorem State.forgetCame_legal : ∀ (s : State), s.Legal → s.forgetCame.Legal := by
  intros
  unfold State.forgetCame
  repeat' (first | with_reducible assumption | (unfold State.Legal; dsimp only; with_reducible apply Keep.fold))

theorem State.noteCame_legal : ∀ (s : State) (ctx : Nat), s.Legal → (s.noteCame ctx).Legal := by
  intros
  unfold State.noteCame
  repeat' (first | with_reducible assumption | (with_reducible first | apply State.modCtx_legal))

theorem State.noneResident_legal : ∀ (s : State) (ctx : Nat), s.Legal → (s.noneResident ctx).Legal := by
  intros
  unfold State.noneResident
  repeat' (first | with_reducible assumption | (with_reducible first | apply State.modCtx_legal) | split)

theorem State.switchOut_legal : ∀ (s : State) (ctx c : Nat), s.Legal → (s.switchOut ctx c).Legal := by
  intros
  unfold State.switchOut
  repeat' (first
      | with_reducible assumption
      | (with_reducible first
          | intro _ | apply State.readLists_legal | apply State.stopIssue_legal | apply State.matDrain_legal
          | apply State.noneResident_legal | apply State.saveTeam_legal | apply Keep.foldl)
      | split | (unfold State.Legal; dsimp only; with_reducible apply Keep.fold))

theorem State.drainTeams_legal : ∀ (s : State) (hs : List Nat), s.Legal → (s.drainTeams hs).Legal := by
  intros
  unfold State.drainTeams
  repeat' (first
      | with_reducible assumption
      | (with_reducible first
          | intro _ | apply State.readLists_legal | apply State.matDrain_legal | apply State.saveTeam_legal
          | apply State.placeAgain_legal | apply Keep.foldl)
      | split | (unfold State.Legal; dsimp only; with_reducible apply Keep.fold))

theorem State.drainCore_legal : ∀ (s : State) (c : Nat), s.Legal → (s.drainCore c).Legal := by
  intros
  unfold State.drainCore
  repeat' (first
      | with_reducible assumption
      | (with_reducible first
          | apply State.drainTeams_legal | apply State.coreEvent_legal | apply State.modCore_legal)
      | split | dsimp only)

theorem execSwitchOut_legal : ∀ (s : State), s.Legal → Keep.Out (execSwitchOut s) := by
  intros
  unfold execSwitchOut
  repeat' (first
      | with_reducible assumption | (with_reducible first | apply State.drainCore_legal | apply State.switchOut_legal | apply Keep.next)
      | split)

theorem State.switchIn_legal : ∀ (s : State) (ctx c : Nat), s.Legal → (s.switchIn ctx c).Legal := by
  intros
  unfold State.switchIn
  repeat' (first
      | with_reducible assumption
      | (with_reducible first
          | intro _ | apply State.modCtx_legal | apply State.noteCame_legal | apply State.placeAgain_legal | apply Keep.foldl)
      | split)

theorem execSwitchIn_legal : ∀ (s : State), s.Legal → Keep.Out (execSwitchIn s) := by
  intros
  unfold execSwitchIn
  repeat' (first | with_reducible assumption | (with_reducible first | apply State.switchIn_legal | apply Keep.next) | split)

theorem State.createCtx_legal : ∀ (s : State) (c : Nat), s.Legal → (s.createCtx c).Legal := by
  intros
  unfold State.createCtx
  repeat' (first
      | with_reducible assumption | (with_reducible first | apply State.modCtx_legal) | split
      | (unfold State.Legal; dsimp only; with_reducible apply Keep.fold))

theorem State.destroyCtx_legal : ∀ (s : State) (c : Nat), s.Legal → (s.destroyCtx c).Legal := by
  intros
  unfold State.destroyCtx
  repeat' (first
      | with_reducible assumption
      | (with_reducible first
          | intro _ | apply State.stopContext_legal | apply State.retireLaunch_legal | apply State.modCtx_legal
          | apply State.freeSlot_legal | apply State.modQueue_legal | apply Keep.foldl)
      | split | (unfold State.Legal; dsimp only; with_reducible apply Keep.fold))

theorem State.ctxd0Put_legal : ∀ (s : State) (c v : Nat), s.Legal → (s.ctxd0Put c v).Legal := by
  intros
  unfold State.ctxd0Put
  repeat' (first
      | with_reducible assumption
      | (with_reducible first
          | apply State.modCtx_legal | apply State.createCtx_legal | apply State.destroyCtx_legal)
      | split)

theorem State.ctxCommand_legal : ∀ (s : State) (cmd : Nat), s.Legal → (s.ctxCommand cmd).Legal := by
  intros
  unfold State.ctxCommand
  repeat' (first
      | with_reducible assumption | (with_reducible first | intro _ | apply State.windowWrite_legal | apply State.ctxd0Put_legal)
      | split | (unfold State.Legal; dsimp only; with_reducible apply Keep.fold))

theorem execContextCreate_legal : ∀ (s : State), s.Legal → Keep.Out (execContextCreate s) := by
  intros
  unfold execContextCreate
  repeat' (first | with_reducible assumption | (with_reducible first | apply State.ctxCommand_legal | apply Keep.next))

theorem execContextDestroy_legal : ∀ (s : State), s.Legal → Keep.Out (execContextDestroy s) := by
  intros
  unfold execContextDestroy
  repeat' (first | with_reducible assumption | (with_reducible first | apply State.ctxCommand_legal | apply Keep.next))

theorem State.eqctlPut_legal : ∀ (s : State) (n v : Nat), s.Legal → (s.eqctlPut n v).Legal := by
  intros
  unfold State.eqctlPut
  repeat' (first
      | with_reducible assumption | (with_reducible first | apply State.setQueue_legal | apply State.disableQueue_legal) | split
      | dsimp only)

theorem State.eqbasePut_legal : ∀ (s : State) (n v : Nat), s.Legal → (s.eqbasePut n v).Legal := by
  intros
  unfold State.eqbasePut
  repeat' (first | with_reducible assumption | (with_reducible first | apply State.modQueue_legal))

theorem State.eqstatPut_legal : ∀ (s : State) (n v : Nat), s.Legal → (s.eqstatPut n v).Legal := by
  intros
  unfold State.eqstatPut
  repeat' (first | with_reducible assumption | (with_reducible first | apply State.modQueue_legal))

theorem State.eqPut_legal : ∀ (s : State) (idx n v : Nat), s.Legal → (s.eqPut idx n v).Legal := by
  intros
  unfold State.eqPut
  repeat' (first
      | with_reducible assumption
      | (with_reducible first
          | apply State.eqctlPut_legal | apply State.eqbasePut_legal | apply State.eqstatPut_legal)
      | split)

theorem execEqctlWrite_legal : ∀ (s : State), s.Legal → Keep.Out (execEqctlWrite s) := by
  intros
  unfold execEqctlWrite
  repeat' (first
      | with_reducible assumption
      | (with_reducible first
          | intro _ | apply State.windowWrite_legal | apply State.eqPut_legal | apply Keep.next)
      | split)

theorem State.hostReply_legal : ∀ (s : State) (p v : Nat), s.Legal → (s.hostReply p v).Legal := by
  intros
  unfold State.hostReply
  repeat' (first | with_reducible assumption | (with_reducible first | apply State.modHPort_legal))

theorem State.hostBarred_legal : ∀ (s : State) (p n : Nat), s.Legal → (s.hostBarred p n).Legal := by
  intros
  unfold State.hostBarred
  repeat' (first | with_reducible assumption | (with_reducible first | apply State.modQueue_legal))

theorem execHresRead_legal : ∀ (s : State), s.Legal → Keep.Out (execHresRead s) := by
  intros
  unfold execHresRead
  repeat' (first
      | with_reducible assumption
      | (with_reducible first
          | apply State.hostReply_legal | apply State.hostBarred_legal | apply State.setQueue_legal | apply Keep.next)
      | split)

theorem execHostPost_legal : ∀ (s : State), s.Legal → Keep.Out (execHostPost s) := by
  intros
  unfold execHostPost
  repeat' (first
      | with_reducible assumption
      | (with_reducible first
          | apply State.modHPort_legal | apply State.hostBarred_legal | apply State.modQueue_legal | apply State.setQueue_legal
          | apply Keep.next)
      | split | dsimp only)

theorem State.checkVa_legal : ∀ (s : State) (c team tid ctx : Nat) (write posted : Bool) (pci : Pc) (len : Nat) (va : DWord) (mis :
    Bool), s.Legal → Keep.Snd (s.checkVa c team tid ctx write posted pci len va mis) := by
  intros
  unfold State.checkVa
  repeat' (first
      | with_reducible assumption
      | (with_reducible first
          | apply State.takeTrap_legal | apply State.access_legal | apply State.pageFault_legal | apply State.consume_legal)
      | split | (with_reducible apply Keep.of_pair; with_reducible assumption) | (with_reducible apply Keep.pair))

theorem State.checkLanes_legal : ∀ (s : State) (c team : Nat) (tm : Team) (write posted : Bool) (len n unit : Nat) (ea : Thread → DWord
    × List (Nat × Word)) (live : List (Nat × Nat × Thread)), s.Legal → Keep.Snd (s.checkLanes c team tm write posted len n unit ea live) :=
    by
  intros
  unfold State.checkLanes
  repeat' (first
      | with_reducible assumption | (with_reducible first | intro _ | apply State.checkVa_legal | apply Keep.foldl2 | apply Keep.snd)
      | split | (with_reducible apply Keep.of_pair; with_reducible assumption) | (with_reducible apply Keep.pair))

theorem State.fillLines_legal : ∀ (s : State) (c ctx : Nat) (l : List Acc), s.Legal → (s.fillLines c ctx l).Legal := by
  intros
  unfold State.fillLines
  repeat' (first | with_reducible assumption | (with_reducible first | intro _ | apply State.lineLoad_legal | apply Keep.foldl) | split)

theorem State.loadLane_legal : ∀ (s : State) (c team ctx : Nat) (m : MemIns) (win n lanes : Nat) (a : Acc), s.Legal → (s.loadLane c team
    ctx m win n lanes a).Legal := by
  intros
  unfold State.loadLane
  repeat' (first
      | with_reducible assumption
      | (with_reducible first
          | apply State.readGlobal_legal | apply State.consume_legal | apply State.modThread_legal | apply State.acqBy_legal
          | apply State.openWin_legal)
      | split | (with_reducible apply Keep.of_pair; with_reducible assumption))

theorem State.loadRemote_legal : ∀ (s : State) (c team ctx : Nat) (m : MemIns) (win n : Nat) (l : List Acc), s.Legal → (s.loadRemote c
    team ctx m win n l).Legal := by
  intros
  unfold State.loadRemote
  repeat' (first
      | with_reducible assumption
      | (with_reducible first
          | intro _ | apply State.drainTo_legal | apply State.crossGate_legal | apply State.sendReq_legal
          | apply State.closeRegion_legal | apply State.openWin_legal | apply Keep.foldl | apply Keep.snd)
      | split)

theorem State.ldGlobal_legal : ∀ (s : State) (c team : Nat) (tm : Team) (m : MemIns) (ac : AccCode) (live : List (Nat × Nat × Thread)),
    s.Legal → (s.ldGlobal c team tm m ac live).Legal := by
  intros
  unfold State.ldGlobal
  repeat' (first
      | with_reducible assumption
      | (with_reducible first
          | intro _ | apply State.checkLanes_legal | apply State.takeId_legal | apply State.loadLane_legal | apply State.fillLines_legal
          | apply State.loadRemote_legal | apply Keep.foldl | apply Keep.snd))

theorem State.prvAddr_legal : ∀ (s : State) (tm : Team) (tid : Nat) (write : Bool) (x : Word), s.Legal → Keep.Snd (s.prvAddr tm tid
    write x) := by
  intros
  unfold State.prvAddr
  repeat' (first
      | with_reducible assumption | (with_reducible first | apply State.engineVa_legal | apply State.endLaunch_legal) | split
      | (with_reducible apply Keep.of_pair; with_reducible assumption) | (with_reducible apply Keep.pair))

theorem State.prvBytes_legal : ∀ (s : State) (tm : Team) (va pa n : Nat), s.Legal → Keep.Snd (s.prvBytes tm va pa n) := by
  intros
  unfold State.prvBytes
  repeat' (first
      | with_reducible assumption | (with_reducible first | apply State.freeBytes_legal) | split
      | (with_reducible apply Keep.of_pair; with_reducible assumption) | (with_reducible apply Keep.pair))

theorem State.ldPrv_legal : ∀ (s : State) (team tid : Nat) (tm : Team) (t : Thread) (m : MemIns) (win n : Nat), s.Legal → (s.ldPrv team
    tid tm t m win n).Legal := by
  intros
  unfold State.ldPrv
  repeat' (first
      | with_reducible assumption
      | (with_reducible first
          | apply State.takeTrap_legal | apply State.prvAddr_legal | apply State.consume_legal | apply State.prvBytes_legal
          | apply State.openWin_legal | apply State.modThread_legal | apply Keep.snd)
      | split | (with_reducible apply Keep.of_pair; with_reducible assumption))

theorem State.stPrv_legal : ∀ (s : State) (c team : Nat) (tm : Team) (m : MemIns) (n tid : Nat) (t : Thread), s.Legal → Keep.Snd
    (s.stPrv c team tm m n tid t) := by
  intros
  unfold State.stPrv
  repeat' (first
      | with_reducible assumption
      | (with_reducible first
          | apply State.takeTrap_legal | apply State.prvAddr_legal | apply State.modThread_legal)
      | split | (with_reducible apply Keep.of_pair; with_reducible assumption) | (with_reducible apply Keep.pair))

theorem State.prvLine_legal : ∀ (s : State) (tm : Team) (rs : List StoreReq), s.Legal → (s.prvLine tm rs).Legal := by
  intros
  unfold State.prvLine
  repeat' (first
      | with_reducible assumption
      | (with_reducible first
          | intro _ | apply State.storeFault_legal | apply State.mendHood_legal | apply State.pokeN_legal
          | apply State.clearPoison_legal | apply Keep.foldl)
      | split | (unfold State.Legal; dsimp only; with_reducible apply Keep.fold))

theorem State.stPrvs_legal : ∀ (s : State) (c team : Nat) (tm : Team) (m : MemIns) (n : Nat) (live : List (Nat × Nat × Thread)), s.Legal
    → (s.stPrvs c team tm m n live).Legal := by
  intros
  unfold State.stPrvs
  repeat' (first
      | with_reducible assumption
      | (with_reducible first
          | intro _ | apply State.stPrv_legal | apply State.prvLine_legal | apply Keep.foldl | apply Keep.foldl2 | apply Keep.snd)
      | split | (with_reducible apply Keep.of_pair; with_reducible assumption) | (with_reducible apply Keep.pair))

theorem execLd_legal : ∀ (m : MemIns) (ac : AccCode) (s : State), s.Legal → Keep.Out (execLd m ac s) := by
  intros
  unfold execLd
  repeat' (first
      | with_reducible assumption
      | (with_reducible first
          | intro _ | apply runLive_legal | apply State.takeId_legal | apply State.eachLane_legal | apply State.ldPrv_legal
          | apply State.ldGlobal_legal | apply Keep.snd)
      | split)

theorem storeWaits_legal : ∀ (m : MemIns) (n unit c : Nat) (g : Group) (tm : Team) (live : List (Nat × Nat × Thread)) (s : State),
    s.Legal → Keep.Opt (storeWaits m n unit c g tm live s) := by
  intros
  unfold storeWaits
  repeat' (first | with_reducible assumption | (with_reducible first | apply State.relWaits_legal | apply Keep.some) | split)

theorem State.logStore_legal : ∀ (s : State) (team : Nat) (r : StoreReq), s.Legal → Keep.Snd (s.logStore team r) := by
  intros
  unfold State.logStore
  repeat' (first
      | with_reducible assumption
      | (with_reducible first
          | apply State.modTeam_legal | apply State.closeWindow_legal | apply State.eventRec_legal)
      | split | (with_reducible apply Keep.pair))

theorem State.stLane_legal : ∀ (s : State) (c team ctx : Nat) (m : MemIns) (n : Nat) (ids : Nat → Nat) (red : Option RedOp) (a : Acc),
    s.Legal → (s.stLane c team ctx m n ids red a).Legal := by
  intros
  unfold State.stLane
  repeat' (first
      | with_reducible assumption
      | (with_reducible first
          | apply State.modThread_legal | apply State.logStore_legal | apply State.crossGate_legal | apply State.modCore_legal
          | apply State.closeRegion_legal | apply Keep.snd)
      | split | (unfold State.Legal; dsimp only; with_reducible apply Keep.fold))

theorem State.stGlobal_legal : ∀ (s : State) (c team : Nat) (tm : Team) (m : MemIns) (n unit : Nat) (red : Option RedOp) (live : List
    (Nat × Nat × Thread)), s.Legal → (s.stGlobal c team tm m n unit red live).Legal := by
  intros
  unfold State.stGlobal
  repeat' (first
      | with_reducible assumption
      | (with_reducible first
          | intro _ | apply State.checkLanes_legal | apply State.relBy_legal | apply State.modCore_legal | apply State.stLane_legal
          | apply Keep.foldl)
      | split | (unfold State.Legal; dsimp only; with_reducible apply Keep.fold)
      | (with_reducible apply Keep.of_pair; with_reducible assumption))

theorem execSt_legal : ∀ (m : MemIns) (ac : AccCode) (s : State), s.Legal → Keep.Out (execSt m ac s) := by
  intros
  unfold execSt
  repeat' (first
      | with_reducible assumption
      | (with_reducible first
          | intro _ | apply runWait_legal | apply storeWaits_legal | apply State.stPrvs_legal | apply State.stGlobal_legal
          | apply Keep.some | apply Keep.none)
      | split)

theorem State.ldsLane_legal : ∀ (s : State) (c team tid : Nat) (tm : Team) (t : Thread) (m : MemIns) (win : Nat) (sc : SpCode), s.Legal
    → (s.ldsLane c team tid tm t m win sc).Legal := by
  intros
  unfold State.ldsLane
  repeat' (first
      | with_reducible assumption
      | (with_reducible first
          | apply State.takeTrap_legal | apply State.consume_legal | apply State.acqBy_legal | apply State.openWin_legal
          | apply State.modThread_legal)
      | split)

theorem execLds_legal : ∀ (m : MemIns) (sc : SpCode) (s : State), s.Legal → Keep.Out (execLds m sc s) := by
  intros
  unfold execLds
  repeat' (first
      | with_reducible assumption
      | (with_reducible first
          | intro _ | apply runLive_legal | apply State.takeId_legal | apply State.eachLane_legal | apply State.ldsLane_legal
          | apply Keep.snd))

theorem State.stsLane_legal : ∀ (s : State) (c team tid : Nat) (tm : Team) (t : Thread) (m : MemIns) (sc : SpCode), s.Legal → (s.stsLane
    c team tid tm t m sc).Legal := by
  intros
  unfold State.stsLane
  repeat' (first
      | with_reducible assumption
      | (with_reducible first
          | apply State.takeTrap_legal | apply State.modThread_legal | apply State.storeFault_legal | apply State.crossGate_legal
          | apply State.sPutBy_legal | apply State.closeRegion_legal)
      | split)

theorem execSts_legal : ∀ (m : MemIns) (sc : SpCode) (s : State), s.Legal → Keep.Out (execSts m sc s) := by
  intros
  unfold execSts
  repeat' (first
      | with_reducible assumption
      | (with_reducible first
          | intro _ | apply runWait_legal | apply State.relWaits_legal | apply State.relBy_legal | apply State.modTeam_legal
          | apply State.eachLane_legal | apply State.stsLane_legal | apply Keep.some)
      | split)

theorem execStoreAccepted_legal : ∀ (s : State), s.Legal → Keep.Out (execStoreAccepted s) := by
  intros
  unfold execStoreAccepted
  repeat' (first
      | with_reducible assumption | (with_reducible first | apply State.reqAsk_legal | apply State.acceptReq_legal | apply Keep.next)
      | split | (with_reducible apply Keep.of_pair; with_reducible assumption))

theorem execImpreciseStoreFault_legal : ∀ (s : State), s.Legal → Keep.Out (execImpreciseStoreFault s) := by
  intros
  unfold execImpreciseStoreFault
  repeat' (first
      | with_reducible assumption | (with_reducible first | apply State.storeFault_legal | apply State.modCore_legal | apply Keep.next)
      | split)

theorem execStoreLogFlush_legal : ∀ (s : State), s.Legal → Keep.Out (execStoreLogFlush s) := by
  intros
  unfold execStoreLogFlush
  repeat' (first | with_reducible assumption | (with_reducible first | apply State.closeWindow_legal | apply Keep.next) | split)

theorem State.rmwLocal_legal : ∀ (s : State) (c team ctx : Nat) (m : MemIns) (n win lanes : Nat) (a : Acc) (f : Rmw), s.Legal →
    (s.rmwLocal c team ctx m n win lanes a f).Legal := by
  intros
  unfold State.rmwLocal
  repeat' (first
      | with_reducible assumption
      | (with_reducible first
          | apply State.drainTo_legal | apply State.crossGate_legal | apply State.readPoint_legal | apply State.consume_legal
          | apply State.writeAtomic_legal | apply State.openWin_legal | apply State.modThread_legal | apply State.closeRegion_legal
          | apply State.acqBy_legal | apply Keep.snd)
      | split | (unfold State.Legal; dsimp only; with_reducible apply Keep.fold))

theorem State.rmwRemote_legal : ∀ (s : State) (c team ctx : Nat) (m : MemIns) (n win : Nat) (a : Acc) (kind : MsgKind) (op : Nat) (data
    : List Byte), s.Legal → (s.rmwRemote c team ctx m n win a kind op data).Legal := by
  intros
  unfold State.rmwRemote
  repeat' (first
      | with_reducible assumption
      | (with_reducible first
          | apply State.drainTo_legal | apply State.crossGate_legal | apply State.sendReq_legal | apply State.closeRegion_legal
          | apply State.openWin_legal | apply Keep.snd))

theorem State.rmwAll_legal : ∀ (s : State) (c team : Nat) (tm : Team) (m : MemIns) (n : Nat) (kind : MsgKind) (op : Nat) (f : Thread →
    Rmw) (data : Thread → List Byte) (live : List (Nat × Nat × Thread)), s.Legal → (s.rmwAll c team tm m n kind op f data live).Legal := by
  intros
  unfold State.rmwAll
  repeat' (first
      | with_reducible assumption
      | (with_reducible first
          | intro _ | apply State.checkLanes_legal | apply State.relBy_legal | apply State.takeId_legal | apply State.rmwLocal_legal
          | apply State.rmwRemote_legal | apply Keep.foldl | apply Keep.snd)
      | split | (with_reducible apply Keep.of_pair; with_reducible assumption))

theorem rmwWaits_legal : ∀ (m : MemIns) (n c : Nat) (g : Group) (tm : Team) (live : List (Nat × Nat × Thread)) (s : State), s.Legal →
    Keep.Opt (rmwWaits m n c g tm live s) := by
  intros
  unfold rmwWaits
  repeat' (first | with_reducible assumption | (with_reducible first | apply State.relWaits_legal))

theorem execAtom_legal : ∀ (m : MemIns) (op : AtomOp) (s : State), s.Legal → Keep.Out (execAtom m op s) := by
  intros
  unfold execAtom
  repeat' (first
      | with_reducible assumption
      | (with_reducible first
          | intro _ | apply runWait_legal | apply rmwWaits_legal | apply State.rmwAll_legal))

theorem execCas_legal : ∀ (m : MemIns) (w64 : Bool) (c : VReg) (s : State), s.Legal → Keep.Out (execCas m w64 c s) := by
  intros
  unfold execCas
  repeat' (first
      | with_reducible assumption
      | (with_reducible first
          | intro _ | apply runWait_legal | apply rmwWaits_legal | apply State.rmwAll_legal))

theorem execRed_legal : ∀ (m : MemIns) (op : RedOp) (s : State), s.Legal → Keep.Out (execRed m op s) := by
  intros
  unfold execRed
  repeat' (first
      | with_reducible assumption
      | (with_reducible first
          | intro _ | apply runWait_legal | apply storeWaits_legal | apply State.stGlobal_legal))

theorem State.fenceRel_legal : ∀ (s : State) (c team tid ctx : Nat) (h : Hdr) (pci : Pc) (scope : Scope), s.Legal → (s.fenceRel c team
    tid ctx h pci scope).Legal := by
  intros
  unfold State.fenceRel
  repeat' (first
      | with_reducible assumption
      | (with_reducible first
          | apply State.release_legal | apply State.tells_legal | apply State.takeId_legal | apply State.openWin_legal | apply Keep.snd)
      | split | (unfold State.Legal; dsimp only; with_reducible apply Keep.fold))

theorem State.fence_legal : ∀ (s : State) (c team tid ctx : Nat) (h : Hdr) (pci : Pc) (ord : FenceOrder) (scope : Scope), s.Legal →
    (s.fence c team tid ctx h pci ord scope).Legal := by
  intros
  unfold State.fence
  repeat' (first
      | with_reducible assumption
      | (with_reducible first
          | apply State.acquire_legal | apply State.learns_legal | apply State.fenceRel_legal)
      | split)

theorem execFence_legal : ∀ (h : Hdr) (ord : FenceOrder) (scope : Scope) (s : State), s.Legal → Keep.Out (execFence h ord scope s) := by
  intros
  unfold execFence
  repeat' (first | with_reducible assumption | (with_reducible first | intro _ | apply runLanes_legal | apply State.fence_legal))

theorem State.fenceDone_legal : ∀ (s : State) (team tid : Nat), s.Legal → (s.fenceDone team tid).Legal := by
  intros
  unfold State.fenceDone
  repeat' (first
      | with_reducible assumption
      | (with_reducible first
          | intro _ | apply State.modThread_legal | apply State.acquire_legal | apply State.learns_legal | apply Keep.foldl)
      | split)

theorem State.watchGot_legal : ∀ (s : State) (team tid : Nat) (w : Window) (v : Word) (line : Option Nat), s.Legal → (s.watchGot team
    tid w v line).Legal := by
  intros
  unfold State.watchGot
  repeat' (first
      | with_reducible assumption
      | (with_reducible first
          | apply State.waitDone_legal | apply State.acquire_legal | apply State.learns_legal | apply State.modThread_legal)
      | split)

theorem State.watchRead_legal : ∀ (s : State) (c team tid ctx : Nat) (va : DWord) (x : Xlat) (sc : Scope) (gpa : Nat), s.Legal →
    Keep.Snd (s.watchRead c team tid ctx va x sc gpa) := by
  intros
  unfold State.watchRead
  repeat' (first
      | with_reducible assumption | (with_reducible first | apply State.lineLoad_legal | apply State.readGlobal_legal | apply Keep.snd)
      | split | (with_reducible apply Keep.pair))

theorem State.watchSend_legal : ∀ (s : State) (team tid ctx win gpa : Nat), s.Legal → (s.watchSend team tid ctx win gpa).Legal := by
  intros
  unfold State.watchSend
  repeat' (first | with_reducible assumption | (with_reducible first | apply State.sendReq_legal | apply Keep.snd))

theorem State.waitw_legal : ∀ (s : State) (c team tid : Nat) (tm : Team) (t : Thread) (h : Hdr) (cond : WCond) (acq : Bool) (sc : Scope)
    (d : Nat) (va : DWord) (timeout : Word), s.Legal → (s.waitw c team tid tm t h cond acq sc d va timeout).Legal := by
  intros
  unfold State.waitw
  repeat' (first
      | with_reducible assumption
      | (with_reducible first
          | apply State.checkVa_legal | apply State.takeId_legal | apply State.openWait_legal | apply State.drainTo_legal
          | apply State.crossGate_legal | apply State.closeRegion_legal | apply State.watchSend_legal | apply State.watchRead_legal
          | apply State.consume_legal | apply State.answer_legal | apply State.acquire_legal | apply State.learns_legal)
      | split | (unfold State.Legal; dsimp only; with_reducible apply Keep.fold)
      | (with_reducible apply Keep.of_pair; with_reducible assumption))

theorem execWaitw_legal : ∀ (h : Hdr) (cond : WCond) (ord : Order) (scope : Scope) (d a b : VReg) (s : State), s.Legal → Keep.Out
    (execWaitw h cond ord scope d a b s) := by
  intros
  unfold execWaitw
  repeat' (first | with_reducible assumption | (with_reducible first | intro _ | apply runLanes_legal | apply State.waitw_legal))

theorem State.cancelWin_legal : ∀ (s : State) (team tid id : Nat), s.Legal → (s.cancelWin team tid id).Legal := by
  intros
  unfold State.cancelWin
  repeat' (first | with_reducible assumption | (with_reducible first | apply State.modThread_legal))

theorem State.watchAgain_legal : ∀ (s : State) (team tid : Nat), s.Legal → (s.watchAgain team tid).Legal := by
  intros
  unfold State.watchAgain
  repeat' (first
      | with_reducible assumption
      | (with_reducible first
          | apply State.access_legal | apply State.cancelWin_legal | apply State.pageFault_legal | apply State.takeTrap_legal
          | apply State.consume_legal | apply State.watchSend_legal | apply State.ctAsk_legal | apply State.watchRead_legal
          | apply State.watchGot_legal)
      | split | (unfold State.Legal; dsimp only; with_reducible apply Keep.fold)
      | (with_reducible apply Keep.of_pair; with_reducible assumption))

theorem execWatchWake_legal : ∀ (s : State), s.Legal → Keep.Out (execWatchWake s) := by
  intros
  unfold execWatchWake
  repeat' (first | with_reducible assumption | (with_reducible first | apply State.watchAgain_legal | apply Keep.next))

theorem execWatchPoll_legal : ∀ (s : State), s.Legal → Keep.Out (execWatchPoll s) := by
  intros
  unfold execWatchPoll
  repeat' (first | with_reducible assumption | (with_reducible first | apply State.watchAgain_legal | apply Keep.next) | split)

theorem State.dirLeave_legal : ∀ (s : State) (d : DirRef) (ln : Nat) (h : Holder), s.Legal → (s.dirLeave d ln h).Legal := by
  intros
  unfold State.dirLeave
  repeat' (first | with_reducible assumption | (with_reducible first | apply State.dirSet_legal) | split)

theorem State.leaveDirs_legal : ∀ (s : State) (c : CacheRef) (ln : Nat), s.Legal → (s.leaveDirs c ln).Legal := by
  intros
  unfold State.leaveDirs
  repeat' (first
      | with_reducible assumption | (with_reducible first | apply State.dirLeave_legal) | split
      | (unfold State.Legal; dsimp only; with_reducible apply Keep.fold))

theorem State.giveUp_legal : ∀ (s : State) (c : CacheRef) (ln : Nat), s.Legal → (s.giveUp c ln).Legal := by
  intros
  unfold State.giveUp
  repeat' (first | with_reducible assumption | (with_reducible first | apply State.leaveDirs_legal | apply State.evict_legal))

theorem State.snooped_legal : ∀ (s : State) (excl : Bool) (ln : Nat) (c : CacheRef), s.Legal → (s.snooped excl ln c).Legal := by
  intros
  unfold State.snooped
  repeat' (first
      | with_reducible assumption
      | (with_reducible first
          | apply State.leaveDirs_legal | apply State.toHome_legal | apply State.setCache_legal)
      | split)

theorem State.crownFetch_legal : ∀ (s : State) (ctx : Nat) (x : Xlat) (ln : Nat) (ex : Bool), s.Legal → (s.crownFetch ctx x ln ex).Legal
    := by
  intros
  unfold State.crownFetch
  repeat' (first
      | with_reducible assumption
      | (with_reducible first
          | apply State.dirServe_legal | apply State.setCache_legal | apply State.toHome_legal | apply Keep.foldl | apply Keep.snd)
      | split | (unfold State.Legal; dsimp only; with_reducible apply Keep.fold))

theorem State.pfExcl_legal : ∀ (s : State) (d : Nat) (x : Xlat) (ln : Nat) (ex : Bool), s.Legal → (s.pfExcl d x ln ex).Legal := by
  intros
  unfold State.pfExcl
  repeat' (first
      | with_reducible assumption | (with_reducible first | apply State.l2Obtain_legal | apply State.setCache_legal) | split
      | (with_reducible apply Keep.of_pair; with_reducible assumption))

theorem State.pfL2_legal : ∀ (s : State) (d ctx va : Nat) (x : Xlat) (ln : Nat) (ex : Bool), s.Legal → (s.pfL2 d ctx va x ln ex).Legal
    := by
  intros
  unfold State.pfL2
  repeat' (first
      | with_reducible assumption | (with_reducible first | apply State.pfExcl_legal | apply State.l2Fetch_legal | apply Keep.snd))

theorem State.prefetch_legal : ∀ (s : State) (c ctx va : Nat) (x : Xlat) (pa : Nat) (ex : Bool) (sc : Scope), s.Legal → (s.prefetch c
    ctx va x pa ex sc).Legal := by
  intros
  unfold State.prefetch
  repeat' (first
      | with_reducible assumption
      | (with_reducible first
          | apply State.asked_legal | apply State.siL2Get_legal | apply State.pfL2_legal | apply State.crownFetch_legal
          | apply State.siLine_legal | apply State.l1Obtain_legal | apply State.l1Fetch_legal | apply Keep.snd)
      | split | (unfold State.Legal; dsimp only; with_reducible apply Keep.fold))

theorem execPfch_legal : ∀ (h : Hdr) (a : VReg) (mem : MemOp) (ex : Bool) (hint : PfHint) (scope : Scope) (s : State), s.Legal →
    Keep.Out (execPfch h a mem ex hint scope s) := by
  intros
  unfold execPfch
  repeat' (first
      | with_reducible assumption
      | (with_reducible first
          | intro _ | apply runLanes_legal | apply State.check_legal | apply State.prefetch_legal | apply State.reached_legal)
      | split | (unfold State.Legal; dsimp only; with_reducible apply Keep.fold)
      | (with_reducible apply Keep.of_pair; with_reducible assumption))

theorem State.cctlOne_legal : ∀ (s : State) (op : CctlOp) (ln : Nat) (c : CacheRef), s.Legal → (s.cctlOne op ln c).Legal := by
  intros
  unfold State.cctlOne
  repeat' (first
      | with_reducible assumption
      | (with_reducible first
          | apply State.writeBack_legal | apply State.giveUp_legal | apply State.setCache_legal)
      | split)

theorem execCctl_legal : ∀ (h : Hdr) (a : VReg) (mem : MemOp) (op : CctlOp) (scope : Scope) (s : State), s.Legal → Keep.Out (execCctl h
    a mem op scope s) := by
  intros
  unfold execCctl
  repeat' (first
      | with_reducible assumption
      | (with_reducible first
          | intro _ | apply runLanes_legal | apply State.check_legal | apply State.drainTo_legal | apply State.reached_legal
          | apply State.cctlOne_legal | apply State.pageFault_legal | apply State.consume_legal | apply Keep.foldl)
      | split | (unfold State.Legal; dsimp only; with_reducible apply Keep.fold)
      | (with_reducible apply Keep.of_pair; with_reducible assumption))

theorem State.unpin_legal : ∀ (s : State) (d ctx idx : Nat), s.Legal → (s.unpin d ctx idx).Legal := by
  intros
  unfold State.unpin
  repeat' (first | with_reducible assumption | (with_reducible first | apply State.modDie_legal | apply State.modRange_legal) | split)

theorem State.pin_legal : ∀ (s : State) (d ctx idx base len : Nat), s.Legal → (s.pin d ctx idx base len).Legal := by
  intros
  unfold State.pin
  repeat' (first
      | with_reducible assumption
      | (with_reducible first
          | apply State.unpin_legal | apply State.modRange_legal | apply State.modDie_legal)
      | split | dsimp only)

theorem execPin_legal : ∀ (h : Hdr) (a b : VReg) (idx : BitVec 2) (s : State), s.Legal → Keep.Out (execPin h a b idx s) := by
  intros
  unfold execPin
  repeat' (first
      | with_reducible assumption
      | (with_reducible first
          | intro _ | apply runLive_legal | apply State.pageFault_legal | apply State.pin_legal | apply Keep.foldl)
      | split | dsimp only)

theorem execUnpin_legal : ∀ (h : Hdr) (idx : BitVec 2) (s : State), s.Legal → Keep.Out (execUnpin h idx s) := by
  intros
  unfold execUnpin
  repeat' (first | with_reducible assumption | (with_reducible first | intro _ | apply runLive_legal | apply State.unpin_legal) | split)

theorem State.txq_legal : ∀ (s : State) (c ctx : Nat) (va : DWord), s.Legal → Keep.Snd (s.txq c ctx va) := by
  intros
  unfold State.txq
  repeat' (first
      | with_reducible assumption | (with_reducible first | apply State.translate_legal) | split
      | (with_reducible apply Keep.of_pair; with_reducible assumption) | (with_reducible apply Keep.pair))

theorem execTxq_legal : ∀ (h : Hdr) (d a : VReg) (s : State), s.Legal → Keep.Out (execTxq h d a s) := by
  intros
  unfold execTxq
  repeat' (first
      | with_reducible assumption
      | (with_reducible first
          | intro _ | apply runLanes_legal | apply State.txq_legal | apply State.answer_legal | apply State.consume_legal)
      | split | (with_reducible apply Keep.of_pair; with_reducible assumption))

theorem execFrq_legal : ∀ (h : Hdr) (d a : VReg) (s : State), s.Legal → Keep.Out (execFrq h d a s) := by
  intros
  unfold execFrq
  repeat' (first | with_reducible assumption | (with_reducible first | intro _ | apply runLanes_legal | apply State.answer_legal))

theorem State.dirAsk_legal : ∀ (s : State) (d : DirRef) (r : Nat × Holder × Bool), s.Legal → (s.dirAsk d r).Legal := by
  intros
  unfold State.dirAsk
  repeat' (first
      | with_reducible assumption
      | (with_reducible first
          | apply State.dirEntry_legal | apply State.dirSet_legal | apply State.dirSplit_legal)
      | split | (with_reducible apply Keep.of_pair; with_reducible assumption) | dsimp only)

theorem execDirectoryRequest_legal : ∀ (s : State), s.Legal → Keep.Out (execDirectoryRequest s) := by
  intros
  unfold execDirectoryRequest
  repeat' (first | with_reducible assumption | (with_reducible first | apply State.dirAsk_legal | apply Keep.next))

theorem execProbe_legal : ∀ (s : State), s.Legal → Keep.Out (execProbe s) := by
  intros
  unfold execProbe
  repeat' (first
      | with_reducible assumption
      | (with_reducible first
          | apply State.invalidate_legal | apply State.downgrade_legal | apply Keep.next)
      | split)

theorem State.probeAcks_legal : ∀ (s : State) (d : DirRef) (ln : Nat) (hs : List Holder), s.Legal → (s.probeAcks d ln hs).Legal := by
  intros
  unfold State.probeAcks
  repeat' (first
      | with_reducible assumption
      | (with_reducible first
          | intro _ | apply State.dirFree_legal | apply State.dirSet_legal | apply State.dirAsk_legal | apply Keep.foldl)
      | split | (unfold State.Legal; dsimp only; with_reducible apply Keep.fold))

theorem execProbeAcknowledgement_legal : ∀ (s : State), s.Legal → Keep.Out (execProbeAcknowledgement s) := by
  intros
  unfold execProbeAcknowledgement
  repeat' (first | with_reducible assumption | (with_reducible first | apply State.probeAcks_legal | apply Keep.next))

theorem execBackInvalidateResponse_legal : ∀ (s : State), s.Legal → Keep.Out (execBackInvalidateResponse s) := by
  intros
  unfold execBackInvalidateResponse
  repeat' (first | with_reducible assumption | (with_reducible first | apply State.probeAcks_legal | apply Keep.next))

theorem State.linesCleaned_legal : ∀ (s : State) (pa n : Nat), s.Legal → (s.linesCleaned pa n).Legal := by
  intros
  unfold State.linesCleaned
  repeat' (first | with_reducible assumption | (unfold State.Legal; dsimp only; with_reducible apply Keep.fold))

theorem State.visit_legal : ∀ (s : State) (ln : Nat) (excl : Bool), s.Legal → Keep.Snd (s.visit ln excl) := by
  intros
  unfold State.visit
  repeat' (first
      | with_reducible assumption
      | (with_reducible first
          | apply State.setExport_legal | apply State.dirServe_legal | apply State.dirLeave_legal | apply Keep.snd)
      | split | (with_reducible apply Keep.pair))

theorem State.visitLines_legal : ∀ (s : State) (pa n : Nat) (excl : Bool), s.Legal → Keep.Snd (s.visitLines pa n excl) := by
  intros
  unfold State.visitLines
  repeat' (first
      | with_reducible assumption | (with_reducible first | intro _ | apply State.visit_legal | apply Keep.foldl2 | apply Keep.snd)
      | (with_reducible apply Keep.pair))

theorem State.merge_legal : ∀ (s : State) (d : DirRef) (ln : Nat), s.Legal → (s.merge d ln).Legal := by
  intros
  unfold State.merge
  repeat' (first
      | with_reducible assumption | (with_reducible first | apply State.unexport_legal) | split
      | (unfold State.Legal; dsimp only; with_reducible apply Keep.fold) | dsimp only)

theorem execEntryMerge_legal : ∀ (s : State), s.Legal → Keep.Out (execEntryMerge s) := by
  intros
  unfold execEntryMerge
  repeat' (first | with_reducible assumption | (with_reducible first | apply State.merge_legal | apply Keep.next))

theorem execCacheSleep_legal : ∀ (s : State), s.Legal → Keep.Out (execCacheSleep s) := by
  intros
  unfold execCacheSleep
  repeat' (first
      | with_reducible assumption
      | (with_reducible first
          | intro _ | apply State.giveUp_legal | apply State.evict_legal | apply State.setCache_legal | apply Keep.next
          | apply Keep.foldl)
      | split)

theorem execCacheWake_legal : ∀ (s : State), s.Legal → Keep.Out (execCacheWake s) := by
  intros
  unfold execCacheWake
  repeat' (first | with_reducible assumption | (with_reducible first | apply State.setCache_legal | apply Keep.next) | split)

theorem execHostSnoop_legal : ∀ (s : State), s.Legal → Keep.Out (execHostSnoop s) := by
  intros
  unfold execHostSnoop
  repeat' (first
      | with_reducible assumption | (with_reducible first | intro _ | apply State.snooped_legal | apply Keep.next | apply Keep.foldl)
      | split)

theorem execFaultRecordEnter_legal : ∀ (s : State), s.Legal → Keep.Out (execFaultRecordEnter s) := by
  intros
  unfold execFaultRecordEnter
  repeat' (first
      | with_reducible assumption | (with_reducible first | apply State.pfPut_legal | apply Keep.next) | split
      | (unfold State.Legal; dsimp only; with_reducible apply Keep.fold) | dsimp only)

theorem State.shootNow_legal : ∀ (s : State) (k : Cmd), s.Legal → (s.shootNow k).Legal := by
  intros
  unfold State.shootNow
  repeat' (first
      | with_reducible assumption | (with_reducible first | apply State.closeWindow_legal | apply Keep.foldl)
      | (unfold State.Legal; dsimp only; with_reducible apply Keep.fold))

theorem execShoot_legal : ∀ (s : State), s.Legal → Keep.Out (execShoot s) := by
  intros
  unfold execShoot
  repeat' (first
      | with_reducible assumption | (with_reducible first | apply State.shootNow_legal | apply Keep.next) | split
      | (unfold State.Legal; dsimp only; with_reducible apply Keep.fold))

theorem State.flushFrames_legal : ∀ (s : State) (first count : Nat), s.Legal → (s.flushFrames first count).Legal := by
  intros
  unfold State.flushFrames
  repeat' (first
      | with_reducible assumption | (with_reducible first | intro _ | apply State.giveUp_legal | apply Keep.foldl)
      | (unfold State.Legal; dsimp only; with_reducible apply Keep.fold))

theorem execFlush_legal : ∀ (s : State), s.Legal → Keep.Out (execFlush s) := by
  intros
  unfold execFlush
  repeat' (first
      | with_reducible assumption | (with_reducible first | apply State.flushFrames_legal | apply Keep.next) | split
      | (unfold State.Legal; dsimp only; with_reducible apply Keep.fold))

theorem State.wakeAway_legal : ∀ (s : State) (team tid : Nat), s.Legal → (s.wakeAway team tid).Legal := by
  intros
  unfold State.wakeAway
  repeat' (first
      | with_reducible assumption
      | (with_reducible first
          | apply State.modThread_legal | apply State.vWrite_legal | apply State.endLaunch_legal | apply Keep.snd)
      | split | (unfold State.Legal; dsimp only; with_reducible apply Keep.fold))

theorem execWake_legal : ∀ (s : State), s.Legal → Keep.Out (execWake s) := by
  intros
  unfold execWake
  repeat' (first
      | with_reducible assumption
      | (with_reducible first
          | intro _ | apply State.restart_legal | apply State.wakeAway_legal | apply Keep.next | apply Keep.foldl)
      | split | (unfold State.Legal; dsimp only; with_reducible apply Keep.fold))

theorem execRangeCommandComplete_legal : ∀ (s : State), s.Legal → Keep.Out (execRangeCommandComplete s) := by
  intros
  unfold execRangeCommandComplete
  repeat' (first
      | with_reducible assumption | (with_reducible first | apply Keep.next) | split
      | (unfold State.Legal; dsimp only; with_reducible apply Keep.fold))

theorem execLifetimeLimit_legal : ∀ (s : State), s.Legal → Keep.Out (execLifetimeLimit s) := by
  intros
  unfold execLifetimeLimit
  repeat' (first | with_reducible assumption | (with_reducible first | apply State.evict_legal | apply Keep.next) | split)

theorem State.copyEnter_legal : ∀ (s : State) (c team tid ctx : Nat) (pc : Pc) (b : List Byte), s.Legal → (s.copyEnter c team tid ctx pc
    b).Legal := by
  intros
  unfold State.copyEnter
  repeat' (first
      | with_reducible assumption | (with_reducible first | apply State.takeId_legal | apply State.modCore_legal | apply Keep.snd))

theorem State.kickEnter_legal : ∀ (s : State) (c team tid : Nat) (tm : Team) (pc : Pc) (b : List Byte), s.Legal → (s.kickEnter c team
    tid tm pc b).Legal := by
  intros
  unfold State.kickEnter
  repeat' (first
      | with_reducible assumption
      | (with_reducible first
          | apply State.copyEnter_legal | apply State.release_legal | apply State.tells_legal | apply State.crossGate_legal))

theorem State.kick_legal : ∀ (s : State) (c team tid : Nat) (tm : Team) (t : Thread) (len : Nat) (x : Word), s.Legal → (s.kick c team
    tid tm t len x).Legal := by
  intros
  unfold State.kick
  repeat' (first
      | with_reducible assumption
      | (with_reducible first
          | apply State.takeTrap_legal | apply State.consume_legal | apply State.closeRegion_legal | apply State.kickEnter_legal)
      | split)

theorem State.kickFirst_legal : ∀ (s : State) (c team : Nat) (tm : Team) (len : Nat) (x : Nat × Thread × List Byte), s.Legal →
    (s.kickFirst c team tm len x).Legal := by
  intros
  unfold State.kickFirst
  repeat' (first | with_reducible assumption | (with_reducible first | apply State.modThread_legal | apply State.kickEnter_legal))

theorem execKick_legal : ∀ (h : Hdr) (a : VReg) (mem : MemOp) (s : State), s.Legal → Keep.Out (execKick h a mem s) := by
  intros
  unfold execKick
  repeat' (first
      | with_reducible assumption
      | (with_reducible first
          | intro _ | apply runWait_legal | apply State.relWaits_legal | apply State.kickFirst_legal | apply State.eachLane_legal
          | apply State.kick_legal | apply Keep.foldl | apply Keep.some | apply Keep.none)
      | split | (with_reducible apply Keep.of_some; with_reducible assumption) | dsimp only)

theorem State.landi_legal : ∀ (s : State) (c team tid : Nat) (tm : Team) (t : Thread) (scope : Scope) (x target : Word) (len : Nat),
    s.Legal → (s.landi c team tid tm t scope x target len).Legal := by
  intros
  unfold State.landi
  repeat' (first
      | with_reducible assumption
      | (with_reducible first
          | apply State.takeTrap_legal | apply State.storeFault_legal | apply State.sPutBy_legal)
      | split)

theorem execLandi_legal : ∀ (h : Hdr) (scope : Scope) (a : VReg) (b : SrcB) (s : State), s.Legal → Keep.Out (execLandi h scope a b s) :=
    by
  intros
  unfold execLandi
  repeat' (first | with_reducible assumption | (with_reducible first | intro _ | apply runLanes_legal | apply State.landi_legal))

theorem State.lwait_legal : ∀ (s : State) (c team tid : Nat) (tm : Team) (t : Thread) (h : Hdr) (d : Nat) (x gen : Word) (len : Nat),
    s.Legal → (s.lwait c team tid tm t h d x gen len).Legal := by
  intros
  unfold State.lwait
  repeat' (first
      | with_reducible assumption
      | (with_reducible first
          | apply State.takeTrap_legal | apply State.consume_legal | apply State.acquire_legal | apply State.learns_legal
          | apply State.answer_legal | apply State.takeId_legal | apply State.openWait_legal)
      | split | (unfold State.Legal; dsimp only; with_reducible apply Keep.fold)
      | (with_reducible apply Keep.of_pair; with_reducible assumption))

theorem execLwait_legal : ∀ (h : Hdr) (d a : VReg) (b : SrcB) (s : State), s.Legal → Keep.Out (execLwait h d a b s) := by
  intros
  unfold execLwait
  repeat' (first | with_reducible assumption | (with_reducible first | intro _ | apply runLanes_legal | apply State.lwait_legal))

theorem State.lpoll_legal : ∀ (s : State) (c team tid : Nat) (tm : Team) (t : Thread) (h : Hdr) (d : Nat) (x gen : Word) (len : Nat),
    s.Legal → (s.lpoll c team tid tm t h d x gen len).Legal := by
  intros
  unfold State.lpoll
  repeat' (first
      | with_reducible assumption
      | (with_reducible first
          | apply State.takeTrap_legal | apply State.consume_legal | apply State.acquire_legal | apply State.learns_legal
          | apply State.answer_legal)
      | split | (unfold State.Legal; dsimp only; with_reducible apply Keep.fold))

theorem execLpoll_legal : ∀ (h : Hdr) (d a : VReg) (b : SrcB) (s : State), s.Legal → Keep.Out (execLpoll h d a b s) := by
  intros
  unfold execLpoll
  repeat' (first | with_reducible assumption | (with_reducible first | intro _ | apply runLanes_legal | apply State.lpoll_legal))

theorem State.landAgain_legal : ∀ (s : State) (team tid : Nat) (tm : Team) (w : Window) (off : Nat) (gen : Word) (dst : Nat), s.Legal →
    (s.landAgain team tid tm w off gen dst).Legal := by
  intros
  unfold State.landAgain
  repeat' (first
      | with_reducible assumption
      | (with_reducible first
          | apply State.consume_legal | apply State.waitDone_legal | apply State.acquire_legal | apply State.learns_legal
          | apply State.modThread_legal)
      | split | (unfold State.Legal; dsimp only; with_reducible apply Keep.fold))

theorem execLwaitRecheck_legal : ∀ (s : State), s.Legal → Keep.Out (execLwaitRecheck s) := by
  intros
  unfold execLwaitRecheck
  repeat' (first | with_reducible assumption | (with_reducible first | apply State.landAgain_legal | apply Keep.next) | split)

theorem State.binc_legal : ∀ (s : State) (team tid : Nat) (h : Hdr) (pc : Pc) (d b : Nat) (inc : Word), s.Legal → (s.binc team tid h pc
    d b inc).Legal := by
  intros
  unfold State.binc
  repeat' (first
      | with_reducible assumption
      | (with_reducible first
          | apply State.modTeam_legal | apply State.crossGate_legal | apply State.closeRegion_legal | apply State.answer_legal)
      | split)

theorem execBinc_legal : ∀ (h : Hdr) (d a : VReg) (b : SrcB) (s : State), s.Legal → Keep.Out (execBinc h d a b s) := by
  intros
  unfold execBinc
  repeat' (first | with_reducible assumption | (with_reducible first | intro _ | apply runLanes_legal | apply State.binc_legal))

theorem execBhold_legal : ∀ (h : Hdr) (slot : BitVec 4) (a : VReg) (s : State), s.Legal → Keep.Out (execBhold h slot a s) := by
  intros
  unfold execBhold
  repeat' (first
      | with_reducible assumption
      | (with_reducible first
          | intro _ | apply runLanes_legal | apply State.answer_legal | apply State.modTeam_legal))

theorem State.brelOne_legal : ∀ (s : State) (c team tid ctx : Nat) (tm : Team) (pc : Pc) (b : List Byte), s.Legal → (s.brelOne c team
    tid ctx tm pc b).Legal := by
  intros
  unfold State.brelOne
  repeat' (first
      | with_reducible assumption
      | (with_reducible first
          | apply State.copyEnter_legal | apply State.release_legal | apply State.tells_legal | apply State.copyAbort_legal)
      | split | (unfold State.Legal; dsimp only; with_reducible apply Keep.fold))

theorem State.brel_legal : ∀ (s : State) (c team tid : Nat) (tm : Team) (t : Thread) (clr : Bool) (mask : Word) (len : Nat), s.Legal →
    (s.brel c team tid tm t clr mask len).Legal := by
  intros
  unfold State.brel
  repeat' (first
      | with_reducible assumption
      | (with_reducible first
          | intro _ | apply State.takeTrap_legal | apply State.consume_legal | apply State.brelOne_legal | apply State.crossGate_legal
          | apply State.modTeam_legal | apply State.closeRegion_legal | apply Keep.foldl)
      | split | dsimp only)

theorem execBrel_legal : ∀ (h : Hdr) (clr : Bool) (b : SrcB) (s : State), s.Legal → Keep.Out (execBrel h clr b s) := by
  intros
  unfold execBrel
  repeat' (first
      | with_reducible assumption
      | (with_reducible first
          | intro _ | apply runWait_legal | apply State.relWaits_legal | apply State.closeRegion_legal | apply State.brel_legal
          | apply Keep.foldl | apply Keep.some | apply Keep.none)
      | split)

theorem execCpyq_legal : ∀ (h : Hdr) (d : VReg) (s : State), s.Legal → Keep.Out (execCpyq h d s) := by
  intros
  unfold execCpyq
  repeat' (first | with_reducible assumption | (with_reducible first | intro _ | apply runLanes_legal | apply State.answer_legal))

theorem State.modChunk_legal : ∀ (s : State) (c id row n : Nat) (f : Chunk → Chunk), s.Legal → (s.modChunk c id row n f).Legal := by
  intros
  unfold State.modChunk
  repeat' (first | with_reducible assumption | (with_reducible first | apply State.modCopy_legal))

theorem State.chunkMsg_legal : ∀ (s : State) (c : Nat) (r : CopyReq) (row n pkg addr : Nat) (scr : Bool) (data : List Byte), s.Legal →
    (s.chunkMsg c r row n pkg addr scr data).Legal := by
  intros
  unfold State.chunkMsg
  repeat' (first | with_reducible assumption | (with_reducible first | apply State.sendReq_legal | apply Keep.snd))

theorem State.zeroDone_legal : ∀ (s : State) (c : Nat) (r : CopyReq), s.Legal → (s.zeroDone c r).Legal := by
  intros
  unfold State.zeroDone
  repeat' (first
      | with_reducible assumption
      | (with_reducible first
          | apply State.copyFault_legal | apply State.dropCopy_legal | apply State.landEvent_legal)
      | split | (unfold State.Legal; dsimp only; with_reducible apply Keep.fold))

theorem State.copyZero_legal : ∀ (s : State) (c : Nat) (r : CopyReq), s.Legal → (s.copyZero c r).Legal := by
  intros
  unfold State.copyZero
  repeat' (first
      | with_reducible assumption
      | (with_reducible first
          | apply State.copyAbort_legal | apply State.copyFault_legal | apply State.chunkMsg_legal | apply State.modCopy_legal
          | apply State.zeroDone_legal)
      | split)

theorem State.copyStart_legal : ∀ (s : State) (c : Nat) (r : CopyReq), s.Legal → (s.copyStart c r).Legal := by
  intros
  unfold State.copyStart
  repeat' (first
      | with_reducible assumption | (with_reducible first | apply State.copyZero_legal | apply State.modCopy_legal) | split
      | (unfold State.Legal; dsimp only; with_reducible apply Keep.fold))

theorem execCopyRequestStart_legal : ∀ (s : State), s.Legal → Keep.Out (execCopyRequestStart s) := by
  intros
  unfold execCopyRequestStart
  repeat' (first | with_reducible assumption | (with_reducible first | apply State.copyStart_legal | apply Keep.next) | split)

theorem State.copyAccess_legal : ∀ (s : State) (c : Nat) (r : CopyReq) (write : Bool) (va : Nat), s.Legal → Keep.Snd (s.copyAccess c r
    write va) := by
  intros
  unfold State.copyAccess
  repeat' (first
      | with_reducible assumption | (with_reducible first | apply State.access_legal) | split
      | (with_reducible apply Keep.of_pair; with_reducible assumption) | (with_reducible apply Keep.pair))

theorem State.copyPieces_legal : ∀ (s : State) (c : Nat) (r : CopyReq) (write : Bool) (va n : Nat), s.Legal → Keep.Snd (s.copyPieces c r
    write va n) := by
  intros
  unfold State.copyPieces
  repeat' (first
      | with_reducible assumption | (with_reducible first | intro _ | apply State.copyAccess_legal | apply Keep.foldl2) | split
      | (with_reducible apply Keep.of_pair; with_reducible assumption) | (with_reducible apply_assumption -exfalso -symm)
      | (with_reducible apply Keep.pair))

theorem State.rowEnd_legal : ∀ (s : State) (c : Nat) (r : CopyReq) (row : Nat) (a : RowEnd), s.Legal → (s.rowEnd c r row a).Legal := by
  intros
  unfold State.rowEnd
  repeat' (first
      | with_reducible assumption
      | (with_reducible first
          | apply State.copyAbort_legal | apply State.copyFault_legal | apply State.pfRecord_legal | apply State.modCopy_legal)
      | split)

theorem State.copyAsk_legal : ∀ (s : State) (c : Nat) (a : Ask) (p : Nat × Nat × Nat × Xlat), s.Legal → Keep.Snd (s.copyAsk c a p) := by
  intros
  unfold State.copyAsk
  repeat' (first
      | with_reducible assumption | (with_reducible first | apply State.ctAsk_legal) | split
      | (with_reducible apply_assumption -exfalso -symm))

theorem State.copyHeld_legal : ∀ (s : State) (c : Nat) (a : Ask) (ps : List (Nat × Nat × Nat × Xlat)), s.Legal → Keep.Opt (s.copyHeld c
    a ps) := by
  intros
  unfold State.copyHeld
  repeat' (first
      | with_reducible assumption
      | (with_reducible first
          | intro _ | apply State.copyAsk_legal | apply Keep.opt_find | apply Keep.some | apply Keep.none)
      | split | (with_reducible apply Keep.of_pair; with_reducible assumption))

theorem State.chunkPart_legal : ∀ (s : State) (c : Nat) (r : CopyReq) (row n off : Nat) (p : Nat × Nat × Nat × Xlat), s.Legal →
    (s.chunkPart c r row n off p).Legal := by
  intros
  unfold State.chunkPart
  repeat' (first
      | with_reducible assumption
      | (with_reducible first
          | apply State.l2Fetch_legal | apply State.readPoint_legal | apply State.copyFault_legal | apply State.modChunk_legal
          | apply Keep.snd)
      | split | (unfold State.Legal; dsimp only; with_reducible apply Keep.fold))

theorem State.chunkAsk_legal : ∀ (s : State) (c : Nat) (r : CopyReq) (row n off : Nat) (p : Nat × Nat × Nat × Xlat), s.Legal →
    (s.chunkAsk c r row n off p).Legal := by
  intros
  unfold State.chunkAsk
  repeat' (first
      | with_reducible assumption | (with_reducible first | apply State.modChunk_legal | apply State.sendReq_legal | apply Keep.snd))

theorem State.chunkSland_legal : ∀ (s : State) (c id row n : Nat), s.Legal → (s.chunkSland c id row n).Legal := by
  intros
  unfold State.chunkSland
  repeat' (first | with_reducible assumption | (with_reducible first | apply State.copyFault_legal | apply State.landEvent_legal) | split)

theorem State.addChunk_legal : ∀ (s : State) (c id row n : Nat) (b : List Byte), s.Legal → (s.addChunk c id row n b).Legal := by
  intros
  unfold State.addChunk
  repeat' (first | with_reducible assumption | (with_reducible first | apply State.modCopy_legal))

theorem State.chunkLoad_legal : ∀ (s : State) (c : Nat) (r : CopyReq) (row n src m : Nat) (t : Option Team), s.Legal → (s.chunkLoad c r
    row n src m t).Legal := by
  intros
  unfold State.chunkLoad
  repeat' (first
      | with_reducible assumption
      | (with_reducible first
          | intro _ | apply State.copyFault_legal | apply State.chunkSland_legal | apply State.addChunk_legal
          | apply State.copyPieces_legal | apply State.rowEnd_legal | apply State.copyHeld_legal | apply State.chunkPart_legal
          | apply State.chunkAsk_legal | apply Keep.foldl)
      | split | (with_reducible apply Keep.of_some; with_reducible assumption)
      | (with_reducible apply Keep.of_pair; with_reducible assumption))

theorem State.rowStart_legal : ∀ (s : State) (c : Nat) (r : CopyReq) (row : Nat) (t : Option Team), s.Legal → (s.rowStart c r row
    t).Legal := by
  intros
  unfold State.rowStart
  repeat' (first
      | with_reducible assumption | (with_reducible first | apply State.copyFault_legal | apply State.modCopy_legal) | split
      | (unfold State.Legal; dsimp only; with_reducible apply Keep.fold))

theorem State.chunkIn_legal : ∀ (s : State) (c : Nat) (r : CopyReq) (row n : Nat) (t : Option Team), s.Legal → (s.chunkIn c r row n
    t).Legal := by
  intros
  unfold State.chunkIn
  repeat' (first
      | with_reducible assumption | (with_reducible first | apply State.rowEnd_legal | apply State.chunkLoad_legal) | split
      | (unfold State.Legal; dsimp only; with_reducible apply Keep.fold))

theorem execChunkRead_legal : ∀ (s : State), s.Legal → Keep.Out (execChunkRead s) := by
  intros
  unfold execChunkRead
  repeat' (first
      | with_reducible assumption | (with_reducible first | apply State.rowStart_legal | apply State.chunkIn_legal | apply Keep.next)
      | split | (unfold State.Legal; dsimp only; with_reducible apply Keep.fold))

theorem State.copyPut_legal : ∀ (s : State) (c ctx : Nat) (sc : Scope) (va gpa : Nat) (x : Xlat) (b : List Byte), s.Legal → (s.copyPut c
    ctx sc va gpa x b).Legal := by
  intros
  unfold State.copyPut
  repeat' (first | with_reducible assumption | (with_reducible first | apply State.writePoint_legal | apply State.clearPoison_legal))

theorem State.chunkPut_legal : ∀ (s : State) (c : Nat) (r : CopyReq) (dst : Nat) (b : List Byte) (ps : List (Nat × Nat × Nat × Xlat)),
    s.Legal → (s.chunkPut c r dst b ps).Legal := by
  intros
  unfold State.chunkPut
  repeat' (first | with_reducible assumption | (with_reducible first | intro _ | apply State.copyPut_legal | apply Keep.foldl))

theorem State.chunkSend_legal : ∀ (s : State) (c : Nat) (r : CopyReq) (row n pkg addr : Nat) (scr : Bool) (data : List Byte), s.Legal →
    (s.chunkSend c r row n pkg addr scr data).Legal := by
  intros
  unfold State.chunkSend
  repeat' (first | with_reducible assumption | (with_reducible first | apply State.modChunk_legal | apply State.chunkMsg_legal))

theorem State.chunkDeliver_legal : ∀ (s : State) (c : Nat) (r : CopyReq) (row n h off : Nat) (b : List Byte), s.Legal → (s.chunkDeliver
    c r row n h off b).Legal := by
  intros
  unfold State.chunkDeliver
  repeat' (first
      | with_reducible assumption
      | (with_reducible first
          | apply State.copyAbort_legal | apply State.modChunk_legal | apply State.sPut_legal)
      | split | (unfold State.Legal; dsimp only; with_reducible apply Keep.fold) | dsimp only)

theorem State.chunkGlobal_legal : ∀ (s : State) (c : Nat) (r : CopyReq) (k : Chunk) (dst m : Nat), s.Legal → (s.chunkGlobal c r k dst
    m).Legal := by
  intros
  unfold State.chunkGlobal
  repeat' (first
      | with_reducible assumption
      | (with_reducible first
          | apply State.modChunk_legal | apply State.copyPieces_legal | apply State.rowEnd_legal | apply State.chunkSend_legal
          | apply State.copyHeld_legal | apply State.chunkPut_legal)
      | split | (with_reducible apply Keep.of_some; with_reducible assumption)
      | (with_reducible apply Keep.of_pair; with_reducible assumption))

theorem State.chunkStore_legal : ∀ (s : State) (c : Nat) (r : CopyReq) (k : Chunk) (t : Option Team), s.Legal → (s.chunkStore c r k
    t).Legal := by
  intros
  unfold State.chunkStore
  repeat' (first
      | with_reducible assumption
      | (with_reducible first
          | apply State.rowEnd_legal | apply State.chunkGlobal_legal | apply State.modChunk_legal | apply State.sPut_legal
          | apply State.chunkDeliver_legal | apply State.copyAbort_legal | apply State.copyFault_legal | apply State.chunkSend_legal)
      | split | (unfold State.Legal; dsimp only; with_reducible apply Keep.fold))

theorem State.chunkData_legal : ∀ (s : State) (c : Nat) (r : CopyReq) (k : Chunk) (t : Option Team), s.Legal → Keep.Snd (s.chunkData c r
    k t) := by
  intros
  unfold State.chunkData
  repeat' (first
      | with_reducible assumption | (with_reducible first | apply State.freeBytes_legal | apply State.modChunk_legal) | split
      | (with_reducible apply Keep.of_pair; with_reducible assumption) | (with_reducible apply Keep.pair))

theorem execChunkWrite_legal : ∀ (s : State), s.Legal → Keep.Out (execChunkWrite s) := by
  intros
  unfold execChunkWrite
  repeat' (first
      | with_reducible assumption
      | (with_reducible first
          | apply State.chunkData_legal | apply State.chunkStore_legal | apply Keep.next | apply Keep.snd)
      | split)

theorem State.dropStale_legal : ∀ (s : State) (c : Nat) (sc : Scope) (lines : List Nat), s.Legal → (s.dropStale c sc lines).Legal := by
  intros
  unfold State.dropStale
  repeat' (first | with_reducible assumption | (with_reducible first | intro _ | apply State.evict_legal | apply Keep.foldl) | split)

theorem State.chunkLand_legal : ∀ (s : State) (c : Nat) (r : CopyReq) (k : Chunk), s.Legal → (s.chunkLand c r k).Legal := by
  intros
  unfold State.chunkLand
  repeat' (first
      | with_reducible assumption
      | (with_reducible first
          | apply State.dropStale_legal | apply State.copyFault_legal | apply State.modChunk_legal | apply State.landEvent_legal)
      | split | dsimp only)

theorem execLandingEvent_legal : ∀ (s : State), s.Legal → Keep.Out (execLandingEvent s) := by
  intros
  unfold execLandingEvent
  repeat' (first | with_reducible assumption | (with_reducible first | apply State.chunkLand_legal | apply Keep.next) | split)

theorem State.copyDone_legal : ∀ (s : State) (c : Nat) (r : CopyReq), s.Legal → (s.copyDone c r).Legal := by
  intros
  unfold State.copyDone
  repeat' (first | with_reducible assumption | (with_reducible first | apply State.zeroDone_legal | apply State.dropCopy_legal) | split)

theorem execChunkAcknowledgement_legal : ∀ (s : State), s.Legal → Keep.Out (execChunkAcknowledgement s) := by
  intros
  unfold execChunkAcknowledgement
  repeat' (first
      | with_reducible assumption | (with_reducible first | apply State.modChunk_legal | apply State.copyDone_legal | apply Keep.next)
      | split | (unfold State.Legal; dsimp only; with_reducible apply Keep.fold))

theorem State.chunkAgain_legal : ∀ (s : State) (c : Nat) (r : CopyReq) (k : Chunk), s.Legal → (s.chunkAgain c r k).Legal := by
  intros
  unfold State.chunkAgain
  repeat' (first
      | with_reducible assumption
      | (with_reducible first
          | apply State.copyPieces_legal | apply State.copyHeld_legal | apply State.chunkPut_legal | apply State.sPut_legal)
      | split | (unfold State.Legal; dsimp only; with_reducible apply Keep.fold)
      | (with_reducible apply Keep.of_some; with_reducible assumption) | (with_reducible apply Keep.of_pair; with_reducible assumption))

theorem execChunkResend_legal : ∀ (s : State), s.Legal → Keep.Out (execChunkResend s) := by
  intros
  unfold execChunkResend
  repeat' (first
      | with_reducible assumption | (with_reducible first | apply State.sendKept_legal | apply State.chunkAgain_legal | apply Keep.next)
      | split)

theorem State.resendChunks_legal : ∀ (s : State), s.Legal → s.resendChunks.Legal := by
  intros
  unfold State.resendChunks
  repeat' (first | with_reducible assumption | (with_reducible first | apply State.soon_legal))

theorem execTrapDelivery_legal : ∀ (s : State), s.Legal → Keep.Out (execTrapDelivery s) := by
  intros
  unfold execTrapDelivery
  repeat' (first | with_reducible assumption | (with_reducible first | apply State.deliverTrap_legal | apply Keep.next))

theorem State.afterResult_legal : ∀ (s : State) (team tid : Nat), s.Legal → (s.afterResult team tid).Legal := by
  intros
  unfold State.afterResult
  repeat' (first
      | with_reducible assumption
      | (with_reducible first
          | apply State.deliverTrap_legal | apply State.modThread_legal | apply State.unsched_legal)
      | split)

theorem State.longResult_legal : ∀ (s : State) (team tid id : Nat) (only : Option Nat), s.Legal → (s.longResult team tid id only).Legal
    := by
  intros
  unfold State.longResult
  repeat' (first
      | with_reducible assumption
      | (with_reducible first
          | apply State.modThread_legal | apply State.afterResult_legal | apply State.matFence_legal)
      | split)

theorem execLongLatencyResult_legal : ∀ (s : State), s.Legal → Keep.Out (execLongLatencyResult s) := by
  intros
  unfold execLongLatencyResult
  repeat' (first | with_reducible assumption | (with_reducible first | apply State.longResult_legal | apply Keep.next))

theorem State.activate_legal : ∀ (s : State) (c slot : Nat) (g : Group), s.Legal → (s.activate c slot g).Legal := by
  intros
  unfold State.activate
  repeat' (first | with_reducible assumption | (with_reducible first | apply State.modCore_legal))

theorem State.refill_legal : ∀ (s : State) (c : Nat), s.Legal → (s.refill c).Legal := by
  intros
  unfold State.refill
  repeat' (first | with_reducible assumption | (with_reducible first | intro _ | apply State.activate_legal | apply Keep.foldl) | split)

theorem State.formGroup_legal : ∀ (s : State) (c team : Nat) (ms : List Member) (stray : Bool), s.Legal → Keep.Snd (s.formGroup c team
    ms stray) := by
  intros
  unfold State.formGroup
  repeat' (first
      | with_reducible assumption
      | (with_reducible first
          | intro _ | apply State.modCore_legal | apply State.modThread_legal | apply Keep.foldl)
      | (with_reducible apply Keep.pair))

theorem State.drawFrom_legal : ∀ (s : State) (c : Nat) (b : Batt), s.Legal → Keep.Snd (s.drawFrom c b) := by
  intros
  unfold State.drawFrom
  repeat' (first | with_reducible assumption | (with_reducible first | apply State.formGroup_legal))

theorem State.card_legal : ∀ (s : State) (c : Nat), s.Legal → (s.card c).Legal := by
  intros
  unfold State.card
  repeat' (first
      | with_reducible assumption | (with_reducible first | apply State.modCore_legal | apply State.drawFrom_legal) | split
      | (with_reducible apply Keep.of_pair; with_reducible assumption) | dsimp only)

theorem execCardingDraw_legal : ∀ (s : State), s.Legal → Keep.Out (execCardingDraw s) := by
  intros
  unfold execCardingDraw
  repeat' (first
      | with_reducible assumption | (with_reducible first | apply State.card_legal | apply State.refill_legal | apply Keep.next))

theorem execStrayDraw_legal : ∀ (s : State), s.Legal → Keep.Out (execStrayDraw s) := by
  intros
  unfold execStrayDraw
  repeat' (first
      | with_reducible assumption
      | (with_reducible first
          | apply State.formGroup_legal | apply State.modCore_legal | apply Keep.next | apply Keep.snd)
      | split)

theorem execOverdueDraw_legal : ∀ (s : State), s.Legal → Keep.Out (execOverdueDraw s) := by
  intros
  unfold execOverdueDraw
  repeat' (first
      | with_reducible assumption
      | (with_reducible first
          | apply State.drawFrom_legal | apply State.strayRoom_legal | apply State.fileGroup_legal | apply State.modCore_legal
          | apply Keep.next | apply Keep.snd)
      | split)

theorem State.swap_legal : ∀ (s : State) (c slot : Nat), s.Legal → (s.swap c slot).Legal := by
  intros
  unfold State.swap
  repeat' (first | with_reducible assumption | (with_reducible first | apply State.activate_legal | apply State.modCore_legal) | split)

theorem execStallSwap_legal : ∀ (s : State), s.Legal → Keep.Out (execStallSwap s) := by
  intros
  unfold execStallSwap
  repeat' (first | with_reducible assumption | (with_reducible first | apply State.swap_legal | apply Keep.next) | split)

theorem execRotationSwap_legal : ∀ (s : State), s.Legal → Keep.Out (execRotationSwap s) := by
  intros
  unfold execRotationSwap
  repeat' (first | with_reducible assumption | (with_reducible first | apply State.swap_legal | apply Keep.next) | split)

theorem State.issueWalk_legal : ∀ (s : State) (c : Nat), s.Legal → (s.issueWalk c).Legal := by
  intros
  unfold State.issueWalk
  repeat' (first
      | with_reducible assumption
      | (with_reducible first
          | intro _ | apply State.refill_legal | apply State.stallGroup_legal | apply State.modCore_legal | apply Keep.foldl)
      | split | (unfold State.Legal; dsimp only; with_reducible apply Keep.fold))

theorem execIssue_legal : ∀ (s : State), s.Legal → Keep.Out (execIssue s) := by
  intros
  unfold execIssue
  repeat' (first | with_reducible assumption | (with_reducible first | apply State.issueWalk_legal | apply Keep.next) | split)

theorem execYieldHoldEnd_legal : ∀ (s : State), s.Legal → Keep.Out (execYieldHoldEnd s) := by
  intros
  unfold execYieldHoldEnd
  repeat' (first | with_reducible assumption | (with_reducible first | apply State.modCore_legal | apply Keep.next))

theorem execSleepEnd_legal : ∀ (s : State), s.Legal → Keep.Out (execSleepEnd s) := by
  intros
  unfold execSleepEnd
  repeat' (first | with_reducible assumption | (with_reducible first | apply State.waitDone_legal | apply Keep.next) | split)

theorem execRegisterCacheFill_legal : ∀ (s : State), s.Legal → Keep.Out (execRegisterCacheFill s) := by
  intros
  unfold execRegisterCacheFill
  repeat' (first | with_reducible assumption | (with_reducible first | apply State.modCore_legal | apply Keep.next))

theorem State.quarantine_legal : ∀ (s : State) (c : Nat), s.Legal → (s.quarantine c).Legal := by
  intros
  unfold State.quarantine
  repeat' (first | with_reducible assumption | (with_reducible first | apply State.drainCore_legal | apply State.modCore_legal) | split)

theorem State.replayed_legal : ∀ (s : State) (c : Nat), s.Legal → (s.replayed c).Legal := by
  intros
  unfold State.replayed
  repeat' (first
      | with_reducible assumption
      | (with_reducible first
          | apply State.modCore_legal | apply State.coreEvent_legal | apply State.quarantine_legal)
      | split | dsimp only)

theorem execReplay_legal : ∀ (s : State), s.Legal → Keep.Out (execReplay s) := by
  intros
  unfold execReplay
  repeat' (first | with_reducible assumption | (with_reducible first | apply State.replayed_legal | apply Keep.next) | split)

theorem execMarginWindowEnd_legal : ∀ (s : State), s.Legal → Keep.Out (execMarginWindowEnd s) := by
  intros
  unfold execMarginWindowEnd
  repeat' (first | with_reducible assumption | (with_reducible first | apply State.modCore_legal | apply Keep.next) | split)

theorem State.countSilent_legal : ∀ (s : State) (c : Nat), s.Legal → (s.countSilent c).Legal := by
  intros
  unfold State.countSilent
  repeat' (first
      | with_reducible assumption
      | (with_reducible first
          | apply State.modCore_legal | apply State.coreEvent_legal | apply State.quarantine_legal)
      | split | dsimp only)

theorem execSilentError_legal : ∀ (s : State), s.Legal → Keep.Out (execSilentError s) := by
  intros
  unfold execSilentError
  repeat' (first
      | with_reducible assumption
      | (with_reducible first
          | intro _ | apply State.contextFault_legal | apply State.countSilent_legal | apply State.restart_legal | apply Keep.next
          | apply Keep.foldl)
      | split)

theorem State.mgnCtlPut_legal : ∀ (s : State) (c v : Nat), s.Legal → (s.mgnCtlPut c v).Legal := by
  intros
  unfold State.mgnCtlPut
  repeat' (first | with_reducible assumption | (with_reducible first | apply State.modCore_legal))

theorem execMgnCtlWrite_legal : ∀ (s : State), s.Legal → Keep.Out (execMgnCtlWrite s) := by
  intros
  unfold execMgnCtlWrite
  repeat' (first
      | with_reducible assumption
      | (with_reducible first
          | intro _ | apply State.windowWrite_legal | apply State.mgnCtlPut_legal | apply Keep.next)
      | split)

theorem execMgnLimitWrite_legal : ∀ (s : State), s.Legal → Keep.Out (execMgnLimitWrite s) := by
  intros
  unfold execMgnLimitWrite
  repeat' (first
      | with_reducible assumption
      | (with_reducible first
          | intro _ | apply State.windowWrite_legal | apply State.modCore_legal | apply Keep.next)
      | split)

theorem execQuarantineClear_legal : ∀ (s : State), s.Legal → Keep.Out (execQuarantineClear s) := by
  intros
  unfold execQuarantineClear
  repeat' (first
      | with_reducible assumption
      | (with_reducible first
          | intro _ | apply State.windowWrite_legal | apply State.mgnCtlPut_legal | apply Keep.next)
      | split)

theorem execChecksumMismatch_legal : ∀ (s : State), s.Legal → Keep.Out (execChecksumMismatch s) := by
  intros
  unfold execChecksumMismatch
  repeat' (first
      | with_reducible assumption
      | (with_reducible first
          | apply State.modCore_legal | apply State.restart_legal | apply State.countSilent_legal | apply Keep.next)
      | split)

theorem execLogicalMapRebuild_legal : ∀ (s : State), s.Legal → Keep.Out (execLogicalMapRebuild s) := by
  intros
  unfold execLogicalMapRebuild
  repeat' (first
      | with_reducible assumption
      | (with_reducible first
          | intro _ | apply State.modCore_legal | apply State.event_legal | apply State.drainCore_legal | apply Keep.next
          | apply Keep.foldl)
      | split | dsimp only)

end Sys2Proof.Machine
end

