-- ==== Sys2Proof/Laws/KeepPkg.lean ====
section
/-! SUPPORT. Links, messages, containment, attestation and the host keep a state legal, and with them every instruction and row. -/

namespace Sys2Proof.Machine

theorem State.failLink_legal : ∀ (s : State) (n : Nat), s.Legal → (s.failLink n).Legal := by
  intros
  unfold State.failLink
  repeat' (first
      | with_reducible assumption
      | (with_reducible first
          | apply State.setLink_legal | apply State.resendChunks_legal | apply State.event_legal)
      | (unfold State.Legal; dsimp only; with_reducible apply Keep.fold))

theorem State.linkRx_legal : ∀ (s : State) (t : Nat), s.Legal → (s.linkRx t).Legal := by
  intros
  unfold State.linkRx
  repeat' (first | with_reducible assumption | (with_reducible first | apply State.setLink_legal) | split | dsimp only)

theorem execDieLinkDataFlit_legal : ∀ (s : State), s.Legal → Keep.Out (execDieLinkDataFlit s) := by
  intros
  unfold execDieLinkDataFlit
  repeat' (first | with_reducible assumption | (with_reducible first | apply State.linkRx_legal | apply Keep.next))

theorem execDieLinkTagFlit_legal : ∀ (s : State), s.Legal → Keep.Out (execDieLinkTagFlit s) := by
  intros
  unfold execDieLinkTagFlit
  repeat' (first | with_reducible assumption | (with_reducible first | apply State.linkRx_legal | apply Keep.next))

theorem execDieLinkControlFlit_legal : ∀ (s : State), s.Legal → Keep.Out (execDieLinkControlFlit s) := by
  intros
  unfold execDieLinkControlFlit
  repeat' (first | with_reducible assumption | (with_reducible first | apply State.linkRx_legal | apply Keep.next))

theorem execDieLinkIdleFlit_legal : ∀ (s : State), s.Legal → Keep.Out (execDieLinkIdleFlit s) := by
  intros
  unfold execDieLinkIdleFlit
  repeat' (first | with_reducible assumption | (with_reducible first | apply State.linkRx_legal | apply Keep.next))

theorem execDieLinkReplay_legal : ∀ (s : State), s.Legal → Keep.Out (execDieLinkReplay s) := by
  intros
  unfold execDieLinkReplay
  repeat' (first
      | with_reducible assumption
      | (with_reducible first
          | apply State.setLink_legal | apply State.failLink_legal | apply State.resendChunks_legal | apply Keep.next)
      | split | (unfold State.Legal; dsimp only; with_reducible apply Keep.fold))

theorem execDieLinkOpenGroup_legal : ∀ (s : State), s.Legal → Keep.Out (execDieLinkOpenGroup s) := by
  intros
  unfold execDieLinkOpenGroup
  repeat' (first | with_reducible assumption | (with_reducible first | apply State.setLink_legal | apply Keep.next) | split)

theorem State.lineGone_legal : ∀ (s : State) (ln : Nat) (ctx : Option Nat), s.Legal → (s.lineGone ln ctx).Legal := by
  intros
  unfold State.lineGone
  repeat' (first
      | with_reducible assumption
      | (with_reducible first
          | apply State.setPoison_legal | apply State.contextFault_legal | apply State.eventRec_legal)
      | split)

theorem State.rebuild_legal : ∀ (s : State) (d : DirRef) (ln : Nat), s.Legal → (s.rebuild d ln).Legal := by
  intros
  unfold State.rebuild
  repeat' (first
      | with_reducible assumption
      | (with_reducible first
          | intro _ | apply State.recall_legal | apply State.dirSet_legal | apply State.lineGone_legal | apply State.dirAsk_legal
          | apply Keep.foldl)
      | split)

theorem execEntryRebuild_legal : ∀ (s : State), s.Legal → Keep.Out (execEntryRebuild s) := by
  intros
  unfold execEntryRebuild
  repeat' (first | with_reducible assumption | (with_reducible first | apply State.rebuild_legal | apply Keep.next))

theorem State.remoteFault_legal : ∀ (s : State) (team tid win gpa : Nat), s.Legal → (s.remoteFault team tid win gpa).Legal := by
  intros
  unfold State.remoteFault
  repeat' (first | with_reducible assumption | (with_reducible first | apply State.pendTrap_legal | apply State.modThread_legal) | split)

theorem State.dropReq_legal : ∀ (s : State) (rid : Nat), s.Legal → (s.dropReq rid).Legal := by
  intros
  unfold State.dropReq
  repeat' (first
      | with_reducible assumption | (with_reducible first | apply State.sendWaiting_legal)
      | (unfold State.Legal; dsimp only; with_reducible apply Keep.fold))

theorem State.reqCopyFault_legal : ∀ (s : State) (core req aux : Nat), s.Legal → (s.reqCopyFault core req aux).Legal := by
  intros
  unfold State.reqCopyFault
  repeat' (first | with_reducible assumption | (with_reducible first | apply State.copyFault_legal) | split)

theorem State.postedFault_legal : ∀ (s : State) (r : RemReq) (aux : Nat), s.Legal → (s.postedFault r aux).Legal := by
  intros
  unfold State.postedFault
  repeat' (first
      | with_reducible assumption
      | (with_reducible first
          | apply State.storeFault_legal | apply State.reqCopyFault_legal | apply State.freeLaunch_legal)
      | split)

theorem State.pathFailed_legal : ∀ (s : State) (r : RemReq), s.Legal → (s.pathFailed r).Legal := by
  intros
  unfold State.pathFailed
  repeat' (first
      | with_reducible assumption
      | (with_reducible first
          | intro _ | apply State.event_legal | apply State.dropReq_legal | apply State.postedFault_legal
          | apply State.remoteFault_legal | apply Keep.foldl))

theorem State.peerRefused_legal : ∀ (s : State) (ctx rid spkg : Nat), s.Legal → (s.peerRefused ctx rid spkg).Legal := by
  intros
  unfold State.peerRefused
  repeat' (first | with_reducible assumption | (with_reducible first | apply State.event_legal))

theorem State.refused_legal : ∀ (s : State) (r : RemReq), s.Legal → (s.refused r).Legal := by
  intros
  unfold State.refused
  repeat' (first
      | with_reducible assumption
      | (with_reducible first
          | intro _ | apply State.peerRefused_legal | apply State.dropReq_legal | apply State.remoteFault_legal
          | apply State.copyAbort_legal | apply State.fenceDone_legal | apply State.freeLaunch_legal | apply Keep.foldl)
      | split | (unfold State.Legal; dsimp only; with_reducible apply Keep.fold))

theorem State.moveTraffic_legal : ∀ (s : State) (p : Nat), s.Legal → (s.moveTraffic p).Legal := by
  intros
  unfold State.moveTraffic
  repeat' (first
      | with_reducible assumption
      | (with_reducible first
          | intro _ | apply State.sendWaiting_legal | apply State.modReq_legal | apply Keep.foldl))

theorem State.portTo_legal : ∀ (s : State) (p : Nat) (st : PortState) (peer : Nat), s.Legal → (s.portTo p st peer).Legal := by
  intros
  unfold State.portTo
  repeat' (first | with_reducible assumption | (with_reducible first | apply State.moveTraffic_legal | apply State.modPort_legal))

theorem State.failPort_legal : ∀ (s : State) (p : Nat), s.Legal → (s.failPort p).Legal := by
  intros
  unfold State.failPort
  repeat' (first | with_reducible assumption | (with_reducible first | apply State.event_legal | apply State.portTo_legal))

theorem State.portOn_legal : ∀ (s : State) (p : Nat), s.Legal → (s.portOn p).Legal := by
  intros
  unfold State.portOn
  repeat' (first
      | with_reducible assumption | (with_reducible first | apply State.modPort_legal | apply State.portTo_legal) | split | dsimp only)

theorem State.portOff_legal : ∀ (s : State) (p : Nat), s.Legal → (s.portOff p).Legal := by
  intros
  unfold State.portOff
  repeat' (first
      | with_reducible assumption | (with_reducible first | apply State.modPort_legal | apply State.portTo_legal) | split | dsimp only)

theorem State.portTrain_legal : ∀ (s : State) (p : Nat), s.Legal → (s.portTrain p).Legal := by
  intros
  unfold State.portTrain
  repeat' (first | with_reducible assumption | (with_reducible first | apply State.portTo_legal) | split)

theorem State.portReset_legal : ∀ (s : State) (p : Nat), s.Legal → (s.portReset p).Legal := by
  intros
  unfold State.portReset
  repeat' (first
      | with_reducible assumption
      | (with_reducible first
          | apply State.portTo_legal | apply State.modPort_legal | apply State.portOn_legal)
      | split | dsimp only)

theorem execPortEnable_legal : ∀ (s : State), s.Legal → Keep.Out (execPortEnable s) := by
  intros
  unfold execPortEnable
  repeat' (first | with_reducible assumption | (with_reducible first | apply State.portOn_legal | apply Keep.next) | split)

theorem execPortDisable_legal : ∀ (s : State), s.Legal → Keep.Out (execPortDisable s) := by
  intros
  unfold execPortDisable
  repeat' (first | with_reducible assumption | (with_reducible first | apply State.portOff_legal | apply Keep.next) | split)

theorem execTrain_legal : ∀ (s : State), s.Legal → Keep.Out (execTrain s) := by
  intros
  unfold execTrain
  repeat' (first | with_reducible assumption | (with_reducible first | apply State.portTrain_legal | apply Keep.next) | split)

theorem execTrainingLock_legal : ∀ (s : State), s.Legal → Keep.Out (execTrainingLock s) := by
  intros
  unfold execTrainingLock
  repeat' (first
      | with_reducible assumption | (with_reducible first | apply State.portTo_legal | apply State.failPort_legal | apply Keep.next)
      | split)

theorem execTrainingTimeout_legal : ∀ (s : State), s.Legal → Keep.Out (execTrainingTimeout s) := by
  intros
  unfold execTrainingTimeout
  repeat' (first | with_reducible assumption | (with_reducible first | apply State.failPort_legal | apply Keep.next) | split)

theorem execLossOfLight_legal : ∀ (s : State), s.Legal → Keep.Out (execLossOfLight s) := by
  intros
  unfold execLossOfLight
  repeat' (first | with_reducible assumption | (with_reducible first | apply State.failPort_legal | apply Keep.next) | split)

theorem State.transitOver_legal : ∀ (s : State), s.Legal → s.transitOver.Legal := by
  intros
  unfold State.transitOver
  repeat' (first
      | with_reducible assumption | (with_reducible first | apply State.turnBack_legal | apply Keep.foldl)
      | (unfold State.Legal; dsimp only; with_reducible apply Keep.fold))

theorem execPathWaitExpire_legal : ∀ (s : State), s.Legal → Keep.Out (execPathWaitExpire s) := by
  intros
  unfold execPathWaitExpire
  repeat' (first
      | with_reducible assumption
      | (with_reducible first
          | apply State.transitOver_legal | apply State.pathFailed_legal | apply Keep.next)
      | split)

theorem State.portRx_legal : ∀ (s : State) (t : Nat), s.Legal → (s.portRx t).Legal := by
  intros
  unfold State.portRx
  repeat' (first | with_reducible assumption | (with_reducible first | apply State.setPort_legal) | split | dsimp only)

theorem execKalsyDataFlit_legal : ∀ (s : State), s.Legal → Keep.Out (execKalsyDataFlit s) := by
  intros
  unfold execKalsyDataFlit
  repeat' (first | with_reducible assumption | (with_reducible first | apply State.portRx_legal | apply Keep.next))

theorem execKalsyTagFlit_legal : ∀ (s : State), s.Legal → Keep.Out (execKalsyTagFlit s) := by
  intros
  unfold execKalsyTagFlit
  repeat' (first | with_reducible assumption | (with_reducible first | apply State.portRx_legal | apply Keep.next))

theorem execKalsyControlFlit_legal : ∀ (s : State), s.Legal → Keep.Out (execKalsyControlFlit s) := by
  intros
  unfold execKalsyControlFlit
  repeat' (first | with_reducible assumption | (with_reducible first | apply State.portRx_legal | apply Keep.next))

theorem execKalsyIdleFlit_legal : ∀ (s : State), s.Legal → Keep.Out (execKalsyIdleFlit s) := by
  intros
  unfold execKalsyIdleFlit
  repeat' (first | with_reducible assumption | (with_reducible first | apply State.portRx_legal | apply Keep.next))

theorem State.portReplay_legal : ∀ (s : State) (n a : Nat) (failed : Bool), s.Legal → (s.portReplay n a failed).Legal := by
  intros
  unfold State.portReplay
  repeat' (first
      | with_reducible assumption
      | (with_reducible first
          | apply State.resendChunks_legal | apply State.setPort_legal | apply State.failPort_legal)
      | split | (unfold State.Legal; dsimp only; with_reducible apply Keep.fold))

theorem execKalsyReplay_legal : ∀ (s : State), s.Legal → Keep.Out (execKalsyReplay s) := by
  intros
  unfold execKalsyReplay
  repeat' (first | with_reducible assumption | (with_reducible first | apply State.portReplay_legal | apply Keep.next) | split)

theorem execAckTimeout_legal : ∀ (s : State), s.Legal → Keep.Out (execAckTimeout s) := by
  intros
  unfold execAckTimeout
  repeat' (first | with_reducible assumption | (with_reducible first | apply State.portReplay_legal | apply Keep.next) | split)

theorem execKalsyOpenGroup_legal : ∀ (s : State), s.Legal → Keep.Out (execKalsyOpenGroup s) := by
  intros
  unfold execKalsyOpenGroup
  repeat' (first | with_reducible assumption | (with_reducible first | apply State.setPort_legal | apply Keep.next) | split)

theorem State.klctlPut_legal : ∀ (s : State) (v : Nat), s.Legal → (s.klctlPut v).Legal := by
  intro s v h
  unfold State.klctlPut
  refine ⟨h.1, ?_, ?_, h.2.2.2⟩ <;> dsimp only <;> split
  assumption
  exact h.2.1
  rename_i hc
  exact of_decide_eq_true (Bool.and_eq_true_iff.mp hc).2
  exact h.2.2.1

theorem execKlctlWrite_legal : ∀ (s : State), s.Legal → Keep.Out (execKlctlWrite s) := by
  intros
  unfold execKlctlWrite
  repeat' (first
      | with_reducible assumption
      | (with_reducible first
          | intro _ | apply State.windowWrite_legal | apply State.klctlPut_legal | apply Keep.next))

theorem State.forward_legal : ∀ (s : State) (p : Nat) (m : Msg), s.Legal → (s.forward p m).Legal := by
  intros
  unfold State.forward
  repeat' (first | with_reducible assumption | (with_reducible first | apply State.turnBack_legal | apply State.sendOnward_legal) | split)

theorem State.popMsg_legal : ∀ (s : State) (p : Nat), s.Legal → (s.popMsg p).Legal := by
  intros
  unfold State.popMsg
  repeat' (first | with_reducible assumption | (with_reducible first | apply State.modPort_legal))

theorem State.arrive_legal : ∀ (s : State) (k : MsgKind) (f : State → Nat → Msg → State), s.Legal → (∀ (a : State) (a_1 : Nat) (a_2 :
    Msg), a.Legal → (f a a_1 a_2).Legal) → (s.arrive k f).Legal := by
  intro s k f hs hf
  unfold State.arrive
  dsimp only
  split
  split
  exact hs
  split
  exact State.forward_legal _ _ _ (State.popMsg_legal _ _ hs)
  exact hf _ _ _ hs
  exact hs

theorem State.replyTo_legal : ∀ (s : State) (p : Nat) (m r : Msg), s.Legal → (s.replyTo p m r).Legal := by
  intros
  unfold State.replyTo
  repeat' (first
      | with_reducible assumption | (with_reducible first | apply State.sendMsg_legal)
      | (unfold State.Legal; dsimp only; with_reducible apply Keep.fold))

theorem State.refuse_legal : ∀ (s : State) (p : Nat) (m : Msg), s.Legal → (s.refuse p m).Legal := by
  intros
  unfold State.refuse
  repeat' (first | with_reducible assumption | (with_reducible first | apply State.peerRefused_legal | apply State.sendMsg_legal))

theorem State.serveReq_legal : ∀ (s : State) (p : Nat) (m : Msg) (ok : Bool) (ask : State → Bool × State) (perform : State → State),
    s.Legal → (∀ (a : State), a.Legal → Keep.Snd (ask a)) → (∀ (a : State), a.Legal → (perform a).Legal) → (s.serveReq p m ok ask
    perform).Legal := by
  intros
  unfold State.serveReq
  repeat' (first
      | with_reducible assumption
      | (with_reducible first
          | apply State.sendMsg_legal | apply State.popMsg_legal | apply State.refuse_legal)
      | split | (with_reducible apply Keep.of_pair; with_reducible assumption) | (with_reducible apply_assumption -exfalso -symm))

theorem State.readReq_legal : ∀ (s : State) (p : Nat) (m : Msg) (pa : Nat), s.Legal → (s.readReq p m pa).Legal := by
  intros
  unfold State.readReq
  repeat' (first | with_reducible assumption | (with_reducible first | apply State.linesCleaned_legal | apply State.replyTo_legal))

theorem execReadMessage_legal : ∀ (s : State), s.Legal → Keep.Out (execReadMessage s) := by
  intros
  unfold execReadMessage
  repeat' (first
      | with_reducible assumption
      | (with_reducible first
          | intro _ | apply State.arrive_legal | apply State.serveReq_legal | apply State.visitLines_legal | apply State.readReq_legal
          | apply Keep.next))

theorem State.ackTo_legal : ∀ (s : State) (p : Nat) (m : Msg) (bad : Bool), s.Legal → (s.ackTo p m bad).Legal := by
  intros
  unfold State.ackTo
  repeat' (first | with_reducible assumption | (with_reducible first | apply State.replyTo_legal))

theorem State.writeReq_legal : ∀ (s : State) (p : Nat) (m : Msg) (pa : Nat), s.Legal → (s.writeReq p m pa).Legal := by
  intros
  unfold State.writeReq
  repeat' (first
      | with_reducible assumption
      | (with_reducible first
          | apply State.lineTaken_legal | apply State.clearPoison_legal | apply State.ackTo_legal | apply State.pokeN_legal)
      | split | dsimp only)

theorem execWriteMessage_legal : ∀ (s : State), s.Legal → Keep.Out (execWriteMessage s) := by
  intros
  unfold execWriteMessage
  repeat' (first
      | with_reducible assumption
      | (with_reducible first
          | intro _ | apply State.arrive_legal | apply State.serveReq_legal | apply State.visitLines_legal | apply State.writeReq_legal
          | apply Keep.next))

theorem State.atomicReq_legal : ∀ (s : State) (p : Nat) (m : Msg) (pa n : Nat) (ack : Bool) (f : DWord → Option DWord), s.Legal →
    (s.atomicReq p m pa n ack f).Legal := by
  intros
  unfold State.atomicReq
  repeat' (first
      | with_reducible assumption
      | (with_reducible first
          | apply State.lineTaken_legal | apply State.ackTo_legal | apply State.replyTo_legal | apply State.pokeNat_legal)
      | split | dsimp only)

theorem execAtomicMessage_legal : ∀ (s : State), s.Legal → Keep.Out (execAtomicMessage s) := by
  intros
  unfold execAtomicMessage
  repeat' (first
      | with_reducible assumption
      | (with_reducible first
          | intro _ | apply State.arrive_legal | apply State.serveReq_legal | apply State.visitLines_legal | apply State.atomicReq_legal
          | apply Keep.next))

theorem execCasMessage_legal : ∀ (s : State), s.Legal → Keep.Out (execCasMessage s) := by
  intros
  unfold execCasMessage
  repeat' (first
      | with_reducible assumption
      | (with_reducible first
          | intro _ | apply State.arrive_legal | apply State.serveReq_legal | apply State.visitLines_legal | apply State.atomicReq_legal
          | apply Keep.next))

theorem State.deliverChunk_legal : ∀ (s : State) (via : Nat) (m : Msg), s.Legal → (s.deliverChunk via m).Legal := by
  intros
  unfold State.deliverChunk
  repeat' (first
      | with_reducible assumption
      | (with_reducible first
          | apply State.sPut_legal | apply State.ackTo_legal | apply State.landEvent_legal)
      | split | dsimp only)

theorem State.chunkToTeam_legal : ∀ (s : State) (p : Nat) (m : Msg), s.Legal → (s.chunkToTeam p m).Legal := by
  intros
  unfold State.chunkToTeam
  repeat' (first
      | with_reducible assumption | (with_reducible first | apply State.deliverChunk_legal) | split
      | (unfold State.Legal; dsimp only; with_reducible apply Keep.fold) | dsimp only)

theorem State.chunkToMem_legal : ∀ (s : State) (p : Nat) (m : Msg) (pa : Nat), s.Legal → (s.chunkToMem p m pa).Legal := by
  intros
  unfold State.chunkToMem
  repeat' (first
      | with_reducible assumption
      | (with_reducible first
          | apply State.lineTaken_legal | apply State.ackTo_legal | apply State.pokeN_legal | apply State.clearPoison_legal
          | apply Keep.foldl)
      | split | dsimp only)

theorem execChunkWriteMessage_legal : ∀ (s : State), s.Legal → Keep.Out (execChunkWriteMessage s) := by
  intros
  unfold execChunkWriteMessage
  repeat' (first
      | with_reducible assumption
      | (with_reducible first
          | intro _ | apply State.arrive_legal | apply State.serveReq_legal | apply State.chunkToTeam_legal
          | apply State.visitLines_legal | apply State.chunkToMem_legal | apply Keep.next)
      | split | (with_reducible apply_assumption -exfalso -symm))

theorem execLandingMessage_legal : ∀ (s : State), s.Legal → Keep.Out (execLandingMessage s) := by
  intros
  unfold execLandingMessage
  repeat' (first
      | with_reducible assumption
      | (with_reducible first
          | intro _ | apply State.arrive_legal | apply State.serveReq_legal | apply State.ackTo_legal | apply State.landEvent_legal
          | apply Keep.next)
      | split | (with_reducible apply_assumption -exfalso -symm))

theorem State.heldNext_legal : ∀ (s : State) (h : Nat), s.Legal → (s.heldNext h).Legal := by
  intros
  unfold State.heldNext
  repeat' (first
      | with_reducible assumption
      | (with_reducible first
          | apply State.refuse_legal | apply State.landEvent_legal | apply State.deliverChunk_legal | apply State.sPut_legal
          | apply State.modChunk_legal)
      | split | (unfold State.Legal; dsimp only; with_reducible apply Keep.fold) | dsimp only)

theorem execHeldDelivery_legal : ∀ (s : State), s.Legal → Keep.Out (execHeldDelivery s) := by
  intros
  unfold execHeldDelivery
  repeat' (first | with_reducible assumption | (with_reducible first | apply State.heldNext_legal | apply Keep.next))

theorem State.sendRespAck_legal : ∀ (s : State) (p : Nat) (m : Msg), s.Legal → (s.sendRespAck p m).Legal := by
  intros
  unfold State.sendRespAck
  repeat' (first | with_reducible assumption | (with_reducible first | apply State.sendMsg_legal))

theorem State.laneDone_legal : ∀ (s : State) (team tid win : Nat) (regs : List (Nat × Word)) (acq : Bool), s.Legal → (s.laneDone team
    tid win regs acq).Legal := by
  intros
  unfold State.laneDone
  repeat' (first
      | with_reducible assumption
      | (with_reducible first
          | apply State.acquire_legal | apply State.learns_legal | apply State.waitDone_legal)
      | split)

theorem State.laneBad_legal : ∀ (s : State) (team tid win gpa : Nat), s.Legal → (s.laneBad team tid win gpa).Legal := by
  intros
  unfold State.laneBad
  repeat' (first | with_reducible assumption | (with_reducible first | apply State.consume_legal) | split)

theorem State.chunkGot_legal : ∀ (s : State) (core req row n off : Nat) (b : List Byte), s.Legal → (s.chunkGot core req row n off
    b).Legal := by
  intros
  unfold State.chunkGot
  repeat' (first | with_reducible assumption | (with_reducible first | apply State.chunkSland_legal | apply State.modChunk_legal))

theorem State.responded_legal : ∀ (s : State) (r : RemReq) (m : Msg), s.Legal → (s.responded r m).Legal := by
  intros
  unfold State.responded
  repeat' (first
      | with_reducible assumption
      | (with_reducible first
          | intro _ | apply State.dropReq_legal | apply State.postedFault_legal | apply State.laneBad_legal | apply State.laneDone_legal
          | apply State.watchGot_legal | apply State.chunkGot_legal | apply State.launchGot_legal | apply Keep.foldl)
      | split | (unfold State.Legal; dsimp only; with_reducible apply Keep.fold))

theorem execResponse_legal : ∀ (s : State), s.Legal → Keep.Out (execResponse s) := by
  intros
  unfold execResponse
  repeat' (first
      | with_reducible assumption
      | (with_reducible first
          | intro _ | apply State.arrive_legal | apply State.sendRespAck_legal | apply State.popMsg_legal | apply State.responded_legal
          | apply Keep.next)
      | split)

theorem State.acknowledged_legal : ∀ (s : State) (r : RemReq) (bad : Bool), s.Legal → (s.acknowledged r bad).Legal := by
  intros
  unfold State.acknowledged
  repeat' (first
      | with_reducible assumption
      | (with_reducible first
          | intro _ | apply State.dropReq_legal | apply State.postedFault_legal | apply State.fenceDone_legal
          | apply State.modChunk_legal | apply State.freeLaunch_legal | apply Keep.foldl)
      | split)

theorem execAcknowledgement_legal : ∀ (s : State), s.Legal → Keep.Out (execAcknowledgement s) := by
  intros
  unfold execAcknowledgement
  repeat' (first
      | with_reducible assumption
      | (with_reducible first
          | intro _ | apply State.arrive_legal | apply State.sendRespAck_legal | apply State.popMsg_legal
          | apply State.acknowledged_legal | apply Keep.next)
      | split)

theorem execRefusal_legal : ∀ (s : State), s.Legal → Keep.Out (execRefusal s) := by
  intros
  unfold execRefusal
  repeat' (first
      | with_reducible assumption
      | (with_reducible first
          | intro _ | apply State.arrive_legal | apply State.popMsg_legal | apply State.pathFailed_legal | apply State.refused_legal
          | apply Keep.next)
      | split)

theorem execResponseAcknowledgement_legal : ∀ (s : State), s.Legal → Keep.Out (execResponseAcknowledgement s) := by
  intros
  unfold execResponseAcknowledgement
  repeat' (first
      | with_reducible assumption
      | (with_reducible first
          | intro _ | apply State.arrive_legal | apply State.popMsg_legal | apply Keep.next)
      | (unfold State.Legal; dsimp only; with_reducible apply Keep.fold))

theorem State.badWay_legal : ∀ (s : State) (c : CacheRef) (ln way : Nat), s.Legal → (s.badWay c ln way).Legal := by
  intros
  unfold State.badWay
  repeat' (first
      | with_reducible assumption
      | (with_reducible first
          | intro _ | apply State.event_legal | apply State.giveUp_legal | apply State.setCache_legal | apply Keep.foldl)
      | split | dsimp only)

theorem State.wayError_legal : ∀ (s : State) (c : CacheRef) (ln way : Nat), s.Legal → (s.wayError c ln way).Legal := by
  intros
  unfold State.wayError
  repeat' (first
      | with_reducible assumption | (with_reducible first | apply State.setCache_legal | apply State.badWay_legal) | split | dsimp only)

theorem State.lostData_legal : ∀ (s : State) (ctx core die pa loc : Nat), s.Legal → (s.lostData ctx core die pa loc).Legal := by
  intros
  unfold State.lostData
  repeat' (first | with_reducible assumption | (with_reducible first | apply State.contextFault_legal))

theorem State.poisonedLine_legal : ∀ (s : State) (die pa loc : Nat), s.Legal → (s.poisonedLine die pa loc).Legal := by
  intros
  unfold State.poisonedLine
  repeat' (first | with_reducible assumption | (with_reducible first | apply State.event_legal))

theorem State.cacheUE_legal : ∀ (s : State) (c : CacheRef) (pa way : Nat), s.Legal → (s.cacheUE c pa way).Legal := by
  intros
  unfold State.cacheUE
  repeat' (first
      | with_reducible assumption
      | (with_reducible first
          | apply State.giveUp_legal | apply State.setCache_legal | apply State.setPoison_legal | apply State.lostData_legal
          | apply State.poisonedLine_legal | apply State.badWay_legal)
      | split)

theorem State.dramUE_legal : ∀ (s : State) (pa : Nat), s.Legal → (s.dramUE pa).Legal := by
  intros
  unfold State.dramUE
  repeat' (first
      | with_reducible assumption
      | (with_reducible first
          | apply State.setPoison_legal | apply State.poisonedLine_legal | apply State.countUE_legal)
      | split)

theorem State.storeUE_legal : ∀ (s : State) (core idx : Nat), s.Legal → (s.storeUE core idx).Legal := by
  intros
  unfold State.storeUE
  repeat' (first
      | with_reducible assumption
      | (with_reducible first
          | apply State.modCore_legal | apply State.setPoison_legal | apply State.contextFault_legal)
      | split)

theorem State.logUE_legal : ∀ (s : State) (team idx : Nat), s.Legal → (s.logUE team idx).Legal := by
  intros
  unfold State.logUE
  repeat' (first | with_reducible assumption | (with_reducible first | apply State.killTeam_legal) | split)

theorem State.uncorrectable_legal : ∀ (s : State) (a : ErrLoc), s.Legal → (s.uncorrectable a).Legal := by
  intros
  unfold State.uncorrectable
  repeat' (first
      | with_reducible assumption
      | (with_reducible first
          | intro _ | apply State.cacheUE_legal | apply State.dramUE_legal | apply State.modThread_legal | apply State.modTeam_legal
          | apply State.storeUE_legal | apply State.logUE_legal | apply State.contextFault_legal | apply Keep.foldl)
      | split)

theorem execUncorrectableError_legal : ∀ (s : State), s.Legal → Keep.Out (execUncorrectableError s) := by
  intros
  unfold execUncorrectableError
  repeat' (first | with_reducible assumption | (with_reducible first | apply State.uncorrectable_legal | apply Keep.next))

theorem State.dramCE_legal : ∀ (s : State) (pa : Nat), s.Legal → (s.dramCE pa).Legal := by
  intros
  unfold State.dramCE
  repeat' (first
      | with_reducible assumption | (with_reducible first | apply State.pokeNat_legal | apply State.soon_legal) | split | dsimp only)

theorem State.corrected_legal : ∀ (s : State) (a : ErrLoc), s.Legal → (s.corrected a).Legal := by
  intros
  unfold State.corrected
  repeat' (first | with_reducible assumption | (with_reducible first | apply State.wayError_legal | apply State.dramCE_legal) | split)

theorem execCorrectedError_legal : ∀ (s : State), s.Legal → Keep.Out (execCorrectedError s) := by
  intros
  unfold execCorrectedError
  repeat' (first | with_reducible assumption | (with_reducible first | apply State.corrected_legal | apply Keep.next))

theorem execErrorWindowEnd_legal : ∀ (s : State), s.Legal → Keep.Out (execErrorWindowEnd s) := by
  intros
  unfold execErrorWindowEnd
  repeat' (first
      | with_reducible assumption | (with_reducible first | apply State.modCore_legal | apply State.setCache_legal | apply Keep.next)
      | split)

theorem execPatrolScrub_legal : ∀ (s : State), s.Legal → Keep.Out (execPatrolScrub s) := by
  intros
  unfold execPatrolScrub
  repeat' (first | with_reducible assumption | (with_reducible first | apply Keep.next))

theorem execDramScrub_legal : ∀ (s : State), s.Legal → Keep.Out (execDramScrub s) := by
  intros
  unfold execDramScrub
  repeat' (first | with_reducible assumption | (with_reducible first | apply Keep.next))

theorem execTeamKill_legal : ∀ (s : State), s.Legal → Keep.Out (execTeamKill s) := by
  intros
  unfold execTeamKill
  repeat' (first | with_reducible assumption | (with_reducible first | apply State.killTeam_legal | apply Keep.next) | split)

theorem execContextFault_legal : ∀ (s : State), s.Legal → Keep.Out (execContextFault s) := by
  intros
  unfold execContextFault
  repeat' (first | with_reducible assumption | (with_reducible first | apply State.stopContext_legal | apply Keep.next) | split)

theorem State.retireFrame_legal : ∀ (s : State) (f cause : Nat), s.Legal → (s.retireFrame f cause).Legal := by
  intros
  unfold State.retireFrame
  repeat' (first
      | with_reducible assumption | (with_reducible first | apply State.flushFrames_legal | apply State.modFrame_legal) | split
      | dsimp only)

theorem execFrameRetirement_legal : ∀ (s : State), s.Legal → Keep.Out (execFrameRetirement s) := by
  intros
  unfold execFrameRetirement
  repeat' (first | with_reducible assumption | (with_reducible first | apply State.retireFrame_legal | apply Keep.next) | split)

theorem State.copyFrame_legal : ∀ (s : State) (f g : Nat), s.Legal → (s.copyFrame f g).Legal := by
  intro s f g h
  exact ⟨Keep.wf (fun m c hm => spPut_wf _ _ _ hm) (spClear_wf _ _ _ h.1), h.2⟩

theorem State.freeFrame_legal : ∀ (s : State) (f : Nat), s.Legal → (s.freeFrame f).Legal := by
  intro s f h
  unfold State.freeFrame
  have h1 := State.freeBytes_legal s 65536 h
  revert h1
  generalize s.freeBytes 65536 = p
  intro h1
  obtain ⟨b, u⟩ := p
  exact ⟨spPutN_wf _ _ _ h1.1, h1.2⟩

theorem State.takeSpare_legal : ∀ (s : State) (f g : Nat), s.Legal → (s.takeSpare f g).Legal := by
  intros
  unfold State.takeSpare
  repeat' (first
      | with_reducible assumption
      | (with_reducible first
          | apply State.freeFrame_legal | apply State.modFrame_legal | apply State.copyFrame_legal)
      | split)

theorem State.frameRetired_legal : ∀ (s : State) (f : Nat), s.Legal → (s.frameRetired f).Legal := by
  intros
  unfold State.frameRetired
  repeat' (first
      | with_reducible assumption
      | (with_reducible first
          | apply State.modFrame_legal | apply State.takeSpare_legal | apply State.event_legal)
      | split | (unfold State.Legal; dsimp only; with_reducible apply Keep.fold))

theorem execFrameRetired_legal : ∀ (s : State), s.Legal → Keep.Out (execFrameRetired s) := by
  intros
  unfold execFrameRetired
  repeat' (first | with_reducible assumption | (with_reducible first | apply State.frameRetired_legal | apply Keep.next))

theorem State.fretPut_legal : ∀ (s : State) (v : Nat), s.Legal → (s.fretPut v).Legal := by
  intros
  unfold State.fretPut
  repeat' (first | with_reducible assumption | (with_reducible first | apply State.retireFrame_legal) | split)

theorem State.sparePut_legal : ∀ (s : State) (v : Nat), s.Legal → (s.sparePut v).Legal := by
  intros
  unfold State.sparePut
  repeat' (first | with_reducible assumption | split | (unfold State.Legal; dsimp only; with_reducible apply Keep.fold))

theorem execFretGo_legal : ∀ (s : State), s.Legal → Keep.Out (execFretGo s) := by
  intros
  unfold execFretGo
  repeat' (first
      | with_reducible assumption
      | (with_reducible first
          | intro _ | apply State.windowWrite_legal | apply State.fretPut_legal | apply Keep.next))

theorem execSparePush_legal : ∀ (s : State), s.Legal → Keep.Out (execSparePush s) := by
  intros
  unfold execSparePush
  repeat' (first
      | with_reducible assumption
      | (with_reducible first
          | intro _ | apply State.windowWrite_legal | apply State.sparePut_legal | apply Keep.next))

theorem State.dropDie_legal : ∀ (s : State) (d : Nat), s.Legal → (s.dropDie d).Legal := by
  intros
  unfold State.dropDie
  repeat' (first
      | with_reducible assumption
      | (with_reducible first
          | intro _ | apply State.setPoison_legal | apply State.modDie_legal | apply State.modCore_legal | apply Keep.foldl)
      | split | (unfold State.Legal; dsimp only; with_reducible apply Keep.fold))

theorem State.dropCrown_legal : ∀ (s : State) (d : Nat), s.Legal → (s.dropCrown d).Legal := by
  intros
  unfold State.dropCrown
  repeat' (first
      | with_reducible assumption
      | (with_reducible first
          | apply State.disableQueue_legal | apply State.modDie_legal | apply Keep.foldl)
      | (unfold State.Legal; dsimp only; with_reducible apply Keep.fold))

theorem State.dropBrim_legal : ∀ (s : State) (d : Nat), s.Legal → (s.dropBrim d).Legal := by
  intros
  unfold State.dropBrim
  repeat' (first
      | with_reducible assumption
      | (with_reducible first
          | apply State.moveTraffic_legal | apply State.modHPort_legal | apply Keep.foldl)
      | split | (unfold State.Legal; dsimp only; with_reducible apply Keep.fold))

theorem State.resetCores_legal : ∀ (s : State) (d : Nat), s.Legal → (s.resetCores d).Legal := by
  intros
  unfold State.resetCores
  repeat' (first | with_reducible assumption | (with_reducible first | intro _ | apply State.modCore_legal | apply Keep.foldl))

theorem State.resetQueues_legal : ∀ (s : State) (k : Nat), s.Legal → (s.resetQueues k).Legal := by
  intros
  unfold State.resetQueues
  repeat' (first | with_reducible assumption | (unfold State.Legal; dsimp only; with_reducible apply Keep.fold))

theorem State.resetDie_legal : ∀ (s : State) (d : Nat), s.Legal → (s.resetDie d).Legal := by
  intros
  unfold State.resetDie
  repeat' (first
      | with_reducible assumption
      | (with_reducible first
          | intro _ | apply State.modDie_legal | apply State.resetCores_legal | apply State.resetQueues_legal
          | apply State.portReset_legal | apply State.resendChunks_legal | apply State.setLink_legal | apply Keep.foldl)
      | split)

theorem State.hstatFrom_legal : ∀ (s old : State), s.Legal → old.Legal → (s.hstatFrom old).Legal := by
  intros
  unfold State.hstatFrom
  repeat' (first | with_reducible assumption | (with_reducible first | apply State.raiseV_legal) | split)

theorem State.loseDie_legal : ∀ (s : State) (d : Nat) (reset : Bool), s.Legal → (s.loseDie d reset).Legal := by
  intros
  unfold State.loseDie
  repeat' (first
      | with_reducible assumption
      | (with_reducible first
          | intro _ | apply State.modDie_legal | apply State.faultContext_legal | apply State.eventRec_legal | apply State.dropDie_legal
          | apply State.dropCrown_legal | apply State.dropBrim_legal | apply State.hstatFrom_legal | apply State.resetDie_legal
          | apply Keep.foldl)
      | split | (unfold State.Legal; dsimp only; with_reducible apply Keep.fold))

theorem execDieLoss_legal : ∀ (s : State), s.Legal → Keep.Out (execDieLoss s) := by
  intros
  unfold execDieLoss
  repeat' (first | with_reducible assumption | (with_reducible first | apply State.loseDie_legal | apply Keep.next) | split)

theorem State.takeCensus_legal : ∀ (s : State) (d : Nat), s.Legal → (s.takeCensus d).Legal := by
  intros
  unfold State.takeCensus
  repeat' (first
      | with_reducible assumption
      | (with_reducible first
          | intro _ | apply State.modDie_legal | apply State.dirAsk_legal | apply State.event_legal | apply Keep.foldl)
      | split | (unfold State.Legal; dsimp only; with_reducible apply Keep.fold))

theorem execCensus_legal : ∀ (s : State), s.Legal → Keep.Out (execCensus s) := by
  intros
  unfold execCensus
  repeat' (first | with_reducible assumption | (with_reducible first | apply State.takeCensus_legal | apply Keep.next) | split)

theorem State.zeroStack_legal : ∀ (s : State) (d : Nat), s.Legal → (s.zeroStack d).Legal := by
  intro s d h
  unfold State.zeroStack
  apply State.modDie_legal
  exact ⟨filter_wf _ _ h.1, h.2⟩

theorem execStackZeroing_legal : ∀ (s : State), s.Legal → Keep.Out (execStackZeroing s) := by
  intros
  unfold execStackZeroing
  repeat' (first | with_reducible assumption | (with_reducible first | apply State.zeroStack_legal | apply Keep.next) | split)

theorem execThermalThrottle_legal : ∀ (s : State), s.Legal → Keep.Out (execThermalThrottle s) := by
  intros
  unfold execThermalThrottle
  repeat' (first
      | with_reducible assumption | (with_reducible first | apply State.modDie_legal | apply State.event_legal | apply Keep.next)
      | split)

theorem execThermalThrottleEnd_legal : ∀ (s : State), s.Legal → Keep.Out (execThermalThrottleEnd s) := by
  intros
  unfold execThermalThrottleEnd
  repeat' (first | with_reducible assumption | (with_reducible first | apply State.modDie_legal | apply Keep.next) | split)

theorem execThermalReset_legal : ∀ (s : State), s.Legal → Keep.Out (execThermalReset s) := by
  intros
  unfold execThermalReset
  repeat' (first | with_reducible assumption | (with_reducible first | apply State.loseDie_legal | apply Keep.next) | split)

theorem execPowerThrottle_legal : ∀ (s : State), s.Legal → Keep.Out (execPowerThrottle s) := by
  intros
  unfold execPowerThrottle
  repeat' (first
      | with_reducible assumption | (with_reducible first | apply Keep.next) | split
      | (unfold State.Legal; dsimp only; with_reducible apply Keep.fold))

theorem execPowerThrottleDeep_legal : ∀ (s : State), s.Legal → Keep.Out (execPowerThrottleDeep s) := by
  intros
  unfold execPowerThrottleDeep
  repeat' (first
      | with_reducible assumption | (with_reducible first | apply Keep.next) | split
      | (unfold State.Legal; dsimp only; with_reducible apply Keep.fold))

theorem execPowerThrottleEnd_legal : ∀ (s : State), s.Legal → Keep.Out (execPowerThrottleEnd s) := by
  intros
  unfold execPowerThrottleEnd
  repeat' (first
      | with_reducible assumption | (with_reducible first | apply Keep.next) | split
      | (unfold State.Legal; dsimp only; with_reducible apply Keep.fold))

theorem State.setAt_legal : ∀ (s : State) (d st why : Nat), s.Legal → (s.setAt d st why).Legal := by
  intros
  unfold State.setAt
  repeat' (first | with_reducible assumption | (with_reducible first | apply State.modDie_legal))

theorem execPackageStart_legal : ∀ (s : State), s.Legal → Keep.Out (execPackageStart s) := by
  intros
  unfold execPackageStart
  repeat' (first
      | with_reducible assumption | (with_reducible first | apply State.setAt_legal | apply Keep.next) | split
      | (unfold State.Legal; dsimp only; with_reducible apply Keep.fold))

theorem execDieMeasurement_legal : ∀ (s : State), s.Legal → Keep.Out (execDieMeasurement s) := by
  intros
  unfold execDieMeasurement
  repeat' (first
      | with_reducible assumption | (with_reducible first | apply State.setAt_legal | apply State.modDie_legal | apply Keep.next)
      | split)

theorem State.startDie_legal : ∀ (s : State) (d : Nat) (trained : Bool), s.Legal → (s.startDie d trained).Legal := by
  intros
  unfold State.startDie
  repeat' (first
      | with_reducible assumption
      | (with_reducible first
          | apply State.zeroStack_legal | apply State.modDie_legal | apply State.hstatFrom_legal)
      | split | (unfold State.Legal; dsimp only; with_reducible apply Keep.fold))

theorem execDieStart_legal : ∀ (s : State), s.Legal → Keep.Out (execDieStart s) := by
  intros
  unfold execDieStart
  repeat' (first | with_reducible assumption | (with_reducible first | apply State.startDie_legal | apply Keep.next) | split)

theorem State.drawKey_legal : ∀ (s : State), s.Legal → Keep.Snd s.drawKey := by
  intros
  unfold State.drawKey
  repeat' (first | with_reducible assumption | (with_reducible apply_assumption -exfalso -symm))

theorem State.tryKeyed_legal : ∀ (s : State) (d : Nat), s.Legal → (s.tryKeyed d).Legal := by
  intros
  unfold State.tryKeyed
  repeat' (first
      | with_reducible assumption
      | (with_reducible first
          | intro _ | apply State.setAt_legal | apply State.sendWaiting_legal | apply State.modDie_legal | apply Keep.foldl)
      | split | (unfold State.Legal; dsimp only; with_reducible apply Keep.fold))

theorem State.keyLink_legal : ∀ (s : State) (n : Nat), s.Legal → (s.keyLink n).Legal := by
  intros
  unfold State.keyLink
  repeat' (first
      | with_reducible assumption
      | (with_reducible first
          | apply State.drawKey_legal | apply State.setLink_legal | apply State.tryKeyed_legal | apply Keep.snd))

theorem State.badReport_legal : ∀ (s : State) (d : Nat), s.Legal → (s.badReport d).Legal := by
  intros
  unfold State.badReport
  repeat' (first | with_reducible assumption | (with_reducible first | apply State.setAt_legal | apply State.loseDie_legal))

theorem State.installLink_legal : ∀ (s : State) (n reporter : Nat), s.Legal → (s.installLink n reporter).Legal := by
  intros
  unfold State.installLink
  repeat' (first
      | with_reducible assumption
      | (with_reducible first
          | apply State.hstatFrom_legal | apply State.tryKeyed_legal | apply State.badReport_legal | apply State.keyLink_legal)
      | split | (unfold State.Legal; dsimp only; with_reducible apply Keep.fold))

theorem State.installPort_legal : ∀ (s : State) (p : Nat) (m : Measured), s.Legal → (s.installPort p m).Legal := by
  intros
  unfold State.installPort
  repeat' (first
      | with_reducible assumption
      | (with_reducible first
          | apply State.sendWaiting_legal | apply State.modPort_legal | apply State.failPort_legal)
      | split | (unfold State.Legal; dsimp only; with_reducible apply Keep.fold))

theorem execKeyInstall_legal : ∀ (s : State), s.Legal → Keep.Out (execKeyInstall s) := by
  intros
  unfold execKeyInstall
  repeat' (first
      | with_reducible assumption
      | (with_reducible first
          | apply State.installLink_legal | apply State.installPort_legal | apply Keep.next)
      | split)

theorem State.rollLink_legal : ∀ (s : State) (n : Nat), s.Legal → (s.rollLink n).Legal := by
  intros
  unfold State.rollLink
  repeat' (first
      | with_reducible assumption | (with_reducible first | apply State.setLink_legal | apply State.drawKey_legal) | split
      | (with_reducible apply Keep.of_pair; with_reducible assumption) | dsimp only)

theorem State.rollPort_legal : ∀ (s : State) (p : Nat), s.Legal → (s.rollPort p).Legal := by
  intros
  unfold State.rollPort
  repeat' (first | with_reducible assumption | (with_reducible first | apply State.setPort_legal) | split | dsimp only)

theorem execKeyRollover_legal : ∀ (s : State), s.Legal → Keep.Out (execKeyRollover s) := by
  intros
  unfold execKeyRollover
  repeat' (first
      | with_reducible assumption | (with_reducible first | apply State.rollLink_legal | apply State.rollPort_legal | apply Keep.next)
      | split)

theorem execRolloverAbandon_legal : ∀ (s : State), s.Legal → Keep.Out (execRolloverAbandon s) := by
  intros
  unfold execRolloverAbandon
  repeat' (first
      | with_reducible assumption | (with_reducible first | apply State.setLink_legal | apply State.setPort_legal | apply Keep.next)
      | split | dsimp only)

theorem State.rstDie_legal : ∀ (s : State) (d : Nat), s.Legal → (s.rstDie d).Legal := by
  intros
  unfold State.rstDie
  repeat' (first
      | with_reducible assumption
      | (with_reducible first
          | apply State.hstatFrom_legal | apply State.resetDie_legal | apply State.loseDie_legal)
      | split | dsimp only)

theorem execAtdieRst_legal : ∀ (s : State), s.Legal → Keep.Out (execAtdieRst s) := by
  intros
  unfold execAtdieRst
  repeat' (first
      | with_reducible assumption
      | (with_reducible first
          | intro _ | apply State.windowWrite_legal | apply State.rstDie_legal | apply Keep.next)
      | split)

theorem State.coreReg_legal : ∀ (s : State) (d r v : Nat), s.Legal → Keep.Reg (s.coreReg d r v) := by
  intros
  unfold State.coreReg
  repeat' (first
      | with_reducible assumption
      | (with_reducible first
          | intro _ | apply State.modCore_legal | apply State.mgnCtlPut_legal | apply Keep.reg_some | apply Keep.reg_none
          | apply Keep.reg_ite))

theorem State.dieReg_legal : ∀ (s : State) (d r v : Nat), s.Legal → Keep.Reg (s.dieReg d r v) := by
  intros
  unfold State.dieReg
  repeat' (first
      | with_reducible assumption
      | (with_reducible first
          | intro _ | apply State.modDie_legal | apply State.modRange_legal | apply Keep.reg_some | apply Keep.reg_none
          | apply Keep.reg_ite))

theorem State.queueReg_legal : ∀ (s : State) (d r v : Nat), s.Legal → Keep.Reg (s.queueReg d r v) := by
  intros
  unfold State.queueReg
  repeat' (first
      | with_reducible assumption
      | (with_reducible first
          | intro _ | apply State.eqctlPut_legal | apply State.eqbasePut_legal | apply State.eqstatPut_legal | apply Keep.reg_some
          | apply Keep.reg_none)
      | split)

theorem State.ctxReg_legal : ∀ (s : State) (d r v : Nat), s.Legal → Keep.Reg (s.ctxReg d r v) := by
  intros
  unfold State.ctxReg
  repeat' (first
      | with_reducible assumption
      | (with_reducible first
          | intro _ | apply State.ctxd0Put_legal | apply State.modCtx_legal | apply Keep.reg_some | apply Keep.reg_none
          | apply Keep.reg_ite))

theorem State.cmdErr_legal : ∀ (s : State), s.Legal → s.cmdErr.Legal := by
  intros
  unfold State.cmdErr
  repeat' (first | with_reducible assumption | (unfold State.Legal; dsimp only; with_reducible apply Keep.fold))

theorem State.cmdKeep_legal : ∀ (s : State) (v : Nat), s.Legal → (s.cmdKeep v).Legal := by
  intros
  unfold State.cmdKeep
  repeat' (first | with_reducible assumption | (unfold State.Legal; dsimp only; with_reducible apply Keep.fold))

theorem State.cmdStart_legal : ∀ (s : State) (v : Nat), s.Legal → (s.cmdStart v).Legal := by
  intros
  unfold State.cmdStart
  repeat' (first | with_reducible assumption | (unfold State.Legal; dsimp only; with_reducible apply Keep.fold))

theorem State.cmdctlPut_legal : ∀ (s : State) (v : Nat), s.Legal → (s.cmdctlPut v).Legal := by
  intros
  unfold State.cmdctlPut
  repeat' (first
      | with_reducible assumption
      | (with_reducible first
          | apply State.cmdErr_legal | apply State.cmdKeep_legal | apply State.cmdStart_legal)
      | split | (unfold State.Legal; dsimp only; with_reducible apply Keep.fold))

theorem State.xlatReg_legal : ∀ (s : State) (d r v : Nat), s.Legal → Keep.Reg (s.xlatReg d r v) := by
  intros
  unfold State.xlatReg
  repeat' (first
      | with_reducible assumption
      | (with_reducible first
          | intro _ | apply State.cmdctlPut_legal | apply Keep.reg_some | apply Keep.reg_none | apply Keep.reg_ite)
      | (unfold State.Legal; dsimp only; with_reducible apply Keep.fold))

theorem State.cnReg_legal : ∀ (s : State) (d r v : Nat), s.Legal → Keep.Reg (s.cnReg d r v) := by
  intros
  unfold State.cnReg
  repeat' (first
      | with_reducible assumption
      | (with_reducible first
          | intro _ | apply State.sparePut_legal | apply State.fretPut_legal | apply Keep.reg_some | apply Keep.reg_none
          | apply Keep.reg_ite)
      | (unfold State.Legal; dsimp only; with_reducible apply Keep.fold))

theorem State.klReg_legal : ∀ (s : State) (d r v : Nat), s.Legal → Keep.Reg (s.klReg d r v) := by
  intros
  unfold State.klReg
  repeat' (first
      | with_reducible assumption
      | (with_reducible first
          | intro _ | apply State.klctlPut_legal | apply State.sendWaiting_legal | apply Keep.reg_some | apply Keep.reg_none
          | apply Keep.reg_ite)
      | (unfold State.Legal; dsimp only; with_reducible apply Keep.fold))

theorem State.kpctlPut_legal : ∀ (s : State) (p v : Nat), s.Legal → (s.kpctlPut p v).Legal := by
  intros
  unfold State.kpctlPut
  repeat' (first
      | with_reducible assumption
      | (with_reducible first
          | apply State.portOn_legal | apply State.portTrain_legal | apply State.portOff_legal)
      | split)

theorem State.portRegs_legal : ∀ (s : State) (d r v : Nat), s.Legal → Keep.Reg (s.portRegs d r v) := by
  intros
  unfold State.portRegs
  repeat' (first
      | with_reducible assumption
      | (with_reducible first
          | intro _ | apply State.modPort_legal | apply State.kpctlPut_legal | apply Keep.reg_some | apply Keep.reg_none
          | apply Keep.reg_ite))

theorem State.atReg_legal : ∀ (s : State) (d r v : Nat), s.Legal → Keep.Reg (s.atReg d r v) := by
  intros
  unfold State.atReg
  repeat' (first
      | with_reducible assumption
      | (with_reducible first
          | intro _ | apply State.rstDie_legal | apply Keep.reg_some | apply Keep.reg_none)
      | split | (with_reducible apply Keep.keyint; assumption))

theorem State.hostReg_legal : ∀ (s : State) (d r v : Nat), s.Legal → Keep.Reg (s.hostReg d r v) := by
  intros
  unfold State.hostReg
  repeat' (first
      | with_reducible assumption
      | (with_reducible first
          | intro _ | apply State.modHPort_legal | apply Keep.reg_some | apply Keep.reg_none)
      | split | (with_reducible apply Keep.pwrLimit; assumption))

theorem State.regAt_legal : ∀ (s : State) (d r v : Nat), s.Legal → Keep.Reg (s.regAt d r v) := by
  intros
  unfold State.regAt
  repeat' (first
      | with_reducible assumption
      | (with_reducible first
          | apply Keep.reg_cons | apply Keep.reg_nil | apply State.coreReg_legal | apply State.dieReg_legal | apply State.queueReg_legal
          | apply State.ctxReg_legal | apply State.xlatReg_legal | apply State.cnReg_legal | apply State.klReg_legal
          | apply State.portRegs_legal | apply State.atReg_legal | apply State.hostReg_legal))

theorem State.bar0_legal : ∀ (s : State) (p off size : Nat) (write : Option DWord), s.Legal → (s.bar0 p off size write).Legal := by
  intros
  unfold State.bar0
  repeat' (first
      | with_reducible assumption
      | (with_reducible first
          | apply State.reject_legal | apply State.regAt_legal | apply State.hostReply_legal)
      | split | (with_reducible apply Keep.of_reg; with_reducible assumption) | dsimp only)

theorem State.bar2_legal : ∀ (s : State) (p off size : Nat) (write : Option DWord), s.Legal → (s.bar2 p off size write).Legal := by
  intros
  unfold State.bar2
  repeat' (first
      | with_reducible assumption | (with_reducible first | apply State.reject_legal | apply State.modHPort_legal) | split | dsimp only)

theorem execRegisterWrite_legal : ∀ (s : State), s.Legal → Keep.Out (execRegisterWrite s) := by
  intros
  unfold execRegisterWrite
  repeat' (first
      | with_reducible assumption | (with_reducible first | apply State.bar2_legal | apply State.bar0_legal | apply Keep.next) | split)

theorem State.hostLines_legal : ∀ (s : State) (pa n : Nat) (excl : Bool), s.Legal → Keep.Snd (s.hostLines pa n excl) := by
  intros
  unfold State.hostLines
  repeat' (first
      | with_reducible assumption
      | (with_reducible first
          | intro _ | apply State.dirServe_legal | apply State.setExport_legal | apply Keep.foldl2 | apply Keep.snd)
      | (with_reducible apply Keep.pair))

theorem State.notReady_legal : ∀ (s : State) (p : Nat), s.Legal → (s.notReady p).Legal := by
  intros
  unfold State.notReady
  repeat' (first
      | with_reducible assumption | (with_reducible first | apply State.free_legal | apply State.reject_legal | apply Keep.snd))

theorem State.hostRead_legal : ∀ (s : State) (p pa n : Nat), s.Legal → Keep.Snd (s.hostRead p pa n) := by
  intros
  unfold State.hostRead
  repeat' (first
      | with_reducible assumption
      | (with_reducible first
          | apply State.modHPort_legal | apply State.notReady_legal | apply State.hostLines_legal | apply State.linesCleaned_legal)
      | split | (with_reducible apply Keep.of_pair; with_reducible assumption) | (with_reducible apply Keep.pair))

theorem State.hostWrite_legal : ∀ (s : State) (p pa : Nat) (b : List Byte), s.Legal → Keep.Snd (s.hostWrite p pa b) := by
  intros
  unfold State.hostWrite
  repeat' (first
      | with_reducible assumption
      | (with_reducible first
          | intro _ | apply State.notReady_legal | apply State.hostLines_legal | apply State.dirLeave_legal
          | apply State.lineTaken_legal | apply State.upsetHoods_legal | apply State.pokeN_legal | apply State.clearPoison_legal
          | apply Keep.foldl)
      | split | (with_reducible apply Keep.of_pair; with_reducible assumption) | (with_reducible apply Keep.pair))

theorem State.hostAccess_legal : ∀ (s : State) (p : Nat) (a : HostAcc), s.Legal → Keep.Snd (s.hostAccess p a) := by
  intros
  unfold State.hostAccess
  repeat' (first | with_reducible assumption | (with_reducible first | apply State.hostWrite_legal | apply State.hostRead_legal) | split)

theorem State.hostCome_legal : ∀ (s : State) (p : Nat) (a : HostAcc), s.Legal → (s.hostCome p a).Legal := by
  intros
  unfold State.hostCome
  repeat' (first
      | with_reducible assumption | (with_reducible first | apply State.modHPort_legal | apply State.hostAccess_legal) | split
      | (with_reducible apply Keep.of_pair; with_reducible assumption))

theorem State.hostRetry_legal : ∀ (s : State) (p : Nat), s.Legal → (s.hostRetry p).Legal := by
  intros
  unfold State.hostRetry
  repeat' (first
      | with_reducible assumption | (with_reducible first | apply State.hostAccess_legal | apply State.modHPort_legal) | split
      | (with_reducible apply Keep.of_pair; with_reducible assumption))

theorem execCxlMemRead_legal : ∀ (s : State), s.Legal → Keep.Out (execCxlMemRead s) := by
  intros
  unfold execCxlMemRead
  repeat' (first
      | with_reducible assumption | (with_reducible first | apply State.hostRetry_legal | apply State.hostCome_legal | apply Keep.next)
      | split)

theorem execCxlMemWrite_legal : ∀ (s : State), s.Legal → Keep.Out (execCxlMemWrite s) := by
  intros
  unfold execCxlMemWrite
  repeat' (first
      | with_reducible assumption | (with_reducible first | apply State.hostRetry_legal | apply State.hostCome_legal | apply Keep.next)
      | split)

theorem execDoeSpdmRequest_legal : ∀ (s : State), s.Legal → Keep.Out (execDoeSpdmRequest s) := by
  intros
  unfold execDoeSpdmRequest
  repeat' (first
      | with_reducible assumption | (with_reducible first | apply Keep.next) | split
      | (unfold State.Legal; dsimp only; with_reducible apply Keep.fold))

theorem execMctpRequest_legal : ∀ (s : State), s.Legal → Keep.Out (execMctpRequest s) := by
  intros
  unfold execMctpRequest
  repeat' (first
      | with_reducible assumption | (with_reducible first | apply State.hostReg_legal | apply Keep.next) | split
      | (with_reducible apply Keep.of_reg; with_reducible assumption) | (unfold State.Legal; dsimp only; with_reducible apply Keep.fold))

theorem State.tick_legal : ∀ (s : State), s.Legal → s.tick.Legal := by
  intros
  unfold State.tick
  repeat' (first
      | with_reducible assumption | (with_reducible first | apply State.forgetCame_legal)
      | (unfold State.Legal; dsimp only; with_reducible apply Keep.fold))

theorem State.pass_legal : ∀ (s : State) (n : Nat), s.Legal → (s.pass n).Legal := by
  intros
  unfold State.pass
  repeat' (first
      | with_reducible assumption | (with_reducible first | apply State.tick_legal) | split
      | (unfold State.Legal; dsimp only; with_reducible apply Keep.fold))

/-- Every instruction and every row keeps a state legal. -/
theorem exec_legal (i : Instr) (s : State) (h : s.Legal) : Keep.Out (exec i s) := by
  cases i with
  | nonInstructionEncoding _ _ => exact execNonInstructionEncoding_legal _ _ _ h
  | nop _ => exact execNop_legal _ _ h
  | bra _ _ => exact execBra_legal _ _ _ h
  | brx _ _ => exact execBrx_legal _ _ _ h
  | call _ _ => exact execCall_legal _ _ _ h
  | callx _ _ => exact execCallx_legal _ _ _ h
  | ret _ => exact execRet_legal _ _ h
  | reform _ => exact execReform_legal _ _ h
  | exit _ => exact execExit_legal _ _ h
  | yield _ => exact execYield_legal _ _ h
  | sleep _ _ => exact execSleep_legal _ _ _ h
  | rgn _ => exact execRgn_legal _ _ h
  | trap _ _ => exact execTrap_legal _ _ _ h
  | trapRgn _ _ => exact execTrapRgn_legal _ _ _ h
  | tret _ => exact execTret_legal _ _ h
  | tretSkip _ => exact execTretSkip_legal _ _ h
  | tretRgn _ => exact execTretRgn_legal _ _ h
  | tretRd _ _ => exact execTretRd_legal _ _ _ h
  | bkpt _ _ => exact execBkpt_legal _ _ _ h
  | gets _ _ _ => exact execGets_legal _ _ _ _ h
  | sets _ _ _ => exact execSets_legal _ _ _ _ h
  | movk _ _ _ => exact execMovk_legal _ _ _ _ h
  | trapDelivery => exact execTrapDelivery_legal  _ h
  | longLatencyResult => exact execLongLatencyResult_legal  _ h
  | cardingDraw => exact execCardingDraw_legal  _ h
  | strayDraw => exact execStrayDraw_legal  _ h
  | issue => exact execIssue_legal  _ h
  | overdueDraw => exact execOverdueDraw_legal  _ h
  | stallSwap => exact execStallSwap_legal  _ h
  | rotationSwap => exact execRotationSwap_legal  _ h
  | yieldHoldEnd => exact execYieldHoldEnd_legal  _ h
  | sleepEnd => exact execSleepEnd_legal  _ h
  | registerCacheFill => exact execRegisterCacheFill_legal  _ h
  | replay => exact execReplay_legal  _ h
  | marginWindowEnd => exact execMarginWindowEnd_legal  _ h
  | silentError => exact execSilentError_legal  _ h
  | mgnCtlWrite => exact execMgnCtlWrite_legal  _ h
  | mgnLimitWrite => exact execMgnLimitWrite_legal  _ h
  | quarantineClear => exact execQuarantineClear_legal  _ h
  | iadd _ _ _ => exact execIadd_legal _ _ _ _ h
  | iadd3 _ _ _ => exact execIadd3_legal _ _ _ _ h
  | isub _ _ _ => exact execIsub_legal _ _ _ _ h
  | imul _ _ _ => exact execImul_legal _ _ _ _ h
  | imulh _ _ => exact execImulh_legal _ _ _ h
  | imad _ _ _ => exact execImad_legal _ _ _ _ h
  | imadw _ _ _ => exact execImadw_legal _ _ _ _ h
  | imin _ _ => exact execImin_legal _ _ _ h
  | imax _ _ => exact execImax_legal _ _ _ h
  | iabs _ _ _ => exact execIabs_legal _ _ _ _ h
  | ineg _ _ _ => exact execIneg_legal _ _ _ _ h
  | isad _ _ => exact execIsad_legal _ _ _ h
  | icmp _ _ _ => exact execIcmp_legal _ _ _ _ h
  | iaddc _ _ _ _ => exact execIaddc_legal _ _ _ _ _ h
  | and _ _ => exact execAnd_legal _ _ _ h
  | or _ _ => exact execOr_legal _ _ _ h
  | xor _ _ => exact execXor_legal _ _ _ h
  | not _ _ => exact execNot_legal _ _ _ h
  | tern _ _ _ => exact execTern_legal _ _ _ _ h
  | shl _ _ => exact execShl_legal _ _ _ h
  | shr _ _ => exact execShr_legal _ _ _ h
  | sar _ _ => exact execSar_legal _ _ _ h
  | rotl _ _ => exact execRotl_legal _ _ _ h
  | fshl _ => exact execFshl_legal _ _ h
  | popc _ _ => exact execPopc_legal _ _ _ h
  | clz _ _ => exact execClz_legal _ _ _ h
  | ctz _ _ => exact execCtz_legal _ _ _ h
  | brev _ _ => exact execBrev_legal _ _ _ h
  | bfx _ _ => exact execBfx_legal _ _ _ h
  | bfi _ => exact execBfi_legal _ _ h
  | prmt _ => exact execPrmt_legal _ _ h
  | mov _ _ => exact execMov_legal _ _ _ h
  | movl _ _ _ _ => exact execMovl_legal _ _ _ _ _ h
  | sel _ _ _ _ => exact execSel_legal _ _ _ _ _ h
  | lea _ _ _ _ => exact execLea_legal _ _ _ _ _ h
  | pset _ _ _ => exact execPset_legal _ _ _ _ h
  | plop _ _ _ _ _ => exact execPlop_legal _ _ _ _ _ _ h
  | p2v _ _ _ => exact execP2v_legal _ _ _ _ h
  | v2p _ _ _ _ => exact execV2p_legal _ _ _ _ _ h
  | fadd _ _ => exact execFadd_legal _ _ _ h
  | fmul _ _ => exact execFmul_legal _ _ _ h
  | ffma _ _ _ => exact execFfma_legal _ _ _ _ h
  | fmin _ _ => exact execFmin_legal _ _ _ h
  | fmax _ _ => exact execFmax_legal _ _ _ h
  | fcmp _ _ _ => exact execFcmp_legal _ _ _ _ h
  | fclass _ => exact execFclass_legal _ _ h
  | frnd _ _ => exact execFrnd_legal _ _ _ h
  | fscale _ _ _ _ => exact execFscale_legal _ _ _ _ _ h
  | ffrexp _ _ => exact execFfrexp_legal _ _ _ h
  | dadd _ _ => exact execDadd_legal _ _ _ h
  | dmul _ _ => exact execDmul_legal _ _ _ h
  | dfma _ _ _ => exact execDfma_legal _ _ _ _ h
  | dmin _ _ => exact execDmin_legal _ _ _ h
  | dmax _ _ => exact execDmax_legal _ _ _ h
  | dcmp _ _ _ => exact execDcmp_legal _ _ _ _ h
  | hadd2 _ _ _ _ _ => exact execHadd2_legal _ _ _ _ _ _ h
  | hmul2 _ _ _ _ _ => exact execHmul2_legal _ _ _ _ _ _ h
  | hfma2 _ _ _ _ _ _ => exact execHfma2_legal _ _ _ _ _ _ _ h
  | hmin2 _ _ _ _ => exact execHmin2_legal _ _ _ _ _ h
  | hmax2 _ _ _ _ => exact execHmax2_legal _ _ _ _ _ h
  | rcp _ => exact execRcp_legal _ _ h
  | rsq _ => exact execRsq_legal _ _ h
  | sqrt _ => exact execSqrt_legal _ _ h
  | exp2 _ => exact execExp2_legal _ _ h
  | log2 _ => exact execLog2_legal _ _ h
  | sin _ => exact execSin_legal _ _ h
  | cos _ => exact execCos_legal _ _ h
  | tanh _ => exact execTanh_legal _ _ h
  | cvti _ _ _ _ => exact execCvti_legal _ _ _ _ _ h
  | cvtf _ _ _ _ => exact execCvtf_legal _ _ _ _ _ h
  | cvtq _ _ _ _ => exact execCvtq_legal _ _ _ _ _ h
  | cvtp _ _ _ => exact execCvtp_legal _ _ _ _ h
  | hash _ _ _ => exact execHash_legal _ _ _ _ h
  | crc32c _ _ => exact execCrc32c_legal _ _ _ h
  | rand _ _ _ _ => exact execRand_legal _ _ _ _ _ h
  | spack _ _ => exact execSpack_legal _ _ _ h
  | iaddC _ => exact execIaddC_legal _ _ h
  | isubC _ => exact execIsubC_legal _ _ h
  | imulC _ => exact execImulC_legal _ _ h
  | iminI32C _ => exact execIminI32C_legal _ _ h
  | iminN32C _ => exact execIminN32C_legal _ _ h
  | imaxI32C _ => exact execImaxI32C_legal _ _ h
  | imaxN32C _ => exact execImaxN32C_legal _ _ h
  | iabsC _ => exact execIabsC_legal _ _ h
  | inegC _ => exact execInegC_legal _ _ h
  | imulhI32C _ => exact execImulhI32C_legal _ _ h
  | imulhN32C _ => exact execImulhN32C_legal _ _ h
  | iaddSatI32C _ => exact execIaddSatI32C_legal _ _ h
  | isubSatI32C _ => exact execIsubSatI32C_legal _ _ h
  | iaddSatN32C _ => exact execIaddSatN32C_legal _ _ h
  | isubSatN32C _ => exact execIsubSatN32C_legal _ _ h
  | andC _ => exact execAndC_legal _ _ h
  | orC _ => exact execOrC_legal _ _ h
  | xorC _ => exact execXorC_legal _ _ h
  | notC _ => exact execNotC_legal _ _ h
  | shlC _ => exact execShlC_legal _ _ h
  | shrC _ => exact execShrC_legal _ _ h
  | sarC _ => exact execSarC_legal _ _ h
  | rotlC _ => exact execRotlC_legal _ _ h
  | popcC _ => exact execPopcC_legal _ _ h
  | clzC _ => exact execClzC_legal _ _ h
  | ctzC _ => exact execCtzC_legal _ _ h
  | brevC _ => exact execBrevC_legal _ _ h
  | movC _ => exact execMovC_legal _ _ h
  | faddC _ => exact execFaddC_legal _ _ h
  | fmulC _ => exact execFmulC_legal _ _ h
  | fminC _ => exact execFminC_legal _ _ h
  | fmaxC _ => exact execFmaxC_legal _ _ h
  | fscaleC _ => exact execFscaleC_legal _ _ h
  | frndRnC _ => exact execFrndRnC_legal _ _ h
  | hadd2F16C _ => exact execHadd2F16C_legal _ _ h
  | hmul2F16C _ => exact execHmul2F16C_legal _ _ h
  | hmin2F16C _ => exact execHmin2F16C_legal _ _ h
  | hmax2F16C _ => exact execHmax2F16C_legal _ _ h
  | hadd2Bf16C _ => exact execHadd2Bf16C_legal _ _ h
  | hmul2Bf16C _ => exact execHmul2Bf16C_legal _ _ h
  | hmin2Bf16C _ => exact execHmin2Bf16C_legal _ _ h
  | hmax2Bf16C _ => exact execHmax2Bf16C_legal _ _ h
  | cvtfF32I32C _ => exact execCvtfF32I32C_legal _ _ h
  | cvtfF32N32C _ => exact execCvtfF32N32C_legal _ _ h
  | cvtiI32F32RzC _ => exact execCvtiI32F32RzC_legal _ _ h
  | cvtiN32F32RzC _ => exact execCvtiN32F32RzC_legal _ _ h
  | crc32cC _ => exact execCrc32cC_legal _ _ h
  | part _ _ _ => exact execPart_legal _ _ _ _ h
  | vote _ _ _ _ _ _ => exact execVote_legal _ _ _ _ _ _ _ h
  | pick _ _ _ _ _ _ => exact execPick_legal _ _ _ _ _ _ _ h
  | tred _ _ _ _ _ _ => exact execTred_legal _ _ _ _ _ _ _ h
  | tscan _ _ _ _ _ _ _ => exact execTscan_legal _ _ _ _ _ _ _ _ h
  | matchEq _ _ _ _ _ => exact execMatchEq_legal _ _ _ _ _ _ h
  | collectiveResult => exact execCollectiveResult_legal  _ h
  | barArv _ _ _ _ => exact execBarArv_legal _ _ _ _ _ h
  | barWait _ _ _ _ => exact execBarWait_legal _ _ _ _ _ h
  | barSync _ _ _ => exact execBarSync_legal _ _ _ _ h
  | barQ _ _ _ _ => exact execBarQ_legal _ _ _ _ _ h
  | barrierPhaseComplete => exact execBarrierPhaseComplete_legal  _ h
  | launch _ _ _ _ _ _ => exact execLaunch_legal _ _ _ _ _ _ _ h
  | qres _ _ _ => exact execQres_legal _ _ _ _ h
  | qfree _ => exact execQfree_legal _ _ h
  | launchRecordCopy => exact execLaunchRecordCopy_legal  _ h
  | launchStart => exact execLaunchStart_legal  _ h
  | teamPlacement => exact execTeamPlacement_legal  _ h
  | teamRetire => exact execTeamRetire_legal  _ h
  | launchRetire => exact execLaunchRetire_legal  _ h
  | timeSliceEnd => exact execTimeSliceEnd_legal  _ h
  | switchOut => exact execSwitchOut_legal  _ h
  | switchIn => exact execSwitchIn_legal  _ h
  | contextCreate => exact execContextCreate_legal  _ h
  | contextDestroy => exact execContextDestroy_legal  _ h
  | eqctlWrite => exact execEqctlWrite_legal  _ h
  | hresRead => exact execHresRead_legal  _ h
  | hostPost => exact execHostPost_legal  _ h
  | ld _ _ => exact execLd_legal _ _ _ h
  | st _ _ => exact execSt_legal _ _ _ h
  | lds _ _ => exact execLds_legal _ _ _ h
  | sts _ _ => exact execSts_legal _ _ _ h
  | pfch _ _ _ _ _ _ => exact execPfch_legal _ _ _ _ _ _ _ h
  | cctl _ _ _ _ _ => exact execCctl_legal _ _ _ _ _ _ h
  | pin _ _ _ _ => exact execPin_legal _ _ _ _ _ h
  | unpin _ _ => exact execUnpin_legal _ _ _ h
  | fence _ _ _ => exact execFence_legal _ _ _ _ h
  | atom _ _ => exact execAtom_legal _ _ _ h
  | cas _ _ _ => exact execCas_legal _ _ _ _ h
  | red _ _ => exact execRed_legal _ _ _ h
  | waitw _ _ _ _ _ _ _ => exact execWaitw_legal _ _ _ _ _ _ _ _ h
  | txq _ _ _ => exact execTxq_legal _ _ _ _ h
  | frq _ _ _ => exact execFrq_legal _ _ _ _ h
  | faultRecordEnter => exact execFaultRecordEnter_legal  _ h
  | storeAccepted => exact execStoreAccepted_legal  _ h
  | impreciseStoreFault => exact execImpreciseStoreFault_legal  _ h
  | storeLogFlush => exact execStoreLogFlush_legal  _ h
  | watchWake => exact execWatchWake_legal  _ h
  | watchPoll => exact execWatchPoll_legal  _ h
  | directoryRequest => exact execDirectoryRequest_legal  _ h
  | probe => exact execProbe_legal  _ h
  | probeAcknowledgement => exact execProbeAcknowledgement_legal  _ h
  | entryMerge => exact execEntryMerge_legal  _ h
  | cacheSleep => exact execCacheSleep_legal  _ h
  | cacheWake => exact execCacheWake_legal  _ h
  | hostSnoop => exact execHostSnoop_legal  _ h
  | backInvalidateResponse => exact execBackInvalidateResponse_legal  _ h
  | shoot => exact execShoot_legal  _ h
  | flush => exact execFlush_legal  _ h
  | wake => exact execWake_legal  _ h
  | rangeCommandComplete => exact execRangeCommandComplete_legal  _ h
  | kick _ _ _ => exact execKick_legal _ _ _ _ h
  | landi _ _ _ _ => exact execLandi_legal _ _ _ _ _ h
  | lwait _ _ _ _ => exact execLwait_legal _ _ _ _ _ h
  | lpoll _ _ _ _ => exact execLpoll_legal _ _ _ _ _ h
  | binc _ _ _ _ => exact execBinc_legal _ _ _ _ _ h
  | bhold _ _ _ => exact execBhold_legal _ _ _ _ h
  | brel _ _ _ => exact execBrel_legal _ _ _ _ h
  | cpyq _ _ => exact execCpyq_legal _ _ _ h
  | lwaitRecheck => exact execLwaitRecheck_legal  _ h
  | copyRequestStart => exact execCopyRequestStart_legal  _ h
  | chunkRead => exact execChunkRead_legal  _ h
  | chunkWrite => exact execChunkWrite_legal  _ h
  | landingEvent => exact execLandingEvent_legal  _ h
  | chunkAcknowledgement => exact execChunkAcknowledgement_legal  _ h
  | chunkResend => exact execChunkResend_legal  _ h
  | heldDelivery => exact execHeldDelivery_legal  _ h
  | mldw _ _ _ _ _ _ _ _ => exact execMldw_legal _ _ _ _ _ _ _ _ _ h
  | mldws _ _ _ _ _ _ _ => exact execMldws_legal _ _ _ _ _ _ _ _ h
  | mswap _ _ _ => exact execMswap_legal _ _ _ _ h
  | mma _ _ _ _ _ _ _ _ _ _ => exact execMma_legal _ _ _ _ _ _ _ _ _ _ _ h
  | mgmm _ _ _ _ _ _ _ _ _ _ => exact execMgmm_legal _ _ _ _ _ _ _ _ _ _ _ h
  | mclr _ _ _ _ => exact execMclr_legal _ _ _ _ _ h
  | macld _ _ _ _ _ _ _ => exact execMacld_legal _ _ _ _ _ _ _ _ h
  | macst _ _ _ _ _ _ _ _ _ _ _ _ => exact execMacst_legal _ _ _ _ _ _ _ _ _ _ _ _ _ h
  | macrd _ _ _ _ _ => exact execMacrd_legal _ _ _ _ _ _ h
  | mrow _ _ _ _ _ _ _ => exact execMrow_legal _ _ _ _ _ _ _ _ h
  | mfence _ => exact execMfence_legal _ _ h
  | mwait _ _ => exact execMwait_legal _ _ _ h
  | mwaitCv _ _ _ _ => exact execMwaitCv_legal _ _ _ _ _ h
  | mqry _ _ _ _ => exact execMqry_legal _ _ _ _ _ h
  | cvset _ _ _ => exact execCvset_legal _ _ _ _ h
  | sign _ _ _ => exact execSign_legal _ _ _ _ h
  | matrixOperationStart => exact execMatrixOperationStart_legal  _ h
  | matrixOperationComplete => exact execMatrixOperationComplete_legal  _ h
  | checksumMismatch => exact execChecksumMismatch_legal  _ h
  | logicalMapRebuild => exact execLogicalMapRebuild_legal  _ h
  | dieLinkDataFlit => exact execDieLinkDataFlit_legal  _ h
  | dieLinkTagFlit => exact execDieLinkTagFlit_legal  _ h
  | dieLinkControlFlit => exact execDieLinkControlFlit_legal  _ h
  | dieLinkReplay => exact execDieLinkReplay_legal  _ h
  | dieLinkOpenGroup => exact execDieLinkOpenGroup_legal  _ h
  | entryRebuild => exact execEntryRebuild_legal  _ h
  | kalsyDataFlit => exact execKalsyDataFlit_legal  _ h
  | kalsyTagFlit => exact execKalsyTagFlit_legal  _ h
  | kalsyControlFlit => exact execKalsyControlFlit_legal  _ h
  | kalsyReplay => exact execKalsyReplay_legal  _ h
  | ackTimeout => exact execAckTimeout_legal  _ h
  | kalsyOpenGroup => exact execKalsyOpenGroup_legal  _ h
  | portEnable => exact execPortEnable_legal  _ h
  | portDisable => exact execPortDisable_legal  _ h
  | train => exact execTrain_legal  _ h
  | trainingLock => exact execTrainingLock_legal  _ h
  | trainingTimeout => exact execTrainingTimeout_legal  _ h
  | lossOfLight => exact execLossOfLight_legal  _ h
  | pathWaitExpire => exact execPathWaitExpire_legal  _ h
  | readMessage => exact execReadMessage_legal  _ h
  | writeMessage => exact execWriteMessage_legal  _ h
  | atomicMessage => exact execAtomicMessage_legal  _ h
  | casMessage => exact execCasMessage_legal  _ h
  | chunkWriteMessage => exact execChunkWriteMessage_legal  _ h
  | landingMessage => exact execLandingMessage_legal  _ h
  | response => exact execResponse_legal  _ h
  | acknowledgement => exact execAcknowledgement_legal  _ h
  | refusal => exact execRefusal_legal  _ h
  | responseAcknowledgement => exact execResponseAcknowledgement_legal  _ h
  | klctlWrite => exact execKlctlWrite_legal  _ h
  | uncorrectableError => exact execUncorrectableError_legal  _ h
  | errorWindowEnd => exact execErrorWindowEnd_legal  _ h
  | patrolScrub => exact execPatrolScrub_legal  _ h
  | dramScrub => exact execDramScrub_legal  _ h
  | teamKill => exact execTeamKill_legal  _ h
  | contextFault => exact execContextFault_legal  _ h
  | frameRetirement => exact execFrameRetirement_legal  _ h
  | frameRetired => exact execFrameRetired_legal  _ h
  | fretGo => exact execFretGo_legal  _ h
  | sparePush => exact execSparePush_legal  _ h
  | dieLoss => exact execDieLoss_legal  _ h
  | census => exact execCensus_legal  _ h
  | thermalThrottle => exact execThermalThrottle_legal  _ h
  | thermalReset => exact execThermalReset_legal  _ h
  | powerThrottle => exact execPowerThrottle_legal  _ h
  | powerThrottleDeep => exact execPowerThrottleDeep_legal  _ h
  | atdieRst => exact execAtdieRst_legal  _ h
  | stackZeroing => exact execStackZeroing_legal  _ h
  | dieMeasurement => exact execDieMeasurement_legal  _ h
  | keyInstall => exact execKeyInstall_legal  _ h
  | keyRollover => exact execKeyRollover_legal  _ h
  | rolloverAbandon => exact execRolloverAbandon_legal  _ h
  | packageStart => exact execPackageStart_legal  _ h
  | dieStart => exact execDieStart_legal  _ h
  | cxlMemRead => exact execCxlMemRead_legal  _ h
  | cxlMemWrite => exact execCxlMemWrite_legal  _ h
  | doeSpdmRequest => exact execDoeSpdmRequest_legal  _ h
  | mctpRequest => exact execMctpRequest_legal  _ h
  | registerWrite => exact execRegisterWrite_legal  _ h
  | lifetimeLimit => exact execLifetimeLimit_legal  _ h
  | dieLinkIdleFlit => exact execDieLinkIdleFlit_legal  _ h
  | kalsyIdleFlit => exact execKalsyIdleFlit_legal  _ h
  | correctedError => exact execCorrectedError_legal  _ h
  | thermalThrottleEnd => exact execThermalThrottleEnd_legal  _ h
  | powerThrottleEnd => exact execPowerThrottleEnd_legal  _ h

end Sys2Proof.Machine
end

