-- ==== Sys2Proof/Laws/PerInstr.lean ====
section
/-! SUPPORT. Laws of instructions as syntax, one lemma per constructor: the words an instruction encodes to are as many as the
length that its first word gives (R65). -/

namespace Sys2Proof.Laws

/-- An instruction's words are as many as its first word says (R65). -/
def Length.Statement (i : Instr) : Prop := ∀ ws, encode i = some ws → ws.length = lenOf (ws.headD 0)

/-- The lowest bits of an append are its last part. -/
theorem low2 {n : Nat} (x : BitVec n) (y : BitVec 2) : (x ++ y).extractLsb' 0 2 = y := by
  apply BitVec.eq_of_toNat_eq
  have := y.isLt
  rw [BitVec.extractLsb'_toNat, BitVec.toNat_append, ← Nat.shiftLeft_add_eq_or_of_lt this]
  simp [Nat.shiftLeft_eq]; omega

theorem length_wordsOf (f : Fields) : (wordsOf f).length = lenOf ((wordsOf f).headD 0) := by
  have h1 : ∀ x : Bool, (packTwo f x 0b01#2).extractLsb' 0 2 = 0b01#2 := by
    intro x; unfold packTwo; exact low2 _ _
  have h2 : ∀ x : Bool, (packTwo f x 0b10#2).extractLsb' 0 2 = 0b10#2 := by
    intro x; unfold packTwo; exact low2 _ _
  have hx : ∀ v : BitVec 64, (v.extractLsb' 0 32).extractLsb' 0 2 = v.extractLsb' 0 2 := by
    intro v; apply BitVec.eq_of_toNat_eq; simp
  unfold wordsOf
  split <;> simp [lenOf, hx, h1, h2]

theorem lenOf_cTwo (n : BitVec 8) (c : CTwo) : lenOf (cTwoEnc n c) = 1 := by
  have h : (cTwoEnc n c).extractLsb' 0 2 = 0#2 := low2 _ _
  unfold lenOf; rw [h]; decide

theorem lenOf_cOne (n : BitVec 8) (c : COne) : lenOf (cOneEnc n c) = 1 := by
  have h : (cOneEnc n c).extractLsb' 0 2 = 0#2 := low2 _ _
  unfold lenOf; rw [h]; decide

theorem length_fields {i : Instr} {f : Fields} (hs : encShort i = none) (hf : encFields i = some f) : Length.Statement i := by
  intro ws h
  unfold encode at h
  rw [hs, hf] at h
  obtain rfl := Option.some.inj h
  exact length_wordsOf f

theorem length_short {i : Instr} {w : Word} (hs : encShort i = some w) (hw : lenOf w = 1) : Length.Statement i := by
  intro ws h
  unfold encode at h
  rw [hs] at h
  obtain rfl := Option.some.inj h
  exact hw.symm

theorem length_row {i : Instr} (hs : encShort i = none) (hf : encFields i = none) : Length.Statement i := by
  intro ws h
  unfold encode at h
  rw [hs, hf] at h
  exact absurd h (by simp)

end Sys2Proof.Laws

namespace Sys2Proof.Laws.Length

theorem nonInstructionEncoding (e : EncFault) (len : Nat) : Statement (.nonInstructionEncoding e len) := length_row rfl rfl
theorem nop (h : Hdr) : Statement (.nop h) := length_fields rfl rfl
theorem bra (h : Hdr) (off : Word) : Statement (.bra h off) := length_fields rfl rfl
theorem brx (h : Hdr) (a : VReg) : Statement (.brx h a) := length_fields rfl rfl
theorem call (h : Hdr) (off : Word) : Statement (.call h off) := length_fields rfl rfl
theorem callx (h : Hdr) (a : VReg) : Statement (.callx h a) := length_fields rfl rfl
theorem ret (h : Hdr) : Statement (.ret h) := length_fields rfl rfl
theorem reform (h : Hdr) : Statement (.reform h) := length_fields rfl rfl
theorem exit (h : Hdr) : Statement (.exit h) := length_fields rfl rfl
theorem yield (h : Hdr) : Statement (.yield h) := length_fields rfl rfl
theorem sleep (h : Hdr) (b : SrcB) : Statement (.sleep h b) := length_fields rfl rfl
theorem rgn (h : Hdr) : Statement (.rgn h) := length_fields rfl rfl
theorem trap (h : Hdr) (b : SrcB) : Statement (.trap h b) := length_fields rfl rfl
theorem trapRgn (h : Hdr) (b : SrcB) : Statement (.trapRgn h b) := length_fields rfl rfl
theorem tret (h : Hdr) : Statement (.tret h) := length_fields rfl rfl
theorem tretSkip (h : Hdr) : Statement (.tretSkip h) := length_fields rfl rfl
theorem tretRgn (h : Hdr) : Statement (.tretRgn h) := length_fields rfl rfl
theorem tretRd (h : Hdr) (d : VReg) : Statement (.tretRd h d) := length_fields rfl rfl
theorem bkpt (h : Hdr) (b : SrcB) : Statement (.bkpt h b) := length_fields rfl rfl
theorem gets (h : Hdr) (d : VReg) (sel : SReg) : Statement (.gets h d sel) := length_fields rfl rfl
theorem sets (h : Hdr) (sel : SReg) (b : SrcB) : Statement (.sets h sel b) := length_fields rfl rfl
theorem movk (h : Hdr) (dst : MovkDst) (b : SrcB) : Statement (.movk h dst b) := by cases dst <;> exact length_fields rfl rfl
theorem iadd (o : Two) (ty : IntTy) (sat : Bool) : Statement (.iadd o ty sat) := length_fields rfl rfl
theorem iadd3 (o : Three) (ty : IntTy) (sat : Bool) : Statement (.iadd3 o ty sat) := length_fields rfl rfl
theorem isub (o : Two) (ty : IntTy) (sat : Bool) : Statement (.isub o ty sat) := length_fields rfl rfl
theorem imul (o : Two) (ty : IntTy) (sat : Bool) : Statement (.imul o ty sat) := length_fields rfl rfl
theorem imulh (o : Two) (ty : IntTy) : Statement (.imulh o ty) := length_fields rfl rfl
theorem imad (o : Three) (ty : IntTy) (sat : Bool) : Statement (.imad o ty sat) := length_fields rfl rfl
theorem imadw (o : Three) (ty : IntTy) (sat : Bool) : Statement (.imadw o ty sat) := length_fields rfl rfl
theorem imin (o : Two) (ty : IntTy) : Statement (.imin o ty) := length_fields rfl rfl
theorem imax (o : Two) (ty : IntTy) : Statement (.imax o ty) := length_fields rfl rfl
theorem iabs (o : One) (ty : IntTy) (sat : Bool) : Statement (.iabs o ty sat) := length_fields rfl rfl
theorem ineg (o : One) (ty : IntTy) (sat : Bool) : Statement (.ineg o ty sat) := length_fields rfl rfl
theorem isad (o : Three) (ty : IntTy) : Statement (.isad o ty) := length_fields rfl rfl
theorem icmp (o : Two) (cc : ICond) (ty : IntTy) : Statement (.icmp o cc ty) := length_fields rfl rfl
theorem iaddc (o : Two) (sub : Bool) (p : PReg) (ty : IntTy) : Statement (.iaddc o sub p ty) := length_fields rfl rfl
theorem and (o : Two) (w64 : Bool) : Statement (.and o w64) := length_fields rfl rfl
theorem or (o : Two) (w64 : Bool) : Statement (.or o w64) := length_fields rfl rfl
theorem xor (o : Two) (w64 : Bool) : Statement (.xor o w64) := length_fields rfl rfl
theorem not (o : One) (w64 : Bool) : Statement (.not o w64) := length_fields rfl rfl
theorem tern (o : Three) (tbl : BitVec 8) (w64 : Bool) : Statement (.tern o tbl w64) := length_fields rfl rfl
theorem shl (o : Two) (w64 : Bool) : Statement (.shl o w64) := length_fields rfl rfl
theorem shr (o : Two) (w64 : Bool) : Statement (.shr o w64) := length_fields rfl rfl
theorem sar (o : Two) (w64 : Bool) : Statement (.sar o w64) := length_fields rfl rfl
theorem rotl (o : Two) (w64 : Bool) : Statement (.rotl o w64) := length_fields rfl rfl
theorem fshl (o : Three) : Statement (.fshl o) := length_fields rfl rfl
theorem popc (o : One) (w64 : Bool) : Statement (.popc o w64) := length_fields rfl rfl
theorem clz (o : One) (w64 : Bool) : Statement (.clz o w64) := length_fields rfl rfl
theorem ctz (o : One) (w64 : Bool) : Statement (.ctz o w64) := length_fields rfl rfl
theorem brev (o : One) (w64 : Bool) : Statement (.brev o w64) := length_fields rfl rfl
theorem bfx (o : Two) (sx : Bool) : Statement (.bfx o sx) := length_fields rfl rfl
theorem bfi (o : Three) : Statement (.bfi o) := length_fields rfl rfl
theorem prmt (o : Three) : Statement (.prmt o) := length_fields rfl rfl
theorem mov (o : One) (w : MovW) : Statement (.mov o w) := length_fields rfl rfl
theorem movl (h : Hdr) (d : VReg) (lit : Word) (ty : MovlTy) : Statement (.movl h d lit ty) := length_fields rfl rfl
theorem sel (o : Two) (p : PReg) (neg : Bool) (w64 : Bool) : Statement (.sel o p neg w64) := length_fields rfl rfl
theorem lea (o : Two) (s : BitVec 3) (w64 : Bool) (zx : Bool) : Statement (.lea o s w64 zx) := length_fields rfl rfl
theorem pset (o : Two) (z : Bool) (w64 : Bool) : Statement (.pset o z w64) := length_fields rfl rfl
theorem plop (h : Hdr) (d a b : PReg) (lut : BitVec 4) : Statement (.plop h d a b lut) := length_fields rfl rfl
theorem p2v (h : Hdr) (d : VReg) (ext : Bool) : Statement (.p2v h d ext) := length_fields rfl rfl
theorem v2p (h : Hdr) (a : VReg) (mask : BitVec 7) (ext : Bool) : Statement (.v2p h a mask ext) := length_fields rfl rfl
theorem fadd (o : Two) (m : FRm) : Statement (.fadd o m) := length_fields rfl rfl
theorem fmul (o : Two) (m : FRm) : Statement (.fmul o m) := length_fields rfl rfl
theorem ffma (o : Three) (m : FRm) (c : FCm) : Statement (.ffma o m c) := length_fields rfl rfl
theorem fmin (o : Two) (m : FMods) : Statement (.fmin o m) := length_fields rfl rfl
theorem fmax (o : Two) (m : FMods) : Statement (.fmax o m) := length_fields rfl rfl
theorem fcmp (o : Two) (cc : FCond) (m : FMods) : Statement (.fcmp o cc m) := length_fields rfl rfl
theorem fclass (o : One) : Statement (.fclass o) := length_fields rfl rfl
theorem frnd (o : One) (rm : RoundCode) : Statement (.frnd o rm) := length_fields rfl rfl
theorem fscale (o : Two) (rm : RoundCode) (na aa : Bool) : Statement (.fscale o rm na aa) := length_fields rfl rfl
theorem ffrexp (o : One) (exp : Bool) : Statement (.ffrexp o exp) := length_fields rfl rfl
theorem dadd (o : Two) (m : FRm) : Statement (.dadd o m) := length_fields rfl rfl
theorem dmul (o : Two) (m : FRm) : Statement (.dmul o m) := length_fields rfl rfl
theorem dfma (o : Three) (m : FRm) (c : FCm) : Statement (.dfma o m c) := length_fields rfl rfl
theorem dmin (o : Two) (m : FMods) : Statement (.dmin o m) := length_fields rfl rfl
theorem dmax (o : Two) (m : FMods) : Statement (.dmax o m) := length_fields rfl rfl
theorem dcmp (o : Two) (cc : FCond) (m : FMods) : Statement (.dcmp o cc m) := length_fields rfl rfl
theorem hadd2 (o : Two) (bf : Bool) (rm : RoundCode) (na nb : Bool) : Statement (.hadd2 o bf rm na nb) := length_fields rfl rfl
theorem hmul2 (o : Two) (bf : Bool) (rm : RoundCode) (na nb : Bool) : Statement (.hmul2 o bf rm na nb) := length_fields rfl rfl
theorem hfma2 (o : Three) (bf : Bool) (rm : RoundCode) (na nb nc : Bool) : Statement (.hfma2 o bf rm na nb nc) := length_fields rfl rfl
theorem hmin2 (o : Two) (bf : Bool) (na nb : Bool) : Statement (.hmin2 o bf na nb) := length_fields rfl rfl
theorem hmax2 (o : Two) (bf : Bool) (na nb : Bool) : Statement (.hmax2 o bf na nb) := length_fields rfl rfl
theorem rcp (o : One) : Statement (.rcp o) := length_fields rfl rfl
theorem rsq (o : One) : Statement (.rsq o) := length_fields rfl rfl
theorem sqrt (o : One) : Statement (.sqrt o) := length_fields rfl rfl
theorem exp2 (o : One) : Statement (.exp2 o) := length_fields rfl rfl
theorem log2 (o : One) : Statement (.log2 o) := length_fields rfl rfl
theorem sin (o : One) : Statement (.sin o) := length_fields rfl rfl
theorem cos (o : One) : Statement (.cos o) := length_fields rfl rfl
theorem tanh (o : One) : Statement (.tanh o) := length_fields rfl rfl
theorem cvti (o : One) (src : FName) (ty : IntTy) (rm : RoundCode) : Statement (.cvti o src ty rm) := length_fields rfl rfl
theorem cvtf (o : One) (src : CvtSrc) (dst : FName) (rm : RoundCode) : Statement (.cvtf o src dst rm) := length_fields rfl rfl
theorem cvtq (o : Two) (fmt : QFmt) (sat : Bool) (rm : RoundCode) : Statement (.cvtq o fmt sat rm) := length_fields rfl rfl
theorem cvtp (o : Two) (op : CvtpOp) (rm : RoundCode) : Statement (.cvtp o op rm) := length_fields rfl rfl
theorem hash (o : Two) (k64 h64 : Bool) : Statement (.hash o k64 h64) := length_fields rfl rfl
theorem crc32c (o : Two) (w : CrcW) : Statement (.crc32c o w) := length_fields rfl rfl
theorem rand (h : Hdr) (d : VReg) (b64 : Bool) (ext : Bool) : Statement (.rand h d b64 ext) := length_fields rfl rfl
theorem spack (o : One) (e5m2 : Bool) : Statement (.spack o e5m2) := length_fields rfl rfl
theorem iaddC (c : CTwo) : Statement (.iaddC c) := length_short rfl (lenOf_cTwo _ c)
theorem isubC (c : CTwo) : Statement (.isubC c) := length_short rfl (lenOf_cTwo _ c)
theorem imulC (c : CTwo) : Statement (.imulC c) := length_short rfl (lenOf_cTwo _ c)
theorem iminI32C (c : CTwo) : Statement (.iminI32C c) := length_short rfl (lenOf_cTwo _ c)
theorem iminN32C (c : CTwo) : Statement (.iminN32C c) := length_short rfl (lenOf_cTwo _ c)
theorem imaxI32C (c : CTwo) : Statement (.imaxI32C c) := length_short rfl (lenOf_cTwo _ c)
theorem imaxN32C (c : CTwo) : Statement (.imaxN32C c) := length_short rfl (lenOf_cTwo _ c)
theorem iabsC (c : COne) : Statement (.iabsC c) := length_short rfl (lenOf_cOne _ c)
theorem inegC (c : COne) : Statement (.inegC c) := length_short rfl (lenOf_cOne _ c)
theorem imulhI32C (c : CTwo) : Statement (.imulhI32C c) := length_short rfl (lenOf_cTwo _ c)
theorem imulhN32C (c : CTwo) : Statement (.imulhN32C c) := length_short rfl (lenOf_cTwo _ c)
theorem iaddSatI32C (c : CTwo) : Statement (.iaddSatI32C c) := length_short rfl (lenOf_cTwo _ c)
theorem isubSatI32C (c : CTwo) : Statement (.isubSatI32C c) := length_short rfl (lenOf_cTwo _ c)
theorem iaddSatN32C (c : CTwo) : Statement (.iaddSatN32C c) := length_short rfl (lenOf_cTwo _ c)
theorem isubSatN32C (c : CTwo) : Statement (.isubSatN32C c) := length_short rfl (lenOf_cTwo _ c)
theorem andC (c : CTwo) : Statement (.andC c) := length_short rfl (lenOf_cTwo _ c)
theorem orC (c : CTwo) : Statement (.orC c) := length_short rfl (lenOf_cTwo _ c)
theorem xorC (c : CTwo) : Statement (.xorC c) := length_short rfl (lenOf_cTwo _ c)
theorem notC (c : COne) : Statement (.notC c) := length_short rfl (lenOf_cOne _ c)
theorem shlC (c : CTwo) : Statement (.shlC c) := length_short rfl (lenOf_cTwo _ c)
theorem shrC (c : CTwo) : Statement (.shrC c) := length_short rfl (lenOf_cTwo _ c)
theorem sarC (c : CTwo) : Statement (.sarC c) := length_short rfl (lenOf_cTwo _ c)
theorem rotlC (c : CTwo) : Statement (.rotlC c) := length_short rfl (lenOf_cTwo _ c)
theorem popcC (c : COne) : Statement (.popcC c) := length_short rfl (lenOf_cOne _ c)
theorem clzC (c : COne) : Statement (.clzC c) := length_short rfl (lenOf_cOne _ c)
theorem ctzC (c : COne) : Statement (.ctzC c) := length_short rfl (lenOf_cOne _ c)
theorem brevC (c : COne) : Statement (.brevC c) := length_short rfl (lenOf_cOne _ c)
theorem movC (c : COne) : Statement (.movC c) := length_short rfl (lenOf_cOne _ c)
theorem faddC (c : CTwo) : Statement (.faddC c) := length_short rfl (lenOf_cTwo _ c)
theorem fmulC (c : CTwo) : Statement (.fmulC c) := length_short rfl (lenOf_cTwo _ c)
theorem fminC (c : CTwo) : Statement (.fminC c) := length_short rfl (lenOf_cTwo _ c)
theorem fmaxC (c : CTwo) : Statement (.fmaxC c) := length_short rfl (lenOf_cTwo _ c)
theorem fscaleC (c : CTwo) : Statement (.fscaleC c) := length_short rfl (lenOf_cTwo _ c)
theorem frndRnC (c : COne) : Statement (.frndRnC c) := length_short rfl (lenOf_cOne _ c)
theorem hadd2F16C (c : CTwo) : Statement (.hadd2F16C c) := length_short rfl (lenOf_cTwo _ c)
theorem hmul2F16C (c : CTwo) : Statement (.hmul2F16C c) := length_short rfl (lenOf_cTwo _ c)
theorem hmin2F16C (c : CTwo) : Statement (.hmin2F16C c) := length_short rfl (lenOf_cTwo _ c)
theorem hmax2F16C (c : CTwo) : Statement (.hmax2F16C c) := length_short rfl (lenOf_cTwo _ c)
theorem hadd2Bf16C (c : CTwo) : Statement (.hadd2Bf16C c) := length_short rfl (lenOf_cTwo _ c)
theorem hmul2Bf16C (c : CTwo) : Statement (.hmul2Bf16C c) := length_short rfl (lenOf_cTwo _ c)
theorem hmin2Bf16C (c : CTwo) : Statement (.hmin2Bf16C c) := length_short rfl (lenOf_cTwo _ c)
theorem hmax2Bf16C (c : CTwo) : Statement (.hmax2Bf16C c) := length_short rfl (lenOf_cTwo _ c)
theorem cvtfF32I32C (c : COne) : Statement (.cvtfF32I32C c) := length_short rfl (lenOf_cOne _ c)
theorem cvtfF32N32C (c : COne) : Statement (.cvtfF32N32C c) := length_short rfl (lenOf_cOne _ c)
theorem cvtiI32F32RzC (c : COne) : Statement (.cvtiI32F32RzC c) := length_short rfl (lenOf_cOne _ c)
theorem cvtiN32F32RzC (c : COne) : Statement (.cvtiN32F32RzC c) := length_short rfl (lenOf_cOne _ c)
theorem crc32cC (c : CTwo) : Statement (.crc32cC c) := length_short rfl (lenOf_cTwo _ c)
theorem part (h : Hdr) (op : PartOp) (d : VReg) : Statement (.part h op d) := length_fields rfl rfl
theorem vote (h : Hdr) (op : VoteOp) (neg : Bool) (d : VReg) (pa : PReg) (b : SrcB) : Statement (.vote h op neg d pa b) := length_fields rfl rfl
theorem pick (h : Hdr) (mode : PickMode) (delta : BitVec 6) (d a : VReg) (b : SrcB) : Statement (.pick h mode delta d a b) := length_fields rfl rfl
theorem tred (h : Hdr) (op : RedKind) (ty : RedTy) (d a : VReg) (b : SrcB) : Statement (.tred h op ty d a b) := length_fields rfl rfl
theorem tscan (h : Hdr) (op : RedKind) (ty : RedTy) (exc : Bool) (d a : VReg) (b : SrcB) : Statement (.tscan h op ty exc d a b) := length_fields rfl rfl
theorem matchEq (h : Hdr) (w64 : Bool) (d a : VReg) (b : SrcB) : Statement (.matchEq h w64 d a b) := length_fields rfl rfl
theorem barArv (h : Hdr) (lvl : BarLevel) (idx : BitVec 4) (d : VReg) : Statement (.barArv h lvl idx d) := length_fields rfl rfl
theorem barWait (h : Hdr) (lvl : BarLevel) (idx : BitVec 4) (a : VReg) : Statement (.barWait h lvl idx a) := length_fields rfl rfl
theorem barSync (h : Hdr) (lvl : BarLevel) (idx : BitVec 4) : Statement (.barSync h lvl idx) := length_fields rfl rfl
theorem barQ (h : Hdr) (lvl : BarLevel) (idx : BitVec 4) (d : VReg) : Statement (.barQ h lvl idx d) := length_fields rfl rfl
theorem launch (h : Hdr) (sys res : Bool) (d a : VReg) (b : SrcB) : Statement (.launch h sys res d a b) := length_fields rfl rfl
theorem qres (h : Hdr) (d : VReg) (b : SrcB) : Statement (.qres h d b) := length_fields rfl rfl
theorem qfree (h : Hdr) : Statement (.qfree h) := length_fields rfl rfl
theorem ld (m : MemIns) (ac : AccCode) : Statement (.ld m ac) := length_fields rfl rfl
theorem st (m : MemIns) (ac : AccCode) : Statement (.st m ac) := length_fields rfl rfl
theorem lds (m : MemIns) (sc : SpCode) : Statement (.lds m sc) := length_fields rfl rfl
theorem sts (m : MemIns) (sc : SpCode) : Statement (.sts m sc) := length_fields rfl rfl
theorem pfch (h : Hdr) (a : VReg) (mem : MemOp) (ex : Bool) (hint : PfHint) (scope : Scope) : Statement (.pfch h a mem ex hint scope) := length_fields rfl rfl
theorem cctl (h : Hdr) (a : VReg) (mem : MemOp) (op : CctlOp) (scope : Scope) : Statement (.cctl h a mem op scope) := length_fields rfl rfl
theorem pin (h : Hdr) (a b : VReg) (idx : BitVec 2) : Statement (.pin h a b idx) := length_fields rfl rfl
theorem unpin (h : Hdr) (idx : BitVec 2) : Statement (.unpin h idx) := length_fields rfl rfl
theorem fence (h : Hdr) (ord : FenceOrder) (scope : Scope) : Statement (.fence h ord scope) := length_fields rfl rfl
theorem atom (m : MemIns) (op : AtomOp) : Statement (.atom m op) := length_fields rfl rfl
theorem cas (m : MemIns) (w64 : Bool) (c : VReg) : Statement (.cas m w64 c) := length_fields rfl rfl
theorem red (m : MemIns) (op : RedOp) : Statement (.red m op) := length_fields rfl rfl
theorem waitw (h : Hdr) (cond : WCond) (ord : Order) (scope : Scope) (d a b : VReg) : Statement (.waitw h cond ord scope d a b) := length_fields rfl rfl
theorem txq (h : Hdr) (d a : VReg) : Statement (.txq h d a) := length_fields rfl rfl
theorem frq (h : Hdr) (d a : VReg) : Statement (.frq h d a) := length_fields rfl rfl
theorem kick (h : Hdr) (a : VReg) (mem : MemOp) : Statement (.kick h a mem) := length_fields rfl rfl
theorem landi (h : Hdr) (scope : Scope) (a : VReg) (b : SrcB) : Statement (.landi h scope a b) := length_fields rfl rfl
theorem lwait (h : Hdr) (d a : VReg) (b : SrcB) : Statement (.lwait h d a b) := length_fields rfl rfl
theorem lpoll (h : Hdr) (d a : VReg) (b : SrcB) : Statement (.lpoll h d a b) := length_fields rfl rfl
theorem binc (h : Hdr) (d a : VReg) (b : SrcB) : Statement (.binc h d a b) := length_fields rfl rfl
theorem bhold (h : Hdr) (slot : BitVec 4) (a : VReg) : Statement (.bhold h slot a) := length_fields rfl rfl
theorem brel (h : Hdr) (clr : Bool) (b : SrcB) : Statement (.brel h clr b) := length_fields rfl rfl
theorem cpyq (h : Hdr) (d : VReg) : Statement (.cpyq h d) := length_fields rfl rfl
theorem mldw (h : Hdr) (fmt : MFmt) (ns e : Bool) (d a : VReg) (b : SrcB) (cv : Option (BitVec 4)) : Statement (.mldw h fmt ns e d a b cv) := length_fields rfl rfl
theorem mldws (h : Hdr) (e5m2 e : Bool) (d a : VReg) (b : SrcB) (cv : Option (BitVec 4)) : Statement (.mldws h e5m2 e d a b cv) := length_fields rfl rfl
theorem mswap (h : Hdr) (e : Bool) (f : CvForm) : Statement (.mswap h e f) := length_fields rfl rfl
theorem mma (h : Hdr) (fmt : MFmt) (ns z e : Bool) (d a : VReg) (b : ExtB) (c : VReg) (cv : Option (BitVec 4)) : Statement (.mma h fmt ns z e d a b c cv) := length_fields rfl rfl
theorem mgmm (h : Hdr) (fmt : MFmt) (ns bin e : Bool) (d a : VReg) (b : ExtB) (c : VReg) (cv : Option (BitVec 4)) : Statement (.mgmm h fmt ns bin e d a b c cv) := length_fields rfl rfl
theorem mclr (h : Hdr) (e : Bool) (d : VReg) (f : CvForm) : Statement (.mclr h e d f) := length_fields rfl rfl
theorem macld (h : Hdr) (acc e : Bool) (d a : VReg) (b : SrcB) (cv : Option (BitVec 4)) : Statement (.macld h acc e d a b cv) := length_fields rfl rfl
theorem macst (h : Hdr) (ofmt : OFmt) (sx e sat clr : Bool) (d a : VReg) (b : ExtB) (c : VReg) (cv : Option (BitVec 4)) (rm : StRm) : Statement (.macst h ofmt sx e sat clr d a b c cv rm) := length_fields rfl rfl
theorem macrd (h : Hdr) (e : Bool) (d a : VReg) (b : SrcB) : Statement (.macrd h e d a b) := length_fields rfl rfl
theorem mrow (h : Hdr) (op : RowOp) (acc e : Bool) (d a : VReg) (f : CvForm) : Statement (.mrow h op acc e d a f) := length_fields rfl rfl
theorem mfence (h : Hdr) : Statement (.mfence h) := length_fields rfl rfl
theorem mwait (h : Hdr) (e : Bool) : Statement (.mwait h e) := length_fields rfl rfl
theorem mwaitCv (h : Hdr) (e : Bool) (n : BitVec 4) (b : SrcB) : Statement (.mwaitCv h e n b) := length_fields rfl rfl
theorem mqry (h : Hdr) (clr e : Bool) (d : VReg) : Statement (.mqry h clr e d) := length_fields rfl rfl
theorem cvset (h : Hdr) (d : BitVec 4) (b : SrcB) : Statement (.cvset h d b) := length_fields rfl rfl
theorem sign (h : Hdr) (d : VReg) (a : BitVec 4) : Statement (.sign h d a) := length_fields rfl rfl
theorem trapDelivery : Statement .trapDelivery := length_row rfl rfl
theorem longLatencyResult : Statement .longLatencyResult := length_row rfl rfl
theorem cardingDraw : Statement .cardingDraw := length_row rfl rfl
theorem strayDraw : Statement .strayDraw := length_row rfl rfl
theorem issue : Statement .issue := length_row rfl rfl
theorem overdueDraw : Statement .overdueDraw := length_row rfl rfl
theorem stallSwap : Statement .stallSwap := length_row rfl rfl
theorem rotationSwap : Statement .rotationSwap := length_row rfl rfl
theorem yieldHoldEnd : Statement .yieldHoldEnd := length_row rfl rfl
theorem sleepEnd : Statement .sleepEnd := length_row rfl rfl
theorem registerCacheFill : Statement .registerCacheFill := length_row rfl rfl
theorem replay : Statement .replay := length_row rfl rfl
theorem marginWindowEnd : Statement .marginWindowEnd := length_row rfl rfl
theorem silentError : Statement .silentError := length_row rfl rfl
theorem mgnCtlWrite : Statement .mgnCtlWrite := length_row rfl rfl
theorem mgnLimitWrite : Statement .mgnLimitWrite := length_row rfl rfl
theorem quarantineClear : Statement .quarantineClear := length_row rfl rfl
theorem collectiveResult : Statement .collectiveResult := length_row rfl rfl
theorem barrierPhaseComplete : Statement .barrierPhaseComplete := length_row rfl rfl
theorem launchRecordCopy : Statement .launchRecordCopy := length_row rfl rfl
theorem launchStart : Statement .launchStart := length_row rfl rfl
theorem teamPlacement : Statement .teamPlacement := length_row rfl rfl
theorem teamRetire : Statement .teamRetire := length_row rfl rfl
theorem launchRetire : Statement .launchRetire := length_row rfl rfl
theorem timeSliceEnd : Statement .timeSliceEnd := length_row rfl rfl
theorem switchOut : Statement .switchOut := length_row rfl rfl
theorem switchIn : Statement .switchIn := length_row rfl rfl
theorem contextCreate : Statement .contextCreate := length_row rfl rfl
theorem contextDestroy : Statement .contextDestroy := length_row rfl rfl
theorem eqctlWrite : Statement .eqctlWrite := length_row rfl rfl
theorem hresRead : Statement .hresRead := length_row rfl rfl
theorem hostPost : Statement .hostPost := length_row rfl rfl
theorem faultRecordEnter : Statement .faultRecordEnter := length_row rfl rfl
theorem storeAccepted : Statement .storeAccepted := length_row rfl rfl
theorem impreciseStoreFault : Statement .impreciseStoreFault := length_row rfl rfl
theorem storeLogFlush : Statement .storeLogFlush := length_row rfl rfl
theorem watchWake : Statement .watchWake := length_row rfl rfl
theorem watchPoll : Statement .watchPoll := length_row rfl rfl
theorem directoryRequest : Statement .directoryRequest := length_row rfl rfl
theorem probe : Statement .probe := length_row rfl rfl
theorem probeAcknowledgement : Statement .probeAcknowledgement := length_row rfl rfl
theorem entryMerge : Statement .entryMerge := length_row rfl rfl
theorem cacheSleep : Statement .cacheSleep := length_row rfl rfl
theorem cacheWake : Statement .cacheWake := length_row rfl rfl
theorem hostSnoop : Statement .hostSnoop := length_row rfl rfl
theorem backInvalidateResponse : Statement .backInvalidateResponse := length_row rfl rfl
theorem shoot : Statement .shoot := length_row rfl rfl
theorem flush : Statement .flush := length_row rfl rfl
theorem wake : Statement .wake := length_row rfl rfl
theorem rangeCommandComplete : Statement .rangeCommandComplete := length_row rfl rfl
theorem lwaitRecheck : Statement .lwaitRecheck := length_row rfl rfl
theorem copyRequestStart : Statement .copyRequestStart := length_row rfl rfl
theorem chunkRead : Statement .chunkRead := length_row rfl rfl
theorem chunkWrite : Statement .chunkWrite := length_row rfl rfl
theorem landingEvent : Statement .landingEvent := length_row rfl rfl
theorem chunkAcknowledgement : Statement .chunkAcknowledgement := length_row rfl rfl
theorem chunkResend : Statement .chunkResend := length_row rfl rfl
theorem heldDelivery : Statement .heldDelivery := length_row rfl rfl
theorem matrixOperationStart : Statement .matrixOperationStart := length_row rfl rfl
theorem matrixOperationComplete : Statement .matrixOperationComplete := length_row rfl rfl
theorem checksumMismatch : Statement .checksumMismatch := length_row rfl rfl
theorem logicalMapRebuild : Statement .logicalMapRebuild := length_row rfl rfl
theorem dieLinkDataFlit : Statement .dieLinkDataFlit := length_row rfl rfl
theorem dieLinkTagFlit : Statement .dieLinkTagFlit := length_row rfl rfl
theorem dieLinkControlFlit : Statement .dieLinkControlFlit := length_row rfl rfl
theorem dieLinkReplay : Statement .dieLinkReplay := length_row rfl rfl
theorem dieLinkOpenGroup : Statement .dieLinkOpenGroup := length_row rfl rfl
theorem entryRebuild : Statement .entryRebuild := length_row rfl rfl
theorem kalsyDataFlit : Statement .kalsyDataFlit := length_row rfl rfl
theorem kalsyTagFlit : Statement .kalsyTagFlit := length_row rfl rfl
theorem kalsyControlFlit : Statement .kalsyControlFlit := length_row rfl rfl
theorem kalsyReplay : Statement .kalsyReplay := length_row rfl rfl
theorem ackTimeout : Statement .ackTimeout := length_row rfl rfl
theorem kalsyOpenGroup : Statement .kalsyOpenGroup := length_row rfl rfl
theorem portEnable : Statement .portEnable := length_row rfl rfl
theorem portDisable : Statement .portDisable := length_row rfl rfl
theorem train : Statement .train := length_row rfl rfl
theorem trainingLock : Statement .trainingLock := length_row rfl rfl
theorem trainingTimeout : Statement .trainingTimeout := length_row rfl rfl
theorem lossOfLight : Statement .lossOfLight := length_row rfl rfl
theorem pathWaitExpire : Statement .pathWaitExpire := length_row rfl rfl
theorem readMessage : Statement .readMessage := length_row rfl rfl
theorem writeMessage : Statement .writeMessage := length_row rfl rfl
theorem atomicMessage : Statement .atomicMessage := length_row rfl rfl
theorem casMessage : Statement .casMessage := length_row rfl rfl
theorem chunkWriteMessage : Statement .chunkWriteMessage := length_row rfl rfl
theorem landingMessage : Statement .landingMessage := length_row rfl rfl
theorem response : Statement .response := length_row rfl rfl
theorem acknowledgement : Statement .acknowledgement := length_row rfl rfl
theorem refusal : Statement .refusal := length_row rfl rfl
theorem responseAcknowledgement : Statement .responseAcknowledgement := length_row rfl rfl
theorem klctlWrite : Statement .klctlWrite := length_row rfl rfl
theorem uncorrectableError : Statement .uncorrectableError := length_row rfl rfl
theorem errorWindowEnd : Statement .errorWindowEnd := length_row rfl rfl
theorem patrolScrub : Statement .patrolScrub := length_row rfl rfl
theorem dramScrub : Statement .dramScrub := length_row rfl rfl
theorem teamKill : Statement .teamKill := length_row rfl rfl
theorem contextFault : Statement .contextFault := length_row rfl rfl
theorem frameRetirement : Statement .frameRetirement := length_row rfl rfl
theorem frameRetired : Statement .frameRetired := length_row rfl rfl
theorem fretGo : Statement .fretGo := length_row rfl rfl
theorem sparePush : Statement .sparePush := length_row rfl rfl
theorem dieLoss : Statement .dieLoss := length_row rfl rfl
theorem census : Statement .census := length_row rfl rfl
theorem thermalThrottle : Statement .thermalThrottle := length_row rfl rfl
theorem thermalReset : Statement .thermalReset := length_row rfl rfl
theorem powerThrottle : Statement .powerThrottle := length_row rfl rfl
theorem powerThrottleDeep : Statement .powerThrottleDeep := length_row rfl rfl
theorem atdieRst : Statement .atdieRst := length_row rfl rfl
theorem stackZeroing : Statement .stackZeroing := length_row rfl rfl
theorem dieMeasurement : Statement .dieMeasurement := length_row rfl rfl
theorem keyInstall : Statement .keyInstall := length_row rfl rfl
theorem keyRollover : Statement .keyRollover := length_row rfl rfl
theorem rolloverAbandon : Statement .rolloverAbandon := length_row rfl rfl
theorem packageStart : Statement .packageStart := length_row rfl rfl
theorem dieStart : Statement .dieStart := length_row rfl rfl
theorem cxlMemRead : Statement .cxlMemRead := length_row rfl rfl
theorem cxlMemWrite : Statement .cxlMemWrite := length_row rfl rfl
theorem doeSpdmRequest : Statement .doeSpdmRequest := length_row rfl rfl
theorem mctpRequest : Statement .mctpRequest := length_row rfl rfl
theorem registerWrite : Statement .registerWrite := length_row rfl rfl
theorem lifetimeLimit : Statement .lifetimeLimit := length_row rfl rfl
theorem dieLinkIdleFlit : Statement .dieLinkIdleFlit := length_row rfl rfl
theorem kalsyIdleFlit : Statement .kalsyIdleFlit := length_row rfl rfl
theorem correctedError : Statement .correctedError := length_row rfl rfl
theorem thermalThrottleEnd : Statement .thermalThrottleEnd := length_row rfl rfl
theorem powerThrottleEnd : Statement .powerThrottleEnd := length_row rfl rfl

end Sys2Proof.Laws.Length
end

