-- ==== Sys2Proof/Laws/State.lean ====
section
/-! SUPPORT. What each update of the state leaves in each field: one lemma per field per update. -/

namespace Sys2Proof.Machine.State

/-! ### setCore -/

@[simp] theorem setCore_clk (s : State) (c : Nat) (k : Core) : (s.setCore c k).clk = s.clk := rfl
@[simp] theorem setCore_pkgid (s : State) (c : Nat) (k : Core) : (s.setCore c k).pkgid = s.pkgid := rfl
@[simp] theorem setCore_hopmax (s : State) (c : Nat) (k : Core) : (s.setCore c k).hopmax = s.hopmax := rfl
@[simp] theorem setCore_threads (s : State) (c : Nat) (k : Core) : (s.setCore c k).threads = s.threads := rfl
@[simp] theorem setCore_teams (s : State) (c : Nat) (k : Core) : (s.setCore c k).teams = s.teams := rfl
@[simp] theorem setCore_cores (s : State) (c : Nat) (k : Core) : (s.setCore c k).cores = s.cores.put c k := rfl
@[simp] theorem setCore_dies (s : State) (c : Nat) (k : Core) : (s.setCore c k).dies = s.dies := rfl
@[simp] theorem setCore_dirs (s : State) (c : Nat) (k : Core) : (s.setCore c k).dirs = s.dirs := rfl
@[simp] theorem setCore_walkc (s : State) (c : Nat) (k : Core) : (s.setCore c k).walkc = s.walkc := rfl
@[simp] theorem setCore_ctxs (s : State) (c : Nat) (k : Core) : (s.setCore c k).ctxs = s.ctxs := rfl
@[simp] theorem setCore_queues (s : State) (c : Nat) (k : Core) : (s.setCore c k).queues = s.queues := rfl
@[simp] theorem setCore_launches (s : State) (c : Nat) (k : Core) : (s.setCore c k).launches = s.launches := rfl
@[simp] theorem setCore_nextLid (s : State) (c : Nat) (k : Core) : (s.setCore c k).nextLid = s.nextLid := rfl
@[simp] theorem setCore_rrq (s : State) (c : Nat) (k : Core) : (s.setCore c k).rrq = s.rrq := rfl
@[simp] theorem setCore_xregs (s : State) (c : Nat) (k : Core) : (s.setCore c k).xregs = s.xregs := rfl
@[simp] theorem setCore_cmd (s : State) (c : Nat) (k : Core) : (s.setCore c k).cmd = s.cmd := rfl
@[simp] theorem setCore_pfWait (s : State) (c : Nat) (k : Core) : (s.setCore c k).pfWait = s.pfWait := rfl
@[simp] theorem setCore_cn (s : State) (c : Nat) (k : Core) : (s.setCore c k).cn = s.cn := rfl
@[simp] theorem setCore_fslots (s : State) (c : Nat) (k : Core) : (s.setCore c k).fslots = s.fslots := rfl
@[simp] theorem setCore_bfl (s : State) (c : Nat) (k : Core) : (s.setCore c k).bfl = s.bfl := rfl
@[simp] theorem setCore_frames (s : State) (c : Nat) (k : Core) : (s.setCore c k).frames = s.frames := rfl
@[simp] theorem setCore_links (s : State) (c : Nat) (k : Core) : (s.setCore c k).links = s.links := rfl
@[simp] theorem setCore_ports (s : State) (c : Nat) (k : Core) : (s.setCore c k).ports = s.ports := rfl
@[simp] theorem setCore_routes (s : State) (c : Nat) (k : Core) : (s.setCore c k).routes = s.routes := rfl
@[simp] theorem setCore_iwins (s : State) (c : Nat) (k : Core) : (s.setCore c k).iwins = s.iwins := rfl
@[simp] theorem setCore_reqs (s : State) (c : Nat) (k : Core) : (s.setCore c k).reqs = s.reqs := rfl
@[simp] theorem setCore_nextRid (s : State) (c : Nat) (k : Core) : (s.setCore c k).nextRid = s.nextRid := rfl
@[simp] theorem setCore_doneReqs (s : State) (c : Nat) (k : Core) : (s.setCore c k).doneReqs = s.doneReqs := rfl
@[simp] theorem setCore_transit (s : State) (c : Nat) (k : Core) : (s.setCore c k).transit = s.transit := rfl
@[simp] theorem setCore_held (s : State) (c : Nat) (k : Core) : (s.setCore c k).held = s.held := rfl
@[simp] theorem setCore_keyint (s : State) (c : Nat) (k : Core) : (s.setCore c k).keyint = s.keyint := rfl
@[simp] theorem setCore_anchok (s : State) (c : Nat) (k : Core) : (s.setCore c k).anchok = s.anchok := rfl
@[simp] theorem setCore_keysDrawn (s : State) (c : Nat) (k : Core) : (s.setCore c k).keysDrawn = s.keysDrawn := rfl
@[simp] theorem setCore_hports (s : State) (c : Nat) (k : Core) : (s.setCore c k).hports = s.hports := rfl
@[simp] theorem setCore_ready (s : State) (c : Nat) (k : Core) : (s.setCore c k).ready = s.ready := rfl
@[simp] theorem setCore_pwrLimit (s : State) (c : Nat) (k : Core) : (s.setCore c k).pwrLimit = s.pwrLimit := rfl
@[simp] theorem setCore_power (s : State) (c : Nat) (k : Core) : (s.setCore c k).power = s.power := rfl
@[simp] theorem setCore_thr (s : State) (c : Nat) (k : Core) : (s.setCore c k).thr = s.thr := rfl
@[simp] theorem setCore_thrDeep (s : State) (c : Nat) (k : Core) : (s.setCore c k).thrDeep = s.thrDeep := rfl
@[simp] theorem setCore_thrSince (s : State) (c : Nat) (k : Core) : (s.setCore c k).thrSince = s.thrSince := rfl
@[simp] theorem setCore_mctp (s : State) (c : Nat) (k : Core) : (s.setCore c k).mctp = s.mctp := rfl
@[simp] theorem setCore_doe (s : State) (c : Nat) (k : Core) : (s.setCore c k).doe = s.doe := rfl
@[simp] theorem setCore_mem (s : State) (c : Nat) (k : Core) : (s.setCore c k).mem = s.mem := rfl
@[simp] theorem setCore_poison (s : State) (c : Nat) (k : Core) : (s.setCore c k).poison = s.poison := rfl
@[simp] theorem setCore_agenda (s : State) (c : Nat) (k : Core) : (s.setCore c k).agenda = s.agenda := rfl
@[simp] theorem setCore_issueQ (s : State) (c : Nat) (k : Core) : (s.setCore c k).issueQ = s.issueQ := rfl
@[simp] theorem setCore_cur (s : State) (c : Nat) (k : Core) : (s.setCore c k).cur = s.cur := rfl
@[simp] theorem setCore_ev (s : State) (c : Nat) (k : Core) : (s.setCore c k).ev = s.ev := rfl
@[simp] theorem setCore_fresh (s : State) (c : Nat) (k : Core) : (s.setCore c k).fresh = s.fresh := rfl
@[simp] theorem setCore_nextId (s : State) (c : Nat) (k : Core) : (s.setCore c k).nextId = s.nextId := rfl

/-! ### setDie -/

@[simp] theorem setDie_clk (s : State) (d : Nat) (x : Die) : (s.setDie d x).clk = s.clk := rfl
@[simp] theorem setDie_pkgid (s : State) (d : Nat) (x : Die) : (s.setDie d x).pkgid = s.pkgid := rfl
@[simp] theorem setDie_hopmax (s : State) (d : Nat) (x : Die) : (s.setDie d x).hopmax = s.hopmax := rfl
@[simp] theorem setDie_threads (s : State) (d : Nat) (x : Die) : (s.setDie d x).threads = s.threads := rfl
@[simp] theorem setDie_teams (s : State) (d : Nat) (x : Die) : (s.setDie d x).teams = s.teams := rfl
@[simp] theorem setDie_cores (s : State) (d : Nat) (x : Die) : (s.setDie d x).cores = s.cores := rfl
@[simp] theorem setDie_dies (s : State) (d : Nat) (x : Die) : (s.setDie d x).dies = s.dies.put d x := rfl
@[simp] theorem setDie_dirs (s : State) (d : Nat) (x : Die) : (s.setDie d x).dirs = s.dirs := rfl
@[simp] theorem setDie_walkc (s : State) (d : Nat) (x : Die) : (s.setDie d x).walkc = s.walkc := rfl
@[simp] theorem setDie_ctxs (s : State) (d : Nat) (x : Die) : (s.setDie d x).ctxs = s.ctxs := rfl
@[simp] theorem setDie_queues (s : State) (d : Nat) (x : Die) : (s.setDie d x).queues = s.queues := rfl
@[simp] theorem setDie_launches (s : State) (d : Nat) (x : Die) : (s.setDie d x).launches = s.launches := rfl
@[simp] theorem setDie_nextLid (s : State) (d : Nat) (x : Die) : (s.setDie d x).nextLid = s.nextLid := rfl
@[simp] theorem setDie_rrq (s : State) (d : Nat) (x : Die) : (s.setDie d x).rrq = s.rrq := rfl
@[simp] theorem setDie_xregs (s : State) (d : Nat) (x : Die) : (s.setDie d x).xregs = s.xregs := rfl
@[simp] theorem setDie_cmd (s : State) (d : Nat) (x : Die) : (s.setDie d x).cmd = s.cmd := rfl
@[simp] theorem setDie_pfWait (s : State) (d : Nat) (x : Die) : (s.setDie d x).pfWait = s.pfWait := rfl
@[simp] theorem setDie_cn (s : State) (d : Nat) (x : Die) : (s.setDie d x).cn = s.cn := rfl
@[simp] theorem setDie_fslots (s : State) (d : Nat) (x : Die) : (s.setDie d x).fslots = s.fslots := rfl
@[simp] theorem setDie_bfl (s : State) (d : Nat) (x : Die) : (s.setDie d x).bfl = s.bfl := rfl
@[simp] theorem setDie_frames (s : State) (d : Nat) (x : Die) : (s.setDie d x).frames = s.frames := rfl
@[simp] theorem setDie_links (s : State) (d : Nat) (x : Die) : (s.setDie d x).links = s.links := rfl
@[simp] theorem setDie_ports (s : State) (d : Nat) (x : Die) : (s.setDie d x).ports = s.ports := rfl
@[simp] theorem setDie_routes (s : State) (d : Nat) (x : Die) : (s.setDie d x).routes = s.routes := rfl
@[simp] theorem setDie_iwins (s : State) (d : Nat) (x : Die) : (s.setDie d x).iwins = s.iwins := rfl
@[simp] theorem setDie_reqs (s : State) (d : Nat) (x : Die) : (s.setDie d x).reqs = s.reqs := rfl
@[simp] theorem setDie_nextRid (s : State) (d : Nat) (x : Die) : (s.setDie d x).nextRid = s.nextRid := rfl
@[simp] theorem setDie_doneReqs (s : State) (d : Nat) (x : Die) : (s.setDie d x).doneReqs = s.doneReqs := rfl
@[simp] theorem setDie_transit (s : State) (d : Nat) (x : Die) : (s.setDie d x).transit = s.transit := rfl
@[simp] theorem setDie_held (s : State) (d : Nat) (x : Die) : (s.setDie d x).held = s.held := rfl
@[simp] theorem setDie_keyint (s : State) (d : Nat) (x : Die) : (s.setDie d x).keyint = s.keyint := rfl
@[simp] theorem setDie_anchok (s : State) (d : Nat) (x : Die) : (s.setDie d x).anchok = s.anchok := rfl
@[simp] theorem setDie_keysDrawn (s : State) (d : Nat) (x : Die) : (s.setDie d x).keysDrawn = s.keysDrawn := rfl
@[simp] theorem setDie_hports (s : State) (d : Nat) (x : Die) : (s.setDie d x).hports = s.hports := rfl
@[simp] theorem setDie_ready (s : State) (d : Nat) (x : Die) : (s.setDie d x).ready = s.ready := rfl
@[simp] theorem setDie_pwrLimit (s : State) (d : Nat) (x : Die) : (s.setDie d x).pwrLimit = s.pwrLimit := rfl
@[simp] theorem setDie_power (s : State) (d : Nat) (x : Die) : (s.setDie d x).power = s.power := rfl
@[simp] theorem setDie_thr (s : State) (d : Nat) (x : Die) : (s.setDie d x).thr = s.thr := rfl
@[simp] theorem setDie_thrDeep (s : State) (d : Nat) (x : Die) : (s.setDie d x).thrDeep = s.thrDeep := rfl
@[simp] theorem setDie_thrSince (s : State) (d : Nat) (x : Die) : (s.setDie d x).thrSince = s.thrSince := rfl
@[simp] theorem setDie_mctp (s : State) (d : Nat) (x : Die) : (s.setDie d x).mctp = s.mctp := rfl
@[simp] theorem setDie_doe (s : State) (d : Nat) (x : Die) : (s.setDie d x).doe = s.doe := rfl
@[simp] theorem setDie_mem (s : State) (d : Nat) (x : Die) : (s.setDie d x).mem = s.mem := rfl
@[simp] theorem setDie_poison (s : State) (d : Nat) (x : Die) : (s.setDie d x).poison = s.poison := rfl
@[simp] theorem setDie_agenda (s : State) (d : Nat) (x : Die) : (s.setDie d x).agenda = s.agenda := rfl
@[simp] theorem setDie_issueQ (s : State) (d : Nat) (x : Die) : (s.setDie d x).issueQ = s.issueQ := rfl
@[simp] theorem setDie_cur (s : State) (d : Nat) (x : Die) : (s.setDie d x).cur = s.cur := rfl
@[simp] theorem setDie_ev (s : State) (d : Nat) (x : Die) : (s.setDie d x).ev = s.ev := rfl
@[simp] theorem setDie_fresh (s : State) (d : Nat) (x : Die) : (s.setDie d x).fresh = s.fresh := rfl
@[simp] theorem setDie_nextId (s : State) (d : Nat) (x : Die) : (s.setDie d x).nextId = s.nextId := rfl

/-! ### setCtx -/

@[simp] theorem setCtx_clk (s : State) (c : Nat) (x : Ctx) : (s.setCtx c x).clk = s.clk := rfl
@[simp] theorem setCtx_pkgid (s : State) (c : Nat) (x : Ctx) : (s.setCtx c x).pkgid = s.pkgid := rfl
@[simp] theorem setCtx_hopmax (s : State) (c : Nat) (x : Ctx) : (s.setCtx c x).hopmax = s.hopmax := rfl
@[simp] theorem setCtx_threads (s : State) (c : Nat) (x : Ctx) : (s.setCtx c x).threads = s.threads := rfl
@[simp] theorem setCtx_teams (s : State) (c : Nat) (x : Ctx) : (s.setCtx c x).teams = s.teams := rfl
@[simp] theorem setCtx_cores (s : State) (c : Nat) (x : Ctx) : (s.setCtx c x).cores = s.cores := rfl
@[simp] theorem setCtx_dies (s : State) (c : Nat) (x : Ctx) : (s.setCtx c x).dies = s.dies := rfl
@[simp] theorem setCtx_dirs (s : State) (c : Nat) (x : Ctx) : (s.setCtx c x).dirs = s.dirs := rfl
@[simp] theorem setCtx_walkc (s : State) (c : Nat) (x : Ctx) : (s.setCtx c x).walkc = s.walkc := rfl
@[simp] theorem setCtx_ctxs (s : State) (c : Nat) (x : Ctx) : (s.setCtx c x).ctxs = s.ctxs.put c x := rfl
@[simp] theorem setCtx_queues (s : State) (c : Nat) (x : Ctx) : (s.setCtx c x).queues = s.queues := rfl
@[simp] theorem setCtx_launches (s : State) (c : Nat) (x : Ctx) : (s.setCtx c x).launches = s.launches := rfl
@[simp] theorem setCtx_nextLid (s : State) (c : Nat) (x : Ctx) : (s.setCtx c x).nextLid = s.nextLid := rfl
@[simp] theorem setCtx_rrq (s : State) (c : Nat) (x : Ctx) : (s.setCtx c x).rrq = s.rrq := rfl
@[simp] theorem setCtx_xregs (s : State) (c : Nat) (x : Ctx) : (s.setCtx c x).xregs = s.xregs := rfl
@[simp] theorem setCtx_cmd (s : State) (c : Nat) (x : Ctx) : (s.setCtx c x).cmd = s.cmd := rfl
@[simp] theorem setCtx_pfWait (s : State) (c : Nat) (x : Ctx) : (s.setCtx c x).pfWait = s.pfWait := rfl
@[simp] theorem setCtx_cn (s : State) (c : Nat) (x : Ctx) : (s.setCtx c x).cn = s.cn := rfl
@[simp] theorem setCtx_fslots (s : State) (c : Nat) (x : Ctx) : (s.setCtx c x).fslots = s.fslots := rfl
@[simp] theorem setCtx_bfl (s : State) (c : Nat) (x : Ctx) : (s.setCtx c x).bfl = s.bfl := rfl
@[simp] theorem setCtx_frames (s : State) (c : Nat) (x : Ctx) : (s.setCtx c x).frames = s.frames := rfl
@[simp] theorem setCtx_links (s : State) (c : Nat) (x : Ctx) : (s.setCtx c x).links = s.links := rfl
@[simp] theorem setCtx_ports (s : State) (c : Nat) (x : Ctx) : (s.setCtx c x).ports = s.ports := rfl
@[simp] theorem setCtx_routes (s : State) (c : Nat) (x : Ctx) : (s.setCtx c x).routes = s.routes := rfl
@[simp] theorem setCtx_iwins (s : State) (c : Nat) (x : Ctx) : (s.setCtx c x).iwins = s.iwins := rfl
@[simp] theorem setCtx_reqs (s : State) (c : Nat) (x : Ctx) : (s.setCtx c x).reqs = s.reqs := rfl
@[simp] theorem setCtx_nextRid (s : State) (c : Nat) (x : Ctx) : (s.setCtx c x).nextRid = s.nextRid := rfl
@[simp] theorem setCtx_doneReqs (s : State) (c : Nat) (x : Ctx) : (s.setCtx c x).doneReqs = s.doneReqs := rfl
@[simp] theorem setCtx_transit (s : State) (c : Nat) (x : Ctx) : (s.setCtx c x).transit = s.transit := rfl
@[simp] theorem setCtx_held (s : State) (c : Nat) (x : Ctx) : (s.setCtx c x).held = s.held := rfl
@[simp] theorem setCtx_keyint (s : State) (c : Nat) (x : Ctx) : (s.setCtx c x).keyint = s.keyint := rfl
@[simp] theorem setCtx_anchok (s : State) (c : Nat) (x : Ctx) : (s.setCtx c x).anchok = s.anchok := rfl
@[simp] theorem setCtx_keysDrawn (s : State) (c : Nat) (x : Ctx) : (s.setCtx c x).keysDrawn = s.keysDrawn := rfl
@[simp] theorem setCtx_hports (s : State) (c : Nat) (x : Ctx) : (s.setCtx c x).hports = s.hports := rfl
@[simp] theorem setCtx_ready (s : State) (c : Nat) (x : Ctx) : (s.setCtx c x).ready = s.ready := rfl
@[simp] theorem setCtx_pwrLimit (s : State) (c : Nat) (x : Ctx) : (s.setCtx c x).pwrLimit = s.pwrLimit := rfl
@[simp] theorem setCtx_power (s : State) (c : Nat) (x : Ctx) : (s.setCtx c x).power = s.power := rfl
@[simp] theorem setCtx_thr (s : State) (c : Nat) (x : Ctx) : (s.setCtx c x).thr = s.thr := rfl
@[simp] theorem setCtx_thrDeep (s : State) (c : Nat) (x : Ctx) : (s.setCtx c x).thrDeep = s.thrDeep := rfl
@[simp] theorem setCtx_thrSince (s : State) (c : Nat) (x : Ctx) : (s.setCtx c x).thrSince = s.thrSince := rfl
@[simp] theorem setCtx_mctp (s : State) (c : Nat) (x : Ctx) : (s.setCtx c x).mctp = s.mctp := rfl
@[simp] theorem setCtx_doe (s : State) (c : Nat) (x : Ctx) : (s.setCtx c x).doe = s.doe := rfl
@[simp] theorem setCtx_mem (s : State) (c : Nat) (x : Ctx) : (s.setCtx c x).mem = s.mem := rfl
@[simp] theorem setCtx_poison (s : State) (c : Nat) (x : Ctx) : (s.setCtx c x).poison = s.poison := rfl
@[simp] theorem setCtx_agenda (s : State) (c : Nat) (x : Ctx) : (s.setCtx c x).agenda = s.agenda := rfl
@[simp] theorem setCtx_issueQ (s : State) (c : Nat) (x : Ctx) : (s.setCtx c x).issueQ = s.issueQ := rfl
@[simp] theorem setCtx_cur (s : State) (c : Nat) (x : Ctx) : (s.setCtx c x).cur = s.cur := rfl
@[simp] theorem setCtx_ev (s : State) (c : Nat) (x : Ctx) : (s.setCtx c x).ev = s.ev := rfl
@[simp] theorem setCtx_fresh (s : State) (c : Nat) (x : Ctx) : (s.setCtx c x).fresh = s.fresh := rfl
@[simp] theorem setCtx_nextId (s : State) (c : Nat) (x : Ctx) : (s.setCtx c x).nextId = s.nextId := rfl

/-! ### setQueue -/

@[simp] theorem setQueue_clk (s : State) (q : Nat) (x : Queue) : (s.setQueue q x).clk = s.clk := rfl
@[simp] theorem setQueue_pkgid (s : State) (q : Nat) (x : Queue) : (s.setQueue q x).pkgid = s.pkgid := rfl
@[simp] theorem setQueue_hopmax (s : State) (q : Nat) (x : Queue) : (s.setQueue q x).hopmax = s.hopmax := rfl
@[simp] theorem setQueue_threads (s : State) (q : Nat) (x : Queue) : (s.setQueue q x).threads = s.threads := rfl
@[simp] theorem setQueue_teams (s : State) (q : Nat) (x : Queue) : (s.setQueue q x).teams = s.teams := rfl
@[simp] theorem setQueue_cores (s : State) (q : Nat) (x : Queue) : (s.setQueue q x).cores = s.cores := rfl
@[simp] theorem setQueue_dies (s : State) (q : Nat) (x : Queue) : (s.setQueue q x).dies = s.dies := rfl
@[simp] theorem setQueue_dirs (s : State) (q : Nat) (x : Queue) : (s.setQueue q x).dirs = s.dirs := rfl
@[simp] theorem setQueue_walkc (s : State) (q : Nat) (x : Queue) : (s.setQueue q x).walkc = s.walkc := rfl
@[simp] theorem setQueue_ctxs (s : State) (q : Nat) (x : Queue) : (s.setQueue q x).ctxs = s.ctxs := rfl
@[simp] theorem setQueue_queues (s : State) (q : Nat) (x : Queue) : (s.setQueue q x).queues = s.queues.put q x := rfl
@[simp] theorem setQueue_launches (s : State) (q : Nat) (x : Queue) : (s.setQueue q x).launches = s.launches := rfl
@[simp] theorem setQueue_nextLid (s : State) (q : Nat) (x : Queue) : (s.setQueue q x).nextLid = s.nextLid := rfl
@[simp] theorem setQueue_rrq (s : State) (q : Nat) (x : Queue) : (s.setQueue q x).rrq = s.rrq := rfl
@[simp] theorem setQueue_xregs (s : State) (q : Nat) (x : Queue) : (s.setQueue q x).xregs = s.xregs := rfl
@[simp] theorem setQueue_cmd (s : State) (q : Nat) (x : Queue) : (s.setQueue q x).cmd = s.cmd := rfl
@[simp] theorem setQueue_pfWait (s : State) (q : Nat) (x : Queue) : (s.setQueue q x).pfWait = s.pfWait := rfl
@[simp] theorem setQueue_cn (s : State) (q : Nat) (x : Queue) : (s.setQueue q x).cn = s.cn := rfl
@[simp] theorem setQueue_fslots (s : State) (q : Nat) (x : Queue) : (s.setQueue q x).fslots = s.fslots := rfl
@[simp] theorem setQueue_bfl (s : State) (q : Nat) (x : Queue) : (s.setQueue q x).bfl = s.bfl := rfl
@[simp] theorem setQueue_frames (s : State) (q : Nat) (x : Queue) : (s.setQueue q x).frames = s.frames := rfl
@[simp] theorem setQueue_links (s : State) (q : Nat) (x : Queue) : (s.setQueue q x).links = s.links := rfl
@[simp] theorem setQueue_ports (s : State) (q : Nat) (x : Queue) : (s.setQueue q x).ports = s.ports := rfl
@[simp] theorem setQueue_routes (s : State) (q : Nat) (x : Queue) : (s.setQueue q x).routes = s.routes := rfl
@[simp] theorem setQueue_iwins (s : State) (q : Nat) (x : Queue) : (s.setQueue q x).iwins = s.iwins := rfl
@[simp] theorem setQueue_reqs (s : State) (q : Nat) (x : Queue) : (s.setQueue q x).reqs = s.reqs := rfl
@[simp] theorem setQueue_nextRid (s : State) (q : Nat) (x : Queue) : (s.setQueue q x).nextRid = s.nextRid := rfl
@[simp] theorem setQueue_doneReqs (s : State) (q : Nat) (x : Queue) : (s.setQueue q x).doneReqs = s.doneReqs := rfl
@[simp] theorem setQueue_transit (s : State) (q : Nat) (x : Queue) : (s.setQueue q x).transit = s.transit := rfl
@[simp] theorem setQueue_held (s : State) (q : Nat) (x : Queue) : (s.setQueue q x).held = s.held := rfl
@[simp] theorem setQueue_keyint (s : State) (q : Nat) (x : Queue) : (s.setQueue q x).keyint = s.keyint := rfl
@[simp] theorem setQueue_anchok (s : State) (q : Nat) (x : Queue) : (s.setQueue q x).anchok = s.anchok := rfl
@[simp] theorem setQueue_keysDrawn (s : State) (q : Nat) (x : Queue) : (s.setQueue q x).keysDrawn = s.keysDrawn := rfl
@[simp] theorem setQueue_hports (s : State) (q : Nat) (x : Queue) : (s.setQueue q x).hports = s.hports := rfl
@[simp] theorem setQueue_ready (s : State) (q : Nat) (x : Queue) : (s.setQueue q x).ready = s.ready := rfl
@[simp] theorem setQueue_pwrLimit (s : State) (q : Nat) (x : Queue) : (s.setQueue q x).pwrLimit = s.pwrLimit := rfl
@[simp] theorem setQueue_power (s : State) (q : Nat) (x : Queue) : (s.setQueue q x).power = s.power := rfl
@[simp] theorem setQueue_thr (s : State) (q : Nat) (x : Queue) : (s.setQueue q x).thr = s.thr := rfl
@[simp] theorem setQueue_thrDeep (s : State) (q : Nat) (x : Queue) : (s.setQueue q x).thrDeep = s.thrDeep := rfl
@[simp] theorem setQueue_thrSince (s : State) (q : Nat) (x : Queue) : (s.setQueue q x).thrSince = s.thrSince := rfl
@[simp] theorem setQueue_mctp (s : State) (q : Nat) (x : Queue) : (s.setQueue q x).mctp = s.mctp := rfl
@[simp] theorem setQueue_doe (s : State) (q : Nat) (x : Queue) : (s.setQueue q x).doe = s.doe := rfl
@[simp] theorem setQueue_mem (s : State) (q : Nat) (x : Queue) : (s.setQueue q x).mem = s.mem := rfl
@[simp] theorem setQueue_poison (s : State) (q : Nat) (x : Queue) : (s.setQueue q x).poison = s.poison := rfl
@[simp] theorem setQueue_agenda (s : State) (q : Nat) (x : Queue) : (s.setQueue q x).agenda = s.agenda := rfl
@[simp] theorem setQueue_issueQ (s : State) (q : Nat) (x : Queue) : (s.setQueue q x).issueQ = s.issueQ := rfl
@[simp] theorem setQueue_cur (s : State) (q : Nat) (x : Queue) : (s.setQueue q x).cur = s.cur := rfl
@[simp] theorem setQueue_ev (s : State) (q : Nat) (x : Queue) : (s.setQueue q x).ev = s.ev := rfl
@[simp] theorem setQueue_fresh (s : State) (q : Nat) (x : Queue) : (s.setQueue q x).fresh = s.fresh := rfl
@[simp] theorem setQueue_nextId (s : State) (q : Nat) (x : Queue) : (s.setQueue q x).nextId = s.nextId := rfl

/-! ### setPort -/

@[simp] theorem setPort_clk (s : State) (p : Nat) (x : Port) : (s.setPort p x).clk = s.clk := rfl
@[simp] theorem setPort_pkgid (s : State) (p : Nat) (x : Port) : (s.setPort p x).pkgid = s.pkgid := rfl
@[simp] theorem setPort_hopmax (s : State) (p : Nat) (x : Port) : (s.setPort p x).hopmax = s.hopmax := rfl
@[simp] theorem setPort_threads (s : State) (p : Nat) (x : Port) : (s.setPort p x).threads = s.threads := rfl
@[simp] theorem setPort_teams (s : State) (p : Nat) (x : Port) : (s.setPort p x).teams = s.teams := rfl
@[simp] theorem setPort_cores (s : State) (p : Nat) (x : Port) : (s.setPort p x).cores = s.cores := rfl
@[simp] theorem setPort_dies (s : State) (p : Nat) (x : Port) : (s.setPort p x).dies = s.dies := rfl
@[simp] theorem setPort_dirs (s : State) (p : Nat) (x : Port) : (s.setPort p x).dirs = s.dirs := rfl
@[simp] theorem setPort_walkc (s : State) (p : Nat) (x : Port) : (s.setPort p x).walkc = s.walkc := rfl
@[simp] theorem setPort_ctxs (s : State) (p : Nat) (x : Port) : (s.setPort p x).ctxs = s.ctxs := rfl
@[simp] theorem setPort_queues (s : State) (p : Nat) (x : Port) : (s.setPort p x).queues = s.queues := rfl
@[simp] theorem setPort_launches (s : State) (p : Nat) (x : Port) : (s.setPort p x).launches = s.launches := rfl
@[simp] theorem setPort_nextLid (s : State) (p : Nat) (x : Port) : (s.setPort p x).nextLid = s.nextLid := rfl
@[simp] theorem setPort_rrq (s : State) (p : Nat) (x : Port) : (s.setPort p x).rrq = s.rrq := rfl
@[simp] theorem setPort_xregs (s : State) (p : Nat) (x : Port) : (s.setPort p x).xregs = s.xregs := rfl
@[simp] theorem setPort_cmd (s : State) (p : Nat) (x : Port) : (s.setPort p x).cmd = s.cmd := rfl
@[simp] theorem setPort_pfWait (s : State) (p : Nat) (x : Port) : (s.setPort p x).pfWait = s.pfWait := rfl
@[simp] theorem setPort_cn (s : State) (p : Nat) (x : Port) : (s.setPort p x).cn = s.cn := rfl
@[simp] theorem setPort_fslots (s : State) (p : Nat) (x : Port) : (s.setPort p x).fslots = s.fslots := rfl
@[simp] theorem setPort_bfl (s : State) (p : Nat) (x : Port) : (s.setPort p x).bfl = s.bfl := rfl
@[simp] theorem setPort_frames (s : State) (p : Nat) (x : Port) : (s.setPort p x).frames = s.frames := rfl
@[simp] theorem setPort_links (s : State) (p : Nat) (x : Port) : (s.setPort p x).links = s.links := rfl
@[simp] theorem setPort_ports (s : State) (p : Nat) (x : Port) : (s.setPort p x).ports = s.ports.put p x := rfl
@[simp] theorem setPort_routes (s : State) (p : Nat) (x : Port) : (s.setPort p x).routes = s.routes := rfl
@[simp] theorem setPort_iwins (s : State) (p : Nat) (x : Port) : (s.setPort p x).iwins = s.iwins := rfl
@[simp] theorem setPort_reqs (s : State) (p : Nat) (x : Port) : (s.setPort p x).reqs = s.reqs := rfl
@[simp] theorem setPort_nextRid (s : State) (p : Nat) (x : Port) : (s.setPort p x).nextRid = s.nextRid := rfl
@[simp] theorem setPort_doneReqs (s : State) (p : Nat) (x : Port) : (s.setPort p x).doneReqs = s.doneReqs := rfl
@[simp] theorem setPort_transit (s : State) (p : Nat) (x : Port) : (s.setPort p x).transit = s.transit := rfl
@[simp] theorem setPort_held (s : State) (p : Nat) (x : Port) : (s.setPort p x).held = s.held := rfl
@[simp] theorem setPort_keyint (s : State) (p : Nat) (x : Port) : (s.setPort p x).keyint = s.keyint := rfl
@[simp] theorem setPort_anchok (s : State) (p : Nat) (x : Port) : (s.setPort p x).anchok = s.anchok := rfl
@[simp] theorem setPort_keysDrawn (s : State) (p : Nat) (x : Port) : (s.setPort p x).keysDrawn = s.keysDrawn := rfl
@[simp] theorem setPort_hports (s : State) (p : Nat) (x : Port) : (s.setPort p x).hports = s.hports := rfl
@[simp] theorem setPort_ready (s : State) (p : Nat) (x : Port) : (s.setPort p x).ready = s.ready := rfl
@[simp] theorem setPort_pwrLimit (s : State) (p : Nat) (x : Port) : (s.setPort p x).pwrLimit = s.pwrLimit := rfl
@[simp] theorem setPort_power (s : State) (p : Nat) (x : Port) : (s.setPort p x).power = s.power := rfl
@[simp] theorem setPort_thr (s : State) (p : Nat) (x : Port) : (s.setPort p x).thr = s.thr := rfl
@[simp] theorem setPort_thrDeep (s : State) (p : Nat) (x : Port) : (s.setPort p x).thrDeep = s.thrDeep := rfl
@[simp] theorem setPort_thrSince (s : State) (p : Nat) (x : Port) : (s.setPort p x).thrSince = s.thrSince := rfl
@[simp] theorem setPort_mctp (s : State) (p : Nat) (x : Port) : (s.setPort p x).mctp = s.mctp := rfl
@[simp] theorem setPort_doe (s : State) (p : Nat) (x : Port) : (s.setPort p x).doe = s.doe := rfl
@[simp] theorem setPort_mem (s : State) (p : Nat) (x : Port) : (s.setPort p x).mem = s.mem := rfl
@[simp] theorem setPort_poison (s : State) (p : Nat) (x : Port) : (s.setPort p x).poison = s.poison := rfl
@[simp] theorem setPort_agenda (s : State) (p : Nat) (x : Port) : (s.setPort p x).agenda = s.agenda := rfl
@[simp] theorem setPort_issueQ (s : State) (p : Nat) (x : Port) : (s.setPort p x).issueQ = s.issueQ := rfl
@[simp] theorem setPort_cur (s : State) (p : Nat) (x : Port) : (s.setPort p x).cur = s.cur := rfl
@[simp] theorem setPort_ev (s : State) (p : Nat) (x : Port) : (s.setPort p x).ev = s.ev := rfl
@[simp] theorem setPort_fresh (s : State) (p : Nat) (x : Port) : (s.setPort p x).fresh = s.fresh := rfl
@[simp] theorem setPort_nextId (s : State) (p : Nat) (x : Port) : (s.setPort p x).nextId = s.nextId := rfl

/-! ### modHPort -/

@[simp] theorem modHPort_clk (s : State) (p : Nat) (f : HPort → HPort) : (s.modHPort p f).clk = s.clk := rfl
@[simp] theorem modHPort_pkgid (s : State) (p : Nat) (f : HPort → HPort) : (s.modHPort p f).pkgid = s.pkgid := rfl
@[simp] theorem modHPort_hopmax (s : State) (p : Nat) (f : HPort → HPort) : (s.modHPort p f).hopmax = s.hopmax := rfl
@[simp] theorem modHPort_threads (s : State) (p : Nat) (f : HPort → HPort) : (s.modHPort p f).threads = s.threads := rfl
@[simp] theorem modHPort_teams (s : State) (p : Nat) (f : HPort → HPort) : (s.modHPort p f).teams = s.teams := rfl
@[simp] theorem modHPort_cores (s : State) (p : Nat) (f : HPort → HPort) : (s.modHPort p f).cores = s.cores := rfl
@[simp] theorem modHPort_dies (s : State) (p : Nat) (f : HPort → HPort) : (s.modHPort p f).dies = s.dies := rfl
@[simp] theorem modHPort_dirs (s : State) (p : Nat) (f : HPort → HPort) : (s.modHPort p f).dirs = s.dirs := rfl
@[simp] theorem modHPort_walkc (s : State) (p : Nat) (f : HPort → HPort) : (s.modHPort p f).walkc = s.walkc := rfl
@[simp] theorem modHPort_ctxs (s : State) (p : Nat) (f : HPort → HPort) : (s.modHPort p f).ctxs = s.ctxs := rfl
@[simp] theorem modHPort_queues (s : State) (p : Nat) (f : HPort → HPort) : (s.modHPort p f).queues = s.queues := rfl
@[simp] theorem modHPort_launches (s : State) (p : Nat) (f : HPort → HPort) : (s.modHPort p f).launches = s.launches := rfl
@[simp] theorem modHPort_nextLid (s : State) (p : Nat) (f : HPort → HPort) : (s.modHPort p f).nextLid = s.nextLid := rfl
@[simp] theorem modHPort_rrq (s : State) (p : Nat) (f : HPort → HPort) : (s.modHPort p f).rrq = s.rrq := rfl
@[simp] theorem modHPort_xregs (s : State) (p : Nat) (f : HPort → HPort) : (s.modHPort p f).xregs = s.xregs := rfl
@[simp] theorem modHPort_cmd (s : State) (p : Nat) (f : HPort → HPort) : (s.modHPort p f).cmd = s.cmd := rfl
@[simp] theorem modHPort_pfWait (s : State) (p : Nat) (f : HPort → HPort) : (s.modHPort p f).pfWait = s.pfWait := rfl
@[simp] theorem modHPort_cn (s : State) (p : Nat) (f : HPort → HPort) : (s.modHPort p f).cn = s.cn := rfl
@[simp] theorem modHPort_fslots (s : State) (p : Nat) (f : HPort → HPort) : (s.modHPort p f).fslots = s.fslots := rfl
@[simp] theorem modHPort_bfl (s : State) (p : Nat) (f : HPort → HPort) : (s.modHPort p f).bfl = s.bfl := rfl
@[simp] theorem modHPort_frames (s : State) (p : Nat) (f : HPort → HPort) : (s.modHPort p f).frames = s.frames := rfl
@[simp] theorem modHPort_links (s : State) (p : Nat) (f : HPort → HPort) : (s.modHPort p f).links = s.links := rfl
@[simp] theorem modHPort_ports (s : State) (p : Nat) (f : HPort → HPort) : (s.modHPort p f).ports = s.ports := rfl
@[simp] theorem modHPort_routes (s : State) (p : Nat) (f : HPort → HPort) : (s.modHPort p f).routes = s.routes := rfl
@[simp] theorem modHPort_iwins (s : State) (p : Nat) (f : HPort → HPort) : (s.modHPort p f).iwins = s.iwins := rfl
@[simp] theorem modHPort_reqs (s : State) (p : Nat) (f : HPort → HPort) : (s.modHPort p f).reqs = s.reqs := rfl
@[simp] theorem modHPort_nextRid (s : State) (p : Nat) (f : HPort → HPort) : (s.modHPort p f).nextRid = s.nextRid := rfl
@[simp] theorem modHPort_doneReqs (s : State) (p : Nat) (f : HPort → HPort) : (s.modHPort p f).doneReqs = s.doneReqs := rfl
@[simp] theorem modHPort_transit (s : State) (p : Nat) (f : HPort → HPort) : (s.modHPort p f).transit = s.transit := rfl
@[simp] theorem modHPort_held (s : State) (p : Nat) (f : HPort → HPort) : (s.modHPort p f).held = s.held := rfl
@[simp] theorem modHPort_keyint (s : State) (p : Nat) (f : HPort → HPort) : (s.modHPort p f).keyint = s.keyint := rfl
@[simp] theorem modHPort_anchok (s : State) (p : Nat) (f : HPort → HPort) : (s.modHPort p f).anchok = s.anchok := rfl
@[simp] theorem modHPort_keysDrawn (s : State) (p : Nat) (f : HPort → HPort) : (s.modHPort p f).keysDrawn = s.keysDrawn := rfl
@[simp] theorem modHPort_hports (s : State) (p : Nat) (f : HPort → HPort) : (s.modHPort p f).hports = s.hports.put p (f (s.hport p)) := rfl
@[simp] theorem modHPort_ready (s : State) (p : Nat) (f : HPort → HPort) : (s.modHPort p f).ready = s.ready := rfl
@[simp] theorem modHPort_pwrLimit (s : State) (p : Nat) (f : HPort → HPort) : (s.modHPort p f).pwrLimit = s.pwrLimit := rfl
@[simp] theorem modHPort_power (s : State) (p : Nat) (f : HPort → HPort) : (s.modHPort p f).power = s.power := rfl
@[simp] theorem modHPort_thr (s : State) (p : Nat) (f : HPort → HPort) : (s.modHPort p f).thr = s.thr := rfl
@[simp] theorem modHPort_thrDeep (s : State) (p : Nat) (f : HPort → HPort) : (s.modHPort p f).thrDeep = s.thrDeep := rfl
@[simp] theorem modHPort_thrSince (s : State) (p : Nat) (f : HPort → HPort) : (s.modHPort p f).thrSince = s.thrSince := rfl
@[simp] theorem modHPort_mctp (s : State) (p : Nat) (f : HPort → HPort) : (s.modHPort p f).mctp = s.mctp := rfl
@[simp] theorem modHPort_doe (s : State) (p : Nat) (f : HPort → HPort) : (s.modHPort p f).doe = s.doe := rfl
@[simp] theorem modHPort_mem (s : State) (p : Nat) (f : HPort → HPort) : (s.modHPort p f).mem = s.mem := rfl
@[simp] theorem modHPort_poison (s : State) (p : Nat) (f : HPort → HPort) : (s.modHPort p f).poison = s.poison := rfl
@[simp] theorem modHPort_agenda (s : State) (p : Nat) (f : HPort → HPort) : (s.modHPort p f).agenda = s.agenda := rfl
@[simp] theorem modHPort_issueQ (s : State) (p : Nat) (f : HPort → HPort) : (s.modHPort p f).issueQ = s.issueQ := rfl
@[simp] theorem modHPort_cur (s : State) (p : Nat) (f : HPort → HPort) : (s.modHPort p f).cur = s.cur := rfl
@[simp] theorem modHPort_ev (s : State) (p : Nat) (f : HPort → HPort) : (s.modHPort p f).ev = s.ev := rfl
@[simp] theorem modHPort_fresh (s : State) (p : Nat) (f : HPort → HPort) : (s.modHPort p f).fresh = s.fresh := rfl
@[simp] theorem modHPort_nextId (s : State) (p : Nat) (f : HPort → HPort) : (s.modHPort p f).nextId = s.nextId := rfl

/-! ### setLink -/

@[simp] theorem setLink_clk (s : State) (n : Nat) (x : DieLink) : (s.setLink n x).clk = s.clk := rfl
@[simp] theorem setLink_pkgid (s : State) (n : Nat) (x : DieLink) : (s.setLink n x).pkgid = s.pkgid := rfl
@[simp] theorem setLink_hopmax (s : State) (n : Nat) (x : DieLink) : (s.setLink n x).hopmax = s.hopmax := rfl
@[simp] theorem setLink_threads (s : State) (n : Nat) (x : DieLink) : (s.setLink n x).threads = s.threads := rfl
@[simp] theorem setLink_teams (s : State) (n : Nat) (x : DieLink) : (s.setLink n x).teams = s.teams := rfl
@[simp] theorem setLink_cores (s : State) (n : Nat) (x : DieLink) : (s.setLink n x).cores = s.cores := rfl
@[simp] theorem setLink_dies (s : State) (n : Nat) (x : DieLink) : (s.setLink n x).dies = s.dies := rfl
@[simp] theorem setLink_dirs (s : State) (n : Nat) (x : DieLink) : (s.setLink n x).dirs = s.dirs := rfl
@[simp] theorem setLink_walkc (s : State) (n : Nat) (x : DieLink) : (s.setLink n x).walkc = s.walkc := rfl
@[simp] theorem setLink_ctxs (s : State) (n : Nat) (x : DieLink) : (s.setLink n x).ctxs = s.ctxs := rfl
@[simp] theorem setLink_queues (s : State) (n : Nat) (x : DieLink) : (s.setLink n x).queues = s.queues := rfl
@[simp] theorem setLink_launches (s : State) (n : Nat) (x : DieLink) : (s.setLink n x).launches = s.launches := rfl
@[simp] theorem setLink_nextLid (s : State) (n : Nat) (x : DieLink) : (s.setLink n x).nextLid = s.nextLid := rfl
@[simp] theorem setLink_rrq (s : State) (n : Nat) (x : DieLink) : (s.setLink n x).rrq = s.rrq := rfl
@[simp] theorem setLink_xregs (s : State) (n : Nat) (x : DieLink) : (s.setLink n x).xregs = s.xregs := rfl
@[simp] theorem setLink_cmd (s : State) (n : Nat) (x : DieLink) : (s.setLink n x).cmd = s.cmd := rfl
@[simp] theorem setLink_pfWait (s : State) (n : Nat) (x : DieLink) : (s.setLink n x).pfWait = s.pfWait := rfl
@[simp] theorem setLink_cn (s : State) (n : Nat) (x : DieLink) : (s.setLink n x).cn = s.cn := rfl
@[simp] theorem setLink_fslots (s : State) (n : Nat) (x : DieLink) : (s.setLink n x).fslots = s.fslots := rfl
@[simp] theorem setLink_bfl (s : State) (n : Nat) (x : DieLink) : (s.setLink n x).bfl = s.bfl := rfl
@[simp] theorem setLink_frames (s : State) (n : Nat) (x : DieLink) : (s.setLink n x).frames = s.frames := rfl
@[simp] theorem setLink_links (s : State) (n : Nat) (x : DieLink) : (s.setLink n x).links = s.links.put n x := rfl
@[simp] theorem setLink_ports (s : State) (n : Nat) (x : DieLink) : (s.setLink n x).ports = s.ports := rfl
@[simp] theorem setLink_routes (s : State) (n : Nat) (x : DieLink) : (s.setLink n x).routes = s.routes := rfl
@[simp] theorem setLink_iwins (s : State) (n : Nat) (x : DieLink) : (s.setLink n x).iwins = s.iwins := rfl
@[simp] theorem setLink_reqs (s : State) (n : Nat) (x : DieLink) : (s.setLink n x).reqs = s.reqs := rfl
@[simp] theorem setLink_nextRid (s : State) (n : Nat) (x : DieLink) : (s.setLink n x).nextRid = s.nextRid := rfl
@[simp] theorem setLink_doneReqs (s : State) (n : Nat) (x : DieLink) : (s.setLink n x).doneReqs = s.doneReqs := rfl
@[simp] theorem setLink_transit (s : State) (n : Nat) (x : DieLink) : (s.setLink n x).transit = s.transit := rfl
@[simp] theorem setLink_held (s : State) (n : Nat) (x : DieLink) : (s.setLink n x).held = s.held := rfl
@[simp] theorem setLink_keyint (s : State) (n : Nat) (x : DieLink) : (s.setLink n x).keyint = s.keyint := rfl
@[simp] theorem setLink_anchok (s : State) (n : Nat) (x : DieLink) : (s.setLink n x).anchok = s.anchok := rfl
@[simp] theorem setLink_keysDrawn (s : State) (n : Nat) (x : DieLink) : (s.setLink n x).keysDrawn = s.keysDrawn := rfl
@[simp] theorem setLink_hports (s : State) (n : Nat) (x : DieLink) : (s.setLink n x).hports = s.hports := rfl
@[simp] theorem setLink_ready (s : State) (n : Nat) (x : DieLink) : (s.setLink n x).ready = s.ready := rfl
@[simp] theorem setLink_pwrLimit (s : State) (n : Nat) (x : DieLink) : (s.setLink n x).pwrLimit = s.pwrLimit := rfl
@[simp] theorem setLink_power (s : State) (n : Nat) (x : DieLink) : (s.setLink n x).power = s.power := rfl
@[simp] theorem setLink_thr (s : State) (n : Nat) (x : DieLink) : (s.setLink n x).thr = s.thr := rfl
@[simp] theorem setLink_thrDeep (s : State) (n : Nat) (x : DieLink) : (s.setLink n x).thrDeep = s.thrDeep := rfl
@[simp] theorem setLink_thrSince (s : State) (n : Nat) (x : DieLink) : (s.setLink n x).thrSince = s.thrSince := rfl
@[simp] theorem setLink_mctp (s : State) (n : Nat) (x : DieLink) : (s.setLink n x).mctp = s.mctp := rfl
@[simp] theorem setLink_doe (s : State) (n : Nat) (x : DieLink) : (s.setLink n x).doe = s.doe := rfl
@[simp] theorem setLink_mem (s : State) (n : Nat) (x : DieLink) : (s.setLink n x).mem = s.mem := rfl
@[simp] theorem setLink_poison (s : State) (n : Nat) (x : DieLink) : (s.setLink n x).poison = s.poison := rfl
@[simp] theorem setLink_agenda (s : State) (n : Nat) (x : DieLink) : (s.setLink n x).agenda = s.agenda := rfl
@[simp] theorem setLink_issueQ (s : State) (n : Nat) (x : DieLink) : (s.setLink n x).issueQ = s.issueQ := rfl
@[simp] theorem setLink_cur (s : State) (n : Nat) (x : DieLink) : (s.setLink n x).cur = s.cur := rfl
@[simp] theorem setLink_ev (s : State) (n : Nat) (x : DieLink) : (s.setLink n x).ev = s.ev := rfl
@[simp] theorem setLink_fresh (s : State) (n : Nat) (x : DieLink) : (s.setLink n x).fresh = s.fresh := rfl
@[simp] theorem setLink_nextId (s : State) (n : Nat) (x : DieLink) : (s.setLink n x).nextId = s.nextId := rfl

/-! ### modFrame -/

@[simp] theorem modFrame_clk (s : State) (n : Nat) (f : FrameSt → FrameSt) : (s.modFrame n f).clk = s.clk := rfl
@[simp] theorem modFrame_pkgid (s : State) (n : Nat) (f : FrameSt → FrameSt) : (s.modFrame n f).pkgid = s.pkgid := rfl
@[simp] theorem modFrame_hopmax (s : State) (n : Nat) (f : FrameSt → FrameSt) : (s.modFrame n f).hopmax = s.hopmax := rfl
@[simp] theorem modFrame_threads (s : State) (n : Nat) (f : FrameSt → FrameSt) : (s.modFrame n f).threads = s.threads := rfl
@[simp] theorem modFrame_teams (s : State) (n : Nat) (f : FrameSt → FrameSt) : (s.modFrame n f).teams = s.teams := rfl
@[simp] theorem modFrame_cores (s : State) (n : Nat) (f : FrameSt → FrameSt) : (s.modFrame n f).cores = s.cores := rfl
@[simp] theorem modFrame_dies (s : State) (n : Nat) (f : FrameSt → FrameSt) : (s.modFrame n f).dies = s.dies := rfl
@[simp] theorem modFrame_dirs (s : State) (n : Nat) (f : FrameSt → FrameSt) : (s.modFrame n f).dirs = s.dirs := rfl
@[simp] theorem modFrame_walkc (s : State) (n : Nat) (f : FrameSt → FrameSt) : (s.modFrame n f).walkc = s.walkc := rfl
@[simp] theorem modFrame_ctxs (s : State) (n : Nat) (f : FrameSt → FrameSt) : (s.modFrame n f).ctxs = s.ctxs := rfl
@[simp] theorem modFrame_queues (s : State) (n : Nat) (f : FrameSt → FrameSt) : (s.modFrame n f).queues = s.queues := rfl
@[simp] theorem modFrame_launches (s : State) (n : Nat) (f : FrameSt → FrameSt) : (s.modFrame n f).launches = s.launches := rfl
@[simp] theorem modFrame_nextLid (s : State) (n : Nat) (f : FrameSt → FrameSt) : (s.modFrame n f).nextLid = s.nextLid := rfl
@[simp] theorem modFrame_rrq (s : State) (n : Nat) (f : FrameSt → FrameSt) : (s.modFrame n f).rrq = s.rrq := rfl
@[simp] theorem modFrame_xregs (s : State) (n : Nat) (f : FrameSt → FrameSt) : (s.modFrame n f).xregs = s.xregs := rfl
@[simp] theorem modFrame_cmd (s : State) (n : Nat) (f : FrameSt → FrameSt) : (s.modFrame n f).cmd = s.cmd := rfl
@[simp] theorem modFrame_pfWait (s : State) (n : Nat) (f : FrameSt → FrameSt) : (s.modFrame n f).pfWait = s.pfWait := rfl
@[simp] theorem modFrame_cn (s : State) (n : Nat) (f : FrameSt → FrameSt) : (s.modFrame n f).cn = s.cn := rfl
@[simp] theorem modFrame_fslots (s : State) (n : Nat) (f : FrameSt → FrameSt) : (s.modFrame n f).fslots = s.fslots := rfl
@[simp] theorem modFrame_bfl (s : State) (n : Nat) (f : FrameSt → FrameSt) : (s.modFrame n f).bfl = s.bfl := rfl
@[simp] theorem modFrame_frames (s : State) (n : Nat) (f : FrameSt → FrameSt) : (s.modFrame n f).frames = s.frames.put n (f (s.frame n)) := rfl
@[simp] theorem modFrame_links (s : State) (n : Nat) (f : FrameSt → FrameSt) : (s.modFrame n f).links = s.links := rfl
@[simp] theorem modFrame_ports (s : State) (n : Nat) (f : FrameSt → FrameSt) : (s.modFrame n f).ports = s.ports := rfl
@[simp] theorem modFrame_routes (s : State) (n : Nat) (f : FrameSt → FrameSt) : (s.modFrame n f).routes = s.routes := rfl
@[simp] theorem modFrame_iwins (s : State) (n : Nat) (f : FrameSt → FrameSt) : (s.modFrame n f).iwins = s.iwins := rfl
@[simp] theorem modFrame_reqs (s : State) (n : Nat) (f : FrameSt → FrameSt) : (s.modFrame n f).reqs = s.reqs := rfl
@[simp] theorem modFrame_nextRid (s : State) (n : Nat) (f : FrameSt → FrameSt) : (s.modFrame n f).nextRid = s.nextRid := rfl
@[simp] theorem modFrame_doneReqs (s : State) (n : Nat) (f : FrameSt → FrameSt) : (s.modFrame n f).doneReqs = s.doneReqs := rfl
@[simp] theorem modFrame_transit (s : State) (n : Nat) (f : FrameSt → FrameSt) : (s.modFrame n f).transit = s.transit := rfl
@[simp] theorem modFrame_held (s : State) (n : Nat) (f : FrameSt → FrameSt) : (s.modFrame n f).held = s.held := rfl
@[simp] theorem modFrame_keyint (s : State) (n : Nat) (f : FrameSt → FrameSt) : (s.modFrame n f).keyint = s.keyint := rfl
@[simp] theorem modFrame_anchok (s : State) (n : Nat) (f : FrameSt → FrameSt) : (s.modFrame n f).anchok = s.anchok := rfl
@[simp] theorem modFrame_keysDrawn (s : State) (n : Nat) (f : FrameSt → FrameSt) : (s.modFrame n f).keysDrawn = s.keysDrawn := rfl
@[simp] theorem modFrame_hports (s : State) (n : Nat) (f : FrameSt → FrameSt) : (s.modFrame n f).hports = s.hports := rfl
@[simp] theorem modFrame_ready (s : State) (n : Nat) (f : FrameSt → FrameSt) : (s.modFrame n f).ready = s.ready := rfl
@[simp] theorem modFrame_pwrLimit (s : State) (n : Nat) (f : FrameSt → FrameSt) : (s.modFrame n f).pwrLimit = s.pwrLimit := rfl
@[simp] theorem modFrame_power (s : State) (n : Nat) (f : FrameSt → FrameSt) : (s.modFrame n f).power = s.power := rfl
@[simp] theorem modFrame_thr (s : State) (n : Nat) (f : FrameSt → FrameSt) : (s.modFrame n f).thr = s.thr := rfl
@[simp] theorem modFrame_thrDeep (s : State) (n : Nat) (f : FrameSt → FrameSt) : (s.modFrame n f).thrDeep = s.thrDeep := rfl
@[simp] theorem modFrame_thrSince (s : State) (n : Nat) (f : FrameSt → FrameSt) : (s.modFrame n f).thrSince = s.thrSince := rfl
@[simp] theorem modFrame_mctp (s : State) (n : Nat) (f : FrameSt → FrameSt) : (s.modFrame n f).mctp = s.mctp := rfl
@[simp] theorem modFrame_doe (s : State) (n : Nat) (f : FrameSt → FrameSt) : (s.modFrame n f).doe = s.doe := rfl
@[simp] theorem modFrame_mem (s : State) (n : Nat) (f : FrameSt → FrameSt) : (s.modFrame n f).mem = s.mem := rfl
@[simp] theorem modFrame_poison (s : State) (n : Nat) (f : FrameSt → FrameSt) : (s.modFrame n f).poison = s.poison := rfl
@[simp] theorem modFrame_agenda (s : State) (n : Nat) (f : FrameSt → FrameSt) : (s.modFrame n f).agenda = s.agenda := rfl
@[simp] theorem modFrame_issueQ (s : State) (n : Nat) (f : FrameSt → FrameSt) : (s.modFrame n f).issueQ = s.issueQ := rfl
@[simp] theorem modFrame_cur (s : State) (n : Nat) (f : FrameSt → FrameSt) : (s.modFrame n f).cur = s.cur := rfl
@[simp] theorem modFrame_ev (s : State) (n : Nat) (f : FrameSt → FrameSt) : (s.modFrame n f).ev = s.ev := rfl
@[simp] theorem modFrame_fresh (s : State) (n : Nat) (f : FrameSt → FrameSt) : (s.modFrame n f).fresh = s.fresh := rfl
@[simp] theorem modFrame_nextId (s : State) (n : Nat) (f : FrameSt → FrameSt) : (s.modFrame n f).nextId = s.nextId := rfl

/-! ### modThread -/

@[simp] theorem modThread_clk (s : State) (m i : Nat) (f : Thread → Thread) : (s.modThread m i f).clk = s.clk := by unfold modThread; split <;> rfl
@[simp] theorem modThread_pkgid (s : State) (m i : Nat) (f : Thread → Thread) : (s.modThread m i f).pkgid = s.pkgid := by unfold modThread; split <;> rfl
@[simp] theorem modThread_hopmax (s : State) (m i : Nat) (f : Thread → Thread) : (s.modThread m i f).hopmax = s.hopmax := by unfold modThread; split <;> rfl
@[simp] theorem modThread_teams (s : State) (m i : Nat) (f : Thread → Thread) : (s.modThread m i f).teams = s.teams := by unfold modThread; split <;> rfl
@[simp] theorem modThread_cores (s : State) (m i : Nat) (f : Thread → Thread) : (s.modThread m i f).cores = s.cores := by unfold modThread; split <;> rfl
@[simp] theorem modThread_dies (s : State) (m i : Nat) (f : Thread → Thread) : (s.modThread m i f).dies = s.dies := by unfold modThread; split <;> rfl
@[simp] theorem modThread_dirs (s : State) (m i : Nat) (f : Thread → Thread) : (s.modThread m i f).dirs = s.dirs := by unfold modThread; split <;> rfl
@[simp] theorem modThread_walkc (s : State) (m i : Nat) (f : Thread → Thread) : (s.modThread m i f).walkc = s.walkc := by unfold modThread; split <;> rfl
@[simp] theorem modThread_ctxs (s : State) (m i : Nat) (f : Thread → Thread) : (s.modThread m i f).ctxs = s.ctxs := by unfold modThread; split <;> rfl
@[simp] theorem modThread_queues (s : State) (m i : Nat) (f : Thread → Thread) : (s.modThread m i f).queues = s.queues := by unfold modThread; split <;> rfl
@[simp] theorem modThread_launches (s : State) (m i : Nat) (f : Thread → Thread) : (s.modThread m i f).launches = s.launches := by unfold modThread; split <;> rfl
@[simp] theorem modThread_nextLid (s : State) (m i : Nat) (f : Thread → Thread) : (s.modThread m i f).nextLid = s.nextLid := by unfold modThread; split <;> rfl
@[simp] theorem modThread_rrq (s : State) (m i : Nat) (f : Thread → Thread) : (s.modThread m i f).rrq = s.rrq := by unfold modThread; split <;> rfl
@[simp] theorem modThread_xregs (s : State) (m i : Nat) (f : Thread → Thread) : (s.modThread m i f).xregs = s.xregs := by unfold modThread; split <;> rfl
@[simp] theorem modThread_cmd (s : State) (m i : Nat) (f : Thread → Thread) : (s.modThread m i f).cmd = s.cmd := by unfold modThread; split <;> rfl
@[simp] theorem modThread_pfWait (s : State) (m i : Nat) (f : Thread → Thread) : (s.modThread m i f).pfWait = s.pfWait := by unfold modThread; split <;> rfl
@[simp] theorem modThread_cn (s : State) (m i : Nat) (f : Thread → Thread) : (s.modThread m i f).cn = s.cn := by unfold modThread; split <;> rfl
@[simp] theorem modThread_fslots (s : State) (m i : Nat) (f : Thread → Thread) : (s.modThread m i f).fslots = s.fslots := by unfold modThread; split <;> rfl
@[simp] theorem modThread_bfl (s : State) (m i : Nat) (f : Thread → Thread) : (s.modThread m i f).bfl = s.bfl := by unfold modThread; split <;> rfl
@[simp] theorem modThread_frames (s : State) (m i : Nat) (f : Thread → Thread) : (s.modThread m i f).frames = s.frames := by unfold modThread; split <;> rfl
@[simp] theorem modThread_links (s : State) (m i : Nat) (f : Thread → Thread) : (s.modThread m i f).links = s.links := by unfold modThread; split <;> rfl
@[simp] theorem modThread_ports (s : State) (m i : Nat) (f : Thread → Thread) : (s.modThread m i f).ports = s.ports := by unfold modThread; split <;> rfl
@[simp] theorem modThread_routes (s : State) (m i : Nat) (f : Thread → Thread) : (s.modThread m i f).routes = s.routes := by unfold modThread; split <;> rfl
@[simp] theorem modThread_iwins (s : State) (m i : Nat) (f : Thread → Thread) : (s.modThread m i f).iwins = s.iwins := by unfold modThread; split <;> rfl
@[simp] theorem modThread_reqs (s : State) (m i : Nat) (f : Thread → Thread) : (s.modThread m i f).reqs = s.reqs := by unfold modThread; split <;> rfl
@[simp] theorem modThread_nextRid (s : State) (m i : Nat) (f : Thread → Thread) : (s.modThread m i f).nextRid = s.nextRid := by unfold modThread; split <;> rfl
@[simp] theorem modThread_doneReqs (s : State) (m i : Nat) (f : Thread → Thread) : (s.modThread m i f).doneReqs = s.doneReqs := by unfold modThread; split <;> rfl
@[simp] theorem modThread_transit (s : State) (m i : Nat) (f : Thread → Thread) : (s.modThread m i f).transit = s.transit := by unfold modThread; split <;> rfl
@[simp] theorem modThread_held (s : State) (m i : Nat) (f : Thread → Thread) : (s.modThread m i f).held = s.held := by unfold modThread; split <;> rfl
@[simp] theorem modThread_keyint (s : State) (m i : Nat) (f : Thread → Thread) : (s.modThread m i f).keyint = s.keyint := by unfold modThread; split <;> rfl
@[simp] theorem modThread_anchok (s : State) (m i : Nat) (f : Thread → Thread) : (s.modThread m i f).anchok = s.anchok := by unfold modThread; split <;> rfl
@[simp] theorem modThread_keysDrawn (s : State) (m i : Nat) (f : Thread → Thread) : (s.modThread m i f).keysDrawn = s.keysDrawn := by unfold modThread; split <;> rfl
@[simp] theorem modThread_hports (s : State) (m i : Nat) (f : Thread → Thread) : (s.modThread m i f).hports = s.hports := by unfold modThread; split <;> rfl
@[simp] theorem modThread_ready (s : State) (m i : Nat) (f : Thread → Thread) : (s.modThread m i f).ready = s.ready := by unfold modThread; split <;> rfl
@[simp] theorem modThread_pwrLimit (s : State) (m i : Nat) (f : Thread → Thread) : (s.modThread m i f).pwrLimit = s.pwrLimit := by unfold modThread; split <;> rfl
@[simp] theorem modThread_power (s : State) (m i : Nat) (f : Thread → Thread) : (s.modThread m i f).power = s.power := by unfold modThread; split <;> rfl
@[simp] theorem modThread_thr (s : State) (m i : Nat) (f : Thread → Thread) : (s.modThread m i f).thr = s.thr := by unfold modThread; split <;> rfl
@[simp] theorem modThread_thrDeep (s : State) (m i : Nat) (f : Thread → Thread) : (s.modThread m i f).thrDeep = s.thrDeep := by unfold modThread; split <;> rfl
@[simp] theorem modThread_thrSince (s : State) (m i : Nat) (f : Thread → Thread) : (s.modThread m i f).thrSince = s.thrSince := by unfold modThread; split <;> rfl
@[simp] theorem modThread_mctp (s : State) (m i : Nat) (f : Thread → Thread) : (s.modThread m i f).mctp = s.mctp := by unfold modThread; split <;> rfl
@[simp] theorem modThread_doe (s : State) (m i : Nat) (f : Thread → Thread) : (s.modThread m i f).doe = s.doe := by unfold modThread; split <;> rfl
@[simp] theorem modThread_mem (s : State) (m i : Nat) (f : Thread → Thread) : (s.modThread m i f).mem = s.mem := by unfold modThread; split <;> rfl
@[simp] theorem modThread_poison (s : State) (m i : Nat) (f : Thread → Thread) : (s.modThread m i f).poison = s.poison := by unfold modThread; split <;> rfl
@[simp] theorem modThread_agenda (s : State) (m i : Nat) (f : Thread → Thread) : (s.modThread m i f).agenda = s.agenda := by unfold modThread; split <;> rfl
@[simp] theorem modThread_issueQ (s : State) (m i : Nat) (f : Thread → Thread) : (s.modThread m i f).issueQ = s.issueQ := by unfold modThread; split <;> rfl
@[simp] theorem modThread_cur (s : State) (m i : Nat) (f : Thread → Thread) : (s.modThread m i f).cur = s.cur := by unfold modThread; split <;> rfl
@[simp] theorem modThread_ev (s : State) (m i : Nat) (f : Thread → Thread) : (s.modThread m i f).ev = s.ev := by unfold modThread; split <;> rfl
@[simp] theorem modThread_fresh (s : State) (m i : Nat) (f : Thread → Thread) : (s.modThread m i f).fresh = s.fresh := by unfold modThread; split <;> rfl
@[simp] theorem modThread_nextId (s : State) (m i : Nat) (f : Thread → Thread) : (s.modThread m i f).nextId = s.nextId := by unfold modThread; split <;> rfl

/-! ### modTeam -/

@[simp] theorem modTeam_clk (s : State) (m : Nat) (f : Team → Team) : (s.modTeam m f).clk = s.clk := by unfold modTeam; split <;> rfl
@[simp] theorem modTeam_pkgid (s : State) (m : Nat) (f : Team → Team) : (s.modTeam m f).pkgid = s.pkgid := by unfold modTeam; split <;> rfl
@[simp] theorem modTeam_hopmax (s : State) (m : Nat) (f : Team → Team) : (s.modTeam m f).hopmax = s.hopmax := by unfold modTeam; split <;> rfl
@[simp] theorem modTeam_threads (s : State) (m : Nat) (f : Team → Team) : (s.modTeam m f).threads = s.threads := by unfold modTeam; split <;> rfl
@[simp] theorem modTeam_cores (s : State) (m : Nat) (f : Team → Team) : (s.modTeam m f).cores = s.cores := by unfold modTeam; split <;> rfl
@[simp] theorem modTeam_dies (s : State) (m : Nat) (f : Team → Team) : (s.modTeam m f).dies = s.dies := by unfold modTeam; split <;> rfl
@[simp] theorem modTeam_dirs (s : State) (m : Nat) (f : Team → Team) : (s.modTeam m f).dirs = s.dirs := by unfold modTeam; split <;> rfl
@[simp] theorem modTeam_walkc (s : State) (m : Nat) (f : Team → Team) : (s.modTeam m f).walkc = s.walkc := by unfold modTeam; split <;> rfl
@[simp] theorem modTeam_ctxs (s : State) (m : Nat) (f : Team → Team) : (s.modTeam m f).ctxs = s.ctxs := by unfold modTeam; split <;> rfl
@[simp] theorem modTeam_queues (s : State) (m : Nat) (f : Team → Team) : (s.modTeam m f).queues = s.queues := by unfold modTeam; split <;> rfl
@[simp] theorem modTeam_launches (s : State) (m : Nat) (f : Team → Team) : (s.modTeam m f).launches = s.launches := by unfold modTeam; split <;> rfl
@[simp] theorem modTeam_nextLid (s : State) (m : Nat) (f : Team → Team) : (s.modTeam m f).nextLid = s.nextLid := by unfold modTeam; split <;> rfl
@[simp] theorem modTeam_rrq (s : State) (m : Nat) (f : Team → Team) : (s.modTeam m f).rrq = s.rrq := by unfold modTeam; split <;> rfl
@[simp] theorem modTeam_xregs (s : State) (m : Nat) (f : Team → Team) : (s.modTeam m f).xregs = s.xregs := by unfold modTeam; split <;> rfl
@[simp] theorem modTeam_cmd (s : State) (m : Nat) (f : Team → Team) : (s.modTeam m f).cmd = s.cmd := by unfold modTeam; split <;> rfl
@[simp] theorem modTeam_pfWait (s : State) (m : Nat) (f : Team → Team) : (s.modTeam m f).pfWait = s.pfWait := by unfold modTeam; split <;> rfl
@[simp] theorem modTeam_cn (s : State) (m : Nat) (f : Team → Team) : (s.modTeam m f).cn = s.cn := by unfold modTeam; split <;> rfl
@[simp] theorem modTeam_fslots (s : State) (m : Nat) (f : Team → Team) : (s.modTeam m f).fslots = s.fslots := by unfold modTeam; split <;> rfl
@[simp] theorem modTeam_bfl (s : State) (m : Nat) (f : Team → Team) : (s.modTeam m f).bfl = s.bfl := by unfold modTeam; split <;> rfl
@[simp] theorem modTeam_frames (s : State) (m : Nat) (f : Team → Team) : (s.modTeam m f).frames = s.frames := by unfold modTeam; split <;> rfl
@[simp] theorem modTeam_links (s : State) (m : Nat) (f : Team → Team) : (s.modTeam m f).links = s.links := by unfold modTeam; split <;> rfl
@[simp] theorem modTeam_ports (s : State) (m : Nat) (f : Team → Team) : (s.modTeam m f).ports = s.ports := by unfold modTeam; split <;> rfl
@[simp] theorem modTeam_routes (s : State) (m : Nat) (f : Team → Team) : (s.modTeam m f).routes = s.routes := by unfold modTeam; split <;> rfl
@[simp] theorem modTeam_iwins (s : State) (m : Nat) (f : Team → Team) : (s.modTeam m f).iwins = s.iwins := by unfold modTeam; split <;> rfl
@[simp] theorem modTeam_reqs (s : State) (m : Nat) (f : Team → Team) : (s.modTeam m f).reqs = s.reqs := by unfold modTeam; split <;> rfl
@[simp] theorem modTeam_nextRid (s : State) (m : Nat) (f : Team → Team) : (s.modTeam m f).nextRid = s.nextRid := by unfold modTeam; split <;> rfl
@[simp] theorem modTeam_doneReqs (s : State) (m : Nat) (f : Team → Team) : (s.modTeam m f).doneReqs = s.doneReqs := by unfold modTeam; split <;> rfl
@[simp] theorem modTeam_transit (s : State) (m : Nat) (f : Team → Team) : (s.modTeam m f).transit = s.transit := by unfold modTeam; split <;> rfl
@[simp] theorem modTeam_held (s : State) (m : Nat) (f : Team → Team) : (s.modTeam m f).held = s.held := by unfold modTeam; split <;> rfl
@[simp] theorem modTeam_keyint (s : State) (m : Nat) (f : Team → Team) : (s.modTeam m f).keyint = s.keyint := by unfold modTeam; split <;> rfl
@[simp] theorem modTeam_anchok (s : State) (m : Nat) (f : Team → Team) : (s.modTeam m f).anchok = s.anchok := by unfold modTeam; split <;> rfl
@[simp] theorem modTeam_keysDrawn (s : State) (m : Nat) (f : Team → Team) : (s.modTeam m f).keysDrawn = s.keysDrawn := by unfold modTeam; split <;> rfl
@[simp] theorem modTeam_hports (s : State) (m : Nat) (f : Team → Team) : (s.modTeam m f).hports = s.hports := by unfold modTeam; split <;> rfl
@[simp] theorem modTeam_ready (s : State) (m : Nat) (f : Team → Team) : (s.modTeam m f).ready = s.ready := by unfold modTeam; split <;> rfl
@[simp] theorem modTeam_pwrLimit (s : State) (m : Nat) (f : Team → Team) : (s.modTeam m f).pwrLimit = s.pwrLimit := by unfold modTeam; split <;> rfl
@[simp] theorem modTeam_power (s : State) (m : Nat) (f : Team → Team) : (s.modTeam m f).power = s.power := by unfold modTeam; split <;> rfl
@[simp] theorem modTeam_thr (s : State) (m : Nat) (f : Team → Team) : (s.modTeam m f).thr = s.thr := by unfold modTeam; split <;> rfl
@[simp] theorem modTeam_thrDeep (s : State) (m : Nat) (f : Team → Team) : (s.modTeam m f).thrDeep = s.thrDeep := by unfold modTeam; split <;> rfl
@[simp] theorem modTeam_thrSince (s : State) (m : Nat) (f : Team → Team) : (s.modTeam m f).thrSince = s.thrSince := by unfold modTeam; split <;> rfl
@[simp] theorem modTeam_mctp (s : State) (m : Nat) (f : Team → Team) : (s.modTeam m f).mctp = s.mctp := by unfold modTeam; split <;> rfl
@[simp] theorem modTeam_doe (s : State) (m : Nat) (f : Team → Team) : (s.modTeam m f).doe = s.doe := by unfold modTeam; split <;> rfl
@[simp] theorem modTeam_mem (s : State) (m : Nat) (f : Team → Team) : (s.modTeam m f).mem = s.mem := by unfold modTeam; split <;> rfl
@[simp] theorem modTeam_poison (s : State) (m : Nat) (f : Team → Team) : (s.modTeam m f).poison = s.poison := by unfold modTeam; split <;> rfl
@[simp] theorem modTeam_agenda (s : State) (m : Nat) (f : Team → Team) : (s.modTeam m f).agenda = s.agenda := by unfold modTeam; split <;> rfl
@[simp] theorem modTeam_issueQ (s : State) (m : Nat) (f : Team → Team) : (s.modTeam m f).issueQ = s.issueQ := by unfold modTeam; split <;> rfl
@[simp] theorem modTeam_cur (s : State) (m : Nat) (f : Team → Team) : (s.modTeam m f).cur = s.cur := by unfold modTeam; split <;> rfl
@[simp] theorem modTeam_ev (s : State) (m : Nat) (f : Team → Team) : (s.modTeam m f).ev = s.ev := by unfold modTeam; split <;> rfl
@[simp] theorem modTeam_fresh (s : State) (m : Nat) (f : Team → Team) : (s.modTeam m f).fresh = s.fresh := by unfold modTeam; split <;> rfl
@[simp] theorem modTeam_nextId (s : State) (m : Nat) (f : Team → Team) : (s.modTeam m f).nextId = s.nextId := by unfold modTeam; split <;> rfl

/-! ### modLaunch -/

@[simp] theorem modLaunch_clk (s : State) (n : Nat) (f : Launch → Launch) : (s.modLaunch n f).clk = s.clk := by unfold modLaunch; split <;> rfl
@[simp] theorem modLaunch_pkgid (s : State) (n : Nat) (f : Launch → Launch) : (s.modLaunch n f).pkgid = s.pkgid := by unfold modLaunch; split <;> rfl
@[simp] theorem modLaunch_hopmax (s : State) (n : Nat) (f : Launch → Launch) : (s.modLaunch n f).hopmax = s.hopmax := by unfold modLaunch; split <;> rfl
@[simp] theorem modLaunch_threads (s : State) (n : Nat) (f : Launch → Launch) : (s.modLaunch n f).threads = s.threads := by unfold modLaunch; split <;> rfl
@[simp] theorem modLaunch_teams (s : State) (n : Nat) (f : Launch → Launch) : (s.modLaunch n f).teams = s.teams := by unfold modLaunch; split <;> rfl
@[simp] theorem modLaunch_cores (s : State) (n : Nat) (f : Launch → Launch) : (s.modLaunch n f).cores = s.cores := by unfold modLaunch; split <;> rfl
@[simp] theorem modLaunch_dies (s : State) (n : Nat) (f : Launch → Launch) : (s.modLaunch n f).dies = s.dies := by unfold modLaunch; split <;> rfl
@[simp] theorem modLaunch_dirs (s : State) (n : Nat) (f : Launch → Launch) : (s.modLaunch n f).dirs = s.dirs := by unfold modLaunch; split <;> rfl
@[simp] theorem modLaunch_walkc (s : State) (n : Nat) (f : Launch → Launch) : (s.modLaunch n f).walkc = s.walkc := by unfold modLaunch; split <;> rfl
@[simp] theorem modLaunch_ctxs (s : State) (n : Nat) (f : Launch → Launch) : (s.modLaunch n f).ctxs = s.ctxs := by unfold modLaunch; split <;> rfl
@[simp] theorem modLaunch_queues (s : State) (n : Nat) (f : Launch → Launch) : (s.modLaunch n f).queues = s.queues := by unfold modLaunch; split <;> rfl
@[simp] theorem modLaunch_nextLid (s : State) (n : Nat) (f : Launch → Launch) : (s.modLaunch n f).nextLid = s.nextLid := by unfold modLaunch; split <;> rfl
@[simp] theorem modLaunch_rrq (s : State) (n : Nat) (f : Launch → Launch) : (s.modLaunch n f).rrq = s.rrq := by unfold modLaunch; split <;> rfl
@[simp] theorem modLaunch_xregs (s : State) (n : Nat) (f : Launch → Launch) : (s.modLaunch n f).xregs = s.xregs := by unfold modLaunch; split <;> rfl
@[simp] theorem modLaunch_cmd (s : State) (n : Nat) (f : Launch → Launch) : (s.modLaunch n f).cmd = s.cmd := by unfold modLaunch; split <;> rfl
@[simp] theorem modLaunch_pfWait (s : State) (n : Nat) (f : Launch → Launch) : (s.modLaunch n f).pfWait = s.pfWait := by unfold modLaunch; split <;> rfl
@[simp] theorem modLaunch_cn (s : State) (n : Nat) (f : Launch → Launch) : (s.modLaunch n f).cn = s.cn := by unfold modLaunch; split <;> rfl
@[simp] theorem modLaunch_fslots (s : State) (n : Nat) (f : Launch → Launch) : (s.modLaunch n f).fslots = s.fslots := by unfold modLaunch; split <;> rfl
@[simp] theorem modLaunch_bfl (s : State) (n : Nat) (f : Launch → Launch) : (s.modLaunch n f).bfl = s.bfl := by unfold modLaunch; split <;> rfl
@[simp] theorem modLaunch_frames (s : State) (n : Nat) (f : Launch → Launch) : (s.modLaunch n f).frames = s.frames := by unfold modLaunch; split <;> rfl
@[simp] theorem modLaunch_links (s : State) (n : Nat) (f : Launch → Launch) : (s.modLaunch n f).links = s.links := by unfold modLaunch; split <;> rfl
@[simp] theorem modLaunch_ports (s : State) (n : Nat) (f : Launch → Launch) : (s.modLaunch n f).ports = s.ports := by unfold modLaunch; split <;> rfl
@[simp] theorem modLaunch_routes (s : State) (n : Nat) (f : Launch → Launch) : (s.modLaunch n f).routes = s.routes := by unfold modLaunch; split <;> rfl
@[simp] theorem modLaunch_iwins (s : State) (n : Nat) (f : Launch → Launch) : (s.modLaunch n f).iwins = s.iwins := by unfold modLaunch; split <;> rfl
@[simp] theorem modLaunch_reqs (s : State) (n : Nat) (f : Launch → Launch) : (s.modLaunch n f).reqs = s.reqs := by unfold modLaunch; split <;> rfl
@[simp] theorem modLaunch_nextRid (s : State) (n : Nat) (f : Launch → Launch) : (s.modLaunch n f).nextRid = s.nextRid := by unfold modLaunch; split <;> rfl
@[simp] theorem modLaunch_doneReqs (s : State) (n : Nat) (f : Launch → Launch) : (s.modLaunch n f).doneReqs = s.doneReqs := by unfold modLaunch; split <;> rfl
@[simp] theorem modLaunch_transit (s : State) (n : Nat) (f : Launch → Launch) : (s.modLaunch n f).transit = s.transit := by unfold modLaunch; split <;> rfl
@[simp] theorem modLaunch_held (s : State) (n : Nat) (f : Launch → Launch) : (s.modLaunch n f).held = s.held := by unfold modLaunch; split <;> rfl
@[simp] theorem modLaunch_keyint (s : State) (n : Nat) (f : Launch → Launch) : (s.modLaunch n f).keyint = s.keyint := by unfold modLaunch; split <;> rfl
@[simp] theorem modLaunch_anchok (s : State) (n : Nat) (f : Launch → Launch) : (s.modLaunch n f).anchok = s.anchok := by unfold modLaunch; split <;> rfl
@[simp] theorem modLaunch_keysDrawn (s : State) (n : Nat) (f : Launch → Launch) : (s.modLaunch n f).keysDrawn = s.keysDrawn := by unfold modLaunch; split <;> rfl
@[simp] theorem modLaunch_hports (s : State) (n : Nat) (f : Launch → Launch) : (s.modLaunch n f).hports = s.hports := by unfold modLaunch; split <;> rfl
@[simp] theorem modLaunch_ready (s : State) (n : Nat) (f : Launch → Launch) : (s.modLaunch n f).ready = s.ready := by unfold modLaunch; split <;> rfl
@[simp] theorem modLaunch_pwrLimit (s : State) (n : Nat) (f : Launch → Launch) : (s.modLaunch n f).pwrLimit = s.pwrLimit := by unfold modLaunch; split <;> rfl
@[simp] theorem modLaunch_power (s : State) (n : Nat) (f : Launch → Launch) : (s.modLaunch n f).power = s.power := by unfold modLaunch; split <;> rfl
@[simp] theorem modLaunch_thr (s : State) (n : Nat) (f : Launch → Launch) : (s.modLaunch n f).thr = s.thr := by unfold modLaunch; split <;> rfl
@[simp] theorem modLaunch_thrDeep (s : State) (n : Nat) (f : Launch → Launch) : (s.modLaunch n f).thrDeep = s.thrDeep := by unfold modLaunch; split <;> rfl
@[simp] theorem modLaunch_thrSince (s : State) (n : Nat) (f : Launch → Launch) : (s.modLaunch n f).thrSince = s.thrSince := by unfold modLaunch; split <;> rfl
@[simp] theorem modLaunch_mctp (s : State) (n : Nat) (f : Launch → Launch) : (s.modLaunch n f).mctp = s.mctp := by unfold modLaunch; split <;> rfl
@[simp] theorem modLaunch_doe (s : State) (n : Nat) (f : Launch → Launch) : (s.modLaunch n f).doe = s.doe := by unfold modLaunch; split <;> rfl
@[simp] theorem modLaunch_mem (s : State) (n : Nat) (f : Launch → Launch) : (s.modLaunch n f).mem = s.mem := by unfold modLaunch; split <;> rfl
@[simp] theorem modLaunch_poison (s : State) (n : Nat) (f : Launch → Launch) : (s.modLaunch n f).poison = s.poison := by unfold modLaunch; split <;> rfl
@[simp] theorem modLaunch_agenda (s : State) (n : Nat) (f : Launch → Launch) : (s.modLaunch n f).agenda = s.agenda := by unfold modLaunch; split <;> rfl
@[simp] theorem modLaunch_issueQ (s : State) (n : Nat) (f : Launch → Launch) : (s.modLaunch n f).issueQ = s.issueQ := by unfold modLaunch; split <;> rfl
@[simp] theorem modLaunch_cur (s : State) (n : Nat) (f : Launch → Launch) : (s.modLaunch n f).cur = s.cur := by unfold modLaunch; split <;> rfl
@[simp] theorem modLaunch_ev (s : State) (n : Nat) (f : Launch → Launch) : (s.modLaunch n f).ev = s.ev := by unfold modLaunch; split <;> rfl
@[simp] theorem modLaunch_fresh (s : State) (n : Nat) (f : Launch → Launch) : (s.modLaunch n f).fresh = s.fresh := by unfold modLaunch; split <;> rfl
@[simp] theorem modLaunch_nextId (s : State) (n : Nat) (f : Launch → Launch) : (s.modLaunch n f).nextId = s.nextId := by unfold modLaunch; split <;> rfl

/-! ### modThreads -/

@[simp] theorem modThreads_clk (s : State) (m : Nat) (f : Nat → Thread → Thread) : (s.modThreads m f).clk = s.clk := rfl
@[simp] theorem modThreads_pkgid (s : State) (m : Nat) (f : Nat → Thread → Thread) : (s.modThreads m f).pkgid = s.pkgid := rfl
@[simp] theorem modThreads_hopmax (s : State) (m : Nat) (f : Nat → Thread → Thread) : (s.modThreads m f).hopmax = s.hopmax := rfl
@[simp] theorem modThreads_teams (s : State) (m : Nat) (f : Nat → Thread → Thread) : (s.modThreads m f).teams = s.teams := rfl
@[simp] theorem modThreads_cores (s : State) (m : Nat) (f : Nat → Thread → Thread) : (s.modThreads m f).cores = s.cores := rfl
@[simp] theorem modThreads_dies (s : State) (m : Nat) (f : Nat → Thread → Thread) : (s.modThreads m f).dies = s.dies := rfl
@[simp] theorem modThreads_dirs (s : State) (m : Nat) (f : Nat → Thread → Thread) : (s.modThreads m f).dirs = s.dirs := rfl
@[simp] theorem modThreads_walkc (s : State) (m : Nat) (f : Nat → Thread → Thread) : (s.modThreads m f).walkc = s.walkc := rfl
@[simp] theorem modThreads_ctxs (s : State) (m : Nat) (f : Nat → Thread → Thread) : (s.modThreads m f).ctxs = s.ctxs := rfl
@[simp] theorem modThreads_queues (s : State) (m : Nat) (f : Nat → Thread → Thread) : (s.modThreads m f).queues = s.queues := rfl
@[simp] theorem modThreads_launches (s : State) (m : Nat) (f : Nat → Thread → Thread) : (s.modThreads m f).launches = s.launches := rfl
@[simp] theorem modThreads_nextLid (s : State) (m : Nat) (f : Nat → Thread → Thread) : (s.modThreads m f).nextLid = s.nextLid := rfl
@[simp] theorem modThreads_rrq (s : State) (m : Nat) (f : Nat → Thread → Thread) : (s.modThreads m f).rrq = s.rrq := rfl
@[simp] theorem modThreads_xregs (s : State) (m : Nat) (f : Nat → Thread → Thread) : (s.modThreads m f).xregs = s.xregs := rfl
@[simp] theorem modThreads_cmd (s : State) (m : Nat) (f : Nat → Thread → Thread) : (s.modThreads m f).cmd = s.cmd := rfl
@[simp] theorem modThreads_pfWait (s : State) (m : Nat) (f : Nat → Thread → Thread) : (s.modThreads m f).pfWait = s.pfWait := rfl
@[simp] theorem modThreads_cn (s : State) (m : Nat) (f : Nat → Thread → Thread) : (s.modThreads m f).cn = s.cn := rfl
@[simp] theorem modThreads_fslots (s : State) (m : Nat) (f : Nat → Thread → Thread) : (s.modThreads m f).fslots = s.fslots := rfl
@[simp] theorem modThreads_bfl (s : State) (m : Nat) (f : Nat → Thread → Thread) : (s.modThreads m f).bfl = s.bfl := rfl
@[simp] theorem modThreads_frames (s : State) (m : Nat) (f : Nat → Thread → Thread) : (s.modThreads m f).frames = s.frames := rfl
@[simp] theorem modThreads_links (s : State) (m : Nat) (f : Nat → Thread → Thread) : (s.modThreads m f).links = s.links := rfl
@[simp] theorem modThreads_ports (s : State) (m : Nat) (f : Nat → Thread → Thread) : (s.modThreads m f).ports = s.ports := rfl
@[simp] theorem modThreads_routes (s : State) (m : Nat) (f : Nat → Thread → Thread) : (s.modThreads m f).routes = s.routes := rfl
@[simp] theorem modThreads_iwins (s : State) (m : Nat) (f : Nat → Thread → Thread) : (s.modThreads m f).iwins = s.iwins := rfl
@[simp] theorem modThreads_reqs (s : State) (m : Nat) (f : Nat → Thread → Thread) : (s.modThreads m f).reqs = s.reqs := rfl
@[simp] theorem modThreads_nextRid (s : State) (m : Nat) (f : Nat → Thread → Thread) : (s.modThreads m f).nextRid = s.nextRid := rfl
@[simp] theorem modThreads_doneReqs (s : State) (m : Nat) (f : Nat → Thread → Thread) : (s.modThreads m f).doneReqs = s.doneReqs := rfl
@[simp] theorem modThreads_transit (s : State) (m : Nat) (f : Nat → Thread → Thread) : (s.modThreads m f).transit = s.transit := rfl
@[simp] theorem modThreads_held (s : State) (m : Nat) (f : Nat → Thread → Thread) : (s.modThreads m f).held = s.held := rfl
@[simp] theorem modThreads_keyint (s : State) (m : Nat) (f : Nat → Thread → Thread) : (s.modThreads m f).keyint = s.keyint := rfl
@[simp] theorem modThreads_anchok (s : State) (m : Nat) (f : Nat → Thread → Thread) : (s.modThreads m f).anchok = s.anchok := rfl
@[simp] theorem modThreads_keysDrawn (s : State) (m : Nat) (f : Nat → Thread → Thread) : (s.modThreads m f).keysDrawn = s.keysDrawn := rfl
@[simp] theorem modThreads_hports (s : State) (m : Nat) (f : Nat → Thread → Thread) : (s.modThreads m f).hports = s.hports := rfl
@[simp] theorem modThreads_ready (s : State) (m : Nat) (f : Nat → Thread → Thread) : (s.modThreads m f).ready = s.ready := rfl
@[simp] theorem modThreads_pwrLimit (s : State) (m : Nat) (f : Nat → Thread → Thread) : (s.modThreads m f).pwrLimit = s.pwrLimit := rfl
@[simp] theorem modThreads_power (s : State) (m : Nat) (f : Nat → Thread → Thread) : (s.modThreads m f).power = s.power := rfl
@[simp] theorem modThreads_thr (s : State) (m : Nat) (f : Nat → Thread → Thread) : (s.modThreads m f).thr = s.thr := rfl
@[simp] theorem modThreads_thrDeep (s : State) (m : Nat) (f : Nat → Thread → Thread) : (s.modThreads m f).thrDeep = s.thrDeep := rfl
@[simp] theorem modThreads_thrSince (s : State) (m : Nat) (f : Nat → Thread → Thread) : (s.modThreads m f).thrSince = s.thrSince := rfl
@[simp] theorem modThreads_mctp (s : State) (m : Nat) (f : Nat → Thread → Thread) : (s.modThreads m f).mctp = s.mctp := rfl
@[simp] theorem modThreads_doe (s : State) (m : Nat) (f : Nat → Thread → Thread) : (s.modThreads m f).doe = s.doe := rfl
@[simp] theorem modThreads_mem (s : State) (m : Nat) (f : Nat → Thread → Thread) : (s.modThreads m f).mem = s.mem := rfl
@[simp] theorem modThreads_poison (s : State) (m : Nat) (f : Nat → Thread → Thread) : (s.modThreads m f).poison = s.poison := rfl
@[simp] theorem modThreads_agenda (s : State) (m : Nat) (f : Nat → Thread → Thread) : (s.modThreads m f).agenda = s.agenda := rfl
@[simp] theorem modThreads_issueQ (s : State) (m : Nat) (f : Nat → Thread → Thread) : (s.modThreads m f).issueQ = s.issueQ := rfl
@[simp] theorem modThreads_cur (s : State) (m : Nat) (f : Nat → Thread → Thread) : (s.modThreads m f).cur = s.cur := rfl
@[simp] theorem modThreads_ev (s : State) (m : Nat) (f : Nat → Thread → Thread) : (s.modThreads m f).ev = s.ev := rfl
@[simp] theorem modThreads_fresh (s : State) (m : Nat) (f : Nat → Thread → Thread) : (s.modThreads m f).fresh = s.fresh := rfl
@[simp] theorem modThreads_nextId (s : State) (m : Nat) (f : Nat → Thread → Thread) : (s.modThreads m f).nextId = s.nextId := rfl

/-! ### mapGroup -/

@[simp] theorem mapGroup_clk (s : State) (g : Group) (f : Nat → Thread → Thread) : (s.mapGroup g f).clk = s.clk := rfl
@[simp] theorem mapGroup_pkgid (s : State) (g : Group) (f : Nat → Thread → Thread) : (s.mapGroup g f).pkgid = s.pkgid := rfl
@[simp] theorem mapGroup_hopmax (s : State) (g : Group) (f : Nat → Thread → Thread) : (s.mapGroup g f).hopmax = s.hopmax := rfl
@[simp] theorem mapGroup_teams (s : State) (g : Group) (f : Nat → Thread → Thread) : (s.mapGroup g f).teams = s.teams := rfl
@[simp] theorem mapGroup_cores (s : State) (g : Group) (f : Nat → Thread → Thread) : (s.mapGroup g f).cores = s.cores := rfl
@[simp] theorem mapGroup_dies (s : State) (g : Group) (f : Nat → Thread → Thread) : (s.mapGroup g f).dies = s.dies := rfl
@[simp] theorem mapGroup_dirs (s : State) (g : Group) (f : Nat → Thread → Thread) : (s.mapGroup g f).dirs = s.dirs := rfl
@[simp] theorem mapGroup_walkc (s : State) (g : Group) (f : Nat → Thread → Thread) : (s.mapGroup g f).walkc = s.walkc := rfl
@[simp] theorem mapGroup_ctxs (s : State) (g : Group) (f : Nat → Thread → Thread) : (s.mapGroup g f).ctxs = s.ctxs := rfl
@[simp] theorem mapGroup_queues (s : State) (g : Group) (f : Nat → Thread → Thread) : (s.mapGroup g f).queues = s.queues := rfl
@[simp] theorem mapGroup_launches (s : State) (g : Group) (f : Nat → Thread → Thread) : (s.mapGroup g f).launches = s.launches := rfl
@[simp] theorem mapGroup_nextLid (s : State) (g : Group) (f : Nat → Thread → Thread) : (s.mapGroup g f).nextLid = s.nextLid := rfl
@[simp] theorem mapGroup_rrq (s : State) (g : Group) (f : Nat → Thread → Thread) : (s.mapGroup g f).rrq = s.rrq := rfl
@[simp] theorem mapGroup_xregs (s : State) (g : Group) (f : Nat → Thread → Thread) : (s.mapGroup g f).xregs = s.xregs := rfl
@[simp] theorem mapGroup_cmd (s : State) (g : Group) (f : Nat → Thread → Thread) : (s.mapGroup g f).cmd = s.cmd := rfl
@[simp] theorem mapGroup_pfWait (s : State) (g : Group) (f : Nat → Thread → Thread) : (s.mapGroup g f).pfWait = s.pfWait := rfl
@[simp] theorem mapGroup_cn (s : State) (g : Group) (f : Nat → Thread → Thread) : (s.mapGroup g f).cn = s.cn := rfl
@[simp] theorem mapGroup_fslots (s : State) (g : Group) (f : Nat → Thread → Thread) : (s.mapGroup g f).fslots = s.fslots := rfl
@[simp] theorem mapGroup_bfl (s : State) (g : Group) (f : Nat → Thread → Thread) : (s.mapGroup g f).bfl = s.bfl := rfl
@[simp] theorem mapGroup_frames (s : State) (g : Group) (f : Nat → Thread → Thread) : (s.mapGroup g f).frames = s.frames := rfl
@[simp] theorem mapGroup_links (s : State) (g : Group) (f : Nat → Thread → Thread) : (s.mapGroup g f).links = s.links := rfl
@[simp] theorem mapGroup_ports (s : State) (g : Group) (f : Nat → Thread → Thread) : (s.mapGroup g f).ports = s.ports := rfl
@[simp] theorem mapGroup_routes (s : State) (g : Group) (f : Nat → Thread → Thread) : (s.mapGroup g f).routes = s.routes := rfl
@[simp] theorem mapGroup_iwins (s : State) (g : Group) (f : Nat → Thread → Thread) : (s.mapGroup g f).iwins = s.iwins := rfl
@[simp] theorem mapGroup_reqs (s : State) (g : Group) (f : Nat → Thread → Thread) : (s.mapGroup g f).reqs = s.reqs := rfl
@[simp] theorem mapGroup_nextRid (s : State) (g : Group) (f : Nat → Thread → Thread) : (s.mapGroup g f).nextRid = s.nextRid := rfl
@[simp] theorem mapGroup_doneReqs (s : State) (g : Group) (f : Nat → Thread → Thread) : (s.mapGroup g f).doneReqs = s.doneReqs := rfl
@[simp] theorem mapGroup_transit (s : State) (g : Group) (f : Nat → Thread → Thread) : (s.mapGroup g f).transit = s.transit := rfl
@[simp] theorem mapGroup_held (s : State) (g : Group) (f : Nat → Thread → Thread) : (s.mapGroup g f).held = s.held := rfl
@[simp] theorem mapGroup_keyint (s : State) (g : Group) (f : Nat → Thread → Thread) : (s.mapGroup g f).keyint = s.keyint := rfl
@[simp] theorem mapGroup_anchok (s : State) (g : Group) (f : Nat → Thread → Thread) : (s.mapGroup g f).anchok = s.anchok := rfl
@[simp] theorem mapGroup_keysDrawn (s : State) (g : Group) (f : Nat → Thread → Thread) : (s.mapGroup g f).keysDrawn = s.keysDrawn := rfl
@[simp] theorem mapGroup_hports (s : State) (g : Group) (f : Nat → Thread → Thread) : (s.mapGroup g f).hports = s.hports := rfl
@[simp] theorem mapGroup_ready (s : State) (g : Group) (f : Nat → Thread → Thread) : (s.mapGroup g f).ready = s.ready := rfl
@[simp] theorem mapGroup_pwrLimit (s : State) (g : Group) (f : Nat → Thread → Thread) : (s.mapGroup g f).pwrLimit = s.pwrLimit := rfl
@[simp] theorem mapGroup_power (s : State) (g : Group) (f : Nat → Thread → Thread) : (s.mapGroup g f).power = s.power := rfl
@[simp] theorem mapGroup_thr (s : State) (g : Group) (f : Nat → Thread → Thread) : (s.mapGroup g f).thr = s.thr := rfl
@[simp] theorem mapGroup_thrDeep (s : State) (g : Group) (f : Nat → Thread → Thread) : (s.mapGroup g f).thrDeep = s.thrDeep := rfl
@[simp] theorem mapGroup_thrSince (s : State) (g : Group) (f : Nat → Thread → Thread) : (s.mapGroup g f).thrSince = s.thrSince := rfl
@[simp] theorem mapGroup_mctp (s : State) (g : Group) (f : Nat → Thread → Thread) : (s.mapGroup g f).mctp = s.mctp := rfl
@[simp] theorem mapGroup_doe (s : State) (g : Group) (f : Nat → Thread → Thread) : (s.mapGroup g f).doe = s.doe := rfl
@[simp] theorem mapGroup_mem (s : State) (g : Group) (f : Nat → Thread → Thread) : (s.mapGroup g f).mem = s.mem := rfl
@[simp] theorem mapGroup_poison (s : State) (g : Group) (f : Nat → Thread → Thread) : (s.mapGroup g f).poison = s.poison := rfl
@[simp] theorem mapGroup_agenda (s : State) (g : Group) (f : Nat → Thread → Thread) : (s.mapGroup g f).agenda = s.agenda := rfl
@[simp] theorem mapGroup_issueQ (s : State) (g : Group) (f : Nat → Thread → Thread) : (s.mapGroup g f).issueQ = s.issueQ := rfl
@[simp] theorem mapGroup_cur (s : State) (g : Group) (f : Nat → Thread → Thread) : (s.mapGroup g f).cur = s.cur := rfl
@[simp] theorem mapGroup_ev (s : State) (g : Group) (f : Nat → Thread → Thread) : (s.mapGroup g f).ev = s.ev := rfl
@[simp] theorem mapGroup_fresh (s : State) (g : Group) (f : Nat → Thread → Thread) : (s.mapGroup g f).fresh = s.fresh := rfl
@[simp] theorem mapGroup_nextId (s : State) (g : Group) (f : Nat → Thread → Thread) : (s.mapGroup g f).nextId = s.nextId := rfl

/-! ### soon -/

@[simp] theorem soon_clk (s : State) (l : List Happening) : (s.soon l).clk = s.clk := rfl
@[simp] theorem soon_pkgid (s : State) (l : List Happening) : (s.soon l).pkgid = s.pkgid := rfl
@[simp] theorem soon_hopmax (s : State) (l : List Happening) : (s.soon l).hopmax = s.hopmax := rfl
@[simp] theorem soon_threads (s : State) (l : List Happening) : (s.soon l).threads = s.threads := rfl
@[simp] theorem soon_teams (s : State) (l : List Happening) : (s.soon l).teams = s.teams := rfl
@[simp] theorem soon_cores (s : State) (l : List Happening) : (s.soon l).cores = s.cores := rfl
@[simp] theorem soon_dies (s : State) (l : List Happening) : (s.soon l).dies = s.dies := rfl
@[simp] theorem soon_dirs (s : State) (l : List Happening) : (s.soon l).dirs = s.dirs := rfl
@[simp] theorem soon_walkc (s : State) (l : List Happening) : (s.soon l).walkc = s.walkc := rfl
@[simp] theorem soon_ctxs (s : State) (l : List Happening) : (s.soon l).ctxs = s.ctxs := rfl
@[simp] theorem soon_queues (s : State) (l : List Happening) : (s.soon l).queues = s.queues := rfl
@[simp] theorem soon_launches (s : State) (l : List Happening) : (s.soon l).launches = s.launches := rfl
@[simp] theorem soon_nextLid (s : State) (l : List Happening) : (s.soon l).nextLid = s.nextLid := rfl
@[simp] theorem soon_rrq (s : State) (l : List Happening) : (s.soon l).rrq = s.rrq := rfl
@[simp] theorem soon_xregs (s : State) (l : List Happening) : (s.soon l).xregs = s.xregs := rfl
@[simp] theorem soon_cmd (s : State) (l : List Happening) : (s.soon l).cmd = s.cmd := rfl
@[simp] theorem soon_pfWait (s : State) (l : List Happening) : (s.soon l).pfWait = s.pfWait := rfl
@[simp] theorem soon_cn (s : State) (l : List Happening) : (s.soon l).cn = s.cn := rfl
@[simp] theorem soon_fslots (s : State) (l : List Happening) : (s.soon l).fslots = s.fslots := rfl
@[simp] theorem soon_bfl (s : State) (l : List Happening) : (s.soon l).bfl = s.bfl := rfl
@[simp] theorem soon_frames (s : State) (l : List Happening) : (s.soon l).frames = s.frames := rfl
@[simp] theorem soon_links (s : State) (l : List Happening) : (s.soon l).links = s.links := rfl
@[simp] theorem soon_ports (s : State) (l : List Happening) : (s.soon l).ports = s.ports := rfl
@[simp] theorem soon_routes (s : State) (l : List Happening) : (s.soon l).routes = s.routes := rfl
@[simp] theorem soon_iwins (s : State) (l : List Happening) : (s.soon l).iwins = s.iwins := rfl
@[simp] theorem soon_reqs (s : State) (l : List Happening) : (s.soon l).reqs = s.reqs := rfl
@[simp] theorem soon_nextRid (s : State) (l : List Happening) : (s.soon l).nextRid = s.nextRid := rfl
@[simp] theorem soon_doneReqs (s : State) (l : List Happening) : (s.soon l).doneReqs = s.doneReqs := rfl
@[simp] theorem soon_transit (s : State) (l : List Happening) : (s.soon l).transit = s.transit := rfl
@[simp] theorem soon_held (s : State) (l : List Happening) : (s.soon l).held = s.held := rfl
@[simp] theorem soon_keyint (s : State) (l : List Happening) : (s.soon l).keyint = s.keyint := rfl
@[simp] theorem soon_anchok (s : State) (l : List Happening) : (s.soon l).anchok = s.anchok := rfl
@[simp] theorem soon_keysDrawn (s : State) (l : List Happening) : (s.soon l).keysDrawn = s.keysDrawn := rfl
@[simp] theorem soon_hports (s : State) (l : List Happening) : (s.soon l).hports = s.hports := rfl
@[simp] theorem soon_ready (s : State) (l : List Happening) : (s.soon l).ready = s.ready := rfl
@[simp] theorem soon_pwrLimit (s : State) (l : List Happening) : (s.soon l).pwrLimit = s.pwrLimit := rfl
@[simp] theorem soon_power (s : State) (l : List Happening) : (s.soon l).power = s.power := rfl
@[simp] theorem soon_thr (s : State) (l : List Happening) : (s.soon l).thr = s.thr := rfl
@[simp] theorem soon_thrDeep (s : State) (l : List Happening) : (s.soon l).thrDeep = s.thrDeep := rfl
@[simp] theorem soon_thrSince (s : State) (l : List Happening) : (s.soon l).thrSince = s.thrSince := rfl
@[simp] theorem soon_mctp (s : State) (l : List Happening) : (s.soon l).mctp = s.mctp := rfl
@[simp] theorem soon_doe (s : State) (l : List Happening) : (s.soon l).doe = s.doe := rfl
@[simp] theorem soon_mem (s : State) (l : List Happening) : (s.soon l).mem = s.mem := rfl
@[simp] theorem soon_poison (s : State) (l : List Happening) : (s.soon l).poison = s.poison := rfl
@[simp] theorem soon_agenda (s : State) (l : List Happening) : (s.soon l).agenda = beforePass l s.agenda := rfl
@[simp] theorem soon_issueQ (s : State) (l : List Happening) : (s.soon l).issueQ = s.issueQ := rfl
@[simp] theorem soon_cur (s : State) (l : List Happening) : (s.soon l).cur = s.cur := rfl
@[simp] theorem soon_ev (s : State) (l : List Happening) : (s.soon l).ev = s.ev := rfl
@[simp] theorem soon_fresh (s : State) (l : List Happening) : (s.soon l).fresh = s.fresh := rfl
@[simp] theorem soon_nextId (s : State) (l : List Happening) : (s.soon l).nextId = s.nextId := rfl

/-! ### poke -/

@[simp] theorem poke_clk (s : State) (a : Nat) (b : Byte) : (s.poke a b).clk = s.clk := rfl
@[simp] theorem poke_pkgid (s : State) (a : Nat) (b : Byte) : (s.poke a b).pkgid = s.pkgid := rfl
@[simp] theorem poke_hopmax (s : State) (a : Nat) (b : Byte) : (s.poke a b).hopmax = s.hopmax := rfl
@[simp] theorem poke_threads (s : State) (a : Nat) (b : Byte) : (s.poke a b).threads = s.threads := rfl
@[simp] theorem poke_teams (s : State) (a : Nat) (b : Byte) : (s.poke a b).teams = s.teams := rfl
@[simp] theorem poke_cores (s : State) (a : Nat) (b : Byte) : (s.poke a b).cores = s.cores := rfl
@[simp] theorem poke_dies (s : State) (a : Nat) (b : Byte) : (s.poke a b).dies = s.dies := rfl
@[simp] theorem poke_dirs (s : State) (a : Nat) (b : Byte) : (s.poke a b).dirs = s.dirs := rfl
@[simp] theorem poke_walkc (s : State) (a : Nat) (b : Byte) : (s.poke a b).walkc = s.walkc := rfl
@[simp] theorem poke_ctxs (s : State) (a : Nat) (b : Byte) : (s.poke a b).ctxs = s.ctxs := rfl
@[simp] theorem poke_queues (s : State) (a : Nat) (b : Byte) : (s.poke a b).queues = s.queues := rfl
@[simp] theorem poke_launches (s : State) (a : Nat) (b : Byte) : (s.poke a b).launches = s.launches := rfl
@[simp] theorem poke_nextLid (s : State) (a : Nat) (b : Byte) : (s.poke a b).nextLid = s.nextLid := rfl
@[simp] theorem poke_rrq (s : State) (a : Nat) (b : Byte) : (s.poke a b).rrq = s.rrq := rfl
@[simp] theorem poke_xregs (s : State) (a : Nat) (b : Byte) : (s.poke a b).xregs = s.xregs := rfl
@[simp] theorem poke_cmd (s : State) (a : Nat) (b : Byte) : (s.poke a b).cmd = s.cmd := rfl
@[simp] theorem poke_pfWait (s : State) (a : Nat) (b : Byte) : (s.poke a b).pfWait = s.pfWait := rfl
@[simp] theorem poke_cn (s : State) (a : Nat) (b : Byte) : (s.poke a b).cn = s.cn := rfl
@[simp] theorem poke_fslots (s : State) (a : Nat) (b : Byte) : (s.poke a b).fslots = s.fslots := rfl
@[simp] theorem poke_bfl (s : State) (a : Nat) (b : Byte) : (s.poke a b).bfl = s.bfl := rfl
@[simp] theorem poke_frames (s : State) (a : Nat) (b : Byte) : (s.poke a b).frames = s.frames := rfl
@[simp] theorem poke_links (s : State) (a : Nat) (b : Byte) : (s.poke a b).links = s.links := rfl
@[simp] theorem poke_ports (s : State) (a : Nat) (b : Byte) : (s.poke a b).ports = s.ports := rfl
@[simp] theorem poke_routes (s : State) (a : Nat) (b : Byte) : (s.poke a b).routes = s.routes := rfl
@[simp] theorem poke_iwins (s : State) (a : Nat) (b : Byte) : (s.poke a b).iwins = s.iwins := rfl
@[simp] theorem poke_reqs (s : State) (a : Nat) (b : Byte) : (s.poke a b).reqs = s.reqs := rfl
@[simp] theorem poke_nextRid (s : State) (a : Nat) (b : Byte) : (s.poke a b).nextRid = s.nextRid := rfl
@[simp] theorem poke_doneReqs (s : State) (a : Nat) (b : Byte) : (s.poke a b).doneReqs = s.doneReqs := rfl
@[simp] theorem poke_transit (s : State) (a : Nat) (b : Byte) : (s.poke a b).transit = s.transit := rfl
@[simp] theorem poke_held (s : State) (a : Nat) (b : Byte) : (s.poke a b).held = s.held := rfl
@[simp] theorem poke_keyint (s : State) (a : Nat) (b : Byte) : (s.poke a b).keyint = s.keyint := rfl
@[simp] theorem poke_anchok (s : State) (a : Nat) (b : Byte) : (s.poke a b).anchok = s.anchok := rfl
@[simp] theorem poke_keysDrawn (s : State) (a : Nat) (b : Byte) : (s.poke a b).keysDrawn = s.keysDrawn := rfl
@[simp] theorem poke_hports (s : State) (a : Nat) (b : Byte) : (s.poke a b).hports = s.hports := rfl
@[simp] theorem poke_ready (s : State) (a : Nat) (b : Byte) : (s.poke a b).ready = s.ready := rfl
@[simp] theorem poke_pwrLimit (s : State) (a : Nat) (b : Byte) : (s.poke a b).pwrLimit = s.pwrLimit := rfl
@[simp] theorem poke_power (s : State) (a : Nat) (b : Byte) : (s.poke a b).power = s.power := rfl
@[simp] theorem poke_thr (s : State) (a : Nat) (b : Byte) : (s.poke a b).thr = s.thr := rfl
@[simp] theorem poke_thrDeep (s : State) (a : Nat) (b : Byte) : (s.poke a b).thrDeep = s.thrDeep := rfl
@[simp] theorem poke_thrSince (s : State) (a : Nat) (b : Byte) : (s.poke a b).thrSince = s.thrSince := rfl
@[simp] theorem poke_mctp (s : State) (a : Nat) (b : Byte) : (s.poke a b).mctp = s.mctp := rfl
@[simp] theorem poke_doe (s : State) (a : Nat) (b : Byte) : (s.poke a b).doe = s.doe := rfl
@[simp] theorem poke_mem (s : State) (a : Nat) (b : Byte) : (s.poke a b).mem = spPut s.mem (s.home a) b := rfl
@[simp] theorem poke_poison (s : State) (a : Nat) (b : Byte) : (s.poke a b).poison = s.poison := rfl
@[simp] theorem poke_agenda (s : State) (a : Nat) (b : Byte) : (s.poke a b).agenda = s.agenda := rfl
@[simp] theorem poke_issueQ (s : State) (a : Nat) (b : Byte) : (s.poke a b).issueQ = s.issueQ := rfl
@[simp] theorem poke_cur (s : State) (a : Nat) (b : Byte) : (s.poke a b).cur = s.cur := rfl
@[simp] theorem poke_ev (s : State) (a : Nat) (b : Byte) : (s.poke a b).ev = s.ev := rfl
@[simp] theorem poke_fresh (s : State) (a : Nat) (b : Byte) : (s.poke a b).fresh = s.fresh := rfl
@[simp] theorem poke_nextId (s : State) (a : Nat) (b : Byte) : (s.poke a b).nextId = s.nextId := rfl

/-! ### clear -/

@[simp] theorem clear_clk (s : State) (a n : Nat) : (s.clear a n).clk = s.clk := rfl
@[simp] theorem clear_pkgid (s : State) (a n : Nat) : (s.clear a n).pkgid = s.pkgid := rfl
@[simp] theorem clear_hopmax (s : State) (a n : Nat) : (s.clear a n).hopmax = s.hopmax := rfl
@[simp] theorem clear_threads (s : State) (a n : Nat) : (s.clear a n).threads = s.threads := rfl
@[simp] theorem clear_teams (s : State) (a n : Nat) : (s.clear a n).teams = s.teams := rfl
@[simp] theorem clear_cores (s : State) (a n : Nat) : (s.clear a n).cores = s.cores := rfl
@[simp] theorem clear_dies (s : State) (a n : Nat) : (s.clear a n).dies = s.dies := rfl
@[simp] theorem clear_dirs (s : State) (a n : Nat) : (s.clear a n).dirs = s.dirs := rfl
@[simp] theorem clear_walkc (s : State) (a n : Nat) : (s.clear a n).walkc = s.walkc := rfl
@[simp] theorem clear_ctxs (s : State) (a n : Nat) : (s.clear a n).ctxs = s.ctxs := rfl
@[simp] theorem clear_queues (s : State) (a n : Nat) : (s.clear a n).queues = s.queues := rfl
@[simp] theorem clear_launches (s : State) (a n : Nat) : (s.clear a n).launches = s.launches := rfl
@[simp] theorem clear_nextLid (s : State) (a n : Nat) : (s.clear a n).nextLid = s.nextLid := rfl
@[simp] theorem clear_rrq (s : State) (a n : Nat) : (s.clear a n).rrq = s.rrq := rfl
@[simp] theorem clear_xregs (s : State) (a n : Nat) : (s.clear a n).xregs = s.xregs := rfl
@[simp] theorem clear_cmd (s : State) (a n : Nat) : (s.clear a n).cmd = s.cmd := rfl
@[simp] theorem clear_pfWait (s : State) (a n : Nat) : (s.clear a n).pfWait = s.pfWait := rfl
@[simp] theorem clear_cn (s : State) (a n : Nat) : (s.clear a n).cn = s.cn := rfl
@[simp] theorem clear_fslots (s : State) (a n : Nat) : (s.clear a n).fslots = s.fslots := rfl
@[simp] theorem clear_bfl (s : State) (a n : Nat) : (s.clear a n).bfl = s.bfl := rfl
@[simp] theorem clear_frames (s : State) (a n : Nat) : (s.clear a n).frames = s.frames := rfl
@[simp] theorem clear_links (s : State) (a n : Nat) : (s.clear a n).links = s.links := rfl
@[simp] theorem clear_ports (s : State) (a n : Nat) : (s.clear a n).ports = s.ports := rfl
@[simp] theorem clear_routes (s : State) (a n : Nat) : (s.clear a n).routes = s.routes := rfl
@[simp] theorem clear_iwins (s : State) (a n : Nat) : (s.clear a n).iwins = s.iwins := rfl
@[simp] theorem clear_reqs (s : State) (a n : Nat) : (s.clear a n).reqs = s.reqs := rfl
@[simp] theorem clear_nextRid (s : State) (a n : Nat) : (s.clear a n).nextRid = s.nextRid := rfl
@[simp] theorem clear_doneReqs (s : State) (a n : Nat) : (s.clear a n).doneReqs = s.doneReqs := rfl
@[simp] theorem clear_transit (s : State) (a n : Nat) : (s.clear a n).transit = s.transit := rfl
@[simp] theorem clear_held (s : State) (a n : Nat) : (s.clear a n).held = s.held := rfl
@[simp] theorem clear_keyint (s : State) (a n : Nat) : (s.clear a n).keyint = s.keyint := rfl
@[simp] theorem clear_anchok (s : State) (a n : Nat) : (s.clear a n).anchok = s.anchok := rfl
@[simp] theorem clear_keysDrawn (s : State) (a n : Nat) : (s.clear a n).keysDrawn = s.keysDrawn := rfl
@[simp] theorem clear_hports (s : State) (a n : Nat) : (s.clear a n).hports = s.hports := rfl
@[simp] theorem clear_ready (s : State) (a n : Nat) : (s.clear a n).ready = s.ready := rfl
@[simp] theorem clear_pwrLimit (s : State) (a n : Nat) : (s.clear a n).pwrLimit = s.pwrLimit := rfl
@[simp] theorem clear_power (s : State) (a n : Nat) : (s.clear a n).power = s.power := rfl
@[simp] theorem clear_thr (s : State) (a n : Nat) : (s.clear a n).thr = s.thr := rfl
@[simp] theorem clear_thrDeep (s : State) (a n : Nat) : (s.clear a n).thrDeep = s.thrDeep := rfl
@[simp] theorem clear_thrSince (s : State) (a n : Nat) : (s.clear a n).thrSince = s.thrSince := rfl
@[simp] theorem clear_mctp (s : State) (a n : Nat) : (s.clear a n).mctp = s.mctp := rfl
@[simp] theorem clear_doe (s : State) (a n : Nat) : (s.clear a n).doe = s.doe := rfl
@[simp] theorem clear_mem (s : State) (a n : Nat) : (s.clear a n).mem = spClear s.mem (s.home a) n := rfl
@[simp] theorem clear_poison (s : State) (a n : Nat) : (s.clear a n).poison = s.poison := rfl
@[simp] theorem clear_agenda (s : State) (a n : Nat) : (s.clear a n).agenda = s.agenda := rfl
@[simp] theorem clear_issueQ (s : State) (a n : Nat) : (s.clear a n).issueQ = s.issueQ := rfl
@[simp] theorem clear_cur (s : State) (a n : Nat) : (s.clear a n).cur = s.cur := rfl
@[simp] theorem clear_ev (s : State) (a n : Nat) : (s.clear a n).ev = s.ev := rfl
@[simp] theorem clear_fresh (s : State) (a n : Nat) : (s.clear a n).fresh = s.fresh := rfl
@[simp] theorem clear_nextId (s : State) (a n : Nat) : (s.clear a n).nextId = s.nextId := rfl

/-! ### setPoison -/

@[simp] theorem setPoison_clk (s : State) (a : Nat) : (s.setPoison a).clk = s.clk := rfl
@[simp] theorem setPoison_pkgid (s : State) (a : Nat) : (s.setPoison a).pkgid = s.pkgid := rfl
@[simp] theorem setPoison_hopmax (s : State) (a : Nat) : (s.setPoison a).hopmax = s.hopmax := rfl
@[simp] theorem setPoison_threads (s : State) (a : Nat) : (s.setPoison a).threads = s.threads := rfl
@[simp] theorem setPoison_teams (s : State) (a : Nat) : (s.setPoison a).teams = s.teams := rfl
@[simp] theorem setPoison_cores (s : State) (a : Nat) : (s.setPoison a).cores = s.cores := rfl
@[simp] theorem setPoison_dies (s : State) (a : Nat) : (s.setPoison a).dies = s.dies := rfl
@[simp] theorem setPoison_dirs (s : State) (a : Nat) : (s.setPoison a).dirs = s.dirs := rfl
@[simp] theorem setPoison_walkc (s : State) (a : Nat) : (s.setPoison a).walkc = s.walkc := rfl
@[simp] theorem setPoison_ctxs (s : State) (a : Nat) : (s.setPoison a).ctxs = s.ctxs := rfl
@[simp] theorem setPoison_queues (s : State) (a : Nat) : (s.setPoison a).queues = s.queues := rfl
@[simp] theorem setPoison_launches (s : State) (a : Nat) : (s.setPoison a).launches = s.launches := rfl
@[simp] theorem setPoison_nextLid (s : State) (a : Nat) : (s.setPoison a).nextLid = s.nextLid := rfl
@[simp] theorem setPoison_rrq (s : State) (a : Nat) : (s.setPoison a).rrq = s.rrq := rfl
@[simp] theorem setPoison_xregs (s : State) (a : Nat) : (s.setPoison a).xregs = s.xregs := rfl
@[simp] theorem setPoison_cmd (s : State) (a : Nat) : (s.setPoison a).cmd = s.cmd := rfl
@[simp] theorem setPoison_pfWait (s : State) (a : Nat) : (s.setPoison a).pfWait = s.pfWait := rfl
@[simp] theorem setPoison_cn (s : State) (a : Nat) : (s.setPoison a).cn = s.cn := rfl
@[simp] theorem setPoison_fslots (s : State) (a : Nat) : (s.setPoison a).fslots = s.fslots := rfl
@[simp] theorem setPoison_bfl (s : State) (a : Nat) : (s.setPoison a).bfl = s.bfl := rfl
@[simp] theorem setPoison_frames (s : State) (a : Nat) : (s.setPoison a).frames = s.frames := rfl
@[simp] theorem setPoison_links (s : State) (a : Nat) : (s.setPoison a).links = s.links := rfl
@[simp] theorem setPoison_ports (s : State) (a : Nat) : (s.setPoison a).ports = s.ports := rfl
@[simp] theorem setPoison_routes (s : State) (a : Nat) : (s.setPoison a).routes = s.routes := rfl
@[simp] theorem setPoison_iwins (s : State) (a : Nat) : (s.setPoison a).iwins = s.iwins := rfl
@[simp] theorem setPoison_reqs (s : State) (a : Nat) : (s.setPoison a).reqs = s.reqs := rfl
@[simp] theorem setPoison_nextRid (s : State) (a : Nat) : (s.setPoison a).nextRid = s.nextRid := rfl
@[simp] theorem setPoison_doneReqs (s : State) (a : Nat) : (s.setPoison a).doneReqs = s.doneReqs := rfl
@[simp] theorem setPoison_transit (s : State) (a : Nat) : (s.setPoison a).transit = s.transit := rfl
@[simp] theorem setPoison_held (s : State) (a : Nat) : (s.setPoison a).held = s.held := rfl
@[simp] theorem setPoison_keyint (s : State) (a : Nat) : (s.setPoison a).keyint = s.keyint := rfl
@[simp] theorem setPoison_anchok (s : State) (a : Nat) : (s.setPoison a).anchok = s.anchok := rfl
@[simp] theorem setPoison_keysDrawn (s : State) (a : Nat) : (s.setPoison a).keysDrawn = s.keysDrawn := rfl
@[simp] theorem setPoison_hports (s : State) (a : Nat) : (s.setPoison a).hports = s.hports := rfl
@[simp] theorem setPoison_ready (s : State) (a : Nat) : (s.setPoison a).ready = s.ready := rfl
@[simp] theorem setPoison_pwrLimit (s : State) (a : Nat) : (s.setPoison a).pwrLimit = s.pwrLimit := rfl
@[simp] theorem setPoison_power (s : State) (a : Nat) : (s.setPoison a).power = s.power := rfl
@[simp] theorem setPoison_thr (s : State) (a : Nat) : (s.setPoison a).thr = s.thr := rfl
@[simp] theorem setPoison_thrDeep (s : State) (a : Nat) : (s.setPoison a).thrDeep = s.thrDeep := rfl
@[simp] theorem setPoison_thrSince (s : State) (a : Nat) : (s.setPoison a).thrSince = s.thrSince := rfl
@[simp] theorem setPoison_mctp (s : State) (a : Nat) : (s.setPoison a).mctp = s.mctp := rfl
@[simp] theorem setPoison_doe (s : State) (a : Nat) : (s.setPoison a).doe = s.doe := rfl
@[simp] theorem setPoison_mem (s : State) (a : Nat) : (s.setPoison a).mem = s.mem := rfl
@[simp] theorem setPoison_agenda (s : State) (a : Nat) : (s.setPoison a).agenda = s.agenda := rfl
@[simp] theorem setPoison_issueQ (s : State) (a : Nat) : (s.setPoison a).issueQ = s.issueQ := rfl
@[simp] theorem setPoison_cur (s : State) (a : Nat) : (s.setPoison a).cur = s.cur := rfl
@[simp] theorem setPoison_ev (s : State) (a : Nat) : (s.setPoison a).ev = s.ev := rfl
@[simp] theorem setPoison_fresh (s : State) (a : Nat) : (s.setPoison a).fresh = s.fresh := rfl
@[simp] theorem setPoison_nextId (s : State) (a : Nat) : (s.setPoison a).nextId = s.nextId := rfl

/-! ### clearPoison -/

@[simp] theorem clearPoison_clk (s : State) (a n : Nat) : (s.clearPoison a n).clk = s.clk := rfl
@[simp] theorem clearPoison_pkgid (s : State) (a n : Nat) : (s.clearPoison a n).pkgid = s.pkgid := rfl
@[simp] theorem clearPoison_hopmax (s : State) (a n : Nat) : (s.clearPoison a n).hopmax = s.hopmax := rfl
@[simp] theorem clearPoison_threads (s : State) (a n : Nat) : (s.clearPoison a n).threads = s.threads := rfl
@[simp] theorem clearPoison_teams (s : State) (a n : Nat) : (s.clearPoison a n).teams = s.teams := rfl
@[simp] theorem clearPoison_cores (s : State) (a n : Nat) : (s.clearPoison a n).cores = s.cores := rfl
@[simp] theorem clearPoison_dies (s : State) (a n : Nat) : (s.clearPoison a n).dies = s.dies := rfl
@[simp] theorem clearPoison_dirs (s : State) (a n : Nat) : (s.clearPoison a n).dirs = s.dirs := rfl
@[simp] theorem clearPoison_walkc (s : State) (a n : Nat) : (s.clearPoison a n).walkc = s.walkc := rfl
@[simp] theorem clearPoison_ctxs (s : State) (a n : Nat) : (s.clearPoison a n).ctxs = s.ctxs := rfl
@[simp] theorem clearPoison_queues (s : State) (a n : Nat) : (s.clearPoison a n).queues = s.queues := rfl
@[simp] theorem clearPoison_launches (s : State) (a n : Nat) : (s.clearPoison a n).launches = s.launches := rfl
@[simp] theorem clearPoison_nextLid (s : State) (a n : Nat) : (s.clearPoison a n).nextLid = s.nextLid := rfl
@[simp] theorem clearPoison_rrq (s : State) (a n : Nat) : (s.clearPoison a n).rrq = s.rrq := rfl
@[simp] theorem clearPoison_xregs (s : State) (a n : Nat) : (s.clearPoison a n).xregs = s.xregs := rfl
@[simp] theorem clearPoison_cmd (s : State) (a n : Nat) : (s.clearPoison a n).cmd = s.cmd := rfl
@[simp] theorem clearPoison_pfWait (s : State) (a n : Nat) : (s.clearPoison a n).pfWait = s.pfWait := rfl
@[simp] theorem clearPoison_cn (s : State) (a n : Nat) : (s.clearPoison a n).cn = s.cn := rfl
@[simp] theorem clearPoison_fslots (s : State) (a n : Nat) : (s.clearPoison a n).fslots = s.fslots := rfl
@[simp] theorem clearPoison_bfl (s : State) (a n : Nat) : (s.clearPoison a n).bfl = s.bfl := rfl
@[simp] theorem clearPoison_frames (s : State) (a n : Nat) : (s.clearPoison a n).frames = s.frames := rfl
@[simp] theorem clearPoison_links (s : State) (a n : Nat) : (s.clearPoison a n).links = s.links := rfl
@[simp] theorem clearPoison_ports (s : State) (a n : Nat) : (s.clearPoison a n).ports = s.ports := rfl
@[simp] theorem clearPoison_routes (s : State) (a n : Nat) : (s.clearPoison a n).routes = s.routes := rfl
@[simp] theorem clearPoison_iwins (s : State) (a n : Nat) : (s.clearPoison a n).iwins = s.iwins := rfl
@[simp] theorem clearPoison_reqs (s : State) (a n : Nat) : (s.clearPoison a n).reqs = s.reqs := rfl
@[simp] theorem clearPoison_nextRid (s : State) (a n : Nat) : (s.clearPoison a n).nextRid = s.nextRid := rfl
@[simp] theorem clearPoison_doneReqs (s : State) (a n : Nat) : (s.clearPoison a n).doneReqs = s.doneReqs := rfl
@[simp] theorem clearPoison_transit (s : State) (a n : Nat) : (s.clearPoison a n).transit = s.transit := rfl
@[simp] theorem clearPoison_held (s : State) (a n : Nat) : (s.clearPoison a n).held = s.held := rfl
@[simp] theorem clearPoison_keyint (s : State) (a n : Nat) : (s.clearPoison a n).keyint = s.keyint := rfl
@[simp] theorem clearPoison_anchok (s : State) (a n : Nat) : (s.clearPoison a n).anchok = s.anchok := rfl
@[simp] theorem clearPoison_keysDrawn (s : State) (a n : Nat) : (s.clearPoison a n).keysDrawn = s.keysDrawn := rfl
@[simp] theorem clearPoison_hports (s : State) (a n : Nat) : (s.clearPoison a n).hports = s.hports := rfl
@[simp] theorem clearPoison_ready (s : State) (a n : Nat) : (s.clearPoison a n).ready = s.ready := rfl
@[simp] theorem clearPoison_pwrLimit (s : State) (a n : Nat) : (s.clearPoison a n).pwrLimit = s.pwrLimit := rfl
@[simp] theorem clearPoison_power (s : State) (a n : Nat) : (s.clearPoison a n).power = s.power := rfl
@[simp] theorem clearPoison_thr (s : State) (a n : Nat) : (s.clearPoison a n).thr = s.thr := rfl
@[simp] theorem clearPoison_thrDeep (s : State) (a n : Nat) : (s.clearPoison a n).thrDeep = s.thrDeep := rfl
@[simp] theorem clearPoison_thrSince (s : State) (a n : Nat) : (s.clearPoison a n).thrSince = s.thrSince := rfl
@[simp] theorem clearPoison_mctp (s : State) (a n : Nat) : (s.clearPoison a n).mctp = s.mctp := rfl
@[simp] theorem clearPoison_doe (s : State) (a n : Nat) : (s.clearPoison a n).doe = s.doe := rfl
@[simp] theorem clearPoison_mem (s : State) (a n : Nat) : (s.clearPoison a n).mem = s.mem := rfl
@[simp] theorem clearPoison_agenda (s : State) (a n : Nat) : (s.clearPoison a n).agenda = s.agenda := rfl
@[simp] theorem clearPoison_issueQ (s : State) (a n : Nat) : (s.clearPoison a n).issueQ = s.issueQ := rfl
@[simp] theorem clearPoison_cur (s : State) (a n : Nat) : (s.clearPoison a n).cur = s.cur := rfl
@[simp] theorem clearPoison_ev (s : State) (a n : Nat) : (s.clearPoison a n).ev = s.ev := rfl
@[simp] theorem clearPoison_fresh (s : State) (a n : Nat) : (s.clearPoison a n).fresh = s.fresh := rfl
@[simp] theorem clearPoison_nextId (s : State) (a n : Nat) : (s.clearPoison a n).nextId = s.nextId := rfl

/-! ### free -/

@[simp] theorem free_clk (s : State) : (s.free.2).clk = s.clk := rfl
@[simp] theorem free_pkgid (s : State) : (s.free.2).pkgid = s.pkgid := rfl
@[simp] theorem free_hopmax (s : State) : (s.free.2).hopmax = s.hopmax := rfl
@[simp] theorem free_threads (s : State) : (s.free.2).threads = s.threads := rfl
@[simp] theorem free_teams (s : State) : (s.free.2).teams = s.teams := rfl
@[simp] theorem free_cores (s : State) : (s.free.2).cores = s.cores := rfl
@[simp] theorem free_dies (s : State) : (s.free.2).dies = s.dies := rfl
@[simp] theorem free_dirs (s : State) : (s.free.2).dirs = s.dirs := rfl
@[simp] theorem free_walkc (s : State) : (s.free.2).walkc = s.walkc := rfl
@[simp] theorem free_ctxs (s : State) : (s.free.2).ctxs = s.ctxs := rfl
@[simp] theorem free_queues (s : State) : (s.free.2).queues = s.queues := rfl
@[simp] theorem free_launches (s : State) : (s.free.2).launches = s.launches := rfl
@[simp] theorem free_nextLid (s : State) : (s.free.2).nextLid = s.nextLid := rfl
@[simp] theorem free_rrq (s : State) : (s.free.2).rrq = s.rrq := rfl
@[simp] theorem free_xregs (s : State) : (s.free.2).xregs = s.xregs := rfl
@[simp] theorem free_cmd (s : State) : (s.free.2).cmd = s.cmd := rfl
@[simp] theorem free_pfWait (s : State) : (s.free.2).pfWait = s.pfWait := rfl
@[simp] theorem free_cn (s : State) : (s.free.2).cn = s.cn := rfl
@[simp] theorem free_fslots (s : State) : (s.free.2).fslots = s.fslots := rfl
@[simp] theorem free_bfl (s : State) : (s.free.2).bfl = s.bfl := rfl
@[simp] theorem free_frames (s : State) : (s.free.2).frames = s.frames := rfl
@[simp] theorem free_links (s : State) : (s.free.2).links = s.links := rfl
@[simp] theorem free_ports (s : State) : (s.free.2).ports = s.ports := rfl
@[simp] theorem free_routes (s : State) : (s.free.2).routes = s.routes := rfl
@[simp] theorem free_iwins (s : State) : (s.free.2).iwins = s.iwins := rfl
@[simp] theorem free_reqs (s : State) : (s.free.2).reqs = s.reqs := rfl
@[simp] theorem free_nextRid (s : State) : (s.free.2).nextRid = s.nextRid := rfl
@[simp] theorem free_doneReqs (s : State) : (s.free.2).doneReqs = s.doneReqs := rfl
@[simp] theorem free_transit (s : State) : (s.free.2).transit = s.transit := rfl
@[simp] theorem free_held (s : State) : (s.free.2).held = s.held := rfl
@[simp] theorem free_keyint (s : State) : (s.free.2).keyint = s.keyint := rfl
@[simp] theorem free_anchok (s : State) : (s.free.2).anchok = s.anchok := rfl
@[simp] theorem free_keysDrawn (s : State) : (s.free.2).keysDrawn = s.keysDrawn := rfl
@[simp] theorem free_hports (s : State) : (s.free.2).hports = s.hports := rfl
@[simp] theorem free_ready (s : State) : (s.free.2).ready = s.ready := rfl
@[simp] theorem free_pwrLimit (s : State) : (s.free.2).pwrLimit = s.pwrLimit := rfl
@[simp] theorem free_power (s : State) : (s.free.2).power = s.power := rfl
@[simp] theorem free_thr (s : State) : (s.free.2).thr = s.thr := rfl
@[simp] theorem free_thrDeep (s : State) : (s.free.2).thrDeep = s.thrDeep := rfl
@[simp] theorem free_thrSince (s : State) : (s.free.2).thrSince = s.thrSince := rfl
@[simp] theorem free_mctp (s : State) : (s.free.2).mctp = s.mctp := rfl
@[simp] theorem free_doe (s : State) : (s.free.2).doe = s.doe := rfl
@[simp] theorem free_mem (s : State) : (s.free.2).mem = s.mem := rfl
@[simp] theorem free_poison (s : State) : (s.free.2).poison = s.poison := rfl
@[simp] theorem free_agenda (s : State) : (s.free.2).agenda = s.agenda := rfl
@[simp] theorem free_issueQ (s : State) : (s.free.2).issueQ = s.issueQ := rfl
@[simp] theorem free_cur (s : State) : (s.free.2).cur = s.cur := rfl
@[simp] theorem free_ev (s : State) : (s.free.2).ev = s.ev := rfl
@[simp] theorem free_fresh (s : State) : (s.free.2).fresh = s.fresh + 1 := rfl
@[simp] theorem free_nextId (s : State) : (s.free.2).nextId = s.nextId := rfl

/-! ### takeId -/

@[simp] theorem takeId_clk (s : State) : (s.takeId.2).clk = s.clk := rfl
@[simp] theorem takeId_pkgid (s : State) : (s.takeId.2).pkgid = s.pkgid := rfl
@[simp] theorem takeId_hopmax (s : State) : (s.takeId.2).hopmax = s.hopmax := rfl
@[simp] theorem takeId_threads (s : State) : (s.takeId.2).threads = s.threads := rfl
@[simp] theorem takeId_teams (s : State) : (s.takeId.2).teams = s.teams := rfl
@[simp] theorem takeId_cores (s : State) : (s.takeId.2).cores = s.cores := rfl
@[simp] theorem takeId_dies (s : State) : (s.takeId.2).dies = s.dies := rfl
@[simp] theorem takeId_dirs (s : State) : (s.takeId.2).dirs = s.dirs := rfl
@[simp] theorem takeId_walkc (s : State) : (s.takeId.2).walkc = s.walkc := rfl
@[simp] theorem takeId_ctxs (s : State) : (s.takeId.2).ctxs = s.ctxs := rfl
@[simp] theorem takeId_queues (s : State) : (s.takeId.2).queues = s.queues := rfl
@[simp] theorem takeId_launches (s : State) : (s.takeId.2).launches = s.launches := rfl
@[simp] theorem takeId_nextLid (s : State) : (s.takeId.2).nextLid = s.nextLid := rfl
@[simp] theorem takeId_rrq (s : State) : (s.takeId.2).rrq = s.rrq := rfl
@[simp] theorem takeId_xregs (s : State) : (s.takeId.2).xregs = s.xregs := rfl
@[simp] theorem takeId_cmd (s : State) : (s.takeId.2).cmd = s.cmd := rfl
@[simp] theorem takeId_pfWait (s : State) : (s.takeId.2).pfWait = s.pfWait := rfl
@[simp] theorem takeId_cn (s : State) : (s.takeId.2).cn = s.cn := rfl
@[simp] theorem takeId_fslots (s : State) : (s.takeId.2).fslots = s.fslots := rfl
@[simp] theorem takeId_bfl (s : State) : (s.takeId.2).bfl = s.bfl := rfl
@[simp] theorem takeId_frames (s : State) : (s.takeId.2).frames = s.frames := rfl
@[simp] theorem takeId_links (s : State) : (s.takeId.2).links = s.links := rfl
@[simp] theorem takeId_ports (s : State) : (s.takeId.2).ports = s.ports := rfl
@[simp] theorem takeId_routes (s : State) : (s.takeId.2).routes = s.routes := rfl
@[simp] theorem takeId_iwins (s : State) : (s.takeId.2).iwins = s.iwins := rfl
@[simp] theorem takeId_reqs (s : State) : (s.takeId.2).reqs = s.reqs := rfl
@[simp] theorem takeId_nextRid (s : State) : (s.takeId.2).nextRid = s.nextRid := rfl
@[simp] theorem takeId_doneReqs (s : State) : (s.takeId.2).doneReqs = s.doneReqs := rfl
@[simp] theorem takeId_transit (s : State) : (s.takeId.2).transit = s.transit := rfl
@[simp] theorem takeId_held (s : State) : (s.takeId.2).held = s.held := rfl
@[simp] theorem takeId_keyint (s : State) : (s.takeId.2).keyint = s.keyint := rfl
@[simp] theorem takeId_anchok (s : State) : (s.takeId.2).anchok = s.anchok := rfl
@[simp] theorem takeId_keysDrawn (s : State) : (s.takeId.2).keysDrawn = s.keysDrawn := rfl
@[simp] theorem takeId_hports (s : State) : (s.takeId.2).hports = s.hports := rfl
@[simp] theorem takeId_ready (s : State) : (s.takeId.2).ready = s.ready := rfl
@[simp] theorem takeId_pwrLimit (s : State) : (s.takeId.2).pwrLimit = s.pwrLimit := rfl
@[simp] theorem takeId_power (s : State) : (s.takeId.2).power = s.power := rfl
@[simp] theorem takeId_thr (s : State) : (s.takeId.2).thr = s.thr := rfl
@[simp] theorem takeId_thrDeep (s : State) : (s.takeId.2).thrDeep = s.thrDeep := rfl
@[simp] theorem takeId_thrSince (s : State) : (s.takeId.2).thrSince = s.thrSince := rfl
@[simp] theorem takeId_mctp (s : State) : (s.takeId.2).mctp = s.mctp := rfl
@[simp] theorem takeId_doe (s : State) : (s.takeId.2).doe = s.doe := rfl
@[simp] theorem takeId_mem (s : State) : (s.takeId.2).mem = s.mem := rfl
@[simp] theorem takeId_poison (s : State) : (s.takeId.2).poison = s.poison := rfl
@[simp] theorem takeId_agenda (s : State) : (s.takeId.2).agenda = s.agenda := rfl
@[simp] theorem takeId_issueQ (s : State) : (s.takeId.2).issueQ = s.issueQ := rfl
@[simp] theorem takeId_cur (s : State) : (s.takeId.2).cur = s.cur := rfl
@[simp] theorem takeId_ev (s : State) : (s.takeId.2).ev = s.ev := rfl
@[simp] theorem takeId_fresh (s : State) : (s.takeId.2).fresh = s.fresh := rfl
@[simp] theorem takeId_nextId (s : State) : (s.takeId.2).nextId = s.nextId + 1 := rfl

/-! ### Updates by a function are updates to its value -/

@[simp] theorem modCore_eq (s : State) (n : Nat) (f : Core → Core) : s.modCore n f = s.setCore n (f (s.core n)) := rfl
@[simp] theorem modDie_eq (s : State) (n : Nat) (f : Die → Die) : s.modDie n f = s.setDie n (f (s.die n)) := rfl
@[simp] theorem modCtx_eq (s : State) (n : Nat) (f : Ctx → Ctx) : s.modCtx n f = s.setCtx n (f (s.ctx n)) := rfl
@[simp] theorem modQueue_eq (s : State) (n : Nat) (f : Queue → Queue) : s.modQueue n f = s.setQueue n (f (s.queue n)) := rfl
@[simp] theorem modPort_eq (s : State) (n : Nat) (f : Port → Port) : s.modPort n f = s.setPort n (f (s.port n)) := rfl

end Sys2Proof.Machine.State
end

