-- ==== Sys2Proof/Tests/Slice0.lean ====
section
/-! SUPPORT. Tests of the model: words written out from the spec's encodings, ill-formed terms, the spec's worked examples, and a
state that meets the hypotheses of each statement. -/

namespace Sys2Proof.Tests

set_option Elab.async false

open Sys2Proof Sys2Proof.Machine Sys2Proof.Say

/-! ### Decoding: words written out bit by bit from the encodings of 03 and of each instruction's table -/

/-- The words decode to the instruction, which is well formed and has them for its encoding. -/
def Stand (x : List Nat × Instr) : Bool :=
  decodeWords (x.1.map (BitVec.ofNat 32)) == x.2 && x.2.wf && encode x.2 == some (x.1.map (BitVec.ofNat 32))

/-- 06: the sequencer. -/
theorem test_decode_sequencer : ([([0x7005, 0], .nop bare), ([0x700A, 0x80000000, 0xFFFFFFC0], .bra bare 0xFFFFFFC0)
    , ([0x7012, 0x80000000, 0x1E0], .call bare 0x1E0), ([0x100D, 0x10], .brx { bare with gp := 1 } 8), ([0x7019, 0], .ret bare)
    , ([0x702A, 0x80000000, 0xC8], .sleep bare (.lit 200)), ([0x702D, 0], .rgn bare), ([0x7021, 0], .exit bare)
    , ([0x04007035, 0x01800000], .tretRd bare 16)
    , ([0x3210B03D, 0x08000000], .gets { bare with gp := 3, gn := true, yh := true } 200 .clock), ([0x0040703D, 0x01800000], .gets bare 1 .team)
    , ([0x7042, 0xC2000000, 0x400], .sets bare .ageLimit (.lit 1024)), ([0x01407046, 0x80000000, 0x100], .movk bare (.k 5) (.lit 0x100))]
      : List (List Nat × Instr)).all Stand = true := by decide +kernel

/-- 03, 07: the vector ALU, with its C forms. -/
theorem test_decode_alu : ([([0x1C614804], .iaddC { gp := 2, d := 5, a := 6, b := 7 }), ([0x1C80], .movC { gp := 7, d := 0, a := 0 })
    , ([0x0810DCA0], .faddC { gp := 7, d := 3, a := 1, b := 2 })
    , ([0x4B007202, 0x0000525A, 0x00000800], .iadd { h := bare, d := 300, a := 301, b := .xk 5 } .i32 false)
    , ([0x01007235, 0x04002000], .iaddc { h := bare, d := 4, a := 0, b := .reg 2 } false 1 .i32)
    , ([0x02407409, 0x05005008], .sel { h := bare, d := 9, a := 4, b := .reg 5 } 2 true false)
    , ([0x0280760A, 0x01005008, 6], .ffma { h := bare, d := 10, a := 4, b := .v 5, c := 6 }
        { rm := .rz, m := { na := false, nb := false, aa := false, ab := false } } { ac := false, nc := false })
    , ([0x05007A0A, 0x80800020, 0x80], .cvtq { h := bare, d := 20, a := 16, b := .lit 128 } .e4m3 false .rn)]
      : List (List Nat × Instr)).all Stand = true := by decide +kernel

/-- 08, 09: the lane exchange unit and the launch engine. -/
theorem test_decode_lanes : ([([0x02007E09, 0x60814012], .pick bare .flip 1 8 9 (.reg 20))
    , ([0x03007E0D, 0x0801401A], .tred bare .add .f32 12 13 (.reg 20)), ([0x01007E41, 0x01800000], .barArv bare .team 3 4)
    , ([0x7E49, 0x0A800000], .barSync bare .clus 5), ([0x00807102, 0x80800008, 0x11], .launch bare true false 2 4 (.lit 17))
    , ([0x00C07106, 0x2000, 0x800], .qres bare 3 (.xk 2)), ([0x7109, 0], .qfree bare)]
      : List (List Nat × Instr)).all Stand = true := by decide +kernel

/-- 10, 12: the load-store engine, and the copy and binning engine. -/
theorem test_decode_memory : ([
    ([0x02807C02, 0x3000200C, 0x18000000], .ld { h := bare, d := 10, a := 6, mem := .index (.v 2) 3, ord := .rlx, scope := .core } .b64a8)
    , ([0x05037C02, 0x00018010, 0x20000000]
        , .ld { h := { bare with la := 3 }, d := 20, a := 8, mem := .index (.v 24) 4, ord := .rlx, scope := .core } .b32)
    , ([0x07007C06, 0x3900D02C, 0x20000000], .st { h := bare, d := 28, a := 22, mem := .index (.v 13) 4, ord := .rel, scope := .die } .b64a8)
    , ([0x03807C2A, 0x1100D008, 0x20000010], .cas { h := bare, d := 14, a := 4, mem := .index (.v 13) 4, ord := .rlx, scope := .die } true 16)
    , ([0x08807C2D, 0x01000040], .red { h := bare, d := 34, a := 32, mem := .base, ord := .rlx, scope := .die } .add)
    , ([0x08807C31, 0x1102B048], .waitw bare .ne .rlx .die 34 36 43), ([0x7C19, 0x1010], .pin bare 8 1 0)
    , ([0x7C21, 0x0A800000], .fence bare .rel .pkg), ([0x7F81, 0x50], .kick bare 40 .base)
    , ([0x7F86, 0x81000052, 0x1000], .landi bare .die 41 (.lit 4096)), ([0x05007F89, 0x16052], .lwait bare 20 41 (.reg 22))
    , ([0x01807F92, 0x8000000A, 1], .binc bare 6 5 (.lit 1)), ([0x7F95, 0x01800050], .bhold bare 3 40)
    , ([0x7F99, 0x00809000], .brel bare true (.reg 9)), ([0x03007F9D, 0], .cpyq bare 12)]
      : List (List Nat × Instr)).all Stand = true := by decide +kernel

/-- 13: the matrix engine. -/
theorem test_decode_matrix : ([([0x7F01, 0x1000F01A], .mldw bare .e4m3 true false 0 13 (.reg 15) none), ([0x7F09, 0], .mswap bare false .s)
    , ([0x02007F0E, 0x2012, 0x80A], .mma bare .e4m3 false false false 8 9 (.k 2) 10 none)
    , ([0x02007F0E, 0x2012, 0x8800080A], .mma bare .e4m3 false false false 8 9 (.k 2) 10 (some 1))
    , ([0x08007F0E, 0x3000F042, 0], .mma bare .e4m3 true true false 32 33 (.v 15) 0 none)
    , ([0x0B007F12, 0x3002E042, 0x80000000], .mgmm bare .e4m3 true true false 44 33 (.v 46) 0 (some 0)), ([0x08007F15, 0], .mclr bare false 32 .s)
    , ([0x08007F1E, 0x0000F046, 0], .macst bare .f32 false false false false 32 35 (.v 15) 0 none .dflt), ([0x7F29, 0], .mfence bare)
    , ([0x7F2D, 0], .mwait bare false), ([0x7F2E, 0x90000000, 0], .mwaitCv bare false 0 (.lit 0)), ([0x0F007F31, 0], .mqry bare false false 60)
    , ([0x7E82, 0x80000000, 0x40], .cvset bare 0 (.lit 64)), ([0x01007E85, 6], .sign bare 4 3)]
      : List (List Nat × Instr)).all Stand = true := by decide +kernel

/-- 03, the example after R96: patterns that are no instruction. -/
theorem test_decode_none : [[0xF03D, 0], [0x3C04], [0]].map (fun w => decodeWords (w.map (BitVec.ofNat 32)))
    = [.nonInstructionEncoding .illegalEncoding 2, .nonInstructionEncoding .illegalEncoding 1, .nonInstructionEncoding .illegalOpcode 1] := by
  decide +kernel

/-! ### Ill-formed terms, one for each check of `Instr.wf` -/

/-- Two registers and a third, for the terms. -/
def twoR (d a b : Nat) : Two := { h := bare, d := BitVec.ofNat 11 d, a := BitVec.ofNat 11 a, b := .reg (BitVec.ofNat 11 b) }
def oneR (d a : Nat) : One := { h := bare, d := BitVec.ofNat 11 d, a := BitVec.ofNat 11 a, ext := false }
def threeR (d a b c : Nat) : Three :=
  { h := bare, d := BitVec.ofNat 11 d, a := BitVec.ofNat 11 a, b := .v (BitVec.ofNat 11 b), c := BitVec.ofNat 11 c }
def memR (d a : Nat) (m : MemOp) (o : Order) : MemIns :=
  { h := bare, d := BitVec.ofNat 11 d, a := BitVec.ofNat 11 a, mem := m, ord := o, scope := .core }

/-- R67, R70, R72, R73: a negated p7, an offset that is no multiple of 4, a misaligned pair or quad, an odd k pair. -/
theorem test_wf_operands : ([.nop { bare with gn := true }, .bra bare 2, .call bare 1, .brx bare 3, .callx bare 5, .tretRd bare 2
    , .gets bare 3 .clock, .iadd (twoR 1 2 4) .i64 false, .isub (twoR 2 1 4) .n64 false, .imul (twoR 2 4 1) .i64 false
    , .imul { twoR 2 4 6 with b := .xk 3 } .i64 false, .iadd3 (threeR 2 4 1 6) .i64 false, .imad (threeR 2 4 6 1) .n64 false
    , .imadw (threeR 1 2 3 4) .i32 false, .and (twoR 1 2 4) true, .tern (threeR 1 2 4 6) 0 true, .shl (twoR 1 2 3) true
    , .popc (oneR 1 3) true, .brev (oneR 3 2) true, .mov (oneR 2 4) .b128, .movl bare 1 0 .i64, .sel (twoR 2 4 3) 0 false true
    , .lea (twoR 1 2 3) 0 true false, .dadd (twoR 1 2 4) { rm := .rn, m := ⟨false, false, false, false⟩ }, .dcmp (twoR 1 3 4) .eq ⟨false, false, false, false⟩
    , .dfma (threeR 2 4 6 1) { rm := .rn, m := ⟨false, false, false, false⟩ } ⟨false, false⟩, .cvti (oneR 1 2) .f32 .i64 .rn
    , .cvtf (oneR 1 3) .i64 .f32 .rn, .hash (twoR 2 1 3) true true, .rand bare 1 true false, .part bare .live 1
    , .txq bare 2 4, .frq bare 4 1, .cpyq bare 2, .mqry bare false false 2, .macrd bare false 2 0 (.reg 0)
    , .mgmm bare .f16 false false false 3 0 (.v 0) 0 none, .lwait bare 1 0 (.reg 0), .pin bare 1 0 0, .launch bare false false 0 1 (.reg 0)
    , .barQ bare .team 0 1, .vote bare .ballot false 1 0 (.reg 2), .vote bare .all false 1 0 (.reg 3), .matchEq bare true 2 1 (.reg 4)
    , .waitw bare .eq .rlx .core 0 1 2] : List Instr).any Instr.wf = false := by decide +kernel

/-- R77, R78, R206, R212 to R225: a predicate destination above p7, a selector that cannot be set, a type or a modifier the instruction
does not have. -/
theorem test_wf_modifiers : ([.icmp (twoR 8 0 0) .eq .i32, .pset (twoR 9 0 0) false false, .fcmp (twoR 8 0 0) .eq ⟨false, false, false, false⟩
    , .vote bare .any false 8 0 (.reg 2), .sets bare .tid (.lit 0), .iabs (oneR 0 1) .n32 false, .ineg (oneR 0 2) .n64 false
    , .iaddc (twoR 0 1 2) false 0 .n32, .imadw (threeR 2 0 1 4) .i64 false, .cvtp { twoR 0 1 2 with b := .reg 2 } .wideF16 .fpctl
    , .cvtp (twoR 0 1 2) .wideE4m3 .rn, .cvtp (twoR 2 1 2) .wideE4m3 .fpctl, .cvtq (twoR 0 1 2) .e4m3 false .rn
    , .tred bare .and .f32 0 1 (.reg 2), .tscan bare .xor .n32 false 0 1 (.reg 2), .pick bare .at 1 0 2 (.reg 4)
    , .barArv bare .pkg 8 0] : List Instr).any Instr.wf = false := by decide +kernel

/-- R84 to R87, R272 to R275, R285, R290, R291, R335: forms, orders and alignments of memory operands; a base register within the
destination. -/
theorem test_wf_memory : ([.ld (memR 0 2 (.modulo 0 4) .rlx) .b32, .ld (memR 0 2 .base .rel) .b32, .ld (memR 1 2 .base .rlx) .b64
    , .ld (memR 0 1 .base .rlx) .b32, .ld (memR 0 1 .base .acq) .prv, .ld (memR 2 2 (.post 4) .rlx) .b32, .ld (memR 0 2 (.index (.v 1) 5) .rlx) .b32
    , .st (memR 0 2 .base .acq) .b32, .st (memR 2 4 .base .rlx) .b128, .st (memR 0 3 .base .rlx) .b32, .lds (memR 0 1 .base .rel) .b32
    , .lds (memR 1 1 (.modulo 0 4) .rlx) .b8, .sts (memR 1 0 .base .rlx) .b64, .sts (memR 0 0 .base .acq) .b32, .pfch bare 0 (.post 4) false .page .core
    , .cctl bare 1 .base .wb .core, .atom (memR 1 2 .base .rlx) .addB64, .cas (memR 0 2 .base .rlx) false 4, .cas (memR 0 2 (.post 4) .rlx) true 2
    , .red (memR 0 2 .base .acq) .add, .red (memR 1 2 .base .rlx) .addB64, .waitw bare .eq .rel .core 0 2 4, .kick bare 0 (.index (.v 0) 0)]
      : List Instr).any Instr.wf = false := by decide +kernel

/-- R354, R362, R363, R372: scales without a scaled format, a scale register that is not used, SAT into FP32, a literal beside CV. -/
theorem test_wf_matrix : ([.mldw bare .f16 true false 0 0 (.reg 0) none, .mldw bare .f16 false false 1 0 (.reg 0) none
    , .mldw bare .e4m3 true false 0 0 (.lit 512) (some 1), .mldws bare false false 0 0 (.reg 0) (some 2)
    , .mma bare .bf16 true false false 0 0 (.v 0) 0 none, .mma bare .e4m3 true false false 0 0 (.v 0) 1 none
    , .mgmm bare .e4m3 true false false 0 0 (.v 0) 1 none, .macld bare false false 0 0 (.lit 0) (some 1)
    , .macst bare .f32 false false true false 0 0 (.v 0) 0 none .dflt, .macst bare .f16 false false false false 0 0 (.v 0) 1 none .dflt
    , .macrd bare false 0 0 (.lit 0), .nonInstructionEncoding .illegalOpcode 4] : List Instr).any Instr.wf = false := by decide +kernel

/-! ### The spec's worked examples, and corners of its rules -/

/-- The placed program's state (log 2), its thread executing. -/
def P : State := { State.reset.withFetchWord 32 0x7005 with cur := some (0, 0), issueQ := [] }

/-- That state with its one thread as given. -/
def withT (t : Thread) : State := { P with threads := [(0, t)] }

/-- The placed thread with words in its registers. -/
def T (l : List (Nat × Word)) : Thread := placedThread.writeRegs l

/-- The thread after one instruction. -/
def after (i : Instr) (t : Thread) : Option Thread :=
  match exec i (withT t) with
  | .next s => s.thread? 0 0
  | _ => none

/-- Registers of the thread after one instruction. -/
def regsOf (i : Instr) (t : Thread) (l : List Nat) : List Nat := l.map fun r => ((after i t).map fun u => (u.reg r).toNat).getD 0

/-- What the thread's first window brings: registers and conditions. -/
def brings (i : Instr) (t : Thread) : Option (List (Nat × Nat) × Nat) :=
  ((after i t).bind fun u => u.wins.head?).map fun w => (w.regs.map fun x => (x.1, x.2.toNat), w.flags.toNat)

/-- R206: an addition wraps; R210: a shift by the width leaves nothing; R208: the least integer has no absolute value but itself. -/
theorem test_integers : regsOf (.iadd (twoR 4 1 2) .i32 false) (T [(1, 0xFFFFFFFF), (2, 2)]) [4] = [1]
    ∧ regsOf (.shl (twoR 4 1 2) false) (T [(1, 5), (2, 32)]) [4] = [0]
    ∧ regsOf (.iabs (oneR 4 1) .i32 false) (T [(1, 0x80000000)]) [4] = [0x80000000]
    ∧ regsOf (.iadd (twoR 1 1 1) .i32 true) (T [(1, 0x7FFFFFFF)]) [1] = [0x7FFFFFFF]
    ∧ ((after (.iadd (twoR 1 1 1) .i32 true) (T [(1, 0x7FFFFFFF)])).map fun t => t.flags.toNat) = some cSAT.toNat := by decide +kernel

/-- The example after R227, for its first four bytes and through its end: the CRC-32C check value. -/
theorem test_crc : crc32c ((upTo 9).map fun i => BitVec.ofNat 8 (0x31 + i)) = 0xE3069283
    ∧ regsOf (.crc32c (twoR 1 1 2) .b8) (T [(1, (regsOf (.crc32c (twoR 1 1 2) .b32)
        (T [(1, (regsOf (.crc32c (twoR 1 1 2) .b32) (T [(1, 0xFFFFFFFF), (2, 0x34333231)]) [1]).headD 0), (2, 0x38373635)]) [1]).headD 0)
        , (2, 0x39)]) [1] = [0xFFFFFFFF - 0xE3069283] := by decide +kernel

/-- The example of R229: 1.0 and −2.0 are kept, and dropping 0.5 sets NX. -/
theorem test_spack : regsOf (.spack (oneR 4 1) false) (T [(1, 0x30C00038)]) [4] = [0x0008C038]
    ∧ ((after (.spack (oneR 4 1) false) (T [(1, 0x30C00038)])).map fun t => t.flags.toNat) = some cNX.toNat := by decide +kernel

/-- The example after R225: four FP32 values to E4M3 under a scale of 2, and back. -/
theorem test_quantise :
    brings (.cvtq { twoR 20 16 0 with b := .lit 128 } .e4m3 false .rn) (T [(16, 0x3F800000), (17, 0xC0600000), (18, 0x43960000), (19, 0x3E99999A)])
      = some ([(20, 0x2271BE30)], cNX.toNat)
    ∧ brings (.cvtp { twoR 24 20 0 with b := .lit 128 } .wideE4m3 .fpctl) (T [(20, 0x2271BE30)])
      = some ([(24, 0x3F800000), (25, 0xC0600000), (26, 0x43900000), (27, 0x3EA00000)], 0) := by decide +kernel

/-- The example after R117: stochastic rounding of 0.3 to E4M3, and RN; R112: 460 rounds to 448 and 470 overflows. -/
theorem test_rounding : let x := decodeF fp32 0x3E99999A
    (cvtVal e4m3 .sr false 0x12340000 x).code = 0x2A ∧ (cvtVal e4m3 .sr false 0xC0000000 x).code = 0x29
      ∧ (cvtVal e4m3 .rn false 0 x) = ⟨0x2A, cNX⟩ ∧ (cvtVal e4m3 .rn false 0 (.fin false 460 0)).code = 0x7E
      ∧ (cvtVal e4m3 .rn true 0 (.fin false 470 0)).code = 0x7E := by decide +kernel

/-- R217: 2^−149 is 0.5 × 2^−148. -/
theorem test_frexp : (frexpF fp32 1).1.code = 0x3F000000 ∧ (BitVec.ofNat 32 (frexpF fp32 1).2.code).toInt = -148 := by decide +kernel

/-- The example after R122: sums of 2^24 and 1.0 into 1.0, in order. -/
theorem test_block_sums : add32 (add32 0x3F800000 0x4B800000) 0x3F800000 = 0x4B800000 := by decide +kernel

/-- The example after R243: the tile's fold gives 3.5 to position 0. -/
theorem test_tred :
    let m (q : Nat) (x : DWord) : CollMember := { tid := 8 + q, a := x, p := false, win := 0, dst := 12 }
    let c : Coll := { id := 0, team := 0, size := 8, tile := 1, pci := 0, mask := 0xFF, op := .tred .add .f32, gone := []
                      members := [m 0 0x3F800000, m 1 0x4B800000, m 2 0x3F800000, m 4 0xCB800000, m 6 0x40400000, m 7 0x3F000000] }
    c.result 0 (m 0 0x3F800000) = 0x40600000 := by decide +kernel

/-- The example of a trap before R171: the frames of TRAP 7 at 0x2C0, what TRET.rd gives, and where TRET.skip resumes. -/
theorem test_trap_frames :
    let t : Thread := { placedThread with rpc := 0x280, rngent := 0x1F, csp := 1, pc := 0x2C0 }
    let x : Trap := { kind := 13, info := 7, pc := 0x2C0, len := 3, seq := 0 }
    saveFrame t = 0x0F80000000000280 ∧ trapFrame x = 0x00000000000000071B800000000002C0
      ∧ (placedThread.tretTo .skip 3 (trapFrame x) (saveFrame t)).pc = 0x2CC
      ∧ (placedThread.tretTo .skip 3 (trapFrame x) (saveFrame t)).rpc = 0x280
      ∧ (placedThread.tretTo .skip 3 (trapFrame x) (saveFrame t)).csp = 1
      ∧ regsOf (.trap bare (.lit 7)) { t with csp := 0 } [0] = [0] := by decide +kernel

/-- The example of a hood before R50: TID 70 of 96 threads with NREG 40, D 4 and P 256; the example before R269: the strides of a launch
of 256 threads, and the places of team 200 in slot 5. -/
theorem test_hoods :
    let l : LaunchRec := { placedLaunch with tsize := 96, nreg := 40, calld := 4, priv := 256, hoods := 0, saves := 0 }
    let t : Team := { placedTeam with lr := l }
    let k : LaunchRec := { placedLaunch with tsize := 256, nreg := 64, calld := 0, priv := 0, scratch := 0x100000, accrows := 128, mx := true }
    l.regBase = 0x1000 ∧ l.callBase = 0x4F00 ∧ l.privBase = 0x6700 ∧ l.hoodEnd = 0xC700 ∧ l.hstride = 0x10000
      ∧ t.frameVa 70 1 = 0x6090 ∧ t.privVa 70 0 = 0xAD00
      ∧ k.hstride = 0x20000 ∧ k.accBase = 0x100000 ∧ k.planeBase = 0x120000 ∧ k.stateBase = 0x170000 ∧ k.sstride = 0x180000 := by decide +kernel

/-- The tables of the example before R321. -/
def tables : State :=
  ((((({ P with
    xregs := { XRegs.init with fctEn := true, fctBase := 0x20000000 }
    ctxs := P.ctxs.put 0 { Ctx.init with st := .active, ptroot := 0x100000000 }
    dies := [] } : State).pokeNat 0x100000000 8 0x0000000100010001).pokeNat 0x1000100D0 8 0x0000000100020001).pokeNat 0x100020028 8
      0x000000180001009B).pokeNat (0x20000000 + 0x180001) 1 2)

/-- The example before R321: the walk of 0x0003_4005_1234 finds a CT page at 0x018_0001_0000, writable, with hint .ef; R317: an address
that no entry maps is a page fault of cause 1. -/
theorem test_walk : (match (tables.walk 0 0 0x340051234).1 with
      | .ok x => decide ((x.pa, x.cls, x.hint, x.w) = (0x1800010000, 2, 1, true))
      | _ => false) = true
    ∧ (match (tables.walk 0 0 0x340060000).1 with
      | .fault k => k == 1
      | _ => false) = true := by decide +kernel

/-- FIPS 197, C.3 and the GCM specification's test cases 13 and 14 (log 8): a block of AES-256, tags and a ciphertext under a zero key. -/
theorem test_gcm :
    aesBlock (aesKeys 0x000102030405060708090A0B0C0D0E0F101112131415161718191A1B1C1D1E1F) 0x00112233445566778899AABBCCDDEEFF
      = 0x8EA2B7CA516745BFEAFC49904B496089
    ∧ ofBe ((gcmTag 0 0 [] []).map BitVec.toNat) = 0x530F8AFBC74536B9A963B4F1C4CB738B
    ∧ ofBe ((gcmCrypt 0 0 (List.replicate 16 0)).map BitVec.toNat) = 0xCEA7403D4D606B6E074EC5D3BAF39D18
    ∧ ofBe ((gcmTag 0 0 [] (gcmCrypt 0 0 (List.replicate 16 0))).map BitVec.toNat) = 0xD0D1C8A799996BF0265B98B5D48AB919 := by decide +kernel

/-- R387: a codeword with four wrong bytes is corrected. -/
theorem test_fec :
    let d := (upTo 128).map fun i => i * 7 % 256
    let c := d ++ rsParity d
    rsDecode c = some (d, false) ∧ rsDecode ((upTo 4).foldl (fun l i => modAt l (10 * i) (· ^^^ 0x55)) c) = some (d, true) := by decide +kernel

/-! ### States that meet the hypotheses of the statements, one for each clause -/

/-- A group is ready, up to the last register below NREG, and no condition of any result is enabled in FPCTL: the hypotheses of every
statement about an instruction on a group (the vector ALU, the sequencer, the lanes, the engines). -/
theorem wit_ready : State.Ready P 0 0 placedGroup placedTeam bare [vW 60 4, vR 62 2, vR 63, vW 0]
    ∧ (∀ vs, (∀ v ∈ vs, v.reg + v.n ≤ 64) → State.Ready P 0 0 placedGroup placedTeam bare vs)
    ∧ (∀ x ∈ P.laneThreads placedGroup, x.2.2.enables = 0 ∧ x.2.2.live bare = true) ∧ (P.ctx placedTeam.ctx).priv = true := by
  have hg : P.curGroup = some (0, 0, placedGroup, placedTeam) := by decide +kernel
  have hl : P.laneThreads placedGroup = [(0, 0, placedThread)] := by decide +kernel
  have all : ∀ vs, (∀ v ∈ vs, v.reg + v.n ≤ 64) → State.Ready P 0 0 placedGroup placedTeam bare vs := by
    refine fun vs hv => ⟨hg, hv, ?_⟩
    rw [hl]; intro x hx
    rw [List.mem_singleton] at hx; subst hx
    have : (vs.any fun v => v.read && placedThread.poisoned.any fun p => v.reg ≤ p && p < v.reg + v.n) = false :=
      List.any_eq_false.2 fun v _ => by simp [placedThread]
    simp [Thread.eats, this]; rfl
  exact ⟨all _ (by decide), all, by rw [hl]; decide, by decide +kernel⟩

/-- The same for the results of any instruction, as the statements of the vector ALU ask it. -/
theorem wit_gives (e : Nat → State → Team → Nat → Thread → Eff) :
    ∀ x ∈ P.laneThreads placedGroup, x.2.2.live bare = true → (e 0 P placedTeam x.2.1 x.2.2).flags &&& x.2.2.enables = 0 := by
  intro x hx _
  rw [(wit_ready.2.2.1 x hx).1]; exact BitVec.and_zero

theorem wit_CompactEncoding : encShort (.iaddC { gp := 7, d := 63, a := 63, b := 63 }) = some 0xFFFFDC04 := by decide +kernel

theorem wit_EncodeDecode : (let o : Two := { h := bare, d := 2047, a := 2047, b := .lit 0xFFFFFFFF }
    Instr.wf (.isub o .n32 true) = true ∧ (encFields (.isub o .n32 true)).isSome = true)
    ∧ Instr.wf (.barArv bare .pkg 7 0) = true ∧ (encFields (.barArv bare .pkg 7 0)).isSome = true := by decide +kernel

/-- The placed group in the last slot of the last core. -/
def atEdge : State := { P with cur := none, issueQ := [(127, 7)], cores := P.cores.put 127 { Core.init 127 with active := [(7, placedGroup)] } }

theorem wit_StepRuns_group : let v : State := { atEdge with issueQ := [] }
    (v.core 127).active.find 7 = some placedGroup ∧ v.team? placedGroup.team = some placedTeam
      ∧ (v.core 127).draining = false ∧ (v.ctx placedTeam.ctx).st = .active ∧ (v.ctx placedTeam.ctx).outCores.contains 127 = false
      ∧ placedGroup.notBefore ≤ v.clk ∧ placedGroup.awaits = [] ∧ v.laneThreads placedGroup = [(0, 0, placedThread)]
      ∧ placedThread.parksOn = none ∧ placedThread.stalls = false
      ∧ (match v.fetch 127 0 placedTeam.lid placedThread.pc with
        | (.words ws, u) => ws == [0x7005, 0] && !u.holds 127 placedGroup (decodeWords ws)
        | _ => false) = true := by decide +kernel

theorem wit_StepRuns_rows : (∃ s : State, s.issueQ = [] ∧ s.agenda = [.row .patrolScrub {}]) ∧ (∃ s : State, s.issueQ = [] ∧ s.agenda = []) :=
  ⟨⟨{ State.reset with agenda := [.row .patrolScrub {}] }, rfl, rfl⟩, State.reset, rfl, rfl⟩

/-- A word at the last word of the leaf, and the words of the instruction placed, one and two. -/
theorem wit_StepRuns_fetch :
    (match (P.access 7 (some 127) 0 .fetch 0xFFFC).1 with
      | .ok gpa _ => pkgOf gpa == P.pkgid && localOf gpa == 0xFFFC
      | _ => false) = true
    ∧ (P.access 7 (some 127) 0 .fetch 0xFFFC).2.poisonedIn 0xFFFC 4 = false
    ∧ (P.fetchWord 0 0 0 4).1 = .words [0] ∧ lenOf 0 = 1
    ∧ (P.fetchWord 0 0 0 0).1 = .words [0x7005] ∧ lenOf 0x7005 = 2 ∧ ((P.fetchWord 0 0 0 0).2.fetchWord 0 0 0 4).1 = .words [0] := by decide +kernel

theorem wit_MemoryLaws : P.Safe
    ∧ (∀ i, i < 2 → ∀ j, j < 2 → P.home (0xFFFF + i) = P.home (0xFFFF + j) → i = j) ∧ (∀ i, i < 2 → P.home 0xFFFE ≠ P.home (0xFFFF + i)) := by
  unfold State.Safe; decide +kernel

theorem wit_FlitsAndMessages :
    (let x (n : Nat) : RxFlit := { seq := 16777215, ack := 16777215, type := 3, ki := 1, nak := true, payload := List.replicate n 255 }
      ∀ f ∈ [dieFmt, kalsyFmt], (x f.pay).seq < f.seqs ∧ (x f.pay).ack < f.seqs ∧ (x f.pay).type < 4 ∧ (x f.pay).ki < 2
        ∧ (x f.pay).payload.length = f.pay ∧ (x 54).payload.length = 54)
    ∧ (let m : Msg := { kind := .chunk, dpkg := 511, spkg := 511, sctx := 63, hops := 15, rid := 16777215, op := 255
                        addr := 0xFFFFFFFFFFFF8, data := List.replicate 528 255, scr := true }
      m.data.length ≤ 528 ∧ m.data.length % 8 = 0 ∧ m.addr.toNat % 8 = 0)
    ∧ (let m : Msg := { kind := .respAck, dpkg := 511, spkg := 511, sctx := 63, hops := 15, rid := 16777215, op := 255
                        addr := 0xFFFFFFFFFFFFF, data := List.replicate 528 255, scr := false }
      m.kind ≠ .chunk ∧ m.data.length % 16 = 0 ∧ m.scr = false) := by decide +kernel

theorem wit_NeverStops : (∀ e ∈ atEdge.issueQ, e.1 < 128 ∧ e.2 < 8) ∧ (∃ s : State, s.issueQ = [(128, 0)]) ∧ (∃ s : State, s.issueQ = [(0, 8)]) :=
  ⟨by decide, ⟨{ State.reset with issueQ := [(128, 0)] }, rfl⟩, { State.reset with issueQ := [(0, 8)] }, rfl⟩

/-- R94 to R96: an operand just at NREG; a privileged selector in a context that is not. -/
theorem wit_Traps : P.curGroup = some (0, 0, placedGroup, placedTeam) ∧ placedTeam.lr.nreg ≤ (64 : VReg).toNat
    ∧ (let s : State := { P with ctxs := P.ctxs.put 0 { Ctx.init with st := .active } }
      s.curGroup = some (0, 0, placedGroup, placedTeam) ∧ SReg.mgnCtl.privileged = true ∧ (63 : VReg).toNat + SReg.mgnCtl.regs ≤ placedTeam.lr.nreg
        ∧ (s.ctx placedTeam.ctx).priv = false) := by decide +kernel

/-- A trap to be delivered, with room for one pair of frames. -/
def trapping : State := { withT { placedThread with trap := some { kind := 13, info := 7, pc := 0, len := 3, seq := 0 } } with
  teams := [(0, { placedTeam with lr := { placedLaunch with tvec := 0x800 } })] }

theorem wit_TrapDelivery : (let tm : Team := { placedTeam with lr := { placedLaunch with tvec := 0x800 } }
    let t : Thread := { placedThread with trap := some { kind := 13, info := 7, pc := 0, len := 3, seq := 0 } }
    trapping.team? trapping.ev.team = some tm ∧ trapping.thread? trapping.ev.team trapping.ev.tid = some t
      ∧ t.wins = [] ∧ tm.lr.tvec ≠ 0 ∧ t.csp + 2 ≤ tm.lr.calld ∧ (trapping.setFrame tm 0 t.csp (saveFrame t)).1 = true
      ∧ ((trapping.setFrame tm 0 t.csp (saveFrame t)).2.setFrame tm 0 (t.csp + 1)
          (trapFrame { kind := 13, info := 7, pc := 0, len := 3, seq := 0 })).1 = true)
    ∧ (let s := withT { placedThread with trap := some { kind := 13, info := 7, pc := 0, len := 3, seq := 0 } }
      s.team? s.ev.team = some placedTeam ∧ placedTeam.lr.tvec = 0) ∧ (2 : Nat) < 1 + 2 := by decide +kernel

theorem wit_TrapFrames : let x : Trap := { kind := 127, info := 7, pc := 0, len := 3, seq := 0 }
    0 < x.kind ∧ x.kind < 128 ∧ x.len < 4 := by decide

theorem wit_AluFrame : Gives (.movl bare 63 5 .b32) bare 3 false [vW (63 : VReg)] (fun _ _ _ _ _ => { regs := [(63, 5)] }) :=
  gives_of (h := bare) none (fun _ _ _ _ => .ok { regs := [(63, 5)] }) (fun _ => rfl) (fun _ _ _ _ _ _ _ _ => rfl)

/-! #### The lanes -/

/-- An instance of 64 positions, of which the first and the last are named and have arrived. -/
def lanes (op : CollOp) : Coll :=
  { id := 0, team := 0, size := 64, tile := 0, pci := 0, mask := 0x8000000000000001, op := op, gone := []
    members := [{ tid := 0, a := 1, p := true, win := 0, dst := 0 }, { tid := 63, a := 2, p := false, win := 0, dst := 0 }] }

theorem wit_CollectiveResults : (∀ op ∈ [CollOp.vote .all false, .vote .any true, .vote .uni false, .vote .ballot false, .pick .flip 63, .pick .below 1
      , .pick .above 63, .pick .at 0, .matchEq false, .tred .add .i32, .tscan .add .f32 true, .tscan .max .n32 false, .matchEq true], (lanes op).op = op ∧ (lanes op).size ≤ 64
      ∧ ∀ i < 64, (lanes op).mask.getLsbD i = true →
        (lanes op).at i = some { tid := i, a := if i = 0 then 1 else 2, p := decide (i = 0), win := 0, dst := 0 })
    ∧ ((0 ^^^ 63) < 64 ∧ (lanes (.pick .flip 63)).mask.getLsbD (0 ^^^ 63) = true) ∧ (0 : Nat) < 1
    ∧ (63 ≤ 63 ∧ 63 - 63 < 64 ∧ (lanes (.pick .below 63)).mask.getLsbD (63 - 63) = true)
    ∧ (0 + 63 < 64 ∧ (lanes (.pick .above 63)).mask.getLsbD (0 + 63) = true ∧ 64 ≤ 1 + 63)
    ∧ (let i := ((0x3F00000000 : DWord).extractLsb' 32 32).toNat % 64;
        i = 63 ∧ (lanes (.pick .at 0)).mask.getLsbD i = true) := by decide +kernel

/-- A window that awaits a collective's result, there or not. -/
def collWin (ready : Bool) (w : Option Wait) : Window :=
  { id := 7, kind := .coll, left := 0, ready := ready, regs := [(63, 1)], preds := [], flags := 0, late := none, canLate := false, wait := w
    pc := 0, yh := false }

theorem wit_LaneRows_results :
    (let t : Thread := { placedThread with wins := [collWin true none] };
      let s : State := { withT t with ev := { win := 7 } };
      s.thread? s.ev.team s.ev.tid = some t ∧ t.win? s.ev.win = some (collWin true none) ∧ (collWin true none).kind = .coll
        ∧ (collWin true none).ready = true ∧ s.away s.ev.team = false ∧ t.st ≠ .parked)
    ∧ (let w := collWin true (some (.coll 3));
        let t : Thread := { placedThread with wins := [w], st := .parked, wait := 8 };
        let s : State := { withT t with ev := { win := 7 } };
        s.thread? s.ev.team s.ev.tid = some t ∧ t.win? s.ev.win = some w ∧ w.kind = .coll ∧ w.ready = true ∧ s.away s.ev.team = false
        ∧ t.st = .parked ∧ t.wait = 8 ∧ ((t.deliver w.id none).waiting fun x => match x with
          | .coll _ => true
          | _ => false) = none) := by decide +kernel

theorem wit_LaneRows_barriers :
    (let s : State := { withT { placedThread with barv := 0x8000 } with ev := { bar := .team 0 15 } };
      s.ev.bar = .team 0 15 ∧ (s.threadsOf 0).any (fun x => decide (x.2.st ≠ .exited)) = true
        ∧ ∀ x ∈ s.threadsOf 0, x.2.st = .exited ∨ x.2.barv.getLsbD 15 = true)
    ∧ (let l : LaunchRec := { placedLaunch with clvl := 1, cn := 1, bclus := 16 };
        let s : State := { P with
        teams := [(0, { placedTeam with lr := l })]
        launches := [(0, { placedRun [] with lr := l, cohorts := [(0, { inst := 0, bars := List.replicate 16 { gen := 0, arr := [(0, 0)] }, gone := [] })] })]
        ev := { bar := .cohort 0 0 15 } };
        s.ev.bar = .cohort 0 0 15 ∧ (s.barMembers s.ev.bar).1 ≠ [] ∧ (s.barMembers s.ev.bar).2 = []) := by decide +kernel

/-! #### The launch engine -/

/-- A record that a host port posted. -/
def hostRecord : Post := { poster := none, raw := List.replicate 128 0, sys := true, at_ := 0, claim := [], insts := [], code := [] }

theorem wit_LaunchRows_copy : let s : State := { P with queues := P.queues.put 1023 { Queue.init with size := 1, en := true, posts := [hostRecord] }
                                                        ev := { q := 1023 } };
    (s.queue s.ev.q).posts = hostRecord :: [] := by decide +kernel

/-- A die in state Keyed, its steps of start-up done. -/
def keyed : Die := { Die.init with attested := { st := 3, why := 0, nrst := 0 }, zeroed := true }

/-- The package with every die so, and operands for a row. -/
def up (e : Ev) : State := { P with cur := none, dies := (upTo 14).map fun d => (d, keyed), ev := e, anchok := true, ready := true }

/-- A launch posted to the last queue, not started. -/
def posted (l : LaunchRec) : Launch :=
  { lr := l, raw := List.replicate 128 0, q := 1023, slot := 0, ctx := 0, posted := 0, started := false, next := 0, slots := [], retired := []
    cohorts := [], claim := [], claimInst := [], ended := none, worded := false, code := [] }

/-- The state in which it stands. -/
def waiting (l : Launch) (e : Ev) : State :=
  { P with launches := [(5, l)], teams := [], threads := [], queues := P.queues.put 1023 { Queue.init with size := 1, en := true, base := 0x300000, slots := [(0, 5)] }
           cores := [], cur := none, dies := (upTo 14).map fun d => (d, keyed), ev := e }

theorem wit_LaunchRows_start : let s := waiting (posted placedLaunch) { q := 1023 };
    s.mayStartQ s.ev.q = some 5 ∧ s.launch? 5 = some (posted placedLaunch) ∧ s.turnOf 0 = some s.ev.q := by decide +kernel

/-- A launch whose ring slot another agent has written: its first byte is unspecified from then on. -/
theorem wit_LaunchRows_ring : let l := posted placedLaunch;
    let s := (waiting l { lid := 5 }).poke 0x300000 1;
    (s.launch? 5 = some l ∧ (s.queue l.q).en = true ∧ s.peekN ((s.queue l.q).base + 128 * l.slot) 128 ≠ l.raw ∧ s.ringKept l = false)
      ∧ (let u := waiting l { lid := 5 };
         u.launch? 5 = some l ∧ u.peekN ((u.queue l.q).base + 128 * l.slot) 128 = l.raw)
      ∧ [(0 : Byte), 7][1]? = some 7 ∧ [(1 : Byte), 7][1]? = some 7 ∧ [(0 : Byte), 7][0]? = some 0 ∧ [(1 : Byte), 7][0]? = some 1 := by
  decide +kernel

theorem wit_LaunchRows_place :
    (let l : Launch := { posted placedLaunch with started := true };
      let s := waiting l { lid := 5 };
      s.ev.flag = false ∧ s.launch? s.ev.lid = some l ∧ s.ringKept l = true ∧ l.started = true ∧ l.ended = none ∧ l.next < l.lr.nteams
        ∧ (s.ctx l.ctx).st = .active ∧ l.lr.res = false
        ∧ l.lr.clvl = 0 ∧ l.freeHoods ≠ [] ∧ (chooseCore s.uses l.lr (s.coreOk s.ev.lid l) allCores).isSome = true)
    ∧ (let l : Launch := { posted { placedLaunch with res := true } with started := true };
        let s := waiting l { lid := 5 };
        s.ev.flag = false ∧ s.launch? s.ev.lid = some l ∧ s.ringKept l = true ∧ l.started = true ∧ l.ended = none ∧ l.next < l.lr.nteams
        ∧ (s.ctx l.ctx).st = .active ∧ l.lr.res = true) := by
  decide +kernel

theorem wit_LaunchRows_cohort : let l : Launch := { posted { placedLaunch with clvl := 1, cn := 1, bclus := 16 } with started := true };
    let s := waiting l { lid := 5 };
    s.ev.flag = false ∧ s.launch? s.ev.lid = some l ∧ s.ringKept l = true ∧ l.started = true ∧ l.ended = none ∧ (s.ctx l.ctx).st = .active
      ∧ l.next < l.lr.nteams ∧ l.lr.res = false ∧ l.lr.clvl ≠ 0 ∧ l.lr.cn ≤ l.freeHoods.length
      ∧ (chooseCohort s.uses l.lr (s.coreOk s.ev.lid l) l.lr.cn
        (fun i => decide (s.barsHeld none l.lr.clvl i + l.lr.barsAsked ≤ barCap l.lr.clvl)) (upTo (instCount l.lr.clvl))).isSome = true := by
  decide +kernel

theorem wit_LaunchRows_again : let tm : Team := { placedTeam with resident := false, saved := true };
    let s : State := { up { flag := true, team := 0 } with teams := [(0, tm)], threads := [] };
    let l := placedRun P.mem;
    s.ev.flag = true ∧ s.team? s.ev.team = some tm ∧ s.launch? tm.lid = some l ∧ tm.resident = false ∧ (s.ctx l.ctx).st = .active
      ∧ (∀ c ∈ tm.cores, (s.ctx tm.ctx).outCores.contains c = false) ∧ l.lr.res = false ∧ l.lr.clvl = 0 ∧ tm.killed = false
      ∧ (match preferCores l.lr s.uses (s.coreOk tm.lid l) (fun _ => true) 1 allCores with
        | some [_] => true
        | _ => false) = true := by decide +kernel

theorem wit_LaunchRows_retire : ∀ v ∈ [0, 1], let tm : Team := { placedTeam with lr := { placedLaunch with clvl := v, cn := 1 } };
    let s : State := { withT { placedThread with st := .exited } with teams := [(0, tm)] };
    s.team? s.ev.team = some tm ∧ tm.resident = true ∧ (∀ x ∈ s.threadsOf s.ev.team, x.2.st = .exited) ∧ s.teamOps s.ev.team tm = []
      ∧ (∀ r ∈ s.copiesOf s.ev.team, r.usesTeam = false) ∧ s.copiesInto s.ev.team = false ∧ tm.lr.clvl = v := by decide +kernel

theorem wit_LaunchRows_end : (let l : Launch := { posted placedLaunch with started := true, next := 1, retired := [0] };
      let s := waiting l { lid := 5 };
      s.launch? s.ev.lid = some l ∧ s.ringKept l = true ∧ l.worded = false ∧ l.started = true ∧ l.next = l.lr.nteams
        ∧ l.lr.nteams ≤ l.retired.length ∧ s.launchBusy s.ev.lid = false)
    ∧ (∀ k ∈ [1, 4], let l : Launch := { posted placedLaunch with ended := some k };
      let s := waiting l { lid := 5 };
      s.launch? s.ev.lid = some l ∧ s.ringKept l = true ∧ l.worded = false ∧ l.ended ≠ none ∧ s.launchBusy s.ev.lid = false) := by
  decide +kernel

/-- A context whose time slice is over on core 127, where its team is: another of its priority waits. -/
def sliced (out : List Nat) : State :=
  { P with
    clk := 262144, ev := { ctx := 63, core := 127 }
    ctxs := ((Tbl.put P.ctxs 63 { Ctx.init with st := .active, sliceStart := [(127, 0)], outCores := out }).put 1 { Ctx.init with st := .active, outCores := [127] })
    teams := [(0, { placedTeam with ctx := 63, core := 127 })], cores := P.cores.put 127 { Core.init 127 with active := [] } }

theorem wit_ContextsAndQueues_switch :
    (let s := sliced [];
      s.sliceOver s.ev.ctx s.ev.core = true ∧ s.outTeams s.ev.ctx s.ev.core ≠ [] ∧ (s.ctx s.ev.ctx).outCores.contains s.ev.core = false)
    ∧ (let s := sliced [127];
        (s.core s.ev.core).draining = false ∧ s.mustLeave s.ev.core = [] ∧ (s.ctx s.ev.ctx).outCores.contains s.ev.core = true
        ∧ s.outTeams s.ev.ctx s.ev.core ≠ [])
    ∧ (let s : State := { sliced [] with threads := [(0, { placedThread with st := .parked, wait := 1 })] };
        (s.core s.ev.core).draining = false ∧ s.mustLeave s.ev.core = [] ∧ s.parkedNow s.ev.ctx s.ev.core = true
        ∧ s.outTeams s.ev.ctx s.ev.core ≠ [])
    ∧ (∀ z ∈ [CtxState.active, .switchedOut], let u := sliced [127];
        let s : State := { u with teams := [], ctxs := u.ctxs.put 63 { (u.ctx 63) with st := z } };
        ((s.ctx s.ev.ctx).st = .active ∨ (s.ctx s.ev.ctx).st = .switchedOut) ∧ (s.ctx s.ev.ctx).outCores.contains s.ev.core = true ∧ s.outTeams s.ev.ctx s.ev.core = []) := by decide +kernel

theorem wit_ContextsAndQueues_create :
    (let s := up { ctx := 63, v := 0x12345678FFFF0170 };
      s.ev.hport < 2 ∧ s.dieAnswers 8 (0x20000 + 0x10 * s.ev.ctx) = true ∧ s.ev.ctx < 64 ∧ s.ev.v.extractLsb' 10 6 = 0 ∧ s.ev.v.getLsbD 7 = false ∧ s.ev.v.extractLsb' 2 2 = 0
        ∧ s.ev.v.extractLsb' 8 2 = 1 ∧ (s.ctx s.ev.ctx).st = .free)
    ∧ (let s : State := { up { ctx := 63, v := 0x12345678FFFF0270 } with ctxs := P.ctxs.put 63 { Ctx.init with st := .faulted } };
        s.ev.hport < 2 ∧ s.dieAnswers 8 (0x20000 + 0x10 * s.ev.ctx) = true ∧ s.ev.ctx < 64 ∧ s.ev.v.extractLsb' 10 6 = 0 ∧ s.ev.v.getLsbD 7 = false ∧ s.ev.v.extractLsb' 2 2 = 0
        ∧ s.ev.v.extractLsb' 8 2 = 2 ∧ (s.ctx s.ev.ctx).st = .faulted)
    ∧ (let s : State := { up { ctx := 63, v := 0x12345678FFFF0270 } with
          ctxs := P.ctxs.put 63 { Ctx.init with st := .active }, teams := [(0, { placedTeam with ctx := 63, resident := false })] };
        s.ev.hport < 2 ∧ s.dieAnswers 8 (0x20000 + 0x10 * s.ev.ctx) = true ∧ (s.ctx s.ev.ctx).st = .active ∧ ∀ e ∈ s.teams, e.2.ctx = s.ev.ctx → e.2.resident = false) := by decide +kernel

theorem wit_ContextsAndQueues_registers :
    (let s := up { q := 1023, idx := 0, v := 0x0000100007F00001 };
      s.ev.hport < 2 ∧ s.dieAnswers (8 + s.ev.q / 512) (0x10000 + 0x20 * (s.ev.q % 512) + 0) = true ∧ s.ev.q < 1024 ∧ s.ev.idx = 0 ∧ s.ev.v.extractLsb' 45 19 = 0 ∧ s.ev.v.extractLsb' 27 5 = 0
        ∧ s.ev.v.extractLsb' 1 19 = 0 ∧ (s.queue s.ev.q).en = false ∧ 0 < (s.ev.v.extractLsb' 32 13).toNat
        ∧ (s.ev.v.extractLsb' 32 13).toNat ≤ 4096)
    ∧ (let s := up { q := 1023, idx := 1, v := 0x000FFFFFFFFFFF80 };
        s.ev.hport < 2 ∧ s.dieAnswers (8 + s.ev.q / 512) (0x10000 + 0x20 * (s.ev.q % 512) + 8) = true ∧ s.ev.q < 1024 ∧ s.ev.idx = 1 ∧ s.ev.v.extractLsb' 52 12 = 0 ∧ s.ev.v.extractLsb' 0 7 = 0
        ∧ (s.queue s.ev.q).en = false)
    ∧ (let s := up { q := 1023, idx := 2, v := 0x0000000F00000000 };
        s.ev.hport < 2 ∧ s.dieAnswers (8 + s.ev.q / 512) (0x10000 + 0x20 * (s.ev.q % 512) + 16) = true ∧ s.ev.q < 1024 ∧ s.ev.idx = 2 ∧ s.ev.v.extractLsb' 36 28 = 0 ∧ s.ev.v.extractLsb' 29 3 = 0
        ∧ s.ev.v.extractLsb' 13 3 = 0)
    ∧ (let s : State := { up { hport := 1, q := 1023 } with
        queues := P.queues.put 1023 { Queue.init with size := 1, en := true }
        hports := [(1, { HPort.init with bufs := [(1023, List.replicate 128 0)] })] };
        s.ev.hport < 2 ∧ s.ev.q < 1024 ∧ (s.queue s.ev.q).en = true ∧ (s.ctx (s.queue s.ev.q).ctx).st ≠ .free
        ∧ ((s.hport s.ev.hport).buf s.ev.q).length = 128)
    ∧ (∀ e ∈ [false, true], let s : State := { up { hport := 1, q := 1023 } with
          queues := P.queues.put 1023 { Queue.init with size := 1, en := e, ctx := 63 } };
        s.ev.hport < 2 ∧ s.ev.q < 1024 ∧ ((s.queue s.ev.q).en = false ∨ (s.ctx (s.queue s.ev.q).ctx).st = .free)) := by decide +kernel

/-! #### Memory -/

/-- The placed state with its leaf entry replaced. -/
def leafAs (e : Nat) : State := P.pokeNat 0x10000 8 e

theorem wit_AddressesAndChecks_modulo :
    (let tm : Team := { placedTeam with mreg := List.replicate 16 (5, 0) };
      (tm.mreg.getD (15 : BitVec 4).toNat (0, 0)).2 = 0)
    ∧ (let tm : Team := { placedTeam with mreg := List.replicate 16 (0xFFFFFFFD, 2) };
       let t := T [(63, 0xFFFFFFFE)];
       tm.mreg.getD (15 : BitVec 4).toNat (0, 0) = (0xFFFFFFFD, 2) ∧ (0xFFFFFFFD : Word).toNat ≤ (t.reg 63).toNat
        ∧ (t.reg 63).toNat < (0xFFFFFFFD : Word).toNat + (2 : Word).toNat ∧ (0xFFFFFFFD : Word).toNat + (2 : Word).toNat < 2 ^ 32) := by decide +kernel

theorem wit_AddressesAndChecks_access : (0x0080000000000000 : DWord).extractLsb' 55 9 ≠ 0
    ∧ (P.access 0 (some 0) 0 .read 0x007FFFFFFFFFFFFF).1 = .pageFault 1 ∧ ((leafAs 0x2B).access 0 (some 0) 0 .write 0xFFFF).1 = .pageFault 4
    ∧ (match ((leafAs (0x3B + 2 ^ 43)).access 0 (some 0) 0 .read 0).1 with
      | .trap k _ => k == 8
      | _ => false) = true
    ∧ (match (P.access 0 (some 0) 0 .write 0xFFFF).1 with
      | .ok gpa _ => !((P.access 0 (some 0) 0 .write 0xFFFF).2.noPath gpa true)
      | _ => false) = true
    ∧ (match ((leafAs (0x33 + 2 ^ 43)).access 0 (some 0) 0 .read 0xFFFF).1 with
      | .ok gpa _ => ((leafAs (0x33 + 2 ^ 43)).access 0 (some 0) 0 .read 0xFFFF).2.noPath gpa false
      | _ => false) = true := by decide +kernel

/-- No store, atomic or wide release has to wait at its issue: the conditions of STS, ST, RED, ATOM and CAS. -/
theorem wit_memory_goes : let m : MemIns := { memR 0 2 .base .rel with scope := .sys };
    let live := P.liveLanes placedGroup bare;
    live ≠ [] ∧ (∀ x ∈ live, P.sysHold 0 placedGroup.team x.2.1 = false) ∧ P.relWaits 0 placedGroup.team live .rel true = none
      ∧ (reqIds (P.core 0).storeq).length + 128 ≤ 128 ∧ storeWaits m 16 16 0 placedGroup placedTeam live P = none
      ∧ rmwWaits m 8 0 placedGroup placedTeam live P = none ∧ accPrv .b32 = false ∧ accPrv .prvB128 = true := by decide +kernel

theorem wit_StoresAndReads_scratch : P.team? 0 = some placedTeam ∧ spWf placedTeam.scratch = true := by decide +kernel

theorem wit_StoresAndReads_stores : (P.thread? 0 0).isSome = true ∧ P.team? 0 = some placedTeam ∧ placedTeam.window = false
    ∧ placedTeam.upset = [] ∧ pkgOf 0xFFFF = P.pkgid ∧ wideScope .die = false ∧ wideScope .stk = true
    ∧ Memory.wf P.mem = true ∧ localOf (128 - 16 + 8) % 128 + (8 : Nat) ≤ 128 ∧ (0 : Nat) ≠ 1 ∧ (3 : Nat) ≠ 2 := by decide +kernel

theorem wit_Atomics_done : (match (P.access 0 (some 0) 0 .write 0x8000).1 with
      | .ok gpa x =>
        let u := (P.closeWindow 0).drainTo 0 fun r => overlaps r.pa r.data.length gpa 4
        let v := u.readPoint 0 0 (u.rangeAt 0 0 0x8000) x .core (localOf gpa) 4 1
        v.1 == ([0, 0, 0, 0], false) && (v.2.thread? 0 0).isSome
      | _ => false) = true := by decide +kernel

/-- A store request of the placed thread. -/
def oneStore (pa : Nat) : StoreReq :=
  { id := 3, core := 127, team := 0, tid := 0, lane := 0, pc := 0, ctx := 0, va := 0, pa := pa, data := [1], red := none, rel := false
    sc := .core, cls := 0, hint := 0, cmp := false, rng := none }

/-- The state whose last core's store queue holds requests. -/
def queued (l : List StoreReq) : State := { P with cores := P.cores.put 127 { Core.init 127 with storeq := l }, ev := { core := 127 } }

theorem wit_StoreQueueAndWatchRows_queue :
    ((queued [oneStore 0]).core 127).storeq = oneStore 0 :: [] ∧ (queued [oneStore 0]).reqFails [oneStore 0] = none
    ∧ (queued [oneStore (2 ^ 43)]).reqFails [oneStore (2 ^ 43)] = some 1
    ∧ (∀ x ∈ (withT { placedThread with st := .exited }).threadsOf 0, x.2.st = .exited)
    ∧ ({ P with teams := [(0, { placedTeam with window := true, log := [oneStore 0] })] } : State).team? 0
      = some { placedTeam with window := true, log := [oneStore 0] } := by decide +kernel

/-- A window of a WAITW on the word at 0x8000. -/
def watchWin (poll : Nat) (dl : Option Nat) : Window :=
  { id := 7, kind := .mem, left := 0, ready := false, regs := [(63, 0)], preds := [], flags := 0, late := none, canLate := false
    wait := some (.watch 0x8000 .ne 0 dl false .die 63 poll none), pc := 0, yh := false }

/-- A line's entry in the cluster directory of the last cluster, and the state that has it. -/
def entry (st : DirState) (holders busy : List Holder) (q : List (Nat × Holder × Bool)) : DirEntry :=
  { base := 0, log2 := 7, st := st, holders := holders, owner := none, busy := busy, queue := q, last := 0, poisonPend := false }
def dirWith (d : DirRef) (es : List DirEntry) (e : Ev) : State := { P with dirs := es.map fun x => (d, x), ev := e }

theorem wit_StoreQueueAndWatchRows_watch : let w := watchWin 4096 (some 100);
    let t : Thread := { placedThread with st := .parked, wait := 2, wins := [w] };
    let s : State := { withT t with clk := 100 };
    let blocked : State := { s with dirs := [(.die 0, entry .s [.l2 1] [.l2 1] [(256, .l2 7, true)])].map fun x => (x.1, { x.2 with log2 := 16 }) };
    s.team? 0 = some placedTeam ∧ s.thread? 0 0 = some t ∧ placedTeam.resident = true
      ∧ (t.waiting fun z => match z with
          | .watch _ _ _ _ _ _ _ _ _ => true
          | _ => false) = some w
      ∧ (match (s.access 0 (some 0) 0 .read 0x8000).1 with
        | .ok gpa y =>
          let r := (s.access 0 (some 0) 0 .read 0x8000).2;
          let a := r.ctAsk 0 y.cls y.hint .load (localOf gpa);
          decide (pkgOf gpa = s.pkgid) && a.1 && decide ((a.2.watchRead 0 0 0 0 0x8000 y .die gpa).1 = some 0)
        | _ => false) = true
      ∧ (match (blocked.access 0 (some 0) 0 .read 0x8000).1 with
        | .ok gpa y => !((blocked.access 0 (some 0) 0 .read 0x8000).2.ctAsk 0 y.cls y.hint .load (localOf gpa)).1
        | _ => false) = true
      ∧ (4096 : Nat) ≤ 4096 ∧ (100 : Nat) ≤ s.clk ∧ condHolds .ne 1 0 = true ∧ condHolds .ne 0 0 = false ∧ s.clk < 101 := by decide +kernel

theorem wit_CoherenceAndRanges_requests :
    (let s := dirWith (.cluster 31) [] { dref := .cluster 31, pa := 127, holder := .l1 127, flag := true };
      (match (s.dirEntry s.ev.dref (lineOf s.ev.pa)).1 with
        | some e => e.busy == [] && !e.poisonPend
        | none => false) = true)
    ∧ (∀ z ∈ [([Holder.l1 124], [(0, Holder.l1 125, true)], false), ([], [], true)], let e := { entry .s [.l1 124] z.1 z.2.1 with poisonPend := z.2.2 };
       let s := dirWith (.cluster 31) [e] { dref := .cluster 31, pa := 127, holder := .l1 127, flag := true };
       (s.dirEntry s.ev.dref (lineOf s.ev.pa)).1 = some e ∧ ((e.busy ≠ [] ∧ e.queue ≠ []) ∨ (e.busy = [] ∧ e.poisonPend = true)))
    ∧ (let e := entry .s [.l1 124] [.l1 124] [];
       let s := dirWith (.cluster 31) [e] { dref := .cluster 31, pa := 127, holder := .l1 127, holders := [.l1 124] };
       (s.dirEntry s.ev.dref (lineOf s.ev.pa)).1 = some e ∧ e.busy ≠ [] ∧ e.queue = []
        ∧ s.dirFind s.ev.dref (lineOf s.ev.pa) = some e ∧ ∀ h ∈ e.busy, h ∈ s.ev.holders ∧ h ≠ .host)
    ∧ (let e := entry .s [.l1 124] [.l1 124] [(0, .l1 127, true)];
       let s := dirWith (.cluster 31) [e] { dref := .cluster 31, pa := 127, holder := .l1 124, holders := [.l1 124] };
       let hs := s.ev.holders.filter (· != .host);
       s.dirFind s.ev.dref (lineOf s.ev.pa) = some e ∧ e.queue = (0, .l1 127, true) :: []
        ∧ e.busy.contains s.ev.holder = true ∧ s.ev.holder ≠ .host ∧ e.busy ≠ []
        ∧ (e.busy.filter fun h => !(hs.contains h && s.answered h 0 true)) ≠ e.busy)
    ∧ (let e := entry .s [.host] [.host] [(0, .l2 7, true)];
       let s := dirWith (.package 0) [e] { pa := 127 };
       s.dirFind (pkgDir (lineOf s.ev.pa)) (lineOf s.ev.pa) = some e ∧ e.queue = [(0, .l2 7, true)] ∧ e.busy = [.host]) := by decide +kernel

/-- A directory with no free entry: every one awaits the host's answer to its recall. -/
theorem wit_CoherenceAndRanges_full :
    let s := dirWith (.cluster 31) (List.replicate 4096 { entry .s [.host] [.host] [] with base := 65536, log2 := 16 }) { dref := .cluster 31, pa := 127 };
    (s.dirEntry s.ev.dref (lineOf s.ev.pa)).1 = none := by decide +kernel

theorem wit_CoherenceAndRanges_merge : let e := entry .s [.l1 124] [] [];
    let b : DirEntry := { e with base := 128 };
    let s : State := { dirWith (.cluster 31) [e, b] { dref := .cluster 31 } with clk := 65536 };
    s.dirFind s.ev.dref (lineOf s.ev.pa) = some e ∧ s.sibling s.ev.dref e = some b ∧ s.canMerge e b = true := by decide +kernel

/-- A line of a cache, clean, filled at clk 0. -/
def oneLine (st : LineState) (ln : Nat) : Line :=
  { ln := ln, st := st, ctx := 0, tagv := true, hint := 0, retained := none, dirty := 0, cmp := false, comp := false, data := [], filled := 0, way := 3, poison := false }

theorem wit_CoherenceAndRanges_caches :
    (let s : State := { P with ev := { cache := .l1 127 } };
      s.maySleep s.ev.cache = true ∧ (s.cache s.ev.cache).asleep = false)
    ∧ (let s : State := { P with ev := { cache := .l2 7 }, dies := P.dies.put 7 { Die.init with cache := { Cache.init with asleep := true } } };
       (s.cache s.ev.cache).asleep = true)
    ∧ (let s := dirWith (pkgDir (lineOf 0x40000000000)) [{ entry .s [.l2 7] [] [] with base := 0x40000000000 }] { pa := 0x40000000000 };
       regionOf s.ev.pa = .host 10 ∧ (s.dirFind (pkgDir (lineOf s.ev.pa)) (lineOf s.ev.pa)).isSome = true)
    ∧ (let s : State := { P with ev := { pa := 0x40000000000 } };
       regionOf s.ev.pa = .host 10 ∧ s.dirFind (pkgDir (lineOf s.ev.pa)) (lineOf s.ev.pa) = none)
    ∧ (let s : State := { P with clk := 65536, ev := { cache := .l2 7, pa := 127 }
                                 dies := P.dies.put 7 { Die.init with cache := { Cache.init with lines := [oneLine .si 0] } } };
       (s.cache s.ev.cache).line? (lineOf s.ev.pa) = some (oneLine .si 0) ∧ (oneLine .si 0).filled + 65536 ≤ s.clk) := by decide +kernel

theorem wit_CoherenceAndRanges_commands :
    (let s : State := { P with pfWait := [5], xregs := { XRegs.init with pfqSize := 1 } };
      s.pfWait = 5 :: [] ∧ s.pfRoom = true)
    ∧ (∀ op ∈ [1, 2, 3], let k : Cmd := { op := op, ctx := 63, first := 0, count := 1, all := false, since := 0, ran := false };
        ({ P with cmd := some k } : State).cmd = some k ∧ k.op = op ∧ k.ran = false)
    ∧ (let k : Cmd := { op := 1, ctx := 63, first := 0, count := 1, all := false, since := 0, ran := true };
       let s : State := { P with cmd := some k, clk := 2000 };
       s.cmd = some k ∧ k.ran = true ∧ s.shotDone k = true) := by decide +kernel

/-! #### The copy engine -/

/-- A landing word with each field filled. -/
def word1 : LandWord := { count := 1, target := 3, gen := 0xFFFFFFFF, hi := 2 }

theorem wit_CopyData_words :
    (match (P.sPut 0 240 word1.bytes).team? 0 with
      | some t => t.sRead 240 4 == word1.bytes.take 4 && t.sRead 244 4 == (word1.bytes.drop 4).take 4
          && t.sRead 248 4 == (word1.bytes.drop 8).take 4 && t.sRead 252 4 == word1.bytes.drop 12
      | none => false) = true
    ∧ (word1.count + BitVec.ofNat 32 1).toNat < word1.target.toNat ∧ word1.target.toNat ≤ (word1.count + BitVec.ofNat 32 2).toNat := by decide +kernel

/-- A request block: KIND 1 and one row of 8 bytes from scratchpad offset 0 to 248, landing at 240. -/
def blk1 (held : Nat) : List Byte :=
  toBytes 4 (1 + 256 + 1024 + 4096 * held + 16384) ++ toBytes 4 8 ++ toBytes 4 1 ++ toBytes 4 0 ++ toBytes 8 0 ++ toBytes 8 248
    ++ toBytes 4 8 ++ toBytes 4 8 ++ List.replicate 16 0 ++ toBytes 4 240 ++ List.replicate 4 0

theorem wit_CopyData_blocks : (blk1 0).length = 64 ∧ blkCause (blk1 0) 256 1 false = none ∧ blkCause (blk1 1) 256 31 true = some 4
    ∧ blkCause (blk1 1) 256 1 true = none ∧ (blkOf (blk1 0)).slv = false ∧ (blkOf (blk1 0)).ssp = 1 ∧ (blkOf (blk1 0)).dsp = 1
    ∧ (0 : Nat) < 1 ∧ (blkOf (blk1 0)).kind ≤ 1 := by decide +kernel

/-- KICK has room for the blocks of its lanes, BREL for those that its mask names. -/
theorem wit_CopyInstructions : let q := P.sPut 0 0 (blk1 0);
    (match q.team? 0 with
      | some tm => kickCheck tm 0 == .ok (blk1 0) && decide (1 ≤ 64 - (q.core 0).copyq.length) && decide ((blkOf (blk1 0)).scope ≠ 6)
      | none => false) = true
    ∧ placedThread.kicked = none ∧ (∀ x ∈ P.liveLanes placedGroup bare, P.sysHold 0 placedGroup.team x.2.1 = false)
    ∧ (let tm : Team := { (placedTeam.sWrite 0 (blk1 1)) with hvalid := 0x8000, bins := List.replicate 32 1 };
       (match brelBlocks tm (heldSlots tm 0xFFFFFFFF) with
        | .inl bs => bs == [blk1 1] && decide (bs.length ≤ 64 - (P.core 0).copyq.length)
        | .inr _ => false) = true) ∧ (P.liveLanes placedGroup bare).getLast? = some (0, 0, placedThread) := by decide +kernel

/-- A request of the placed team with the block given, and its chunks. -/
def req1 (b : Blk) (started : Bool) (cs : List Chunk) : CopyReq :=
  { id := 9, team := 0, tid := 0, ctx := 0, pc := 0, raw := [], blk := b, accepted := 0, started := started, chunks := cs, idxs := []
    suspended := none }

/-- A core that holds it. -/
def copying (r : CopyReq) (n : Nat) : State :=
  { P with cores := P.cores.put 0 { Core.init 0 with copyq := [r] }, ev := { core := 0, req := 9, row := n, chunk := 0 }, clk := 40 }

/-- Its one chunk, of 8 bytes. -/
def chunk1 (written landed : Bool) : Chunk :=
  { row := 0, n := 0, data := List.replicate 8 1, awaits := 0, sent := false, written := written, landed := landed, acked := false }

theorem wit_CopyRows_read :
    (let r := req1 (blkOf (blk1 0)) false [];
      let s := copying r 0;
      s.copyReq? s.ev.core s.ev.req = some r ∧ r.started = false ∧ r.blk.nrow ≠ 0
        ∧ (∀ x ∈ (s.core s.ev.core).copyq.takeWhile fun x => x.id != r.id, x.started = true)
        ∧ ((s.core s.ev.core).copyq.filter (·.started)).length < 8)
    ∧ (let r := req1 { blkOf (blk1 0) with nrow := 0, slv := true, sland := 224 } false [];
      let s := copying r 0;
      s.copyReq? s.ev.core s.ev.req = some r ∧ r.started = false ∧ r.blk.nrow = 0 ∧ r.blk.dsp ≠ 2
        ∧ (∀ x ∈ (s.core s.ev.core).copyq.takeWhile fun x => x.id != r.id, x.started = true)
        ∧ ((s.core s.ev.core).copyq.filter (·.started)).length < 8 ∧ s.landBad r.team r.blk.sland = false ∧ s.landBad r.team r.blk.dland = false)
    ∧ (let r := req1 (blkOf (blk1 0)) true [];
       let s := copying r 0;
       let src := r.src 0;
       let dst := r.dst 0;
       let p := chunkSpan dst r.blk.len 0;
       s.copyReq? s.ev.core s.ev.req = some r ∧ s.team? r.team = some placedTeam ∧ placedTeam.resident = true ∧ r.started = true
        ∧ r.suspended = none ∧ s.ev.row < r.blk.nrow ∧ r.rowKnown s.ev.row = true ∧ r.chunk? s.ev.row s.ev.chunk = none ∧ r.accepted + 40 ≤ s.clk
        ∧ s.ev.chunk < chunksOf dst r.blk.len ∧ s.rowFault r src dst = none ∧ (s.core s.ev.core).retryUsed + p.2 ≤ 262144
        ∧ r.blk.ssp = 1 ∧ placedTeam.sPoisoned (src + p.1) p.2 = false) := by decide +kernel

/-- The same block with its destination in the global space. -/
def blkGlobal : Blk := { blkOf (blk1 0) with dsp := 0, dst := 0x8000, dlv := false, dland := 0 }

theorem wit_CopyRows_write :
    (let k := chunk1 false false;
      let r := req1 (blkOf (blk1 0)) true [k];
      let s := copying r 0;
      s.chunkNow = some (r, k, some placedTeam) ∧ k.awaits = 0 ∧ k.written = false ∧ k.sent = false ∧ r.suspended = none ∧ r.blk.dsp = 1
        ∧ (s.overlap s.ev.core r k (some placedTeam)).any id = false ∧ s.rowFault r (r.src k.row) (r.dst k.row) = none)
    ∧ (let k := chunk1 false false;
       let r := req1 blkGlobal true [k];
       let s := copying r 0;
       let row := r.dst k.row;
       let q := chunkSpan row r.blk.len k.n;
       s.chunkNow = some (r, k, some placedTeam) ∧ k.sent = false ∧ r.blk.dsp = 0 ∧ (s.overlap s.ev.core r k (some placedTeam)).any id = false
        ∧ s.rowFault r (r.src k.row) row = none
        ∧ (match s.copyPieces s.ev.core r true (row + q.1) q.2 with
          | (.inr (p :: ps), u) => pkgOf p.2.2.1 == u.pkgid && (u.copyHeld s.ev.core .store (p :: ps)).isNone
          | _ => false) = true) := by decide +kernel

/-- A row of 8 bytes copied 4 bytes up: its last 4 source bytes are among its destination bytes. -/
theorem wit_CopyRows_overlap : let k := chunk1 false false;
    let r := req1 { blkOf (blk1 0) with dst := 4 } true [k];
    let s := copying r 0;
    s.chunkNow = some (r, k, some placedTeam) ∧ k.awaits = 0 ∧ k.written = false ∧ k.sent = false ∧ r.suspended = none ∧ r.blk.dsp = 1
      ∧ (s.overlap s.ev.core r k (some placedTeam)) = [true, true, true, true, false, false, false, false] ∧ r.blk.ssp = 1
      ∧ ((s.freeBytes k.data.length).2.modChunk s.ev.core r.id k.row k.n fun k => { k with data := [] }).rowFault r (r.src k.row) (r.dst k.row) = none := by decide +kernel

theorem wit_CopyRows_land :
    (let k := chunk1 true false;
      let r := req1 (blkOf (blk1 0)) true [k];
      let s := copying r 0;
      s.chunkNow = some (r, k, some placedTeam) ∧ r.blk.dlv = true ∧ k.written = true ∧ k.landed = false ∧ r.blk.dsp = 1
        ∧ s.team? r.team = some placedTeam ∧ placedTeam.resident = true ∧ placedTeam.sPoisoned r.blk.dland 16 = false
        ∧ 240 + 16 ≤ placedTeam.lr.scratch ∧ k.acked = false ∧ s.chunkKept s.ev.core r.id k.row k.n = none)
    ∧ (let k := chunk1 true true;
       let r := req1 (blkOf (blk1 0)) true [k];
       (copying r 0).chunkNow = some (r, k, some placedTeam) ∧ k.written = true ∧ k.landed = true ∧ k.acked = false) := by decide +kernel

/-- A window of an LWAIT on the landing word at 240. -/
def landWin : Window :=
  { id := 7, kind := .sync, left := 0, ready := false, regs := [(62, 0), (63, 0)], preds := [], flags := 0, late := none, canLate := false
    wait := some (.land 240 0 62 4096), pc := 0, yh := false }

theorem wit_CopyRows_waits :
    (let s : State := { withT { placedThread with st := .parked, wait := 3, wins := [landWin] } with clk := 4096 };
      s.team? s.ev.team = some placedTeam ∧ placedTeam.resident = true
        ∧ ((s.thread? s.ev.team s.ev.tid).bind fun t => t.waiting fun w => match w with
          | .land _ _ _ poll => decide (poll ≤ s.clk)
          | _ => false) = some landWin ∧ landWin.wait = some (.land 240 0 62 4096) ∧ placedTeam.sPoisoned 240 16 = false)
    ∧ (let m : Msg := { kind := .landing, dpkg := 0, spkg := 1, sctx := 0, hops := 0, rid := 0, op := 0, addr := 240, data := [], scr := false };
       let x : Held := { team := 0, msg := m, chunk := none };
       let s : State := { P with held := [x] };
       s.held.find? (fun x => x.team == s.ev.team) = some x ∧ s.team? s.ev.team = some placedTeam ∧ x.msg.kind = .landing) := by decide +kernel

/-! #### The matrix engine -/

/-- A team with both engines, every accumulator row, and an FP16 plane in front of each. -/
def matTeam : Team :=
  let k : Engine := { Engine.init with front := { valid := true, fmt := 4, ns := false, sparse := false } }
  { placedTeam with lr := { placedLaunch with mx := true, pair := true, accrows := 512, scratch := 1048576 }, eng := [k, k]
                    c := List.replicate 16 { size := 1, count := 0, gen := 0, done := 0 } }

/-- What each team operation asks, at the end of what it may have, on the second engine. -/
def asks : List MReq :=
  [ { kind := .mldw .f16 false 0 524288 512, plane := true, ranges := [(524288, 512, 256, 512)], aligned := [(524288, 512), (512, 512)] }
    , { kind := .mldws false 1015808 524288 512, plane := true, ranges := [(524288, 512, 256, 512), (1015808, 0, 1, 32768)]
        aligned := [(524288, 512), (512, 512), (1015808, 256)] }
    , { kind := .mswap, plane := true }
    , { kind := .mma (matTeam.engine 1).front .f16 false false 511 1 1048064 0 0, plane := true, rows := some (511, 1), fmt := some .f16
        ranges := [(1048064, 0, 1, 512)], aligned := [(1048064, 512), (0, 512)] }
    , { kind := .mgmm (matTeam.engine 1).front .f16 false 1048572 1048572 1 524288 0 0, plane := true, fmt := some .f16
        ranges := [(1048572, 4, 1, 4), (1048572, 4, 1, 4)], aligned := [(524288, 512), (0, 512), (1048572, 4), (1048572, 4)] }
    , { kind := .mclr 0 512, rows := some (0, 512) }
    , { kind := .macld false 0 512 524288 1024, rows := some (0, 512), ranges := [(524288, 1024, 512, 1024)], aligned := [(524288, 1024), (1024, 1024)] }
    , { kind := .macst .f32 false false false .rn 0 512 524288 1024 0, rows := some (0, 512), ranges := [(524288, 1024, 512, 1024)]
        aligned := [(524288, 1024), (1024, 1024)] }
    , { kind := .mrow .max false 511 1 1048572, rows := some (511, 1), ranges := [(1048572, 4, 1, 4)], aligned := [(1048572, 4)] }]

theorem wit_MatrixOperations :
    (∀ r ∈ asks, matCause matTeam true r ((some (15 : BitVec 4)).any fun n => (matTeam.conv n.toNat).size == 0) = none)
    ∧ matCause matTeam true { kind := .mclr 1 512, rows := some (1, 512) } false = some 3 ∧ placedThread.passed = false
    ∧ ({ placedThread with mchk := some (0, 1) } : Thread).passed = true ∧ (P.core (placedTeam.core + b2n true)).matq.length + 1 ≤ 32
    ∧ ((P.liveLanes placedGroup bare).filter fun x => (x.2.2.recorded x.2.2.pc).isNone).getLast? = some (0, 0, placedThread)
    ∧ (let s := withT { placedThread with arr := some { pci := 0, rcnt := 1, result := 0 } };
       ((s.liveLanes placedGroup bare).filter fun x => (x.2.2.recorded x.2.2.pc).isNone) = []) := by decide +kernel

/-- An operation of the placed team on core[0]. -/
def op1 (started : Bool) : MOp :=
  { id := 9, team := 0, e := 0, kind := .mclr 0 1, owner := none, conv := none, entered := 0, started := started, stale := []
    spoiled := [], pc := 0 }

theorem wit_MatrixWaitsAndQueue :
    (P.core (placedTeam.core + b2n false)).matq.length < 32
    ∧ (placedTeam.conv 15).count + 1 ≠ (placedTeam.conv 15).size ∧ (matTeam.conv 15).count + 1 = (matTeam.conv 15).size
    ∧ (let s : State := { P with cores := P.cores.put 127 { Core.init 127 with matq := [op1 false] }, ev := { core := 127, req := 9 }, clk := 8 };
       (s.core s.ev.core).matq.find? (fun o => o.id == s.ev.req) = some (op1 false) ∧ (op1 false).started = false ∧ (op1 false).entered + 8 ≤ s.clk
        ∧ (s.core s.ev.core).matq.takeWhile (fun x => x.id != (op1 false).id) = [])
    ∧ (let s : State := { P with cores := P.cores.put 127 { Core.init 127 with matq := [op1 true] }, ev := { core := 127, req := 9 } };
       let u := s.modCore s.ev.core fun k => { k with matq := k.matq.filter fun x => x.id != (op1 true).id };
       (s.core s.ev.core).matq = op1 true :: [] ∧ (op1 true).id = s.ev.req ∧ (op1 true).started = true ∧ (op1 true).spoiled = [] ∧ (op1 true).stale = []
        ∧ u.team? (op1 true).team = some placedTeam ∧ (op1 true).poison placedTeam = none)
    ∧ spWf Engine.init.acc = true ∧ (List.replicate 256 (1 : Word)).length = 256 := by decide +kernel

/-! #### The sequencer's rows and the margin -/

/-- Core 127 as given, with operands and a clk. -/
def core127 (k : Core) (e : Ev) (clk : Nat) : State := { P with cores := P.cores.put 127 k, ev := e, clk := clk }

/-- A batt of the placed thread, filed at clk 0. -/
def batt1 : Batt := { team := 0, pc := 0, members := [{ team := 0, tid := 0, filed := 0, hold := 0 }] }

theorem wit_SequencerRows_results :
    (let w : Window := { watchWin 0 none with ready := true, wait := none };
      let t : Thread := { placedThread with wins := [w], st := .running };
      let s : State := { withT t with ev := { win := 7 } };
      s.away s.ev.team = false ∧ s.thread? s.ev.team s.ev.tid = some t ∧ t.win? s.ev.win = some w ∧ w.kind = .mem ∧ t.st ≠ .parked)
    ∧ (let w : Window := { watchWin 0 none with wait := some (.sleep 50) };
       let t : Thread := { placedThread with wins := [w], st := .parked, wait := 5 };
       let s : State := { withT t with clk := 50 };
       s.thread? s.ev.team s.ev.tid = some t
        ∧ (t.waiting fun w => match w with
          | .sleep till => decide (till ≤ s.clk)
          | _ => false) = some w ∧ w.wait = some (.sleep 50) ∧ (50 : Nat) ≤ s.clk
        ∧ t.st = .parked ∧ (t.win? 7).isSome = true ∧ t.wait ≠ 6 ∧ ((s.team? 0).map (·.resident)).getD false = true) := by decide +kernel

theorem wit_SequencerRows_draws :
    (let s := core127 { Core.init 127 with batts := [(62, batt1)] } { core := 127 } 512;
      let u := s.refill s.ev.core;
      u.battToDraw s.ev.core (fun _ => true) = some (62, batt1) ∧ (u.core s.ev.core).freeSlots ≠ [])
    ∧ (let s := core127 { Core.init 127 with batts := [(62, batt1)], active := (upTo 8).map fun i => (i, placedGroup)
                                             pending := List.replicate 55 placedGroup } { core := 127 } 512;
       let u := s.refill s.ev.core;
       u.battToDraw s.ev.core (fun _ => true) = some (62, batt1) ∧ (u.core s.ev.core).pending.length < 56)
    ∧ (let s := core127 { Core.init 127 with batts := [(63, batt1)] } { core := 127 } 0;
       (s.core s.ev.core).batts.find 63 = some batt1 ∧ (s.core s.ev.core).active.find 7 = none
        ∧ batt1.members.filter (fun m => decide (m.hold ≤ s.clk)) = batt1.members)
    ∧ (let s := core127 { Core.init 127 with batts := [(62, batt1)], active := (upTo 8).map fun i => (i, placedGroup)
                                             pending := List.replicate 56 placedGroup, overdueSince := some 1008 } { core := 127 } 1024;
       (s.core s.ev.core).overdueSince = some 1008 ∧ sortBy (·.drawn) (s.core s.ev.core).pending = placedGroup :: List.replicate 55 placedGroup ∧ 1008 + 16 ≤ s.clk
        ∧ (s.core s.ev.core).freeSlots = [] ∧ 56 ≤ (s.core s.ev.core).pending.length
        ∧ (s.battToDraw s.ev.core (fun b => match oldestFiled (b.eligible s.clk) with
          | some f => decide (2 * (s.core s.ev.core).ageLimit ≤ s.clk - f)
          | none => false)).isSome = true) := by decide +kernel

theorem wit_SequencerRows_issue :
    (let s := core127 (Core.init 127) { core := 127 } 0;
      s.ev.core < 128 ∧ s.issueClk s.ev.core = true)
    ∧ (let g : Group := { placedGroup with stall := some 4 };
       let s := core127 { Core.init 127 with active := [(7, g)], pending := [placedGroup] } { core := 127, slot := 7 } 8;
       (s.core s.ev.core).active.find s.ev.slot = some g ∧ g.stall = some 4 ∧ 4 + 4 ≤ s.clk ∧ s.readyPending s.ev.core = some placedGroup ∧ g.stray = false
        ∧ sortBy (fun e => e.2.since) ((s.core s.ev.core).active.filter fun e => !e.2.stray) = (7, g) :: []
        ∧ s.clk % 8 = 0 ∧ placedGroup.since + 8 ≤ s.clk) := by decide +kernel

theorem wit_MarginRows :
    (let s := core127 { Core.init 127 with wlen := 1 } { core := 127 } 262144;
      s.ev.core < 128 ∧ (s.core s.ev.core).winStart + 262144 ≤ s.clk)
    ∧ (let s : State := { P with ev := { core := 0, tids := [0] } };
       s.ev.tids.filter (fun i => s.onCore s.ev.core s.ev.team i) = 0 :: [] ∧ s.ev.flag = false)
    ∧ (P.core 127).quar = false
    ∧ (let s : State := { up { core := 127, v := 0x3001F } with cores := [(127, { Core.init 127 with quar := true })] };
       s.ev.core < 128 ∧ s.ev.hport < 2 ∧ s.dieAnswers (dieOf s.ev.core) (0x100 * (s.ev.core % 16)) = true ∧ s.ev.v &&& 0xFFFFFFFFFFFCE0E0 = 0 ∧ s.ev.v.getLsbD 12 = false)
    ∧ (let s : State := { up { core := 127, v := 0x3101F } with cores := [(127, { Core.init 127 with quar := true })] };
       s.ev.core < 128 ∧ s.ev.hport < 2 ∧ s.dieAnswers (dieOf s.ev.core) (0x100 * (s.ev.core % 16)) = true ∧ s.ev.v &&& 0xFFFFFFFFFFFCE0E0 = 0
        ∧ s.ev.v.getLsbD 12 = true ∧ (s.core s.ev.core).quar = true)
    ∧ (let s := up { core := 127, v := 0xFFFFFF };
       s.ev.core < 128 ∧ s.ev.hport < 2 ∧ s.dieAnswers (dieOf s.ev.core) (0x100 * (s.ev.core % 16) + 0x10) = true ∧ s.ev.v &&& 0xFFFFFFFFFF000000 = 0)
    ∧ (let o : MOp := { op1 true with owner := some 0, kind := .mma (matTeam.engine 0).front .f16 false false 0 1 0 0 0 };
       let s : State := { P with cores := P.cores.put 127 { Core.init 127 with matq := [o] }, ev := { core := 127, req := 9 } };
       (s.core s.ev.core).matq.find? (fun o => o.id == s.ev.req && o.started && ((s.team? o.team).map o.checked).getD false) = some o
        ∧ o.owner = some 0 ∧ (s.thread? o.team 0).isSome = true)
    ∧ (let s := core127 { Core.init 127 with badRows := [527] } { core := 127 } 0;
       (s.core s.ev.core).matq = []) := by decide +kernel

/-- An empty queue on a core that no team need leave. -/
theorem wit_MarginRows_map : let s : State := { P with teams := [], ev := { core := 127 } };
    (s.core s.ev.core).matq = [] ∧ (((s.core 127).badRows.filter fun r => !(s.core 127).rowMap.contains r).foldl
      (fun s r => s.event { kind := 0x0D, core := 127, die := dieOf 127, aux := r }) (s.modCore 127 fun k => { k with rowMap := k.badRows })).mustLeave 127 = [] := by
  decide +kernel

/-! #### The links -/

/-- A flit's fields, with the payload of a whole flit of the link. -/
def rx1 (f : LinkFmt) (t seq : Nat) (nak : Bool) : RxFlit := { seq := seq, ack := 0, type := t, ki := 0, nak := nak, payload := List.replicate f.pay 0x5A }

/-- The last die link, its first direction's receiver as given and its second direction's transmitter too. -/
def dieLinked (rx tx : Chan) (b : List Byte) : State :=
  { up { link := 20, dir := 1, bytes := b } with links := [(20, { dirs := [tx, rx], failed := false })] }

/-- A key slot. -/
def key1 : KeySlot := { key := 1, salt := 2 }

/-- A die link's tag flit of an empty group at 0, good or not. -/
def tagDie (good : Bool) : RxFlit :=
  { seq := 15, ack := 0, type := 1, ki := 0, nak := false
    payload := padTo 54 (if good then gcmTag key1.key (dieFmt.iv key1 0 0) (dieFmt.aad 0 0) [] else []) }

theorem wit_DieLinkRows_flits :
    (let s := dieLinked { Chan.init with rxSeq := 16777214 } Chan.init (dieFmt.encode (rx1 dieFmt 0 16777214 false));
      DieFlit s 0 { Chan.init with rxSeq := 16777214 } Chan.init (rx1 dieFmt 0 16777214 false) ∧ (16777214 % 16 : Nat) ≠ 15)
    ∧ (let s := dieLinked Chan.init Chan.init (dieFmt.encode (rx1 dieFmt 0 8388607 false));
       DieFlit s 0 Chan.init Chan.init (rx1 dieFmt 0 8388607 false) ∧ (8388607 : Nat) ≠ Chan.init.rxSeq)
    ∧ (let s := dieLinked Chan.init Chan.init (dieFmt.encode (rx1 dieFmt 2 0 true));
       DieFlit s 2 Chan.init Chan.init (rx1 dieFmt 2 0 true))
    ∧ (let s := dieLinked Chan.init Chan.init (dieFmt.encode (rx1 dieFmt 3 0 true));
       DieFlit s 3 Chan.init Chan.init (rx1 dieFmt 3 0 true)) := by
  simp only [Say.DieFlit]; decide +kernel

theorem wit_DieLinkRows_tags :
    let rx : Chan := { Chan.init with rxSeq := 15, rxKeys := [some key1, none] };
    (let s := dieLinked rx Chan.init (dieFmt.encode (tagDie true));
      DieFlit s 1 rx Chan.init (tagDie true) ∧ (15 : Nat) = rx.rxSeq ∧ (15 % 16 : Nat) = 15 ∧ (∀ y ∈ rx.group, y.ki = 0) ∧ rx.rxKeys.getD 0 none = some key1
        ∧ (dieFmt.open key1 0 0 0 rx.group (tagDie true).payload).isSome = true)
    ∧ (let s := dieLinked rx Chan.init (dieFmt.encode (tagDie false));
       DieFlit s 1 rx Chan.init (tagDie false) ∧ (15 : Nat) = rx.rxSeq ∧ rx.rxKeys.getD 0 none = some key1 ∧ dieFmt.open key1 0 0 0 rx.group (tagDie false).payload = none) := by
  simp only [Say.DieFlit]; decide +kernel

theorem wit_DieLinkRows_other :
    (let s := dieLinked Chan.init Chan.init [];
      s.ev.link < 21 ∧ s.ev.dir < 2 ∧ s.linkCarries s.ev.link 0 = true ∧ s.linkOk s.ev.link = true ∧ (s.link s.ev.link).dirs[s.ev.dir]? = some Chan.init ∧ (s.link s.ev.link).dirs[1 - s.ev.dir]? = some Chan.init
        ∧ dieFmt.decode s.ev.bytes = none ∧ (s.die (linkEnds s.ev.link).1).attested.st = 3 ∧ (s.die (linkEnds s.ev.link).2).attested.st = 3)
    ∧ (let s := dieLinked { Chan.init with replay := some 0, nakAt := some 0, fails := 7 } Chan.init [];
       s.ev.link < 21 ∧ s.ev.dir < 2 ∧ s.linkOk s.ev.link = true ∧ (s.link s.ev.link).dirs[1 - s.ev.dir]? = some Chan.init
        ∧ (s.link s.ev.link).dirs[s.ev.dir]? = some { Chan.init with replay := some 0, nakAt := some 0, fails := 7 })
    ∧ (let h : Chan := { Chan.init with open_ := [1], txKeys := [some key1, none], txSeq := 16777200 };
       h.open_ ≠ [] ∧ h.open_.length < 15 * dieFmt.pay ∧ h.maySeal dieFmt = true ∧ h.txKeys.getD h.txKi none = some key1)
    ∧ (let e : DirEntry := { entry .x [.l2 7] [] [(0, .l2 0, true)] with poisonPend := true };
       let s : State := { up { dref := .package 0, pa := 127 } with dirs := [(.package 0, e)] };
       s.dirFind s.ev.dref (lineOf s.ev.pa) = some e ∧ (s.die 8).census = none ∧ (s.die 9).census = none
        ∧ (∀ h ∈ e.holders, s.reaches (s.dirDie s.ev.dref) (holderDie (s.dirDie s.ev.dref - 8) h) = true) ∧ e.owner = none) := by
  decide +kernel

/-- The last Kalsy port in a state, with a channel and what arrives. -/
def ported (st : PortState) (h : Chan) (b : List Byte) : State :=
  { up { port := 63, lref := .port 63, bytes := b, idx := 5 } with ports := [(63, { Port.init with st := st, ch := h })] }

/-- A port's tag flit of an empty group at 0. -/
def tagPort : RxFlit :=
  { seq := 15, ack := 0, type := 1, ki := 0, nak := false, payload := padTo 240 (gcmTag key1.key (kalsyFmt.iv key1 0 0) (kalsyFmt.aad 0 0) []) }

/-- The remainder of CRC-32C carried on over bytes. -/
def crcOn (c : BitVec 32) (b : List Byte) : BitVec 32 := b.foldl (fun c x => iter crcBit 8 (c ^^^ x.setWidth 32)) c

/-- The remainders at steps of 36 bytes are the ones listed. -/
def crcSteps (c : BitVec 32) (b : List Byte) : List (BitVec 32) → Bool
  | [] => b.isEmpty
  | d :: ds => crcOn c (b.take 36) == d && crcSteps d (b.drop 36) ds

theorem crc_steps {c : BitVec 32} {b : List Byte} {ds : List (BitVec 32)} (h : crcSteps c b ds = true) : crcOn c b = ds.getLastD c := by
  induction ds generalizing c b with
  | nil => rw [List.isEmpty_iff.1 h]; rfl
  | cons d ds ih =>
    rw [crcSteps, Bool.and_eq_true, beq_iff_eq] at h
    rw [← List.take_append_drop 36 b, crcOn, List.foldl_append]
    simp only [crcOn] at h ih ⊢
    rw [h.1, ih h.2, List.getLastD_cons]

/-- A port's flit with the given CRC. -/
def portFlit (x : RxFlit) (v : BitVec 32) : List Byte := fecEncode (kalsyFmt.body x ++ toBytes 4 v.toNat)

theorem port_flit_decodes {b d : List Byte} {c : Bool} {x : RxFlit} {v : BitVec 32} {ds : List (BitVec 32)} (hs : crcSteps 0xFFFFFFFF d ds = true)
    (h : fecDecode b = some (d ++ toBytes 4 v.toNat, c) ∧ d.length = 252 ∧ ~~~(ds.getLastD 0xFFFFFFFF) = v
      ∧ kalsyFmt.fields (d ++ toBytes 4 v.toNat) = some x) : kalsyFmt.decode b = some (c, x) := by
  obtain ⟨h, hl, hv, hx⟩ := h
  rw [← crc_steps hs] at hv
  change crc32c d = v at hv
  have hn : ofBytes (toBytes 4 v.toNat) = v.toNat := by
    have := v.isLt
    simp [ofBytes, toBytes]
    omega
  simp [LinkFmt.decode, h, hl, hv, hn, hx, kalsyFmt] at hx ⊢

/-- A flit as it is received. -/
def dataWire : List Byte := portFlit (rx1 kalsyFmt 0 4294967294 false) 0xD2DC57B3

theorem data_wire : kalsyFmt.decode dataWire = some (false, rx1 kalsyFmt 0 4294967294 false) :=
  port_flit_decodes (d := kalsyFmt.body (rx1 kalsyFmt 0 4294967294 false)) (v := ~~~0x2d23a84c)
    (ds := [0x586cbc31, 0x3eca9f6c, 0xda305d76, 0x8f89feee, 0x38603258, 0xe776c73b, 0x2d23a84c])
    (by decide +kernel) (by decide +kernel)

/-- A flit as it is received. -/
def tagWire : List Byte := portFlit (tagPort) 0xA91F82D9

theorem tag_wire : kalsyFmt.decode tagWire = some (false, tagPort) :=
  port_flit_decodes (d := kalsyFmt.body (tagPort)) (v := ~~~0x56e07d26)
    (ds := [0x9111a3ec, 0x67e23dd2, 0xdffb1932, 0xabb5ee2d, 0xfe788d1a, 0x6859fd9c, 0x56e07d26])
    (by decide +kernel) (by decide +kernel)

/-- A flit as it is received. -/
def controlWire : List Byte := portFlit (rx1 kalsyFmt 2 0 true) 0xAEDB4C65

theorem control_wire : kalsyFmt.decode controlWire = some (false, rx1 kalsyFmt 2 0 true) :=
  port_flit_decodes (d := kalsyFmt.body (rx1 kalsyFmt 2 0 true)) (v := ~~~0x5124b39a)
    (ds := [0x2d4f4aac, 0xa15ab0c9, 0x3d500f07, 0xa2c6f56b, 0xe5fa0a20, 0x8278c34b, 0x5124b39a])
    (by decide +kernel) (by decide +kernel)

/-- An idle flit of which a byte is corrected. -/
def idleWire : List Byte := setAt (portFlit (rx1 kalsyFmt 3 0 true) 0x60483A04) 7 0xFF

theorem idle_wire : kalsyFmt.decode idleWire = some (true, rx1 kalsyFmt 3 0 true) :=
  port_flit_decodes (d := kalsyFmt.body (rx1 kalsyFmt 3 0 true)) (v := ~~~0x9fb7c5fb)
    (ds := [0x8f5ac198, 0xd5545fcb, 0xf47f968a, 0x6baa08ab, 0x20bc02ed, 0x061a1b4b, 0x9fb7c5fb])
    (by decide +kernel) (by decide +kernel)

/-- A port's flit as its decoding shows. -/
theorem port_flit {s : State} {t : Nat} {c : Bool} {x : RxFlit} {b : List Byte} (hb : s.ev.bytes = b) (hd : kalsyFmt.decode b = some (c, x))
    (h : s.ev.port < 64 ∧ carries (s.port s.ev.port).st t = true ∧ (s.die (brimOfPort s.ev.port)).lost = false ∧ x.type = t) : PortFlit s t c x :=
  ⟨h.1, h.2.1, h.2.2.1, hb ▸ hd, h.2.2.2⟩

theorem wit_KalsyRows_data : let s := ported .up { Chan.init with rxSeq := 4294967294 } dataWire;
    PortFlit s 0 false (rx1 kalsyFmt 0 4294967294 false) ∧ ((4294967294 : Nat) = (s.port s.ev.port).ch.rxSeq ∧ (4294967294 : Nat) % 16 ≠ 15) :=
  ⟨port_flit rfl data_wire (by decide +kernel), by decide +kernel⟩

theorem wit_KalsyRows_later : let s := ported .up { Chan.init with rxSeq := 2147483647 } dataWire;
    PortFlit s 0 false (rx1 kalsyFmt 0 4294967294 false) ∧ ((4294967294 : Nat) ≠ (s.port s.ev.port).ch.rxSeq
      ∧ (s.port s.ev.port).ch.discard = false ∧ (4294967294 + 4294967296 - (s.port s.ev.port).ch.rxSeq) % 4294967296 < 2147483648) :=
  ⟨port_flit rfl data_wire (by decide +kernel), by decide +kernel⟩

theorem wit_KalsyRows_tag : let s := ported .up { Chan.init with rxSeq := 15, rxKeys := [some key1, none] } tagWire;
    PortFlit s 1 false (tagPort) ∧ ((15 : Nat) = (s.port s.ev.port).ch.rxSeq ∧ (15 % 16 : Nat) = 15
      ∧ (∀ y ∈ (s.port s.ev.port).ch.group, y.ki = 0) ∧ (s.port s.ev.port).ch.rxKeys.getD 0 none = some key1
      ∧ (kalsyFmt.open key1 0 0 0 (s.port s.ev.port).ch.group tagPort.payload).isSome = true) :=
  ⟨port_flit rfl tag_wire (by decide +kernel), by decide +kernel⟩

theorem wit_KalsyRows_bad_tag : let s := ported .up { Chan.init with rxSeq := 15, rxKeys := [some { key1 with salt := 3 }, none] } tagWire;
    PortFlit s 1 false (tagPort) ∧ ((15 : Nat) = (s.port s.ev.port).ch.rxSeq ∧ (15 % 16 : Nat) = 15
      ∧ (s.port s.ev.port).ch.rxKeys.getD 0 none = some { key1 with salt := 3 }
      ∧ kalsyFmt.open { key1 with salt := 3 } 0 0 0 (s.port s.ev.port).ch.group tagPort.payload = none) :=
  ⟨port_flit rfl tag_wire (by decide +kernel), by decide +kernel⟩

theorem wit_KalsyRows_control : let s := ported .training Chan.init controlWire;
    PortFlit s 2 false (rx1 kalsyFmt 2 0 true) :=
  port_flit rfl control_wire (by decide +kernel)

theorem wit_KalsyRows_idle : let s := ported .up Chan.init idleWire;
    PortFlit s 3 true (rx1 kalsyFmt 3 0 true) :=
  port_flit rfl idle_wire (by decide +kernel)

theorem wit_KalsyRows_states :
    (let s := ported .up { Chan.init with replay := some 0, open_ := [1] } [];
      s.ev.port < 64 ∧ (s.port s.ev.port).st = .up ∧ (s.port s.ev.port).ch.replay = some 0 ∧ (s.port s.ev.port).ch.open_ ≠ [])
    ∧ (let s : State := { ported .up { Chan.init with kept := [{ seq := 0, type := 0, ki := 0, payload := [] }], fails := 7 } [] with clk := 16384 };
       (s.port s.ev.port).st = .up ∧ (s.port s.ev.port).ch.kept ≠ [] ∧ (s.port s.ev.port).ch.ackClk + 16384 ≤ s.clk)
    ∧ ((ported .off Chan.init []).port 63).st = .off ∧ ((ported .failed Chan.init []).port 63).st = .failed
    ∧ ((ported .failed Chan.init []).port 63).st ≠ .off ∧ (∀ r ∈ (ported .up Chan.init []).reqs, ∃ q, r.port = some q ∧ q ≠ 63)
    ∧ (ported .up Chan.init []).transit = []
    ∧ (let s : State := { ported .training Chan.init [] with clk := 1073741824 };
       (s.port s.ev.port).st = .training ∧ s.ev.idx ≠ s.pkgid ∧ (s.port s.ev.port).since + 1073741824 ≤ s.clk)
    ∧ (let s : State := { ported .training Chan.init [] with pkgid := 5 };
       (s.port s.ev.port).st = .training ∧ s.ev.idx = s.pkgid) := by decide +kernel

theorem wit_KalsyRows_bad_flit : ∀ st ∈ [PortState.up, .training, .attest], let s := ported st Chan.init (List.replicate 10 1);
    s.ev.port < 64 ∧ (s.die (brimOfPort s.ev.port)).lost = false ∧ kalsyFmt.decode s.ev.bytes = none ∧ (s.port s.ev.port).st = st := by
  decide +kernel

/-- A message for package `d` from package 9. -/
def msg1 (k : MsgKind) (d : Nat) (op : BitVec 8) (data : List Byte) : Msg :=
  { kind := k, dpkg := d, spkg := 9, sctx := 0, hops := 0, rid := 7, op := op, addr := 0x8000, data := data, scr := false }

/-- A request of this package to package 9. -/
def req9 (w : ReqWhat) (port till : Option Nat) : RemReq :=
  { rid := 7, msg := msg1 .read 9 8 [], port := port, what := w, team := 0, tid := 0, ctx := 0, waitTill := till }

theorem wit_KalsyRows_wait : (let r := req9 (.load 0 7 [] false) none (some 0);
      let s : State := { ported .up Chan.init [] with reqs := [r], ev := { rid := 7 } };
      s.ev.flag = false ∧ s.reqs.find? (fun r => r.rid == s.ev.rid) = some r ∧ r.port = none ∧ r.waitTill = some 0 ∧ (0 : Nat) ≤ s.clk)
    ∧ (let s : State := { ported .up Chan.init [] with ev := { flag := true } };
       s.ev.flag = true)
    ∧ (∀ v ∈ [0x80011F, 0xF001FF], let s := up { v := BitVec.ofNat 64 v };
       s.ev.hport < 2 ∧ s.dieAnswers 10 0x100000 = true ∧ s.ev.v &&& 0xFFFFFFFFFF0FFE00 = 0) := by decide +kernel
/-- A message arrived at the last port, from package 9, which a window admits to the last frame of its range and to context 0. -/
def coming (m : Msg) : State :=
  { up { port := 63 } with
    ports := [(63, { Port.init with st := .up, inbox := [m] })], iwins := [(31, { base := 0, last := 0, ctl := 0x1F + 9 * 2 ^ 40 })]
    routes := [(4, { ports := 2 ^ 63, v := true })], hopmax := 8, teams := P.teams, ctxs := P.ctxs
    doneReqs := [], held := [] }

theorem wit_MessageRows_forward : ∀ r ∈ msgRows,
    (let m := msg1 r.2 4 8 [];
      let s := coming { m with hops := 7 };
      Comes s r.2 { m with hops := 7 } [] ∧ m.dpkg ≠ s.pkgid ∧ 7 + 1 ≤ s.hopmax
        ∧ (match s.path m.dpkg m.addr.toNat with
          | .port q => q == 63
          | _ => false) = true ∧ s.hopmax < 8 + 1)
    ∧ (let m := msg1 r.2 4 8 [];
       let s : State := { coming m with ports := [(63, { Port.init with st := .training, inbox := [m] })] };
       Comes s r.2 m [] ∧ (match s.path m.dpkg m.addr.toNat with
          | .wait _ => true
          | _ => false) = true)
    ∧ (let m := msg1 r.2 4 8 [];
       let s : State := { coming m with routes := [] };
       Comes s r.2 m [] ∧ s.path m.dpkg m.addr.toNat = .noRoute) := by simp only [Say.Comes]; decide +kernel

theorem wit_MessageRows_refused_far : (∃ r ∈ msgRows, isRequest r.2 = true) ∧ ∃ r ∈ msgRows, isRequest r.2 = false := by decide +kernel

theorem wit_MessageRows_again : let m := msg1 .landing 0 0 [];
    let s : State := { coming m with doneReqs := [{ spkg := 9, rid := 7, reply := msg1 .ack 9 0 [] }] };
    Comes s .landing m [] ∧ m.dpkg = s.pkgid ∧ isRequest m.kind = true
      ∧ (s.doneReqs.find? fun d => d.spkg == m.spkg && d.rid == m.rid).isSome = true := by simp only [Say.Comes]; decide +kernel

theorem wit_MessageRows_fresh (m : Msg) : Fresh (coming m) m := ⟨rfl, by simp [coming], fun _ h => nomatch h⟩

theorem wit_MessageRows_memory :
    (let m := { msg1 .read 0 128 [] with addr := 0xFF80 };
      let s := coming m;
      Comes s .read m [] ∧ m.dpkg = s.pkgid ∧ s.admits m 1 (home m) m.op.toNat = true ∧ (s.visitLines (home m) m.op.toNat false).1 = true)
    ∧ (let m := { msg1 .read 0 128 [] with addr := 0x10000 };
       (coming m).admits m 1 (home m) m.op.toNat = false)
    ∧ (let m := msg1 .write 0 0 (List.replicate 144 0xFF);
       let s := coming m;
       let v := s.visitLines (home m) 128 true;
       Comes s .write m [] ∧ s.admits m 2 (home m) 128 = true ∧ v.1 = true
        ∧ (((popped v.2 63).lineTaken (home m / 128)).clearPoison (home m) 128).badAt (home m) 128 = false)
    ∧ (∀ op ∈ [AtomOp.add, .or, .exchB64], let m := msg1 .atomic 0 (BitVec.ofNat 8 (atomCode op)) (List.replicate 8 1);
       let s := coming m;
       let v := s.visitLines (home m) (atomBytes op) true;
       Comes s .atomic m [] ∧ m.op.toNat = atomCode op ∧ s.admits m 3 (home m) (atomBytes op) = true ∧ v.1 = true
        ∧ ((popped v.2 63).lineTaken (home m / 128)).badAt (home m) (atomBytes op) = false)
    ∧ (∀ op ∈ [RedOp.add, .xor, .addB64], let m := msg1 .atomic 0 (BitVec.ofNat 8 (128 + redCode op)) (List.replicate 8 1);
       let s := coming m;
       let v := s.visitLines (home m) (redBytes op) true;
       Comes s .atomic m [] ∧ m.op.toNat = 128 + redCode op ∧ s.admits m 3 (home m) (redBytes op) = true ∧ v.1 = true
        ∧ ((popped v.2 63).lineTaken (home m / 128)).badAt (home m) (redBytes op) = false)
    ∧ (∀ w ∈ [0, 1], let n := if w = 0 then 4 else 8;
       let m := msg1 .cas 0 (BitVec.ofNat 8 w) (List.replicate (2 * n) 0);
       let s := coming m;
       let v := s.visitLines (home m) n true;
       Comes s .cas m [] ∧ s.admits m 3 (home m) n = true ∧ v.1 = true ∧ ((popped v.2 63).lineTaken (home m / 128)).badAt (home m) n = false)
    ∧ (let m := msg1 .chunk 0 0 (List.replicate 8 1);
       let s := coming m;
       let v := s.visitLines (home m) m.data.length true;
       Comes s .chunk m [] ∧ m.scr = false ∧ s.admits m 2 (home m) m.data.length = true ∧ v.1 = true
        ∧ ((linesOf (home m) m.data.length).foldl (fun s ln => s.lineTaken ln) (popped v.2 63)).absent (home m) = false)
    ∧ (let m := msg1 .cas 0 0 (List.replicate 8 0);
       let s : State := { coming m with dirs := [(pkgDir 256, { entry .s [.l2 7] [.l2 7] [(256, .l2 6, true)] with log2 := 16 })] };
       Comes s .cas m [] ∧ (s.visitLines (home m) 4 true).1 = false) := by
  simp only [Say.Comes]; decide +kernel

theorem wit_MessageRows_teams :
    (let m := { msg1 .chunk 0 0 (List.replicate 16 0 ++ List.replicate 8 1) with scr := true, addr := 248 };
      let s := coming m;
      Comes s .chunk m [] ∧ s.team? (unitTeam m.data) = some placedTeam ∧ s.deliveryOk m.spkg m.sctx placedTeam.ctx = true
        ∧ m.addr.toNat + (m.data.length - 16) ≤ placedTeam.lr.scratch ∧ placedTeam.resident = true ∧ (∀ x ∈ s.held, x.team ≠ unitTeam m.data)
        ∧ unitDlv m.data = false)
    ∧ (∀ op ∈ [0, 1], let m := msg1 .landing 0 (BitVec.ofNat 8 op) (List.replicate 8 0 ++ toBytes 4 240 ++ List.replicate 4 0);
       let s := coming m;
       Comes s .landing m [] ∧ s.team? (unitTeam m.data) = some placedTeam ∧ s.deliveryOk m.spkg m.sctx placedTeam.ctx = true) := by
  simp only [Say.Comes]; decide +kernel

theorem wit_MessageRows_replies :
    (∀ w ∈ [ReqWhat.load 0 7 [(0, 0, 4, 63)] false, .rmw 0 0 7 62 true true], let m := msg1 .response 0 0 (List.replicate 8 1);
      let s : State := { coming m with reqs := [req9 w (some 63) none] };
      Comes s .response m [] ∧ m.dpkg = s.pkgid ∧ m.data ≠ []
        ∧ s.reqs.find? (fun r => r.rid == m.rid && r.msg.dpkg == m.spkg) = some (req9 w (some 63) none))
    ∧ (∀ w ∈ [ReqWhat.red (oneStore 0), .chunkWrite 0 9 0 0], let m := msg1 .ack 0 0 [];
      let s : State := { coming m with reqs := [req9 w (some 63) none] };
      Comes s .ack m [] ∧ m.dpkg = s.pkgid ∧ m.data = []
        ∧ s.reqs.find? (fun r => r.rid == m.rid && r.msg.dpkg == m.spkg) = some (req9 w (some 63) none))
    ∧ (∀ op ∈ [1, 2], let m := msg1 .refusal 0 (BitVec.ofNat 8 op) [];
      let s : State := { coming m with reqs := [req9 .landing (some 63) none] };
      Comes s .refusal m [] ∧ m.dpkg = s.pkgid
        ∧ s.reqs.find? (fun r => r.rid == m.rid && r.msg.dpkg == m.spkg) = some (req9 .landing (some 63) none))
    ∧ (let m := msg1 .respAck 0 0 [];
       let s := coming m;
       Comes s .respAck m [] ∧ m.dpkg = s.pkgid) := by
  simp only [Say.Comes]; decide +kernel

/-! #### Containment -/

/-- An error at a place, in a state whose last C-die holds a line of way 3 of its L2. -/
def erring (l : ErrLoc) (ln : Line) : State :=
  { P with ev := { loc := l, cache := .l2 7, core := 127, flag := true, team := 0, tid := 0 }, clk := 1073741824
           dies := P.dies.put 7 { Die.init with cache := { Cache.init with lines := [ln] } } }

theorem wit_ErrorRows_lines :
    (∀ l ∈ [oneLine .s 0, { oneLine .m 0 with dirty := 2 ^ 127 }], let s := erring (.cacheLine (.l2 7) 127 3) l;
      s.ev.loc = .cacheLine (.l2 7) 127 3 ∧ (s.cache (.l2 7)).line? (lineOf 127) = some l ∧ l.way = 3 ∧ (l.dirty = 0 ∨ l.st ≠ .si ∧ l.tagv = true))
    ∧ (∀ c ∈ [CacheRef.l1 127, .l2 7, .crown 1], (P.cache c).badWays.contains (wayNo c 5 3) = false
      ∧ ((P.cache c).badHere c 5 < if cacheCode c = 1 then 4 else 8) ∧ (P.cache c).wayLines c 5 3 = [])
    ∧ ({ Cache.init with badWays := [0, 1, 2] } : Cache).badHere (.l1 127) 5 = 3
    ∧ isDram 0x5FFFFFFFFF = true ∧ isDram 0 = true := by decide +kernel

theorem wit_ErrorRows_places : ∀ l ∈ [ErrLoc.register 0 0 1023, .predicates 0 0, .scratch 0 262143, .accumulator 0 1 63 255, .plane 0 1 false 163839],
    (erring l (oneLine .s 0)).ev.loc = l := by decide +kernel

theorem wit_ErrorRows_teams :
    (let s := queued [oneStore 0];
      (s.core 127).storeq[0]? = some (oneStore 0) ∧ pkgOf (oneStore 0).pa = s.pkgid)
    ∧ (let tm : Team := { placedTeam with window := true, log := [oneStore 0] };
       let s : State := { P with teams := [(0, tm)], ev := { loc := .storeLog 0 0 } };
       s.ev.loc = .storeLog 0 0 ∧ s.team? 0 = some tm ∧ tm.log[0]? = some (oneStore 0) ∧ tm.window = true)
    ∧ (let s := erring (.fixedMargin 0 0) (oneLine .s 0);
       s.ev.loc = .fixedMargin 0 0 ∧ s.team? 0 = some placedTeam ∧ (s.thread? 0 0).isSome = true) := by decide +kernel

theorem wit_ErrorRows_counts :
    (let s : State := { erring (.dram 0x5FFFFFFFFF) (oneLine .s 0) with cn := { CnRegs.init with fetEn := true, fetBase := 0x100000 } };
      s.ev.loc = .dram 0x5FFFFFFFFF ∧ isDram 0x5FFFFFFFFF = true ∧ s.cn.fetEn = true)
    ∧ (let s := erring (.dram 0) (oneLine .s 0);
       s.ev.flag = true ∧ (s.core s.ev.core).rowWin + 16777216 ≤ s.clk ∧ (s.cache s.ev.cache).windowStart + 1073741824 ≤ s.clk) := by decide +kernel

theorem wit_KillAndFrameRows_kill :
    (let tm : Team := { placedTeam with window := true };
      let s : State := { P with teams := [(0, tm)] };
      s.team? s.ev.team = some tm ∧ (s.thread? s.ev.team s.ev.tid).isSome = true ∧ tm.window = true)
    ∧ (let s : State := { P with ctxs := P.ctxs.put 63 { Ctx.init with st := .faulted }, ev := { ctx := 63 } };
       (s.ctx s.ev.ctx).st = .faulted) := by decide +kernel

/-- A frame that migrates, with the registers of the containment engine. -/
def moving (f : Nat) (c : CnRegs) : State :=
  { up { frame := f, cause := 2 } with frames := [(f, { FrameSt.init with mig := true, cause := 2 })], cn := c }

theorem wit_KillAndFrameRows_frames :
    (let s := up {};
      (s.frame 0).ret = false ∧ (s.frame 0).mig = false ∧ isDram (0 * 65536) = true ∧ isDram (0x7FFFFFF * 65536) = false)
    ∧ (∀ fc ∈ [64, 1], let s : State := ({ up { frame := 0, cause := 2 } with
          cn := { CnRegs.init with fetEn := true, fceth := fc, fetBase := 0x200000 } } : State).pokeNat (0x200000 + 8 * frameNo 0) 4 64;
        s.ev.cause = 2 ∧ s.cn.fetEn = true ∧ s.cn.fceth ≠ 0 ∧ s.cn.fceth ≤ s.peekNat (s.cn.fetBase + 8 * frameNo (s.ev.frame * 65536)) 4)
    ∧ (let s : State := up { frame := 0, cause := 1 };
       s.ev.cause = 1 ∧ s.cn.fetEn = false)
    ∧ (let s : State := { moving 0 CnRegs.init with dies := P.dies.put 0 { Die.init with lost := true } };
       (s.frame s.ev.frame).mig = true ∧ s.homeLost (s.ev.frame * 65536) = true)
    ∧ (let s := moving 0 { CnRegs.init with spares := [0, 0xBFFFF, 0xC0000] };
       (s.frame s.ev.frame).mig = true ∧ s.homeLost (s.ev.frame * 65536) = false ∧ s.remapFull s.ev.frame = false ∧ s.cn.fetEn = false
        ∧ s.bfl.length < 4096 ∧ s.cn.spares.find? (fun g => sameHome s.ev.frame g && g != s.ev.frame) = some 0xBFFFF)
    ∧ (let s := up { v := 0x50001 };
       s.ev.hport < 2 ∧ s.dieAnswers 8 0x400030 = true ∧ s.ev.v.extractLsb' 43 21 = 0 ∧ s.ev.v.extractLsb' 1 15 = 0 ∧ s.ev.v.getLsbD 0 = true)
    ∧ (let s : State := { up { v := 0x7FFFFFF0FFF } with cn := { CnRegs.init with spares := List.replicate 4094 1 } };
       s.ev.hport < 2 ∧ s.dieAnswers 8 0x400028 = true ∧ s.ev.v.extractLsb' 43 21 = 0 ∧ s.ev.v.extractLsb' 12 4 = 0 ∧ s.cn.spares.length < 4095) := by decide +kernel

/-- The package with its last brim as given. -/
def brimmed (d : Die) (e : Ev) : State :=
  { up e with dies := (upTo 14).map fun n => (n, if n = 13 then d else keyed), clk := 1048576 }

theorem wit_DieAndPowerRows :
    (let s := brimmed keyed { die := 13, flag := true };
      s.ev.die < 14 ∧ (s.die s.ev.die).lost = false ∧ s.ev.flag = true)
    ∧ (let s : State := { brimmed keyed { die := 13 } with links := [(20, { DieLink.init with failed := true }), (19, { DieLink.init with failed := true })] };
      (s.die s.ev.die).lost = false ∧ ∀ n ∈ linksOf s.ev.die, (s.link n).failed = true)
    ∧ (∀ k ∈ [8, 9], let s : State := { up { die := k } with
          dies := (upTo 14).map fun n => (n, if n = k then { keyed with lost := true, census := some 0 } else keyed) };
        (s.ev.die = 8 ∨ s.ev.die = 9) ∧ (s.die (17 - s.ev.die)).lost = false ∧ (s.die s.ev.die).census = some 0)
    ∧ (∀ t ∈ [0x0691, 0x05F1], let s := brimmed keyed { die := 13, temp := BitVec.ofNat 16 t };
       (16 * (s.die s.ev.die).twarn : Int) < s.ev.temp.toInt)
    ∧ (∀ t ∈ [0x05F0, 0xFFFF], let s := brimmed keyed { die := 13, temp := BitVec.ofNat 16 t };
       s.ev.temp.toInt ≤ (16 * (s.die s.ev.die).twarn : Int))
    ∧ (let s := brimmed { keyed with critSince := some 0 } { die := 13 };
       s.ev.die < 14 ∧ (s.die s.ev.die).lost = false ∧ ((s.die s.ev.die).critSince.any fun t => decide (t + 1048576 ≤ s.clk)) = true)
    ∧ (up {}).pwrLimit < (up { size := 4201 }).ev.size % 65536 ∧ (up { size := 4200 }).ev.size % 65536 ≤ (up {}).pwrLimit
    ∧ (let s : State := { up {} with thr := true, clk := 25000000 };
       s.thr = true ∧ s.thrSince + 25000000 ≤ s.clk) := by decide +kernel

/-! #### The attestation engine and the host -/

/-- A die in a state of attestation. -/
def atDie (st why nrst : Nat) : Die := { Die.init with attested := { st := st, why := why, nrst := nrst } }

theorem wit_AttestationRows_dies :
    (let s : State := { State.reset with ev := { flag := true } };
      s.ev.flag = true ∧ s.anchok = false ∧ (s.die 10).attested.st = 0)
    ∧ (let s : State := { State.reset with ev := { die := 8 }, anchok := true };
       s.ev.die ∈ measureOrder ∧ (s.die s.ev.die).attested.st = 0 ∧ (s.die s.ev.die).attested.nrst = 0 ∧ s.turnToMeasure s.ev.die = true)
    ∧ (∀ d ∈ [(13, false), (7, true)], let s : State := { up { die := d.1 } with
          dies := (upTo 14).map fun n => (n, if n = d.1 then { atDie 0 1 2 with zeroed := d.2 } else keyed) };
       s.anchok = true ∧ (8 ≤ s.ev.die ∨ (s.die s.ev.die).zeroed = true) ∧ s.ev.die ∈ measureOrder ∧ (s.die s.ev.die).attested.st = 0 ∧ (s.die s.ev.die).attested.nrst ≠ 0)
    ∧ (∀ m ∈ [Measured.accepted, .session], let s := brimmed (atDie 1 0 0) { die := 13, measured := m };
       s.anchok = true ∧ s.ev.die ∈ measureOrder ∧ (s.die s.ev.die).attested.st = 1)
    ∧ (let s : State := { up { die := 7 } with dies := [(7, atDie 0 0 1)] };
       s.ev.die < 8 ∧ (s.die s.ev.die).attested.st = 0 ∧ (s.die s.ev.die).attested.nrst ≠ 0 ∧ (s.die s.ev.die).zeroed = false)
    ∧ (7 * 51539607552 ≤ (up {}).home 0x5FFFFFFFFF ∧ (up {}).home 0x5FFFFFFFFF < (7 + 1) * 51539607552)
    ∧ (∀ d ∈ [(7, false), (13, true)], let s : State := { up { die := d.1, flag := d.2 } with
          dies := (upTo 14).map fun n => (n, { keyed with zeroed := decide (n ≠ d.1) }), ready := false };
        s.ev.die < 14 ∧ (s.die s.ev.die).attested.st = 3 ∧ (s.die s.ev.die).zeroed = false)
    ∧ (∀ x ∈ [(13, 0x1001), (13, 0x1000), (10, 0x1000)], let s := up { die := x.1, v := BitVec.ofNat 64 x.2 };
       s.ev.die < 14 ∧ s.ev.v.toNat / 4096 % 2 = 1 ∧ s.ev.hport < 2 ∧ s.dieAnswers 10 (0x600000 + 8 * s.ev.die) = true
        ∧ s.ev.v.toNat &&& 0xFFFFFFFF0000E0F8 = 0)
    ∧ (let s := up { die := 13, v := 0x8000000000001000 };
       s.ev.v.toNat / 4096 % 2 = 1 ∧ s.ev.v.toNat &&& 0xFFFFFFFF0000E0F8 ≠ 0)
    ∧ (∀ st ∈ [0, 1, 2, 4], let s := brimmed (atDie st 0 0) { die := 13, v := 0x1000 };
       s.dieAnswers 10 (0x600000 + 8 * s.ev.die) = true ∧ (s.die s.ev.die).attested.st = st) := by decide +kernel

/-- A channel with a first key. -/
def keyedChan : Chan := { Chan.init with txKeys := [some key1, none], rxKeys := [some key1, none] }

theorem wit_AttestationRows_links :
    (let s : State := { up { lref := .die 20 } with dies := (upTo 14).map fun n => (n, if n = 13 then atDie 2 0 0 else keyed) };
      s.ev.lref = .die 20 ∧ (s.link 20).failed = false ∧ (s.link 20).keyed = false
        ∧ ∀ d ∈ upTo 14, d = (linkEnds 20).1 ∨ d = (linkEnds 20).2 → (s.die d).attested.st = 2 ∨ (s.die d).attested.st = 3)
    ∧ ((up {}).link 20).dirs = [Chan.init, Chan.init]
    ∧ (∀ m ∈ [Measured.accepted, .session], let s : State := { ported .attest Chan.init [] with ev := { lref := .port 63, measured := m } };
       s.ev.measured = m ∧ s.ev.lref = .port 63 ∧ (s.port 63).st = .attest)
    ∧ (let s : State := { up { lref := .die 20 } with links := [(20, { dirs := [keyedChan, keyedChan], failed := false })], keyint := 16, clk := 65536 };
       s.ev.lref = .die 20 ∧ s.linkOk 20 = true ∧ (s.link 20).dirs = [keyedChan, keyedChan] ∧ s.rollDue keyedChan = true ∧ s.turnToRoll 20 = true)
    ∧ (let h : Chan := { keyedChan with roll := some (1, key1, 0) };
       let s : State := { ported .up h [] with ev := { lref := .port 63 }, clk := 16777216 };
       s.ev.lref = .port 63 ∧ (s.port 63).st = .up ∧ (s.port 63).ch.roll = some (1, key1, 0)
        ∧ ((s.port 63).ch.roll.any fun r => decide (r.2.2 + 16777216 ≤ s.clk)) = true) := by decide +kernel

theorem wit_HostRows_memory :
    (∀ e ∈ [{ hport := 1, pa := 0x5FFFFFFFC0, size := 64 }, ({ hport := 1, pa := 0x5FFFFFFFC0, bytes := List.replicate 64 1 } : Ev)],
      let s := up e;
      s.ev.hport < 2 ∧ s.ev.flag = false ∧ hdmOk s.ev.pa (s.ev.size + s.ev.bytes.length) = true ∧ (s.hport s.ev.hport).waits = [] ∧ s.ready = true
        ∧ s.absent s.ev.pa = false ∧ (s.hostLines s.ev.pa 64 (!s.ev.bytes.isEmpty)).1 = true
        ∧ (({ s with dirs := [(pkgDir (lineOf s.ev.pa), { entry .x [.l2 7] [.l2 7] [] with base := 128 * lineOf s.ev.pa })] } : State).hostLines s.ev.pa 64 true).1 = false)
    ∧ (let a : HostAcc := { pa := 0, size := 64, data := none };
       let s : State := { up { hport := 1, flag := true } with hports := [(1, { HPort.init with waits := [a] })] };
       (s.hport s.ev.hport).waits = [a] ∧ (s.hostAccess s.ev.hport a).1 = true)
    ∧ (let s : State := { State.reset with ev := { hport := 1, pa := 0, size := 64, bytes := List.replicate 64 1 } };
       s.ev.hport < 2 ∧ s.ev.flag = false ∧ hdmOk s.ev.pa s.ev.size = true ∧ hdmOk s.ev.pa s.ev.bytes.length = true ∧ s.ready = false
        ∧ (s.hport s.ev.hport).waits = []) := by decide +kernel

theorem wit_HostRows_registers :
    (∀ w ∈ [(13 * 4294967296 + 0x500000, none), (42957013008, some 1500)], let s := up { hport := 1, off := w.1, size := 8, write := w.2 };
      s.ev.flag = false ∧ s.ev.off < 68719476736 ∧ s.ev.off % 8 = 0
        ∧ s.dieAnswers (s.ev.off / 4294967296) (s.ev.off % 4294967296) = true ∧ s.ev.write = w.2
        ∧ (s.regAt (s.ev.off / 4294967296) (s.ev.off % 4294967296) 1500).isSome = true)
    ∧ (let s := up { hport := 1, off := 14 * 4294967296, size := 8 };
       14 ≤ s.ev.off / 4294967296 ∧ s.ev.off < 68719476736 ∧ (s.regAt 14 0 0).isNone = true)
    ∧ (let s : State := { State.reset with ev := { hport := 1, off := 13 * 4294967296 + 0x500000, size := 8 } };
       s.ev.off / 4294967296 < 14 ∧ s.dieAnswers (s.ev.off / 4294967296) (s.ev.off % 4294967296) = false)
    ∧ (∀ z ∈ [(4, 8), (8, 4)], let s := up { hport := 1, off := z.2, size := z.1 };
       s.ev.flag = false ∧ s.ev.off < 68719476736 ∧ (s.ev.size ≠ 8 ∨ s.ev.off % 8 ≠ 0))
    ∧ (let s := up { hport := 1, flag := true, off := 4194304 - 4096 + 112, size := 8, write := some 5 };
       s.ev.flag = true ∧ s.ev.off < 4194304 ∧ s.ev.write = some 5 ∧ s.ev.size = 8 ∧ s.ev.off % 8 = 0 ∧ s.ev.off % 4096 < 120)
    ∧ (let s : State := { up {} with hports := [(1, { HPort.init with hierrV := true })] };
       (s.hport 1).hierrV = true ∧ (s.hport 0).hierrV = false) := by decide +kernel

theorem wit_HostRows_management :
    (let s := up { bytes := [1] };
      s.anchok = true ∧ s.ev.bytes = 1 :: [])
    ∧ (∀ v ∈ [1500, 4200], let s := up { off := 42957013008, write := some (BitVec.ofNat 64 v) };
       s.ev.bytes = [] ∧ s.ev.write = some (BitVec.ofNat 64 v) ∧ 1500 ≤ (BitVec.ofNat 64 v).toNat ∧ (BitVec.ofNat 64 v).toNat ≤ 4200)
    ∧ (let s := up { off := 42957013008 };
       s.ev.bytes = [] ∧ s.ev.write = none ∧ (s.regAt (s.ev.off / 4294967296) (s.ev.off % 4294967296) 0).isSome = true
        ∧ mctpReads (s.ev.off % 4294967296) = true ∧ s.ev.off % 8 = 0) := by decide +kernel

/-! #### Where the rows of cores and links complete -/

/-- The window of a long-latency result of the ALU that is ready for r63. -/
def aluWin : Window := { watchWin 0 none with kind := .alu, ready := true, wait := none, regs := [(63, 9)], flags := 1 }

theorem wit_CoreRowsComplete_results :
    (let t : Thread := { placedThread with wins := [aluWin], st := .running };
      let s : State := { withT t with ev := { win := 7 } };
      s.away s.ev.team = false ∧ s.thread? s.ev.team s.ev.tid = some t ∧ aluWin.id = s.ev.win ∧ aluWin.kind = .alu ∧ aluWin.ready = true
        ∧ aluWin.late = none ∧ aluWin.preds = [] ∧ s.ev.only = none ∧ t.st = .running ∧ t.trap = none ∧ t.entry = none ∧ 63 < t.regs.length)
    ∧ (let w : Window := { watchWin 0 none with regs := [], wait := some (.sleep 50) };
       let t : Thread := { placedThread with wins := [w], st := .parked, wait := 5 };
       let s : State := { withT t with clk := 50 };
       s.team? s.ev.team = some placedTeam ∧ placedTeam.resident = true ∧ s.thread? s.ev.team s.ev.tid = some t ∧ t.st = .parked ∧ t.wait ≠ 6
        ∧ w.wait = some (.sleep 50) ∧ w.regs = [] ∧ w.late = none ∧ t.entry = none)
    ∧ (let g : Group := { placedGroup with awaits := [(0, 5)] };
       let s := core127 { Core.init 127 with active := [(7, g)] } { core := 127, reg := 5 } 0;
       (s.core s.ev.core).active = [(7, g)] ∧ g.awaits = [(s.ev.block, s.ev.reg)]) := by decide +kernel

theorem wit_CoreRowsComplete_draws :
    (let s := core127 { Core.init 127 with batts := [(62, batt1)] } { core := 127 } 512;
      (s.core s.ev.core).pending = [] ∧ s.battToDraw s.ev.core (fun _ => true) = some (62, batt1)
        ∧ (s.core s.ev.core).freeSlots.head? = some 0)
    ∧ (let s := core127 { Core.init 127 with batts := [(63, batt1)] } { core := 127 } 0;
       (s.core s.ev.core).batts.find 63 = some batt1 ∧ (s.core s.ev.core).active.find 7 = none
        ∧ batt1.members.filter (fun m => decide (m.hold ≤ s.clk)) = batt1.members)
    ∧ (let s := core127 { Core.init 127 with batts := [(62, batt1)], active := (upTo 8).map fun i => (i, placedGroup)
                                             pending := List.replicate 56 placedGroup, overdueSince := some 1008 } { core := 127 } 1024;
       (s.core s.ev.core).overdueSince = some 1008
        ∧ sortBy (·.drawn) (s.core s.ev.core).pending = placedGroup :: List.replicate 55 placedGroup
        ∧ (s.core s.ev.core).freeSlots = [] ∧ 56 ≤ (s.core s.ev.core).pending.length
        ∧ s.battToDraw s.ev.core (fun b => b.isOverdue (s.core s.ev.core).ageLimit s.clk) = some (62, batt1))
    ∧ (let s := core127 { Core.init 127 with batts := [(62, { batt1 with members := [{ team := 0, tid := 0, filed := 0, hold := 9 }] })] } { core := 127 } 9;
       (s.core s.ev.core).batts = [(62, { batt1 with members := [{ team := s.ev.team, tid := s.ev.tid, filed := 0, hold := 9 }] })]
        ∧ 9 ≤ s.clk) := by decide +kernel

theorem wit_CoreRowsComplete_slots :
    (let s := core127 { Core.init 127 with active := [(7, placedGroup)] } { core := 127 } 0;
      s.ev.core < 128 ∧ s.issueClk s.ev.core = true ∧ (s.core s.ev.core).active = [(7, placedGroup)] ∧ (s.core s.ev.core).pending = []
        ∧ placedGroup.notBefore ≤ s.clk ∧ placedGroup.quarters ≤ 4 ∧ s.groupReady s.ev.core placedGroup = true ∧ (s.core s.ev.core).rr = 0)
    ∧ (let s := core127 { Core.init 127 with active := [(0, placedGroup)] } { core := 127 } 0;
       (s.core s.ev.core).active = [((s.core s.ev.core).rr, placedGroup)] ∧ s.groupReady s.ev.core placedGroup = true)
    ∧ (let g : Group := { placedGroup with stall := some 4 };
       let s := core127 { Core.init 127 with active := [(7, g)], pending := [placedGroup] } { core := 127, slot := 7 } 8;
       (s.core s.ev.core).active = [(s.ev.slot, g)] ∧ g.stray = false ∧ s.readyPending s.ev.core = some placedGroup
        ∧ s.clk % 8 = 0 ∧ placedGroup.since + 8 ≤ s.clk ∧ g.stall = some 4) := by decide +kernel

theorem wit_CoreRowsComplete_margins :
    (let s := core127 { Core.init 127 with wlen := 0, cnt := 5, limit := 100, relax := 0 } { core := 127 } 1048576;
      s.ev.core < 128 ∧ (s.core s.ev.core).cnt < (s.core s.ev.core).limit ∧ (s.core s.ev.core).cnt < 65535 ∧ (s.core s.ev.core).wlen = 0
        ∧ (s.core s.ev.core).winStart + 1048576 ≤ s.clk ∧ (s.core s.ev.core).relax = 0)
    ∧ (let s : State := { P with ev := { tids := [0] } };
       s.ev.tids = [0] ∧ s.onCore s.ev.core s.ev.team 0 = true ∧ s.ev.flag = false ∧ (s.core s.ev.core).serrWin < 3)
    ∧ (∀ v ∈ [0x20013, 0x1000, 0x040064], let s : State := { up { core := 127, v := BitVec.ofNat 64 v } with
          cores := [(127, { Core.init 127 with quar := true })] };
        s.ev.core < 128 ∧ s.ev.hport < 2 ∧ (s.die (s.ev.core / 16)).attested.st = 3 ∧ (s.core s.ev.core).quar = true)
    ∧ (let o : MOp := { op1 true with kind := .mma (matTeam.engine 0).front .f16 false false 0 1 0 0 0 };
       let s : State := { P with cores := P.cores.put 127 { Core.init 127 with matq := [o] }, ev := { core := 127, req := 9 } };
       (s.core s.ev.core).matq = [o] ∧ o.id = s.ev.req ∧ o.started = true ∧ (s.team? o.team).map o.checked = some true
        ∧ (s.core s.ev.core).serrWin < 3)
    ∧ (let s := core127 { Core.init 127 with badRows := [527] } { core := 127 } 0;
       (s.core s.ev.core).matq = [] ∧ (s.core s.ev.core).draining = false ∧ (∀ e ∈ s.teams, e.2.lr.mx = false)) := by decide +kernel

theorem wit_LinkRowsComplete_flits :
    (let s := dieLinked { Chan.init with rxSeq := 16777214 } Chan.init (dieFmt.encode (rx1 dieFmt 0 16777214 false));
      DieFlit s 0 { Chan.init with rxSeq := 16777214 } Chan.init (rx1 dieFmt 0 16777214 false) ∧ (16777214 % 16 : Nat) ≠ 15)
    ∧ (let rx : Chan := { Chan.init with rxSeq := 15, rxKeys := [some key1, none] };
       let s := dieLinked rx Chan.init (dieFmt.encode (tagDie true));
       DieFlit s 1 rx Chan.init (tagDie true) ∧ rx.group = [] ∧ rx.rxKi = 0 ∧ rx.rxKeys.getD rx.rxKi none = some key1
        ∧ (dieFmt.open key1 rx.rxEpoch 0 rx.rxKi rx.group (tagDie true).payload).isSome = true)
    ∧ (let s := dieLinked Chan.init Chan.init (dieFmt.encode (rx1 dieFmt 2 0 false));
       DieFlit s 2 Chan.init Chan.init (rx1 dieFmt 2 0 false))
    ∧ (let s := dieLinked Chan.init Chan.init (dieFmt.encode (rx1 dieFmt 3 0 true));
       DieFlit s 3 Chan.init Chan.init (rx1 dieFmt 3 0 true)) := by
  simp only [Say.DieFlit]; decide +kernel

theorem wit_LinkRowsComplete_other :
    (let tx : Chan := { Chan.init with replay := some 0 };
      let s := dieLinked tx Chan.init [];
      s.ev.link < 21 ∧ s.ev.dir < 2 ∧ s.linkOk s.ev.link = true ∧ (s.link s.ev.link).dirs[s.ev.dir]? = some tx
        ∧ (s.link s.ev.link).dirs[1 - s.ev.dir]? = some Chan.init ∧ tx.nakAt = none)
    ∧ (let tx : Chan := { Chan.init with txKeys := [some key1, none], txSeq := 16777200 };
       let s := dieLinked tx Chan.init [1];
       (s.link s.ev.link).dirs[s.ev.dir]? = some tx ∧ (s.link s.ev.link).dirs[1 - s.ev.dir]? = some Chan.init
        ∧ (s.die (linkEnds s.ev.link).1).attested.st = 3 ∧ (s.die (linkEnds s.ev.link).2).attested.st = 3
        ∧ tx.open_ = [] ∧ tx.maySeal dieFmt = true ∧ s.ev.bytes ≠ [] ∧ s.ev.bytes.length < 15 * dieFmt.pay)
    ∧ (let e : DirEntry := { entry .x [] [] [] with poisonPend := true };
       let s : State := { up { dref := .package 0, pa := 127 } with dirs := [(.package 0, e)] };
       s.dirFind s.ev.dref (lineOf s.ev.pa) = some e ∧ e.poisonPend = true ∧ e.queue = [] ∧ e.holders = [] ∧ e.owner = none
        ∧ (s.die 8).census = none ∧ (s.die 9).census = none) := by decide +kernel

theorem wit_StepsKeepLegal : P.Legal ∧ step P = .next P.tick ∧ (step { P with issueQ := [(0, 8)] } = .fault .noSuchGroup) := by
  refine ⟨⟨?_, ?_, ?_, ?_, ?_, ?_, ?_⟩, rfl, rfl⟩ <;> decide +kernel

end Sys2Proof.Tests
end

section
/-! ### Physical memory: consecutive bytes and little-endian numbers -/

namespace Sys2Proof.Machine

/-- A number keeps its low `n` bytes through its little-endian bytes (R12). -/
theorem ofBytes_toBytes (n v : Nat) : ofBytes (toBytes n v) = v % 256 ^ n := by
  induction n generalizing v with
  | zero => simp [toBytes, ofBytes, Nat.mod_one]
  | succ n ih =>
    calc ofBytes (toBytes (n + 1) v) = v % 256 + 256 * (v / 256 % 256 ^ n) := by simp [toBytes, ofBytes, ih]
      _ = v % 256 ^ (n + 1) := by rw [Nat.pow_succ', Nat.mod_mul]

@[simp] theorem length_toBytes (n v : Nat) : (toBytes n v).length = n := by
  induction n generalizing v with
  | zero => rfl
  | succ n ih => simp [toBytes, ih]

/-- A write moves no frame: addresses are served where they were (R422). -/
@[simp] theorem home_poke (s : State) (pa : Nat) (b : Byte) (qa : Nat) : (s.poke pa b).home qa = s.home qa := rfl

theorem peekN_succ (s : State) (pa n : Nat) : s.peekN pa (n + 1) = s.peek pa :: s.peekN (pa + 1) n := by
  simp [State.peekN, upTo, List.range_succ_eq_map, Nat.add_assoc, Nat.add_comm 1]

theorem peekNat_succ (s : State) (pa n : Nat) : s.peekNat pa (n + 1) = (s.peek pa).toNat + 256 * s.peekNat (pa + 1) n := by
  simp [State.peekNat, peekN_succ, ofBytes]

/-- A byte served at none of the places written is as it was. -/
theorem peek_pokeN_of_ne (l : List Byte) {s : State} {pa qa : Nat} (hs : s.Safe)
    (hne : ∀ i, i < l.length → s.home qa ≠ s.home (pa + i)) : (s.pokeN pa l).peek qa = s.peek qa := by
  induction l generalizing s pa with
  | nil => rfl
  | cons b r ih =>
    have hb : s.home pa ≠ s.home qa := (hne 0 (by simp)).symm
    have hr : ∀ i, i < r.length → (s.poke pa b).home qa ≠ (s.poke pa b).home (pa + 1 + i) := fun i hi => by
      rw [home_poke, home_poke, Nat.add_assoc, Nat.add_comm 1]
      exact hne (i + 1) (by simpa using hi)
    calc (s.pokeN pa (b :: r)).peek qa = (s.poke pa b).peek qa := ih (poke_wf pa b hs) hr
      _ = s.peek qa := by rw [peek_poke pa qa b hs, if_neg hb]

/-- Bytes written at places served apart are read back. -/
theorem peek_pokeN (l : List Byte) {s : State} {pa : Nat} (hs : s.Safe)
    (hinj : ∀ i j, i < l.length → j < l.length → s.home (pa + i) = s.home (pa + j) → i = j) {i : Nat} (hi : i < l.length) :
    (s.pokeN pa l).peek (pa + i) = l.getD i 0 := by
  induction l generalizing s pa i with
  | nil => simp at hi
  | cons b r ih =>
    have hs' : (s.poke pa b).Safe := poke_wf pa b hs
    have hshift : ∀ k, s.home (pa + 1 + k) = s.home (pa + (k + 1)) := fun k => by rw [Nat.add_assoc, Nat.add_comm 1]
    cases i with
    | zero =>
      have hne : ∀ k, k < r.length → (s.poke pa b).home pa ≠ (s.poke pa b).home (pa + 1 + k) := fun k hk he => by
        rw [home_poke, home_poke, hshift] at he
        have := hinj 0 (k + 1) (by simp) (by simpa using hk) he
        omega
      calc (s.pokeN pa (b :: r)).peek pa = (s.poke pa b).peek pa := peek_pokeN_of_ne r hs' hne
        _ = b := by rw [peek_poke pa pa b hs, if_pos rfl]
    | succ i =>
      have hinj' : ∀ j k, j < r.length → k < r.length →
          (s.poke pa b).home (pa + 1 + j) = (s.poke pa b).home (pa + 1 + k) → j = k := fun j k hj hk he => by
        rw [home_poke, home_poke, hshift, hshift] at he
        have := hinj (j + 1) (k + 1) (by simpa using hj) (by simpa using hk) he
        omega
      have hback := ih hs' hinj' (by simpa using hi)
      rwa [Nat.add_assoc, Nat.add_comm 1] at hback

theorem peekN_pokeN {s : State} {pa : Nat} {l : List Byte} (hs : s.Safe)
    (hinj : ∀ i j, i < l.length → j < l.length → s.home (pa + i) = s.home (pa + j) → i = j) :
    (s.pokeN pa l).peekN pa l.length = l := by
  apply List.ext_getElem
  · simp [State.peekN, upTo]
  · intro i _ hi
    simp [State.peekN, upTo, peek_pokeN l hs hinj hi, hi]

theorem peekNat_pokeNat {s : State} {pa n : Nat} (v : Nat) (hs : s.Safe)
    (hinj : ∀ i j, i < n → j < n → s.home (pa + i) = s.home (pa + j) → i = j) :
    (s.pokeNat pa n v).peekNat pa n = v % 256 ^ n := by
  have hread : (s.pokeN pa (toBytes n v)).peekN pa n = toBytes n v := by
    have := peekN_pokeN (s := s) (pa := pa) (l := toBytes n v) hs (by simpa using hinj)
    rwa [length_toBytes] at this
  rw [State.peekNat, State.pokeNat, hread, ofBytes_toBytes]

/-- A stack set to zero loses only entries of its own (R429). -/
theorem zeroStack_safe {s : State} (d : Nat) (hs : s.Safe) : (s.zeroStack d).Safe := filter_wf _ s.mem hs

/-- Settles O7: reads after writes by induction on the bytes written, each step one `peek_poke`; the form by the laws of sparse stores. -/
theorem memoryLaws : Obligations.MemoryLaws :=
  ⟨fun _ _ l hs hinj _ hi => peek_pokeN l hs hinj hi,
    fun _ _ l _ hs hne => peek_pokeN_of_ne l hs hne,
    fun _ _ _ v hs hinj => peekNat_pokeNat v hs hinj,
    peekNat_succ,
    fun _ a l hs => pokeN_wf l a hs,
    fun _ a n hs => clear_wf a n hs,
    fun _ d hs => zeroStack_safe d hs⟩

end Sys2Proof.Machine
end

section
/-! ### Nothing stops the machine

Every meaning is written over one of three runners, `runAlu`, `runLive` and `runHeld`, or is a row whose definition is a next state. -/

namespace Sys2Proof.Machine

section Runners

variable (h : Hdr) (len : Nat) (priv : Option DWord) (vs : List VOp) (a : Option VReg) (s : State)

theorem runAlu_next (long : Bool) (f : Team → Nat → Thread → Except Flt Eff) : ∃ t, runAlu h len long vs a f s = .next t := by
  unfold runAlu
  repeat' split
  all_goals exact ⟨_, rfl⟩

theorem runLive_next (f : Nat → Group → Team → List (Nat × Nat × Thread) → State → State) :
    ∃ t, runLive h len priv vs a f s = .next t := by
  unfold runLive
  repeat' split
  all_goals exact ⟨_, rfl⟩

theorem runHeld_next (f : Nat → Nat → Group → Team → List (Nat × Nat × Thread) → State → State) :
    ∃ t, runHeld h len vs f s = .next t := by
  unfold runHeld
  repeat' split
  all_goals exact ⟨_, rfl⟩

theorem runLanes_next (f : Nat → Nat → Team → Nat → Thread → State → State) : ∃ t, runLanes h len priv vs a f s = .next t :=
  runLive_next ..

theorem runTrap_next (kind : Nat) (b : SrcB) : ∃ t, runTrap kind h b s = .next t := runLanes_next ..

theorem runTret_next (m : TretMode) : ∃ t, runTret m h s = .next t := runLanes_next ..

theorem runBar_next (lvl : BarLevel) (idx : BitVec 4) (f : Nat → Nat → Team → Nat → Thread → State → State) :
    ∃ t, runBar h lvl idx vs a f s = .next t :=
  runLanes_next ..

theorem runColl_next (op : CollOp) (dst : Nat) (msk : Team → Thread → DWord) (val : Thread → DWord × Bool) :
    ∃ t, runColl h len vs a op dst msk val s = .next t :=
  runLive_next ..

theorem runWait_next (waits : Nat → Group → Team → List (Nat × Nat × Thread) → State → Option State)
    (f : Nat → Group → Team → List (Nat × Nat × Thread) → State → State) : ∃ t, runWait h len vs a waits f s = .next t :=
  runHeld_next ..

theorem runTeamOp_next (e : Bool) (cv : Option (BitVec 4)) (bin : Team → Thread → Option Nat) (req : Team → Engine → Thread → MReq) :
    ∃ t, runTeamOp h len vs a e cv bin req s = .next t :=
  runHeld_next ..

end Runners

theorem execNonInstructionEncoding_next (e : EncFault) (len : Nat) (s : State) :
    ∃ t, execNonInstructionEncoding e len s = .next t := by
  unfold execNonInstructionEncoding
  split <;> exact ⟨_, rfl⟩

theorem execCollectiveResult_next (s : State) : ∃ t, execCollectiveResult s = .next t := by
  unfold execCollectiveResult
  dsimp only
  split
  · split <;> exact ⟨_, rfl⟩
  · exact ⟨_, rfl⟩

theorem execHostPost_next (s : State) : ∃ t, execHostPost s = .next t := by
  unfold execHostPost
  dsimp only
  split <;> exact ⟨_, rfl⟩

/-- Every instruction and every row gives a next state (R1, R4): each arm by its runner, and the rows, which are what remains, by
definition. Where an arm names values before its runner, it is unfolded first. -/
theorem exec_next (i : Instr) (s : State) : ∃ t, exec i s = .next t := by
  cases i <;> dsimp only [exec]
  case nonInstructionEncoding => exact execNonInstructionEncoding_next ..
  case collectiveResult => exact execCollectiveResult_next s
  case hostPost => exact execHostPost_next s
  case iadd | iadd3 | isub | imul | imulh | imad | imadw | imin | imax | iabs | ineg | isad | icmp | iaddc | and | or | xor
      | not | tern | shl | shr | sar | rotl | fshl | popc | clz | ctz | brev | bfx | bfi | prmt | mov | movl | sel | lea
      | pset | plop | p2v | v2p | fadd | fmul | ffma | fmin | fmax | fcmp | fclass | frnd | fscale | ffrexp | dadd | dmul
      | dfma | dmin | dmax | dcmp | hadd2 | hmul2 | hfma2 | hmin2 | hmax2 | rcp | rsq | sqrt | exp2 | log2 | sin | cos | tanh
      | cvti | cvtf | cvtq | cvtp | hash | crc32c | rand | spack | iaddC | isubC | imulC | iminI32C | iminN32C | imaxI32C
      | imaxN32C | iabsC | inegC | imulhI32C | imulhN32C | iaddSatI32C | isubSatI32C | iaddSatN32C | isubSatN32C | andC | orC
      | xorC | notC | shlC | shrC | sarC | rotlC | popcC | clzC | ctzC | brevC | movC | faddC | fmulC | fminC | fmaxC
      | fscaleC | frndRnC | hadd2F16C | hmul2F16C | hmin2F16C | hmax2F16C | hadd2Bf16C | hmul2Bf16C | hmin2Bf16C | hmax2Bf16C
      | cvtfF32I32C | cvtfF32N32C | cvtiI32F32RzC | cvtiN32F32RzC | crc32cC => exact runAlu_next ..
  case nop | bra | brx | call | callx | ret | reform | exit | yield | sleep | rgn | tretRd | part | qres | qfree | pfch
      | cctl | fence | waitw | txq | frq | landi | lwait | lpoll | binc | bhold | cpyq | mfence | mwait | mwaitCv
    => exact runLanes_next ..
  case trap | trapRgn | bkpt => exact runTrap_next ..
  case tret | tretSkip | tretRgn => exact runTret_next ..
  case barArv | barWait | barSync | barQ => exact runBar_next ..
  case gets | sets | movk | pin | unpin | mqry | cvset | sign => exact runLive_next ..
  case ld => unfold execLd; exact runLive_next ..
  case lds => unfold execLds; exact runLive_next ..
  case tred | tscan | matchEq => exact runColl_next ..
  case vote => unfold execVote; exact runColl_next ..
  case pick => unfold execPick; exact runColl_next ..
  case macrd => exact runHeld_next ..
  case launch | kick | brel => exact runWait_next ..
  case st => unfold execSt; exact runWait_next ..
  case sts => unfold execSts; exact runWait_next ..
  case atom => unfold execAtom; exact runWait_next ..
  case cas => unfold execCas; exact runWait_next ..
  case red => unfold execRed; exact runWait_next ..
  case mldws | mswap | mclr | macld | macst | mrow => exact runTeamOp_next ..
  case mldw => unfold execMldw; exact runTeamOp_next ..
  case mma => unfold execMma; exact runTeamOp_next ..
  case mgmm => unfold execMgmm; exact runTeamOp_next ..
  all_goals exact ⟨_, rfl⟩

/-! ### The branches of a step -/

section Step

variable {s : State} {c slot : Nat} {rest : List (Nat × Nat)}

theorem step_noSuchGroup (hq : s.issueQ = (c, slot) :: rest) (hout : 128 ≤ c ∨ 8 ≤ slot) : step s = .fault .noSuchGroup := by
  simp [step, hq, hout]

/-- A selected group whose front gives an instruction executes it (R182). -/
theorem step_run {i : Instr} {u : State} (hq : s.issueQ = (c, slot) :: rest) (hc : c < 128) (hslot : slot < 8)
    (hf : State.front { s with issueQ := rest, cur := none } c slot = .run i u) : step s = exec i u := by
  simp [step, hq, hf, Nat.not_le.2 hc, Nat.not_le.2 hslot]

theorem step_done {u : State} (hq : s.issueQ = (c, slot) :: rest) (hc : c < 128) (hslot : slot < 8)
    (hf : State.front { s with issueQ := rest, cur := none } c slot = .done u) : step s = .next u := by
  simp [step, hq, hf, Nat.not_le.2 hc, Nat.not_le.2 hslot]

theorem step_row {i : Instr} {e : Ev} {rest : List Happening} (hq : s.issueQ = []) (ha : s.agenda = .row i e :: rest) :
    step s = exec i { s with agenda := rest, cur := none, ev := e } := by
  simp [step, hq, ha]

theorem step_pass {n : Nat} {rest : List Happening} (hq : s.issueQ = []) (ha : s.agenda = .pass n :: rest) :
    step s = .next (State.pass { s with agenda := rest } n) := by
  simp [step, hq, ha]

theorem step_idle (hq : s.issueQ = []) (ha : s.agenda = []) : step s = .next s.tick := by
  simp [step, hq, ha]

/-- A step from a state whose issue queue names slots of cores only. -/
theorem step_next (hwf : ∀ e ∈ s.issueQ, e.1 < 128 ∧ e.2 < 8) : ∃ t, step s = .next t := by
  cases hq : s.issueQ with
  | cons e rest =>
    obtain ⟨c, slot⟩ := e
    obtain ⟨hc, hslot⟩ : c < 128 ∧ slot < 8 := hwf (c, slot) (by simp [hq])
    cases hf : State.front { s with issueQ := rest, cur := none } c slot with
    | run i u => rw [step_run hq hc hslot hf]; exact exec_next i u
    | done u => exact ⟨u, step_done hq hc hslot hf⟩
  | nil =>
    cases ha : s.agenda with
    | nil => exact ⟨_, step_idle hq ha⟩
    | cons x rest =>
      cases x with
      | row i e => rw [step_row hq ha]; exact exec_next i _
      | pass n => exact ⟨_, step_pass hq ha⟩

end Step

/-- Settles O10, from `exec_next` and the branches of a step. -/
theorem neverStops : Obligations.NeverStops :=
  ⟨exec_next, fun _ hwf => step_next hwf, fun _ _ _ _ hq hout => step_noSuchGroup hq hout⟩

/-! ### What a step runs -/

section Fetch

variable {s u v : State} {core ctx lid : Nat} {pc : Pc}

/-- A word of this package's memory, read where the launch was posted (R97; log 18). -/
theorem fetchWord_here {gpa : Nat} {y : Xlat} (hacc : s.access (dieOf core) (some core) ctx .fetch (pc.setWidth 64) = (.ok gpa y, u))
    (hpkg : pkgOf gpa = u.pkgid) (hclean : u.poisonedIn (localOf gpa) 4 = false) :
    s.fetchWord core ctx lid pc = (.words [u.codeWord lid (localOf gpa)], u) := by
  simp [State.fetchWord, hacc, hpkg, hclean]

theorem fetch_one {w : Word} (hw : s.fetchWord core ctx lid pc = (.words [w], u)) (hlen : lenOf w = 1) :
    s.fetch core ctx lid pc = (.words [w], u) := by
  simp [State.fetch, hw, hlen, State.fetchRest]

theorem fetch_two {w w' : Word} (hw : s.fetchWord core ctx lid pc = (.words [w], u)) (hlen : lenOf w = 2)
    (hw' : u.fetchWord core ctx lid (pc + 4) = (.words [w'], v)) : s.fetch core ctx lid pc = (.words [w, w'], v) := by
  simp only [State.fetch, hw, hlen, Nat.reduceSub, State.fetchRest, hw', List.cons_append, List.nil_append]

end Fetch

section Front

variable {v u : State} {c slot : Nat} {g : Group} {tm : Team}

/-- A decoded instruction that nothing holds back is to be executed at its group. -/
theorem offer_run {i : Instr} (hfree : u.holds c g i = false) :
    u.offer c slot g i = .run i { u.unstall c slot g with cur := some (c, slot) } := by
  simp [State.offer, hfree]

theorem fetchDecode_words {pc : Pc} {ws : List Word} (hfetch : v.fetch c tm.ctx tm.lid pc = (.words ws, u)) :
    v.fetchDecode c slot g tm pc = u.offer c slot g (decodeWords ws) := by
  simp [State.fetchDecode, hfetch]

/-- A group whose team may run on its core, and whose threads neither park nor stall, fetches at its first thread's PC (R182, R184, R186). -/
theorem front_fetches {x : Nat × Nat × Thread} {ths : List (Nat × Nat × Thread)} (hg : (v.core c).active.find slot = some g)
    (htm : v.team? g.team = some tm) (hdrain : (v.core c).draining = false) (hst : (v.ctx tm.ctx).st = .active)
    (hout : tm.lr.res = true ∨ (v.ctx tm.ctx).outCores.contains c = false) (hclk : g.notBefore ≤ v.clk) (hawaits : g.awaits = [])
    (hths : v.laneThreads g = x :: ths) (hgo : ∀ y ∈ x :: ths, y.2.2.parksOn = none ∧ y.2.2.stalls = false) :
    v.front c slot = v.fetchDecode c slot g tm x.2.2.pc := by
  have haway : (!tm.lr.res && (v.ctx tm.ctx).outCores.contains c) = false := by
    rcases hout with h | h
    · rw [h]; rfl
    · rw [h, Bool.and_false]
  have hpark : ((x :: ths).any fun y => y.2.2.parksOn.isSome) = false :=
    List.any_eq_false.2 fun y hy => by simp [(hgo y hy).1]
  have hstall : ((x :: ths).any fun y => y.2.2.stalls) = false :=
    List.any_eq_false.2 fun y hy => by simp [(hgo y hy).2]
  simp only [State.front, hg, htm, hdrain, hst, haway, Nat.not_lt.2 hclk, hawaits, hths, hpark, hstall]
  rfl

end Front

/-- Settles O4: the branches of a step, and on the branch of a group the path from its front through fetch and decode. -/
theorem stepRuns : Obligations.StepRuns := by
  refine ⟨?group, fun s i e rest => step_row, ?idle, ?word, ?one, ?two⟩
  case group =>
    intro s c slot rest g tm x ths ws u hq hc hslot v hg htm hdrain hst hout hclk hawaits hths hgo hfetch hfree
    refine step_run hq hc hslot ?_
    calc v.front c slot = v.fetchDecode c slot g tm x.2.2.pc := front_fetches hg htm hdrain hst hout hclk hawaits hths hgo
      _ = u.offer c slot g (decodeWords ws) := fetchDecode_words hfetch
      _ = _ := offer_run hfree
  case idle => exact fun s hq ha => ⟨s.tick, step_idle hq ha, rfl, rfl, rfl⟩
  case word => exact fun s core ctx lid pc gpa y u => fetchWord_here
  case one => exact fun s core ctx lid pc w u => fetch_one
  case two => exact fun s core ctx lid pc w w' u v => fetch_two

end Sys2Proof.Machine
end

section
/-! ### Messages (R397) -/

namespace Sys2Proof.Machine

/-- A chunk for memory of package 1 whose ADDR is below 2^32, where R397 has only the scratchpad offset of a delivery. -/
def lowChunk : Msg :=
  { kind := .chunk, dpkg := 1, spkg := 0, sctx := 0, hops := 0, rid := 0, op := 0, addr := 0, data := [], scr := false }

/-- It is read back as a delivery: nothing in its header says that its ADDR is none of an offset. -/
theorem msgOf_lowChunk :
    msgOf (ofBytes ((msgBytes lowChunk).take 16)) ((msgBytes lowChunk).drop 16) = some { lowChunk with scr := true } := by decide

/-- Refutes O9: its message clause admits a chunk for the memory of another package with an ADDR below 2^32, and this is read back as a
delivery (log 30 marks such an ADDR only where DPKG is 0). -/
theorem not_flitsAndMessages : ¬ Obligations.FlitsAndMessages := by
  intro ⟨_, _, hmsg⟩
  have hback : msgOf (ofBytes ((msgBytes lowChunk).take 16)) ((msgBytes lowChunk).drop 16) = some lowChunk :=
    hmsg lowChunk (by decide) (by decide) (by decide) (by decide) (by decide) (by decide) (fun _ => by decide) (fun h => absurd rfl h)
  rw [msgOf_lowChunk] at hback
  exact absurd hback (by decide)

end Sys2Proof.Machine
end

section
/-! ### Events and what they leave

An event record is written to the ring in memory, counted, and signalled on the host ports (R417, R451); no other field changes. -/

namespace Sys2Proof.Machine

theorem raiseV_rest (s : State) (v : Nat) : s.raiseV v = { s with hports := (s.raiseV v).hports } := rfl

/-- An event record changes memory, the containment registers and the host ports only (R417, R451). -/
theorem eventRec_rest (s : State) (r : EvRec) :
    s.eventRec r = { s with mem := (s.eventRec r).mem, cn := (s.eventRec r).cn, hports := (s.eventRec r).hports } := by
  unfold State.eventRec
  dsimp only
  split
  · rfl
  · rw [raiseV_rest, State.pokeNat, pokeN_rest]

@[simp] theorem eventRec_links (s : State) (r : EvRec) : (s.eventRec r).links = s.links := by rw [eventRec_rest]
@[simp] theorem eventRec_cores (s : State) (r : EvRec) : (s.eventRec r).cores = s.cores := by rw [eventRec_rest]
@[simp] theorem eventRec_teams (s : State) (r : EvRec) : (s.eventRec r).teams = s.teams := by rw [eventRec_rest]
@[simp] theorem eventRec_threads (s : State) (r : EvRec) : (s.eventRec r).threads = s.threads := by rw [eventRec_rest]

/-- Chunks due to be sent again are rows to come (R345). -/
@[simp] theorem resendChunks_links (s : State) : s.resendChunks.links = s.links := rfl

end Sys2Proof.Machine
end

section
/-! ### What a request at a directory leaves of the row it came with

A recall and a request at a directory act on caches, memory and directories; the operands of the row, `ev`, stand. -/

namespace Sys2Proof.Machine

/-- What every step of a fold keeps, the fold keeps. -/
theorem foldl_keeps {α β : Type} (p : State → β) {f : State → α → State} (hf : ∀ (s : State) (x : α), p (f s x) = p s) (l : List α)
    (s : State) : p (l.foldl f s) = p s := by
  induction l generalizing s with
  | nil => rfl
  | cons x r ih => exact (ih _).trans (hf s x)

@[simp] theorem setCache_ev (s : State) (c : CacheRef) (k : Cache) : (s.setCache c k).ev = s.ev := by cases c <;> rfl
@[simp] theorem dirSet_ev (s : State) (d : DirRef) (ln : Nat) (es : List DirEntry) : (s.dirSet d ln es).ev = s.ev := rfl

@[simp] theorem pokeNat_ev (s : State) (pa n x : Nat) : (s.pokeNat pa n x).ev = s.ev := by rw [State.pokeNat, pokeN_rest]

@[simp] theorem countUE_ev (s : State) (pa : Nat) : (s.countUE pa).ev = s.ev := by
  unfold State.countUE
  dsimp only
  split <;> split <;> simp

@[simp] theorem toHome_ev (s : State) (l : Line) : (s.toHome l).ev = s.ev := by
  have hsi : (s.siHome l).ev = s.ev := by
    unfold State.siHome
    dsimp only
    split <;> simp
  unfold State.toHome
  dsimp only
  split <;> split <;> simp [hsi]

@[simp] theorem dropEntry_ev (s : State) (e : DirEntry) (c : CacheRef) : (s.dropEntry e c).ev = s.ev :=
  (foldl_keeps State.ev toHome_ev _ _).trans (setCache_ev ..)

@[simp] theorem recall_ev (s : State) (e : DirEntry) : (s.recall e).ev = s.ev := by
  refine foldl_keeps State.ev (fun s h => ?_) _ _
  have hall (l : List Nat) : (l.foldl (fun s c => s.dropEntry e (.l1 c)) s).ev = s.ev := foldl_keeps State.ev (fun s c => dropEntry_ev s e _) l s
  cases h <;> simp [hall]

@[simp] theorem dirFree_ev (s : State) (d : DirRef) (e : DirEntry) : (s.dirFree d e).ev = s.ev := by
  unfold State.dirFree State.unexport
  split
  · split <;> rfl
  · rfl

@[simp] theorem recallEntry_ev (s : State) (d : DirRef) (e : DirEntry) : (s.recallEntry d e).ev = s.ev := by
  unfold State.recallEntry
  dsimp only
  split <;> simp

@[simp] theorem dirEntry_ev (s : State) (d : DirRef) (ln : Nat) : (s.dirEntry d ln).2.ev = s.ev := by
  have hroom (base : Nat) : (s.dirRoom d base).2.ev = s.ev := by
    unfold State.dirRoom
    split
    · rfl
    · split
      · rfl
      · split <;> simp
  unfold State.dirEntry
  split
  · rfl
  · dsimp only
    split
    · next hr => simpa [hr] using hroom (ln * 128 / 65536 * 65536)
    · next hr => simpa [hr] using hroom (ln * 128 / 65536 * 65536)

@[simp] theorem dirSplit_ev (s : State) (d : DirRef) (ln : Nat) (e : DirEntry) (h : Holder) (excl : Bool) :
    (s.dirSplit d ln e h excl).2.ev = s.ev := by
  have htrim (s : State) (base : Nat) : (s.dirTrim d ln base).ev = s.ev := by
    unfold State.dirTrim
    split
    · rfl
    · split <;> simp
  unfold State.dirSplit
  split
  · exact foldl_keeps State.ev (fun s (p : DirEntry) => htrim s p.base) _ _
  · rfl

@[simp] theorem dirAsk_ev (s : State) (d : DirRef) (r : Nat × Holder × Bool) : (s.dirAsk d r).ev = s.ev := by
  have hentry := dirEntry_ev s d r.1
  unfold State.dirAsk
  split
  · next he => simpa [he] using hentry
  · next e u he =>
    have hu : u.ev = s.ev := by simpa [he] using hentry
    split
    · exact hu
    · split
      · exact hu
      · dsimp only
        split <;> simp [hu]

/-- Requests asked in turn at the row's own directory are asked at one directory. -/
theorem foldl_dirAsk_ev {d : DirRef} (l : List (Nat × Holder × Bool)) {s : State} (hd : s.ev.dref = d) :
    l.foldl (fun s r => s.dirAsk d r) s = l.foldl (fun s r => s.dirAsk s.ev.dref r) s := by
  induction l generalizing s with
  | nil => rfl
  | cons r l ih =>
    rw [List.foldl_cons, List.foldl_cons, hd]
    exact ih (by rw [dirAsk_ev, hd])

end Sys2Proof.Machine
end

section
/-! ### Die links

What a flit that decodes leaves is `dieTook` of what the receiver makes of it; the receiver's cases are `Chan.rxData`'s and
`Chan.rxTag`'s, each said once. -/

namespace Sys2Proof.Machine

open Sys2Proof.Say

section Receiver

variable {f : LinkFmt} {x : RxFlit} {h : Chan}

/-- A data flit in order joins its group (R19). -/
theorem rxData_inOrder (hseq : x.seq = h.rxSeq) (hdata : x.seq % 16 ≠ 15) :
    h.rxData f x = ({ h with group := h.group ++ [{ seq := x.seq, type := 0, ki := x.ki, payload := x.payload }]
                             rxSeq := f.plus h.rxSeq 1, discard := false }, .taken) :=
  if_pos ⟨hseq, hdata⟩

/-- A flit out of order asks for replay where it is a later one, and the first (R20). -/
theorem rxData_outOfOrder (hseq : x.seq ≠ h.rxSeq) :
    h.rxData f x = if h.discard = false ∧ (x.seq + f.seqs - h.rxSeq) % f.seqs < f.seqs / 2
      then ({ h with discard := true }, .nak) else (h, .taken) := by
  rw [Chan.rxData, if_neg fun hx => hseq hx.1]
  cases hd : h.discard
  · by_cases hlt : (x.seq + f.seqs - h.rxSeq) % f.seqs < f.seqs / 2 <;> simp [Chan.outOfOrder, LinkFmt.after, hd, hlt]
  · simp [Chan.outOfOrder, hd]

/-- A tag flit whose group does not open discards it (R20). -/
theorem rxTag_failed {k : KeySlot} (hseq : x.seq = h.rxSeq) (htag : x.seq % 16 = 15) (hkey : h.rxKeys.getD x.ki none = some k)
    (hopen : f.open k (if x.ki = h.rxKi then h.rxEpoch else 0) (x.seq - 15) x.ki h.group x.payload = none) :
    h.rxTag f x = ({ h with rxSeq := x.seq - 15, group := [], discard := true }, .badTag) := by
  rw [Chan.rxTag, if_pos ⟨hseq, htag⟩]
  simp only [hkey, Option.bind_some, hopen, ite_self]

/-- A tag flit that verifies passes its group's payloads on (R20). -/
theorem rxTag_verified {k : KeySlot} {p : List Byte} (hseq : x.seq = h.rxSeq) (htag : x.seq % 16 = 15)
    (hki : ∀ y ∈ h.group, y.ki = x.ki) (hkey : h.rxKeys.getD x.ki none = some k)
    (hopen : f.open k (if x.ki = h.rxKi then h.rxEpoch else 0) (x.seq - 15) x.ki h.group x.payload = some p) :
    h.rxTag f x =
      ({ h with rxSeq := f.plus h.rxSeq 1
                rxEpoch := if f.plus h.rxSeq 1 = 0 then (if x.ki = h.rxKi then h.rxEpoch else 0) + 1
                  else if x.ki = h.rxKi then h.rxEpoch else 0
                group := [], discard := false, rxKi := x.ki
                rxKeys := if x.ki = h.rxKi then h.rxKeys else setAt h.rxKeys h.rxKi none
                delivered := h.delivered ++ p }, .taken) := by
  have hall : (h.group.all fun y => y.ki == x.ki) = true := List.all_eq_true.2 fun y hy => beq_iff_eq.2 (hki y hy)
  rw [Chan.rxTag, if_pos ⟨hseq, htag⟩]
  simp only [hall, if_true, hkey, Option.bind_some, hopen]

end Receiver

/-- What a receiver makes of a flit of a TYPE (R19). -/
def rxOf (t : Nat) (x : RxFlit) (rx : Chan) : Chan × RxEnd :=
  if t = 0 then rx.rxData dieFmt x else if t = 1 then rx.rxTag dieFmt x else (rx, .taken)

section Flit

variable {s : State} {t : Nat} {rx tx : Chan} {x : RxFlit}

/-- A flit that decodes leaves what its receiver makes of it, and the transmitter hears its ACK and NAK (R18 to R20). -/
theorem linkRx_took (hflit : DieFlit s t rx tx x) {rx' : Chan} {r : RxEnd} (hrx : rxOf t x rx = (rx', r)) :
    s.linkRx t = dieTook s tx x rx' (r != .taken) := by
  obtain ⟨hlink, hdir, hup, hrxAt, htxAt, hdec, htype⟩ := hflit
  rw [rxOf] at hrx
  have hgo : ¬ (s.ev.link ≥ 21 ∨ s.ev.dir ≥ 2 ∨ ¬ s.linkCarries s.ev.link t = true) := by simp [hup]; omega
  simp only [State.linkRx, hrxAt, htxAt, if_neg hgo, hdec, htype, ne_eq, not_true_eq_false, if_false, hrx]
  cases r <;> rfl

/-- A link that carries data flits carries those of every TYPE (R28, R435). -/
theorem linkCarries_of_data {n : Nat} (hup : s.linkCarries n 0 = true) : s.linkCarries n t = true := by
  simp_all [State.linkCarries]

/-- A flit that does not decode is discarded, and a replay asked for (R20). -/
theorem linkRx_discarded (hlink : s.ev.link < 21) (hdir : s.ev.dir < 2) (hup : s.linkCarries s.ev.link t = true)
    (hrx : (s.link s.ev.link).dirs[s.ev.dir]? = some rx) (htx : (s.link s.ev.link).dirs[1 - s.ev.dir]? = some tx)
    (hdec : dieFmt.decode s.ev.bytes = none) :
    s.linkRx t = s.setLink s.ev.link { s.link s.ev.link with
      dirs := setAt (setAt (s.link s.ev.link).dirs s.ev.dir { rx with discard := true }) (1 - s.ev.dir) (tx.idle dieFmt rx.rxSeq true) } := by
  have hgo : ¬ (s.ev.link ≥ 21 ∨ s.ev.dir ≥ 2 ∨ ¬ s.linkCarries s.ev.link t = true) := by simp [hup]; omega
  simp only [State.linkRx, hrx, htx, if_neg hgo, hdec]

/-- A replay sends what is kept once more; the eighth failed one fails the link (R20). -/
theorem dieLinkReplay_sends {a : Nat} (hlink : s.ev.link < 21) (hdir : s.ev.dir < 2) (hok : s.linkOk s.ev.link = true)
    (htx : (s.link s.ev.link).dirs[s.ev.dir]? = some tx) (hrx : (s.link s.ev.link).dirs[1 - s.ev.dir]? = some rx)
    (hreplay : tx.replay = some a) :
    exec .dieLinkReplay s = .next
      (let h := tx.sendAgain dieFmt s.clk rx.rxSeq a false
       let u := s.setLink s.ev.link { s.link s.ev.link with dirs := setAt (s.link s.ev.link).dirs s.ev.dir h }
       if 8 ≤ h.fails then u.failLink s.ev.link else u.resendChunks) := by
  have hgo : ¬ (s.ev.link ≥ 21 ∨ s.ev.dir ≥ 2 ∨ ¬ s.linkOk s.ev.link = true) := by simp [hok]; omega
  show execDieLinkReplay s = _
  simp only [execDieLinkReplay, htx, hrx, hreplay, if_neg hgo]

/-- An open group is completed with the bytes that its dies' engines have given it (R19; log 31). -/
theorem dieLinkOpenGroup_completes (hlink : s.ev.link < 21) (hdir : s.ev.dir < 2) (hok : s.linkOk s.ev.link = true)
    (htx : (s.link s.ev.link).dirs[s.ev.dir]? = some tx) (hrx : (s.link s.ev.link).dirs[1 - s.ev.dir]? = some rx)
    (hkeyed : (s.die (linkEnds s.ev.link).1).attested.st = 3) (hkeyed' : (s.die (linkEnds s.ev.link).2).attested.st = 3) :
    exec .dieLinkOpenGroup s = .next (s.setLink s.ev.link { s.link s.ev.link with
      dirs := setAt (s.link s.ev.link).dirs s.ev.dir ((tx.push dieFmt s.clk rx.rxSeq s.ev.bytes).complete dieFmt s.clk rx.rxSeq) }) := by
  have hgo : ¬ (s.ev.link ≥ 21 ∨ s.ev.dir ≥ 2 ∨ ¬ s.linkOk s.ev.link = true ∨ (s.die (linkEnds s.ev.link).1).attested.st ≠ 3
      ∨ (s.die (linkEnds s.ev.link).2).attested.st ≠ 3) := by simp [hok, hkeyed, hkeyed']; omega
  show execDieLinkOpenGroup s = _
  simp only [execDieLinkOpenGroup, htx, hrx, if_neg hgo]

end Flit

section Transmitter

variable {f : LinkFmt} {h : Chan} {now ack : Nat}

/-- A replay that was asked for counts the one before it as failed where that began at the same number (R20; log 29). -/
theorem sendAgain_asked (a : Nat) : h.sendAgain f now ack a false = { h with
    wire := h.wire ++ (h.kept.filter fun x => f.after a x.seq).map (f.wireOf ack), replay := none, ackClk := now
    nakAt := some a, fails := if h.nakAt = some a then h.fails + 1 else 0 } := by
  simp [Chan.sendAgain]

/-- Bytes that do not fill a group join the open one (R19). -/
theorem push_short {b : List Byte} (hlen : (h.open_ ++ b).length < 15 * f.pay) :
    h.push f now ack b = { h with open_ := h.open_ ++ b, openSince := if h.open_.isEmpty then now else h.openSince } := by
  rw [Chan.push, Nat.div_eq_of_lt hlen]
  rfl

/-- A group is sealed under the key in use, kept, and put on the link (R19). -/
theorem sendGroup_sealed {k : KeySlot} (plain : List Byte) (hkey : h.txKeys.getD h.txKi none = some k) :
    h.sendGroup f now ack plain = { h with
      txSeq := f.plus h.txSeq 16, txEpoch := if f.plus h.txSeq 16 = 0 then h.txEpoch + 1 else h.txEpoch
      kept := h.kept ++ f.seal k h.txEpoch h.txSeq h.txKi plain
      wire := h.wire ++ (f.seal k h.txEpoch h.txSeq h.txKi plain).map (f.wireOf ack)
      ackClk := if h.kept.isEmpty then now else h.ackClk } := by
  simp only [Chan.sendGroup, hkey]

/-- An open group that is not full is completed with zeros and sealed (R19). -/
theorem complete_sealed {k : KeySlot} (hopen : h.open_ ≠ []) (hlen : h.open_.length < 15 * f.pay) (hmay : h.maySeal f = true)
    (hkey : h.txKeys.getD h.txKi none = some k) :
    h.complete f now ack = { h with
      txSeq := f.plus h.txSeq 16, txEpoch := if f.plus h.txSeq 16 = 0 then h.txEpoch + 1 else h.txEpoch
      kept := h.kept ++ f.seal k h.txEpoch h.txSeq h.txKi (padTo (15 * f.pay) h.open_)
      wire := h.wire ++ (f.seal k h.txEpoch h.txSeq h.txKi (padTo (15 * f.pay) h.open_)).map (f.wireOf ack)
      ackClk := if h.kept.isEmpty then now else h.ackClk, open_ := [] } := by
  have hpush : h.push f now ack [] = h := by
    rw [push_short (by simpa using hlen)]
    simp [hopen]
  have hsend : h.complete f now ack = Chan.sendGroup f now ack (padTo (15 * f.pay) h.open_) { h with open_ := [] } := by
    rw [Chan.complete, hpush]
    simp [hopen, hmay]
  exact hsend.trans (sendGroup_sealed _ hkey)

/-- An open group that may be sealed leaves none open, and the next group's number follows (R19). -/
theorem complete_seals (hopen : h.open_ ≠ []) (hlen : h.open_.length < 15 * f.pay) (hmay : h.maySeal f = true) :
    (h.complete f now ack).open_ = [] ∧ (h.complete f now ack).txSeq = f.plus h.txSeq 16 := by
  obtain ⟨k, hkey⟩ : ∃ k, h.txKeys.getD h.txKi none = some k := by
    simp only [Chan.maySeal, Bool.and_eq_true] at hmay
    exact Option.isSome_iff_exists.1 hmay.1.1
  rw [complete_sealed hopen hlen hmay hkey]
  exact ⟨rfl, rfl⟩

end Transmitter

/-- A link that fails sends nothing more (R20, R426). -/
theorem failLink_links (s : State) (n : Nat) :
    (s.failLink n).links = (s.setLink n { s.link n with
      failed := true, dirs := (s.link n).dirs.map fun (h : Chan) => { h with kept := [], open_ := [], replay := none } }).links := by
  rw [State.failLink, resendChunks_links, State.event, eventRec_links]

/-- An entry whose holders and owner can all be reached is built again from them, and its requests proceed (R426). -/
theorem rebuild_reached {s : State} {d : DirRef} {ln : Nat} {e : DirEntry} (hfind : s.dirFind d ln = some e) (hpend : e.poisonPend = true)
    (h8 : (s.die 8).census = none) (h9 : (s.die 9).census = none)
    (hholders : ∀ h ∈ e.holders, s.reaches (s.dirDie d) (holderDie (s.dirDie d - 8) h) = true)
    (howner : ∀ h, e.owner = some h → s.reaches (s.dirDie d) (holderDie (s.dirDie d - 8) h) = true) :
    s.rebuild d ln = e.queue.foldl (fun s r => s.dirAsk d r)
      ((s.recall e).dirSet d ln [{ e with st := .i, holders := [], owner := none, poisonPend := false, queue := [] }]) := by
  obtain ⟨base, log2, st, holders, owner, busy, queue, last, pend⟩ := e
  obtain rfl : pend = true := hpend
  have hall : (holders.filter fun h => s.reaches (s.dirDie d) (holderDie (s.dirDie d - 8) h)) = holders := List.filter_eq_self.2 hholders
  cases owner with
  | none => simp [State.rebuild, hfind, h8, h9, hall]
  | some h => simp [State.rebuild, hfind, h8, h9, hall, howner h rfl]

/-- Settles O52: each flit by what its receiver makes of it, each other row by the lemma that says what it leaves. -/
theorem dieLinkRows : Obligations.DieLinkRows := by
  refine ⟨?data, ?later, ?tag, ?badTag, ?control, ?idle, ?discarded, ?replay, failLink_links, ?openGroup, ?complete, ?rebuild⟩
  case data =>
    intro s rx tx x hflit hseq hdata
    exact congrArg Host.Outcome.next (linkRx_took hflit (rxData_inOrder hseq hdata))
  case later =>
    intro s rx tx x hflit hseq
    refine congrArg Host.Outcome.next ?_
    have hrx := rxData_outOfOrder (f := dieFmt) hseq
    split at hrx
    · next hlater => exact (linkRx_took hflit hrx).trans (if_pos hlater).symm
    · next hlater => exact (linkRx_took hflit hrx).trans (if_neg hlater).symm
  case tag =>
    intro s rx tx x k p hflit hseq htag hki hkey e hopen
    exact congrArg Host.Outcome.next (linkRx_took hflit (rxTag_verified hseq htag hki hkey hopen))
  case badTag =>
    intro s rx tx x k hflit hseq htag hkey hopen
    exact congrArg Host.Outcome.next (linkRx_took hflit (rxTag_failed hseq htag hkey hopen))
  case control => exact fun s rx tx x hflit => congrArg Host.Outcome.next (linkRx_took hflit rfl)
  case idle => exact fun s rx tx x hflit => congrArg Host.Outcome.next (linkRx_took hflit rfl)
  case discarded =>
    intro s rx tx hlink hdir hup hrx htx hdec
    have hrx' (t : Nat) := linkRx_discarded (t := t) hlink hdir (linkCarries_of_data hup) hrx htx hdec
    exact ⟨congrArg Host.Outcome.next (hrx' 0), congrArg Host.Outcome.next (hrx' 1), congrArg Host.Outcome.next (hrx' 2),
      congrArg Host.Outcome.next (hrx' 3)⟩
  case replay =>
    intro s tx rx a hlink hdir hok htx hrx hreplay
    rw [dieLinkReplay_sends hlink hdir hok htx hrx hreplay, sendAgain_asked]
  case openGroup => exact fun s tx rx => dieLinkOpenGroup_completes
  case complete => exact fun h f now ack k => complete_sealed
  case rebuild =>
    intro s e hfind hpend h8 h9 hholders howner
    refine congrArg Host.Outcome.next ((rebuild_reached hfind hpend h8 h9 hholders howner).trans (foldl_dirAsk_ev e.queue ?_))
    rw [dirSet_ev, recall_ev]

end Sys2Proof.Machine
end

section
/-! ### Where the sequencer's moves leave threads and cores

A thread that is filed is `Thread.filed` of what it was, and one that stands so already is left as it is by every later filing; filing
writes the batts of cores alone, and making room in slot 7 adds to the pending set (R51, R176, R179). -/

namespace Sys2Proof.Machine

/-- A thread once filed: past a KICK whose request has been entered, and waiting for nothing (R51, R176, R336). -/
def Thread.filed (t : Thread) : Thread := { t.pastKick with st := .filed, wait := 0 }

theorem find_modThread (s : State) (team tid : Nat) (f : Thread → Thread) (k : Nat) :
    (s.modThread team tid f).threads.find k = if tkey team tid = k then (s.threads.find k).map f else s.threads.find k := by
  unfold State.modThread
  split
  · next t ht =>
    rw [Tbl.find_put]
    split
    · next hk => rw [← hk, ht]; rfl
    · rfl
  · next hn =>
    split
    · next hk => rw [← hk, hn]; rfl
    · rfl

@[simp] theorem thread?_modThread (s : State) (team tid : Nat) (f : Thread → Thread) :
    (s.modThread team tid f).thread? team tid = (s.thread? team tid).map f := by
  simp [State.thread?, find_modThread]

theorem core_of_cores {s t : State} (h : s.cores = t.cores) (n : Nat) : s.core n = t.core n := by rw [State.core, State.core, h]

theorem thread?_of_threads {s t : State} (h : s.threads = t.threads) (team tid : Nat) : s.thread? team tid = t.thread? team tid := by
  rw [State.thread?, State.thread?, h]

theorem team?_of_teams {s t : State} (h : s.teams = t.teams) (team : Nat) : s.team? team = t.team? team := by
  rw [State.team?, State.team?, h]

@[simp] theorem core_setCore_self (s : State) (c : Nat) (k : Core) : (s.setCore c k).core c = k := by rw [State.core_setCore, if_pos rfl]

@[simp] theorem core_modThread (s : State) (team tid : Nat) (f : Thread → Thread) (n : Nat) : (s.modThread team tid f).core n = s.core n :=
  core_of_cores (State.modThread_cores ..) n

/-- Filing changes one thread: it is filed where its team is known (R51, R176). -/
theorem find_fileRaw (s : State) (team tid hold k : Nat) :
    (s.fileRaw team tid hold).threads.find k = if tkey team tid = k then
      (s.threads.find k).map (if (s.team? team).isSome then Thread.filed else Thread.pastKick) else s.threads.find k := by
  have hteam : (s.modThread team tid Thread.pastKick).team? team = s.team? team := team?_of_teams (State.modThread_teams ..) team
  unfold State.fileRaw
  simp only [hteam, thread?_modThread]
  split
  · next tm t htm ht =>
    have hfiled : ((s.modThread team tid Thread.pastKick).modThread team tid fun t => { t with st := .filed, wait := 0 }).threads.find k
        = if tkey team tid = k then (s.threads.find k).map Thread.filed else s.threads.find k := by
      simp only [find_modThread]
      split
      · rw [Option.map_map]; rfl
      · rfl
    simp only [htm, Option.isSome_some, if_true]
    split
    · exact hfiled
    · exact hfiled
  · next hnone =>
    rw [find_modThread]
    split
    · next hk =>
      cases hx : s.threads.find k with
      | none => rfl
      | some x =>
        cases htm : s.team? team with
        | none => rfl
        | some tm =>
          have ht : s.thread? team tid = some x := by rw [State.thread?, hk, hx]
          exact (hnone tm x.pastKick htm (by rw [ht]; rfl)).elim
    · rfl

section Fixed

variable {k : Nat} {x : Thread}

theorem find_fileRaw_of_filed {s : State} (hx : s.threads.find k = some x) (hfixed : x.filed = x) (team tid hold : Nat) :
    (s.fileRaw team tid hold).threads.find k = some x := by
  have hpast : x.pastKick = x := by rw [← hfixed]; rfl
  rw [find_fileRaw, hx]
  split
  · split <;> simp [hfixed, hpast]
  · rfl

theorem find_fileGroup_of_filed {s : State} (hx : s.threads.find k = some x) (hfixed : x.filed = x) (g : Group) :
    (s.fileGroup g).threads.find k = some x := by
  unfold State.fileGroup
  induction g.lanes generalizing s with
  | nil => exact hx
  | cons l r ih => exact ih (find_fileRaw_of_filed hx hfixed ..)

theorem find_strayRoom_of_filed {s : State} (hx : s.threads.find k = some x) (hfixed : x.filed = x) (c : Nat) :
    (s.strayRoom c).threads.find k = some x := by
  unfold State.strayRoom
  dsimp only
  split
  · split
    · exact hx
    · split
      · exact hx
      · exact find_fileGroup_of_filed (s := s.setCore c _) hx hfixed _
  · exact hx

end Fixed

/-- A thread that is filed stands so, whatever making room for a stray thread files besides (R51, R179). -/
theorem thread?_file {s : State} {team tid : Nat} {tm : Team} {t : Thread} (htm : s.team? team = some tm)
    (ht : s.thread? team tid = some t) (hold : Nat) : (s.file team tid hold).thread? team tid = some t.filed := by
  have hraw : (s.fileRaw team tid hold).thread? team tid = some t.filed := by
    have ht' : s.threads.find (tkey team tid) = some t := ht
    rw [State.thread?, find_fileRaw, if_pos rfl, htm, ht']
    rfl
  simp only [State.file, htm]
  split
  · exact find_strayRoom_of_filed hraw rfl _
  · exact hraw

theorem pending_fileRaw (s : State) (team tid hold n : Nat) : ((s.fileRaw team tid hold).core n).pending = (s.core n).pending := by
  unfold State.fileRaw
  dsimp only
  split
  · split
    · rw [State.modCore_eq, State.core_setCore]
      split
      · next hn => rw [← hn]; simp [Core.addBatt]
      · simp
    · simp
  · simp

theorem pending_fileGroup (s : State) (g : Group) (n : Nat) : ((s.fileGroup g).core n).pending = (s.core n).pending := by
  unfold State.fileGroup
  induction g.lanes generalizing s with
  | nil => rfl
  | cons l r ih => exact (ih _).trans (pending_fileRaw ..)

/-- Making room in slot 7 takes no group from a pending set (R179). -/
theorem mem_pending_strayRoom {s : State} {g : Group} {n : Nat} (hg : g ∈ (s.core n).pending) (c : Nat) :
    g ∈ ((s.strayRoom c).core n).pending := by
  unfold State.strayRoom
  dsimp only
  split
  · split
    · exact hg
    · split
      · rw [State.core_setCore]
        split
        · next hn => subst hn; exact List.mem_append_left _ hg
        · exact hg
      · rw [pending_fileGroup, State.core_setCore]
        split
        · next hn => subst hn; exact hg
        · exact hg
  · exact hg

end Sys2Proof.Machine
end

section
/-! ### Rows of the sequencer

What each row of the sequencer leaves, through the operations that it is made of: a window's delivery, a draw, a swap. -/

namespace Sys2Proof.Machine

section Results

variable {t : Thread} {w : Window}

theorem foldl_putPred_keeps (l : List (Nat × Bool)) (t : Thread) :
    (l.foldl (fun t p => t.putPred p.1 p.2) t).wins = t.wins ∧ (l.foldl (fun t p => t.putPred p.1 p.2) t).entry = t.entry := by
  induction l generalizing t with
  | nil => exact ⟨rfl, rfl⟩
  | cons p r ih =>
    have hp : (t.putPred p.1 p.2).wins = t.wins ∧ (t.putPred p.1 p.2).entry = t.entry := by
      unfold Thread.putPred
      split <;> exact ⟨rfl, rfl⟩
    exact ⟨(ih _).1.trans hp.1, (ih _).2.trans hp.2⟩

/-- A thread's only window closes, with its conditions in FLAGS, and no region entry waits (R109, R157, R184). -/
theorem closeWin_last {u : Window} (hwins : t.wins = [u]) (hid : u.id = w.id) (hlate : w.late = none) (hentry : t.entry = none) :
    t.closeWin w = { t with wins := [], flags := t.flags ||| w.flags.setWidth 32 } := by
  simp [Thread.closeWin, hlate, hwins, hid, Thread.orFlags, Thread.afterWin, hentry]

/-- A ready ALU result for one register reaches it, and its window closes (R184, R185). -/
theorem deliver_register {r : Nat} {v : Word} (hwins : t.wins = [w]) (hkind : w.kind = .alu) (hready : w.ready = true)
    (hlate : w.late = none) (hregs : w.regs = [(r, v)]) (hpreds : w.preds = []) (hentry : t.entry = none) :
    t.deliver w.id none = { t with regs := setAt t.regs r v, poisoned := t.poisoned.filter (· != r), wins := []
                                   flags := t.flags ||| w.flags.setWidth 32 } := by
  have hwin : t.win? w.id = some w := by simp [Thread.win?, hwins]
  have harrived : t.arrived w (r, v) = v := by simp [Thread.arrived, Thread.written, hkind, WinKind.isMacrd, hwins]
  simp only [Thread.deliver, hwin, hready, hlate, hregs, hpreds, List.foldl_cons, List.foldl_nil, harrived]
  exact closeWin_last (u := w) hwins rfl hlate hentry

/-- A wait's result without registers leaves its thread no window (R184). -/
theorem deliver_result_wins (hwins : t.wins = [w]) (hregs : w.regs = []) (hlate : w.late = none) (hentry : t.entry = none) :
    ((t.result w.id []).deliver w.id none).wins = [] := by
  have hresult : (t.result w.id []).wins = [{ w with ready := true, wait := none, regs := [] }] := by
    simp [Thread.result, Thread.modWin, hwins, hregs]
  have hwin : (t.result w.id []).win? w.id = some { w with ready := true, wait := none, regs := [] } := by
    simp [Thread.win?, hresult]
  obtain ⟨hkept, hkeptEntry⟩ := foldl_putPred_keeps w.preds (t.result w.id [])
  have hnoLate : w.late.isSome = false := by rw [hlate]; rfl
  simp only [Thread.deliver, hwin, hnoLate, List.foldl_nil, Bool.not_true, Bool.false_eq_true, if_false]
  exact congrArg Thread.wins (closeWin_last (hkept.trans hresult) rfl hlate (hkeptEntry.trans hentry))

/-- A result that brings no late fault is delivered, and nothing follows (R168). -/
theorem afterResult_quiet {s : State} {team tid : Nat} (ht : s.thread? team tid = some t) (htrap : t.trap = none) :
    s.afterResult team tid = s := by
  simp [State.afterResult, ht, htrap]

theorem getD_setAt {α : Type} (l : List α) (n : Nat) (x d : α) (hn : n < l.length) : (setAt l n x).getD n d = x := by
  induction l generalizing n with
  | nil => simp at hn
  | cons y r ih =>
    cases n with
    | zero => rfl
    | succ n => simpa [setAt] using ih n (by simpa using hn)

/-- A ready ALU result of a running thread is delivered; where that brings no late fault, nothing follows (R168, R184, R185). -/
theorem longResult_delivers {s : State} {team tid id : Nat} {only : Option Nat} (hhere : s.away team = false)
    (ht : s.thread? team tid = some t) (hwin : t.win? id = some w) (hkind : w.kind = .alu) (hst : t.st = .running)
    (htrap : (t.deliver id only).trap = none) : s.longResult team tid id only = s.modThread team tid fun t => t.deliver id only := by
  have hgoes : ¬ (t.st = .parked ∧ w.wait.isSome = true) := by simp [hst]
  simp only [State.longResult, hhere, ht, Option.bind_some, hwin, Option.map_some, hkind, if_neg hgoes]
  exact afterResult_quiet (by rw [thread?_modThread, ht]; rfl) htrap

/-- A wait that ends files its parked thread, with the results written (R50, R184, R186). -/
theorem waitDone_parked {s : State} {team tid id : Nat} {tm : Team} (regs : List (Nat × Word)) (htm : s.team? team = some tm)
    (hres : tm.resident = true) (ht : s.thread? team tid = some t) (hst : t.st = .parked) (hwait : t.wait ≠ 6)
    (hwin : (t.win? id).isSome = true) :
    s.waitDone team tid id regs =
      ((s.modThread team tid fun t => t.result id regs).modThread team tid fun t => t.deliver id none).file team tid 0 := by
  have hhere : (((s.modThread team tid fun t => t.result id regs).team? team).map (·.resident)).getD false = true := by
    rw [team?_of_teams (State.modThread_teams ..), htm]; exact hres
  simp only [State.waitDone, ht]
  exact if_pos ⟨hst, hwin, hwait, hhere⟩

/-- The row of an ended sleep ends the wait of its window (R164). -/
theorem sleepEnd_ends {s : State} {till : Nat} (ht : s.thread? s.ev.team s.ev.tid = some t) (hwins : t.wins = [w])
    (hsleep : w.wait = some (.sleep till)) (htill : till ≤ s.clk) :
    exec .sleepEnd s = .next (s.waitDone s.ev.team s.ev.tid w.id []) := by
  show execSleepEnd s = _
  simp [execSleepEnd, ht, Thread.waiting, hwins, hsleep, htill]

/-- A parked thread whose only window's wait ends without registers is filed, with no window left (R50, R184). -/
theorem waitDone_files {s : State} {team tid : Nat} {tm : Team} (htm : s.team? team = some tm) (hres : tm.resident = true)
    (ht : s.thread? team tid = some t) (hst : t.st = .parked) (hwait : t.wait ≠ 6) (hwins : t.wins = [w]) (hregs : w.regs = [])
    (hlate : w.late = none) (hentry : t.entry = none) :
    ∃ x, (s.waitDone team tid w.id []).thread? team tid = some x ∧ x.st = .filed ∧ x.wins = [] := by
  have hwin : (t.win? w.id).isSome = true := by simp [Thread.win?, hwins]
  rw [waitDone_parked [] htm hres ht hst hwait hwin]
  refine ⟨_, thread?_file (tm := tm) (t := (t.result w.id []).deliver w.id none) ?_ ?_ 0, rfl,
    deliver_result_wins hwins hregs hlate hentry⟩
  · rw [team?_of_teams (State.modThread_teams ..), team?_of_teams (State.modThread_teams ..), htm]
  · rw [thread?_modThread, thread?_modThread, ht]; rfl

end Results

end Sys2Proof.Machine
end

section
/-! ### Draws, swaps and issue (R177 to R182) -/

namespace Sys2Proof.Machine

section Draws

variable {s : State} {c : Nat}

/-- A key that a table lacks, its part lacks. -/
theorem find_filter_of_none {α : Type} {tbl : Tbl α} {k : Nat} (h : tbl.find k = none) (p : Nat × α → Bool) :
    Tbl.find (tbl.filter p) k = none := by
  induction tbl with
  | nil => rfl
  | cons e r ih =>
    rw [Tbl.find] at h
    split at h
    · exact absurd h (by simp)
    · next hne =>
      rw [List.filter_cons]
      split
      · rw [Tbl.find, if_neg hne]; exact ih h
      · exact ih h

/-- Batts without members that are drawn, and without those that this empties (R178). -/
def battsWithout (bs : Tbl Batt) (team : Nat) (tids : List Nat) : Tbl Batt :=
  (bs.mapKV fun _ b => { b with members := b.members.filter fun m => !(m.team == team && tids.contains m.tid) }).filter
    fun e => !e.2.members.isEmpty

/-- A draw takes its members out of the core's batts, and changes nothing else of a core (R178). -/
theorem formGroup_core (team : Nat) (ms : List Member) (stray : Bool) :
    (s.formGroup c team ms stray).2.core c =
      { s.core c with batts := battsWithout (s.core c).batts team (ms.map (·.tid)) } := by
  have hcores : (s.formGroup c team ms stray).2.cores
      = (s.modCore c fun k => { k with batts := battsWithout k.batts team (ms.map (·.tid)) }).cores :=
    foldl_keeps State.cores (fun s i => State.modThread_cores ..) _ _
  rw [core_of_cores hcores, State.modCore_eq, core_setCore_self]

/-- An empty batt stays empty in a draw (R178). -/
theorem find_battsWithout_of_none {bs : Tbl Batt} {n : Nat} (h : bs.find n = none) (team : Nat) (tids : List Nat) :
    (battsWithout bs team tids).find n = none :=
  find_filter_of_none (by rw [Tbl.find_mapKV, h]; rfl) _

/-- The free slots: those below 7, and slot 7 while the stray batt is empty (R159, R179). -/
theorem freeSlots_eq (k : Core) : k.freeSlots = ((upTo 7).filter fun i => (k.active.find i).isNone)
    ++ if ((k.active.find 7).isNone && (k.batts.find 63).isNone) = true then [7] else [] := by
  have hsplit : upTo 8 = upTo 7 ++ [7] := rfl
  have hlow : ((upTo 7).filter fun i => (k.active.find i).isNone && (decide (i < 7) || (k.batts.find 63).isNone))
      = (upTo 7).filter fun i => (k.active.find i).isNone :=
    List.filter_congr fun i hi => by simp [List.mem_range.1 hi]
  rw [Core.freeSlots, hsplit, List.filter_append, hlow, List.filter_cons, List.filter_nil]
  simp only [Nat.lt_irrefl, decide_false, Bool.false_or]

/-- The first free slot stays so where batts lose members (R159). -/
theorem freeSlots_of_batts {k : Core} {i : Nat} {rest : List Nat} {bs : Tbl Batt} (hfree : k.freeSlots = i :: rest)
    (hbs : k.batts.find 63 = none → bs.find 63 = none) : ∃ rest', ({ k with batts := bs } : Core).freeSlots = i :: rest' := by
  rw [freeSlots_eq] at hfree
  rw [freeSlots_eq]
  cases hlow : (upTo 7).filter fun i => (k.active.find i).isNone with
  | cons j r =>
    rw [hlow] at hfree
    obtain ⟨rfl, -⟩ := List.cons.inj hfree
    exact ⟨_, rfl⟩
  | nil =>
    rw [hlow, List.nil_append] at hfree
    split at hfree
    · next h7 =>
      obtain ⟨h7, h63⟩ : k.active.find 7 = none ∧ k.batts.find 63 = none := by simpa using h7
      obtain ⟨rfl, -⟩ := List.cons.inj hfree
      exact ⟨[], by simp [h7, hbs h63]⟩
    · exact absurd hfree (by simp)

/-- A drawn group takes the first free slot (R180). -/
theorem take_of_freeSlots {k : Core} {g : Group} {i : Nat} {rest : List Nat} (hfree : k.freeSlots = i :: rest) :
    k.take g = { k with active := k.active.put i g } := by
  rw [Core.take, hfree]

/-- With nothing pending, no slot is refilled (R181). -/
theorem refill_of_pending_nil (hpending : (s.core c).pending = []) : s.refill c = s := by
  have hnone : s.readyPending c = none := by rw [State.readyPending, hpending]; rfl
  unfold State.refill
  induction (s.core c).freeSlots with
  | nil => rfl
  | cons i r ih =>
    simp only [List.foldl_cons, hnone]
    exact ih

/-- A draw puts its group in the first free slot (R177, R178, R180). -/
theorem cardingDraw_fills {n i : Nat} {b : Batt} {rest : List Nat} (hpending : (s.core s.ev.core).pending = [])
    (hdraw : s.battToDraw s.ev.core (fun _ => true) = some (n, b)) (hfree : (s.core s.ev.core).freeSlots = i :: rest) :
    ∃ u, exec .cardingDraw s = .next u ∧ (u.core s.ev.core).active.find i = some (s.drawFrom s.ev.core b).1
      ∧ (u.core s.ev.core).overdueSince = none := by
  obtain ⟨tids, hcore⟩ : ∃ tids, (s.drawFrom s.ev.core b).2.core s.ev.core =
      { s.core s.ev.core with batts := battsWithout (s.core s.ev.core).batts b.team tids } := ⟨_, formGroup_core ..⟩
  obtain ⟨rest', hfree'⟩ := freeSlots_of_batts hfree fun h63 => find_battsWithout_of_none h63 b.team tids
  have hrow : exec .cardingDraw s = .next ((s.drawFrom s.ev.core b).2.modCore s.ev.core fun k =>
      { k.take (s.drawFrom s.ev.core b).1 with overdueSince := none }) := by
    show execCardingDraw s = _
    simp [execCardingDraw, refill_of_pending_nil hpending, State.card, hdraw, hfree]
  refine ⟨_, hrow, ?_⟩
  rw [State.modCore_eq, core_setCore_self, hcore, take_of_freeSlots hfree']
  exact ⟨Tbl.find_put_self .., rfl⟩

/-- The oldest eligible stray thread is drawn alone into slot 7 (R179). -/
theorem strayDraw_fills {b : Batt} {m : Member} {rest : List Member} (hbatt : (s.core s.ev.core).batts.find 63 = some b)
    (hslot : (s.core s.ev.core).active.find 7 = none) (hmembers : b.members.filter (fun m => decide (m.hold ≤ s.clk)) = m :: rest) :
    ∃ u g, exec .strayDraw s = .next u ∧ (u.core s.ev.core).active.find 7 = some g ∧ g.team = m.team ∧ g.lanes = [(0, m.tid)]
      ∧ g.stray = true := by
  have heligible : b.eligible s.clk = m :: rest := hmembers
  have hrow : exec .strayDraw s = .next ((s.formGroup s.ev.core m.team [m] true).2.modCore s.ev.core fun k =>
      { k with active := k.active.put 7 (s.formGroup s.ev.core m.team [m] true).1 }) := by
    show execStrayDraw s = _
    simp only [execStrayDraw, hbatt, hslot, heligible]
  exact ⟨_, (s.formGroup s.ev.core m.team [m] true).1, hrow, by simp, rfl, rfl, rfl⟩

/-- An overdue batt's group enters the pending set in place of the one drawn earliest (R180). -/
theorem overdueDraw_pends {t n : Nat} {g : Group} {rest : List Group} {b : Batt} (hsince : (s.core s.ev.core).overdueSince = some t)
    (hfirst : sortBy (·.drawn) (s.core s.ev.core).pending = g :: rest) (hlate : t + 16 ≤ s.clk)
    (hfree : (s.core s.ev.core).freeSlots = []) (hfull : 56 ≤ (s.core s.ev.core).pending.length)
    (hdraw : s.battToDraw s.ev.core (fun b => b.isOverdue (s.core s.ev.core).ageLimit s.clk) = some (n, b)) :
    ∃ u, exec .overdueDraw s = .next u ∧ (s.drawFrom s.ev.core b).1 ∈ (u.core s.ev.core).pending
      ∧ (u.core s.ev.core).overdueSince = none := by
  have hfirstDrawn : (s.core s.ev.core).firstDrawn = some g := by rw [Core.firstDrawn, hfirst]; rfl
  let v := (s.drawFrom s.ev.core b).2.modCore s.ev.core fun k =>
    { k with pending := k.pending.filter (· != g) ++ [(s.drawFrom s.ev.core b).1], overdueSince := none }
  have hrow : exec .overdueDraw s = .next ((v.fileGroup g).strayRoom s.ev.core) := by
    show execOverdueDraw s = _
    simp [execOverdueDraw, hsince, hfirstDrawn, hlate, hfree, hfull, hdraw, v]
  have hv : v.core s.ev.core = { (s.drawFrom s.ev.core b).2.core s.ev.core with
      pending := ((s.drawFrom s.ev.core b).2.core s.ev.core).pending.filter (· != g) ++ [(s.drawFrom s.ev.core b).1], overdueSince := none } :=
    core_setCore_self ..
  refine ⟨_, hrow, mem_pending_strayRoom ?_ _, ?_⟩
  · rw [pending_fileGroup, hv]
    exact List.mem_append_right _ (List.mem_singleton_self _)
  · have hbare := ((State.fileGroup_seqOnly v g).trans (State.strayRoom_seqOnly _ s.ev.core)).2.2 s.ev.core
    exact (congrArg Core.overdueSince hbare).trans (by rw [hv]; rfl)

end Draws

section Swaps

variable {s : State} {g p : Group}

/-- A swap puts the ready group in the slot and the other at the end of the pending set (R181). -/
theorem swap_exchanges {c slot : Nat} (hg : (s.core c).active.find slot = some g) (hp : s.readyPending c = some p) :
    { g with latch := [], since := s.clk, stall := none } ∈ ((s.swap c slot).core c).pending
      ∧ ((s.swap c slot).core c).active.find slot = some { p with since := s.clk, notBefore := s.clk + 2, stall := none } := by
  simp [State.swap, hg, hp, State.activate]

/-- An ordinary group that has stalled for 4 clk is swapped (R179, R181). -/
theorem stallSwap_swaps {t : Nat} (hg : (s.core s.ev.core).active.find s.ev.slot = some g) (hstray : g.stray = false)
    (hstall : g.stall = some t) (hlate : t + 4 ≤ s.clk) : exec .stallSwap s = .next (s.swap s.ev.core s.ev.slot) := by
  show execStallSwap s = _
  simp [execStallSwap, hg, hstall, hstray, hlate]

/-- Every 8 clk, an ordinary group alone in the active set makes place for one that has waited 8 clk (R181). -/
theorem rotationSwap_swaps {i : Nat} (hactive : (s.core s.ev.core).active = [(i, g)]) (hstray : g.stray = false)
    (hp : s.readyPending s.ev.core = some p) (hclk : s.clk % 8 = 0) (hlate : p.since + 8 ≤ s.clk) :
    exec .rotationSwap s = .next (s.swap s.ev.core i) := by
  show execRotationSwap s = _
  simp [execRotationSwap, hp, hactive, hstray, sortBy, insertBy, hclk, hlate]

end Swaps

section Issue

variable {s : State} {g : Group} {i : Nat}

/-- A walk over the slots from a group's own meets it once (R182). -/
theorem slotsFrom_single (hi : i < 8) :
    ((slotsFrom i).filterMap fun j => (Tbl.find [(i, g)] j).map fun g => (j, g)) = [(i, g)] := by
  have hslots : i = 0 ∨ i = 1 ∨ i = 2 ∨ i = 3 ∨ i = 4 ∨ i = 5 ∨ i = 6 ∨ i = 7 := by omega
  rcases hslots with rfl | rfl | rfl | rfl | rfl | rfl | rfl | rfl <;> rfl

/-- A ready group alone in the active set is selected, and the walk goes on behind it (R182). -/
theorem issue_selects (hc : s.ev.core < 128) (hclk : s.issueClk s.ev.core = true) (hactive : (s.core s.ev.core).active = [(i, g)])
    (hpending : (s.core s.ev.core).pending = []) (hi : i < 8) (hrr : (s.core s.ev.core).rr = i) (hbefore : g.notBefore ≤ s.clk)
    (hquarters : g.quarters ≤ 4) (hready : s.groupReady s.ev.core g = true) :
    exec .issue s = .next { (s.modCore s.ev.core fun k => { k with rr := (i + 1) % 8 }) with issueQ := s.issueQ ++ [(s.ev.core, i)] } := by
  have hpick : pick [(i, g)] 4 = ([i], none) := by simp [pick, hquarters]
  show execIssue s = _
  simp [execIssue, hc, hclk, State.issueWalk, refill_of_pending_nil hpending, hrr, hactive, slotsFrom_single hi, hready, hbefore, hpick]

end Issue

section Ends

variable {s : State}

/-- A hold that has passed is 0 (R163). -/
theorem yieldHoldEnd_clears {n : Nat} {b : Batt} {m : Member} (hbatts : (s.core s.ev.core).batts = [(n, b)]) (hmembers : b.members = [m])
    (hteam : m.team = s.ev.team) (htid : m.tid = s.ev.tid) (hhold : m.hold ≤ s.clk) :
    ∃ u, exec .yieldHoldEnd s = .next u ∧ (u.core s.ev.core).batts = [(n, { b with members := [{ m with hold := 0 }] })] := by
  refine ⟨_, rfl, ?_⟩
  simp [hbatts, Tbl.mapKV, hmembers, hteam, htid, hhold]

/-- A register-cache line that arrives is awaited no more (R187). -/
theorem registerCacheFill_arrives {i : Nat} {g : Group} (hactive : (s.core s.ev.core).active = [(i, g)])
    (hawaits : g.awaits = [(s.ev.block, s.ev.reg)]) :
    ∃ u, exec .registerCacheFill s = .next u ∧ (u.core s.ev.core).active = [(i, { g with awaits := [] })] := by
  refine ⟨_, rfl, ?_⟩
  simp [hactive, Tbl.mapKV, hawaits]

end Ends

end Sys2Proof.Machine
end

section
/-! ### Rows of the margin controller and of the matrix array (R190 to R198, R351, R380, R425) -/

namespace Sys2Proof.Machine

@[simp] theorem event_cores (s : State) (e : Event) : (s.event e).cores = s.cores := eventRec_cores ..
@[simp] theorem event_teams (s : State) (e : Event) : (s.event e).teams = s.teams := eventRec_teams ..

section Margin

variable {s : State} {c : Nat}

/-- A replay within the limit counts and adds 2 clk (R190, R194). -/
theorem replay_counts (hc : s.ev.core < 128) (hlimit : (s.core s.ev.core).cnt < (s.core s.ev.core).limit)
    (hcnt : (s.core s.ev.core).cnt < 65535) :
    exec .replay s = .next (s.modCore s.ev.core fun k => { k with clock := k.clock + 2, cnt := k.cnt + 1 }) := by
  have hmin : min ((s.core s.ev.core).cnt + 1) 65535 = (s.core s.ev.core).cnt + 1 := Nat.min_eq_left hcnt
  show execReplay s = _
  simp [execReplay, hc, State.replayed, hmin, Nat.succ_le_of_lt hlimit]

/-- A window's end without RELAX clears the count, and counts the window where it was clean (R194, R195). -/
theorem marginWindowEnd_clears (hc : s.ev.core < 128) (hwlen : (s.core s.ev.core).wlen = 0)
    (hclk : (s.core s.ev.core).winStart + 1048576 ≤ s.clk) (hrelax : (s.core s.ev.core).relax = 0) :
    exec .marginWindowEnd s = .next (s.modCore s.ev.core fun k =>
      { k with cnt := 0, winStart := s.clk, serrWin := 0, cleanWins := if 4 * k.cnt ≤ k.limit then k.cleanWins + 1 else 0 }) := by
  have hlen : (s.core s.ev.core).winStart + wlenClk (s.core s.ev.core).wlen ≤ s.clk := by rw [hwlen]; exact hclk
  have hclean : (s.core s.ev.core).cnt ≤ (s.core s.ev.core).limit / 4 ↔ 4 * (s.core s.ev.core).cnt ≤ (s.core s.ev.core).limit := by omega
  show execMarginWindowEnd s = _
  simp [execMarginWindowEnd, hc, hlen, Core.windowEnd, hrelax, hclean]

/-- A silent error below the fourth of its window counts, with its event, and quarantines nothing (R196, R198). -/
theorem countSilent_below (hwin : (s.core c).serrWin < 3) : (s.countSilent c).threads = s.threads
    ∧ (s.countSilent c).core c = { s.core c with serr := min ((s.core c).serr + 1) 255, serrWin := (s.core c).serrWin + 1 } := by
  let u := s.modCore c fun k => { k with serr := min (k.serr + 1) 255, serrWin := k.serrWin + 1 }
  have hcore : (u.coreEvent c 0x10 0 (u.core c).cur).core c =
      { s.core c with serr := min ((s.core c).serr + 1) 255, serrWin := (s.core c).serrWin + 1 } :=
    (core_of_cores (eventRec_cores ..) c).trans (core_setCore_self ..)
  have hfew : ¬ 4 ≤ ((u.coreEvent c 0x10 0 (u.core c).cur).core c).serrWin := by rw [hcore]; exact Nat.not_le.2 (Nat.succ_lt_succ hwin)
  have hcount : s.countSilent c = u.coreEvent c 0x10 0 (u.core c).cur := if_neg hfew
  rw [hcount]
  exact ⟨eventRec_threads .., hcore⟩

/-- A restart leaves every core as it was, but for where the sequencer holds threads (R161). -/
theorem restart_core (s : State) (team tid n : Nat) : ((s.restart team tid).core n).bare = (s.core n).bare := by
  have hunsched : ((s.unsched team tid).core n).bare = (s.core n).bare := by
    unfold State.unsched
    split
    · next tm _ => exact (State.SeqOnly.modCore s (tm.coreOf tid) (fun k => k.unsched fun a b => a == team && b == tid) fun _ => rfl).2.2 n
    · rfl
  unfold State.restart
  split
  · split
    · rfl
    · refine ((State.file_seqOnly _ team tid 0).2.2 n).trans ?_
      rw [core_modThread]
      exact hunsched
  · rfl

/-- A thread that restarts stands at its region entry (R161). -/
theorem restart_thread {team tid : Nat} {tm : Team} {t : Thread} (htm : s.team? team = some tm) (ht : s.thread? team tid = some t)
    (hst : t.st ≠ .exited) : (s.restart team tid).thread? team tid = some t.restarted.filed := by
  have hunsched : s.unsched team tid = s.modCore (tm.coreOf tid) fun k => k.unsched fun a b => a == team && b == tid := by
    simp only [State.unsched, htm]
  simp only [State.restart, ht, if_neg hst]
  refine thread?_file (tm := tm) ?_ ?_ 0
  · rw [team?_of_teams (State.modThread_teams ..), hunsched]; exact htm
  · rw [thread?_modThread, hunsched]; exact congrArg (Option.map Thread.restarted) ht

theorem onCore_thread {team tid : Nat} (hon : s.onCore c team tid = true) :
    ∃ tm t, s.team? team = some tm ∧ s.thread? team tid = some t ∧ t.st ≠ .exited := by
  unfold State.onCore at hon
  split at hon
  · next tm t htm ht =>
    simp only [Bool.and_eq_true, bne_iff_ne] at hon
    exact ⟨tm, t, htm, ht, hon.2⟩
  · exact absurd hon (by simp)

/-- A silent error restarts its thread and counts (R198). -/
theorem silentError_restarts {i : Nat} (htids : s.ev.tids = [i]) (hon : s.onCore s.ev.core s.ev.team i = true)
    (hflag : s.ev.flag = false) (hwin : (s.core s.ev.core).serrWin < 3) :
    ∃ u x t, exec .silentError s = .next u ∧ s.thread? s.ev.team i = some t ∧ u.thread? s.ev.team i = some x ∧ x.pc = t.rpc
      ∧ (u.core s.ev.core).serr = min ((s.core s.ev.core).serr + 1) 255 := by
  obtain ⟨tm, t, htm, ht, hst⟩ := onCore_thread hon
  have hrow : exec .silentError s = .next ((s.restart s.ev.team i).countSilent s.ev.core) := by
    show execSilentError s = _
    simp [execSilentError, htids, hon, hflag]
  have hbare := restart_core s s.ev.team i s.ev.core
  have hserr : ((s.restart s.ev.team i).core s.ev.core).serr = (s.core s.ev.core).serr := (congrArg Core.serr hbare).trans rfl
  have hserrWin : ((s.restart s.ev.team i).core s.ev.core).serrWin = (s.core s.ev.core).serrWin := (congrArg Core.serrWin hbare).trans rfl
  obtain ⟨hthreads, hcore⟩ := countSilent_below (s := s.restart s.ev.team i) (c := s.ev.core) (by rw [hserrWin]; exact hwin)
  refine ⟨_, t.restarted.filed, t, hrow, ht, ?_, rfl, ?_⟩
  · rw [thread?_of_threads hthreads]
    exact restart_thread htm ht hst
  · rw [hcore]
    exact congrArg (fun n => min (n + 1) 255) hserr

/-- A write that its die takes and that sets no reserved bit acts (R5, R445). -/
theorem windowWrite_acts {d off res v : Nat} {put : State → State} (hport : s.ev.hport < 2) (hdie : (s.die d).attested.st = 3)
    (hres : v &&& res = 0) : s.windowWrite d off res v put = put s := by
  have hanswers : s.dieAnswers d off = true := by simp [State.dieAnswers, hdie]
  rw [State.windowWrite, if_neg (Nat.not_le.2 hport), hanswers]
  simp [hres]

/-- MGN_CTL written with WLEN = 2, EN and TARGET = 3 (R191). -/
theorem mgnCtlWrite_fields (hc : s.ev.core < 128) (hport : s.ev.hport < 2) (hdie : (s.die (s.ev.core / 16)).attested.st = 3)
    (hv : s.ev.v = 0x20013) :
    exec .mgnCtlWrite s = .next (s.modCore s.ev.core fun k => { k with wlen := 2, en := true, target := 3, cur := min k.cur 3 }) := by
  have hput : s.mgnCtlPut s.ev.core 0x20013 =
      s.modCore s.ev.core fun k => { k with wlen := 2, en := true, target := 3, cur := min k.cur 3 } := rfl
  show execMgnCtlWrite s = _
  rw [← hput, execMgnCtlWrite, if_pos hc, hv]
  exact congrArg Host.Outcome.next (windowWrite_acts hport hdie (by decide))

/-- QUAR written with one on a quarantined core, every other field 0 (R191, R196). -/
theorem quarantineClear_restarts (hc : s.ev.core < 128) (hport : s.ev.hport < 2) (hdie : (s.die (s.ev.core / 16)).attested.st = 3)
    (hv : s.ev.v = 0x1000) (hquar : (s.core s.ev.core).quar = true) :
    exec .quarantineClear s = .next (s.modCore s.ev.core fun k => { k with
      wlen := 0, en := false, target := 0, cur := 0, quar := false, cnt := 0, cleanWins := 0, winStart := s.clk, serrWin := 0 }) := by
  have hput : s.mgnCtlPut s.ev.core 0x1000 = s.modCore s.ev.core fun k => { k with
      wlen := 0, en := false, target := 0, cur := 0, quar := false, cnt := 0, cleanWins := 0, winStart := s.clk, serrWin := 0 } := by
    simp [State.mgnCtlPut, Core.setMgnCtl, hquar, bits]
  show execQuarantineClear s = _
  rw [← hput, execQuarantineClear, hv, if_pos ⟨hc, by decide⟩]
  exact congrArg Host.Outcome.next (windowWrite_acts hport hdie (by decide))

/-- MGN_LIMIT written with RELAX = 4 and LIMIT = 100 (R193). -/
theorem mgnLimitWrite_fields (hc : s.ev.core < 128) (hport : s.ev.hport < 2) (hdie : (s.die (s.ev.core / 16)).attested.st = 3)
    (hv : s.ev.v = 0x040064) :
    exec .mgnLimitWrite s = .next (s.modCore s.ev.core fun k => { k with relax := 4, limit := 100 }) := by
  show execMgnLimitWrite s = _
  rw [execMgnLimitWrite, if_pos hc, hv]
  exact congrArg Host.Outcome.next (windowWrite_acts hport hdie (by decide))

end Margin

section Array

variable {s : State}

theorem rowMismatch_counts (k : Core) (row rowth : Nat) : (k.rowMismatch row rowth).rowErrs = k.rowErrs.put row (k.rowErrs.get row 0 + 1)
    ∧ (k.rowMismatch row rowth).serr = k.serr ∧ (k.rowMismatch row rowth).serrWin = k.serrWin := by
  unfold Core.rowMismatch
  dsimp only
  split <;> exact ⟨rfl, rfl, rfl⟩

/-- A mismatch is a silent error of its core once its row has counted it and its owner, where it has one, has restarted (R380). -/
theorem checksumMismatch_silent {o : MOp} {tm : Team} (hqueue : (s.core s.ev.core).matq = [o]) (hid : o.id = s.ev.req)
    (hstarted : o.started = true) (htm : s.team? o.team = some tm) (hchecked : o.checked tm = true) :
    ∃ u : State, exec .checksumMismatch s = .next (u.countSilent s.ev.core)
      ∧ (u.core s.ev.core).bare = ((s.core s.ev.core).rowMismatch s.ev.row s.cn.rowth).bare := by
  obtain ⟨v, hv⟩ : ∃ v, v = s.modCore s.ev.core fun k => k.rowMismatch s.ev.row s.cn.rowth := ⟨_, rfl⟩
  have hcore : v.core s.ev.core = (s.core s.ev.core).rowMismatch s.ev.row s.cn.rowth := by rw [hv]; exact core_setCore_self ..
  have hfind : ((s.core s.ev.core).matq.find? fun o => o.id == s.ev.req && o.started && ((s.team? o.team).map o.checked).getD false) = some o := by
    simp [hqueue, hid, hstarted, htm, hchecked]
  show ∃ u : State, execChecksumMismatch s = .next (u.countSilent s.ev.core) ∧ _
  cases howner : o.owner with
  | none => exact ⟨v, by simp only [execChecksumMismatch, hfind, ← hv, howner], by rw [hcore]⟩
  | some i =>
    by_cases hthread : (v.thread? o.team i).isSome = true
    · exact ⟨v.restart o.team i, by simp only [execChecksumMismatch, hfind, ← hv, howner, if_pos hthread], by rw [restart_core, hcore]⟩
    · exact ⟨v, by simp only [execChecksumMismatch, hfind, ← hv, howner, if_neg hthread], by rw [hcore]⟩

/-- A mismatch counts for its row and as a silent error (R198, R380, R425). -/
theorem checksumMismatch_counts {o : MOp} {tm : Team} (hqueue : (s.core s.ev.core).matq = [o]) (hid : o.id = s.ev.req)
    (hstarted : o.started = true) (htm : s.team? o.team = some tm) (hchecked : o.checked tm = true)
    (hwin : (s.core s.ev.core).serrWin < 3) :
    ∃ u, exec .checksumMismatch s = .next u ∧ (u.core s.ev.core).serr = min ((s.core s.ev.core).serr + 1) 255
      ∧ (u.core s.ev.core).rowErrs.get s.ev.row 0 = (s.core s.ev.core).rowErrs.get s.ev.row 0 + 1 := by
  obtain ⟨u, hrow, hbare⟩ := checksumMismatch_silent hqueue hid hstarted htm hchecked
  obtain ⟨hrowErrs, hserr, hserrWin⟩ := rowMismatch_counts (s.core s.ev.core) s.ev.row s.cn.rowth
  have huErrs : (u.core s.ev.core).rowErrs = _ := (congrArg Core.rowErrs hbare).trans hrowErrs
  have huSerr : (u.core s.ev.core).serr = _ := (congrArg Core.serr hbare).trans hserr
  have huWin : (u.core s.ev.core).serrWin = _ := (congrArg Core.serrWin hbare).trans hserrWin
  obtain ⟨-, hcore⟩ := countSilent_below (s := u) (c := s.ev.core) (by rw [huWin]; exact hwin)
  refine ⟨_, hrow, ?_, ?_⟩
  · rw [hcore]
    exact congrArg (fun n => min (n + 1) 255) huSerr
  · rw [hcore]
    exact (congrArg (fun e : Tbl Nat => e.get s.ev.row 0) huErrs).trans (Tbl.get_put_self ..)

/-- No team need leave a core that neither drains nor holds one with MX = 1 (R196, R425). -/
theorem mustLeave_nil {c : Nat} (hdraining : (s.core c).draining = false) (hmx : ∀ e ∈ s.teams, e.2.lr.mx = false) :
    s.mustLeave c = [] := by
  have hstay : ∀ e ∈ s.teams, ¬ (e.2.resident && e.2.cores.contains c && ((s.core c).draining || (e.2.lr.mx && s.rowsLow c))) = true :=
    fun e he => by simp [hdraining, hmx e he]
  rw [State.mustLeave, List.filter_eq_nil_iff.2 hstay]
  rfl

/-- A logical map rebuilt with no operation queued leaves the disabled rows out (R351, R425). -/
theorem logicalMapRebuild_leavesOut (hqueue : (s.core s.ev.core).matq = []) (hdraining : (s.core s.ev.core).draining = false)
    (hmx : ∀ e ∈ s.teams, e.2.lr.mx = false) :
    ∃ u, exec .logicalMapRebuild s = .next u ∧ (u.core s.ev.core).rowMap = (s.core s.ev.core).badRows := by
  let c := s.ev.core
  let new := (s.core c).badRows.filter fun r => !(s.core c).rowMap.contains r
  let u := new.foldl (fun s r => s.event { kind := 0x0D, core := c, die := dieOf c, aux := r }) (s.modCore c fun k => { k with rowMap := k.badRows })
  have hcore : u.core c = { s.core c with rowMap := (s.core c).badRows } :=
    (core_of_cores (foldl_keeps State.cores (fun s r => event_cores ..) new _) c).trans (core_setCore_self ..)
  have hteams : u.teams = s.teams := foldl_keeps State.teams (fun s r => event_teams ..) new _
  have hstay : u.mustLeave c = [] := mustLeave_nil (by rw [hcore]; exact hdraining) (by rw [hteams]; exact hmx)
  refine ⟨u, ?_, by rw [hcore]⟩
  show execLogicalMapRebuild s = _
  rw [execLogicalMapRebuild, hqueue]
  have hempty : (u.mustLeave c).isEmpty = true := by rw [hstay]; rfl
  exact congrArg Host.Outcome.next (if_pos hempty)

end Array

end Sys2Proof.Machine
end

section
/-! ### Where the rows of cores and of die links complete -/

namespace Sys2Proof.Machine

open Sys2Proof.Say

theorem getElem?_setAt {α : Type} (l : List α) (n m : Nat) (x : α) :
    (setAt l n x)[m]? = if n = m then l[m]?.map fun _ => x else l[m]? := by
  induction l generalizing n m with
  | nil => simp [setAt]
  | cons y r ih => cases n <;> cases m <;> simp [setAt, ih]

@[simp] theorem link_setLink_self (s : State) (n : Nat) (x : DieLink) : (s.setLink n x).link n = x := Tbl.get_put_self ..

theorem link_of_links {s t : State} (h : s.links = t.links) (n : Nat) : s.link n = t.link n := by rw [State.link, State.link, h]

section Links

variable {s : State} {t : Nat} {rx tx rx' : Chan} {x : RxFlit}

/-- The two directions of a link are two (R17). -/
theorem dirs_setAt_both {l : List Chan} {d : Nat} (hdir : d < 2) (hrx : l[d]? = some rx) (htx : l[1 - d]? = some tx) (h h' : Chan) :
    (setAt (setAt l d h) (1 - d) h')[d]? = some h ∧ (setAt (setAt l d h) (1 - d) h')[1 - d]? = some h' := by
  have hne : ¬ 1 - d = d := by omega
  have hne' : ¬ d = 1 - d := by omega
  simp [getElem?_setAt, hne, hne', hrx, htx]

/-- After a flit that is taken, the receiver stands in its direction, and the transmitter, with its ACK and NAK heard, in the other (R20). -/
theorem dieTook_dirs (hflit : DieFlit s t rx tx x) (h : Chan) :
    ((dieTook s tx x h false).link s.ev.link).dirs[s.ev.dir]? = some h
      ∧ ((dieTook s tx x h false).link s.ev.link).dirs[1 - s.ev.dir]?
        = some (if x.nak then { tx.acked dieFmt s.clk x.ack with replay := some x.ack } else tx.acked dieFmt s.clk x.ack) := by
  obtain ⟨-, hdir, -, hrx, htx, -, -⟩ := hflit
  have htook : dieTook s tx x h false = s.setLink s.ev.link { s.link s.ev.link with
      dirs := setAt (setAt (s.link s.ev.link).dirs s.ev.dir h) (1 - s.ev.dir)
        (if x.nak then { tx.acked dieFmt s.clk x.ack with replay := some x.ack } else tx.acked dieFmt s.clk x.ack) } := rfl
  rw [htook, link_setLink_self]
  exact dirs_setAt_both hdir hrx htx h _

/-- A data flit in order joins the group of its receiver (R19). -/
theorem dieLinkDataFlit_joins (hflit : DieFlit s 0 rx tx x) (hseq : x.seq = rx.rxSeq) (hdata : x.seq % 16 ≠ 15) :
    ∃ u h, exec .dieLinkDataFlit s = .next u ∧ (u.link s.ev.link).dirs[s.ev.dir]? = some h ∧ h.rxSeq = (x.seq + 1) % 16777216
      ∧ h.group = rx.group ++ [{ seq := x.seq, type := 0, ki := x.ki, payload := x.payload }] ∧ h.delivered = rx.delivered := by
  refine ⟨_, _, congrArg Host.Outcome.next (linkRx_took hflit (rxData_inOrder hseq hdata)), (dieTook_dirs hflit _).1, ?_, rfl, rfl⟩
  rw [hseq]; rfl

/-- A tag flit that verifies gives its group's payloads on (R20). -/
theorem dieLinkTagFlit_delivers {k : KeySlot} {p : List Byte} (hflit : DieFlit s 1 rx tx x) (hseq : x.seq = rx.rxSeq)
    (htag : x.seq % 16 = 15) (hslot : x.ki = rx.rxKi) (hki : ∀ y ∈ rx.group, y.ki = x.ki) (hkey : rx.rxKeys.getD rx.rxKi none = some k)
    (hopen : dieFmt.open k rx.rxEpoch (x.seq - 15) rx.rxKi rx.group x.payload = some p) :
    ∃ u h, exec .dieLinkTagFlit s = .next u ∧ (u.link s.ev.link).dirs[s.ev.dir]? = some h ∧ h.group = []
      ∧ h.delivered = rx.delivered ++ p := by
  have hverified := rxTag_verified hseq htag hki (by rw [hslot]; exact hkey) (by rw [if_pos hslot, hslot]; exact hopen)
  exact ⟨_, _, congrArg Host.Outcome.next (linkRx_took hflit hverified), (dieTook_dirs hflit _).1, rfl, rfl⟩

/-- The first replay from a number sends what is kept once more, and counts none as failed (R20; log 29). -/
theorem dieLinkReplay_sendsOnce {a : Nat} (hlink : s.ev.link < 21) (hdir : s.ev.dir < 2) (hok : s.linkOk s.ev.link = true)
    (htx : (s.link s.ev.link).dirs[s.ev.dir]? = some tx) (hrx : (s.link s.ev.link).dirs[1 - s.ev.dir]? = some rx)
    (hreplay : tx.replay = some a) (hnak : tx.nakAt = none) :
    ∃ u h, exec .dieLinkReplay s = .next u ∧ (u.link s.ev.link).dirs[s.ev.dir]? = some h ∧ h.replay = none ∧ h.kept = tx.kept
      ∧ h.fails = 0 ∧ h.wire = tx.wire ++ (tx.kept.filter fun x => dieFmt.after a x.seq).map (dieFmt.wireOf rx.rxSeq) := by
  let h := tx.sendAgain dieFmt s.clk rx.rxSeq a false
  have hfails : h.fails = 0 := by simp [h, sendAgain_asked, hnak]
  have hfew : ¬ 8 ≤ h.fails := by simp [hfails]
  refine ⟨_, h, (dieLinkReplay_sends hlink hdir hok htx hrx hreplay).trans (congrArg Host.Outcome.next (if_neg hfew)), ?_, rfl, rfl, hfails, rfl⟩
  rw [link_of_links (resendChunks_links _), link_setLink_self, getElem?_setAt, if_pos rfl, htx]
  rfl

/-- Bytes given to a link whose transmitter may send are sealed in a group of their own (R19; log 31). -/
theorem dieLinkOpenGroup_seals (hlink : s.ev.link < 21) (hdir : s.ev.dir < 2) (hok : s.linkOk s.ev.link = true)
    (htx : (s.link s.ev.link).dirs[s.ev.dir]? = some tx) (hrx : (s.link s.ev.link).dirs[1 - s.ev.dir]? = some rx)
    (hkeyed : (s.die (linkEnds s.ev.link).1).attested.st = 3) (hkeyed' : (s.die (linkEnds s.ev.link).2).attested.st = 3)
    (hopen : tx.open_ = []) (hmay : tx.maySeal dieFmt = true) (hbytes : s.ev.bytes ≠ []) (hlen : s.ev.bytes.length < 15 * dieFmt.pay) :
    ∃ u h, exec .dieLinkOpenGroup s = .next u ∧ (u.link s.ev.link).dirs[s.ev.dir]? = some h ∧ h.open_ = []
      ∧ h.txSeq = (tx.txSeq + 16) % 16777216 := by
  have hpush := push_short (h := tx) (f := dieFmt) (now := s.clk) (ack := rx.rxSeq) (b := s.ev.bytes) (by rw [hopen]; exact hlen)
  have hsealed : ((tx.push dieFmt s.clk rx.rxSeq s.ev.bytes).complete dieFmt s.clk rx.rxSeq).open_ = []
      ∧ ((tx.push dieFmt s.clk rx.rxSeq s.ev.bytes).complete dieFmt s.clk rx.rxSeq).txSeq = (tx.txSeq + 16) % 16777216 := by
    rw [hpush]
    exact complete_seals (by simpa [hopen] using hbytes) (by simpa [hopen] using hlen) hmay
  refine ⟨_, _, dieLinkOpenGroup_completes hlink hdir hok htx hrx hkeyed hkeyed', ?_, hsealed⟩
  rw [link_setLink_self, getElem?_setAt, if_pos rfl, htx]
  rfl

/-- An entry put in place of the one that covers a line is the one found for it (R308). -/
theorem dirFind_dirSet {d : DirRef} {ln : Nat} {e : DirEntry} (hcovers : e.covers ln = true) (es : List DirEntry) :
    (s.dirSet d ln (e :: es)).dirFind d ln = some e := by
  simp [State.dirSet, State.dirFind, hcovers]

theorem covers_of_dirFind {d : DirRef} {ln : Nat} {e : DirEntry} (hfind : s.dirFind d ln = some e) : e.covers ln = true := by
  obtain ⟨y, hy, rfl⟩ := Option.map_eq_some_iff.1 hfind
  have hpred := List.find?_some hy
  simp only [Bool.and_eq_true] at hpred
  exact hpred.2

/-- A poisoned-pending entry that nobody holds is built again as held by nobody (R426). -/
theorem entryRebuild_empties {e : DirEntry} (hfind : s.dirFind s.ev.dref (lineOf s.ev.pa) = some e) (hpend : e.poisonPend = true)
    (hqueue : e.queue = []) (hholders : e.holders = []) (howner : e.owner = none) (h8 : (s.die 8).census = none)
    (h9 : (s.die 9).census = none) :
    ∃ u f, exec .entryRebuild s = .next u ∧ u.dirFind s.ev.dref (lineOf s.ev.pa) = some f ∧ f.poisonPend = false ∧ f.st = .i
      ∧ f.holders = [] := by
  have hrebuilt := rebuild_reached hfind hpend h8 h9 (by simp [hholders]) (by simp [howner])
  rw [hqueue] at hrebuilt
  have hcovers : ({ e with st := .i, holders := [], owner := none, poisonPend := false, queue := [] } : DirEntry).covers (lineOf s.ev.pa) = true :=
    (covers_of_dirFind hfind :)
  exact ⟨_, _, congrArg Host.Outcome.next hrebuilt, dirFind_dirSet hcovers [], rfl, rfl, rfl⟩

end Links

/-- Settles O60: each row by the lemma that says where it completes. -/
theorem coreAndLinkRowsComplete : Obligations.CoreAndLinkRowsComplete := by
  refine ⟨⟨?result, ?carding, ?stray, ?issue, ?overdue, ?stall, ?rotation, ?hold, ?sleep, ?fill, ?replay, ?window, ?silent, ?registers,
    ?mismatch, ?map⟩, ⟨?data, ?tag, ?control, ?idle, ?dieReplay, ?openGroup, ?rebuild⟩⟩
  case result =>
    intro s t w r v hhere ht hwins hid hkind hready hlate hregs hpreds honly hst htrap hentry hr
    have hwin : t.win? w.id = some w := by simp [Thread.win?, hwins]
    have hdelivered := deliver_register hwins hkind hready hlate hregs hpreds hentry
    have hrow : exec .longLatencyResult s = .next (s.modThread s.ev.team s.ev.tid fun t => t.deliver w.id none) := by
      rw [← longResult_delivers hhere ht hwin hkind hst (by rw [hdelivered]; exact htrap), hid, ← honly]
      rfl
    refine ⟨_, t.deliver w.id none, hrow, by rw [thread?_modThread, ht]; rfl, ?_⟩
    rw [hdelivered]
    exact ⟨getD_setAt _ _ _ _ hr, rfl, rfl⟩
  case carding => exact fun s n b i rest => cardingDraw_fills
  case stray => exact fun s b m rest => strayDraw_fills
  case issue => exact fun s i g => issue_selects
  case overdue => exact fun s t g rest n b => overdueDraw_pends
  case stall =>
    intro s g t p c hg hstray hstall hlate hp
    exact ⟨_, stallSwap_swaps hg hstray hstall hlate, swap_exchanges hg hp⟩
  case rotation =>
    intro s i g p c hactive hstray hp hclk hlate
    have hg : (s.core c).active.find i = some g := by simp [c, hactive, Tbl.find]
    exact ⟨_, rotationSwap_swaps hactive hstray hp hclk hlate, swap_exchanges hg hp⟩
  case hold => exact fun s n b m => yieldHoldEnd_clears
  case sleep =>
    intro s tm t w till htm hres ht hst hwait hwins hsleep htill hregs hlate hentry
    obtain ⟨x, hx⟩ := waitDone_files htm hres ht hst hwait hwins hregs hlate hentry
    exact ⟨_, x, sleepEnd_ends ht hwins hsleep htill, hx⟩
  case fill => exact fun s i g => registerCacheFill_arrives
  case replay => exact fun s => replay_counts
  case window => exact fun s => marginWindowEnd_clears
  case silent => exact fun s i => silentError_restarts
  case registers =>
    intro s c hc hport hdie
    exact ⟨mgnCtlWrite_fields hc hport hdie, quarantineClear_restarts hc hport hdie, mgnLimitWrite_fields hc hport hdie⟩
  case mismatch => exact fun s o tm => checksumMismatch_counts
  case map => exact fun s => logicalMapRebuild_leavesOut
  case data => exact fun s rx tx x hflit hseq hdata _ => dieLinkDataFlit_joins hflit hseq hdata
  case tag => exact fun s rx tx x k p hflit hseq htag _ hslot hki hkey hopen => dieLinkTagFlit_delivers hflit hseq htag hslot hki hkey hopen
  case control =>
    intro s rx tx x hflit hnak
    obtain ⟨hrx, htx⟩ := dieTook_dirs hflit rx
    exact ⟨_, congrArg Host.Outcome.next (linkRx_took hflit rfl), hrx, by simpa [hnak] using htx⟩
  case idle =>
    intro s rx tx x hflit hnak
    obtain ⟨hrx, htx⟩ := dieTook_dirs hflit rx
    exact ⟨_, _, congrArg Host.Outcome.next (linkRx_took hflit rfl), hrx, htx, by rw [hnak]; rfl⟩
  case dieReplay => exact fun s tx rx a => dieLinkReplay_sendsOnce
  case openGroup => exact fun s tx rx => dieLinkOpenGroup_seals
  case rebuild => exact fun s e => entryRebuild_empties

end Sys2Proof.Machine
end

section
/-! ### Contexts and queues

Switches, creation and destruction of contexts, the registers of queues and the host's postings (R60, R256, R257, R263, R267, R448). -/

namespace Sys2Proof.Machine

/-! #### Fields of a written register -/

theorem bits_toNat {w : Nat} (v : BitVec w) (hi lo : Nat) : bits v.toNat hi lo = (v.extractLsb' lo (hi + 1 - lo)).toNat :=
  (BitVec.extractLsb'_toNat ..).symm

theorem and_maskOf (x hi lo : Nat) : x &&& maskOf hi lo = bits x hi lo * 2 ^ lo := by
  refine Nat.eq_of_testBit_eq fun i => ?_
  simp only [maskOf, bits, Nat.testBit_and, Nat.testBit_mul_two_pow, Nat.testBit_two_pow_sub_one, Nat.testBit_mod_two_pow,
    Nat.testBit_shiftRight]
  by_cases hlo : lo ≤ i
  · simp [hlo, Bool.and_comm]
  · simp [hlo]

/-- A field that is 0 has no bit in common with its mask. -/
theorem and_maskOf_of_extractLsb' {w : Nat} {v : BitVec w} (hi lo : Nat) (h : v.extractLsb' lo (hi + 1 - lo) = 0) :
    v.toNat &&& maskOf hi lo = 0 := by
  rw [and_maskOf, bits_toNat, h]; simp

theorem and_maskOf_of_getLsbD {w : Nat} {v : BitVec w} {n : Nat} (h : v.getLsbD n = false) : v.toNat &&& maskOf n n = 0 := by
  refine and_maskOf_of_extractLsb' n n (BitVec.eq_of_getLsbD_eq fun i hi => ?_)
  obtain rfl : i = 0 := by omega
  simp [h]

theorem and_or_eq_zero {x a b : Nat} (ha : x &&& a = 0) (hb : x &&& b = 0) : x &&& (a ||| b) = 0 := by
  rw [Nat.and_or_distrib_left, ha, hb, Nat.or_zero]

theorem alignDown_of_extractLsb' {w : Nat} {v : BitVec w} (h : v.extractLsb' 0 7 = 0) : alignDown v.toNat 128 = v.toNat := by
  have hlow : v.toNat % 128 = 0 := by simpa using congrArg BitVec.toNat h
  exact Nat.div_mul_cancel (Nat.dvd_of_mod_eq_zero hlow)

/-- A write that its die takes and that sets no reserved bit acts, whichever die answers for it (R5, R429, R445). -/
theorem windowWrite_of_dieAnswers {s : State} {d off res v : Nat} {put : State → State} (hport : s.ev.hport < 2)
    (hdie : s.dieAnswers d off = true) (hres : v &&& res = 0) : s.windowWrite d off res v put = put s := by
  rw [State.windowWrite, if_neg (Nat.not_le.2 hport), hdie]
  simp [hres]

/-! #### Contexts and queues after a write -/

theorem Tbl.put_put {α : Type} (t : Tbl α) (k : Nat) (x y : α) : (t.put k x).put k y = t.put k y := by
  induction t with
  | nil => simp [put]
  | cons e r ih =>
    obtain ⟨j, z⟩ := e
    by_cases hlt : k < j
    · simp [put, hlt]
    · by_cases heq : j = k
      · simp [put, heq]
      · simp [put, hlt, heq, ih]

@[simp] theorem ctx_setCtx_self (s : State) (c : Nat) (x : Ctx) : (s.setCtx c x).ctx c = x := by simp [State.ctx]

@[simp] theorem setCtx_setCtx (s : State) (c : Nat) (x y : Ctx) : (s.setCtx c x).setCtx c y = s.setCtx c y := by
  simp [State.setCtx, Tbl.put_put]

section Switches

variable {s : State} {c : Nat}

/-- Issue stops for a context that still stands on the core (R60). -/
theorem stopIssue_new {x : Nat} (hin : (s.ctx x).outCores.contains c = false) :
    s.stopIssue x c = s.modCtx x fun k => { k with outCores := k.outCores ++ [c], sliceStart := k.sliceStart.drop c } := by
  simp only [State.stopIssue, State.modCtx, hin, Bool.false_eq_true, if_false]

theorem timeSliceEnd_stops (hover : s.sliceOver s.ev.ctx s.ev.core = true) (hteams : s.outTeams s.ev.ctx s.ev.core ≠ []) :
    exec .timeSliceEnd s = .next (s.stopIssue s.ev.ctx s.ev.core) :=
  congrArg Host.Outcome.next (if_pos ⟨hover, by simpa using hteams⟩)

/-- A switch-out where teams leave: they are saved once all are quiet (R60). -/
theorem switchOut_teams {x : Nat} (hteams : s.outTeams x c ≠ []) :
    let ts := s.outTeams x c
    let u := (s.stopIssue x c).readLists ts
    s.switchOut x c = if ts.all u.teamQuiet then
        (ts.foldl (fun s h => s.saveTeam h false) ((distinct (ts.flatMap fun h => ((u.team? h).map Team.cores).getD [])).foldl
          State.matDrain u)).noneResident x
      else u :=
  if_neg (by simpa using hteams)

theorem switchOut_leaves (hdraining : (s.core s.ev.core).draining = false) (hmust : s.mustLeave s.ev.core = [])
    (hout : (s.ctx s.ev.ctx).outCores.contains s.ev.core = true ∨ s.parkedNow s.ev.ctx s.ev.core = true) :
    exec .switchOut s = .next (s.switchOut s.ev.ctx s.ev.core) := by
  show execSwitchOut s = _
  simp only [execSwitchOut, hdraining, hmust, List.isEmpty_nil, Bool.not_true, Bool.or_false, Bool.false_eq_true, if_false, if_pos hout]

theorem switchIn_returns (hst : (s.ctx s.ev.ctx).st = .active ∨ (s.ctx s.ev.ctx).st = .switchedOut)
    (hout : (s.ctx s.ev.ctx).outCores.contains s.ev.core = true) (hteams : s.outTeams s.ev.ctx s.ev.core = []) :
    exec .switchIn s = .next (s.switchIn s.ev.ctx s.ev.core) :=
  congrArg Host.Outcome.next (if_pos ⟨hst, hout, by simp [hteams]⟩)

end Switches

/-! #### CTXD0 (R257) -/

section Contexts

variable {s : State} {c : Nat} {v : DWord}

theorem setD0_free {x : Ctx} (hst : x.st = .free) : x.setD0 v.toNat = { x with
    rngkey := v.extractLsb' 32 32, slice := (v.extractLsb' 16 16).toNat, priv := v.getLsbD 6, prio := (v.extractLsb' 4 2).toNat } := by
  simp only [Ctx.setD0, if_pos hst, bits_toNat, BitVec.ofNat_toNat, BitVec.setWidth_eq]
  rfl

/-- RNGKEY is written in a Free context only. -/
theorem setD0_held {x : Ctx} (hst : x.st ≠ .free) : x.setD0 v.toNat = { x with
    slice := (v.extractLsb' 16 16).toNat, priv := v.getLsbD 6, prio := (v.extractLsb' 4 2).toNat } := by
  simp only [Ctx.setD0, if_neg hst, bits_toNat]
  rfl

theorem ctxCmd_toNat : ctxCmd v.toNat = (v.extractLsb' 8 2).toNat := bits_toNat v 9 8

theorem and_ctxd0Res (h10 : v.extractLsb' 10 6 = 0) (h7 : v.getLsbD 7 = false) (h2 : v.extractLsb' 2 2 = 0) :
    v.toNat &&& ctxd0Res = 0 := by
  have hmasks : ctxd0Res = (maskOf 15 10 ||| maskOf 7 7) ||| maskOf 3 2 := by decide
  rw [hmasks]
  exact and_or_eq_zero (and_or_eq_zero (and_maskOf_of_extractLsb' 15 10 h10) (and_maskOf_of_getLsbD h7)) (and_maskOf_of_extractLsb' 3 2 h2)

/-- A command in CTXD0 that no check stops acts (R257, R446). -/
theorem ctxCommand_acts {cmd : Nat} (hport : s.ev.hport < 2) (hdie : s.dieAnswers 8 (0x20000 + 0x10 * s.ev.ctx) = true)
    (hctx : s.ev.ctx < 64) (hres : s.ev.v.toNat &&& ctxd0Res = 0) (hcmd : ctxCmd s.ev.v.toNat = cmd) :
    s.ctxCommand cmd = s.ctxd0Put s.ev.ctx s.ev.v.toNat :=
  (if_pos ⟨hctx, hcmd⟩).trans (windowWrite_of_dieAnswers hport hdie hres)

theorem createCtx_free (hst : (s.ctx c).st = .free) :
    s.createCtx c = { (s.modCtx c fun x => { x with st := .active }) with fslots := s.fslots.drop c } :=
  if_pos hst

theorem ctxd0Put_creates (hcmd : ctxCmd v.toNat = 1) (hst : (s.ctx c).st = .free) :
    s.ctxd0Put c v.toNat = { (s.modCtx c fun x => { x with
      st := .active, rngkey := v.extractLsb' 32 32, slice := (v.extractLsb' 16 16).toNat, priv := v.getLsbD 6
      prio := (v.extractLsb' 4 2).toNat }) with fslots := s.fslots.drop c } := by
  have hput : s.ctxd0Put c v.toNat = (s.modCtx c fun x => x.setD0 v.toNat).createCtx c := if_pos hcmd
  have hfree : ((s.modCtx c fun x => x.setD0 v.toNat).ctx c).st = .free := by
    rw [State.modCtx_eq, ctx_setCtx_self]; exact hst
  rw [hput, createCtx_free hfree]
  simp [setD0_free hst]

/-- What the destruction of a context leaves of it and of its reservations (R257, R259). -/
theorem destroyCtx_frees (hst : (s.ctx c).st = .faulted ∨ ((s.ctx c).st = .active ∧ ∀ e ∈ s.teams, e.2.ctx = c → e.2.resident = false)) :
    let u := ((((s.stopContext c).launches.filter fun e => e.2.ctx == c).map (·.1)).foldl State.retireLaunch (s.stopContext c))
    s.destroyCtx c = (u.ctx c).rsvs.foldl (fun s q => (s.modQueue q fun d => { d with rsvs := d.rsvs - 1 }).freeSlot q)
      (u.modCtx c fun x => { x with st := .free, tdm := 0, sliceStart := [], outCores := [], cameParked := [], rsvs := [] }) := by
  refine if_pos (hst.imp_right fun hactive => ⟨hactive.1, ?_⟩)
  simpa using hactive.2

theorem ctxd0Put_destroys (hcmd : ctxCmd v.toNat = 2) (hst : (s.ctx c).st ≠ .free) :
    s.ctxd0Put c v.toNat = (s.modCtx c fun x => { x with
      slice := (v.extractLsb' 16 16).toNat, priv := v.getLsbD 6, prio := (v.extractLsb' 4 2).toNat }).destroyCtx c := by
  have hput : s.ctxd0Put c v.toNat = (s.modCtx c fun x => x.setD0 v.toNat).destroyCtx c := by
    rw [State.ctxd0Put, if_neg (by omega), if_pos hcmd]
  rw [hput, State.modCtx_eq, setD0_held hst, State.modCtx_eq]

end Contexts

/-! #### A queue's registers (R256) -/

section Registers

variable {s : State} {n : Nat} {v : DWord}

theorem and_eqctlRes (h45 : v.extractLsb' 45 19 = 0) (h27 : v.extractLsb' 27 5 = 0) (h1 : v.extractLsb' 1 19 = 0) :
    v.toNat &&& eqRes 0 = 0 := by
  have hmasks : eqRes 0 = (maskOf 63 45 ||| maskOf 31 27) ||| maskOf 19 1 := by decide
  rw [hmasks]
  exact and_or_eq_zero (and_or_eq_zero (and_maskOf_of_extractLsb' 63 45 h45) (and_maskOf_of_extractLsb' 31 27 h27))
    (and_maskOf_of_extractLsb' 19 1 h1)

theorem and_eqbaseRes (h52 : v.extractLsb' 52 12 = 0) (h0 : v.extractLsb' 0 7 = 0) : v.toNat &&& eqRes 1 = 0 := by
  have hmasks : eqRes 1 = maskOf 63 52 ||| maskOf 6 0 := by decide
  rw [hmasks]
  exact and_or_eq_zero (and_maskOf_of_extractLsb' 63 52 h52) (and_maskOf_of_extractLsb' 6 0 h0)

theorem and_eqstatRes (h36 : v.extractLsb' 36 28 = 0) (h29 : v.extractLsb' 29 3 = 0) (h13 : v.extractLsb' 13 3 = 0) :
    v.toNat &&& eqRes 2 = 0 := by
  have hmasks : eqRes 2 = (maskOf 63 36 ||| maskOf 31 29) ||| maskOf 15 13 := by decide
  rw [hmasks]
  exact and_or_eq_zero (and_or_eq_zero (and_maskOf_of_extractLsb' 63 36 h36) (and_maskOf_of_extractLsb' 31 29 h29))
    (and_maskOf_of_extractLsb' 15 13 h13)

/-- A write of a queue's register that no check stops acts (R256, R446). -/
theorem eqctlWrite_acts {i : Nat} (hport : s.ev.hport < 2)
    (hdie : s.dieAnswers (8 + s.ev.q / 512) (0x10000 + 0x20 * (s.ev.q % 512) + 8 * i) = true) (hq : s.ev.q < 1024)
    (hidx : s.ev.idx = i) (hi : i < 3) (hres : s.ev.v.toNat &&& eqRes i = 0) :
    exec .eqctlWrite s = .next (s.eqPut i s.ev.q s.ev.v.toNat) := by
  subst hidx
  exact congrArg Host.Outcome.next ((if_pos ⟨hq, hi⟩).trans (windowWrite_of_dieAnswers hport hdie hres))

theorem eqctlPut_disabled (hen : (s.queue n).en = false) (hpos : 0 < (v.extractLsb' 32 13).toNat)
    (hmax : (v.extractLsb' 32 13).toNat ≤ 4096) :
    s.eqctlPut n v.toNat = s.setQueue n { (s.queue n) with
      size := (v.extractLsb' 32 13).toNat, xpost := v.getLsbD 26, ctx := (v.extractLsb' 20 6).toNat, en := v.getLsbD 0 } := by
  have hsize : bits v.toNat 44 32 = (v.extractLsb' 32 13).toNat := bits_toNat v 44 32
  have hctx : bits v.toNat 25 20 = (v.extractLsb' 20 6).toNat := bits_toNat v 25 20
  have hbit : ∀ k, bitOf v.toNat k = v.getLsbD k := fun _ => rfl
  have hok : ¬ (4096 < (v.extractLsb' 32 13).toNat ∨ ((v.extractLsb' 32 13).toNat = 0 ∧ v.getLsbD 0 = true)) := by omega
  simp only [State.eqctlPut, hen, hsize, hctx, hbit, Bool.false_eq_true, if_false, if_neg hok, Bool.or_false, Bool.false_and]

theorem eqbasePut_disabled (hen : (s.queue n).en = false) (h0 : v.extractLsb' 0 7 = 0) :
    s.eqbasePut n v.toNat = s.setQueue n { (s.queue n) with base := v.toNat } := by
  simp only [State.eqbasePut, State.modQueue, hen, Bool.false_eq_true, if_false, alignDown_of_extractLsb' h0]

theorem eqstatPut_clears : s.eqstatPut n v.toNat = s.setQueue n { (s.queue n) with
    err := (s.queue n).err &&& (15 - (v.extractLsb' 32 4).toNat) } := by
  rw [State.eqstatPut, State.modQueue_eq, bits_toNat]

end Registers

/-! #### The host's postings (R263, R448) -/

section Postings

variable {s : State}

theorem takesPosts_iff {n : Nat} : s.takesPosts n = true ↔ n < 1024 ∧ (s.queue n).en = true ∧ (s.ctx (s.queue n).ctx).st ≠ .free := by
  simp [State.takesPosts, Nat.lt_succ_iff, and_assoc]

/-- A queue that is disabled, or whose context is Free, takes no posting (log 76). -/
theorem takesPosts_eq_false {n : Nat} (h : (s.queue n).en = false ∨ (s.ctx (s.queue n).ctx).st = .free) : s.takesPosts n = false := by
  rw [Bool.eq_false_iff, Ne, takesPosts_iff]
  rintro ⟨-, hen, hst⟩
  exact h.elim (by simp [hen]) hst

theorem length_overlayAt (old new : List Byte) (pos : Nat) : (overlayAt old pos new).length = old.length := by
  simp only [overlayAt, upTo, List.length_map, List.length_range]

theorem getElem_overlayAt (old new : List Byte) (pos i : Nat) (hi : i < (overlayAt old pos new).length) :
    (overlayAt old pos new)[i] = if pos ≤ i ∧ i < pos + new.length then new.getD (i - pos) 0 else old.getD i 0 := by
  simp only [overlayAt, upTo, List.getElem_map, List.getElem_range]

/-- Bytes laid over the end of a list replace it. -/
theorem overlayAt_end {old new : List Byte} {pos : Nat} (h : old.length = pos + new.length) :
    overlayAt old pos new = old.take pos ++ new := by
  have htake : (old.take pos).length = pos := List.length_take_of_le (by omega)
  refine List.ext_getElem (by rw [length_overlayAt, List.length_append, htake, h]) fun i hi _ => ?_
  have hold : i < old.length := by rwa [length_overlayAt] at hi
  rw [getElem_overlayAt]
  by_cases hpos : i < pos
  · rw [if_neg (by omega), List.getElem_append_left (by rw [htake]; exact hpos), List.getElem_take,
      List.getD_eq_getElem?_getD, List.getElem?_eq_getElem hold, Option.getD_some]
  · have hnew : i - pos < new.length := by omega
    rw [if_pos (by omega), List.getElem_append_right (by rw [htake]; omega), List.getD_eq_getElem?_getD]
    simp only [htake, List.getElem?_eq_getElem hnew, Option.getD_some]

theorem hresRead_taken (hport : s.ev.hport < 2) (htakes : s.takesPosts s.ev.q = true) :
    let q := s.queue s.ev.q
    exec .hresRead s = .next
      (if q.hostRsv.contains s.ev.hport then s.hostReply s.ev.hport 1
      else if 0 < q.free then (s.setQueue s.ev.q { q with hostRsv := q.hostRsv ++ [s.ev.hport] }).hostReply s.ev.hport 1
      else s.hostReply s.ev.hport 0) := by
  have hq := (takesPosts_iff.1 htakes).1
  have hhere : ¬ (2 ≤ s.ev.hport ∨ 1024 ≤ s.ev.q) := by omega
  show execHresRead s = _
  simp only [execHresRead, if_neg hhere, htakes, Bool.not_true, Bool.false_eq_true, if_false]

theorem hresRead_barred (hport : s.ev.hport < 2) (hq : s.ev.q < 1024) (htakes : s.takesPosts s.ev.q = false) :
    exec .hresRead s = .next ((s.hostBarred s.ev.hport s.ev.q).hostReply s.ev.hport 0) := by
  have hhere : ¬ (2 ≤ s.ev.hport ∨ 1024 ≤ s.ev.q) := by omega
  show execHresRead s = _
  simp only [execHresRead, if_neg hhere, htakes, Bool.not_false, if_true]

/-- A posting that is barred leaves its port's buffer cleared (R448). -/
theorem hostPost_barred (hport : s.ev.hport < 2) (hq : s.ev.q < 1024) (htakes : s.takesPosts s.ev.q = false) :
    exec .hostPost s = .next ((s.modHPort s.ev.hport fun x => { x with bufs := x.bufs.drop s.ev.q }).hostBarred s.ev.hport s.ev.q) := by
  have hhere : ¬ (2 ≤ s.ev.hport ∨ 1024 ≤ s.ev.q) := by omega
  have hshut : ∀ f, (s.modHPort s.ev.hport f).takesPosts s.ev.q = false := fun _ => htakes
  show execHostPost s = _
  simp only [execHostPost, if_neg hhere, hshut, Bool.not_false, if_true]

/-- Where the queue takes postings, the record `b` of the port's buffer is judged in the state `u` that has the buffer cleared: its cause
is stored, or it is posted under the port's reservation (R263, R448). -/
theorem hostPost_taken {u : State} {b : List Byte} (hport : s.ev.hport < 2) (htakes : s.takesPosts s.ev.q = true)
    (hlen : ((s.hport s.ev.hport).buf s.ev.q).length = 128)
    (hu : u = s.modHPort s.ev.hport fun x => { x with bufs := x.bufs.drop s.ev.q })
    (hb : b = ((s.hport s.ev.hport).buf s.ev.q).take 0x78 ++ toBytes 8 s.ev.v.toNat) :
    (∀ k, u.rejectCause s.ev.q none b (!(s.queue s.ev.q).hostRsv.contains s.ev.hport) = some k →
      exec .hostPost s = .next (u.modQueue s.ev.q fun q => { q with err := k }))
    ∧ (u.rejectCause s.ev.q none b (!(s.queue s.ev.q).hostRsv.contains s.ev.hport) = none →
      exec .hostPost s = .next (u.modQueue s.ev.q fun q =>
        { q with hostRsv := q.hostRsv.filter (· != s.ev.hport), posts := q.posts ++ [u.post none b true] })) := by
  have hq := (takesPosts_iff.1 htakes).1
  have hhere : ¬ (2 ≤ s.ev.hport ∨ 1024 ≤ s.ev.q) := by omega
  have hrow : exec .hostPost s = execHostPost s := rfl
  have hopen : u.takesPosts s.ev.q = true := by rw [hu]; exact htakes
  have hqueue : u.queue s.ev.q = s.queue s.ev.q := by rw [hu]; rfl
  have hrecord : overlayAt ((s.hport s.ev.hport).buf s.ev.q) 0x78 (toBytes 8 s.ev.v.toNat) = b := hb ▸ overlayAt_end hlen
  refine ⟨fun k hcause => ?rejected, fun hcause => ?accepted⟩
  all_goals
    rw [hrow]
    simp only [execHostPost, if_neg hhere, hrecord, ← hu, hopen, hqueue, hcause, Bool.not_true, Bool.false_eq_true, if_false]
  case accepted => rw [State.modQueue_eq, hqueue]

end Postings

/-- Settles O35: each row by the lemma that says what it leaves. -/
theorem contextsAndQueues : Obligations.ContextsAndQueues := by
  refine ⟨⟨?slice, ?out, ?back, ?create, ?destroy⟩, ?eqctl, ?eqbase, ?eqstat, ?hres, ?post, ?barred⟩
  case slice =>
    intro s hover hteams hin
    rw [timeSliceEnd_stops hover hteams, stopIssue_new hin]
  case out =>
    intro s hdraining hmust hout hteams
    rw [switchOut_leaves hdraining hmust hout, switchOut_teams hteams]
  case back => exact fun s hst hout hteams => switchIn_returns hst hout hteams
  case create =>
    intro s hport hdie hctx h10 h7 h2 hcmd hst
    have hcmd : ctxCmd s.ev.v.toNat = 1 := by rw [ctxCmd_toNat, hcmd]; rfl
    exact congrArg Host.Outcome.next
      ((ctxCommand_acts hport hdie hctx (and_ctxd0Res h10 h7 h2) hcmd).trans (ctxd0Put_creates hcmd hst))
  case destroy =>
    intro s hport hdie hctx h10 h7 h2 hcmd hst
    have hcmd : ctxCmd s.ev.v.toNat = 2 := by rw [ctxCmd_toNat, hcmd]; rfl
    have hheld : (s.ctx s.ev.ctx).st ≠ .free := by rcases hst with h | ⟨h, -⟩ <;> simp [h]
    refine congrArg Host.Outcome.next ((ctxCommand_acts hport hdie hctx (and_ctxd0Res h10 h7 h2) hcmd).trans
      ((ctxd0Put_destroys hcmd hheld).trans (destroyCtx_frees ?_)))
    rw [State.modCtx_eq, ctx_setCtx_self]
    exact hst
  case eqctl =>
    intro s hport hdie hq hidx h45 h27 h1 hen hpos hmax
    exact (eqctlWrite_acts (i := 0) hport hdie hq hidx (by decide) (and_eqctlRes h45 h27 h1)).trans
      (congrArg Host.Outcome.next (eqctlPut_disabled hen hpos hmax))
  case eqbase =>
    intro s hport hdie hq hidx h52 h0 hen
    exact (eqctlWrite_acts (i := 1) hport hdie hq hidx (by decide) (and_eqbaseRes h52 h0)).trans
      (congrArg Host.Outcome.next (eqbasePut_disabled hen h0))
  case eqstat =>
    intro s hport hdie hq hidx h36 h29 h13
    exact (eqctlWrite_acts (i := 2) hport hdie hq hidx (by decide) (and_eqstatRes h36 h29 h13)).trans
      (congrArg Host.Outcome.next eqstatPut_clears)
  case hres => exact fun s hport hq hen hst => hresRead_taken hport (takesPosts_iff.2 ⟨hq, hen, hst⟩)
  case post =>
    intro s hport hq hen hst b hlen u
    obtain ⟨hrejected, haccepted⟩ := hostPost_taken (u := u) (b := b) hport (takesPosts_iff.2 ⟨hq, hen, hst⟩) hlen rfl rfl
    split
    · next k hk => exact hrejected k hk
    · next hk => exact haccepted hk
  case barred =>
    intro s hport hq hshut
    have htakes := takesPosts_eq_false hshut
    exact ⟨hresRead_barred hport hq htakes, hostPost_barred hport hq htakes⟩

end Sys2Proof.Machine
end

section
/-! ### Control flow, regions and filing (R154 to R165)

Each meaning is written over `runLanes`, so a statement about it is about its effect on one lane. -/

namespace Sys2Proof.Machine

open Sys2Proof.Say

theorem lenB_eq (b : SrcB) : lenB b = lenOfB b := by cases b <;> rfl

/-- The effect of SLEEP on a lane: filed at once for a count of 0, else a window that waits out the count (R164). -/
theorem sleep_lane (h : Hdr) (b : SrcB) (team : Nat) (tm : Team) (tid : Nat) (t : Thread) (s : State) :
    (if (bVal tm t b).toNat = 0 then (s.unsched team tid).file team tid 0
      else s.takeId.2.openWait team tid (mkWin h s.takeId.1 .engine t.pc [] false) (.sleep (s.clk + (bVal tm t b).toNat))) =
    (if bVal tm t b = 0 then (s.unsched team tid).file team tid 0
      else
        let w := window s h t .engine false [] (some (.sleep (s.clk + (bVal tm t b).toNat)))
        if h.la = 0 then parks (opens s team tid w) team tid 5 else opens s team tid w) := by
  have hcount : (bVal tm t b).toNat = 0 ↔ bVal tm t b = 0 := by simp [BitVec.toNat_eq]
  have hla : h.la.toNat = 0 ↔ h.la = 0 := by simp [BitVec.toNat_eq]
  simp only [hcount]
  split
  · rfl
  · simp only [State.openWait, mkWin, hla]
    rfl

/-- Settles O23: every effect on a lane is the meaning's own, and SLEEP's is `sleep_lane`. -/
theorem regionsAndFiling : Obligations.RegionsAndFiling := by
  refine ⟨?rgn, ?reform, ?yield, ?sleep, ?exit⟩
  case rgn => exact fun h => onLanes_of none none (fun s => show exec _ s = execRgn h s from rfl) (fun _ => rfl) fun _ _ _ _ _ _ => rfl
  case reform => exact fun h => onLanes_of none none (fun s => show exec _ s = execReform h s from rfl) (fun _ => rfl) fun _ _ _ _ _ _ => rfl
  case yield => exact fun h => onLanes_of none none (fun s => show exec _ s = execYield h s from rfl) (fun _ => rfl) fun _ _ _ _ _ _ => rfl
  case sleep =>
    intro h b
    rw [← lenB_eq]
    exact onLanes_of none none (fun s => show exec _ s = execSleep h b s from rfl) (fun _ => rfl) fun _ team tm tid t s =>
      sleep_lane h b team tm tid t s
  case exit => exact fun h => onLanes_of none none (fun s => show exec _ s = execExit h s from rfl) (fun _ => rfl) fun _ _ _ _ _ _ => rfl

end Sys2Proof.Machine
end

section
/-! ### CALL and the hood (R48, R158)

CALL's frame also ends what system software's writes left unspecified in its bytes of the hood (R48; log 62), which the statement about it
leaves out. -/

namespace Sys2Proof.Machine

open Sys2Proof.Say

/-- The sequencer's moves change no team. -/
theorem State.SeqOnly.team? {s t : State} (h : s.SeqOnly t) (team : Nat) : t.team? team = s.team? team :=
  team?_of_teams (by rw [h.1]) team

/-- A team of one thread whose frame 0 system software has written a byte of (R48). -/
def upsetTeam : Team := { placedTeam with upset := [placedLaunch.callBase] }

/-- The placed program (log 2) with that team, its group executing. -/
def upsetState : State :=
  { State.reset.withFetchWord 32 0x7012 with teams := [(0, upsetTeam)], issueQ := [], cur := some (0, 0) }

theorem upsetState_ready : upsetState.Ready 0 0 placedGroup upsetTeam bare [] :=
  ⟨by decide +kernel, nofun, by decide +kernel⟩

/-- CALL to 0x1E0 writes frame 0, and nothing of the hood is left unspecified. -/
theorem call_mends_upsetState {t : State} (h : exec (.call bare 0x1E0) upsetState = .next t) :
    (t.team? 0).map Team.upset = some [] := by
  have hrun : (match exec (.call bare 0x1E0) upsetState with
    | .next t => (t.team? 0).map Team.upset
    | _ => none) = some [] := by decide +kernel
  rwa [h] at hrun

/-- Refutes O22: its clause for CALL leaves the team as it was, and the frame that CALL writes over bytes that system software has written
ends that these are unspecified (R48; log 62). -/
theorem not_controlFlow : ¬ Obligations.ControlFlow := by
  intro ⟨_, hcall, _⟩
  obtain ⟨t, ht, hseq⟩ := hcall bare 0x1E0 upsetState 0 0 placedGroup upsetTeam upsetState_ready nofun
  have hkept : (t.team? 0).map Team.upset = some [placedLaunch.callBase] :=
    (congrArg (Option.map Team.upset) (hseq.team? 0)).trans (by decide +kernel)
  rw [call_mends_upsetState ht] at hkept
  exact absurd hkept (by decide)

end Sys2Proof.Machine
end

section
/-! ### Traps (R94 to R96, R166, R167, R169, R170) -/

namespace Sys2Proof.Machine

open Sys2Proof.Say

section Faults

variable {h : Hdr} {len : Nat} {priv : Option DWord} {vs : List VOp} {s : State} {c slot : Nat} {g : Group} {tm : Team}

/-- An operand or a privilege fault is taken by every thread of the group, and the instruction has no other effect (R94, R96). -/
theorem runLive_preFault {a : Option VReg} {f : Nat → Group → Team → List (Nat × Nat × Thread) → State → State} {kind : Nat} {info : DWord}
    (hcur : s.curGroup = some (c, slot, g, tm)) (hfault : preFault tm priv vs (s.ctx tm.ctx).priv = some (kind, info)) :
    Ends (runLive h len priv vs a f s) (s.trapGroup g kind info len) := by
  unfold runLive
  simp only [hcur, hfault]
  exact Ends.settle ..

/-- A destination whose first register reaches NREG faults with that register (R39, R166; log 11). -/
theorem preFault_range {d : VReg} {n : Nat} {p : Bool} (hout : tm.lr.nreg ≤ d.toNat) (hn : 0 < n) :
    preFault tm priv [vW d n] p = some (kRegisterRange, BitVec.ofNat 64 d.toNat) := by
  have hfind : ([vW d n].find? fun v => decide (tm.lr.nreg < v.reg + v.n)) = some (vW d n) := by simp [vW]; omega
  have hmax : max (vW d n).reg tm.lr.nreg = d.toNat := Nat.max_eq_left hout
  unfold preFault
  rw [hfind]
  simp only [hmax]

/-- Operands below NREG leave the privilege to be judged (R79, R94). -/
theorem preFault_privilege {i : DWord} (hin : ∀ v ∈ vs, v.reg + v.n ≤ tm.lr.nreg) :
    preFault tm (some i) vs false = some (kPrivilege, i) := by
  have hfind : (vs.find? fun v => decide (tm.lr.nreg < v.reg + v.n)) = none := by
    rw [List.find?_eq_none]
    intro v hv
    simpa using hin v hv
  unfold preFault
  rw [hfind]
  rfl

/-- A pattern that is no instruction traps in every thread of the group (R94 to R96). -/
theorem nonInstructionEncoding_traps (e : EncFault) (len : Nat) (hcur : s.curGroup = some (c, slot, g, tm)) :
    Ends (exec (.nonInstructionEncoding e len) s) (s.trapGroup g (if e = .illegalEncoding then 1 else 2) 0 len) := by
  have hexec : exec (.nonInstructionEncoding e len) s = execNonInstructionEncoding e len s := rfl
  simp only [hexec, execNonInstructionEncoding, hcur]
  cases e <;> exact Ends.settle ..

theorem gets_eq (h : Hdr) (d : VReg) (sel : SReg) (s : State) : exec (.gets h d sel) s = execGets h d sel s := rfl

/-- GETS of a register at or above NREG (R39, R94). -/
theorem gets_range (h : Hdr) {d : VReg} {sel : SReg} (hcur : s.curGroup = some (c, slot, g, tm)) (hout : tm.lr.nreg ≤ d.toNat)
    (hn : 0 < sel.regs) : Ends (exec (.gets h d sel) s) (s.trapGroup g kRegisterRange (BitVec.ofNat 64 d.toNat) 2) := by
  rw [gets_eq, execGets]
  exact runLive_preFault hcur (preFault_range hout hn)

/-- GETS of a privileged register in a context that is not privileged (R79, R94). -/
theorem gets_privilege (h : Hdr) {d : VReg} {sel : SReg} (hcur : s.curGroup = some (c, slot, g, tm)) (hsel : sel.privileged = true)
    (hin : d.toNat + sel.regs ≤ tm.lr.nreg) (hctx : (s.ctx tm.ctx).priv = false) :
    Ends (exec (.gets h d sel) s) (s.trapGroup g kPrivilege (sel.code.setWidth 64) 2) := by
  have hfault : preFault tm (selPriv sel) [vW d sel.regs] (s.ctx tm.ctx).priv = some (kPrivilege, sel.code.setWidth 64) := by
    rw [selPriv, if_pos hsel, hctx]
    exact preFault_privilege (by simpa [vW] using hin)
  rw [gets_eq, execGets]
  exact runLive_preFault hcur hfault

end Faults

/-- TRAP, TRAP.rgn and BKPT: each live thread takes the trap of the instruction's kind, with operand B as INFO (R169). -/
theorem onLanes_of_runTrap {i : Instr} {kind : Nat} {h : Hdr} {b : SrcB} (hx : ∀ s, exec i s = runTrap kind h b s) :
    OnLanes i h (lenOfB b) false (srcOps b) fun _ team tm tid t s =>
      s.takeTrap team tid { kind := kind, info := (bVal tm t b).setWidth 64, pc := t.pc, len := lenOfB b, seq := s.nextId } := by
  rw [← lenB_eq]
  exact onLanes_of none none (fun s => (hx s).trans (runTrap.eq_1 ..)) (fun _ => rfl) fun _ _ _ _ _ _ => rfl

/-- Settles O24: the checks before the guard by `preFault`, the three instructions by their effect on a lane. -/
theorem traps : Obligations.Traps := by
  refine ⟨⟨?encoding, ?range, ?privilege⟩, ?trap, ?trapRgn, ?bkpt⟩
  case encoding => exact fun e len s c slot g tm hcur => nonInstructionEncoding_traps e len hcur
  case range => exact fun h d s c slot g tm hcur hout => gets_range h hcur hout (by decide)
  case privilege => exact fun h d sel s c slot g tm hcur hsel hin hctx => gets_privilege h hcur hsel hin hctx
  case trap => exact fun h b => onLanes_of_runTrap fun s => show exec _ s = execTrap h b s from rfl
  case trapRgn => exact fun h b => onLanes_of_runTrap fun s => show exec _ s = execTrapRgn h b s from rfl
  case bkpt => exact fun h b => onLanes_of_runTrap fun s => show exec _ s = execBkpt h b s from rfl

section Delivery

variable {s : State} {team tid : Nat} {tm : Team} {t : Thread} {x : Trap}

/-- A trap with nothing earlier outstanding is delivered once both frames of its pair are written (R167). -/
theorem deliverTrap_enters {s1 s2 : State} (htm : s.team? team = some tm) (ht : s.thread? team tid = some t) (hx : t.trap = some x)
    (hwins : t.wins = []) (htvec : tm.lr.tvec ≠ 0) (hroom : t.csp + 2 ≤ tm.lr.calld)
    (hsave : s.setFrame tm tid t.csp (saveFrame t) = (true, s1))
    (htrap : s1.setFrame tm tid (t.csp + 1) (trapFrame x) = (true, s2)) :
    s.deliverTrap team tid = (s2.modThread team tid fun u =>
      ({ u with csp := u.csp + 2, pc := BitVec.ofNat 55 tm.lr.tvec, trap := none, pfva := none, wait := 0, entry := none }
        : Thread).startEntry (BitVec.ofNat 55 tm.lr.tvec)).file team tid 0 := by
  have hhandled : ¬ (tm.lr.tvec = 0 ∨ tm.lr.calld < t.csp + 2) := by omega
  -- `write` is `State.setFrame` by name alone: what it does is of no account here.
  obtain ⟨write, hwrite⟩ : ∃ write, State.setFrame = write := ⟨_, rfl⟩
  rw [hwrite] at hsave htrap
  rw [State.deliverTrap, hwrite]
  simp [htm, ht, hx, hwins, if_neg hhandled, hsave, htrap]

/-- With no handler, or no room for the pair, the context faults (R167). -/
theorem deliverTrap_faults (htm : s.team? team = some tm) (ht : s.thread? team tid = some t) (hx : t.trap = some x)
    (hwins : t.wins = []) (hunhandled : tm.lr.tvec = 0 ∨ tm.lr.calld < t.csp + 2) :
    s.deliverTrap team tid = s.contextFault tm.ctx (s.threadRec 0x01 team tid x.pc x.info.toNat x.kind 0) := by
  obtain ⟨write, hwrite⟩ : ∃ write, State.setFrame = write := ⟨_, rfl⟩
  rw [State.deliverTrap, hwrite]
  simp [htm, ht, hx, hwins, if_pos hunhandled]

end Delivery

/-- Settles O25: the row delivers the thread's trap. -/
theorem trapDelivery : Obligations.TrapDelivery := by
  have hrow (s : State) : exec .trapDelivery s = .next (s.deliverTrap s.ev.team s.ev.tid) := rfl
  refine ⟨?entered, ?faulted⟩
  case entered =>
    intro s tm t x s1 s2 htm ht hx hwins htvec hroom hsave htrap
    rw [hrow, deliverTrap_enters htm ht hx hwins htvec hroom hsave htrap]
  case faulted =>
    intro s tm t x htm ht hx hwins hunhandled
    rw [hrow, deliverTrap_faults htm ht hx hwins hunhandled]

end Sys2Proof.Machine
end

section
/-! ### Frames of the call stack and returns from traps (R156, R167, R170) -/

namespace Sys2Proof.Machine

open Sys2Proof.Say

section Frames

/-- The number that a save frame holds (R156). -/
theorem saveFrame_toNat (t : Thread) : (saveFrame t).toNat = b2n t.frec * 2 ^ 95 + t.rngent.toNat * 2 ^ 55 + t.rpc.toNat := by
  have hfrec : b2n t.frec ≤ 1 := by cases t.frec <;> decide
  have hent := t.rngent.isLt
  have hrpc := t.rpc.isLt
  rw [saveFrame, BitVec.toNat_ofNat, Nat.mod_eq_of_lt (by omega)]

/-- The number that a trap frame holds (R156). -/
theorem trapFrame_toNat {x : Trap} (hkind : x.kind < 128) (hlen : x.len < 4) :
    (trapFrame x).toNat = x.info.toNat * 2 ^ 64 + x.kind * 2 ^ 57 + x.len * 2 ^ 55 + x.pc.toNat := by
  have hinfo := x.info.isLt
  have hpc := x.pc.isLt
  rw [trapFrame, BitVec.toNat_ofNat, Nat.mod_eq_of_lt hkind, Nat.mod_eq_of_lt hlen, Nat.mod_eq_of_lt (by omega)]

theorem bits_eq (x hi lo : Nat) : bits x hi lo = x / 2 ^ lo % 2 ^ (hi + 1 - lo) := by rw [bits, Nat.shiftRight_eq_div_pow]

/-- A field of a frame, as a number. -/
theorem extractLsb'_eq_iff {w n : Nat} {f : BitVec w} {lo : Nat} {y : BitVec n} :
    f.extractLsb' lo n = y ↔ f.toNat / 2 ^ lo % 2 ^ n = y.toNat := by
  rw [← BitVec.toNat_inj, BitVec.extractLsb'_toNat, Nat.shiftRight_eq_div_pow]

theorem frameKind_eq (f : BitVec 128) : frameKind f = f.toNat / 2 ^ 57 % 2 ^ 7 := bits_eq ..

theorem frameKind_eq_zero_iff (f : BitVec 128) : frameKind f = 0 ↔ f.extractLsb' 57 7 = 0 := by
  rw [extractLsb'_eq_iff, frameKind_eq]; rfl

section Save

variable (t : Thread)

theorem saveFrame_rpc : (saveFrame t).extractLsb' 0 55 = t.rpc := by
  have hrpc := t.rpc.isLt
  rw [extractLsb'_eq_iff, saveFrame_toNat]; omega

theorem saveFrame_rngent : (saveFrame t).extractLsb' 55 40 = t.rngent := by
  have hent := t.rngent.isLt
  have hrpc := t.rpc.isLt
  rw [extractLsb'_eq_iff, saveFrame_toNat]; omega

theorem saveFrame_frec : (saveFrame t).getLsbD 95 = t.frec := by
  have hent := t.rngent.isLt
  have hrpc := t.rpc.isLt
  have hbit : (saveFrame t).toNat / 2 ^ 95 = b2n t.frec := by rw [saveFrame_toNat]; omega
  rw [BitVec.getLsbD, Nat.testBit_eq_decide_div_mod_eq, hbit]
  cases t.frec <;> rfl

theorem saveFrame_high : (saveFrame t).extractLsb' 96 32 = 0 := by
  have hfrec : b2n t.frec ≤ 1 := by cases t.frec <;> decide
  have hent := t.rngent.isLt
  have hrpc := t.rpc.isLt
  rw [extractLsb'_eq_iff, saveFrame_toNat]
  simp only [BitVec.ofNat_eq_ofNat, BitVec.toNat_ofNat]
  omega

theorem saveFrame_kind : frameKind (saveFrame t) = bits t.rngent.toNat 8 2 := by
  have hrpc := t.rpc.isLt
  rw [frameKind_eq, saveFrame_toNat, bits_eq]; omega

end Save

section TrapFrame

variable {x : Trap} (hkind : x.kind < 128) (hlen : x.len < 4)
include hkind hlen

theorem trapFrame_pc : (trapFrame x).extractLsb' 0 55 = x.pc := by
  have hpc := x.pc.isLt
  rw [extractLsb'_eq_iff, trapFrame_toNat hkind hlen]; omega

theorem trapFrame_len : bits (trapFrame x).toNat 56 55 = x.len := by
  have hpc := x.pc.isLt
  rw [bits_eq, trapFrame_toNat hkind hlen]; omega

theorem trapFrame_kind : frameKind (trapFrame x) = x.kind := by
  have hpc := x.pc.isLt
  rw [frameKind_eq, trapFrame_toNat hkind hlen]; omega

theorem trapFrame_info : (trapFrame x).extractLsb' 64 64 = x.info := by
  have hinfo := x.info.isLt
  have hpc := x.pc.isLt
  rw [extractLsb'_eq_iff, trapFrame_toNat hkind hlen]; omega

end TrapFrame

theorem callFrame_ret (r : Pc) : (callFrame r).extractLsb' 0 55 = r := by
  have hr := r.isLt
  rw [extractLsb'_eq_iff, callFrame, BitVec.toNat_setWidth]; omega

theorem callFrame_kind (r : Pc) : frameKind (callFrame r) = 0 := by
  have hr := r.isLt
  rw [frameKind_eq, callFrame, BitVec.toNat_setWidth]; omega

/-- TRET in each of its forms on the frames that a trap has left (R170). -/
theorem tretTo_of_frames (m : TretMode) (t u : Thread) {x : Trap} (csp : Nat) (hkind : x.kind < 128) (hlen : x.len < 4) :
    u.tretTo m csp (trapFrame x) (saveFrame t) =
      { u with
        pc := match m with
          | .again => if x.kind = 15 then t.rpc else x.pc
          | .skip => x.pc + BitVec.ofNat 55 (4 * x.len)
          | .rgn => t.rpc
        rngctr := match m with
          | .again => if x.kind = 15 then t.rngent else u.rngctr
          | .skip => u.rngctr
          | .rgn => t.rngent
        rpc := t.rpc, rngent := t.rngent, frec := t.frec, csp := csp - 2 } := by
  unfold Thread.tretTo
  simp only [BitVec.setWidth_eq_extractLsb' (by decide : 55 ≤ 128), saveFrame_rpc, saveFrame_rngent, saveFrame_frec, trapFrame_pc hkind hlen,
    trapFrame_len hkind hlen, trapFrame_kind hkind hlen]
  cases m <;> simp

end Frames

/-- Settles O26: the fields of the frames as numbers, and TRET on them. -/
theorem trapFrames : Obligations.TrapFrames := by
  refine ⟨⟨?save, ?trap, ?call⟩, ?tret⟩
  case save => exact fun t => ⟨saveFrame_rpc t, saveFrame_rngent t, saveFrame_frec t, saveFrame_high t, saveFrame_kind t⟩
  case trap =>
    intro x hkind hlen
    have hlength := trapFrame_len hkind hlen
    rw [bits_toNat] at hlength
    exact ⟨trapFrame_pc hkind hlen, hlength, trapFrame_kind hkind hlen, trapFrame_info hkind hlen⟩
  case call => exact fun r => ⟨callFrame_ret r, callFrame_kind r⟩
  case tret =>
    intro t u x csp _ hkind hlen
    exact ⟨tretTo_of_frames .again t u csp hkind hlen, tretTo_of_frames .skip t u csp hkind hlen,
      tretTo_of_frames .rgn t u csp hkind hlen⟩

/-- The TRET forms that leave the handler (R170). -/
theorem runTret_eq (m : TretMode) (h : Hdr) (s : State) : runTret m h s = runLanes h 2 none [] none (fun _ team tm tid t s =>
    s.withPair team tm tid t fun tf sf s => s.modThread team tid fun u => u.tretTo m t.csp tf sf) s := rfl

theorem extractLsb'_extractLsb' {w : Nat} (x : BitVec w) {lo n i m : Nat} (h : i + m ≤ n) :
    (x.extractLsb' lo n).extractLsb' i m = x.extractLsb' (lo + i) m := by
  ext j hj
  simp only [BitVec.getElem_extractLsb', BitVec.getLsbD_extractLsb', show i + j < n by omega, decide_true, Bool.true_and, Nat.add_assoc]

/-- The registers of TRET.rd, word by word (R170). -/
theorem wr64_words (d : Nat) (tf : BitVec 128) : wr64 d (tf.extractLsb' 64 64) ++ wr64 (d + 2) (tf.setWidth 64) =
    [(d, tf.extractLsb' 64 32), (d + 1, tf.extractLsb' 96 32), (d + 2, tf.extractLsb' 0 32), (d + 3, tf.extractLsb' 32 32)] := by
  have hlo (x : DWord) : loW x = x.extractLsb' 0 32 := BitVec.setWidth_eq_extractLsb' (by decide)
  have hhi (x : DWord) : hiW x = x.extractLsb' 32 32 := BitVec.setWidth_ushiftRight_eq_extractLsb
  simp [wr64, hlo, hhi, BitVec.setWidth_eq_extractLsb', extractLsb'_extractLsb']

/-- Settles O27: the pair on top of the stack as the statement takes it, then each form on its frames. -/
theorem trapReturns : Obligations.TrapReturns := by
  unfold Obligations.TrapReturns
  intro pair
  have hpair (k) (c team : Nat) (tm : Team) (tid : Nat) (t : Thread) (s : State) :
      s.withPair team tm tid t (k team tid t) = pair k c team tm tid t s := by
    -- `read` is `State.frameAt` by name alone: what it does is of no account here.
    obtain ⟨read, hread⟩ : ∃ read, State.frameAt = read := ⟨_, rfl⟩
    simp only [pair, State.withPair, frameKind_eq_zero_iff, hread]
    split
    · rfl
    · rcases read s tm tid (t.csp - 1) with ⟨_ | tf, u⟩
      · rfl
      · dsimp only
        split
        · rfl
        · rcases read u tm tid (t.csp - 2) with ⟨_ | sf, v⟩ <;> rfl
  clear_value pair
  have hlanes {i : Instr} {h : Hdr} {vs : List VOp} (k : Nat → Nat → Thread → BitVec 128 → BitVec 128 → State → State)
      (hx : ∀ s, exec i s = runLanes h 2 none vs none (fun _ team tm tid t s => s.withPair team tm tid t (k team tid t)) s) :
      OnLanes i h 2 false vs (pair k) :=
    onLanes_of none none hx (fun _ => rfl) (hpair k)
  refine ⟨?tret, ?skip, ?rgn, ?rd⟩
  case tret => exact fun h => hlanes _ fun s => show exec _ s = execTret h s from rfl
  case skip => exact fun h => hlanes _ fun s => show exec _ s = execTretSkip h s from rfl
  case rgn => exact fun h => hlanes _ fun s => show exec _ s = execTretRgn h s from rfl
  case rd =>
    intro h d
    simp only [← wr64_words]
    exact hlanes _ fun s => show exec _ s = execTretRd h d s from rfl

end Sys2Proof.Machine
end

section
/-! ### Reset (R174, R175, R191 to R193, R256, R257, R390, R405, R430, R442, R447) -/

namespace Sys2Proof.Machine

/-- With nothing listed every byte of memory reads 0, wherever it is served (log 3). -/
theorem peek_of_mem_nil {s : State} (h : s.mem = []) (pa : Nat) : s.peek pa = 0 := by rw [State.peek, h]; rfl

theorem reset_legal : State.reset.Legal := ⟨rfl, by decide⟩

/-- Settles O5: no entry is listed, so that each is its own reset value, and nothing is in memory. -/
theorem resetState : Obligations.ResetState := by
  refine ⟨?core, ?ctx, ?queue, ?die, ?port, rfl, rfl, rfl, rfl, rfl, rfl, rfl, rfl, rfl, reset_legal, peek_of_mem_nil rfl⟩
  case core => exact fun c => ⟨rfl, rfl, rfl, rfl, rfl, rfl, rfl, rfl, rfl, rfl, rfl, rfl⟩
  case ctx => exact fun c => ⟨rfl, rfl, rfl, rfl⟩
  case queue => exact fun q => rfl
  case die => exact fun d => ⟨rfl, rfl, rfl, rfl, rfl, rfl⟩
  case port => exact fun p => ⟨rfl, rfl⟩

end Sys2Proof.Machine
end

section
/-! ### The sequencer's rows in full (R163, R177 to R187) -/

namespace Sys2Proof.Machine

section Rows

variable {s : State}

/-- A ready result of an ALU, a load or an engine reaches its destinations, unless its thread is parked on it (R184, R185). -/
theorem longResult_reaches {team tid id : Nat} {only : Option Nat} {t : Thread} {w : Window} (hhere : s.away team = false)
    (ht : s.thread? team tid = some t) (hwin : t.win? id = some w) (hkind : w.kind = .alu ∨ w.kind = .mem ∨ w.kind = .engine)
    (hparked : t.st = .parked → w.wait = none) :
    s.longResult team tid id only = (s.modThread team tid fun t => t.deliver id only).afterResult team tid := by
  have hgoes : ¬ (t.st = .parked ∧ w.wait.isSome = true) := fun ⟨hst, hwait⟩ => by simp [hparked hst] at hwait
  rcases hkind with hkind | hkind | hkind <;>
    simp only [State.longResult, hhere, ht, Option.bind_some, hwin, Option.map_some, hkind, if_neg hgoes] <;> rfl

/-- Where there is room, the batt that ranks highest has a group drawn from it (R177, R180). -/
theorem card_draws {c n : Nat} {b : Batt} (hdraw : s.battToDraw c (fun _ => true) = some (n, b))
    (hroom : (s.core c).freeSlots ≠ [] ∨ (s.core c).pending.length < 56) :
    s.card c = (s.drawFrom c b).2.modCore c fun k => { k.take (s.drawFrom c b).1 with overdueSince := none } := by
  have hroom : ((s.core c).freeSlots.isEmpty && decide (56 ≤ (s.core c).pending.length)) = false := by
    rcases hroom with h | h
    · simp [h]
    · simp [Nat.not_le.2 h]
  simp only [State.card, hdraw, hroom, Bool.false_eq_true, if_false]

/-- The oldest eligible stray thread is drawn alone, and its group takes slot 7 (R179). -/
theorem strayDraw_draws {b : Batt} {m : Member} {rest : List Member} (hbatt : (s.core s.ev.core).batts.find 63 = some b)
    (hslot : (s.core s.ev.core).active.find 7 = none) (hmembers : b.members.filter (fun m => decide (m.hold ≤ s.clk)) = m :: rest) :
    exec .strayDraw s = .next ((s.formGroup s.ev.core m.team [m] true).2.modCore s.ev.core fun k =>
      { k with active := k.active.put 7 (s.formGroup s.ev.core m.team [m] true).1 }) := by
  have heligible : b.eligible s.clk = m :: rest := hmembers
  show execStrayDraw s = _
  simp only [execStrayDraw, hbatt, hslot, heligible]

theorem issue_walks (hc : s.ev.core < 128) (hclk : s.issueClk s.ev.core = true) : exec .issue s = .next (s.issueWalk s.ev.core) := by
  show execIssue s = _
  simp [execIssue, hc, hclk]

/-- An overdue batt that has waited 16 clk is drawn, and the pending group drawn earliest is filed (R180). -/
theorem overdueDraw_draws {t n : Nat} {g : Group} {rest : List Group} {b : Batt} (hsince : (s.core s.ev.core).overdueSince = some t)
    (hfirst : sortBy (·.drawn) (s.core s.ev.core).pending = g :: rest) (hlate : t + 16 ≤ s.clk)
    (hfree : (s.core s.ev.core).freeSlots = []) (hfull : 56 ≤ (s.core s.ev.core).pending.length)
    (hdraw : s.battToDraw s.ev.core (fun b => b.isOverdue (s.core s.ev.core).ageLimit s.clk) = some (n, b)) :
    exec .overdueDraw s = .next ((((s.drawFrom s.ev.core b).2.modCore s.ev.core fun k =>
      { k with pending := k.pending.filter (· != g) ++ [(s.drawFrom s.ev.core b).1], overdueSince := none }).fileGroup g).strayRoom
        s.ev.core) := by
  have hfirstDrawn : (s.core s.ev.core).firstDrawn = some g := by rw [Core.firstDrawn, hfirst]; rfl
  show execOverdueDraw s = _
  simp [execOverdueDraw, hsince, hfirstDrawn, hlate, hfree, hfull, hdraw]

/-- A swap of the group in a slot with a ready pending one (R181). -/
theorem swap_eq {c slot : Nat} {g p : Group} (hg : (s.core c).active.find slot = some g) (hp : s.readyPending c = some p) :
    s.swap c slot = (s.activate c slot p).modCore c fun k =>
      { k with pending := k.pending ++ [{ g with latch := [], since := (s.activate c slot p).clk, stall := none }] } := by
  simp only [State.swap, hg, hp]

/-- An ordinary group that has stalled for 4 clk, or awaits an instruction with the yield hint, is swapped (R179, R181). -/
theorem stallSwap_due {t : Nat} {g : Group} (hg : (s.core s.ev.core).active.find s.ev.slot = some g) (hstray : g.stray = false)
    (hstall : g.stall = some t) (hdue : t + 4 ≤ s.clk ∨ (s.laneThreads g).any (fun x => x.2.2.yieldHint) = true) :
    exec .stallSwap s = .next (s.swap s.ev.core s.ev.slot) := by
  show execStallSwap s = _
  have hswaps : (!g.stray) = true ∧ (t + 4 ≤ s.clk ∨ (s.laneThreads g).any (fun x => x.2.2.yieldHint) = true) :=
    ⟨by rw [hstray]; rfl, hdue⟩
  simp only [execStallSwap, hg, hstall, if_pos hswaps]

/-- Every 8 clk the ordinary group that has held its slot longest makes place for one that has waited 8 clk (R181). -/
theorem rotationSwap_due {p : Group} {e : Nat × Group} {rest : List (Nat × Group)} (hp : s.readyPending s.ev.core = some p)
    (hlongest : sortBy (fun e => e.2.since) ((s.core s.ev.core).active.filter fun e => !e.2.stray) = e :: rest)
    (hclk : s.clk % 8 = 0) (hdue : p.since + 8 ≤ s.clk) : exec .rotationSwap s = .next (s.swap s.ev.core e.1) := by
  show execRotationSwap s = _
  simp only [execRotationSwap, hp, hlongest, if_pos (And.intro hclk hdue)]

/-- The row of a sleep that has ended ends the wait of the thread's window (R164). -/
theorem sleepEnd_waitDone {t : Thread} {w : Window} (ht : s.thread? s.ev.team s.ev.tid = some t)
    (hw : (t.waiting fun w => match w with
      | .sleep till => decide (till ≤ s.clk)
      | _ => false) = some w) : exec .sleepEnd s = .next (s.waitDone s.ev.team s.ev.tid w.id []) := by
  show execSleepEnd s = _
  simp only [execSleepEnd, ht, Option.bind_some]
  split
  · next v hv => rw [Option.some.inj (hw.symm.trans hv)]
  · next hnone => exact absurd (hw.symm.trans hnone) nofun

end Rows

/-- Settles O50: each row by the lemma that says what it leaves. -/
theorem sequencerRows : Obligations.SequencerRows := by
  refine ⟨?result, ?carding, ?stray, ?issue, ?overdue, ?stall, ?rotation, fun _ => rfl, ?sleep, fun _ => rfl, ?wait⟩
  case result =>
    intro s t w hhere ht hwin hkind hparked
    exact congrArg Host.Outcome.next (longResult_reaches hhere ht hwin hkind hparked)
  case carding =>
    intro s n b u hdraw hroom
    exact congrArg Host.Outcome.next (card_draws hdraw hroom)
  case stray => exact fun s b m rest => strayDraw_draws
  case issue => exact fun s hc hclk => issue_walks hc hclk
  case overdue =>
    intro s t g rest n b hsince hfirst hlate hfree hfull hdraw
    exact overdueDraw_draws hsince hfirst hlate hfree hfull hdraw
  case stall =>
    intro s g t p hg hstray hstall hdue hp
    rw [stallSwap_due hg hstray hstall hdue, swap_eq hg hp]
  case rotation =>
    intro s p e rest g hp hlongest hg hclk hdue
    rw [rotationSwap_due hp hlongest hclk hdue, swap_eq hg hp]
  case sleep => exact fun s t w till ht hw _ _ => sleepEnd_waitDone ht hw
  case wait =>
    intro s team tid id regs t ht hst hwin hwait hres
    obtain ⟨tm, htm, hresident⟩ : ∃ tm, s.team? team = some tm ∧ tm.resident = true := by
      cases htm : s.team? team with
      | none => simp [htm] at hres
      | some tm => exact ⟨tm, rfl, by simpa [htm] using hres⟩
    exact waitDone_parked regs htm hresident ht hst hwait hwin

end Sys2Proof.Machine
end

section
/-! ### The margin controller's rows in full (R190 to R199, R380, R381, R425) -/

namespace Sys2Proof.Machine

section Fields

theorem and_toNat {w : Nat} {v m : BitVec w} (h : v &&& m = 0) : v.toNat &&& m.toNat = 0 := by
  rw [← BitVec.toNat_and, h]; rfl

/-- A field of the low word of a register is the register's (R446). -/
theorem bits_low_word {v : DWord} {hi lo : Nat} (h : hi < 32) :
    bits (BitVec.ofNat 32 v.toNat).toNat hi lo = (v.extractLsb' lo (hi + 1 - lo)).toNat := by
  have hlow : (BitVec.ofNat 32 v.toNat).extractLsb' lo (hi + 1 - lo) = v.extractLsb' lo (hi + 1 - lo) := by
    rw [BitVec.ofNat_toNat]
    ext i hi
    simp only [BitVec.getElem_extractLsb', BitVec.getLsbD_setWidth, show lo + i < 32 by omega, decide_true, Bool.true_and]
  rw [bits_toNat, hlow]

theorem getLsbD_low_word {v : DWord} {i : Nat} (h : i < 32) : (BitVec.ofNat 32 v.toNat).getLsbD i = v.getLsbD i := by
  rw [BitVec.ofNat_toNat, BitVec.getLsbD_setWidth]; simp [h]

/-- A write of MGN_CTL that clears no quarantine: CUR follows TARGET and EN (R191, R195). -/
theorem setMgnCtl_keeps {k : Core} {v : DWord} (h : (v.getLsbD 12 && k.quar) = false) : k.setMgnCtl (BitVec.ofNat 32 v.toNat) =
    { k with wlen := (v.extractLsb' 16 2).toNat, en := v.getLsbD 4, target := (v.extractLsb' 0 4).toNat
             cur := if v.getLsbD 4 then min k.cur (v.extractLsb' 0 4).toNat else 0 } := by
  have htarget : (BitVec.ofNat 32 v.toNat).toNat % 16 = (v.extractLsb' 0 4).toNat := bits_low_word (hi := 3) (lo := 0) (by decide)
  have hwlen : bits (BitVec.ofNat 32 v.toNat).toNat 17 16 = (v.extractLsb' 16 2).toNat := bits_low_word (by decide)
  have hen : (BitVec.ofNat 32 v.toNat).getLsbD 4 = v.getLsbD 4 := getLsbD_low_word (by decide)
  have hquar : (BitVec.ofNat 32 v.toNat).getLsbD 12 = v.getLsbD 12 := getLsbD_low_word (by decide)
  simp only [Core.setMgnCtl, htarget, hwlen, hen, hquar, h, Bool.false_eq_true, if_false]
  cases v.getLsbD 4 <;> rfl

/-- QUAR written with one on a quarantined core starts the controller over, and the rest of the write follows (R191, R196). -/
theorem setMgnCtl_restarts {k : Core} {w : Word} (h : (w.getLsbD 12 && k.quar) = true) :
    k.setMgnCtl w = ({ k with quar := false, cur := 0, cnt := 0, cleanWins := 0 } : Core).setMgnCtl w := by
  simp only [Core.setMgnCtl, h, Bool.and_false, Bool.false_eq_true, if_true, if_false]

theorem setMgnLimit_fields (k : Core) (v : DWord) : k.setMgnLimit (BitVec.ofNat 32 v.toNat) =
    { k with relax := (v.extractLsb' 16 8).toNat, limit := (v.extractLsb' 0 16).toNat } := by
  have hlimit : (BitVec.ofNat 32 v.toNat).toNat % 65536 = (v.extractLsb' 0 16).toNat := bits_low_word (hi := 15) (lo := 0) (by decide)
  have hrelax : bits (BitVec.ofNat 32 v.toNat).toNat 23 16 = (v.extractLsb' 16 8).toNat := bits_low_word (by decide)
  rw [Core.setMgnLimit, hlimit, hrelax]

end Fields

section Registers

variable {s : State} {v : DWord}

theorem mgnCtlPut_keeps {c : Nat} (h : v.getLsbD 12 = false ∨ (s.core c).quar = false) : s.mgnCtlPut c v.toNat = s.setCore c
    { s.core c with wlen := (v.extractLsb' 16 2).toNat, en := v.getLsbD 4, target := (v.extractLsb' 0 4).toNat
                    cur := if v.getLsbD 4 then min (s.core c).cur (v.extractLsb' 0 4).toNat else 0 } := by
  have hkeeps : (v.getLsbD 12 && (s.core c).quar) = false := by
    rcases h with h | h
    · rw [h]; rfl
    · rw [h, Bool.and_false]
  have hquar : (BitVec.ofNat 32 v.toNat).getLsbD 12 = v.getLsbD 12 := getLsbD_low_word (by decide)
  simp only [State.mgnCtlPut, State.modCore_eq, setMgnCtl_keeps hkeeps, hquar, hkeeps, Bool.false_eq_true, if_false]

theorem mgnCtlPut_restarts {c : Nat} (hv : v.getLsbD 12 = true) (hquar : (s.core c).quar = true) : s.mgnCtlPut c v.toNat = s.setCore c
    { s.core c with wlen := (v.extractLsb' 16 2).toNat, en := v.getLsbD 4, target := (v.extractLsb' 0 4).toNat
                    cur := if v.getLsbD 4 then min 0 (v.extractLsb' 0 4).toNat else 0
                    quar := false, cnt := 0, cleanWins := 0, winStart := s.clk, serrWin := 0 } := by
  have hw : (BitVec.ofNat 32 v.toNat).getLsbD 12 = true := (getLsbD_low_word (by decide)).trans hv
  have hagain : ((BitVec.ofNat 32 v.toNat).getLsbD 12 && (s.core c).quar) = true := by rw [hw, hquar]; rfl
  simp only [State.mgnCtlPut, State.modCore_eq, hagain, if_true, setMgnCtl_restarts hagain]
  rw [setMgnCtl_keeps (Bool.and_false _)]

theorem mgnCtlWrite_acts (hc : s.ev.core < 128) (hport : s.ev.hport < 2)
    (hdie : s.dieAnswers (dieOf s.ev.core) (0x100 * (s.ev.core % 16)) = true) (hres : s.ev.v &&& 0xFFFFFFFFFFFCE0E0 = 0) :
    exec .mgnCtlWrite s = .next (s.mgnCtlPut s.ev.core s.ev.v.toNat)
      ∧ (s.ev.v.getLsbD 12 = true → exec .quarantineClear s = .next (s.mgnCtlPut s.ev.core s.ev.v.toNat)) := by
  have hacts : s.windowWrite (dieOf s.ev.core) (coreRegAt s.ev.core) mgnCtlRes s.ev.v.toNat
      (fun s => s.mgnCtlPut s.ev.core s.ev.v.toNat) = s.mgnCtlPut s.ev.core s.ev.v.toNat :=
    windowWrite_of_dieAnswers hport hdie (and_toNat hres)
  exact ⟨congrArg Host.Outcome.next ((if_pos hc).trans hacts), fun hv => congrArg Host.Outcome.next ((if_pos ⟨hc, hv⟩).trans hacts)⟩

theorem mgnLimitWrite_acts (hc : s.ev.core < 128) (hport : s.ev.hport < 2)
    (hdie : s.dieAnswers (dieOf s.ev.core) (0x100 * (s.ev.core % 16) + 0x10) = true) (hres : s.ev.v &&& 0xFFFFFFFFFF000000 = 0) :
    exec .mgnLimitWrite s = .next (s.setCore s.ev.core { s.core s.ev.core with
      relax := (s.ev.v.extractLsb' 16 8).toNat, limit := (s.ev.v.extractLsb' 0 16).toNat }) := by
  refine congrArg Host.Outcome.next ((if_pos hc).trans ((windowWrite_of_dieAnswers hport hdie (and_toNat hres)).trans ?_))
  rw [State.modCore_eq, setMgnLimit_fields]

end Registers

section Margins

variable {s : State}

/-- A window's end: with RELAX clean windows the margin steps up where it may (R194, R195). -/
theorem windowEnd_eq (k : Core) (now n : Nat) (hn : n = if k.cnt ≤ k.limit / 4 then k.cleanWins + 1 else 0) : k.windowEnd now =
    if k.relax ≠ 0 ∧ k.relax ≤ n then
      { k with cnt := 0, winStart := now, serrWin := 0, cleanWins := 0
               cur := if k.en = true ∧ k.cur < k.target then k.cur + 1 else k.cur }
    else { k with cnt := 0, winStart := now, serrWin := 0, cleanWins := n } := by
  have hcount : (if decide (k.cnt ≤ k.limit / 4) = true then k.cleanWins + 1 else 0) = n := by simp only [hn, decide_eq_true_eq]
  by_cases hrises : k.relax ≠ 0 ∧ k.relax ≤ n
  · have hrise : (k.relax != 0 && decide (k.relax ≤ n)) = true := by simpa using hrises
    simp only [Core.windowEnd, hcount, hrise, if_pos hrises, if_true, Bool.true_and]
    simp only [Bool.and_eq_true, decide_eq_true_eq]
  · have hrise : (k.relax != 0 && decide (k.relax ≤ n)) = false := by simpa using hrises
    simp only [Core.windowEnd, hcount, hrise, if_neg hrises, Bool.false_and, Bool.false_eq_true, if_false]

theorem marginWindowEnd_due (hc : s.ev.core < 128)
    (hdue : (s.core s.ev.core).winStart + wlenClk (s.core s.ev.core).wlen ≤ s.clk) :
    exec .marginWindowEnd s = .next (s.setCore s.ev.core ((s.core s.ev.core).windowEnd s.clk)) := by
  show execMarginWindowEnd s = _
  simp [execMarginWindowEnd, hc, hdue]

/-- A flag in the fixed-margin domain restarts every thread of its list that is on the core (R198). -/
theorem silentError_restartsAll {i : Nat} {rest : List Nat} (hhit : s.ev.tids.filter (fun i => s.onCore s.ev.core s.ev.team i) = i :: rest)
    (hflag : s.ev.flag = false) :
    exec .silentError s = .next (((i :: rest).foldl (fun u i => u.restart s.ev.team i) s).countSilent s.ev.core) := by
  show execSilentError s = _
  simp only [execSilentError, hhit, hflag, Bool.false_eq_true, if_false]

/-- A mismatch of an operation whose owner is a thread restarts it (R380, R381). -/
theorem checksumMismatch_restarts {o : MOp} {i : Nat} (hfind : (s.core s.ev.core).matq.find? (fun o => o.id == s.ev.req && o.started
      && ((s.team? o.team).map o.checked).getD false) = some o) (howner : o.owner = some i) (hthread : (s.thread? o.team i).isSome) :
    exec .checksumMismatch s = .next
      (((s.modCore s.ev.core fun k => k.rowMismatch s.ev.row s.cn.rowth).restart o.team i).countSilent s.ev.core) := by
  have hthread' : ((s.modCore s.ev.core fun k => k.rowMismatch s.ev.row s.cn.rowth).thread? o.team i).isSome = true := hthread
  show execChecksumMismatch s = _
  simp only [execChecksumMismatch, hfind, howner, if_pos hthread']

theorem logicalMapRebuild_stays {u : State} (hqueue : (s.core s.ev.core).matq = [])
    (hu : u = ((s.core s.ev.core).badRows.filter fun r => !(s.core s.ev.core).rowMap.contains r).foldl
      (fun t r => t.event { kind := 0x0D, core := s.ev.core, die := dieOf s.ev.core, aux := r })
      (s.modCore s.ev.core fun k => { k with rowMap := k.badRows }))
    (hstay : u.mustLeave s.ev.core = []) : exec .logicalMapRebuild s = .next u := by
  show execLogicalMapRebuild s = _
  have hempty : (u.mustLeave s.ev.core).isEmpty = true := by rw [hstay]; rfl
  subst hu
  rw [execLogicalMapRebuild, hqueue]
  exact congrArg Host.Outcome.next (if_pos hempty)

end Margins

/-- Settles O51: each row by the lemma that says what it leaves; the replay and the count of a silent error as they are defined. -/
theorem marginRows : Obligations.MarginRows := by
  refine ⟨?replay, ?window, ?silent, fun _ _ => rfl, ?quarantine, ?ctl, ?limit, ?mismatch, ?map⟩
  case replay => exact fun s hc => congrArg Host.Outcome.next (if_pos hc)
  case window =>
    intro s hc k len hdue n
    rw [marginWindowEnd_due hc hdue, windowEnd_eq _ _ n rfl]
  case silent => exact fun s i rest => silentError_restartsAll
  case quarantine => exact fun s c hquar => if_neg (by simp [hquar])
  case ctl =>
    intro s hc hport hdie hres v put
    obtain ⟨hwrite, hclear⟩ := mgnCtlWrite_acts hc hport hdie hres
    exact ⟨fun h => by rw [hwrite, mgnCtlPut_keeps h], fun hv hquar => by rw [hclear hv, mgnCtlPut_restarts hv hquar]⟩
  case limit => exact fun s hc hport hdie hres => mgnLimitWrite_acts hc hport hdie hres
  case mismatch => exact fun s o i hfind howner hthread => checksumMismatch_restarts hfind howner hthread
  case map =>
    intro s hqueue c u hstay
    exact logicalMapRebuild_stays (u := u) hqueue rfl hstay

end Sys2Proof.Machine
end

section
/-! ### Collectives at their issue (R233 to R237)

The steps of `runColl` are the statement's own, but that a member parks with WAIT = 8 follows from what
its window waits for. -/

namespace Sys2Proof.Machine

open Sys2Proof.Say

theorem la_toNat_eq_zero (h : Hdr) : h.la.toNat = 0 ↔ h.la = 0 := by simp [BitVec.toNat_eq]

/-- The wait is one for a collective to issue (R236). -/
def Wait.isColl (w : Wait) : Bool :=
  match w with
  | .coll _ => true
  | _ => false

theorem Wait.code_of_isColl {w : Wait} (h : w.isColl = true) : w.code = 8 := by
  cases w with
  | coll => rfl
  | _ => cases h

/-- The window that a thread waits with holds a wait of the kind looked for. -/
theorem wait_of_waiting {t : Thread} {p : Wait → Bool} {w : Window} (h : t.waiting p = some w) : ∃ x, w.wait = some x ∧ p x = true := by
  have hp := List.find?_some h
  cases hw : w.wait with
  | none => simp [hw] at hp
  | some x => exact ⟨x, rfl, by simpa [hw] using hp⟩

theorem foldl_congr_of_mem {α β : Type} {f g : β → α → β} {l : List α} {b : β} (h : ∀ b, ∀ x ∈ l, f b x = g b x) :
    l.foldl f b = l.foldl g b :=
  List.foldl_rel (r := Eq) rfl fun x hx b _ hb => hb ▸ h b x hx

/-- A thread whose collective has not issued parks with WAIT = 8 (R236). -/
theorem park_on_collective (s : State) (team tid : Nat) :
    (match (s.thread? team tid).bind fun t => t.waiting Wait.isColl with
      | some w => s.park team tid (w.wait.getD (.coll 0))
      | none => s) =
    match (s.thread? team tid).bind fun t => t.waiting Wait.isColl with
      | some _ => parks s team tid 8
      | none => s := by
  cases hw : (s.thread? team tid).bind fun t => t.waiting Wait.isColl with
  | none => rfl
  | some w =>
    obtain ⟨t, _, ht⟩ := Option.bind_eq_some_iff.1 hw
    obtain ⟨x, hx, hcoll⟩ := wait_of_waiting ht
    simp only [State.park, parks, hx, Option.getD_some, Wait.code_of_isColl hcoll]

theorem onLive_of_runColl {i : Instr} {h : Hdr} {len : Nat} {vs : List VOp} {a : Option VReg} {op : CollOp} {dst : Nat}
    {msk : Team → Thread → DWord} {val : Thread → DWord × Bool} (hx : ∀ s, exec i s = runColl h len vs a op dst msk val s) :
    OnLive i h len false vs (collective h len op dst msk val) := by
  refine onLive_of none a (fun s => (hx s).trans (runColl.eq_1 ..)) (fun _ => rfl) fun c g tm live s => ?_
  simp only [la_toNat_eq_zero]
  unfold collective
  split
  · exact foldl_congr_of_mem fun s x _ => park_on_collective s g.team x.2.1
  · rfl

/-- Settles O29: each instruction is `runColl` with its operation, its operands and the mask of operand B. -/
theorem collectives : Obligations.Collectives := by
  simp only [Obligations.Collectives, ← lenB_eq]
  refine ⟨?ballot, ?vote, ?pickAt, ?pick, ?tred, ?tscan, ?match32, ?match64⟩
  case ballot => exact fun h neg d p b => onLive_of_runColl fun _ => rfl
  case vote =>
    intro h op neg d p b hop
    cases op with
    | ballot => exact absurd rfl hop
    | all | any | uni => exact onLive_of_runColl fun _ => rfl
  case pickAt => exact fun h delta d a b => onLive_of_runColl fun _ => rfl
  case pick =>
    intro h m delta d a b hm
    cases m with
    | below | above | flip => exact onLive_of_runColl fun _ => rfl
    | _ => exact absurd rfl hm
  case tred => exact fun h op ty d a b => onLive_of_runColl fun _ => rfl
  case tscan => exact fun h op ty exc d a b => onLive_of_runColl fun _ => rfl
  case match32 => exact fun h d a b => onLive_of_runColl fun _ => rfl
  case match64 => exact fun h d a b => onLive_of_runColl fun _ => rfl

end Sys2Proof.Machine
end

section
/-! ### Results of collectives (R241 to R244)

When every member that a collective's mask names has arrived, its results are made of the members at those positions, in ascending
order. -/

namespace Sys2Proof.Machine

open Sys2Proof.Say

theorem loW_eq_setWidth (v : DWord) : loW v = v.setWidth 32 := rfl

theorem b2w_wide (b : Bool) : (b2w b).setWidth 64 = if b then 1#64 else 0#64 := by cases b <;> rfl

theorem sum_map_filter {α : Type} (l : List α) (p : α → Bool) (f : α → Nat) :
    ((l.filter p).map f).sum = (l.map fun i => if p i then f i else 0).sum := by
  induction l with
  | nil => rfl
  | cons y r ih => by_cases hy : p y <;> simp [hy, ih]

theorem filterMap_eq_map_of_mem {α β : Type} {f : α → Option β} {g : α → β} {l : List α} (h : ∀ x ∈ l, f x = some (g x)) :
    l.filterMap f = l.map g := by
  induction l with
  | nil => rfl
  | cons y r ih =>
    rw [List.filterMap_cons_some (h y List.mem_cons_self), List.map_cons, ih fun x hx => h x (List.mem_cons_of_mem y hx)]

/-- Positions at or past n add nothing to a mask of the first n. -/
theorem sum_range_bits_below {n w : Nat} (h : n ≤ w) (p : Nat → Bool) :
    ((List.range w).map fun i => if decide (i < n) && p i then 2 ^ i else 0).sum =
      ((List.range n).map fun i => if p i then 2 ^ i else 0).sum := by
  induction h with
  | refl => exact congrArg List.sum (List.map_congr_left fun i hi => by simp [List.mem_range.1 hi])
  | @step w hw ih =>
    rw [List.range_succ, List.map_append, List.sum_append, ih]
    simp [Nat.not_lt.2 hw]

/-- The powers of two of chosen positions add up to the mask that has their bits. -/
theorem ofBits_range_filter {n w : Nat} (h : n ≤ w) (p : Nat → Bool) :
    BitVec.ofNat w (((List.range n).filter p).map (2 ^ ·)).sum = ofBits w fun i => decide (i < n) && p i := by
  rw [sum_map_filter, ofBits, sum_range_bits_below h]

/-- The positions that a collective's mask names, rising (R233). -/
def Coll.named (c : Coll) : List Nat := (List.range c.size).filter c.mask.getLsbD

theorem Coll.mem_named {c : Coll} {i : Nat} : i ∈ c.named ↔ i < c.size ∧ c.mask.getLsbD i = true := by
  rw [Coll.named, List.mem_filter, List.mem_range]

/-! #### PICK (R242) -/

/-- The position that PICK reads for the member at position q whose operand A is `a`: none below position 0. -/
def pickSource (mode : PickMode) (d q : Nat) (a : DWord) : Option Nat :=
  match mode with
  | .at => some ((a.extractLsb' 32 32).toNat % 64)
  | .below => if d ≤ q then some (q - d) else none
  | .above => some (q + d)
  | .flip => some (q ^^^ d)

/-- What a read of position i gives a member u: the value there, or its own where no member is there. -/
def Coll.taken (c : Coll) (u : CollMember) (i : Nat) : DWord :=
  if i < c.size && c.mask.getLsbD i then
    match c.at i with
    | some m => (loW m.a).setWidth 64
    | none => (loW u.a).setWidth 64
  else (loW u.a).setWidth 64

section Pick

variable {c : Coll} {u m : CollMember} {mode : PickMode} {q d i : Nat}

theorem result_pick (hop : c.op = .pick mode d) :
    c.result q u = (pickSource mode d q u.a).elim ((u.a.setWidth 32).setWidth 64) (c.taken u) := by
  have hhi : hiW u.a = u.a.extractLsb' 32 32 := BitVec.setWidth_ushiftRight_eq_extractLsb
  simp only [Coll.result, hop, hhi]
  cases mode with
  | below => by_cases hd : d ≤ q <;> simp only [pickSource, hd, if_true, if_false] <;> rfl
  | _ => rfl

theorem result_pick_member (hop : c.op = .pick mode d) (hsource : pickSource mode d q u.a = some i) (hi : i < c.size)
    (hmask : c.mask.getLsbD i = true) (hm : c.at i = some m) : c.result q u = (m.a.setWidth 32).setWidth 64 := by
  simp [result_pick hop, hsource, Coll.taken, hi, hmask, hm, loW_eq_setWidth]

theorem result_pick_outside (hop : c.op = .pick mode d) (hsource : pickSource mode d q u.a = some i)
    (hout : c.size ≤ i ∨ c.mask.getLsbD i = false) : c.result q u = (u.a.setWidth 32).setWidth 64 := by
  have hnone : (decide (i < c.size) && c.mask.getLsbD i) = false := by
    rcases hout with h | h
    · simp [Nat.not_lt.2 h]
    · simp [h]
  simp [result_pick hop, hsource, Coll.taken, hnone, loW_eq_setWidth]

theorem result_pick_none (hop : c.op = .pick mode d) (hsource : pickSource mode d q u.a = none) :
    c.result q u = (u.a.setWidth 32).setWidth 64 := by
  rw [result_pick hop, hsource]
  rfl

end Pick

section Arrived

variable {c : Coll} {x : Nat → CollMember} {q : Nat} {u : CollMember} (hx : ∀ i < c.size, c.mask.getLsbD i = true → c.at i = some (x i))

include hx

/-! #### VOTE (R241) and MATCH (R244) -/

theorem contrib_eq : c.contrib = c.named.map fun i => (i, x i) := by
  refine List.filterMap_filter.symm.trans (filterMap_eq_map_of_mem fun i hi => ?_)
  obtain ⟨hsize, hmask⟩ := Coll.mem_named.1 hi
  rw [hx i hsize hmask]
  rfl

/-- The mask of the named positions whose members meet a condition. -/
theorem contrib_mask (hsize : c.size ≤ 64) (p : CollMember → Bool) :
    BitVec.ofNat 64 ((c.contrib.filter fun m => p m.2).map fun m => 2 ^ m.1).sum =
      ofBits 64 fun i => decide (i < c.size) && c.mask.getLsbD i && p (x i) := by
  have hbits := ofBits_range_filter hsize fun i => c.mask.getLsbD i && p (x i)
  simp only [← Bool.and_assoc] at hbits
  rw [← hbits, contrib_eq hx, List.filter_map, List.map_map, Coll.named, List.filter_filter]
  simp only [Function.comp_def, Bool.and_comm]

theorem result_vote_all {neg : Bool} (hop : c.op = .vote .all neg) :
    c.result q u = if c.named.all fun i => (x i).p != neg then 1 else 0 := by
  simp only [Coll.result, hop, contrib_eq hx, List.map_map, List.all_map, b2w_wide]
  rfl

theorem result_vote_any {neg : Bool} (hop : c.op = .vote .any neg) :
    c.result q u = if c.named.any fun i => (x i).p != neg then 1 else 0 := by
  simp only [Coll.result, hop, contrib_eq hx, List.map_map, List.any_map, b2w_wide]
  rfl

theorem result_vote_uni {neg : Bool} (hop : c.op = .vote .uni neg) :
    c.result q u = if (c.named.all fun i => (x i).p != neg) || (c.named.all fun i => (x i).p == neg) then 1 else 0 := by
  simp only [Coll.result, hop, contrib_eq hx, List.map_map, List.all_map, b2w_wide, Function.comp_def, bne, Bool.not_not]
  rfl

theorem result_vote_ballot {neg : Bool} (hsize : c.size ≤ 64) (hop : c.op = .vote .ballot neg) :
    c.result q u = ofBits 64 fun i => decide (i < c.size) && c.mask.getLsbD i && (x i).p != neg := by
  simp only [Coll.result, hop]
  exact contrib_mask hx hsize fun m => m.p != neg

theorem result_match {w64 : Bool} (hsize : c.size ≤ 64) (hop : c.op = .matchEq w64) :
    c.result q u = ofBits 64 fun i => decide (i < c.size) && c.mask.getLsbD i &&
      if w64 then (x i).a == u.a else loW (x i).a == loW u.a := by
  simp only [Coll.result, hop]
  exact contrib_mask hx hsize fun m => if w64 then m.a == u.a else loW m.a == loW u.a

/-! #### TRED and TSCAN (R243) -/

theorem fold_eq (op : RedKind) (ty : RedTy) (last : Nat) (incl : Bool) :
    c.fold op ty last incl = (c.named.filter fun i => i < last || (incl && i == last)).foldl
      (fun r i => foldOp op ty r ((x i).a.setWidth 32)) (foldId op ty) := by
  have hfilter : (c.positions.filter fun i => c.mask.getLsbD i && (decide (i < last) || (incl && i == last))) =
      c.named.filter fun i => decide (i < last) || (incl && i == last) := by
    rw [Coll.named, List.filter_filter]
    simp only [Bool.and_comm, Coll.positions, upTo]
  rw [Coll.fold, hfilter]
  refine foldl_congr_of_mem fun r i hi => ?_
  obtain ⟨hsize, hmask⟩ := Coll.mem_named.1 (List.mem_filter.1 hi).1
  rw [hx i hsize hmask]
  rfl

theorem result_tred {op : RedKind} {ty : RedTy} (hop : c.op = .tred op ty) :
    c.result q u = (c.named.foldl (fun r i => foldOp op ty r ((x i).a.setWidth 32)) (foldId op ty)).setWidth 64 := by
  have hall : (c.named.filter fun i => decide (i < c.size) || (false && i == c.size)) = c.named :=
    List.filter_eq_self.2 fun i hi => by simp [(Coll.mem_named.1 hi).1]
  simp only [Coll.result, hop, fold_eq hx, hall]

theorem result_tscan_exc {op : RedKind} {ty : RedTy} (hop : c.op = .tscan op ty true) :
    c.result q u = ((c.named.filter (· < q)).foldl (fun r i => foldOp op ty r ((x i).a.setWidth 32)) (foldId op ty)).setWidth 64 := by
  simp only [Coll.result, hop, fold_eq hx, Bool.not_true, Bool.false_and, Bool.or_false]

theorem result_tscan_incl {op : RedKind} {ty : RedTy} (hop : c.op = .tscan op ty false) :
    c.result q u = ((c.named.filter (· ≤ q)).foldl (fun r i => foldOp op ty r ((x i).a.setWidth 32)) (foldId op ty)).setWidth 64 := by
  have hle (i : Nat) : (decide (i < q) || i == q) = decide (i ≤ q) := by
    rw [Bool.eq_iff_iff]; simp [Nat.le_iff_lt_or_eq]
  simp only [Coll.result, hop, fold_eq hx, Bool.not_false, Bool.true_and, hle]

end Arrived

/-- Settles O30: each operation by the lemma on its result, from the members at the named positions. -/
theorem collectiveResults : Obligations.CollectiveResults := by
  intro c x q u hsize hx
  refine ⟨fun _ => result_vote_all hx, fun _ => result_vote_any hx, fun _ => result_vote_uni hx, fun _ => result_vote_ballot hx hsize,
    ?flip, ?belowNone, ?below, ?above, ?aboveOut, ?pair, fun _ _ => result_tred hx, fun _ _ => result_tscan_exc hx,
    fun _ _ => result_tscan_incl hx, fun hop => (result_match hx hsize hop).trans ?match64,
    fun hop => (result_match hx hsize hop).trans ?match32⟩
  case flip => exact fun d hop hi hmask => result_pick_member hop rfl hi hmask (hx _ hi hmask)
  case belowNone => exact fun d hop hd => result_pick_none hop (if_neg (Nat.not_le.2 hd))
  case below => exact fun d hop hd hi hmask => result_pick_member hop (if_pos hd) hi hmask (hx _ hi hmask)
  case above => exact fun d hop hi hmask => result_pick_member hop rfl hi hmask (hx _ hi hmask)
  case aboveOut => exact fun d hop hout => result_pick_outside hop rfl hout
  case pair =>
    intro d hop i hi hmask
    exact result_pick_member hop rfl hi hmask (hx i hi hmask)
  case match64 => simp only [if_true, Bool.beq_eq_decide_eq]
  case match32 => simp only [Bool.false_eq_true, if_false, Bool.beq_eq_decide_eq, loW_eq_setWidth]

end Sys2Proof.Machine
end

section
/-! ### PART and the barrier instructions (R240, R246 to R249)

Each meaning is written over `runLanes`, and its effect on a lane is the statement's own but for the wait on a phase, which `barAwait_eq`
says. -/

namespace Sys2Proof.Machine

open Sys2Proof.Say

theorem doneGen_iff (G g : Word) : doneGen G g = true ↔ 1 ≤ (G - g).toNat ∧ (G - g).toNat ≤ 2147483647 := by
  simp [doneGen]

/-- A wait on phase g: an acquire at once where the phase is done, else a window, and with no lookahead the thread parks with WAIT = 1
(R186, R248, R249). -/
theorem barAwait_eq (s : State) (c team tid : Nat) (tm : Team) (t : Thread) (h : Hdr) (lvl : BarLevel) (idx : Nat) (g : Word) :
    s.barAwait c team tid tm t h lvl idx g =
      let b := barOf team tm lvl idx
      let n := (s.barGen b - g).toNat
      if 1 ≤ n ∧ n ≤ 2147483647 then (s.learns team tid).acquire c tm.ctx (tm.barScope lvl)
      else
        let u := opens s team tid (window s h t .sync false [] (some (.bar b g)))
        if h.la = 0 then parks u team tid 1 else u := by
  simp only [State.barAwait, doneGen_iff, State.openWait, mkWin, la_toNat_eq_zero]
  rfl

/-- Settles O31: PART and the barrier instructions by their effects on a lane. -/
theorem partAndBarriers : Obligations.PartAndBarriers := by
  refine ⟨?part, ?bar⟩
  case part =>
    intro gives
    have hpart {i : Instr} {h : Hdr} {vs : List VOp} (regs : State → Nat → Team → Nat → List (Nat × Word))
        (hx : ∀ s, exec i s = runLanes h 2 none vs none (fun _ team tm tid t s =>
          s.answer team tid h t.pc .engine (regs s team tm tid)) s) : OnLanes i h 2 false vs (gives h regs) :=
      onLanes_of none none hx (fun _ => rfl) fun _ _ _ _ _ _ => rfl
    clear_value gives
    exact ⟨fun h d => hpart _ fun s => show exec _ s = execPart h .pos d s from rfl,
      fun h d => hpart _ fun s => show exec _ s = execPart h .tile d s from rfl,
      fun h d => hpart _ fun s => show exec _ s = execPart h .size d s from rfl,
      fun h d => hpart _ fun s => show exec _ s = execPart h .live d s from rfl⟩
  case bar =>
    intro bar gives arrive await
    have hgives (h : Hdr) (team tid : Nat) (t : Thread) (regs : List (Nat × Word)) (s : State) :
        gives h team tid t regs s = s.answer team tid h t.pc .engine regs := rfl
    have harrive (c team tid : Nat) (tm : Team) (t : Thread) (lvl : BarLevel) (idx : BitVec 4) (s : State) :
        arrive c team tid tm t lvl idx s = s.barArrive c team tid tm t lvl idx.toNat := rfl
    have hawait (h : Hdr) (c team tid : Nat) (tm : Team) (t : Thread) (lvl : BarLevel) (idx : BitVec 4) (g : Word) (s : State) :
        await h c team tid tm t lvl idx g s = s.barAwait c team tid tm t h lvl idx.toNat g := (barAwait_eq ..).symm
    have hbar {i : Instr} {h : Hdr} {lvl : BarLevel} {idx : BitVec 4} {vs : List VOp} (a : Option VReg)
        (f : Nat → Nat → Team → Nat → Thread → State → State) (hx : ∀ s, exec i s = runBar h lvl idx vs a f s) :
        OnLanes i h 2 false vs (bar lvl idx f) :=
      onLanes_of none a hx (fun _ => rfl) fun _ _ _ _ _ _ => rfl
    clear_value bar gives arrive await
    simp only [hgives, harrive, hawait]
    exact ⟨fun h lvl idx d => hbar none _ fun s => show exec _ s = execBarArv h lvl idx d s from rfl,
      fun h lvl idx a => hbar (some a) _ fun s => show exec _ s = execBarWait h lvl idx a s from rfl,
      fun h lvl idx => hbar none _ fun s => show exec _ s = execBarSync h lvl idx s from rfl,
      fun h lvl idx d => hbar none _ fun s => show exec _ s = execBarQ h lvl idx d s from rfl⟩

end Sys2Proof.Machine
end

section
/-! ### Rows of the lane exchange unit (R236, R247, R248)

A result that is written leaves its thread's STATE and WAIT as they were, so the row judges by these whether the thread is to be filed. -/

namespace Sys2Proof.Machine

section Place

/-- Where the sequencer holds a thread: its STATE and WAIT (R47). -/
def Thread.place (t : Thread) : TState × BitVec 4 := (t.st, t.wait)

variable (t : Thread)

theorem place_putPred (p : Nat) (b : Bool) : (t.putPred p b).place = t.place := by
  unfold Thread.putPred
  split <;> rfl

theorem place_afterWin : t.afterWin.place = t.place := by
  unfold Thread.afterWin
  split
  · split <;> rfl
  · rfl

theorem place_addTrap (x : Trap) : (t.addTrap x).place = t.place := by
  unfold Thread.addTrap
  split
  · split <;> rfl
  · rfl

theorem place_closeWin (w : Window) : (t.closeWin w).place = t.place := by
  unfold Thread.closeWin
  cases w.late with
  | none => exact place_afterWin _
  | some x => exact (place_afterWin _).trans (place_addTrap _ x)

theorem place_foldl {α : Type} {f : Thread → α → Thread} (hf : ∀ t x, (f t x).place = t.place) (l : List α) :
    (l.foldl f t).place = t.place := by
  induction l generalizing t with
  | nil => rfl
  | cons x r ih => exact (ih _).trans (hf t x)

/-- A result that is written leaves its thread where it is (R184). -/
theorem place_deliver (id : Nat) : (t.deliver id none).place = t.place := by
  unfold Thread.deliver
  split
  · rfl
  · next w _ =>
    split
    · rfl
    · split
      · exact place_closeWin t w
      · refine (place_closeWin _ w).trans ((place_foldl _ ?pred _).trans (place_foldl t ?reg _))
        case pred => exact fun t p => place_putPred t ..
        case reg => exact fun _ _ => rfl

end Place

section Results

variable {s : State} {t : Thread} {w : Window}

/-- The row writes a collective's ready result, and files the thread that was parked on it (R236). -/
theorem collectiveResult_writes (ht : s.thread? s.ev.team s.ev.tid = some t) (hwin : t.win? s.ev.win = some w) (hkind : w.kind = .coll)
    (hready : w.ready = true) (hhere : s.away s.ev.team = false) :
    exec .collectiveResult s = .next
      (if t.st = .parked ∧ t.wait = 8 ∧ ((t.deliver w.id none).waiting Wait.isColl).isNone then
        (s.modThread s.ev.team s.ev.tid fun t => t.deliver w.id none).file s.ev.team s.ev.tid 0
      else s.modThread s.ev.team s.ev.tid fun t => t.deliver w.id none) := by
  have hst : (t.deliver w.id none).st = t.st := congrArg Prod.fst (place_deliver t w.id)
  have hwait : (t.deliver w.id none).wait = t.wait := congrArg Prod.snd (place_deliver t w.id)
  show execCollectiveResult s = _
  simp only [execCollectiveResult, ht, Option.bind_some, hwin, hkind, hready, hhere, thread?_modThread, Option.map_some, hst, hwait]
  rfl

end Results

section Barriers

variable {s : State}

theorem barrierPhaseComplete_full {b : BarRef} (hb : s.ev.bar = b) (hsome : (s.barMembers b).1 ≠ []) (hall : (s.barMembers b).2 = []) :
    exec .barrierPhaseComplete s = .next ((s.barAdvance b).barWake b) := by
  have hfull : s.barFull s.ev.bar = true := by simp [State.barFull, hb, hsome, hall]
  show Host.Outcome.next _ = _
  rw [if_pos hfull, hb]

/-- A team barrier expects the threads of its team that have not exited (R246). -/
theorem barMembers_team_expected {team i : Nat} (hsome : ∃ x ∈ s.threadsOf team, x.2.st ≠ .exited) :
    (s.barMembers (.team team i)).1 ≠ [] := by
  obtain ⟨x, hx, hst⟩ := hsome
  exact List.ne_nil_of_mem (List.mem_map_of_mem (List.mem_filter.2 ⟨hx, by simpa using hst⟩))

/-- It awaits none of them once each has arrived (R247). -/
theorem barMembers_team_arrived {team i : Nat} (hall : ∀ x ∈ s.threadsOf team, x.2.st = .exited ∨ x.2.barv.getLsbD i = true) :
    (s.barMembers (.team team i)).2 = [] := by
  refine List.map_eq_nil_iff.2 (List.filter_eq_nil_iff.2 fun x hx => ?_)
  obtain ⟨hmem, hst⟩ := List.mem_filter.1 hx
  have hst : x.2.st ≠ .exited := by simpa using hst
  simpa [hst] using hall x hmem

end Barriers

/-- Settles O32: a collective's result by `collectiveResult_writes`, a phase by the members that it expects and those that it awaits. -/
theorem laneRows : Obligations.LaneRows := by
  refine ⟨?running, ?parked, ?team, ?cohort⟩
  case running =>
    intro s t w ht hwin hkind hready hhere hst
    rw [collectiveResult_writes ht hwin hkind hready hhere, if_neg fun h => hst h.1]
  case parked =>
    intro s t w ht hwin hkind hready hhere hst hwait hnone
    have hnone : (t.deliver w.id none).waiting Wait.isColl = none := hnone
    rw [collectiveResult_writes ht hwin hkind hready hhere, if_pos ⟨hst, hwait, by rw [hnone]; rfl⟩]
  case team =>
    exact fun s team i hb hsome hall => barrierPhaseComplete_full hb (barMembers_team_expected hsome) (barMembers_team_arrived hall)
  case cohort =>
    intro s l j i hb hsome hall
    rw [barrierPhaseComplete_full rfl hsome hall, hb]
    rfl

end Sys2Proof.Machine
end

section
/-! ### QRES, QFREE and LAUNCH (R259 to R261, R401)

Each meaning is written over `runLanes` or `runWait`, and its steps are the statement's own but for the order of two branches. -/

namespace Sys2Proof.Machine

open Sys2Proof.Say

section Postings

variable {s : State} {team tid d q len : Nat} {tm : Team} {t : Thread} {h : Hdr} {b : List Byte} {res : Bool}

/-- A queue takes no posting of a context where it takes none at all, or belongs to another context and XPOST = 0 (R259, R260; log 76). -/
theorem barsCtx_iff {ctx : Nat} : s.barsCtx q ctx = true ↔
    1023 < q ∨ (s.queue q).en = false ∨ (s.ctx (s.queue q).ctx).st = .free ∨ ((s.queue q).ctx ≠ ctx ∧ (s.queue q).xpost = false) := by
  simp only [State.barsCtx, State.takesPosts, Bool.or_eq_true, Bool.not_eq_true', Bool.and_eq_false_iff, Bool.and_eq_true,
    decide_eq_false_iff_not, Nat.not_le, bne_eq_false_iff_eq, bne_iff_ne, or_assoc]

/-- QRES of a thread: a QueueFault, or its answer (R259). -/
theorem qres_eq : s.qres team tid tm t h d len q =
    if 1023 < q ∨ (s.queue q).en = false ∨ (s.ctx (s.queue q).ctx).st = .free ∨ ((s.queue q).ctx ≠ tm.ctx ∧ (s.queue q).xpost = false)
        ∨ (t.rsv.isSome ∧ t.rsv ≠ some q) then
      faults s team tid kQueueFault (BitVec.ofNat 64 q) t len
    else if t.rsv = some q then (s.touch tm.ctx (crownOfQueue q)).answer team tid h t.pc .engine [(d, 1)]
    else if (s.queue q).free = 0 then (s.touch tm.ctx (crownOfQueue q)).answer team tid h t.pc .engine [(d, 0)]
    else (((s.touch tm.ctx (crownOfQueue q)).modQueue q fun x => { x with rsvs := x.rsvs + 1 }).modThread team tid
      fun u => { u with rsv := some q }).answer team tid h t.pc .engine [(d, 1)] := by
  simp only [State.qres, barsCtx_iff, or_assoc, Nat.pos_iff_ne_zero, ite_not]
  rfl

theorem launchCause_rejected {k : Nat} (hcause : s.rejectCause q (some tm.ctx) b (res && t.rsv != some q) = some k) :
    s.launchCause q tm t b res = (some k, if q ≤ 1023 then s.modQueue q fun x => { x with err := k } else s) := by
  rw [State.launchCause, hcause]

theorem launchCause_accepted (hcause : s.rejectCause q (some tm.ctx) b (res && t.rsv != some q) = none) :
    s.launchCause q tm t b res = (none, s) := by
  rw [State.launchCause, hcause]

end Postings

/-- Settles O33: QRES by `qres_eq`; LAUNCH of a lane by what becomes of its record, read here or asked for, and of its posting. -/
theorem launchInstructions : Obligations.LaunchInstructions := by
  unfold Obligations.LaunchInstructions
  intro post here away
  refine ⟨?qres, ?qfree, ?launch⟩
  case qres =>
    intro h d b
    rw [← lenB_eq]
    exact onLanes_of none none (fun s => show exec _ s = execQres h d b s from rfl) (fun _ => rfl) fun _ team tm tid t s => qres_eq
  case qfree =>
    refine fun h => onLanes_of none none (fun s => show exec _ s = execQfree h s from rfl) (fun _ => rfl) fun _ team _ tid _ s => ?_
    rw [State.freeRsv]
    cases (s.thread? team tid).bind (·.rsv) <;> rfl
  case launch =>
    intro h sys res d a b
    rw [← lenB_eq]
    refine onGo_of (some a) (fun s => show exec _ s = execLaunch h sys res d a b s from rfl) (fun _ _ _ _ _ hgo => hgo)
      fun c g tm live s => ?_
    have hpost (c team tid : Nat) (tm : Team) (win : Nat) (d : VReg) (q : Nat) (b : List Byte) (s : State) :
        s.launchPost c team tid tm win d.toNat q b sys res = post c team tid tm win d q b sys res s := by
      cases res
      · simp only [post, State.launchPost, State.launchEnter, decide_eq_true_eq, Bool.false_eq_true, false_or, if_false]
        rfl
      · rfl
    have hhere (c team tid : Nat) (tm : Team) (t : Thread) (d : VReg) (len q : Nat) (va : DWord) (x : Xlat) (gpa : Nat) (s : State) :
        s.launchHere c team tid tm t h sys res d.toNat len q va x gpa = here h sys res d len q c team tm tid t va x gpa s := by
      obtain ⟨⟨⟨b, bad⟩, u⟩, hread⟩ : ∃ r, (if 2 ≤ x.cls then s.lineLoad c tm.ctx va.toNat x (localOf gpa / 128) 1 else s).readGlobal
        c team tid tm.ctx va x .pkg gpa 128 1 = r := ⟨_, rfl⟩
      simp only [here, State.launchHere, lineOf, hread, ← hpost]
      split
      · rfl
      · cases hcause : u.rejectCause q (some tm.ctx) b (res && t.rsv != some q) with
        | some k => rw [launchCause_rejected hcause]; rfl
        | none => rw [launchCause_accepted hcause]; rfl
    have haway (c team tid : Nat) (tm : Team) (t : Thread) (d : VReg) (len q gpa : Nat) (s : State) :
        (if s.noPath gpa false then s.takeTrap team tid (s.trapAt kRemoteFault (BitVec.ofNat 64 gpa) t.pc len)
          else s.launchAway c team tid tm t h sys res d.toNat len q gpa) = away h sys res d len q c team tm tid t gpa s := by
      rfl
    clear_value post here away
    refine foldl_congr_of_mem fun s x _ => ?_
    simp only [State.launchLane, hhere, haway]
    rfl

end Sys2Proof.Machine
end

section
/-! ### Copying and starting of launches (R260, R263, R264)

The engine's own tables, its ledger, change by the copy of a record alone: the answer to the poster touches its thread and the sequencers. -/

namespace Sys2Proof.Machine

/-- What the copy of a record is entered in: queues, launches, the next launch id, and memory (R260). -/
def State.ledger (s : State) : Tbl Queue × Tbl Launch × Word × List (Nat × Byte) := (s.queues, s.launches, s.nextLid, s.mem)

section Copy

variable {s : State}

theorem ledger_modThread (s : State) (team tid : Nat) (f : Thread → Thread) : (s.modThread team tid f).ledger = s.ledger := by
  simp [State.ledger]

theorem ledger_of_seqOnly {t : State} (h : s.SeqOnly t) : t.ledger = s.ledger := by rw [h.1]; rfl

/-- A result that comes for a thread changes no table of the launch engine (R184, R261). -/
theorem ledger_waitDone (s : State) (team tid id : Nat) (regs : List (Nat × Word)) : (s.waitDone team tid id regs).ledger = s.ledger := by
  unfold State.waitDone
  split
  · rfl
  · dsimp only
    split
    · rw [ledger_of_seqOnly (State.file_seqOnly ..), ledger_modThread, ledger_modThread]
    · exact ledger_modThread ..

/-- What bytes written make of memory depends on memory and on where frames are served (R12, R422). -/
theorem pokeN_mem_congr {t : State} (hmem : s.mem = t.mem) (hframes : s.frames = t.frames) (pa : Nat) (l : List Byte) :
    (s.pokeN pa l).mem = (t.pokeN pa l).mem := by
  induction l generalizing s t pa with
  | nil => exact hmem
  | cons b r ih =>
    refine ih (s := s.poke pa b) (t := t.poke pa b) ?_ hframes _
    simp only [State.poke, State.home, State.frame, hmem, hframes]

/-- Bytes written change no table of the launch engine but memory (R12). -/
theorem ledger_pokeN (s : State) (pa : Nat) (l : List Byte) :
    (s.pokeN pa l).ledger = (s.queues, s.launches, s.nextLid, (s.pokeN pa l).mem) := by
  rw [State.ledger, pokeN_rest]

/-- The oldest posted record is copied: it leaves the posted ones, its ring slot holds its launch, and its bytes stand there (R260). -/
def State.copied (s : State) (n : Nat) (p : Post) (rest : List Post) : State :=
  let q := s.queue n
  let lid := s.nextLid.toNat
  let l := s.takeId.2.newLaunch n q.freeRing s.nextId p
  let u := (s.takeId.2.setQueue n { q with posts := rest, slots := q.slots.put q.freeRing lid }).pokeN (q.base + 128 * q.freeRing) p.raw
  ({ u with nextLid := u.nextLid + 1, launches := u.launches.put lid l } : State).touch l.ctx (crownOfQueue n)

/-- After the copy the poster alone is answered (R261, R263). -/
theorem ledger_recordCopy {n : Nat} {p : Post} {rest : List Post} (hposts : (s.queue n).posts = p :: rest) :
    (s.recordCopy n).ledger = (s.copied n p rest).ledger := by
  simp only [State.recordCopy, hposts]
  split
  · rfl
  · split
    · exact ledger_waitDone ..
    · rfl

theorem ledger_copied (n : Nat) (p : Post) (rest : List Post) :
    let q := s.queue n
    (s.copied n p rest).ledger = (s.queues.put n { q with posts := rest, slots := q.slots.put q.freeRing s.nextLid.toNat },
      s.launches.put s.nextLid.toNat (s.takeId.2.newLaunch n q.freeRing s.nextId p), s.nextLid + 1,
      (s.pokeN (q.base + 128 * q.freeRing) p.raw).mem) := by
  intro q
  let u := s.takeId.2.setQueue n { q with posts := rest, slots := q.slots.put q.freeRing s.nextLid.toNat }
  obtain ⟨hqueues, hlaunches, hnext, -⟩ : _ ∧ _ ∧ _ ∧ _ := by
    simpa only [State.ledger, Prod.mk.injEq] using ledger_pokeN u (q.base + 128 * q.freeRing) p.raw
  have hmem := pokeN_mem_congr (s := u) (t := s) rfl rfl (q.base + 128 * q.freeRing) p.raw
  show (_, _, _, _) = _
  simp only [Prod.mk.injEq]
  exact ⟨hqueues, congrArg (Tbl.put · _ _) hlaunches, congrArg (· + 1) hnext, hmem⟩

end Copy

section Ring

variable {s : State} {lid : Nat} {l : Launch}

theorem ringKept_iff : s.ringKept l = true ↔ (s.queue l.q).en = false ∨ s.peekN ((s.queue l.q).base + 128 * l.slot) 128 = l.raw := by
  simp [State.ringKept]

theorem ringRead_kept (hl : s.launch? lid = some l) (hkept : s.ringKept l = true) : s.ringRead lid = s := by
  simp only [State.ringRead, hl, hkept, if_true]

theorem ringRead_changed (hl : s.launch? lid = some l) (hkept : s.ringKept l = false) :
    let r := s.changed l.raw (s.peekN ((s.queue l.q).base + 128 * l.slot) 128)
    s.ringRead lid = r.2.modLaunch lid fun x =>
      { x with lr := recOf r.1, raw := s.peekN ((s.queue l.q).base + 128 * l.slot) 128 } := by
  simp only [State.ringRead, hl, hkept, Bool.false_eq_true, if_false]

/-- A byte that the engine reads where it wrote `x`: that byte, or an unspecified one where another agent has changed it (R6; log 5). -/
theorem getElem?_changed {a b : List Byte} {i : Nat} {x y : Byte} (ha : a[i]? = some x) (hb : b[i]? = some y) :
    (s.changed a b).1[i]? = some (if x = y then y else (Config.freeWord (s.fresh + i)).setWidth 8) := by
  unfold State.changed
  split
  · next hab =>
    subst hab
    rw [hb, if_pos (Option.some.inj (ha.symm.trans hb))]
  · obtain ⟨hi, rfl⟩ := List.getElem?_eq_some_iff.1 hb
    simp [State.freeBytes, ha, upTo, hi]

theorem launchStart_turn (hmay : s.mayStartQ s.ev.q = some lid) (hl : s.launch? lid = some l) (hturn : s.turnOf l.ctx = some s.ev.q) :
    exec .launchStart s =
      .next { ((s.ringRead lid).modLaunch lid fun x => { x with started := true }) with rrq := s.rrq.put l.ctx s.ev.q } := by
  show execLaunchStart s = _
  simp only [execLaunchStart, hmay, hl, if_pos hturn]

end Ring

end Sys2Proof.Machine
end

section
/-! ### Placement and retirement (R42, R44, R45, R54, R264, R269, R270) -/

namespace Sys2Proof.Machine

section Placement

variable {s : State} {l : Launch} {tm : Team}

/-- A started launch with teams left to place: resident as a whole, else its next team or cohort (R264). -/
theorem teamPlacement_places (hflag : s.ev.flag = false) (hl : s.launch? s.ev.lid = some l) (hkept : s.ringKept l = true)
    (hstarted : l.started = true) (hended : l.ended = none) (hnext : l.next < l.lr.nteams) (hst : (s.ctx l.ctx).st = .active) :
    exec .teamPlacement s = .next
      (if l.lr.res then s.placeResident s.ev.lid
      else if l.lr.clvl = 0 then s.placeNext s.ev.lid l
      else s.placeCohort s.ev.lid l) := by
  have hgoes : ¬ (¬ l.started = true ∨ l.ended.isSome = true ∨ l.lr.nteams ≤ l.next ∨ (s.ctx l.ctx).st ≠ .active) := by
    simp [hstarted, hended, hst, hnext]
  show execTeamPlacement s = _
  simp only [execTeamPlacement, hflag, ringRead_kept hl hkept, hl, if_neg hgoes, Bool.false_eq_true, if_false]

theorem placeNext_fits {lid : Nat} {p : Nat × Nat × Nat} (hhoods : l.freeHoods ≠ [])
    (hcore : chooseCore s.uses l.lr (s.coreOk lid l) allCores = some p) : s.placeNext lid l = s.putTeam lid l.next p := by
  obtain ⟨h, r, hcons⟩ := List.exists_cons_of_ne_nil hhoods
  simp only [State.placeNext, hcons, hcore]

theorem placeCohort_fits {lid i : Nat} {ps : List (Nat × Nat × Nat)} {u : Uses} (hhoods : l.lr.cn ≤ l.freeHoods.length)
    (hcohort : chooseCohort s.uses l.lr (s.coreOk lid l) l.lr.cn
      (fun i => decide (s.barsHeld none l.lr.clvl i + l.lr.barsAsked ≤ barCap l.lr.clvl)) (upTo (instCount l.lr.clvl)) = some (i, ps, u)) :
    s.placeCohort lid l = (s.grantBars lid (l.next / l.lr.cn) i).putTeams lid ((upTo l.lr.cn).map (l.next + ·)) ps := by
  rw [State.placeCohort, if_neg (Nat.not_lt.2 hhoods), hcohort]

/-- A team that was not killed comes back wherever it fits (R267, R270). -/
theorem placeAgain_fits {team : Nat} {p : Nat × Nat × Nat} (htm : s.team? team = some tm) (hl : s.launch? tm.lid = some l)
    (haway : tm.resident = false) (hst : (s.ctx l.ctx).st = .active)
    (hin : ∀ c ∈ tm.cores, (s.ctx tm.ctx).outCores.contains c = false) (hres : l.lr.res = false) (hlvl : l.lr.clvl = 0)
    (hkilled : tm.killed = false) (hcore : preferCores l.lr s.uses (s.coreOk tm.lid l) (fun _ => true) 1 allCores = some [p]) :
    s.placeAgain team = s.putTeam tm.lid tm.n p := by
  have hgoes : ¬ (tm.resident = true ∨ (s.ctx l.ctx).st ≠ .active ∨ s.waitsIn tm = true) := by
    have hwaits : s.waitsIn tm = false := List.any_eq_false.2 fun c hc => by rw [hin c hc]; exact Bool.false_ne_true
    simp [haway, hst, hwaits]
  simp only [State.placeAgain, htm, hl, if_neg hgoes, hres, hlvl, hkilled, Bool.false_eq_true, if_false, true_or, if_true, Bool.not_false,
    Bool.true_or, hcore]

end Placement

section Retirement

variable {s : State} {l : Launch} {tm : Team}

theorem teamEnded_iff {team : Nat} : s.teamEnded team tm = true ↔ tm.resident = true ∧ (∀ x ∈ s.threadsOf team, x.2.st = .exited) ∧
    s.teamOps team tm = [] ∧ (∀ r ∈ s.copiesOf team, r.usesTeam = false) ∧ s.copiesInto team = false := by
  simp only [State.teamEnded, Bool.and_eq_true, List.all_eq_true, beq_iff_eq, List.isEmpty_iff, Bool.not_eq_true', and_assoc]

/-- A team that has ended leaves its state in its hood, or ends its launch where the hood cannot be written (R54, R153, R254). -/
theorem retireTeam_ended {team : Nat} (htm : s.team? team = some tm) (hended : s.teamEnded team tm = true) :
    let w := ((s.closeWindow team).leaveCohort team).writeHood team tm true
    let z := w.2.writeLines team tm w.1
    s.retireTeam team =
      if z.1 = false then z.2.endLaunch tm.lid 4
      else if tm.lr.clvl = 0 then z.2.dropTeam team
      else (z.2.dropTeam team).modLaunch tm.lid fun l => l.freeCohort (tm.n / tm.lr.cn) := by
  simp only [State.retireTeam, htm, hended, if_true, ← Bool.not_eq_true, ite_not]

/-- A launch that has ended, or whose teams have all retired, is released at .sys and reported (R269). -/
theorem retireLaunch_ends {lid : Nat} (hl : s.launch? lid = some l) (hworded : l.worded = false)
    (hended : l.ended ≠ none ∨ (l.started = true ∧ l.next = l.lr.nteams ∧ l.lr.nteams ≤ l.retired.length))
    (hbusy : s.launchBusy lid = false) :
    s.retireLaunch lid = (((s.cores.keys.foldl (fun s c => s.release c l.ctx .sys) s).writeDone l lid (l.ended.getD 0)).modLaunch lid
      fun x => { x with worded := true }).freeLaunch lid := by
  have hends : ((l.ended.isSome || (l.started && l.next == l.lr.nteams && decide (l.lr.nteams ≤ l.retired.length))) && !s.launchBusy lid) =
      true := by
    simpa [hbusy, Option.isSome_iff_ne_none, and_assoc] using hended
  simp only [State.retireLaunch, hl, hworded, hends, Bool.false_eq_true, if_false, if_true]

end Retirement

/-- Settles O34: each row by the lemma that says what it leaves. -/
theorem launchRows : Obligations.LaunchRows := by
  refine ⟨⟨?copy, fun s lid l => launchStart_turn, ?ring, ?bytes⟩, ?team, ?cohort, ?resident, ?again, ?retire, ?launch⟩
  case copy =>
    intro s p rest hposts n q lid l
    obtain ⟨hqueues, hlaunches, hnext, hmem⟩ : _ ∧ _ ∧ _ ∧ _ := by
      simpa only [State.ledger, Prod.mk.injEq] using (ledger_recordCopy hposts).trans (ledger_copied n p rest)
    have hqueue : (s.recordCopy n).queue n = { q with posts := rest, slots := q.slots.put q.freeRing lid } := by
      rw [State.queue, hqueues, Tbl.get_put_self]
    refine ⟨s.recordCopy n, rfl, ?_, hnext, rfl, rfl, rfl, rfl, ?_, ?_, hmem⟩
    · rw [hlaunches, Tbl.find_put_self]; rfl
    · rw [hqueue]
    · rw [hqueue, Tbl.find_put_self]
  case ring =>
    intro s lid l hl
    refine ⟨fun hkept => ringRead_kept hl (ringKept_iff.2 hkept), fun hen hne => ringRead_changed hl ?_⟩
    rw [Bool.eq_false_iff, Ne, ringKept_iff]
    simp [hen, hne]
  case bytes =>
    intro s a b i x y ha hb
    rw [getElem?_changed ha hb]
    by_cases hxy : x = y <;> simp [hxy]
  case team =>
    intro s l p hflag hl hkept hstarted hended hnext hst hres hlvl hhoods hcore
    rw [teamPlacement_places hflag hl hkept hstarted hended hnext hst, if_neg (by simp [hres]), if_pos hlvl, placeNext_fits hhoods hcore]
  case cohort =>
    intro s l i ps u hflag hl hkept hstarted hended hnext hst hres hlvl hhoods hcohort
    rw [teamPlacement_places hflag hl hkept hstarted hended hnext hst, if_neg (by simp [hres]), if_neg hlvl, placeCohort_fits hhoods hcohort]
  case resident =>
    intro s l hflag hl hkept hstarted hended hnext hst hres
    rw [teamPlacement_places hflag hl hkept hstarted hended hnext hst, if_pos hres]
  case again =>
    intro s tm l p hflag htm hl haway hst hin hres hlvl hkilled hcore
    exact congrArg Host.Outcome.next ((if_pos hflag).trans (placeAgain_fits htm hl haway hst hin hres hlvl hkilled hcore))
  case retire =>
    intro s tm htm hres hexited hops hcopies hinto
    exact congrArg Host.Outcome.next (retireTeam_ended htm (teamEnded_iff.2 ⟨hres, hexited, hops, hcopies, hinto⟩))
  case launch =>
    intro s l hl hkept hworded hended hbusy
    show Host.Outcome.next _ = _
    rw [ringRead_kept hl hkept, retireLaunch_ends hl hworded hended hbusy]

end Sys2Proof.Machine
end

section
/-! ### LDS and STS (R125, R146, R276, R278, R279)

The lanes act in turn in the model and in the statement alike; what differs is the words: an order as its acquire or its release, a fault
as its kind with its INFO, and bytes as the registers that receive them. -/

namespace Sys2Proof.Machine

open Sys2Proof.Say

/-- The acquire side of an access of a thread (R137, R138). -/
theorem acqBy_eq (s : State) (o : Order) (team tid c ctx : Nat) (sc : Scope) :
    s.acqBy o team tid c ctx sc = if acqOrder o then (s.learns team tid).acquire c ctx sc else s := by
  cases o <;> rfl

/-- The release side of an access of the live lanes (R137, R138). -/
theorem relBy_eq (s : State) (o : Order) (team : Nat) (live : List (Nat × Nat × Thread)) (c ctx : Nat) (sc : Scope) :
    s.relBy o team live c ctx sc =
      if relOrder o then (live.foldl (fun s x => s.tells team x.2.1) s).release c ctx sc else s := by
  cases o <;> rfl

theorem loaded_eq (d n : Nat) {b : List Byte} (hb : b.length = n) : loaded d n b = regsOfBytes d b := by
  rw [← hb]
  rfl

theorem length_sRead (t : Team) (off n : Nat) : (t.sRead off n).length = n := by simp [Team.sRead, spGetN, upTo]

theorem noRoom_eq_false_iff {k : Core} {n : Nat} : k.noRoom n = false ↔ (reqIds k.storeq).length + n ≤ 128 := by simp [Core.noRoom]

/-- A release waits for nothing where it is none, not at .sys, or with no write to another package outstanding (R401). -/
theorem relWaits_eq_none_iff {s : State} {c team : Nat} {live : List (Nat × Nat × Thread)} {ord : Order} {sys : Bool} :
    s.relWaits c team live ord sys = none ↔ relOrder ord = false ∨ sys = false ∨ ∀ x ∈ live, s.sysHold c team x.2.1 = false := by
  rw [State.relWaits, ite_eq_right_iff]
  simp only [reduceCtorEq, imp_false, Bool.not_eq_true, Bool.and_eq_false_iff, List.any_eq_false, or_assoc]

/-- Settles O37: the lanes agree one by one, each by its fault, its team's poison, and the scope of its store. -/
theorem scratchpadAccesses : Obligations.ScratchpadAccesses := by
  unfold Obligations.ScratchpadAccesses
  intro fault
  have hfault (sc : SpCode) (tm : Team) (x : Word) :
      fault sc tm x.toNat = (spFault tm (spBytes sc).1 (spBytes sc).2 x).map fun k => (k, rangeInfo k tm.lr.scratch x) := by
    simp only [fault, spFault, misaligned, Bool.or_eq_true, Bool.and_eq_true, decide_eq_true_eq, bne_iff_ne, or_assoc, and_assoc]
    split
    · rfl
    · split
      · rw [Option.map_some, rangeInfo, if_neg (by decide), BitVec.ofNat_toNat]
      · rfl
  clear_value fault
  refine ⟨rfl, ?lds, ?sts⟩
  case lds =>
    refine fun m sc => onLive_of none (some m.a) (fun s => (show exec _ s = execLds m sc s from rfl).trans (execLds.eq_1 ..))
      (fun _ => rfl) fun c g tm live s => foldl_congr_of_mem fun u x _ => ?_
    simp only [State.ldsLane, hfault, loaded_eq _ _ (length_sRead ..), acqBy_eq]
    split
    · cases spFault tm (spBytes sc).1 (spBytes sc).2 (eaLocal tm x.2.2 m.a m.mem).1 with
      | some k => rfl
      | none => cases u.team? g.team <;> rfl
    · rfl
  case sts =>
    refine fun m sc => onGo_of (some m.a) (fun s => (show exec _ s = execSts m sc s from rfl).trans (execSts.eq_1 ..))
      (fun c g tm live s hgo => ?goes) fun c g tm live s => ?writes
    case goes =>
      simp only [hfault, Option.isNone_map] at hgo
      obtain ⟨hroom, hrel⟩ := hgo
      have hwords : (s.core c).noRoom (bankWords tm m sc live) = false := noRoom_eq_false_iff.2 hroom
      rw [hwords]
      exact relWaits_eq_none_iff.2 (by simpa using hrel)
    case writes =>
      simp only [hfault, Option.isNone_map]
      generalize (live.filterMap fun x => if (spFault tm (spBytes sc).1 (spBytes sc).2 (eaLocal tm x.2.2 m.a m.mem).1).isNone then
        some ((eaLocal tm x.2.2 m.a m.mem).1, (spBytes sc).1) else none) = good
      have hrel : (if good.isEmpty then s else s.relBy m.ord g.team live c tm.ctx m.scope) =
          if good ≠ [] ∧ relOrder m.ord = true then (live.foldl (fun s x => s.tells g.team x.2.1) s).release c tm.ctx m.scope
          else s := by
        rw [relBy_eq]
        cases good with
        | nil => rfl
        | cons => simp
      rw [hrel]
      refine foldl_congr_of_mem fun u x _ => ?_
      simp only [State.stsLane]
      split
      · cases spFault tm (spBytes sc).1 (spBytes sc).2 (eaLocal tm x.2.2 m.a m.mem).1 with
        | some k => rfl
        | none =>
          cases u.team? g.team with
          | none => rfl
          | some now => cases wideScope m.scope <;> rfl
      · rfl

end Sys2Proof.Machine
end

section
/-! ### ATOM, CAS and RED (R285, R286) -/

namespace Sys2Proof.Machine

open Sys2Proof.Say

theorem minI_eq (x y : Word) : minI x y = if x.toInt < y.toInt then x else y := by simp [minI, BitVec.slt]

theorem maxI_eq (x y : Word) : maxI x y = if x.toInt < y.toInt then y else x := by simp [maxI, BitVec.slt]

/-- ATOM, whatever its operation: its width, its code, and its new value from the old one and operand D (R285, R286). -/
theorem onGo_atom (op : AtomOp) (m : MemIns) :
    OnGo (.atom m op) m.h (lenMem m.mem) (vR m.d (regsFor (atomBytes op)) :: vW m.d (regsFor (atomBytes op)) :: memOps m.a 2 m.mem)
      (fun c g tm live s => rmwWaits m (atomBytes op) c g tm live s = none)
      fun c g tm live s => s.rmwAll c g.team tm m (atomBytes op) .atomic (atomCode op)
        (fun t o => some (atomNew op o (BitVec.ofNat 64 (ofBytes (t.regBytes m.d.toNat (atomBytes op))))))
        (fun t => t.regBytes m.d.toNat (atomBytes op)) live :=
  onGo_of (some m.a) (fun s => (show exec _ s = execAtom m op s from rfl).trans (execAtom.eq_1 ..)) (fun _ _ _ _ _ hgo => hgo)
    fun _ _ _ _ _ => rfl

/-- RED, whatever its operation, goes the way of a store (R285, R286). -/
theorem onGo_red (op : RedOp) (m : MemIns) :
    OnGo (.red m op) m.h (lenMem m.mem) (vR m.d (regsFor (redBytes op)) :: memOps m.a 2 m.mem)
      (fun c g tm live s => storeWaits m (redBytes op) (redBytes op) c g tm live s = none)
      fun c g tm live s => s.stGlobal c g.team tm m (redBytes op) (redBytes op) (some op) live :=
  onGo_of (some m.a) (fun s => (show exec _ s = execRed m op s from rfl).trans (execRed.eq_1 ..)) (fun _ _ _ _ _ hgo => hgo)
    fun _ _ _ _ _ => rfl

/-- Settles O40: each operation is `onGo_atom` or `onGo_red` at its width, code and function; a lane in this package by what it reads at its
point. -/
theorem atomics : Obligations.Atomics := by
  unfold Obligations.Atomics
  intro atom red low least most
  have hleast : least = minI := (funext fun x => funext (minI_eq x)).symm
  have hmost : most = maxI := (funext fun x => funext (maxI_eq x)).symm
  clear_value least most
  subst hleast hmost
  refine ⟨?atom, ?red, ?cas, ?lane, ?write⟩
  case atom =>
    exact ⟨onGo_atom .add, onGo_atom .addB64, onGo_atom .exch, onGo_atom .exchB64, onGo_atom .minI32, onGo_atom .maxI32, onGo_atom .and,
      onGo_atom .or⟩
  case red =>
    exact ⟨⟨rfl, fun _ _ => rfl, onGo_red .add⟩, ⟨rfl, fun _ _ => rfl, onGo_red .addB64⟩, ⟨rfl, fun _ _ => rfl, onGo_red .addF32⟩,
      ⟨rfl, fun _ _ => rfl, onGo_red .minI32⟩, ⟨rfl, fun _ _ => rfl, onGo_red .maxI32⟩, ⟨rfl, fun _ _ => rfl, onGo_red .and⟩,
      ⟨rfl, fun _ _ => rfl, onGo_red .or⟩, rfl, fun _ _ => rfl, onGo_red .xor⟩
  case cas =>
    intro m w64 x
    have hx (s : State) : exec (.cas m w64 x) s = execCas m w64 x s := rfl
    cases w64 with
    | false => exact onGo_of (some m.a) (fun s => (hx s).trans (execCas.eq_1 ..)) (fun _ _ _ _ _ hgo => hgo) fun _ _ _ _ _ => rfl
    | true => exact onGo_of (some m.a) (fun s => (hx s).trans (execCas.eq_1 ..)) (fun _ _ _ _ _ hgo => hgo) fun _ _ _ _ _ => rfl
  case lane =>
    intro s c team ctx m n win lanes a f b
    dsimp only
    intro hread ht
    simp only [State.rmwLocal, State.crossGate, acqBy_eq]
    generalize ((s.closeWindow team).drainTo c fun r => overlaps r.pa r.data.length a.gpa n) = u at hread ht ⊢
    generalize u.readPoint c ctx _ a.x m.scope _ n lanes = v at hread ht ⊢
    obtain ⟨_, v⟩ := v
    obtain rfl := hread
    obtain ⟨t, ht⟩ := Option.isSome_iff_exists.1 ht
    simp [ht]
  case write => exact fun s c ctx rng x sc pa b lanes hct => ⟨if_pos hct, if_pos hct⟩

end Sys2Proof.Machine
end

section
/-! ### FENCE and WAITW (R137, R290, R291) -/

namespace Sys2Proof.Machine

open Sys2Proof.Say

/-- The conditions of WAITW as relations of the word read and the comparand (R291). -/
theorem condHolds_eq (v x : Word) : condHolds .eq v x = decide (v = x) ∧ condHolds .ne v x = decide (v ≠ x)
    ∧ condHolds .lt v x = decide (v.toInt < x.toInt) ∧ condHolds .ge v x = decide (x.toInt ≤ v.toInt)
    ∧ condHolds .ltu v x = decide (v.toNat < x.toNat) ∧ condHolds .geu v x = decide (x.toNat ≤ v.toNat)
    ∧ condHolds .any v x = decide (v &&& x ≠ 0) ∧ condHolds .none v x = decide (v &&& x = 0) := by
  refine ⟨rfl, ?ne, rfl, ?ge, rfl, ?geu, ?any, rfl⟩
  case ne | any => rw [Bool.eq_iff_iff]; simp [condHolds]
  case ge | geu => rw [Bool.eq_iff_iff]; simp [condHolds, BitVec.slt, BitVec.ult]

/-- A WAITW whose condition does not hold: its window opens, and with LA = 0 the thread parks with WAIT = 2 (R47, R186, R291). -/
theorem openWait_watch (s : State) (team tid : Nat) (h : Hdr) (id : Nat) (pc : Pc) (d : Nat) (acq : Bool) (va : DWord) (cond : WCond)
    (x : Word) (dl : Option Nat) (sc : Scope) (poll : Nat) (line : Option Nat) :
    s.openWait team tid (watchWin h id pc d acq) (.watch va cond x dl acq sc d poll line) =
      let u := s.modThread team tid fun v =>
        v.openWin { watchWin h id pc d acq with wait := some (.watch va cond x dl acq sc d poll line) } [d] []
      if h.la = 0 then parks u team tid 2 else u := by
  simp only [← la_toNat_eq_zero]
  rfl

/-- FENCE lane by lane, from its effect on one lane (R290). -/
theorem onLanes_fence {h : Hdr} {ord : FenceOrder} {sc : Scope} {f : Nat → Nat → Team → Nat → Thread → State → State}
    (hf : ∀ c team tm tid t s, State.fence s c team tid tm.ctx h t.pc ord sc = f c team tm tid t s) :
    OnLanes (.fence h ord sc) h 2 false [] f :=
  onLanes_of none none (fun s => (show exec _ s = execFence h ord sc s from rfl).trans (execFence.eq_1 ..)) (fun _ => rfl) hf

/-- Settles O41: each FENCE by its sides; WAITW by `openWait_watch` for the thread that waits; the conditions by `condHolds_eq`. -/
theorem fencesAndWatches : Obligations.FencesAndWatches := by
  unfold Obligations.FencesAndWatches
  intro rel
  refine ⟨?acq, ?rel, ?sc, ?waitw, condHolds_eq⟩
  case acq | rel | sc => exact fun h sc => onLanes_fence fun _ _ _ _ _ _ => rfl
  case waitw =>
    intro h cond ord sc d a b
    refine onLanes_of none (some a) (fun s => (show exec _ s = execWaitw h cond ord sc d a b s from rfl).trans (execWaitw.eq_1 ..))
      (fun _ => rfl) fun c team tm tid t s => ?_
    rw [State.waitw]
    simp only [openWait_watch]
    rfl

end Sys2Proof.Machine
end

section
/-! ### PFCH, CCTL, PIN, UNPIN, TXQ and FRQ (R294, R295, R297, R305, R306) -/

namespace Sys2Proof.Machine

open Sys2Proof.Say

/-- An address is not canonical where one of its nine high bits is set (R85). -/
theorem nonCanonical_iff (va : DWord) : 2 ^ 55 ≤ va.toNat ↔ va.extractLsb' 55 9 ≠ 0 := by
  have := va.isLt
  simp only [ne_eq, BitVec.toNat_eq, BitVec.extractLsb'_toNat, Nat.shiftRight_eq_div_pow, BitVec.ofNat_eq_ofNat, BitVec.toNat_ofNat]
  omega

/-- PFCH and CCTL are ignored on pages of another package and on UC pages (R276, R294, R295). -/
theorem ignored_iff {α : Type} (p q cls : Nat) (x y : α) : (if p ≠ q ∨ cls = 0 then x else y) = if p = q ∧ cls ≠ 0 then y else x := by
  by_cases hact : p = q ∧ cls ≠ 0
  · rw [if_pos hact, if_neg (by omega)]
  · rw [if_neg hact, if_pos (by omega)]

/-- UNPIN of a range that is not in force does nothing (R297). -/
theorem unpin_eq (s : State) (d ctx idx : Nat) : s.unpin d ctx idx =
    if ((s.die d).range ctx idx).v = false then s
    else (s.modRange d ctx idx fun r => { r with v := false }).modDie d fun x => x.unretain ctx idx := by
  rw [State.unpin]
  cases ((s.die d).range ctx idx).v <;> rfl

/-- FRQ's result, the frame looked up in the bad-frame list by its number's bits (R306, R423). -/
theorem frq_eq (s : State) (a : Nat) : BitVec.ofNat 128 (s.frq a) =
    let pa := localOf a
    let fr := s.frame (pa / 65536)
    let cnt (o : Nat) : Nat := if s.cn.fetEn then s.peekNat (s.cn.fetBase + 8 * frameNo pa + o) 4 else 0
    if pkgOf a ≠ s.pkgid ∨ isDram pa = false ∨ s.absent pa = true then 0
    else BitVec.ofNat 128 (cnt 4 * 2 ^ 64 + cnt 0 * 2 ^ 32 + 8
      + b2n (s.bfl.any fun e => (e.extractLsb' 16 27).toNat == pa / 65536) * 4 + b2n fr.mig * 2 + b2n fr.ret) := by
  simp only [State.frq, State.listed, bits, BitVec.extractLsb'_toNat, Bool.not_eq_true, apply_ite (BitVec.ofNat 128)]
  rfl

/-- Settles O42: PFCH and CCTL by the outcome of their check, PIN by its last live lane, TXQ by the outcome of its walk. -/
theorem cacheAndQueryInstructions : Obligations.CacheAndQueryInstructions := by
  unfold Obligations.CacheAndQueryInstructions
  refine ⟨?pfch, ?cctl, ?pin, ?unpin, ?txq, ?frq⟩
  case pfch =>
    intro h a mem ex hint sc
    refine onLanes_of none (some a) (fun s => (show exec _ s = execPfch h a mem ex hint sc s from rfl).trans (execPfch.eq_1 ..))
      (fun _ => rfl) fun c team tm tid t s => ?_
    dsimp only
    obtain ⟨x, u⟩ := s.check (dieOf c) (some c) tm.ctx .read (eaGlobal tm t a mem).1
    cases x with
    | ok gpa x => exact ignored_iff ..
    | pageFault | trap | poison => rfl
  case cctl =>
    intro h a mem op sc
    refine onLanes_of none (some a) (fun s => (show exec _ s = execCctl h a mem op sc s from rfl).trans (execCctl.eq_1 ..))
      (fun _ => rfl) fun c team tm tid t s => ?_
    dsimp only
    obtain ⟨x, u⟩ := s.check (dieOf c) (some c) tm.ctx .read (eaGlobal tm t a mem).1
    cases x with
    | ok gpa x => exact ignored_iff ..
    | pageFault | trap | poison => rfl
  case pin =>
    intro h a b idx
    refine onLive_of none (some a) (fun s => (show exec _ s = execPin h a b idx s from rfl).trans (execPin.eq_1 ..)) (fun _ => rfl)
      fun c g tm live s => ?_
    simp only [nonCanonical_iff, State.pin]
    cases live.getLast? with
    | none => rfl
    | some x =>
      simp only [BitVec.toNat_eq (y := (0 : Word))]
      rfl
  case unpin =>
    intro h idx
    refine onLive_of none none (fun s => (show exec _ s = execUnpin h idx s from rfl).trans (execUnpin.eq_1 ..)) (fun _ => rfl)
      fun c g tm live s => ?_
    rw [unpin_eq]
    cases live with
    | nil => rfl
    | cons x l =>
      simp only [reduceCtorEq, false_or]
      rfl
  case txq =>
    intro h d a
    refine onLanes_of (some 0x360) (some a) (fun s => (show exec _ s = execTxq h d a s from rfl).trans (execTxq.eq_1 ..)) nofun
      fun c team tm tid t s => ?_
    by_cases hva : (t.reg64 a.toNat).extractLsb' 55 9 ≠ 0
    · simp only [State.txq, nonCanonical_iff, if_pos hva]
      rfl
    · simp only [State.txq, nonCanonical_iff, if_neg hva]
      obtain ⟨x, u⟩ := s.translate (dieOf c) (some c) tm.ctx (t.reg64 a.toNat).toNat
      cases x with
      | ok x =>
        dsimp only
        rw [apply_ite (BitVec.ofNat 128)]
        rfl
      | fault | poison => rfl
  case frq =>
    intro h d a
    refine onLanes_of (some 0x361) (some a) (fun s => (show exec _ s = execFrq h d a s from rfl).trans (execFrq.eq_1 ..)) nofun
      fun c team tm tid t s => ?_
    rw [frq_eq]
    rfl

end Sys2Proof.Machine
end

section
/-! ### LD where two pages of one frame differ in class (R127, R278)

A CT line of a cache carries no bytes of its own (log 7). Where the frame is mapped on an SI page too, an LD at .core there takes its bytes
from that line, and finds none. -/

namespace Sys2Proof.Machine

open Sys2Proof.Say

/-- The registers that the windows of thread 0 of team 0 bring. -/
def State.windowRegs (s : State) : Option (List (List Nat)) := (s.thread? 0 0).map fun t => t.wins.map fun w => w.regs.map (·.1)

/-- The sequencer's moves leave a thread's windows as they were. -/
theorem State.SeqOnly.windowRegs {s t : State} (h : s.SeqOnly t) : t.windowRegs = s.windowRegs := by
  have hbare := congrArg (Option.map fun t : Thread => t.wins.map fun w => w.regs.map (·.1)) (h.2.1 (tkey 0 0))
  rw [Option.map_map, Option.map_map] at hbare
  exact hbare

/-- The first line of memory as an access on a CT page leaves it in an L1, without bytes of its own. -/
def ctCopy : Line :=
  { ln := 0, st := .s, ctx := 0, tagv := true, hint := 0, retained := none, dirty := 0, cmp := false, comp := false, data := []
    filled := 0, way := 0, poison := false }

/-- The placed program (log 2) with its leaf an SI page's and that line in the L1 of its core, its group executing. -/
def mixedState : State :=
  { (State.reset.withFetchWord 32 0x7005).pokeNat 0x10000 8 0x37 with
    cores := [(0, { Core.init 0 with active := [(0, placedGroup)], l1 := { Cache.init with lines := [ctCopy] } })]
    issueQ := [], cur := some (0, 0) }

/-- LD.b64 to the pair of registers 0 and 1 from address 0 (registers 2 and 3), at .core. -/
def pairLoad : MemIns := { h := bare, d := 0, a := 2, mem := .base, ord := .rlx, scope := .core }

theorem mixedState_ready : mixedState.Ready 0 0 placedGroup placedTeam bare (vW 0 2 :: memOps 2 2 .base) :=
  ⟨by decide +kernel, by decide, by decide +kernel⟩

/-- In the model the load brings register 0 alone. -/
theorem pairLoad_brings_one {t : State} (h : exec (.ld pairLoad .b64) mixedState = .next t) : t.windowRegs = some [[0]] := by
  have hrun : (match exec (.ld pairLoad .b64) mixedState with
    | .next t => t.windowRegs
    | _ => none) = some [[0]] := by decide +kernel
  rwa [h] at hrun

/-- Refutes O38: its clause for LD in the global space has a load of 8 bytes bring both registers of its pair, and `mixedState` is a state
in which the model's brings one. -/
theorem not_globalAccesses : ¬ Obligations.GlobalAccesses := by
  intro ⟨_, hld, _⟩
  obtain ⟨t, ht, hseq⟩ := hld pairLoad .b64 rfl mixedState 0 0 placedGroup placedTeam mixedState_ready nofun
  have hboth : t.windowRegs = some [[0, 1]] := hseq.windowRegs.trans (by decide +kernel)
  rw [pairLoad_brings_one ht] at hboth
  exact absurd hboth (by decide)

end Sys2Proof.Machine
end

section
/-! ### A store at home whose region is first asked for from another die (R309, R314, R421)

The home die's L2 then has the package directory take up its lines of the region; with the directory full an entry is recalled, and a
poisoned dirty line that this writes back is counted in its frame's record in memory. -/

namespace Sys2Proof.Machine

open Sys2Proof.Say

theorem head?_sortBy_replicate {α : Type} (key : α → Nat) {n : Nat} (hn : 0 < n) (x : α) :
    (sortBy key (List.replicate n x)).head? = some x := by
  induction n with
  | zero => exact absurd hn (Nat.lt_irrefl 0)
  | succ n ih =>
    cases n with
    | zero => rfl
    | succ n =>
      obtain ⟨l, hl⟩ := List.head?_eq_some_iff.1 (ih (Nat.succ_pos n))
      rw [sortBy, List.replicate_succ, List.foldr_cons, ← sortBy, hl, insertBy, if_pos (Nat.le_refl _)]
      rfl

/-- The entry that a directory makes for the region of a line (R312). -/
def newEntry (now ln : Nat) : DirEntry :=
  { base := ln * 128 / 65536 * 65536, log2 := 16, st := .i, holders := [], owner := none, busy := [], queue := [], last := now
    poisonPend := false }

section Directory

variable {s : State} {d : DirRef} {e : DirEntry} {ln : Nat}

/-- A directory full of idle entries recalls one of them for a new region (R314). -/
theorem dirEntry_full {n : Nat} (hdirs : s.dirs = List.replicate n (d, e)) (hcap : dirCapacity d ≤ n) (hcov : e.covers ln = false)
    (hslice : dirSlice d e.base = dirSlice d (ln * 128 / 65536 * 65536)) (hbusy : e.busy = []) (hpend : e.poisonPend = false)
    (hhost : e.holders.contains .host = false) :
    s.dirEntry d ln = (some (newEntry (s.recallEntry d e).clk ln),
      { s.recallEntry d e with dirs := (d, newEntry (s.recallEntry d e).clk ln) :: (s.recallEntry d e).dirs }) := by
  have hsome : 0 < n := Nat.lt_of_lt_of_le (by cases d <;> exact Nat.succ_pos _) hcap
  have hfind : s.dirFind d ln = none := by simp [State.dirFind, hdirs, hcov]
  have hof : s.dirsOf d (ln * 128 / 65536 * 65536) = List.replicate n e := by simp [State.dirsOf, hdirs, hslice]
  have hold : s.oldest d (ln * 128 / 65536 * 65536) (fun _ => false) = some e := by
    rw [State.oldest, hof, List.filter_replicate, if_pos (by simp [hbusy, hpend]), head?_sortBy_replicate _ hsome]
  have hroom : s.dirRoom d (ln * 128 / 65536 * 65536) = (true, s.recallEntry d e) := by
    rw [State.dirRoom, hof, hold, List.length_replicate, if_neg (Nat.not_lt.2 hcap), if_neg (by simp [DirEntry.leaving, hbusy])]
    simp only [hhost, Bool.not_false]
  rw [State.dirEntry, hfind]
  simp only [hroom]
  rfl

/-- A request for a line that nothing holds is granted at once (R311). -/
theorem dirServe_unheld {u : State} {h : Holder} {excl : Bool} (hentry : s.dirEntry d ln = (some e, u)) (hholders : e.holders = [])
    (hbusy : e.busy = []) (hpend : e.poisonPend = false) :
    s.dirServe d ln h excl = (true, u.dirSet d ln [e.granted h excl u.clk false]) := by
  rw [State.dirServe, hentry]
  simp [DirEntry.leaving, hbusy, hpend, State.dirSplit, hholders, DirEntry.toProbe]

/-- The first request of another die for a region of which the home die's L2 holds one line (R309). -/
theorem setExport_first {die home region l : Nat} {w : Bool} (hnear : regionOf (ln * 128) = .near)
    (hhome : ln * 128 / 0x0C00000000 = home) (hdie : home ≠ die) (hregion : ln * 128 / 65536 = region)
    (hclear : (s.die home).export_.contains region = false) (hlines : (s.die home).cache.regionLines region = [(l, w)]) :
    s.setExport die ln =
      ((s.modDie home fun x => { x with export_ := x.export_ ++ [region] }).dirServe (pkgDir l) l (.l2 home) w).2 := by
  rw [State.setExport, hnear]
  simp only [hhome, hregion, hdie, hclear, hlines, Bool.false_eq_true, or_self, if_false]
  rfl

/-- A store of a class that is neither SI nor CT is performed at home (R128). -/
theorem storeLocal_home {r : StoreReq} {lanes : Nat} (hred : r.red = none) (hsi : r.cls ≠ 1) (hct : r.cls ≠ 2) :
    s.storeLocal r lanes =
      ((s.setExport (dieOf r.core) (lineOf (localOf r.pa))).pokeN (localOf r.pa) r.data).wakeWatch (lineOf (localOf r.pa)) := by
  rw [State.storeLocal, hred]
  simp only [State.writePoint, if_neg hsi, if_neg hct]
  rfl

end Directory

/-- The entry of the first far region, which the L2 of die 2 holds. -/
def farEntry : DirEntry :=
  { base := 0x20000000000, log2 := 16, st := .x, holders := [.l2 2], owner := some (.l2 2), busy := [], queue := [], last := 0
    poisonPend := false }

/-- The L2 of die 0 holds the first line of memory; that of die 2 the first far line, dirty and poisoned; package directory 0 is full of
entries for far regions, and errors are counted in a table at 0x100000 (R421). -/
def crowdedState : State :=
  let nearLine : Line :=
    { ln := 0, st := .s, ctx := 0, tagv := true, hint := 0, retained := none, dirty := 0, cmp := false, comp := false, data := []
      filled := 0, way := 0, poison := false }
  let farLine : Line := { nearLine with ln := 0x400000000, st := .m, dirty := 1, poison := true }
  { State.reset with
    dirs := List.replicate 16384 (pkgDir 0, farEntry)
    dies := [(0, { Die.init with cache := { Cache.init with lines := [nearLine] } })
      , (2, { Die.init with cache := { Cache.init with lines := [farLine] } })]
    cn := { State.reset.cn with fetEn := true, fetBase := 0x100000 } }

/-- A one-byte store on a UC page at address 0, by core 16 of die 1. -/
def byteStore : StoreReq := storeRec 16 0 0 0 0 0 0 [7]

/-- The count of uncorrectable errors of the first far frame (R421). -/
def farCount : Nat := 0x100000 + 8 * 6291456 + 4

/-- The store has an error of the far frame counted. -/
theorem byteStore_counts : (crowdedState.storeLocal byteStore 1).peek farCount = 1 := by
  have hasked := setExport_first (s := crowdedState) (die := dieOf byteStore.core) (ln := lineOf (localOf byteStore.pa)) (l := 0)
    (w := false) (by decide) (home := 0) (by decide) (by decide) (region := 0) (by decide) (by decide) (by decide)
  have hdirs : (crowdedState.modDie 0 fun x => { x with export_ := x.export_ ++ [0] }).dirs = List.replicate 16384 (pkgDir 0, farEntry) :=
    State.setDie_dirs ..
  have hentry := dirEntry_full (ln := 0) hdirs (by decide) (by decide) (by decide) rfl rfl rfl
  have hserved := dirServe_unheld (h := .l2 0) (excl := false) hentry rfl rfl rfl
  rw [storeLocal_home rfl (by decide) (by decide), hasked, hserved]
  decide +kernel

/-- Refutes O39: its last clause has a store at home change the bytes it names alone, and `byteStore`, of one byte at address 0, raises the
count of errors of a far frame. -/
theorem not_storesAndReads : ¬ Obligations.StoresAndReads := by
  intro ⟨_, _, _, hhome⟩
  have hkept := hhome crowdedState byteStore 1 farCount (by decide) rfl (by decide) (by decide) (by decide)
  rw [byteStore_counts] at hkept
  exact absurd hkept (by decide +kernel)

end Sys2Proof.Machine
end

section
/-! ### What a watch asks of the directories (R292, R310)

A woken watch asks the directories whether it may read its line; the model then reads from the state before that question, which asks them
once more, the statement from the state after it. The directories' lists tell the two apart: an entry asked for twice stands before one
asked for in between, and among entries as old as each other this decides which is recalled (R314). -/

namespace Sys2Proof.Machine

open Sys2Proof.Say

/-- The window of a WAITW until the word at 0x8000 is 0. -/
def zeroWatch : Window :=
  { id := 7, kind := .mem, left := 0, ready := false, regs := [(63, 0)], preds := [], flags := 0, late := none, canLate := false
    wait := some (.watch 0x8000 .eq 0 none false .die 63 4096 none), pc := 0, yh := false }

/-- The placed thread, parked on that watch. -/
def watcher : Thread := { placedThread with st := .parked, wait := 2, wins := [zeroWatch] }

/-- The region of the word, one entry, of which another L1 of the cluster holds lines. -/
def sharedRegion : DirEntry :=
  { base := 0, log2 := 16, st := .s, holders := [.l1 1], owner := none, busy := [], queue := [], last := 0, poisonPend := false }

/-- The placed program (log 2) with that thread, and that entry in its cluster's directory. -/
def sharedState : State :=
  { State.reset.withFetchWord 32 0x7005 with threads := [(0, watcher)], dirs := [(.cluster 0, sharedRegion)], issueQ := [], ev := {} }

/-- The CT page on which the placed program's table maps every address to itself (log 2). -/
def placedPage : Xlat :=
  { ctx := 0, vpn := 0, log2 := 42, pa := 0, cls := 2, w := true, xp := true, cmp := false, hint := 0, rlog := false, mism := false }

/-- In the model the parts of the cluster's entry stand together: it is asked once, after the die's directory. -/
theorem watchWake_asks_once {t : State} (h : exec .watchWake sharedState = .next t) :
    (t.dirs.map (·.1)).take 2 = [.cluster 0, .cluster 0] := by
  have hrun : (match exec .watchWake sharedState with
    | .next t => (t.dirs.map (·.1)).take 2
    | _ => []) = [.cluster 0, .cluster 0] := by decide +kernel
  rwa [h] at hrun

/-- Refutes O43: its clause for a woken watch has the word read from the state that the question to the directories leaves, and in
`sharedState` the die's entry, asked for twice, then stands between the parts of the cluster's. -/
theorem not_storeQueueAndWatchRows : ¬ Obligations.StoreQueueAndWatchRows := by
  intro ⟨_, _, _, hwatch, _⟩
  obtain ⟨_, hgoes⟩ := hwatch sharedState placedTeam watcher zeroWatch 0x8000 .eq 0 none false .die 63 4096 none 0x8000 placedPage
    (by decide) (by decide) rfl (by decide) rfl (by decide +kernel) (by decide +kernel)
  obtain ⟨hwake, _⟩ := hgoes (by decide +kernel) 0 (by decide +kernel)
  exact absurd (watchWake_asks_once hwake) (by decide +kernel)

end Sys2Proof.Machine
end

section
/-! ### The rows of the coherence and translation engine (R129, R309 to R316, R323 to R327) -/

namespace Sys2Proof.Machine

section Requests

variable {s u : State} {d : DirRef} {r : Nat × Holder × Bool} {e : DirEntry}

/-- A request that finds no free entry is not taken: only a recall may have begun (R314). -/
theorem dirAsk_full (hentry : s.dirEntry d r.1 = (none, u)) : s.dirAsk d r = u := by
  simp only [State.dirAsk, hentry]

/-- An entry that is BUSY with its own recall takes no request (R314, R315). -/
theorem dirAsk_leaving (hentry : s.dirEntry d r.1 = (some e, u)) (hbusy : e.busy ≠ []) (hqueue : e.queue = []) : s.dirAsk d r = u := by
  have hleaving : e.leaving = true := by simp [DirEntry.leaving, hbusy, hqueue]
  simp only [State.dirAsk, hentry, if_pos hleaving]

/-- A request waits once behind a BUSY entry, or one that is to be rebuilt (R311, R426). -/
theorem dirAsk_waits (hentry : s.dirEntry d r.1 = (some e, u))
    (hwaits : (e.busy ≠ [] ∧ e.queue ≠ []) ∨ (e.busy = [] ∧ e.poisonPend = true)) :
    s.dirAsk d r = u.dirSet d r.1 [{ e with queue := if e.queue.contains r then e.queue else e.queue ++ [r] }] := by
  have hqueued : e.enqueue r = { e with queue := if e.queue.contains r then e.queue else e.queue ++ [r] } := by
    rw [DirEntry.enqueue]
    split <;> rfl
  have hstays : e.leaving = false ∧ (!e.busy.isEmpty || e.poisonPend) = true := by
    obtain ⟨hbusy, hqueue⟩ | ⟨hbusy, hpend⟩ := hwaits
    · simp [DirEntry.leaving, hbusy, hqueue]
    · simp [DirEntry.leaving, hbusy, hpend]
  simp only [State.dirAsk, hentry, hstays.1, hstays.2, Bool.false_eq_true, if_false, if_true, hqueued]

/-- A request at an idle entry is granted at once where nobody is to be probed, and else the entry is BUSY with it (R311, R312). -/
theorem dirAsk_serves (hentry : s.dirEntry d r.1 = (some e, u)) (hbusy : e.busy = []) (hpend : e.poisonPend = false) :
    s.dirAsk d r =
      let b := u.dirSplit d r.1 e r.2.1 r.2.2
      let ps := b.1.toProbe r.2.1 r.2.2
      b.2.dirSet d r.1 [if ps = [] then b.1.granted r.2.1 r.2.2 b.2.clk false else { b.1 with busy := ps, queue := [r] }] := by
  have hidle : e.leaving = false ∧ (!e.busy.isEmpty || e.poisonPend) = false := by simp [DirEntry.leaving, hbusy, hpend]
  simp only [State.dirAsk, hentry, hidle.1, hidle.2, Bool.false_eq_true, if_false, List.isEmpty_iff]
  split <;> rfl

end Requests

section Acknowledgements

variable {s : State} {d : DirRef} {ln : Nat} {e : DirEntry} {hs : List Holder}

/-- An entry that was recalled is free once all that it awaits have answered (R314). -/
theorem probeAcks_frees (hfind : s.dirFind d ln = some e) (hqueue : e.queue = []) (hbusy : e.busy ≠ [])
    (hall : ∀ h ∈ e.busy, h ∈ hs) : s.probeAcks d ln hs = s.dirFree d e := by
  have hleaves : (e.leaving && e.busy.all hs.contains) = true := by simpa [DirEntry.leaving, hbusy, hqueue] using hall
  simp only [State.probeAcks, hfind, hqueue, if_pos hleaves]

/-- Answers reach an entry that is BUSY with a request: it awaits the others, or the request is granted and those that waited are taken up
(R311). -/
theorem probeAcks_answers {r : Nat × Holder × Bool} {rest : List (Nat × Holder × Bool)} (hfind : s.dirFind d ln = some e)
    (hqueue : e.queue = r :: rest) (hbusy : e.busy ≠ [])
    (hleft : (e.busy.filter fun h => !(hs.contains h && s.answered h r.1 r.2.2)) ≠ e.busy) :
    s.probeAcks d ln hs =
      let left := e.busy.filter fun h => !(hs.contains h && s.answered h r.1 r.2.2)
      let dirty := e.busy.any fun h => (holderCaches h).any fun c => ((s.cache c).line? r.1).any fun l => l.dirty != 0
      if left = [] then
        rest.foldl (fun s q => s.dirAsk d q)
          (s.dirSet d ln [({ e with busy := [], queue := [] } : DirEntry).granted r.2.1 r.2.2 s.clk dirty])
      else s.dirSet d ln [{ e with busy := left }] := by
  have hsome : ¬ (e.busy.isEmpty = true ∨ (e.busy.filter fun h => !(hs.contains h && s.answered h r.1 r.2.2)) = e.busy) := by
    simpa [hbusy] using hleft
  simp only [State.probeAcks, hfind, hqueue, if_neg hsome]
  cases e.busy.filter fun h => !(hs.contains h && s.answered h r.1 r.2.2) with
  | nil => rfl
  | cons h l => rfl

end Acknowledgements

section Snoops

@[simp] theorem leaveDirs_ev (s : State) (c : CacheRef) (ln : Nat) : (s.leaveDirs c ln).ev = s.ev := by
  have hleave (s : State) (d : DirRef) (h : Holder) : (s.dirLeave d ln h).ev = s.ev := by
    unfold State.dirLeave
    split <;> rfl
  have hmay (s : State) (d : DirRef) (h : Holder) (b : Bool) : (if b then s.dirLeave d ln h else s).ev = s.ev := by
    cases b with
    | false => rfl
    | true => exact hleave s d h
  cases c with
  | l1 k => exact (hmay _ _ _ _).trans (hmay _ _ _ _)
  | l2 | crown => exact hmay _ _ _ _

/-- What a snoop does at a cache that holds the line (R315). -/
theorem snooped_line {s : State} {c : CacheRef} {ln : Nat} {l : Line} (hline : (s.cache c).line? ln = some l) (excl : Bool) :
    s.snooped excl ln c = if excl then ((s.setCache c ((s.cache c).without ln)).toHome l).leaveDirs c ln
      else (s.setCache c ((s.cache c).modLine ln fun l =>
        { l with dirty := 0, st := if l.st = .si ∨ l.st = .ro then l.st else .s })).toHome l := by
  simp only [State.snooped, hline]

@[simp] theorem snooped_ev (s : State) (excl : Bool) (ln : Nat) (c : CacheRef) : (s.snooped excl ln c).ev = s.ev := by
  cases hline : (s.cache c).line? ln with
  | none => simp only [State.snooped, hline]
  | some l =>
    rw [snooped_line hline]
    cases excl <;> simp

/-- A snoop of the host taken to each cache by the row's own flag is taken to each by one flag (R315). -/
theorem foldl_snooped_ev {excl : Bool} {ln : Nat} (l : List CacheRef) {s : State} (hflag : s.ev.flag = excl) :
    l.foldl (fun s c => s.snooped s.ev.flag ln c) s = l.foldl (fun s c => s.snooped excl ln c) s := by
  induction l generalizing s with
  | nil => rfl
  | cons c l ih =>
    rw [List.foldl_cons, List.foldl_cons, hflag]
    exact ih (by rw [snooped_ev, hflag])

end Snoops

section Rows

variable {s : State} {e : DirEntry}

/-- A probed holder gives its copy up to an exclusive request, and its exclusive right to a shared one (R311). -/
theorem probe_answers {l : Nat} {h : Holder} {excl : Bool} {rest : List (Nat × Holder × Bool)}
    (hfind : s.dirFind s.ev.dref (lineOf s.ev.pa) = some e) (hqueue : e.queue = (l, h, excl) :: rest)
    (hbusy : e.busy.contains s.ev.holder = true) (hholder : s.ev.holder ≠ .host) :
    exec .probe s = .next (if excl then s.invalidate s.ev.holder l else s.downgrade s.ev.holder l) := by
  have hprobed : (e.busy.contains s.ev.holder && s.ev.holder != .host) = true := Bool.and_eq_true_iff.2 ⟨hbusy, bne_iff_ne.2 hholder⟩
  show execProbe s = _
  simp only [execProbe, hfind, hqueue, if_pos hprobed]

/-- The host's response grants the one request that awaits it (R315). -/
theorem backInvalidateResponse_grants {r : Nat × Holder × Bool}
    (hfind : s.dirFind (pkgDir (lineOf s.ev.pa)) (lineOf s.ev.pa) = some e) (hqueue : e.queue = [r]) (hbusy : e.busy = [.host]) :
    exec .backInvalidateResponse s = .next (s.dirSet (pkgDir (lineOf s.ev.pa)) (lineOf s.ev.pa)
      [({ e with busy := [], queue := [] } : DirEntry).granted r.2.1 r.2.2 s.clk false]) := by
  have hleft : (e.busy.filter fun h => !([Holder.host].contains h && s.answered h r.1 r.2.2)) = [] := by
    simp [hbusy, State.answered, holderCaches]
  have hacks := probeAcks_answers hfind hqueue (by simp [hbusy]) (by rw [hleft, hbusy]; exact nofun)
  refine congrArg Host.Outcome.next (hacks.trans ((if_pos hleft).trans ?_))
  simp [hbusy, holderCaches]

/-- Siblings that may merge give their places to the entry of their parent (R313). -/
theorem entryMerge_merges {b : DirEntry} (hfind : s.dirFind s.ev.dref (lineOf s.ev.pa) = some e)
    (hsibling : s.sibling s.ev.dref e = some b) (hmerge : s.canMerge e b = true) :
    exec .entryMerge s =
      let m := mergeOf e b
      let u : State := { s with dirs := s.dirs.filter fun x => !(x.1 == s.ev.dref && (x.2 == e || x.2 == b)) }
      .next (if m.log2 = 16 ∧ m.st = .i then u.unexport s.ev.dref m.base else { u with dirs := (s.ev.dref, m) :: u.dirs }) := by
  show execEntryMerge s = _
  simp only [execEntryMerge, State.merge, hfind, Option.bind_some, hsibling, Option.map_some, if_pos hmerge]

/-- A snoop of a line whose region has an entry reaches every holder's caches, unless the entry is BUSY (R311, R315). -/
theorem hostSnoop_held {b : Nat} (hregion : regionOf s.ev.pa = .host b)
    (hfind : s.dirFind (pkgDir (lineOf s.ev.pa)) (lineOf s.ev.pa) = some e) :
    exec .hostSnoop s = .next
      (if e.busy = [] then (e.holders.flatMap holderCaches).foldl (fun u c => u.snooped s.ev.flag (lineOf s.ev.pa) c) s else s) := by
  show execHostSnoop s = _
  simp only [execHostSnoop, hregion, hfind]
  cases e.busy with
  | nil => exact congrArg Host.Outcome.next ((List.foldl_flatMap ..).symm.trans (foldl_snooped_ev _ rfl))
  | cons h l => rfl

/-- The host's own half of the crown answers for a line whose region has no entry (R315). -/
theorem hostSnoop_unheld {b : Nat} (hregion : regionOf s.ev.pa = .host b)
    (hfind : s.dirFind (pkgDir (lineOf s.ev.pa)) (lineOf s.ev.pa) = none) :
    exec .hostSnoop s = .next (s.snooped s.ev.flag (lineOf s.ev.pa) (.crown (crownHalf s.ev.pa))) := by
  show execHostSnoop s = _
  simp only [execHostSnoop, hregion, hfind]

/-- An idle cache gives up the lines it owns, drops the others and sleeps (R316). -/
theorem cacheSleep_idle (hmay : s.maySleep s.ev.cache = true) (hawake : (s.cache s.ev.cache).asleep = false) :
    exec .cacheSleep s =
      let c := s.ev.cache
      let own := ((s.cache c).lines.filter fun l => l.st == .e || l.st == .m || l.st == .o).map (·.ln)
      let u := own.foldl (fun s n => s.giveUp c n) s
      let v := ((u.cache c).lines.map (·.ln)).foldl (fun s n => s.evict c n) u
      .next (v.setCache c { v.cache c with asleep := true }) := by
  have hsleeps : (s.maySleep s.ev.cache && !(s.cache s.ev.cache).asleep) = true := by rw [hmay, hawake]; rfl
  exact congrArg Host.Outcome.next (if_pos hsleeps)

theorem lifetimeLimit_reached {l : Line} (hline : (s.cache s.ev.cache).line? (lineOf s.ev.pa) = some l) (hsi : l.st = .si)
    (hold : l.filled + 65536 ≤ s.clk) : exec .lifetimeLimit s = .next (s.evict s.ev.cache (lineOf s.ev.pa)) := by
  show execLifetimeLimit s = _
  simp only [execLifetimeLimit, hline, if_pos (And.intro hsi hold)]

/-- A record that waits enters the ring in its order once there is room, unless the ring holds its duplicate (R323). -/
theorem faultRecordEnter_first {r : PfRec} {rest : List PfRec} (hwait : s.pfWait = r :: rest) (hroom : s.pfRoom = true) :
    exec .faultRecordEnter s =
      let u : State := { s with pfWait := rest }
      .next (if u.pfDup (pfKey r) [] then u else u.pfPut r) := by
  show execFaultRecordEnter s = _
  simp only [execFaultRecordEnter, hwait, if_pos hroom]

end Rows

section Commands

variable {s : State} {k : Cmd}

theorem shoot_runs (hcmd : s.cmd = some k) (hop : k.op = 1) (hran : k.ran = false) :
    exec .shoot s = .next { s.shootNow k with cmd := some { k with ran := true } } := by
  show execShoot s = _
  simp [execShoot, hcmd, hop, hran]

theorem flush_runs (hcmd : s.cmd = some k) (hop : k.op = 2) (hran : k.ran = false) :
    exec .flush s = .next { s.flushFrames k.first k.count with cmd := some { k with ran := true } } := by
  show execFlush s = _
  simp [execFlush, hcmd, hop, hran]

/-- WAKE restarts the threads of resident teams, then those of teams that are away, then the rows of copies (R324, R344). -/
theorem wake_runs (hcmd : s.cmd = some k) (hop : k.op = 3) (hran : k.ran = false) :
    exec .wake s =
      let u := (s.faulted k false).foldl (fun s x => s.wakeAway x.1 x.2) ((s.faulted k true).foldl (fun s x => s.restart x.1 x.2) s)
      .next { u with
        cores := u.cores.mapKV fun _ (c : Core) => { c with copyq := c.copyq.map k.resumes }, cmd := some { k with ran := true } } := by
  have hruns : k.op = 3 ∧ ¬ k.ran = true := ⟨hop, by simp [hran]⟩
  show execWake s = _
  simp only [execWake, hcmd, if_pos hruns]

/-- BUSY clears once the command has run and a SHOOT's earlier translations are no longer in use (R325, R326). -/
theorem rangeCommandComplete_clears (hcmd : s.cmd = some k) (hran : k.ran = true) (hdone : k.op ≠ 1 ∨ s.shotDone k = true) :
    exec .rangeCommandComplete s = .next { s with cmd := none } := by
  have hcomplete : (k.ran && (k.op != 1 || s.shotDone k)) = true := by simpa [hran] using hdone
  show execRangeCommandComplete s = _
  simp only [execRangeCommandComplete, hcmd, if_pos hcomplete]

end Commands

/-- Settles O44: a request at a directory by the entry it meets, acknowledgements by what their entry awaits, each other row by the lemma
that says what it leaves. -/
theorem coherenceAndRanges : Obligations.CoherenceAndRanges := by
  unfold Obligations.CoherenceAndRanges
  have hentry {s : State} {e : Option DirEntry} (h : (s.dirEntry s.ev.dref (lineOf s.ev.pa)).1 = e) :
      s.dirEntry s.ev.dref (lineOf s.ev.pa) = (e, (s.dirEntry s.ev.dref (lineOf s.ev.pa)).2) := Prod.ext h rfl
  refine ⟨⟨?record, ?shoot, ?flush, ?wake, ?complete⟩, ?serves, ?waits, ?untaken, ?freed, ?probe, ?answers, ?response, ?merge, ?sleep,
    ?wakes, ?held, ?unheld, ?snooped, ?limit⟩
  case record => exact fun s r rest => faultRecordEnter_first
  case shoot => exact fun s k => shoot_runs
  case flush => exact fun s k => flush_runs
  case wake => exact fun s k => wake_runs
  case complete => exact fun s k => rangeCommandComplete_clears
  case serves => exact fun s e he hbusy hpend => congrArg Host.Outcome.next (dirAsk_serves (hentry he) hbusy hpend)
  case waits => exact fun s e he hwaits => congrArg Host.Outcome.next (dirAsk_waits (hentry he) hwaits)
  case untaken =>
    intro s e ln a hnone
    obtain he | ⟨he, hbusy, hqueue⟩ := hnone
    · exact congrArg Host.Outcome.next (dirAsk_full (hentry he))
    · exact congrArg Host.Outcome.next (dirAsk_leaving (hentry he) hbusy hqueue)
  case freed =>
    intro s e hfind hqueue hbusy hall
    exact congrArg Host.Outcome.next (probeAcks_frees hfind hqueue hbusy fun h hmem => List.mem_filter.2 (by simpa using hall h hmem))
  case probe => exact fun s e l h excl rest => probe_answers
  case answers =>
    intro s e r rest hfind hqueue hbusy hs left dirty hleft
    refine congrArg Host.Outcome.next ((probeAcks_answers hfind hqueue hbusy hleft).trans ?_)
    dsimp only
    rw [foldl_dirAsk_ev rest (by rw [dirSet_ev])]
  case response => exact fun s e r => backInvalidateResponse_grants
  case merge => exact fun s e b => entryMerge_merges
  case sleep => exact fun s => cacheSleep_idle
  case wakes => exact fun s hasleep => congrArg Host.Outcome.next (if_pos hasleep)
  case held => exact fun s e b => hostSnoop_held
  case unheld => exact fun s b => hostSnoop_unheld
  case snooped => exact fun s excl ln c l hline => snooped_line hline excl
  case limit => exact fun s l => lifetimeLimit_reached

end Sys2Proof.Machine
end

section
/-! ### Landing words and request blocks (R330, R331, R333, R334, R338, R344) -/

namespace Sys2Proof.Machine

section Words

variable (w : LandWord)

@[simp] theorem LandWord.length_bytes : w.bytes.length = 16 := by simp [LandWord.bytes]

/-- COUNT, TARGET, GEN and the high word take four bytes each, in this order (R333). -/
theorem LandWord.bytes_fields : w.bytes.take 4 = toBytes 4 w.count.toNat ∧ (w.bytes.drop 4).take 4 = toBytes 4 w.target.toNat
    ∧ (w.bytes.drop 8).take 4 = toBytes 4 w.gen.toNat ∧ w.bytes.drop 12 = toBytes 4 w.hi.toNat :=
  ⟨rfl, rfl, rfl, rfl⟩

theorem ofBytes_toBytes_word (x : Word) : ofBytes (toBytes 4 x.toNat) = x.toNat := by
  rw [ofBytes_toBytes, Nat.mod_eq_of_lt (show x.toNat < 256 ^ 4 from x.isLt)]

theorem ofNat_toBytes_word (x : Word) : BitVec.ofNat 32 (ofBytes (toBytes 4 x.toNat)) = x := by
  rw [ofBytes_toBytes_word, BitVec.ofNat_toNat, BitVec.setWidth_eq]

variable {w}

/-- A scratchpad that holds a landing word's bytes holds the word (R333). -/
theorem landAt_eq {t : Team} {off : Nat} (hcount : t.sRead off 4 = w.bytes.take 4) (htarget : t.sRead (off + 4) 4 = (w.bytes.drop 4).take 4)
    (hgen : t.sRead (off + 8) 4 = (w.bytes.drop 8).take 4) (hhi : t.sRead (off + 12) 4 = w.bytes.drop 12) : t.landAt off = w := by
  obtain ⟨hcount', htarget', hgen', hhi'⟩ := w.bytes_fields
  simp [Team.landAt, hcount, htarget, hgen, hhi, hcount', htarget', hgen', hhi', ofNat_toBytes_word]

/-- Bytes below TARGET are counted and nothing more (R334). -/
theorem land_below {n : Nat} (hlt : (w.count + BitVec.ofNat 32 n).toNat < w.target.toNat) :
    w.land n false = { w with count := w.count + BitVec.ofNat 32 n } := by
  have hle : ¬ w.target ≤ w.count + BitVec.ofNat 32 n := by rw [BitVec.le_def]; omega
  simp [LandWord.land, hle]

/-- At TARGET a generation ends; OVR tells that COUNT still reaches TARGET (R334). -/
theorem land_reaches {n : Nat} (hle : w.target.toNat ≤ (w.count + BitVec.ofNat 32 n).toNat) :
    w.land n false =
      let c := w.count + BitVec.ofNat 32 n - w.target
      { w with count := c, gen := w.gen + 1, hi := if w.target.toNat ≤ c.toNat then w.hi ||| 0x200 else w.hi } := by
  simp only [LandWord.land, BitVec.le_def, if_pos hle, Bool.false_eq_true, if_false]

end Words

section Blocks

variable {k : Blk}

theorem ite_some_eq_none_iff {α : Type} {p : Prop} [Decidable p] {a : α} {o : Option α} :
    (if p then some a else o) = none ↔ ¬ p ∧ o = none := by
  by_cases hp : p
  · rw [if_pos hp]
    exact ⟨nofun, fun h => absurd hp h.1⟩
  · rw [if_neg hp]
    exact ⟨fun h => ⟨hp, h⟩, And.right⟩

/-- A block that meets no precise cause passes every check (R344). -/
theorem blkCause_eq_none_iff {b : List Byte} {S n : Nat} {held : Bool} : blkCause b S n held = none ↔
    (blkOf b).fieldsOk (blkField b 0 31 0) = true ∧ (blkOf b).alignOk = true ∧ (blkOf b).lbin = held ∧ (blkOf b).rangeOk S n = true
      ∧ (blkOf b).addrOk = true := by
  simp only [blkCause, ite_some_eq_none_iff, Bool.not_eq_true', Bool.not_eq_false, bne_iff_ne, ne_eq, Decidable.not_not, and_true]

/-- The values of a block whose fields pass lie within their limits (R330). -/
theorem Blk.limits_of_fieldsOk {w : Nat} (h : k.fieldsOk w = true) :
    k.kind ≤ 3 ∧ k.scope ≤ 6 ∧ k.ssp ≤ 1 ∧ k.dsp ≤ 2 ∧ 8 ≤ k.len ∧ k.len ≤ 16777216 := by
  simp only [Blk.fieldsOk, Bool.and_eq_true, decide_eq_true_eq, and_assoc] at h
  obtain ⟨-, -, hkind, hscope, hssp, hdsp, hmin, hmax, -⟩ := h
  exact ⟨hkind, hscope, hssp, hdsp, hmin, hmax⟩

/-- The aligned fields of a block are multiples of their units (R330). -/
theorem Blk.multiples_of_alignOk (h : k.alignOk = true) :
    k.len % 8 = 0 ∧ k.src % 8 = 0 ∧ k.dst % 8 = 0 ∧ k.sstr % 8 = 0 ∧ k.dstr % 8 = 0 ∧ k.sland % 16 = 0 := by
  simp only [Blk.alignOk, Bool.and_eq_true, beq_iff_eq, and_assoc] at h
  obtain ⟨hlen, hsrc, hdst, hsstr, hdstr, -, hsland, -⟩ := h
  exact ⟨hlen, hsrc, hdst, hsstr, hdstr, hsland⟩

/-- The landing word of a source lies below S, and so does every scratchpad row of a block of KIND 0 or 1 (R344). -/
theorem Blk.below_of_rangeOk {S n : Nat} (h : k.rangeOk S n = true) :
    (k.slv = true → k.sland + 16 ≤ S) ∧ (∀ r < n, k.kind ≤ 1 → k.ssp = 1 → k.srcAt r 0 + k.len ≤ S)
      ∧ (∀ r < n, k.kind ≤ 1 → k.dsp = 1 → k.dstAt r 0 + k.len ≤ S) := by
  simp only [Blk.rangeOk, Blk.indexed, upTo, Bool.and_eq_true, Bool.or_eq_true, Bool.not_eq_true', List.all_eq_true, List.mem_range,
    decide_eq_true_eq, beq_iff_eq, bne_iff_ne] at h
  obtain ⟨⟨⟨⟨hsrc, hdst⟩, -⟩, hsland⟩, -⟩ := h
  refine ⟨fun hslv => hsland.resolve_left (by simp [hslv]), fun r hr hkind hsp => ?_, fun r hr hkind hsp => ?_⟩
  · exact hsrc.resolve_left (by omega) r hr
  · exact hdst.resolve_left (by omega) r hr

/-- Global addresses are canonical (R344). -/
theorem Blk.canonical_of_addrOk (h : k.addrOk = true) : (k.ssp = 0 → k.src < 2 ^ 55) ∧ (k.dsp = 0 → k.dst < 2 ^ 55) := by
  simp only [Blk.addrOk, Bool.and_eq_true, Bool.or_eq_true, bne_iff_ne, decide_eq_true_eq] at h
  obtain ⟨hsrc, hdst⟩ := h
  exact ⟨fun hsp => hsrc.resolve_left fun hne => hne hsp, fun hsp => hdst.resolve_left fun hne => hne hsp⟩

end Blocks

/-- Settles O46: landing words by their bytes and by what a landing event does below TARGET and at it; blocks by what each of their checks
says; the address of a row by its block's kind. -/
theorem copyData : Obligations.CopyData := by
  unfold Obligations.CopyData
  refine ⟨⟨fun w t off => landAt_eq, ?fields, fun w n => land_below, fun w n => land_reaches, fun w n => rfl, doneGen_iff⟩,
    ?causes, ?rows⟩
  case fields =>
    intro w
    obtain ⟨hcount, htarget, hgen, hhi⟩ := w.bytes_fields
    simp only [hcount, htarget, hgen, hhi, ofBytes_toBytes_word, LandWord.length_bytes, and_self]
  case causes =>
    intro b S n held hnone k
    obtain ⟨hfields, halign, hlbin, hrange, haddr⟩ := blkCause_eq_none_iff.1 hnone
    obtain ⟨hkind, hscope, hssp, hdsp, hmin, hmax⟩ := Blk.limits_of_fieldsOk hfields
    obtain ⟨hlen, hsrc, hdst, hsstr, hdstr, hsland⟩ := Blk.multiples_of_alignOk halign
    obtain ⟨hland, hsrows, hdrows⟩ := Blk.below_of_rangeOk hrange
    obtain ⟨hscanon, hdcanon⟩ := Blk.canonical_of_addrOk haddr
    exact ⟨hkind, hssp, hdsp, hscope, hmin, hmax, hlen, hsrc, hdst, hsstr, hdstr, hlbin, fun h => ⟨hsland, hland h⟩, hscanon, hdcanon,
      hsrows, hdrows⟩
  case rows =>
    intro k r i m
    refine ⟨?_, ?_, ?_, ?_⟩
    all_goals
      intro hkind
      rw [Blk.srcAt, Blk.dstAt, hkind]
      exact ⟨rfl, rfl⟩

end Sys2Proof.Machine
end

section
/-! ### KICK, LANDI, LWAIT, LPOLL, BINC, BHOLD, BREL and CPYQ (R336 to R343) -/

namespace Sys2Proof.Machine

open Sys2Proof.Say

/-- INFO of a KICK's CopyFault names no slot (R344). -/
theorem copyInfo_kick (cause off : Nat) : copyInfo cause 0 off = BitVec.ofNat 64 (off * 2 ^ 32 + cause) := by
  rw [copyInfo, Nat.zero_mul, Nat.add_zero]

/-- The block that a KICK of a lane enters: one that passes its checks and has not entered yet (R336). -/
def kickBlock (tm : Team) (a : VReg) (mem : MemOp) (x : Nat × Nat × Thread) : Option (List Byte) :=
  match x.2.2.kicked, kickCheck tm (eaLocal tm x.2.2 a mem).1 with
  | none, .ok b => some b
  | _, _ => none

theorem blocks_kickTodo (tm : Team) (a : VReg) (mem : MemOp) (live : List (Nat × Nat × Thread)) :
    live.filterMap (kickBlock tm a mem) = (kickTodo tm a mem live).map (·.2.2) := by
  rw [kickTodo, List.map_filterMap]
  congr 1
  funext x
  rw [kickBlock]
  cases x.2.2.kicked with
  | some => rfl
  | none => cases kickCheck tm (eaLocal tm x.2.2 a mem).1 <;> rfl

/-- Blocks to be released wait for nothing where none is at .sys, or with no write to another package outstanding (R336, R401). -/
theorem relWaits_blocks {s : State} {c team : Nat} {live : List (Nat × Nat × Thread)} {bs : List (List Byte)}
    (hfree : (∀ b ∈ bs, (blkOf b).scope ≠ 6) ∨ ∀ x ∈ live, s.sysHold c team x.2.1 = false) :
    s.relWaits c team live .rel (bs.any fun b => (blkOf b).scope == 6) = none :=
  relWaits_eq_none_iff.2 (.inr (hfree.imp_left fun h => by simpa using h))

/-- Settles O45: each instruction by its effect on a lane; KICK and BREL go on where the queue has room for their blocks and
`relWaits_blocks` lets their release. -/
theorem copyInstructions : Obligations.CopyInstructions := by
  unfold Obligations.CopyInstructions
  intro post
  refine ⟨?kick, ?landi, ?lwait, ?lpoll, ?binc, ?bhold, ?brel, ?cpyq⟩
  case kick =>
    intro h a mem
    refine onGo_of (some a) (fun s => (show exec _ s = execKick h a mem s from rfl).trans (execKick.eq_1 ..))
      (fun c g tm live s hgo => ?goes) fun c g tm live s => ?enters
    case goes =>
      obtain ⟨hroom, hfree⟩ := hgo
      generalize hgood : List.filterMap _ live = good at hroom hfree
      obtain rfl : good = (kickTodo tm a mem live).map (·.2.2) := hgood.symm.trans (blocks_kickTodo ..)
      have hrel : s.relWaits c g.team live .rel ((kickTodo tm a mem live).any fun x => (blkOf x.2.2).scope == 6) = none := by
        rw [← relWaits_blocks hfree, List.any_map]
        rfl
      rw [List.length_map] at hroom
      simp only [hrel]
      exact if_pos hroom
    case enters =>
      refine foldl_congr_of_mem fun u x _ => ?_
      split
      · simp only [State.kick, kickCheck, copyInfo_kick]
        generalize (eaLocal tm x.2.2 a mem).1 = y
        cases u.team? g.team with
        | none => rfl
        | some now =>
          cases x.2.2.kicked with
          | some => rfl
          | none =>
            simp only [Option.isSome_none, Bool.false_eq_true, if_false]
            cases spCheck now 64 y with
            | some k => rfl
            | none =>
              dsimp only
              cases now.sPoisoned y.toNat 64 with
              | true => rfl
              | false =>
                simp only [Bool.false_eq_true, if_false]
                cases blkCause (now.sRead y.toNat 64) now.lr.scratch (blkField (now.sRead y.toNat 64) 8 31 0) false <;> rfl
      · rfl
  case landi =>
    intro h sc a b
    rw [← lenB_eq]
    exact onLanes_of none (some a) (fun s => (show exec _ s = execLandi h sc a b s from rfl).trans (execLandi.eq_1 ..)) (fun _ => rfl)
      fun _ _ _ _ _ _ => rfl
  case lwait =>
    intro h d a b
    rw [← lenB_eq]
    refine onLanes_of none (some a) (fun s => (show exec _ s = execLwait h d a b s from rfl).trans (execLwait.eq_1 ..)) (fun _ => rfl)
      fun c team tm tid t s => ?_
    simp only [← la_toNat_eq_zero]
    rfl
  case lpoll =>
    intro h d a b
    rw [← lenB_eq]
    exact onLanes_of none (some a) (fun s => (show exec _ s = execLpoll h d a b s from rfl).trans (execLpoll.eq_1 ..)) (fun _ => rfl)
      fun _ _ _ _ _ _ => rfl
  case binc =>
    intro h d a b
    rw [← lenB_eq]
    exact onLanes_of none (some a) (fun s => (show exec _ s = execBinc h d a b s from rfl).trans (execBinc.eq_1 ..)) (fun _ => rfl)
      fun _ _ _ _ _ _ => rfl
  case bhold =>
    exact fun h slot a => onLanes_of none (some a) (fun s => (show exec _ s = execBhold h slot a s from rfl).trans (execBhold.eq_1 ..))
      (fun _ => rfl) fun _ _ _ _ _ _ => rfl
  case brel =>
    intro h clr b
    rw [← lenB_eq]
    refine onGo_of none (fun s => (show exec _ s = execBrel h clr b s from rfl).trans (execBrel.eq_1 ..))
      (fun c g tm live s hgo => ?goes) fun c g tm live s => ?releases
    case goes =>
      cases hlast : live.getLast? with
      | none => rfl
      | some x =>
        cases hblocks : brelBlocks tm (heldSlots tm (bVal tm x.2.2 b)) with
        | inr e => simp only [hblocks]
        | inl bs =>
          obtain ⟨hroom, hfree⟩ := hgo x bs hlast hblocks
          simp only [hblocks]
          exact (if_neg (Nat.not_lt.2 hroom)).trans (relWaits_blocks hfree)
    case releases =>
      cases live.getLast? with
      | none => rfl
      | some x =>
        simp only [State.brel]
        cases brelBlocks tm (heldSlots tm (bVal tm x.2.2 b)) with
        | inl bs => rfl
        | inr e => cases e <;> rfl
  case cpyq =>
    exact fun h d => onLanes_of none none (fun s => (show exec _ s = execCpyq h d s from rfl).trans (execCpyq.eq_1 ..))
      (fun _ => rfl) fun _ _ _ _ _ _ => rfl

end Sys2Proof.Machine
end

section
/-! ### The rows of the copy engine (R331, R332, R334, R338, R345, R346, R348) -/

namespace Sys2Proof.Machine

section Requests

variable {s : State} {c : Nat} {r : CopyReq} {k : Chunk} {t : Option Team}

theorem destTeam_own (hdsp : r.blk.dsp ≠ 2) (pkg : Nat) : r.destTeam pkg = none := if_neg fun h => hdsp h.1

/-- A request that names no destination team lands in its own team's scratchpad (R331, R334). -/
theorem landing_own (hdsp : r.blk.dsp ≠ 2) (pkg : Nat) : r.landing pkg = r.team := by
  rw [CopyReq.landing, destTeam_own hdsp, Option.getD_none]

theorem destFault_own (hdsp : r.blk.dsp ≠ 2) : s.destFault r = none := by simp only [State.destFault, destTeam_own hdsp]

theorem landBad_resident {tm : Team} {team : Nat} (htm : s.team? team = some tm) (hres : tm.resident = true) (off : Nat) :
    s.landBad team off = tm.sPoisoned off 16 := by
  rw [State.landBad, htm, Option.any_some, hres, Bool.true_and]

/-- A request starts when those before it have and fewer than eight are at work (R346). -/
theorem copyStart_turn (hstarted : r.started = false)
    (hbefore : ∀ x ∈ (s.core c).copyq.takeWhile fun x => x.id != r.id, x.started = true)
    (hroom : ((s.core c).copyq.filter (·.started)).length < 8) :
    s.copyStart c r = if r.blk.nrow = 0 then s.copyZero c r else s.modCopy c r.id fun r => { r with started := true } := by
  have hall : ((s.core c).copyq.takeWhile fun x => x.id != r.id).all (·.started) = true := List.all_eq_true.2 hbefore
  have hmay : (r.started || !((s.core c).copyq.takeWhile fun x => x.id != r.id).all (·.started)
      || decide (8 ≤ ((s.core c).copyq.filter (·.started)).length)) = false := by
    rw [hstarted, hall, decide_eq_false (Nat.not_le.2 hroom)]
    rfl
  simp only [State.copyStart, hmay, Bool.false_eq_true, if_false]

/-- A request of no rows that stays in this package ends as it starts, with one event of no bytes on each of its landing words (R334). -/
theorem copyZero_own (hdsp : r.blk.dsp ≠ 2) (hsland : s.landBad r.team r.blk.sland = false)
    (hdland : s.landBad r.team r.blk.dland = false) :
    s.copyZero c r =
      let u := s.dropCopy c r.id
      let v := if r.blk.slv then u.landEvent r.team r.blk.sland 0 false else u
      if r.blk.dlv then v.landEvent r.team r.blk.dland 0 false else v := by
  simp [State.copyZero, destFault_own hdsp, State.zeroDone, hdsp, landing_own hdsp, hsland, hdland]

end Requests

section Reading

variable {s : State} {c row n : Nat} {r : CopyReq} {tm : Team} {t : Option Team}

/-- A row's chunk is read where its row meets no condition and the retry store has room (R344, R345). -/
theorem chunkIn_room (hmore : n < chunksOf (r.dst row) r.blk.len) (hok : s.rowFault r (r.src row) (r.dst row) = none)
    (hroom : (s.core c).retryUsed + (chunkSpan (r.dst row) r.blk.len n).2 ≤ 262144) :
    s.chunkIn c r row n t =
      let p := chunkSpan (r.dst row) r.blk.len n
      s.chunkLoad c r row n (r.src row + p.1) p.2 t := by
  simp only [State.chunkIn, if_neg (Nat.not_le.2 hmore), hok]
  exact if_neg (Nat.not_lt.2 hroom)

theorem chunkLoad_scratch {src m : Nat} (hssp : r.blk.ssp = 1) (hclean : tm.sPoisoned src m = false) :
    s.chunkLoad c r row n src m (some tm) = (s.addChunk c r.id row n (tm.sRead src m)).chunkSland c r.id row n := by
  simp [State.chunkLoad, hssp, hclean]

/-- The engine turns to a chunk of a started request's row, not yet read, once the request has stood for 40 clk (R331). -/
theorem chunkRead_due (hreq : s.copyReq? s.ev.core s.ev.req = some r) (hstarted : r.started = true) (hsusp : r.suspended = none)
    (hrow : s.ev.row < r.blk.nrow) (hknown : r.rowKnown s.ev.row = true) (hnew : r.chunk? s.ev.row s.ev.chunk = none)
    (hold : r.accepted + 40 ≤ s.clk) :
    exec .chunkRead s = .next (s.chunkIn s.ev.core r s.ev.row s.ev.chunk ((s.team? r.team).filter (·.resident))) := by
  show execChunkRead s = _
  have hdue : (!r.started || (r.suspended.isSome && !(r.blk.ssp == 1 && s.leavesNow r)) || decide (r.blk.nrow ≤ s.ev.row)
      || (r.chunk? s.ev.row s.ev.chunk).isSome || decide (s.clk < r.accepted + 40)) = false := by
    rw [hstarted, hsusp, hnew, decide_eq_false (Nat.not_le.2 hrow), decide_eq_false (Nat.not_lt.2 hold)]
    rfl
  simp only [execChunkRead, hreq, hdue, hknown, Bool.false_eq_true, if_false, if_true]

theorem rowKnown_unlisted (hkind : r.blk.kind ≤ 1) : r.rowKnown row = true := by
  have h2 : (r.blk.kind == 2) = false := beq_false_of_ne (by omega)
  have h3 : (r.blk.kind == 3) = false := beq_false_of_ne (by omega)
  rw [CopyReq.rowKnown, Blk.indexed, h2, h3]
  rfl

theorem rowKnown_listed (hkind : r.blk.kind = 2 ∨ r.blk.kind = 3) : r.rowKnown row = (r.idxs.find row).isSome := by
  obtain hkind | hkind := hkind <;> (rw [CopyReq.rowKnown, Blk.indexed, hkind]; rfl)

end Reading

section Writing

variable {s : State} {c : Nat} {r : CopyReq} {k : Chunk} {t : Option Team}

/-- A chunk that has been read goes out once, with the bytes that R332 leaves it. -/
theorem chunkWrite_due {j : Chunk} {u : State} (hnow : s.chunkNow = some (r, k, t)) (hawaits : k.awaits = 0) (hwritten : k.written = false)
    (hsent : k.sent = false) (hsusp : r.suspended = none) (hdata : s.chunkData s.ev.core r k t = (j, u)) :
    exec .chunkWrite s = .next (u.chunkStore u.ev.core r j t) := by
  show execChunkWrite s = _
  have hdue : (k.awaits != 0 || k.written || k.sent || r.suspended.isSome) = false := by
    rw [hawaits, hwritten, hsent, hsusp]
    rfl
  simp only [execChunkWrite, hnow, hdue, hdata, Bool.false_eq_true, if_false]

theorem chunkData_disjoint (hapart : (s.overlap c r k t).any id = false) : s.chunkData c r k t = (k, s) := by
  simp [State.chunkData, hapart]

/-- Bytes that fall on the request's own source are unspecified (R332; log 5). -/
theorem chunkData_overlapping (hsent : k.sent = false) (hmeet : (s.overlap c r k t).any id = true) :
    s.chunkData c r k t =
      let b := (k.data.zip (s.freeBytes k.data.length).1).mapIdx fun i x => if (s.overlap c r k t).getD i false then x.2 else x.1
      ({ k with data := b }, (s.freeBytes k.data.length).2.modChunk c r.id k.row k.n fun k => { k with data := b }) := by
  simp only [State.chunkData, hsent, hmeet, Bool.not_true, Bool.or_self, Bool.false_eq_true, if_false]

theorem chunkStore_scratch (hok : s.rowFault r (r.src k.row) (r.dst k.row) = none) (hdsp : r.blk.dsp = 1) (ht : t.isSome = true) :
    s.chunkStore c r k t = (s.sPut r.team (r.dst k.row + (chunkSpan (r.dst k.row) r.blk.len k.n).1) k.data).modChunk c r.id k.row k.n
      fun k => { k with written := true } := by
  simp [State.chunkStore, hok, hdsp, ht]

/-- A chunk whose lines in this package's memory the directories let go is written there (R311, R331). -/
theorem chunkStore_global {u : State} {p : Nat × Nat × Nat × Xlat} {rest : List (Nat × Nat × Nat × Xlat)}
    (hok : s.rowFault r (r.src k.row) (r.dst k.row) = none) (hdsp : r.blk.dsp = 0)
    (hpieces : s.copyPieces c r true (r.dst k.row + (chunkSpan (r.dst k.row) r.blk.len k.n).1) (chunkSpan (r.dst k.row) r.blk.len k.n).2
      = (.inr (p :: rest), u)) (hhere : pkgOf p.2.2.1 = u.pkgid) (hfree : u.copyHeld c .store (p :: rest) = none) :
    s.chunkStore c r k t =
      (u.chunkPut c r (r.dst k.row + (chunkSpan (r.dst k.row) r.blk.len k.n).1) k.data (p :: rest)).modChunk c r.id k.row k.n
        fun k => { k with written := true } := by
  simp [State.chunkStore, hok, hdsp, State.chunkGlobal, hpieces, hhere, hfree]

/-- Within one scratchpad a byte of a chunk overlaps where it falls into some row of the source (R332). -/
theorem overlap_scratch (hssp : r.blk.ssp = 1) (hdsp : r.blk.dsp = 1) :
    s.overlap c r k t =
      let row := r.dst k.row
      let p := chunkSpan row r.blk.len k.n
      (upTo p.2).map fun i => (upTo r.blk.nrow).any fun j =>
        decide (r.blk.srcAt j (r.entryNow t j) ≤ row + p.1 + i ∧ row + p.1 + i < r.blk.srcAt j (r.entryNow t j) + r.blk.len) := by
  have hone : r.oneMemory s.pkgid = true := by simp [CopyReq.oneMemory, hssp, hdsp]
  simp [State.overlap, hone, State.sourceSpans, State.chunkPlaces, hssp, hdsp, List.any_flatMap, Function.comp_def]

end Writing

section Landing

variable {s : State} {r : CopyReq} {k : Chunk} {t : Option Team} {tm : Team}

/-- A chunk written to its own team's scratchpad is counted into its landing word (R334). -/
theorem landingEvent_counts (hnow : s.chunkNow = some (r, k, t)) (hdlv : r.blk.dlv = true) (hwritten : k.written = true)
    (hlanded : k.landed = false) (hdsp : r.blk.dsp = 1) (htm : s.team? r.team = some tm) (hres : tm.resident = true)
    (hclean : tm.sPoisoned r.blk.dland 16 = false) :
    exec .landingEvent s =
      .next ((s.landEvent r.team r.blk.dland (chunkSpan (r.dst k.row) r.blk.len k.n).2 false).modChunk s.ev.core r.id k.row k.n
        fun k => { k with landed := true }) := by
  show execLandingEvent s = _
  have hown : r.blk.dsp ≠ 2 := by omega
  simp [execLandingEvent, hnow, hdlv, hwritten, hlanded, State.chunkLand, hdsp, landing_own hown, landBad_resident htm hres, hclean]

/-- A landing event writes the word anew and wakes those that wait on it (R334, R338). -/
theorem landEvent_resident {team off : Nat} (htm : s.team? team = some tm) (hres : tm.resident = true) (hfits : off + 16 ≤ tm.lr.scratch)
    (hclean : tm.sPoisoned off 16 = false) (n : Nat) (abort : Bool) :
    s.landEvent team off n abort = (s.sPut team off ((tm.landAt off).land n abort).bytes).landWake team off := by
  simp [State.landEvent, htm, hres, hfits, hclean]

/-- A chunk that is written, and counted where it must be, is acknowledged; the last one ends its request (R345, R404). -/
theorem chunkAcknowledgement_due (hnow : s.chunkNow = some (r, k, t)) (hwritten : k.written = true)
    (hlanded : k.landed = true ∨ r.blk.dlv = false) (hacked : k.acked = false) :
    exec .chunkAcknowledgement s =
      let u := s.modChunk s.ev.core r.id k.row k.n fun k => { k with acked := true, data := [] }
      .next ((u.copyReq? s.ev.core r.id).elim u (u.copyDone s.ev.core)) := by
  show execChunkAcknowledgement s = _
  have hdue : (k.written && (k.landed || !r.blk.dlv) && !k.acked) = true := by simpa [hwritten, hacked] using hlanded
  simp only [execChunkAcknowledgement, hnow, hdue, if_true]
  cases (s.modChunk s.ev.core r.id k.row k.n fun k => { k with acked := true, data := [] }).copyReq? s.ev.core r.id <;> rfl

theorem copyDone_eq (s : State) (c : Nat) (q : CopyReq) :
    s.copyDone c q = if q.allChunks (·.acked) = false then s else if q.blk.nrow = 0 then s.zeroDone c q else s.dropCopy c q.id := by
  simp only [State.copyDone, CopyReq.complete, Bool.not_eq_true']

/-- A chunk of a scratchpad is written again from the retry store, and not counted again (R345). -/
theorem chunkResend_scratch (hnow : s.chunkNow = some (r, k, t)) (hacked : k.acked = false) (hwritten : k.written = true)
    (hdsp : r.blk.dsp = 1) (hkept : s.chunkKept s.ev.core r.id k.row k.n = none) (htm : s.team? r.team = some tm)
    (hres : tm.resident = true) :
    exec .chunkResend s = .next (s.sPut r.team (r.dst k.row + (chunkSpan (r.dst k.row) r.blk.len k.n).1) k.data) := by
  show execChunkResend s = _
  have hown : r.blk.dsp ≠ 2 := by omega
  simp [execChunkResend, hnow, hacked, hkept, hwritten, State.chunkAgain, hdsp, destTeam_own hown, htm, hres]

/-- A waiting thread reads a clean landing word: its generation is done, or the thread waits on (R338). -/
theorem landAgain_clean {off : Nat} (hclean : tm.sPoisoned off 16 = false) (team tid : Nat) (w : Window) (gen : Word) (dst : Nat) :
    s.landAgain team tid tm w off gen dst =
      let k := tm.landAt off
      if doneGen k.gen gen then
        ((s.learns team tid).acquire (tm.coreOf tid) tm.ctx k.scope).waitDone team tid w.id (k.result dst)
      else s.modThread team tid fun t => t.modWin w.id fun u => { u with wait := some (.land off gen dst (s.clk + 4096)) } := by
  simp only [State.landAgain, hclean, Bool.false_eq_true, if_false]

end Landing

/-- Settles O47: each row by the lemma that says when it is due and what it then leaves; a chunk goes out with the bytes that `chunkData`
gives it, to the place that `chunkStore` finds. -/
theorem copyRows : Obligations.CopyRows := by
  unfold Obligations.CopyRows
  refine ⟨?starts, ?ends, ?reads, ?index, ?addresses, ?writes, ?writesGlobal, ?overlaps, ?overlap, ?counts, ?lands, ?acknowledges,
    ?resends, ?rechecks, ?delivers⟩
  case starts =>
    intro s r hreq hstarted hnrow hbefore hroom
    show execCopyRequestStart s = _
    simp only [execCopyRequestStart, hreq, copyStart_turn hstarted hbefore hroom, if_neg hnrow]
  case ends =>
    intro s r hreq hstarted hnrow hdsp hbefore hroom hsland hdland
    show execCopyRequestStart s = _
    simp only [execCopyRequestStart, hreq, copyStart_turn hstarted hbefore hroom, if_pos hnrow, copyZero_own hdsp hsland hdland]
  case reads =>
    intro s r t hreq ht hres hstarted hsusp hrow hknown hnew hold src dst p hmore hok hroom hssp hclean
    rw [chunkRead_due hreq hstarted hsusp hrow hknown hnew hold, chunkIn_room hmore hok hroom, ht, Option.filter_some, if_pos hres,
      chunkLoad_scratch hssp hclean]
    rfl
  case index => exact fun s c r row t => rfl
  case addresses => exact fun r row => ⟨rfl, rfl, rowKnown_unlisted, rowKnown_listed⟩
  case writes =>
    intro s r k t hnow hawaits hwritten hsent hsusp hdsp ht hapart row hok
    rw [chunkWrite_due hnow hawaits hwritten hsent hsusp (chunkData_disjoint hapart), chunkStore_scratch hok hdsp ht]
  case writesGlobal =>
    intro s r k t ps p rest u hnow hawaits hwritten hsent hsusp hdsp hapart row q hok hpieces hps hhere hfree
    subst hps
    rw [chunkWrite_due hnow hawaits hwritten hsent hsusp (chunkData_disjoint hapart), chunkStore_global hok hdsp hpieces hhere hfree]
  case overlaps =>
    intro s r k t hnow hawaits hwritten hsent hsusp hdsp ht hmeet row b u hok
    rw [chunkWrite_due hnow hawaits hwritten hsent hsusp (chunkData_overlapping hsent hmeet)]
    exact congrArg Host.Outcome.next (chunkStore_scratch (k := { k with data := b }) hok hdsp ht)
  case overlap => exact fun s r k t => overlap_scratch
  case counts => exact fun s r k t tm => landingEvent_counts
  case lands => exact fun s team tm off n htm hres hfits hclean => landEvent_resident htm hres hfits hclean n false
  case acknowledges =>
    intro s r k t hnow hwritten hlanded hacked u
    rw [chunkAcknowledgement_due hnow hwritten hlanded hacked]
    change Host.Outcome.next ((u.copyReq? s.ev.core r.id).elim u (u.copyDone s.ev.core)) = _
    cases u.copyReq? s.ev.core r.id with
    | none => rfl
    | some q => exact congrArg Host.Outcome.next (copyDone_eq u s.ev.core q)
  case resends =>
    intro s r k t hnow hacked hwritten hdsp hkept ⟨tm, htm, hres⟩
    exact chunkResend_scratch hnow hacked hwritten hdsp hkept htm hres
  case rechecks =>
    intro s tm w off gen dst poll htm hres hdue hwait hclean k
    show execLwaitRecheck s = _
    rw [execLwaitRecheck, htm]
    generalize hw : Option.bind _ _ = v
    obtain rfl : v = some w := hw.symm.trans hdue
    simp only [hwait, if_pos hres, landAgain_clean hclean]
    rfl
  case delivers =>
    intro s x tm hfind htm hres hkind
    show execHeldDelivery s = _
    simp [execHeldDelivery, State.heldNext, hfind, htm, hres, hkind]

end Sys2Proof.Machine
end

section
/-! ### Messages at their package (R348, R394, R395, R397 to R404) -/

namespace Sys2Proof.Machine

open Sys2Proof.Say

section Arrival

variable {s : State} {k : MsgKind} {m : Msg} {rest : List Msg}

theorem arrive_here (hcomes : Comes s k m rest) (hhere : m.dpkg = s.pkgid) (f : State → Nat → Msg → State) :
    s.arrive k f = f s s.ev.port m := by
  obtain ⟨hbox, hkind⟩ := hcomes
  simp only [State.arrive, hbox, hkind, hhere, ne_eq, not_true_eq_false, if_false]

theorem arrive_elsewhere (hcomes : Comes s k m rest) (haway : m.dpkg ≠ s.pkgid) (f : State → Nat → Msg → State) :
    s.arrive k f = (popped s s.ev.port).forward s.ev.port m := by
  obtain ⟨hbox, hkind⟩ := hcomes
  simp only [State.arrive, hbox, hkind, haway, ne_eq, not_true_eq_false, not_false_eq_true, if_false, if_true]
  rfl

/-- A message taken from a port leaves every path as it was (R394). -/
theorem path_popped (s : State) (p d pa : Nat) : (popped s p).path d pa = s.path d pa := by
  have hst (n : Nat) : ((popped s p).port n).st = (s.port n).st := by
    simp only [popped, State.port, State.modPort, State.setPort, Tbl.get_put]
    split <;> simp [*]
  have hports (q : PortState → Bool) : (popped s p).routePorts d q = s.routePorts d q := by
    simp only [State.routePorts, hst]
    rfl
  simp only [State.path, hports]
  rfl

/-- A message for another package takes the route's port, waits for one, or is turned back (R394, R395). -/
theorem forward_port {q : Nat} (p : Nat) (hhops : m.hops + 1 ≤ s.hopmax) (hpath : s.path m.dpkg m.addr.toNat = .port q) :
    (popped s p).forward p m = (popped s p).transmit q { m with hops := m.hops + 1 } := by
  have hfar : ¬ (popped s p).hopmax < m.hops + 1 := Nat.not_lt.2 hhops
  simp only [State.forward, if_neg hfar, State.sendOnward, path_popped, hpath]

theorem forward_waits {q : Nat} (p : Nat) (hhops : m.hops + 1 ≤ s.hopmax) (hpath : s.path m.dpkg m.addr.toNat = .wait q) :
    (popped s p).forward p m = { popped s p with
      transit := s.transit ++ [{ via := p, msg := { m with hops := m.hops + 1 }, till := s.clk + 16777216 }] } := by
  have hfar : ¬ (popped s p).hopmax < m.hops + 1 := Nat.not_lt.2 hhops
  simp only [State.forward, if_neg hfar, State.sendOnward, path_popped, hpath]
  rfl

theorem forward_fails (p : Nat)
    (hfails : s.hopmax < m.hops + 1 ∨ s.path m.dpkg m.addr.toNat = .failed ∨ s.path m.dpkg m.addr.toNat = .noRoute) :
    (popped s p).forward p m = if isRequest m.kind then (popped s p).sendMsg p (s.answerTo m .refusal 2 []) else popped s p := by
  by_cases hfar : (popped s p).hopmax < m.hops + 1
  · simp only [State.forward, if_pos hfar]
    rfl
  · obtain hpath | hpath := hfails.resolve_left hfar
    all_goals
      simp only [State.forward, if_neg hfar, State.sendOnward, path_popped, hpath]
      rfl

end Arrival

/-- Every row of `msgRows` takes up the first message of its port, of its kind (R395, R397). -/
theorem msgRow_arrives {r : Instr × MsgKind} (hr : r ∈ msgRows) : ∃ f, ∀ s, exec r.1 s = .next (s.arrive r.2 f) := by
  simp only [msgRows, List.mem_cons, List.not_mem_nil, or_false] at hr
  obtain rfl | rfl | rfl | rfl | rfl | rfl | rfl | rfl | rfl | rfl := hr
  all_goals exact ⟨_, fun _ => rfl⟩

section Requests

variable {s : State} {m : Msg} {p : Nat} {ok : Bool} {ask : State → Bool × State} {perform : State → State}

theorem serveReq_repeated {d : DoneReq} (hdone : s.doneReqs.find? (fun d => d.spkg == m.spkg && d.rid == m.rid) = some d) :
    s.serveReq p m ok ask perform = (popped s p).sendMsg p d.reply := by
  simp only [State.serveReq, hdone]
  rfl

/-- A request that comes for the first time is refused where no window admits it, and else waits for the directories (R398, R399). -/
theorem serveReq_fresh (hfresh : Fresh s m) :
    s.serveReq p m ok ask perform =
      if ok then (if (ask s).1 then perform (popped (ask s).2 p) else (ask s).2)
      else ((popped s p).sendMsg p ((popped s p).answerTo m .refusal 1 [])).peerRefused m.sctx m.rid m.spkg := by
  obtain ⟨hnew, hroom, hheld⟩ := hfresh
  have hfree : s.held.any (fun h => h.chunk.isNone && h.msg.spkg == m.spkg && h.msg.rid == m.rid && h.msg.spkg != s.pkgid) = false := by
    rw [List.any_eq_false]
    intro h hmem
    simp only [Bool.and_eq_true, Option.isNone_iff_eq_none, beq_iff_eq, bne_iff_ne]
    rintro ⟨⟨⟨hchunk, hspkg⟩, hrid⟩, haway⟩
    exact haway (hheld h hmem hchunk hspkg hrid)
  simp only [State.serveReq, hnew, if_neg (Nat.not_le.2 hroom), hfree, Bool.false_eq_true, if_false]
  cases ok with
  | false => rfl
  | true => obtain ⟨_ | _, u⟩ := ask s <;> rfl

/-- A row that serves an admitted request performs it once the directories let it (R399). -/
theorem serves_of {i : Instr} {good : State → Prop} {f : State → State}
    (hrow : exec i s = .next (s.serveReq s.ev.port m ok ask perform))
    (hok : ok = true) (hfresh : Fresh s m) (hperform : ∀ u, good u → perform u = f u) : Serves i s (ask s) good f := by
  rw [serveReq_fresh hfresh, if_pos hok] at hrow
  refine ⟨fun hwaits => ?_, fun hlets hgood => ?_⟩
  · rw [hrow, if_neg (by simp [hwaits])]
  · rw [hrow, if_pos hlets, hperform _ hgood]

/-- A delivery asks no directory: it is made at once (R348, R403). -/
theorem delivers_of {i : Instr} (hrow : exec i s = .next (s.serveReq s.ev.port m ok (fun s => (true, s)) perform)) (hok : ok = true)
    (hfresh : Fresh s m) : exec i s = .next (perform (popped s s.ev.port)) := by
  rw [hrow, serveReq_fresh hfresh, if_pos hok, if_pos rfl]

end Requests

section Rows

variable {s : State} {m : Msg} {rest : List Msg}

theorem readMessage_serves (hcomes : Comes s .read m rest) (hhere : m.dpkg = s.pkgid) :
    exec .readMessage s = .next (s.serveReq s.ev.port m (s.admits m 1 (home m) m.op.toNat)
      (fun s => s.visitLines (home m) m.op.toNat false) fun u => u.readReq s.ev.port m (home m)) :=
  congrArg Host.Outcome.next (arrive_here hcomes hhere _)

theorem alignDown_eq_sub (x n : Nat) : alignDown x n = x - x % n := by
  have := Nat.div_add_mod' x n
  rw [alignDown]
  omega

theorem writeMessage_serves (hcomes : Comes s .write m rest) (hhere : m.dpkg = s.pkgid) :
    exec .writeMessage s = .next (s.serveReq s.ev.port m (s.admits m 2 (home m - home m % 128) 128)
      (fun s => s.visitLines (home m - home m % 128) 128 true) fun u => u.writeReq s.ev.port m (home m - home m % 128)) := by
  rw [← alignDown_eq_sub]
  exact congrArg Host.Outcome.next (arrive_here hcomes hhere _)

theorem atomOfCode_atomCode (op : AtomOp) : atomOfCode (atomCode op) = op := by cases op <;> rfl

theorem redOfCode_redCode (op : RedOp) : redOfCode (redCode op) = op := by cases op <;> rfl

theorem atomCode_lt (op : AtomOp) : atomCode op < 8 := by cases op <;> decide

theorem redCode_lt (op : RedOp) : redCode op < 8 := by cases op <;> decide

/-- An atomic message whose code is an ATOM's (R285, R397). -/
theorem atomicMessage_atom {op : AtomOp} (hcomes : Comes s .atomic m rest) (hhere : m.dpkg = s.pkgid) (hop : m.op.toNat = atomCode op) :
    exec .atomicMessage s = .next (s.serveReq s.ev.port m (s.admits m 3 (home m) (atomBytes op))
      (fun s => s.visitLines (home m) (atomBytes op) true) fun u => u.atomicReq s.ev.port m (home m) (atomBytes op) false fun o =>
        some (atomNew op o (BitVec.ofNat 64 (ofBytes (m.data.take (atomBytes op)))))) := by
  have hlt := atomCode_lt op
  have hred : ¬ 128 ≤ atomCode op := by omega
  refine (congrArg Host.Outcome.next (arrive_here hcomes hhere _)).trans ?_
  simp only [hop, Nat.mod_eq_of_lt (show atomCode op < 128 by omega), atomOfCode_atomCode, hred, hlt, decide_true, decide_false,
    Bool.true_and, if_false, home]

/-- An atomic message whose code is a RED's (R285, R397). -/
theorem atomicMessage_red {op : RedOp} (hcomes : Comes s .atomic m rest) (hhere : m.dpkg = s.pkgid) (hop : m.op.toNat = 128 + redCode op) :
    exec .atomicMessage s = .next (s.serveReq s.ev.port m (s.admits m 3 (home m) (redBytes op))
      (fun s => s.visitLines (home m) (redBytes op) true) fun u => u.atomicReq s.ev.port m (home m) (redBytes op) true fun o =>
        some (redNew op o (BitVec.ofNat 64 (ofBytes (m.data.take (redBytes op)))))) := by
  have hlt := redCode_lt op
  have hred : 128 ≤ 128 + redCode op := Nat.le_add_right ..
  refine (congrArg Host.Outcome.next (arrive_here hcomes hhere _)).trans ?_
  simp only [hop, show (128 + redCode op) % 128 = redCode op by omega, redOfCode_redCode, hred, hlt, decide_true, Bool.true_and, if_true,
    home]

theorem casMessage_serves (hcomes : Comes s .cas m rest) (hhere : m.dpkg = s.pkgid) {n : Nat} (hn : n = if m.op = 0 then 4 else 8) :
    exec .casMessage s = .next (s.serveReq s.ev.port m (s.admits m 3 (home m) n) (fun s => s.visitLines (home m) n true) fun u =>
      u.atomicReq s.ev.port m (home m) n false fun o =>
        if o.toNat = ofBytes (m.data.take n) then some (BitVec.ofNat 64 (ofBytes ((m.data.drop n).take n))) else none) := by
  subst hn
  exact congrArg Host.Outcome.next (arrive_here hcomes hhere _)

/-- An atomic operation at a home that has its bytes: the new value is stored where there is one, and the old one answers (R399). -/
theorem atomicReq_clean {p pa n : Nat} {f : DWord → Option DWord} (hclean : (s.lineTaken (pa / 128)).badAt pa n = false) (ack : Bool) :
    s.atomicReq p m pa n ack f =
      let u := s.lineTaken (pa / 128)
      let o := BitVec.ofNat 64 (u.peekNat pa n)
      let v := (f o).elim u fun x => u.pokeNat pa n x.toNat
      v.replyTo p m (if ack then v.answerTo m .ack 0 [] else v.answerTo m .response 0 (toBytes n o.toNat)) := by
  simp only [State.atomicReq, lineOf, hclean, Bool.false_eq_true, if_false]
  cases f (BitVec.ofNat 64 ((s.lineTaken (pa / 128)).peekNat pa n)) <;> cases ack <;> rfl

/-- A chunk for memory asks for leave as a write does (R404). -/
theorem chunkMessage_memory (hcomes : Comes s .chunk m rest) (hhere : m.dpkg = s.pkgid) (hscr : m.scr = false) :
    exec .chunkWriteMessage s = .next (s.serveReq s.ev.port m (s.admits m 2 (home m) m.data.length)
      (fun s => s.visitLines (home m) m.data.length true) fun u => u.chunkToMem s.ev.port m (home m)) :=
  (congrArg Host.Outcome.next (arrive_here hcomes hhere _)).trans (congrArg Host.Outcome.next (if_neg (by simp [hscr])))

/-- A chunk for a living team of this package needs the peer rules' leave and room in its scratchpad (R403). -/
theorem chunkMessage_team {tm : Team} (hcomes : Comes s .chunk m rest) (hhere : m.dpkg = s.pkgid) (hscr : m.scr = true)
    (htm : s.team? (unitTeam m.data) = some tm) :
    exec .chunkWriteMessage s = .next (s.serveReq s.ev.port m
      (s.deliveryOk m.spkg m.sctx tm.ctx && decide (m.addr.toNat + (m.data.length - 16) ≤ tm.lr.scratch)) (fun s => (true, s))
      fun u => u.chunkToTeam s.ev.port m) := by
  refine (congrArg Host.Outcome.next (arrive_here hcomes hhere _)).trans ?_
  simp only [hscr, htm, if_true]

theorem landingMessage_team {tm : Team} (hcomes : Comes s .landing m rest) (hhere : m.dpkg = s.pkgid)
    (htm : s.team? (unitTeam m.data) = some tm) :
    exec .landingMessage s = .next (s.serveReq s.ev.port m (s.deliveryOk m.spkg m.sctx tm.ctx) (fun s => (true, s)) fun u =>
      (if m.op = 1 then u.landEvent (unitTeam m.data) (unitLand m.data) 0 true else u).ackTo s.ev.port m false) := by
  refine (congrArg Host.Outcome.next (arrive_here hcomes hhere _)).trans ?_
  simp only [htm]

/-- A row of a request for this package serves it, whatever it asks for (R398 to R400). -/
theorem msgRow_serves {r : Instr × MsgKind} (hr : r ∈ msgRows) (hcomes : Comes s r.2 m rest) (hhere : m.dpkg = s.pkgid)
    (hreq : isRequest m.kind = true) : ∃ ok ask perform, exec r.1 s = .next (s.serveReq s.ev.port m ok ask perform) := by
  have hkind : isRequest r.2 = true := hcomes.2 ▸ hreq
  simp only [msgRows, List.mem_cons, List.not_mem_nil, or_false] at hr
  obtain rfl | rfl | rfl | rfl | rfl | rfl | rfl | rfl | rfl | rfl := hr
  · exact ⟨_, _, _, readMessage_serves hcomes hhere⟩
  · exact ⟨_, _, _, writeMessage_serves hcomes hhere⟩
  · exact ⟨_, _, _, congrArg Host.Outcome.next (arrive_here hcomes hhere _)⟩
  · exact ⟨_, _, _, casMessage_serves hcomes hhere rfl⟩
  · cases hscr : m.scr with
    | true =>
      exact ⟨_, _, _, (congrArg Host.Outcome.next (arrive_here hcomes hhere _)).trans
        (congrArg Host.Outcome.next (if_pos hscr))⟩
    | false => exact ⟨_, _, _, chunkMessage_memory hcomes hhere hscr⟩
  · exact ⟨_, _, _, congrArg Host.Outcome.next (arrive_here hcomes hhere _)⟩
  all_goals exact absurd hkind (by decide)

/-- A delivery without a landing word to a resident team that nothing is held for is written to its scratchpad (R348, R403). -/
theorem chunkToTeam_resident {tm : Team} (p : Nat) (htm : s.team? (unitTeam m.data) = some tm) (hres : tm.resident = true)
    (hheld : ∀ x ∈ s.held, x.team ≠ unitTeam m.data) (hdlv : unitDlv m.data = false) :
    s.chunkToTeam p m = (s.sPut (unitTeam m.data) m.addr.toNat (m.data.drop 16)).ackTo p m false := by
  have hnone : (s.held.any fun x => x.team == unitTeam m.data) = false := List.any_eq_false.2 (by simpa using hheld)
  simp [State.chunkToTeam, htm, hres, hnone, State.deliverChunk, hdlv]

variable {r : RemReq}

/-- A response completes the request it answers, once a message of kind 9 has gone back (R400). -/
theorem response_answers (hcomes : Comes s .response m rest) (hhere : m.dpkg = s.pkgid) (hreq : s.reqFor m = some r) :
    exec .response s = .next (((popped s s.ev.port).sendRespAck s.ev.port m).responded r m) := by
  refine (congrArg Host.Outcome.next (arrive_here hcomes hhere _)).trans ?_
  simp only [hreq]
  rfl

theorem acknowledgement_answers (hcomes : Comes s .ack m rest) (hhere : m.dpkg = s.pkgid) (hreq : s.reqFor m = some r) :
    exec .acknowledgement s = .next (((popped s s.ev.port).sendRespAck s.ev.port m).acknowledged r (!m.data.isEmpty)) := by
  refine (congrArg Host.Outcome.next (arrive_here hcomes hhere _)).trans ?_
  simp only [hreq]
  rfl

theorem refusal_ends (hcomes : Comes s .refusal m rest) (hhere : m.dpkg = s.pkgid) (hreq : s.reqFor m = some r) :
    exec .refusal s = .next (if m.op = 2 then (popped s s.ev.port).pathFailed r else (popped s s.ev.port).refused r) := by
  refine (congrArg Host.Outcome.next (arrive_here hcomes hhere _)).trans ?_
  simp only [hreq]
  rfl

/-- Bytes that arrive go to the lanes of the load that asked for them (R401). -/
theorem responded_load {team win : Nat} {lanes : List (Nat × Nat × Nat × Nat)} {acq : Bool} (hwhat : r.what = .load team win lanes acq)
    (hdata : m.data ≠ []) :
    s.responded r m = lanes.foldl (fun s l =>
      s.laneDone team l.1 win (regsOfBytes l.2.2.2 (((m.data.take r.msg.op.toNat).drop l.2.1).take l.2.2.1)) acq) (s.dropReq r.rid) := by
  simp [State.responded, hwhat, hdata]

theorem responded_rmw {team tid win dst : Nat} {w64 acq : Bool} (hwhat : r.what = .rmw team tid win dst w64 acq) (hdata : m.data ≠ []) :
    s.responded r m = (s.dropReq r.rid).laneDone team tid win (regsOfBytes dst (m.data.take (if w64 then 8 else 4))) acq := by
  simp [State.responded, hwhat, hdata]

end Rows

/-- Settles O54: a message for another package by the path it meets; a request by how it is served, then by what its own kind performs once
the directories let it; a reply by the request that it answers. -/
theorem messageRows : Obligations.MessageRows := by
  unfold Obligations.MessageRows
  refine ⟨?elsewhere, ?repeated, ?read, ?write, ?atomic, ?cas, ?chunk, ?delivery, ?landing, ?response, ?ack, ?refusal, ?respAck⟩
  case elsewhere =>
    intro r hr s m rest hcomes haway
    obtain ⟨f, hrow⟩ := msgRow_arrives hr
    rw [hrow, arrive_elsewhere hcomes haway]
    refine ⟨fun q hhops hpath => ?_, fun q hhops hpath => ?_, fun hfails hreq => ?_, fun hfails hreq => ?_⟩
    · rw [forward_port _ hhops hpath]
    · rw [forward_waits _ hhops hpath]
    · rw [forward_fails _ hfails, if_pos hreq]
    · rw [forward_fails _ hfails, if_neg (by simp [hreq])]
  case repeated =>
    intro r hr s m rest d hcomes hhere hreq hdone
    obtain ⟨ok, ask, perform, hrow⟩ := msgRow_serves hr hcomes hhere hreq
    rw [hrow, serveReq_repeated hdone]
  case read =>
    intro s m rest hcomes hhere hfresh p n
    refine ⟨fun hrefused => ?_, fun hadmits => serves_of (readMessage_serves hcomes hhere) hadmits hfresh fun _ _ => rfl⟩
    rw [readMessage_serves hcomes hhere, serveReq_fresh hfresh, if_neg (by simpa using hrefused)]
  case write =>
    intro s m rest hcomes hhere hfresh a mask u hadmits
    refine serves_of (writeMessage_serves hcomes hhere) hadmits hfresh fun v hgood => ?_
    exact if_neg ((Bool.not_eq_true _).mpr hgood)
  case atomic =>
    intro s m rest hcomes hhere hfresh u
    constructor
    · intro op hop n hadmits
      exact serves_of (atomicMessage_atom hcomes hhere hop) hadmits hfresh fun _ hgood => atomicReq_clean hgood false
    · intro op hop n hadmits
      exact serves_of (atomicMessage_red hcomes hhere hop) hadmits hfresh fun _ hgood => atomicReq_clean hgood true
  case cas =>
    intro s m rest n hcomes hhere hfresh hn u hadmits
    refine serves_of (casMessage_serves hcomes hhere hn) hadmits hfresh fun v hgood => (atomicReq_clean hgood false).trans ?_
    dsimp only
    split <;> rfl
  case chunk =>
    intro s m rest hcomes hhere hfresh hscr n u hadmits
    refine serves_of (chunkMessage_memory hcomes hhere hscr) hadmits hfresh fun v hgood => ?_
    exact if_neg ((Bool.not_eq_true _).mpr hgood)
  case delivery =>
    intro s m rest tm hcomes hhere hfresh hscr htm hok hfits hres hheld hdlv v
    rw [delivers_of (chunkMessage_team hcomes hhere hscr htm) (by simp [hok, hfits]) hfresh]
    exact congrArg Host.Outcome.next (chunkToTeam_resident (s := popped s s.ev.port) s.ev.port htm hres hheld hdlv)
  case landing =>
    intro s m rest tm hcomes hhere hfresh htm hok v
    exact delivers_of (landingMessage_team hcomes hhere htm) hok hfresh
  case response =>
    intro s m rest r hcomes hhere hreq u
    refine ⟨fun team win lanes acq hwhat hdata => ?_, fun team tid win dst w64 acq hwhat hdata => ?_⟩
    · exact (response_answers hcomes hhere hreq).trans (congrArg Host.Outcome.next (responded_load hwhat hdata))
    · exact (response_answers hcomes hhere hreq).trans (congrArg Host.Outcome.next (responded_rmw hwhat hdata))
  case ack =>
    intro s m rest r hcomes hhere hdata hreq u
    have hrow := acknowledgement_answers hcomes hhere hreq
    rw [hdata] at hrow
    refine ⟨fun q hwhat => hrow.trans ?_, fun core req row n hwhat => hrow.trans ?_⟩
    all_goals
      simp only [State.acknowledged, hwhat]
      rfl
  case refusal => exact fun s m rest r hcomes hhere hreq => refusal_ends hcomes hhere hreq
  case respAck => exact fun s m rest hcomes hhere => congrArg Host.Outcome.next (arrive_here hcomes hhere _)

end Sys2Proof.Machine
end

section
/-! ### What every step keeps (R405, R442, R447; log 3) -/

namespace Sys2Proof.Machine

/-- A step keeps a state legal: its front, the meanings and the passing of clk do. -/
theorem step_legal {s t : State} (hs : s.Legal) (hstep : step s = .next t) : t.Legal := by
  cases hq : s.issueQ with
  | cons e rest =>
    obtain ⟨c, slot⟩ := e
    by_cases hout : 128 ≤ c ∨ 8 ≤ slot
    · rw [step_noSuchGroup hq hout] at hstep
      exact Keep.fault t hstep
    · obtain ⟨hc, hslot⟩ : c < 128 ∧ slot < 8 := by omega
      have hfront : Keep.Fr (State.front { s with issueQ := rest, cur := none } c slot) := State.front_legal _ c slot hs
      cases hf : State.front { s with issueQ := rest, cur := none } c slot with
      | run i u =>
        rw [hf] at hfront
        exact exec_legal i u hfront t ((step_run hq hc hslot hf).symm.trans hstep)
      | done u =>
        rw [hf] at hfront
        exact Keep.next (s := u) hfront t ((step_done hq hc hslot hf).symm.trans hstep)
  | nil =>
    cases ha : s.agenda with
    | nil => exact Keep.next (State.tick_legal s hs) t ((step_idle hq ha).symm.trans hstep)
    | cons x rest =>
      cases x with
      | row i e => exact exec_legal i { s with agenda := rest, cur := none, ev := e } hs t ((step_row hq ha).symm.trans hstep)
      | pass n =>
        exact Keep.next (State.pass_legal { s with agenda := rest } n hs) t ((step_pass hq ha).symm.trans hstep)

/-- Settles O6: every branch of a step keeps a state legal. -/
theorem stepsKeepLegal : Obligations.StepsKeepLegal := fun _ _ => step_legal

end Sys2Proof.Machine
end

section
/-! ### Kalsy ports (R387 to R394, R405)

What a flit that decodes leaves is `portTook` of what the receiver makes of it; the receiver's cases are those of a die link's. -/

namespace Sys2Proof.Machine

open Sys2Proof.Say

@[simp] theorem port_setPort_self (s : State) (p : Nat) (x : Port) : (s.setPort p x).port p = x := by simp [State.port]

/-- What a port's receiver makes of a flit of a TYPE (R387, R389). -/
def portRxOf (t : Nat) (x : RxFlit) (h : Chan) : Chan × RxEnd :=
  if t = 0 then h.rxData kalsyFmt x else if t = 1 then h.rxTag kalsyFmt x else (h, .taken)

section Flits

variable {s : State} {t : Nat} {c : Bool} {x : RxFlit}

/-- A port's flit that decodes leaves what its receiver makes of it, and the counters go on (R387, R389, R406). -/
theorem portRx_took (hflit : PortFlit s t c x) {h' : Chan} {r : RxEnd} (hrx : portRxOf t x (s.port s.ev.port).ch = (h', r)) :
    s.portRx t = portTook s c x h' (r != .taken) (r == .badTag) := by
  obtain ⟨hport, hup, hreach, hdec, htype⟩ := hflit
  rw [portRxOf] at hrx
  have hgo : ¬ (s.ev.port ≥ 64 ∨ ¬ carries (s.port s.ev.port).st t = true ∨ (s.die (brimOfPort s.ev.port)).lost = true) := by
    simp [hup, hreach]; omega
  simp only [State.portRx, if_neg hgo, hdec, htype, ne_eq, not_true_eq_false, if_false, Port.take, hrx]
  cases r <;> cases c <;> rfl

/-- A flit that does not decode is counted, and in Up a replay is asked for (R389, R390). -/
theorem portRx_undecoded (hport : s.ev.port < 64) (hup : carries (s.port s.ev.port).st t = true)
    (hreach : (s.die (brimOfPort s.ev.port)).lost = false) (hdec : kalsyFmt.decode s.ev.bytes = none) :
    s.portRx t = s.setPort s.ev.port (s.port s.ev.port).undecoded := by
  have hgo : ¬ (s.ev.port ≥ 64 ∨ ¬ carries (s.port s.ev.port).st t = true ∨ (s.die (brimOfPort s.ev.port)).lost = true) := by
    simp [hup, hreach]; omega
  simp only [State.portRx, if_neg hgo, hdec]

/-- A later flit asks for replay, the first that does (R389). -/
theorem rxData_later {f : LinkFmt} {h : Chan} (hseq : x.seq ≠ h.rxSeq) (hnew : h.discard = false)
    (hlater : (x.seq + f.seqs - h.rxSeq) % f.seqs < f.seqs / 2) : h.rxData f x = ({ h with discard := true }, .nak) := by
  rw [rxData_outOfOrder hseq, if_pos ⟨hnew, hlater⟩]

end Flits

section Replays

variable {s : State}

theorem kalsyReplay_replays {a : Nat} (hup : (s.port s.ev.port).st = .up) (hreplay : (s.port s.ev.port).ch.replay = some a) :
    exec .kalsyReplay s = .next (s.portReplay s.ev.port a false) := by
  show execKalsyReplay s = _
  simp only [execKalsyReplay, hreplay, if_pos hup]

theorem ackTimeout_replays (hup : (s.port s.ev.port).st = .up) (hkept : (s.port s.ev.port).ch.kept ≠ [])
    (hlate : (s.port s.ev.port).ch.ackClk + 16384 ≤ s.clk) :
    exec .ackTimeout s
      = .next (s.portReplay s.ev.port ((s.port s.ev.port).ch.nakAt.getD (s.port s.ev.port).ch.lastAck) true) :=
  congrArg Host.Outcome.next (if_pos ⟨by simpa using hkept, hup, hlate⟩)

end Replays

section States

variable {s : State} {p : Nat}

/-- EN := 1 in Off begins Training, and elsewhere changes nothing else (R390). -/
theorem portOn_eq : s.portOn p = if (s.port p).st = .off
    then (s.modPort p fun x => { x with en := true }).portTo p .training 0 else s.modPort p fun x => { x with en := true } := by
  simp only [State.portOn, State.modPort_eq, port_setPort_self]

/-- EN := 0 puts a port in Off (R390). -/
theorem portOff_eq : s.portOff p = if (s.port p).st = .off
    then s.modPort p fun x => { x with en := false } else (s.modPort p fun x => { x with en := false }).portTo p .off 0 := by
  simp only [State.portOff, State.modPort_eq, port_setPort_self]

/-- Where every kept request has another port and nothing is in transit, a port's change of state moves no traffic (R394, R407). -/
theorem moveTraffic_elsewhere (hreqs : ∀ r ∈ s.reqs, ∃ q, r.port = some q ∧ q ≠ p) (htransit : s.transit = []) :
    s.moveTraffic p = s := by
  have hmine : s.reqs.filter (fun r => r.port == some p) = [] := List.filter_eq_nil_iff.2 fun r hr => by
    obtain ⟨q, hq, hne⟩ := hreqs r hr
    simp [hq, hne]
  have hnone : s.reqs.filter (fun r => r.port.isNone) = [] := List.filter_eq_nil_iff.2 fun r hr => by
    obtain ⟨q, hq, -⟩ := hreqs r hr
    simp [hq]
  simp only [State.moveTraffic, hmine, List.foldl_nil, State.sendWaiting, hnone, State.moveTransit, htransit]
  rw [← htransit]

end States

section Waits

variable {s : State}

/-- A request whose wait for a port is over fails its path (R394). -/
theorem pathWaitExpire_fails {r : RemReq} {t : Nat} (hflag : s.ev.flag = false)
    (hreq : s.reqs.find? (fun r => r.rid == s.ev.rid) = some r) (hport : r.port = none) (hwait : r.waitTill = some t) (hover : t ≤ s.clk) :
    exec .pathWaitExpire s = .next (s.pathFailed r) := by
  show execPathWaitExpire s = _
  simp [execPathWaitExpire, hflag, hreq, hport, hwait, hover]

/-- The messages in transit whose wait is over are turned back, and the others stay (R395; log 33). -/
theorem transitOver_eq : s.transitOver = (s.transit.filter fun t => decide (t.till ≤ s.clk)).foldl State.turnBack
    { s with transit := s.transit.filter fun t => decide (s.clk < t.till) } := by
  have hleft : (not ∘ fun t : Transit => decide (t.till ≤ s.clk)) = fun t => decide (s.clk < t.till) := by
    funext t
    exact decide_not.symm.trans (decide_eq_decide.2 Nat.not_le)
  simp only [State.transitOver, List.partition_eq_filter_filter, hleft]

end Waits

/-- The reserved bits of KLCTL as a mask (R405). -/
theorem and_klctlRes {v : DWord} (h : v &&& 0xFFFFFFFFFF0FFE00 = 0) : v.toNat &&& klctlRes = 0 := by
  have := congrArg BitVec.toNat h
  rwa [BitVec.toNat_and] at this

/-- KLCTL takes HOPMAX up to 8, and PKGID up to 287 while every port is Off (R393, R405; log 32). -/
theorem klctlPut_fields (s : State) (v : DWord) : s.klctlPut v.toNat = { s with
    hopmax := if (v.extractLsb' 20 4).toNat ≤ 8 then (v.extractLsb' 20 4).toNat else s.hopmax
    pkgid := if ((List.range 64).all fun p => decide ((s.port p).st = .off)) = true ∧ (v.extractLsb' 0 9).toNat ≤ 287
      then (v.extractLsb' 0 9).toNat else s.pkgid } := by
  have hoff : ((upTo 64).all fun p => (s.port p).st == .off) = (List.range 64).all fun p => decide ((s.port p).st = .off) := rfl
  simp only [State.klctlPut, bits_toNat, hoff, Bool.and_eq_true, decide_eq_true_eq]

/-- Settles O53: each flit by what its receiver makes of it, each other row by the lemma that says what it leaves. -/
theorem kalsyRows : Obligations.KalsyRows := by
  refine ⟨?data, ?later, ?tag, ?badTag, ?control, ?idle, ?undecoded, ?replay, ?timeout, ?openGroup, ?enable, ?enabled, ?train, ?lock, ?own,
    ?trainingTimeout, ?light, ?moves, fun s p => rfl, ?expire, ?transit, fun s t => rfl, ?klctl⟩
  case data =>
    intro s c x hflit h hseq hdata
    exact congrArg Host.Outcome.next (portRx_took hflit (rxData_inOrder hseq hdata))
  case later =>
    intro s c x hflit h hseq hnew hlater
    exact congrArg Host.Outcome.next (portRx_took hflit (rxData_later hseq hnew hlater))
  case tag =>
    intro s c x k p hflit h hseq htag hki hkey e hopen next
    exact congrArg Host.Outcome.next (portRx_took hflit (rxTag_verified hseq htag hki hkey hopen))
  case badTag =>
    intro s c x k hflit h hseq htag hkey hopen
    exact congrArg Host.Outcome.next (portRx_took hflit (rxTag_failed hseq htag hkey hopen))
  case control => exact fun s c x hflit => congrArg Host.Outcome.next (portRx_took hflit rfl)
  case idle => exact fun s c x hflit => congrArg Host.Outcome.next (portRx_took hflit rfl)
  case undecoded =>
    intro s hport hreach hdec p u
    have hrx (t : Nat) (hcarries : carries p.st t = true) : s.portRx t = s.setPort s.ev.port p.undecoded :=
      portRx_undecoded hport hcarries hreach hdec
    refine ⟨fun hup => ?_, fun hst => ?_⟩
    · have hu : s.setPort s.ev.port p.undecoded = u := by rw [Port.undecoded, if_pos hup]; rfl
      have hflit (t : Nat) : s.portRx t = u := (hrx t (by rw [hup]; rfl)).trans hu
      exact ⟨congrArg Host.Outcome.next (hflit 0), congrArg Host.Outcome.next (hflit 1), congrArg Host.Outcome.next (hflit 2),
        congrArg Host.Outcome.next (hflit 3)⟩
    · have hnot : ¬ p.st = .up := by rcases hst with h | h <;> simp [h]
      have hcarries : carries p.st 2 = true := by rcases hst with h | h <;> rw [h] <;> rfl
      refine congrArg Host.Outcome.next ((hrx 2 hcarries).trans ?_)
      rw [Port.undecoded, if_neg hnot]
      rfl
  case replay =>
    intro s a hup hreplay p h u
    rw [kalsyReplay_replays hup hreplay]
    refine congrArg Host.Outcome.next ?_
    by_cases hfew : h.fails < 8
    · exact (if_neg (Nat.not_le.2 hfew)).trans (if_pos hfew).symm
    · exact (if_pos (Nat.not_lt.1 hfew)).trans (if_neg hfew).symm
  case timeout =>
    intro s hup hkept hlate p h u
    rw [ackTimeout_replays hup hkept hlate]
    refine congrArg Host.Outcome.next ?_
    have hfails : h.fails = p.ch.fails + 1 := rfl
    by_cases hfew : p.ch.fails < 7
    · exact (if_neg (show ¬ 8 ≤ h.fails by omega)).trans (if_pos hfew).symm
    · exact (if_pos (show 8 ≤ h.fails by omega)).trans (if_neg hfew).symm
  case openGroup => exact fun s hup hopen => congrArg Host.Outcome.next (if_pos ⟨hup, by simpa using hopen⟩)
  case enable =>
    intro s hport hst
    exact congrArg Host.Outcome.next ((if_pos hport).trans (portOn_eq.trans (if_pos hst)))
  case enabled =>
    intro s hport hst
    exact ⟨congrArg Host.Outcome.next ((if_pos hport).trans (portOn_eq.trans (if_neg hst))),
      congrArg Host.Outcome.next ((if_pos hport).trans (portOff_eq.trans (if_neg hst)))⟩
  case train => exact fun s hport hst => congrArg Host.Outcome.next ((if_pos hport).trans (if_pos hst))
  case lock => exact fun s hport hst hother => congrArg Host.Outcome.next ((if_pos ⟨hport, hst⟩).trans (if_neg hother))
  case own => exact fun s hport hst hown => congrArg Host.Outcome.next ((if_pos ⟨hport, hst⟩).trans (if_pos hown))
  case trainingTimeout => exact fun s hst hlate => congrArg Host.Outcome.next (if_pos ⟨hst, hlate⟩)
  case light => exact fun s hup => congrArg Host.Outcome.next (if_pos hup)
  case moves => exact fun s p st peer hreqs htransit => moveTraffic_elsewhere (s := s.modPort p _) hreqs htransit
  case expire => exact fun s r t => pathWaitExpire_fails
  case transit => exact fun s hflag => congrArg Host.Outcome.next ((if_pos hflag).trans transitOver_eq)
  case klctl =>
    intro s hport hdie hres hop pkg
    exact congrArg Host.Outcome.next ((windowWrite_of_dieAnswers hport hdie (and_klctlRes hres)).trans (klctlPut_fields s s.ev.v))

end Sys2Proof.Machine
end

section
/-! ### What errors do (R409 to R412, R421, R422, R424, R425) -/

namespace Sys2Proof.Machine

section Ways

variable {s : State} {c : CacheRef} {pa way : Nat} {l : Line}

/-- A clean line of a failing way is given up, to be fetched again (R411). -/
theorem cacheUE_clean (hline : (s.cache c).line? (lineOf pa) = some l) (hway : l.way = way) (hclean : l.dirty = 0) :
    s.cacheUE c pa way = (s.giveUp c (lineOf pa)).badWay c (lineOf pa) way := by
  simp only [State.cacheUE, hline, hway, ne_eq, not_true_eq_false, if_false, if_pos hclean]

/-- A dirty line of a failing way that names its owner is poisoned at its home, and the owner loses data (R411, R414). -/
theorem cacheUE_dirty (hline : (s.cache c).line? (lineOf pa) = some l) (hway : l.way = way) (hdirty : l.dirty ≠ 0) (htracked : l.st ≠ .si)
    (htag : l.tagv = true) :
    s.cacheUE c pa way = ((s.setPoison (lineOf pa * 128)).lostData l.ctx (if cacheCode c = 1 then sliceNo c (lineOf pa) else 0) (cacheDie c)
      (lineOf pa * 128) (cacheCode c)).badWay c (lineOf pa) way := by
  simp only [State.cacheUE, hline, hway, ne_eq, not_true_eq_false, if_false, if_neg hdirty, if_neg htracked, htag, if_true]

/-- A way that holds no line and is within the limit is quarantined with its record (R424). -/
theorem badWay_empty {ln : Nat} (hnew : (s.cache c).badWays.contains (wayNo c ln way) = false)
    (hroom : (s.cache c).badHere c ln < if cacheCode c = 1 then 4 else 8) (hempty : (s.cache c).wayLines c ln way = []) :
    s.badWay c ln way = (s.setCache c { s.cache c with badWays := (s.cache c).badWays ++ [wayNo c ln way] }).event
      { kind := 12, core := if cacheCode c = 1 then sliceNo c ln else 0, die := cacheDie c
        aux := cacheCode c * 16777216 + sliceNo c ln * 256 + way } := by
  simp only [State.badWay, hnew, Bool.false_eq_true, if_false, if_neg (Nat.not_le.2 hroom), hempty, List.foldl_nil, Nat.reducePow]

end Ways

section Units

variable {s : State} {x : ErrLoc}

theorem uncorrectableError_at (hloc : s.ev.loc = x) : exec .uncorrectableError s = .next (s.uncorrectable x) := hloc ▸ rfl

theorem correctedError_at (hloc : s.ev.loc = x) : exec .correctedError s = .next (s.corrected x) := hloc ▸ rfl

/-- DRAM's line is poisoned where no cache has it dirty, counted, and recorded (R411, R421). -/
theorem dramUE_poisons {pa : Nat} (hdram : isDram pa = true) :
    s.dramUE pa = ((if s.dirtyElsewhere (lineOf pa) then s else s.setPoison pa).countUE pa).poisonedLine ((homeDies pa).headD 0)
      (lineOf pa * 128) (dramLoc pa) := by
  simp only [State.dramUE, hdram, Bool.not_true, Bool.false_eq_true, if_false]

/-- A store of this package that is lost poisons its line and faults its context (R411). -/
theorem storeUE_poisons {core i : Nat} {r : StoreReq} (hstore : (s.core core).storeq[i]? = some r) (hhere : pkgOf r.pa = s.pkgid) :
    s.storeUE core i = ((s.modCore core fun k => { k with storeq := dropAt k.storeq i }).setPoison (localOf r.pa)).contextFault r.ctx
      (Event.encode { kind := 2, ctx := r.ctx, core := core, die := dieOf core, pa := r.pa, aux := 9, clock := s.clk }) := by
  have hhere' (f : Core → Core) : pkgOf r.pa = (s.modCore core f).pkgid := hhere
  simp only [State.storeUE, hstore, if_pos (hhere' _)]
  rfl

/-- A log entry that is lost inside the window kills its team (R412). -/
theorem logUE_kills {team i : Nat} {tm : Team} {r : StoreReq} (hteam : s.team? team = some tm) (hlog : tm.log[i]? = some r)
    (hwindow : tm.window = true) : s.logUE team i = s.killTeam team r.tid r.pc r.pa := by
  simp only [State.logUE, hteam, hlog, hwindow, if_true]

/-- A corrected error in DRAM is counted for its frame, whose retirement falls due at the threshold (R421, R422). -/
theorem dramCE_counts {pa : Nat} (hdram : isDram pa = true) (hcounts : s.cn.fetEn = true) :
    let a := s.cn.fetBase + 8 * frameNo pa
    let n := min (s.peekNat a 4 + 1) 4294967295
    let u := s.pokeNat a 4 n
    let f := u.frame (pa / 65536)
    s.dramCE pa = if u.cn.fceth ≠ 0 ∧ u.cn.fceth ≤ n ∧ f.ret = false ∧ f.mig = false then
      u.soon [Happening.row .frameRetirement { frame := pa / 65536, cause := 2 }] else u := by
  simp only [State.dramCE, hdram, hcounts, Bool.not_true, Bool.or_self, Bool.false_eq_true, if_false, Bool.not_eq_true,
    Nat.reducePow, Nat.reduceSub]

end Units

/-- Settles O55: each unit's error by the lemma that says what it does; registers, scratchpad and the matrix engine's units by
definition. -/
theorem errorRows : Obligations.ErrorRows := by
  refine ⟨?line, fun s c ln way => badWay_empty, ?dram, ?register, ?predicates, ?scratch, ?accumulator, ?plane, ?store, ?log, ?margin,
    ?corrected, ?counted, ?ways, ?rows, fun s => ⟨rfl, rfl⟩⟩
  case line =>
    intro s c pa way l hloc hline hway
    refine ⟨fun hclean => ?_, fun hdirty htracked htag => ?_⟩
    · exact (uncorrectableError_at hloc).trans (congrArg Host.Outcome.next (cacheUE_clean hline hway hclean))
    · exact (uncorrectableError_at hloc).trans (congrArg Host.Outcome.next (cacheUE_dirty hline hway hdirty htracked htag))
  case dram => exact fun s pa hloc hdram => (uncorrectableError_at hloc).trans (congrArg Host.Outcome.next (dramUE_poisons hdram))
  case register => exact fun s team tid reg => uncorrectableError_at
  case predicates => exact fun s team tid => uncorrectableError_at
  case scratch => exact fun s team off => uncorrectableError_at
  case accumulator => exact fun s team e row col => uncorrectableError_at
  case plane => exact fun s team e byte => uncorrectableError_at
  case store =>
    exact fun s core i r hloc hstore hhere =>
      (uncorrectableError_at hloc).trans (congrArg Host.Outcome.next (storeUE_poisons hstore hhere))
  case log =>
    exact fun s team i tm r hloc hteam hlog hwindow =>
      (uncorrectableError_at hloc).trans (congrArg Host.Outcome.next (logUE_kills hteam hlog hwindow))
  case margin =>
    intro s team tid tm t hloc hteam hthread
    rw [uncorrectableError_at hloc]
    simp only [State.uncorrectable, hteam, hthread]
  case corrected => exact fun s c pa way => correctedError_at
  case counted =>
    exact fun s pa hloc hdram hcounts => (correctedError_at hloc).trans (congrArg Host.Outcome.next (dramCE_counts hdram hcounts))
  case ways =>
    intro s hflag hover
    exact congrArg Host.Outcome.next ((if_neg (by simp [hflag])).trans (if_pos hover))
  case rows => exact fun s hflag hover => congrArg Host.Outcome.next ((if_pos hflag).trans (if_pos hover))

end Sys2Proof.Machine
end

section
/-! ### Kills, context faults and frames (R413, R414, R420, R422, R423) -/

namespace Sys2Proof.Machine

section Frames

variable {s : State} {f g k : Nat}

theorem teamKill_kills {tm : Team} {t : Thread} (hteam : s.team? s.ev.team = some tm) (hthread : s.thread? s.ev.team s.ev.tid = some t)
    (hwindow : tm.window = true) : exec .teamKill s = .next (s.killTeam s.ev.team s.ev.tid t.pc s.ev.pa) := by
  show execTeamKill s = _
  simp only [execTeamKill, hteam, hthread, hwindow, if_true]

/-- A DRAM frame that is in use begins its retirement (R422). -/
theorem retireFrame_begins (hret : (s.frame f).ret = false) (hmig : (s.frame f).mig = false) (hdram : isDram (f * 65536) = true) :
    s.retireFrame f k = (s.modFrame f fun x => { x with mig := true, cause := k }).flushFrames f 1 :=
  if_neg (by simp [hret, hmig, hdram])

/-- A frame that is retired, is under migration, or is no DRAM stays as it is (R422). -/
theorem retireFrame_refused (h : (s.frame f).ret = true ∨ (s.frame f).mig = true ∨ isDram (f * 65536) = false) : s.retireFrame f k = s :=
  if_pos (by rcases h with h | h | h <;> simp [h])

/-- The cause of a retirement is an uncorrectable error, or corrected errors at the threshold while they are counted (R422). -/
theorem causeHolds_iff : s.causeHolds f k = true ↔ let a := s.cn.fetBase + 8 * frameNo (f * 65536)
    (k = 1 ∧ (s.cn.fetEn = true → s.peekNat (a + 4) 4 ≠ 0))
      ∨ (k = 2 ∧ s.cn.fetEn = true ∧ s.cn.fceth ≠ 0 ∧ s.cn.fceth ≤ s.peekNat a 4) := by
  simp only [State.causeHolds, Bool.or_eq_true, Bool.and_eq_true, beq_iff_eq, bne_iff_ne, decide_eq_true_eq, Bool.not_eq_true',
    and_assoc, ← Bool.not_eq_true, imp_iff_not_or]

/-- The retirement of a frame whose home is lost is abandoned (R432). -/
theorem frameRetired_abandoned (hmig : (s.frame f).mig = true) (hlost : s.homeLost (f * 65536) = true) :
    s.frameRetired f = s.modFrame f fun x => { x with mig := false, cause := 0 } := by
  simp only [State.frameRetired, hmig, hlost, Bool.not_true, Bool.false_eq_true, if_false, if_true]

/-- An entry of the bad-frame list while no errors are counted (R423). -/
theorem badFrameEntry_uncounted : badFrameEntry f k 0 0 = BitVec.ofNat 128 (k % 16 * 1152921504606846976 + f % 134217728 * 65536) := by
  simp [badFrameEntry]

@[simp] theorem takeSpare_pkgid (s : State) (f g : Nat) : (s.takeSpare f g).pkgid = s.pkgid := by
  unfold State.takeSpare
  split <;> rfl

/-- A retirement ends with the first suitable spare, an entry of the bad-frame list and a record (R422, R423). -/
theorem frameRetired_takes (hmig : (s.frame f).mig = true) (hhome : s.homeLost (f * 65536) = false) (hroom : s.remapFull f = false)
    (huncounted : s.cn.fetEn = false) (hlist : s.bfl.length < 4096)
    (hspare : s.cn.spares.find? (fun g => sameHome f g && g != f) = some g) :
    let c := s.takeSpare f g
    let u : State := { c with
      cn := { s.cn with spares := s.cn.spares.erase g, mapped := s.cn.mapped.erase g }
      bfl := c.bfl ++ [BitVec.ofNat 128 ((s.frame f).cause % 16 * 1152921504606846976 + f % 134217728 * 65536)] }
    s.frameRetired f = (u.modFrame f fun x => { x with ret := true, mig := false }).event
      { kind := 11, pa := s.pkgid * 8796093022208 + f * 65536, info := g * 65536, aux := (s.frame f).cause } := by
  have hlisted : ¬ 4096 ≤ s.bfl.length := Nat.not_le.2 hlist
  have hoff : ¬ s.cn.fetEn = true := by simp [huncounted]
  simp only [State.frameRetired, hmig, hhome, hroom, if_neg hoff, hspare, hlisted, Bool.not_true, Bool.false_eq_true, if_false,
    decide_false, badFrameEntry_uncounted]
  rw [← takeSpare_pkgid s f g]
  rfl

theorem takeSpare_eq : s.takeSpare f g = if g ∈ s.cn.mapped then (s.freeFrame f).freeFrame g
    else (s.copyFrame f g).modFrame f fun x => { x with spare := some g } := by
  simp only [State.takeSpare, List.contains_iff_mem]

end Frames

section Registers

variable {s : State} {v : DWord}

theorem and_fretRes (h43 : v.extractLsb' 43 21 = 0) (h1 : v.extractLsb' 1 15 = 0) : v.toNat &&& fretRes = 0 := by
  have hmasks : fretRes = maskOf 63 43 ||| maskOf 15 1 := by decide
  rw [hmasks]
  exact and_or_eq_zero (and_maskOf_of_extractLsb' 63 43 h43) (and_maskOf_of_extractLsb' 15 1 h1)

theorem and_spareRes (h43 : v.extractLsb' 43 21 = 0) (h12 : v.extractLsb' 12 4 = 0) : v.toNat &&& spareRes = 0 := by
  have hmasks : spareRes = maskOf 63 43 ||| maskOf 15 12 := by decide
  rw [hmasks]
  exact and_or_eq_zero (and_maskOf_of_extractLsb' 63 43 h43) (and_maskOf_of_extractLsb' 15 12 h12)

/-- FRET with GO retires its frame with cause 3 (R420, R422). -/
theorem fretPut_go (hgo : v.getLsbD 0 = true) : s.fretPut v.toNat = s.retireFrame (v.extractLsb' 16 27).toNat 3 := by
  have hbit : bitOf v.toNat 0 = true := hgo
  rw [State.fretPut, if_pos hbit, bits_toNat]

/-- SPARE adds a frame to the pool while there is room (R420). -/
theorem sparePut_adds : s.sparePut v.toNat = if s.cn.spares.length < 4095 then
      { s with cn := { s.cn with
        spares := s.cn.spares ++ [(v.extractLsb' 16 27).toNat]
        mapped := if s.frameMapped (v.extractLsb' 16 27).toNat then s.cn.mapped ++ [(v.extractLsb' 16 27).toNat] else s.cn.mapped } }
    else s := by
  simp only [State.sparePut, bits_toNat, ← Nat.not_lt, ite_not]

end Registers

/-- Settles O56: each row by the lemma that says what it does. -/
theorem killAndFrameRows : Obligations.KillAndFrameRows := by
  refine ⟨fun s tm t => teamKill_kills, ?stop, fun s f k => retireFrame_begins, fun s f k => retireFrame_refused, ?cause, ?abandoned,
    ?retired, fun s f g => takeSpare_eq, ?fret, ?spare⟩
  case stop => exact fun s hst => congrArg Host.Outcome.next (if_pos hst)
  case cause => exact fun s hcause => congrArg Host.Outcome.next (if_pos (causeHolds_iff.2 hcause))
  case abandoned => exact fun s hmig hlost => congrArg Host.Outcome.next (frameRetired_abandoned hmig hlost)
  case retired =>
    exact fun s g hmig hhome hroom huncounted hlist hspare =>
      congrArg Host.Outcome.next (frameRetired_takes hmig hhome hroom huncounted hlist hspare)
  case fret =>
    intro s hport hdie h43 h1 hgo
    exact congrArg Host.Outcome.next ((windowWrite_of_dieAnswers hport hdie (and_fretRes h43 h1)).trans (fretPut_go hgo))
  case spare =>
    intro s hport hdie h43 h12 g
    exact congrArg Host.Outcome.next ((windowWrite_of_dieAnswers hport hdie (and_spareRes h43 h12)).trans sparePut_adds)

end Sys2Proof.Machine
end

section
/-! ### Dies, temperature and power (R427, R428, R430, R431, R453) -/

namespace Sys2Proof.Machine

section Losses

variable {s : State}

/-- A die with no link left, or with a fatal error, is lost (R427). -/
theorem dieLoss_loses (hdie : s.ev.die < 14) (hhere : (s.die s.ev.die).lost = false)
    (hcause : s.ev.flag = true ∨ (∀ n ∈ linksOf s.ev.die, (s.link n).failed = true)) :
    exec .dieLoss s = .next (s.loseDie s.ev.die false) :=
  congrArg Host.Outcome.next (if_pos ⟨hdie, by simp [hhere], hcause.imp_right List.all_eq_true.2⟩)

/-- The census gives the directory half the entries that the surviving C-dies report, and takes up the requests that waited (R428). -/
theorem takeCensus_builds {d t : Nat} (hdue : (s.die d).census = some t) :
    let rs := (upTo 8).flatMap fun i => s.censusOf (d - 8) i
    let lines := distinct (rs.map (·.1))
    let rest := s.dirs.filter fun (x : DirRef × DirEntry) => x.1 != DirRef.package (d - 8)
    let u : State := { s with dirs := lines.map (fun l => (DirRef.package (d - 8), censusEntry s.clk rs l)) ++ rest }
    let v := (s.dirs.flatMap fun x => if x.1 = .package (d - 8) then x.2.queue else []).foldl (fun s r => s.dirAsk (.package (d - 8)) r)
      (u.modDie d fun x => { x with census := none })
    s.takeCensus d = v.event { kind := 10, die := d, info := v.clk - t, aux := lines.length } := by
  simp only [State.takeCensus, hdue]

end Losses

section Temperature

variable {s : State}

theorem hotter_iff {temp : BitVec 16} {limit : Nat} : hotter temp limit = true ↔ (16 * limit : Int) < temp.toInt := decide_eq_true_iff

/-- A reading above TWARN throttles the die, with a record when that begins (R430, R431). -/
theorem thermalThrottle_throttles (hdie : s.ev.die < 14) (hhot : (16 * (s.die s.ev.die).twarn : Int) < s.ev.temp.toInt) :
    let u := s.modDie s.ev.die fun x => { x with
      montemp := s.ev.temp.toNat, throttled := true
      critSince := if (16 * x.tcrit : Int) < s.ev.temp.toInt then some (x.critSince.getD s.clk) else none }
    exec .thermalThrottle s = .next (if (s.die s.ev.die).throttled then u
      else u.event { kind := 21, die := s.ev.die, aux := s.ev.temp.toNat }) := by
  have hgo : ¬ (14 ≤ s.ev.die ∨ ¬ hotter s.ev.temp (s.die s.ev.die).twarn = true) := by simp [hotter_iff, hhot]; omega
  show execThermalThrottle s = _
  simp only [execThermalThrottle, if_neg hgo]
  simp only [hotter_iff]

end Temperature

/-- Settles O57: each row by the lemma that says what it does; a reading of power by its comparison with LIMIT. -/
theorem dieAndPowerRows : Obligations.DieAndPowerRows := by
  refine ⟨fun s => dieLoss_loses, ?census, fun s => thermalThrottle_throttles, ?cooler, ?reset, ?power, ?deep⟩
  case census =>
    intro s t hcrown hother hdue
    exact congrArg Host.Outcome.next ((if_pos ⟨hcrown, by simp [hother]⟩).trans (takeCensus_builds hdue))
  case cooler =>
    intro s hdie hcool
    exact congrArg Host.Outcome.next (if_pos ⟨hdie, by simpa [hotter_iff] using hcool⟩)
  case reset => exact fun s hdie hhere hlong => congrArg Host.Outcome.next (if_pos ⟨hdie, by simp [hhere], hlong⟩)
  case power => exact fun s =>
    ⟨fun hover => congrArg Host.Outcome.next (if_pos hover), fun hunder => congrArg Host.Outcome.next (if_pos hunder)⟩
  case deep => exact fun s hthr hlong => congrArg Host.Outcome.next (if_pos ⟨hthr, hlong⟩)

end Sys2Proof.Machine
end

section
/-! ### Attestation, keys and rollovers (R429, R434 to R441, R449) -/

namespace Sys2Proof.Machine

section StartUp

variable {s : State}

/-- A die whose reset has ended is measured in its turn, or, reset alone, once its stack is zero (R429, R435, R437). -/
theorem dieMeasurement_begins (hanchor : s.anchok = true) (hdie : s.ev.die ∈ measureOrder) (hreset : (s.die s.ev.die).attested.st = 0)
    (hturn : ((s.die s.ev.die).attested.nrst = 0 ∧ s.turnToMeasure s.ev.die = true)
      ∨ ((s.die s.ev.die).attested.nrst ≠ 0 ∧ (8 ≤ s.ev.die ∨ (s.die s.ev.die).zeroed = true))) :
    exec .dieMeasurement s = .next (s.setAt s.ev.die 1 (s.die s.ev.die).attested.why) := by
  have hgo : ¬ ((!s.anchok || !measureOrder.contains s.ev.die) = true) := by simp [hanchor, hdie]
  exact congrArg Host.Outcome.next ((if_neg hgo).trans ((if_pos hreset).trans (if_pos hturn)))

/-- The root's checks make a measured die Attested, or Quarantined and lost (R436). -/
theorem dieMeasurement_ends (hanchor : s.anchok = true) (hdie : s.ev.die ∈ measureOrder) (hmeasuring : (s.die s.ev.die).attested.st = 1) :
    exec .dieMeasurement s = .next (if s.ev.measured = .accepted then s.setAt s.ev.die 2 (s.die s.ev.die).attested.why
      else (s.setAt s.ev.die 4 (whyOf s.ev.measured)).modDie s.ev.die fun x => { x with lost := true }) := by
  have hgo : ¬ ((!s.anchok || !measureOrder.contains s.ev.die) = true) := by simp [hanchor, hdie]
  have hst : ¬ (s.die s.ev.die).attested.st = 0 := by simp [hmeasuring]
  show execDieMeasurement s = _
  simp only [execDieMeasurement, if_neg hgo, if_neg hst, if_pos hmeasuring]
  cases s.ev.measured <;> rfl

/-- A store none of whose entries has a key reads 0 there. -/
theorem spGet_of_unlisted {w : Nat} {t : List (Nat × BitVec w)} {k : Nat} (h : ∀ e ∈ t, e.1 ≠ k) : spGet t k = 0 := by
  induction t with
  | nil => rfl
  | cons e r ih =>
    obtain ⟨j, x⟩ := e
    have hj : j ≠ k := h (j, x) (by simp)
    rw [spGet, if_neg hj, ih fun e he => h e (by simp [he]), ite_self]

/-- A zeroed stack reads 0 (R429). -/
theorem peek_zeroStack {d a : Nat} (hlo : d * 51539607552 ≤ s.home a) (hhi : s.home a < (d + 1) * 51539607552) :
    (s.zeroStack d).peek a = 0 := by
  refine spGet_of_unlisted (k := s.home a) fun e he heq => ?_
  have hkept := (List.mem_filter.1 he).2
  simp only [heq, Bool.not_eq_true', Bool.and_eq_false_iff, decide_eq_false_iff_not] at hkept
  omega

/-- A zeroed stack holds no poison (R429). -/
theorem poison_zeroStack {d a : Nat} (hlo : d * 51539607552 ≤ a) (hhi : a < (d + 1) * 51539607552) :
    (s.zeroStack d).poison.contains (a / 128) = false := by
  rw [Bool.eq_false_iff, Ne, List.contains_iff_mem]
  intro hmem
  have hkept := (List.mem_filter.1 hmem).2
  simp only [Bool.not_eq_true', Bool.and_eq_false_iff, decide_eq_false_iff_not] at hkept
  omega

end StartUp

section Keys

variable {s : State} {n p : Nat} {h0 h1 : Chan}

/-- A link between dies that are Attested or Keyed, with no key yet, is given its keys (R438). -/
theorem installLink_keys {r : Nat} (hlink : n < 21) (hok : (s.link n).failed = false) (hnew : (s.link n).keyed = false)
    (hup : ∀ d, d = (linkEnds n).1 ∨ d = (linkEnds n).2 → (s.die d).attested.st = 2 ∨ (s.die d).attested.st = 3) :
    s.installLink n r = (s.keyLink n).hstatFrom s := by
  have hfirst := hup _ (.inl rfl)
  have hsecond := hup _ (.inr rfl)
  simp only [State.installLink, if_neg (Nat.not_le.2 hlink)]
  simp [hok, hnew, hfirst, hsecond]

/-- Both directions of a link get the next two keys of the root (R438, R439). -/
theorem keyLink_draws (hdirs : (s.link n).dirs = [h0, h1]) :
    let k (i : Nat) : KeySlot := { key := Config.rootKey (s.keysDrawn + i), salt := Config.rootSalt (s.keysDrawn + i) }
    s.keyLink n = (((({ s with keysDrawn := s.keysDrawn + 2 } : State).setLink n { s.link n with
      dirs := [h0.firstKey (k 0) s.clk, h1.firstKey (k 1) s.clk] }).tryKeyed (linkEnds n).1).tryKeyed (linkEnds n).2) := by
  have hdirs' (m : Nat) : (({ s with keysDrawn := m } : State).link n).dirs = [h0, h1] := hdirs
  simp only [State.keyLink, State.drawKey, hdirs', List.zip_cons_cons, List.zip_nil_right, List.map_cons, List.map_nil]
  rfl

/-- A port in Attest fails where its peer is refused (R390). -/
theorem installPort_refused {m : Measured} (hport : p < 64) (hattest : (s.port p).st = .attest) (hrefused : m ≠ .accepted) :
    s.installPort p m = s.failPort p := by
  have hgo : ¬ (64 ≤ p ∨ (s.port p).st ≠ .attest) := by simp [hattest, hport]
  unfold State.installPort
  rw [if_neg hgo]
  cases m
  case accepted => exact absurd rfl hrefused
  all_goals rfl

theorem installPort_accepted (hport : p < 64) (hattest : (s.port p).st = .attest) :
    let n := s.keysDrawn
    s.installPort p .accepted = (({ s with keysDrawn := n + 1 } : State).modPort p fun x => { x with
      st := .up, since := s.clk
      ch := { Chan.init with
        wire := (s.port p).ch.wire, txKeys := [some (slotOf (Config.sessionKey n 0 true)), none]
        rxKeys := [some (slotOf (Config.sessionKey n 0 false)), none], lastKey := s.clk, ackClk := s.clk, session := n } }).sendWaiting := by
  have hgo : ¬ (64 ≤ p ∨ (s.port p).st ≠ .attest) := by simp [hattest, hport]
  exact if_neg hgo

end Keys

section Rollovers

variable {s : State} {n p : Nat} {h0 h1 : Chan}

theorem roll_of_rollDue {h : Chan} (hdue : s.rollDue h = true) : h.roll = none := by
  simp only [State.rollDue, Bool.and_eq_true, Option.isNone_iff_eq_none] at hdue
  exact hdue.1.1.1.2

/-- A die link's rollover starts in both directions where it is due and in turn (R440). -/
theorem rollLink_starts (hlink : n < 21) (hok : s.linkOk n = true) (hdirs : (s.link n).dirs = [h0, h1]) (hdue0 : s.rollDue h0 = true)
    (hdue1 : s.rollDue h1 = true) (hturn : s.turnToRoll n = true) :
    let k (i : Nat) : KeySlot := { key := Config.rootKey (s.keysDrawn + i), salt := Config.rootSalt (s.keysDrawn + i) }
    s.rollLink n = ({ s with keysDrawn := s.keysDrawn + 2 } : State).setLink n { s.link n with
      dirs := [h0.startRoll (k 0) (k 0) s.clk, h1.startRoll (k 1) (k 1) s.clk] } := by
  have hgo : ¬ (n ≥ 21 ∨ ¬ s.linkOk n = true) := by simp [hok]; omega
  have hnone : ¬ ([h0, h1].all fun h => h.roll.isSome) = true := by simp [roll_of_rollDue hdue0]
  have hall : (([h0, h1].all fun h => s.rollDue h) && s.turnToRoll n) = true := by simp [hdue0, hdue1, hturn]
  simp only [State.rollLink, if_neg hgo, hdirs, if_neg hnone, if_pos hall, State.drawKey, List.zip_cons_cons, List.zip_nil_right,
    List.map_cons, List.map_nil]
  rfl

/-- The completion of a port's rollover puts the new key in use (R391). -/
theorem rollPort_completes {slot at_ : Nat} {k : KeySlot} (hport : p < 64) (hup : (s.port p).st = .up)
    (hroll : (s.port p).ch.roll = some (slot, k, at_)) :
    s.rollPort p = s.setPort p { s.port p with ch := { (s.port p).ch with
      txKeys := Machine.setAt (s.port p).ch.txKeys (1 - (s.port p).ch.txKi) (some k), txKi := 1 - (s.port p).ch.txKi, txEpoch := 0
      roll := none, lastKey := s.clk } } := by
  have hgo : ¬ (64 ≤ p ∨ (s.port p).st ≠ .up) := by simp [hup, hport]
  simp only [State.rollPort, if_neg hgo, hroll, Option.isSome_some, if_true, Chan.endRoll]

/-- An abandoned rollover leaves the key in use, and is due again an interval later (R440). -/
theorem dropRoll_rolling {h : Chan} {slot at_ interval : Nat} {k : KeySlot} (hroll : h.roll = some (slot, k, at_)) :
    h.dropRoll interval = { h with
      rxKeys := if slot = h.rxKi then h.rxKeys else Machine.setAt h.rxKeys slot none, roll := none, lastKey := h.lastKey + interval } := by
  simp only [Chan.dropRoll, hroll]

end Rollovers

section Resets

variable {s : State}

theorem bitOf_iff {v n : Nat} : bitOf v n = true ↔ v / 2 ^ n % 2 = 1 := by
  rw [bitOf, Nat.testBit_eq_decide_div_mod_eq, decide_eq_true_eq]

/-- A write of a die's register with RST, its bit 12, goes through the register window (R441, R442). -/
theorem atdieRst_writes (hdie : s.ev.die < 14) (hrst : s.ev.v.toNat / 4096 % 2 = 1) :
    exec .atdieRst s = .next (s.windowWrite 10 (0x600000 + 8 * s.ev.die) 0xFFFFFFFF0000E0F8 s.ev.v.toNat fun s => s.rstDie s.ev.die) := by
  have hmask : atdieRes = 0xFFFFFFFF0000E0F8 := by decide
  rw [← hmask]
  exact congrArg Host.Outcome.next (if_pos ⟨hdie, bitOf_iff.2 hrst⟩)

/-- A write that its die takes and that sets a reserved bit is rejected with cause 1 (R445). -/
theorem windowWrite_reserved {d off res v : Nat} {put : State → State} (hport : s.ev.hport < 2) (hanswers : s.dieAnswers d off = true)
    (hres : v &&& res ≠ 0) : s.windowWrite d off res v put = s.reject s.ev.hport 1 (d * 2 ^ 32 + off) 8 false := by
  rw [State.windowWrite, if_neg (Nat.not_le.2 hport), hanswers]
  simp [hres]

/-- RST of a measured die other than brim[0] resets it, which is its loss unless it is Quarantined (R441). -/
theorem rstDie_resets {d : Nat} (hdie : d < 14) (hother : d ≠ 10) (hmeasured : 2 ≤ (s.die d).attested.st) :
    s.rstDie d = if (s.die d).attested.st = 4 then (s.resetDie d).hstatFrom s else s.loseDie d true :=
  if_neg (by omega)

end Resets

/-- Settles O58: each row by the lemma that says what it does. -/
theorem attestationRows : Obligations.AttestationRows := by
  refine ⟨?start, ?measures, ?measured, ?zeroing, fun s d a => peek_zeroStack, fun s d a => poison_zeroStack, ?dieStart, ?install,
    fun s n h0 h1 => keyLink_draws, ?accepted, ?refused, ?roll, ?complete, ?abandon, ?reset⟩
  case start => exact fun s hflag hreset => congrArg Host.Outcome.next (if_pos (by simp [hflag, hreset]))
  case measures => exact fun s hanchor hdie hreset hturn => dieMeasurement_begins hanchor hdie hreset hturn
  case measured =>
    intro s d a hanchor hdie hmeasuring
    have hrow := dieMeasurement_ends hanchor hdie hmeasuring
    refine ⟨fun haccepted => hrow.trans (congrArg Host.Outcome.next (if_pos haccepted)), fun hrefused => hrow.trans ?_⟩
    exact congrArg Host.Outcome.next (if_neg hrefused)
  case zeroing =>
    intro s d hdie hreset hagain hdirty
    exact congrArg Host.Outcome.next (if_pos ⟨hdie, hreset, hagain, by simp [d, hdirty]⟩)
  case dieStart =>
    intro s d hdie hkeyed hdirty u v
    exact congrArg Host.Outcome.next (if_pos ⟨hdie, hkeyed, by simp [d, hdirty]⟩)
  case install =>
    intro s n hlref hlink hok hnew hup
    refine Eq.trans ?_ (congrArg Host.Outcome.next (installLink_keys (r := s.ev.die) hlink hok hnew hup))
    show execKeyInstall s = _
    rw [execKeyInstall, hlref]
  case accepted =>
    intro s p hlref hport hattest haccepted n
    refine Eq.trans ?_ (congrArg Host.Outcome.next (installPort_accepted hport hattest))
    show execKeyInstall s = _
    rw [execKeyInstall, hlref, haccepted]
  case refused =>
    intro s p hlref hport hattest hrefused
    refine Eq.trans ?_ (congrArg Host.Outcome.next (installPort_refused hport hattest hrefused))
    show execKeyInstall s = _
    rw [execKeyInstall, hlref]
  case roll =>
    intro s n h0 h1 hlref hlink hok hdirs hdue0 hdue1 hturn k
    refine Eq.trans ?_ (congrArg Host.Outcome.next (rollLink_starts hlink hok hdirs hdue0 hdue1 hturn))
    show execKeyRollover s = _
    rw [execKeyRollover, hlref]
  case complete =>
    intro s p slot k at_ hlref hport hup hroll x
    refine Eq.trans ?_ (congrArg Host.Outcome.next (rollPort_completes hport hup hroll))
    show execKeyRollover s = _
    rw [execKeyRollover, hlref]
  case abandon =>
    intro s p slot k at_ hlref hport hroll hlate x
    have hrow : exec .rolloverAbandon s = .next (s.setPort p { x with ch := x.ch.dropRoll (2 ^ s.keyint) }) := by
      show execRolloverAbandon s = _
      simp only [execRolloverAbandon, hlref]
      exact congrArg Host.Outcome.next (if_pos ⟨hport, hlate⟩)
    rw [hrow, dropRoll_rolling hroll]
  case reset =>
    intro s d v hdie hrst hport hanswers
    have hrow := atdieRst_writes hdie hrst
    refine ⟨fun hres => hrow.trans (congrArg Host.Outcome.next (windowWrite_reserved hport hanswers hres)), fun hres hkept => ?_,
      fun hres hother hmeasured => ?_⟩
    all_goals rw [hrow, windowWrite_of_dieAnswers hport hanswers hres]
    · exact congrArg Host.Outcome.next (if_pos (.inr hkept))
    · exact congrArg Host.Outcome.next (rstDie_resets hdie hother hmeasured)

end Sys2Proof.Machine
end

section
/-! ### The host interface (R412, R442, R444 to R454) -/

namespace Sys2Proof.Machine

section Memory

variable {s u : State} {p pa n : Nat} {b : List Byte}

/-- The lines of a host access that lies in one line are that line. -/
theorem linesOf_line (ln : Nat) : linesOf (128 * ln) 128 = [ln] := by
  have hfirst : lineOf (128 * ln) = ln := by rw [lineOf]; omega
  have hone : lineOf (128 * ln + 128 - 1) + 1 - lineOf (128 * ln) = 1 := by simp only [lineOf]; omega
  rw [linesOf, if_neg (by decide), hone, hfirst]
  rfl

/-- An access of the host to one line is a request at the line's directory (R309, R315). -/
theorem hostLines_line (s : State) (ln : Nat) (excl : Bool) :
    s.hostLines (128 * ln) 128 excl = (s.setExport 14 ln).dirServe (pkgDir ln) ln .host excl := by
  simp [State.hostLines, linesOf_line]

theorem hostRead_served (hready : s.ready = true) (hhere : s.absent pa = false) (hlines : s.hostLines pa n false = (true, u)) :
    s.hostRead p pa n = (true, (u.linesCleaned pa n).modHPort p fun h => { h with
      replies := h.replies ++ [if (u.linesCleaned pa n).badAt pa n then [] else (u.linesCleaned pa n).peekN pa n] }) := by
  simp only [State.hostRead, hready, hhere, hlines, Bool.not_true, Bool.false_eq_true, if_false]

theorem hostRead_waits (hready : s.ready = true) (hhere : s.absent pa = false) (hlines : s.hostLines pa n false = (false, u)) :
    s.hostRead p pa n = (false, u) := by
  simp only [State.hostRead, hready, hhere, hlines, Bool.not_true, Bool.false_eq_true, if_false]

theorem hostRead_notReady (hready : s.ready = false) :
    s.hostRead p pa n = (true, (s.modHPort p fun h => { h with replies := h.replies ++ [[]] }).notReady p) := by
  simp only [State.hostRead, hready, Bool.not_false, if_true]

theorem hostWrite_served (hready : s.ready = true) (hhere : s.absent pa = false) (hlines : s.hostLines pa b.length true = (true, u)) :
    s.hostWrite p pa b = (true, (((((linesOf pa b.length).foldl (fun s ln => (s.lineTaken ln).dirLeave (pkgDir ln) ln .host) u).clearPoison
      pa b.length).pokeN pa b).upsetHoods pa b.length)) := by
  simp only [State.hostWrite, hready, hhere, hlines, Bool.not_true, Bool.false_eq_true, if_false]

theorem hostWrite_waits (hready : s.ready = true) (hhere : s.absent pa = false) (hlines : s.hostLines pa b.length true = (false, u)) :
    s.hostWrite p pa b = (false, u) := by
  simp only [State.hostWrite, hready, hhere, hlines, Bool.not_true, Bool.false_eq_true, if_false]

theorem hostWrite_notReady (hready : s.ready = false) : s.hostWrite p pa b = (true, s.notReady p) := by
  simp only [State.hostWrite, hready, Bool.not_false, if_true]

/-- An access with none before it is performed, or waits at the directory (R315). -/
theorem hostCome_first {a : HostAcc} {ok : Bool} (hfirst : (s.hport p).waits = []) (haccess : s.hostAccess p a = (ok, u)) :
    s.hostCome p a = if ok then u else u.modHPort p fun h => { h with waits := h.waits ++ [a] } := by
  simp only [State.hostCome, hfirst, List.isEmpty_nil, Bool.not_true, Bool.false_eq_true, if_false, haccess]
  cases ok <;> rfl

/-- The first access that waits leaves the queue once it is performed (R315). -/
theorem hostRetry_performed {a : HostAcc} {rest : List HostAcc} (hwaits : (s.hport p).waits = a :: rest)
    (haccess : s.hostAccess p a = (true, u)) : s.hostRetry p = u.modHPort p fun h => { h with waits := h.waits.drop 1 } := by
  simp only [State.hostRetry, hwaits, haccess]

/-- A read of device memory with none before it at its port is performed, or waits at the directory (R315, R445). -/
theorem cxlMemRead_first {ok : Bool} (hport : s.ev.hport < 2) (hnew : s.ev.flag = false) (hmem : hdmOk s.ev.pa s.ev.size = true)
    (hfirst : (s.hport s.ev.hport).waits = []) (hread : s.hostRead s.ev.hport s.ev.pa s.ev.size = (ok, u)) :
    exec .cxlMemRead s = .next (if ok then u else u.modHPort s.ev.hport fun h => { h with
      waits := h.waits ++ [{ pa := s.ev.pa, size := s.ev.size, data := none }] }) :=
  congrArg Host.Outcome.next ((if_neg (Nat.not_le.2 hport)).trans ((if_neg (by simp [hnew])).trans
    ((if_pos hmem).trans (hostCome_first (a := { pa := s.ev.pa, size := s.ev.size, data := none }) hfirst hread))))

/-- A write of device memory with none before it at its port is performed, or waits at the directory (R315, R445). -/
theorem cxlMemWrite_first {ok : Bool} (hport : s.ev.hport < 2) (hnew : s.ev.flag = false)
    (hmem : hdmOk s.ev.pa s.ev.bytes.length = true) (hfirst : (s.hport s.ev.hport).waits = [])
    (hwrite : s.hostWrite s.ev.hport s.ev.pa s.ev.bytes = (ok, u)) :
    exec .cxlMemWrite s = .next (if ok then u else u.modHPort s.ev.hport fun h => { h with
      waits := h.waits ++ [{ pa := s.ev.pa, size := 0, data := some s.ev.bytes }] }) :=
  congrArg Host.Outcome.next ((if_neg (Nat.not_le.2 hport)).trans ((if_neg (by simp [hnew])).trans
    ((if_pos hmem).trans (hostCome_first (a := { pa := s.ev.pa, size := 0, data := some s.ev.bytes }) hfirst hwrite))))

end Memory

section Window

variable {s : State} {p off size : Nat} {write : Option DWord}

/-- No die beyond the package's 14 has a register (R446). -/
theorem regAt_beyond {d : Nat} (hd : 14 ≤ d) (r v : Nat) : s.regAt d r v = none := by
  have hne (k : Nat) (hk : k < 14) : d ≠ k := by omega
  have hcore : s.coreReg d r v = none := if_pos (.inl (by omega))
  have hdie : s.dieReg d r v = none := if_pos hd
  have hqueue : s.queueReg d r v = none := if_pos (.inr (.inl (by omega)))
  have hctx : s.ctxReg d r v = none := if_pos (.inl ⟨hne 8 (by decide), hne 9 (by decide)⟩)
  have hxlat : s.xlatReg d r v = none := if_pos ⟨hne 8 (by decide), hne 9 (by decide)⟩
  have hcn : s.cnReg d r v = none := if_pos ⟨hne 8 (by decide), hne 9 (by decide)⟩
  have hkl : s.klReg d r v = none := if_pos (hne 10 (by decide))
  have hport : s.portRegs d r v = none := if_pos (.inr (.inl hd))
  have hat : s.atReg d r v = none := if_pos (hne 10 (by decide))
  have hhost : s.hostReg d r v = none := (if_neg (by omega)).trans (if_pos (hne 10 (by decide)))
  simp only [State.regAt, hcore, hdie, hqueue, hctx, hxlat, hcn, hkl, hport, hat, hhost, List.findSome?_cons, List.findSome?_nil]

/-- An access that is not of 8 aligned bytes is turned away with cause 2 (R445). -/
theorem bar0_misaligned (h : size ≠ 8 ∨ off % 8 ≠ 0) : s.bar0 p off size write = s.reject p 2 off size write.isNone := if_pos h

/-- An access to a die that does not answer is turned away with cause 3 (R445). -/
theorem bar0_silent (halign : off % 8 = 0) (hd : off / 4294967296 < 14)
    (hsilent : s.dieAnswers (off / 4294967296) (off % 4294967296) = false) :
    s.bar0 p off 8 write = s.reject p 3 off 8 write.isNone :=
  (if_neg (by simp [halign])).trans (if_pos ⟨hd, by simp [hsilent]⟩)

section Answered

variable (halign : off % 8 = 0)
  (hanswers : off / 4294967296 < 14 → s.dieAnswers (off / 4294967296) (off % 4294967296) = true)

include halign hanswers

/-- An aligned access to a die that answers comes to the register at its offset (R445). -/
theorem bar0_answered : s.bar0 p off 8 write =
    (s.regAt (off / 4294967296) (off % 4294967296) ((write.map (·.toNat)).getD 0)).elim (s.reject p 4 off 8 write.isNone) fun a =>
      write.elim (s.hostReply p a.val) fun v => if v.toNat &&& a.res = 0 then a.put s else s.reject p 1 off 8 false := by
  have hgo : ¬ (off / 2 ^ 32 < 14 ∧ ¬ s.dieAnswers (off / 2 ^ 32) (off % 2 ^ 32) = true) := fun h => h.2 (hanswers h.1)
  refine ((if_neg (by simp [halign])).trans (if_neg hgo)).trans ?_
  simp only [Nat.reducePow]
  cases s.regAt (off / 4294967296) (off % 4294967296) ((write.map (·.toNat)).getD 0) with
  | none => rfl
  | some a =>
    cases write with
    | none => rfl
    | some v => exact ite_not _ _ _

theorem bar0_reads {a : RegAcc} (hreg : s.regAt (off / 4294967296) (off % 4294967296) 0 = some a) :
    s.bar0 p off 8 none = s.hostReply p a.val := by
  rw [bar0_answered halign hanswers, Option.map_none, Option.getD_none, hreg]
  rfl

theorem bar0_writes {a : RegAcc} {v : DWord} (hreg : s.regAt (off / 4294967296) (off % 4294967296) v.toNat = some a) :
    s.bar0 p off 8 (some v) = if v.toNat &&& a.res = 0 then a.put s else s.reject p 1 off 8 false := by
  rw [bar0_answered halign hanswers, Option.map_some, Option.getD_some, hreg]
  rfl

end Answered

/-- An aligned access beyond the package's dies is turned away with cause 4 (R445). -/
theorem bar0_beyond (halign : off % 8 = 0) (hd : 14 ≤ off / 4294967296) : s.bar0 p off 8 write = s.reject p 4 off 8 write.isNone := by
  rw [bar0_answered halign fun h => absurd h (Nat.not_lt.2 hd), regAt_beyond hd]
  rfl

/-- An access through the register window (R445). -/
theorem registerWrite_window (hport : s.ev.hport < 2) (hwindow : s.ev.flag = false) (hoff : s.ev.off < 68719476736) :
    exec .registerWrite s = .next (s.bar0 s.ev.hport s.ev.off s.ev.size s.ev.write) :=
  congrArg Host.Outcome.next ((if_neg (Nat.not_le.2 hport)).trans ((if_neg (by simp [hwindow])).trans (if_pos hoff)))

/-- A word of a record buffer (R448). -/
theorem bar2_word {v : DWord} (halign : off % 8 = 0) (hword : off % 4096 < 120) :
    s.bar2 p off 8 (some v) = s.modHPort p fun h => { h with
      bufs := h.bufs.put (off / 4096) (overlayAt (h.buf (off / 4096)) (off % 4096) (toBytes 8 v.toNat)) } :=
  (if_neg (by omega)).trans (if_neg (by omega))

/-- A rejection while HIERR holds one changes it no more (R447). -/
theorem reject_held {c n : Nat} {r : Bool} (hheld : (s.hport p).hierrV = true) :
    s.reject p c off n r = s.modHPort p fun h => if r then { h with replies := h.replies ++ [List.replicate n 255] } else h := by
  simp only [State.reject, State.modHPort, hheld, if_true]

/-- The first rejection of a write is held in HIERR (R447). -/
theorem reject_first {c n : Nat} (hfree : (s.hport p).hierrV = false) :
    s.reject p c off n false = s.modHPort p fun h => { h with hierrV := true, hierrCause := c, hierrOff := off } := by
  simp only [State.reject, State.modHPort, hfree, Bool.false_eq_true, if_false]

end Window

section Management

variable {s : State}

theorem mctpRequest_forwards {b : Byte} {rest : List Byte} (hbytes : s.ev.bytes = b :: rest) :
    exec .mctpRequest s = .next { s with mctp := s.mctp ++ [Config.spdmAnswer s.fresh s.ev.bytes], fresh := s.fresh + 1 } := by
  show execMctpRequest s = _
  simp only [execMctpRequest, hbytes]

/-- The management controller sets PWRCTL.LIMIT within its range (R452). -/
theorem mctpRequest_limits {v : DWord} (hbytes : s.ev.bytes = []) (hwrite : s.ev.write = some v) (hoff : s.ev.off = 42957013008)
    (hlo : 1500 ≤ v.toNat) (hhi : v.toNat ≤ 4200) : exec .mctpRequest s = .next { s with pwrLimit := v.toNat } := by
  have hgo : s.ev.off = 10 * 2 ^ 32 + 0x700010 ∧ v.toNat < 65536 := ⟨hoff, by omega⟩
  have hfield : bits v.toNat 15 0 = v.toNat := by
    rw [bits, Nat.shiftRight_zero]
    exact Nat.mod_eq_of_lt hgo.2
  have hrange : 1500 ≤ bits v.toNat 15 0 ∧ bits v.toNat 15 0 ≤ 4200 := by rw [hfield]; exact ⟨hlo, hhi⟩
  show execMctpRequest s = _
  simp only [execMctpRequest, hbytes, hwrite, if_pos hgo]
  refine congrArg Host.Outcome.next ((if_pos hrange).trans ?_)
  rw [hfield]

theorem mctpRequest_reads {a : RegAcc} (hbytes : s.ev.bytes = []) (hread : s.ev.write = none)
    (hreg : s.regAt (s.ev.off / 4294967296) (s.ev.off % 4294967296) 0 = some a) (hmay : mctpReads (s.ev.off % 4294967296) = true)
    (halign : s.ev.off % 8 = 0) : exec .mctpRequest s = .next { s with mctp := s.mctp ++ [toBytes 8 a.val] } := by
  show execMctpRequest s = _
  simp only [execMctpRequest, hbytes, hread, Nat.reducePow, hreg, hmay, halign, beq_self_eq_true, Bool.and_self, if_true]

end Management

/-- Settles O59: each access by the lemma that says what it does. -/
theorem hostRows : Obligations.HostRows := by
  refine ⟨?read, ?write, hostLines_line, ?retry, ?readEarly, ?writeEarly, ?register, ?barred, ?misaligned, ?word,
    fun s p c off n r => reject_held, fun s p c off n => reject_first, ?spdm, fun s b rest => mctpRequest_forwards,
    fun s v => mctpRequest_limits, fun s a => mctpRequest_reads⟩
  case read =>
    intro s u e hport hnew hmem hfirst hready hhere
    refine ⟨fun hlines => ?_, fun hlines => ?_⟩
    · exact cxlMemRead_first hport hnew hmem hfirst (hostRead_served hready hhere hlines)
    · exact cxlMemRead_first hport hnew hmem hfirst (hostRead_waits hready hhere hlines)
  case write =>
    intro s u e n hport hnew hmem hfirst hready hhere
    refine ⟨fun hlines => ?_, fun hlines => ?_⟩
    · exact cxlMemWrite_first hport hnew hmem hfirst (hostWrite_served hready hhere hlines)
    · exact cxlMemWrite_first hport hnew hmem hfirst (hostWrite_waits hready hhere hlines)
  case retry =>
    intro s u e a rest hport hagain hwaits haccess
    have hrow := hostRetry_performed hwaits haccess
    exact ⟨congrArg Host.Outcome.next ((if_neg (Nat.not_le.2 hport)).trans ((if_pos hagain).trans hrow)),
      congrArg Host.Outcome.next ((if_neg (Nat.not_le.2 hport)).trans ((if_pos hagain).trans hrow))⟩
  case readEarly =>
    intro s e hport hnew hmem hfirst hready t
    exact cxlMemRead_first hport hnew hmem hfirst (hostRead_notReady hready)
  case writeEarly =>
    intro s e hport hnew hmem hfirst hready
    exact cxlMemWrite_first hport hnew hmem hfirst (hostWrite_notReady hready)
  case register =>
    intro s a e hport hwindow hoff hsize halign hanswers
    have hrow : exec .registerWrite s = .next (s.bar0 e.hport e.off 8 e.write) := hsize ▸ registerWrite_window hport hwindow hoff
    refine ⟨fun hread hreg => ?_, fun v hwrite hreg => ?_⟩
    · rw [hrow, hread, bar0_reads halign hanswers hreg]
    · rw [hrow, hwrite, bar0_writes halign hanswers hreg]
  case barred =>
    intro s e d hport hwindow hoff hsize halign
    have hrow : exec .registerWrite s = .next (s.bar0 e.hport e.off 8 e.write) := hsize ▸ registerWrite_window hport hwindow hoff
    refine ⟨fun hd hsilent => ?_, fun hd => ?_⟩
    · rw [hrow, bar0_silent halign hd hsilent]
    · rw [hrow, bar0_beyond halign hd]
  case misaligned =>
    exact fun s hport hwindow hoff hbad => (registerWrite_window hport hwindow hoff).trans (congrArg Host.Outcome.next (bar0_misaligned hbad))
  case word =>
    intro s v e hport hpost hoff hwrite hsize halign hword
    refine congrArg Host.Outcome.next ((if_neg (Nat.not_le.2 hport)).trans ((if_pos hpost).trans ((if_pos hoff).trans ?_)))
    rw [hsize, hwrite]
    exact bar2_word halign hword
  case spdm => exact fun s hanchor => congrArg Host.Outcome.next (if_pos hanchor)

end Sys2Proof.Machine
end

section
/-! ### Team operations of the matrix engine (R357 to R359, R362, R364 to R371) -/

namespace Sys2Proof.Machine

open Sys2Proof.Say

/-- Where a free entry is left for each of `k` signatures, all of them are counted (R358, R375). -/
theorem sigsNow_of_free {size : Word} {k free : Nat} (count : Word) (h : k ≤ free) : sigsNow size k count free = k := by
  induction k generalizing count free with
  | zero => rfl
  | succ k ih =>
    rw [sigsNow]
    split
    · rw [if_neg (by omega), ih 0 (by omega)]
    · rw [ih (count + 1) (by omega)]

theorem matFree_eq (k : Core) : k.matFree = 32 - k.matq.length := rfl

section Runs

variable {h : Hdr} {len : Nat} {vs : List VOp} {f : Nat → Nat → Group → Team → List (Nat × Nat × Thread) → State → State}
  {s : State} {c slot : Nat} {g : Group} {tm : Team}

/-- On a group that is ready, what may wait at its issue is what it does with the live lanes. -/
theorem runHeld_ready (hr : s.Ready c slot g tm h vs) : runHeld h len vs f s = .next (f c slot g tm (s.liveLanes g h) s) := by
  obtain ⟨hcur, hregs, hclean⟩ := hr
  simp only [runHeld, hcur, preFault_none hregs, eatFirst_none hclean]

end Runs

section TeamOps

variable {i : Instr} {h : Hdr} {len : Nat} {vs : List VOp} {a : Option VReg} {e : Bool} {cv : Option (BitVec 4)}
  {bin : Team → Thread → Option Nat} {req : Team → Engine → Thread → MReq} {s : State} {c slot : Nat} {g : Group} {tm : Team}
  {x : Nat × Nat × Thread}

/-- Where every lane is recorded, an execution of a team operation only issues (R359). -/
theorem runTeamOp_recorded (hr : s.Ready c slot g tm h vs) (hnone : freshOf (s.liveLanes g h) = []) :
    runTeamOp h len vs a e cv bin req s = .next ((s.issueAll g len).settle c slot (latchOf h a vs)) := by
  rw [runTeamOp, runHeld_ready hr]
  simp only [hnone, List.getLast?_nil]

/-- The cause that the fresh lanes' checks find, on the values of the highest of them; none once all have passed (R358, R364). -/
def lanesCause (fresh : List (Nat × Nat × Thread)) (tm : Team) (e : Bool) (r : MReq) (cv : Option (BitVec 4)) : Option Nat :=
  if fresh.all (fun y => y.2.2.passed) then none else matCause tm e r (cv.any fun n => (tm.conv n.toNat).size == 0)

theorem lanesCause_fresh {fresh : List (Nat × Nat × Thread)} {r : MReq} (hnew : ∃ y ∈ fresh, y.2.2.passed = false) :
    lanesCause fresh tm e r cv = matCause tm e r (cv.any fun n => (tm.conv n.toNat).size == 0) := by
  obtain ⟨y, hy, hpassed⟩ := hnew
  exact if_neg fun hall => by simp [List.all_eq_true.1 hall y hy] at hpassed

theorem lanesCause_none {fresh : List (Nat × Nat × Thread)} {r : MReq}
    (h : matCause tm e r (cv.any fun n => (tm.conv n.toNat).size == 0) = none ∨ ∀ y ∈ fresh, y.2.2.passed = true) :
    lanesCause fresh tm e r cv = none := by
  rw [lanesCause]
  split
  · rfl
  · next hall => exact h.resolve_right fun h' => hall (List.all_eq_true.2 h')

/-- A team operation whose checks fail faults each fresh lane (R358, R364). -/
theorem runTeamOp_faults {k : Nat} (hr : s.Ready c slot g tm h vs) (hx : (freshOf (s.liveLanes g h)).getLast? = some x)
    (hk : lanesCause (freshOf (s.liveLanes g h)) tm e (req tm (tm.engine (b2n e)) x.2.2) cv = some k) :
    runTeamOp h len vs a e cv bin req s = .next (((s.issueAll g len).faultLanes g.team (freshOf (s.liveLanes g h)) kMatrixFault
      (BitVec.ofNat 64 k) len).settle c slot (latchOf h a vs)) := by
  rw [runTeamOp, runHeld_ready hr]
  cases cv
  all_goals
    simp only [lanesCause, Option.any_none, Option.any_some] at hk
    simp only [hx, hk]

/-- A team operation with CV = 0 that passes its checks enters its engine's queue, and its lanes are recorded (R357, R359). -/
theorem runTeamOp_enters (hr : s.Ready c slot g tm h vs) (hx : (freshOf (s.liveLanes g h)).getLast? = some x)
    (hok : lanesCause (freshOf (s.liveLanes g h)) tm e (req tm (tm.engine (b2n e)) x.2.2) none = none)
    (hroom : (s.core (tm.core + b2n e)).matq.length < 32) :
    runTeamOp h len vs a e none bin req s = .next (((freshOf (s.liveLanes g h)).foldl (fun u y => u.recordArr g.team y.2.1 y.2.2.pc 0)
      ((s.issueAll g len).matPost g.team (b2n e) x.2.1 (req tm (tm.engine (b2n e)) x.2.2).kind (bin tm x.2.2) none x.2.2.pc)).settle
        c slot (latchOf h a vs)) := by
  have hfree : ¬ (s.core (tm.engCore (b2n e))).matFree = 0 := by rw [Team.engCore, matFree_eq]; omega
  simp only [lanesCause, Option.any_none] at hok
  rw [runTeamOp, runHeld_ready hr]
  simp only [hx, hok, if_neg hfree]

/-- A team operation with CV = 1 that passes its checks, with an entry for each lane, is signed by each (R358, R375). -/
theorem runTeamOp_signs {n : BitVec 4} (hr : s.Ready c slot g tm h vs) (hx : (freshOf (s.liveLanes g h)).getLast? = some x)
    (hok : lanesCause (freshOf (s.liveLanes g h)) tm e (req tm (tm.engine (b2n e)) x.2.2) (some n) = none)
    (hroom : (s.core (tm.core + b2n e)).matq.length + (freshOf (s.liveLanes g h)).length ≤ 32) :
    let r := req tm (tm.engine (b2n e)) x.2.2
    runTeamOp h len vs a e (some n) bin req s = .next (((freshOf (s.liveLanes g h)).foldl (fun u y => u.sign g.team y.2.1 n.toNat
      (some { e := b2n e, fmt := r.fmt, kind := r.kind, bin := bin tm x.2.2 }) y.2.2.pc) (s.issueAll g len)).settle c slot
        (latchOf h a vs)) := by
  have hfree : (freshOf (s.liveLanes g h)).length ≤ (s.core (tm.engCore (b2n e))).matFree := by rw [Team.engCore, matFree_eq]; omega
  simp only [lanesCause, Option.any_some] at hok
  rw [runTeamOp, runHeld_ready hr]
  simp only [hx, hok, State.convRun, sigsNow_of_free _ hfree, if_true]

/-- An instruction that is run as a team operation is one (R357 to R359). -/
theorem teamOp_of (a : Option VReg) (hrun : ∀ s, exec i s = runTeamOp h len vs a e cv bin req s) : TeamOp i h len vs e cv bin req := by
  intro s c slot g tm hr fresh u
  rw [hrun]
  refine ⟨fun hnone => ?recorded, fun x hx => ⟨fun k hk hnew => ?faults, fun hok hcv hroom => ?enters, fun n hok hcv hroom => ?signs⟩⟩
  case recorded =>
    rw [runTeamOp_recorded hr hnone]
    exact Ends.settle _ _ _ _
  case faults =>
    rw [runTeamOp_faults hr hx ((lanesCause_fresh hnew).trans hk)]
    exact Ends.settle _ _ _ _
  case enters =>
    subst hcv
    rw [runTeamOp_enters hr hx (lanesCause_none hok) hroom]
    exact Ends.settle _ _ _ _
  case signs =>
    subst hcv
    rw [runTeamOp_signs hr hx (lanesCause_none hok) hroom]
    exact Ends.settle _ _ _ _

end TeamOps

/-- Side data of a dense image that is read (R354). -/
theorem sideBytes_of_scaleUsed {fmt : MFmt} {ns : Bool} (hsc : scaleUsed fmt ns = true) :
    sideBytes fmt ns = if fmt = .e2m1 then 8192 else 4096 := if_pos hsc

theorem scaleBytes_eq (p : Plane) (fmt : MFmt) : p.scaleBytes fmt = if p.sparse = true ∨ fmt = .e2m1 then 32 else 16 := by
  simp [Plane.scaleBytes]

/-- Settles O48: each instruction is a team operation whose request is the one stated. -/
theorem matrixOperations : Obligations.MatrixOperations := by
  unfold Obligations.MatrixOperations
  intro reg rows
  simp only [← lenB_eq]
  refine ⟨?mldw, ?mldws, ?mswap, ?mma, ?mgmm, ?mclr, ?macld, ?macst, ?mrow⟩
  case mldw =>
    intro h fmt ns e d a b cv
    refine teamOp_of (some a) fun s => ?_
    show execMldw h fmt ns e d a b cv s = _
    unfold execMldw
    cases hsc : scaleUsed fmt ns
    · rfl
    · simp only [if_true, sideBytes_of_scaleUsed hsc]
      rfl
  case mldws => exact fun h e5m2 e d a b cv => teamOp_of (some a) fun s => rfl
  case mswap => exact fun h e f => teamOp_of none fun s => rfl
  case mma =>
    intro h fmt ns z e d a b c cv
    refine teamOp_of (some a) fun s => ?_
    show execMma h fmt ns z e d a b c cv s = _
    unfold execMma
    simp only [scaleBytes_eq]
    cases scaleUsed fmt ns <;> rfl
  case mgmm =>
    intro h fmt ns bin e d a b c cv
    refine teamOp_of (some a) fun s => ?_
    show execMgmm h fmt ns bin e d a b c cv s = _
    unfold execMgmm
    cases scaleUsed fmt ns <;> rfl
  case mclr => exact fun h e d f => teamOp_of none fun s => rfl
  case macld => exact fun h acc e d a b cv => teamOp_of (some a) fun s => rfl
  case macst =>
    intro h o sx e sat clr d a b c cv rm
    refine teamOp_of (some a) fun s => ?_
    show execMacst h o sx e sat clr d a b c cv rm s = _
    unfold execMacst
    cases sx <;> rfl
  case mrow => exact fun h op acc e d a f => teamOp_of (some a) fun s => rfl

end Sys2Proof.Machine
end

section
/-! ### Waits, queries and signatures of the matrix engine, and its queue (R359, R360, R364, R372 to R379) -/

namespace Sys2Proof.Machine

open Sys2Proof.Say

/-! #### Accumulator rows (R352) -/

/-- A read after consecutive writes: the word written there, elsewhere what was there. -/
theorem spGet_spPutN {w : Nat} (l : List (BitVec w)) {t : List (Nat × BitVec w)} {k : Nat} (j : Nat) (ht : spWf t = true) :
    spGet (spPutN t k l) j = if k ≤ j ∧ j < k + l.length then l.getD (j - k) 0 else spGet t j := by
  induction l generalizing t k with
  | nil => exact (if_neg (by simp)).symm
  | cons x r ih =>
    rw [spPutN, ih (spPut_wf t k x ht), spGet_spPut t k x j ht, List.length_cons]
    obtain hj | rfl | hj := Nat.lt_trichotomy j k
    · rw [if_neg (by omega), if_neg (by omega), if_neg (by omega)]
    · rw [if_neg (by omega), if_pos rfl, if_pos (by omega), Nat.sub_self, List.getD_cons_zero]
    · obtain ⟨i, rfl⟩ : ∃ i, j = k + (i + 1) := ⟨j - k - 1, by omega⟩
      have hne : ¬ k = k + (i + 1) := by omega
      have hi : k + (i + 1) - (k + 1) = i := by omega
      have hi' : k + (i + 1) - k = i + 1 := by omega
      rw [if_neg hne, hi, hi', List.getD_cons_succ]
      exact if_congr (by omega) rfl rfl

/-- A row replaced reads as it was put, the other rows as they were, and the store keeps its form. -/
theorem setRow_rows {k : Engine} {r : Nat} {l : List Word} (hwf : spWf k.acc = true) (hlen : l.length = 256) :
    (k.setRow r l).row r = l ∧ (∀ q, q ≠ r → (k.setRow r l).row q = k.row q) ∧ spWf (k.setRow r l).acc = true := by
  have hget (q i : Nat) (hi : i < 256) :
      spGet (spPutN k.acc (256 * r) l) (256 * q + i) = if q = r then l.getD i 0 else spGet k.acc (256 * q + i) := by
    rw [spGet_spPutN l _ hwf, hlen]
    by_cases hq : q = r
    · subst hq
      rw [if_pos (by omega), if_pos rfl, Nat.add_sub_cancel_left]
    · rw [if_neg (by omega), if_neg hq]
  refine ⟨?same, fun q hq => ?other, spPutN_wf l k.acc _ hwf⟩
  case same =>
    refine List.ext_getElem (by simp [Engine.row, spGetN, upTo, hlen]) fun i hi hi' => ?_
    rw [hlen] at hi'
    simp only [Engine.row, spGetN, upTo, List.getElem_map, List.getElem_range, Engine.setRow]
    rw [hget r i hi', if_pos rfl, List.getD_eq_getElem?_getD, List.getElem?_eq_getElem (by omega), Option.getD_some]
  case other =>
    simp only [Engine.row, spGetN, Engine.setRow]
    exact List.map_congr_left fun i hi => (hget q i (List.mem_range.1 hi)).trans (if_neg hq)

/-! #### Lanes (R364, R372, R377, R378) -/

section Lanes

variable (s : State) (team tid : Nat) (tm : Team) (t : Thread) (h : Hdr)

/-- E = 1 in a team that is not a pair team faults with cause 2 (R364). -/
theorem ifEngine_eq (len : Nat) (e : Bool) (k : State) :
    s.ifEngine team tid tm t len e k = if e = true ∧ tm.lr.pair = false then faults s team tid 17 2 t len else k := by
  simp only [State.ifEngine, Bool.and_eq_true, Bool.not_eq_true']
  rfl

/-- A wait of a thread opens its window, and with LA = 0 the thread parks with its WAIT (R47, R186). -/
theorem openWait_parks {x : Wait} {n : BitVec 4} (hcode : x.code = n) :
    s.takeId.2.openWait team tid (mkWin h s.takeId.1 .sync t.pc [] false) x =
      let u := opens s team tid (window s h t .sync false [] (some x))
      if h.la = 0 then parks u team tid n else u := by
  subst hcode
  simp only [State.openWait, mkWin, la_toNat_eq_zero]
  rfl

/-- A wait for CMP and a wait for a generation have WAIT = 4 (R47). -/
theorem openWait_matrix (e ent : Nat) :
    s.takeId.2.openWait team tid (mkWin h s.takeId.1 .sync t.pc [] false) (.matrix e ent) =
      let u := opens s team tid (window s h t .sync false [] (some (.matrix e ent)))
      if h.la = 0 then parks u team tid 4 else u :=
  openWait_parks s team tid t h rfl

theorem openWait_conv (n : Nat) (gen : Word) :
    s.takeId.2.openWait team tid (mkWin h s.takeId.1 .sync t.pc [] false) (.conv n gen) =
      let u := opens s team tid (window s h t .sync false [] (some (.conv n gen)))
      if h.la = 0 then parks u team tid 4 else u :=
  openWait_parks s team tid t h rfl

theorem macrdCause_eq (e : Bool) (row col : Nat) : macrdCause tm e row col =
    if e = true ∧ tm.lr.pair = false then some 2
    else if tm.lr.accrows ≤ row ∨ col % 4 ≠ 0 ∨ 252 < col then some 3
    else none := by
  simp only [macrdCause, Bool.and_eq_true, Bool.not_eq_true']

end Lanes

/-! #### Signatures and the queue (R360, R375) -/

section Queue

variable {s : State} {team n : Nat} {tm : Team}

/-- A signature that does not complete its generation adds one to COUNT (R375). -/
theorem sign_counts (tid : Nat) (op : Option SigOp) (pc : Pc) (hteam : s.team? team = some tm)
    (hmore : (tm.conv n).count + 1 ≠ (tm.conv n).size) :
    s.sign team tid n op pc = ((s.matFence team tid).recordArr team tid pc ((tm.conv n).gen.setWidth 64)).modTeam team fun t =>
      { t with c := modAt t.c n fun c => { c with count := c.count + 1 } } := by
  simp only [State.sign, hteam, if_neg hmore]

/-- The last signature of a generation clears COUNT, advances GEN and brings the operation (R375). -/
theorem sign_completes (tid : Nat) (op : Option SigOp) (pc : Pc) (hteam : s.team? team = some tm)
    (hlast : (tm.conv n).count + 1 = (tm.conv n).size) :
    s.sign team tid n op pc = ((((s.matFence team tid).recordArr team tid pc ((tm.conv n).gen.setWidth 64)).modTeam team fun t =>
      { t with c := modAt t.c n fun c => { c with count := 0, gen := c.gen + 1 } }).sigComplete team tid n (tm.conv n).gen op pc).advanceDone
        team n := by
  simp only [State.sign, hteam, if_pos hlast]

/-- What R360 asks of the operations before one that starts. -/
theorem mayStart_of {earlier : List MOp} {o : MOp} {now : Nat} (hage : o.entered + 8 ≤ now) (hstarted : ∀ x ∈ earlier, x.started = true)
    (hswap : o.kind = .mswap → earlier = []) (hload : o.kind.loads = true → ∀ x ∈ earlier, x.kind ≠ .mswap ∧ x.kind.loads = false)
    (hread : o.kind.readsPlane = true → ∀ x ∈ earlier, x.kind ≠ .mswap ∧ x.kind.readsPlane = false) :
    mayStart earlier o now = true := by
  have hstays {k : MKind} : k.swaps = false ↔ k ≠ .mswap := beq_eq_false_iff_ne
  simp only [mayStart, Bool.and_eq_true, Bool.or_eq_true, Bool.not_eq_true', decide_eq_true_eq, List.all_eq_true, List.isEmpty_iff, hstays]
  exact ⟨⟨⟨⟨hage, hstarted⟩, (eq_or_ne o.kind .mswap).symm.imp_right hswap⟩, (Bool.eq_false_or_eq_true _).symm.imp_right hload⟩,
    (Bool.eq_false_or_eq_true _).symm.imp_right hread⟩

theorem matrixOperationStart_starts {o : MOp} (hfind : (s.core s.ev.core).matq.find? (fun o => o.id == s.ev.req) = some o)
    (hnew : o.started = false) (hmay : mayStart (earlierOps (s.core s.ev.core).matq o.id) o s.clk = true) :
    exec .matrixOperationStart s = .next (s.matStart s.ev.core o.id) := by
  show execMatrixOperationStart s = _
  simp only [execMatrixOperationStart, hfind, hnew, hmay, Bool.not_false, Bool.and_self, if_true]

/-- The operation at the head completes with its effect, CMP, DONE and the threads that wait (R360, R375, R378). -/
theorem matComplete_done {o : MOp} {c : Nat}
    (hteam : (s.modCore c fun k => { k with matq := k.matq.filter fun x => x.id != o.id }).team? o.team = some tm)
    (hclean : o.poison tm = none) (hfresh : o.spoiled = []) (hcovered : o.stale = []) :
    let u := s.modCore c fun k => { k with matq := k.matq.filter fun x => x.id != o.id }
    let v := (u.matDo o tm).modTeam o.team fun t => t.modEngine o.e fun k => { k with cmp := (k.cmp + 1) % 2 ^ 32 }
    s.matComplete c o = (match o.conv with
      | some (n, _) => v.advanceDone o.team n
      | none => v).matWake o.team := by
  simp only [State.matComplete, hteam, hclean, hfresh, State.matRun, hcovered, List.isEmpty_nil, if_true] <;> rfl

end Queue

/-! #### The instructions -/

/-- MACRD: the lanes that meet no cause of R364 share one entry, and then the others fault (R364, R372). -/
theorem macrd_ends {h : Hdr} {e : Bool} {d a : VReg} {b : SrcB} {s : State} {c slot : Nat} {g : Group} {tm : Team}
    {cause : Nat × Nat × Thread → Option Nat} (hcause : ∀ x, cause x = macrdCause tm e (x.2.2.num a) (bVal tm x.2.2 b).toNat)
    (hr : s.Ready c slot g tm h (vW d 4 :: vR a :: srcOps b))
    (hroom : (s.liveLanes g h).filter (fun x => (cause x).isNone) = [] ∨ (s.core (tm.core + b2n e)).matq.length < 32) :
    let live := s.liveLanes g h
    let good := live.filter fun x => (cause x).isNone
    let bad := live.filter fun x => (cause x).isSome
    let p := good.foldl (fun r x =>
      let q := r.2.macrdOpen g.team x.2.1 h x.2.2.pc (b2n e) d.toNat
      (r.1 ++ [(x.2.1, q.1, (x.2.2.reg a.toNat).toNat, (bVal tm x.2.2 b).toNat, d.toNat)], q.2)) ([], s.issueAll g (lenB b))
    let u := match good with
      | x :: _ => p.2.matPost g.team (b2n e) x.2.1 (.macrd p.1) none none x.2.2.pc
      | [] => p.2
    Ends (execMacrd h e d a b s)
      (bad.foldl (fun s x => faults s g.team x.2.1 17 (BitVec.ofNat 64 ((cause x).getD 0)) x.2.2 (lenB b)) u) := by
  obtain rfl : cause = fun x => macrdCause tm e (x.2.2.num a) (bVal tm x.2.2 b).toNat := funext hcause
  intro live good bad p u
  have hgo : ¬ (!good.isEmpty && (s.core (tm.engCore (b2n e))).matFree == 0) = true := by
    simp only [Bool.and_eq_true, Bool.not_eq_true', beq_iff_eq, Team.engCore, matFree_eq]
    rintro ⟨hgood, hfull⟩
    have hnone : good.isEmpty = true := List.isEmpty_iff.2 (hroom.resolve_right (by omega))
    simp [hnone] at hgood
  rw [execMacrd, runHeld_ready hr]
  dsimp only
  rw [if_neg hgo]
  exact Ends.settle _ _ _ _

/-- MFENCE (R377). -/
theorem mfence_onLanes (h : Hdr) : OnLanes (.mfence h) h 2 false [] fun _ team _ tid t s =>
    if t.wins.any fun w => !w.kind.isMacrd then opens s team tid (window s h t .fence false [] none)
    else s.modTeam team fun t => { t with unfenced := t.unfenced.filter fun u => !u.seen.contains tid } :=
  onLanes_of none none (fun s => (show exec _ s = execMfence h s from rfl).trans (execMfence.eq_1 ..)) (fun _ => rfl)
    fun _ _ _ _ _ _ => rfl

/-- Settles O49: each instruction by its effect on a lane or on its live lanes, each row by the lemma that says what it does. -/
theorem matrixWaitsAndQueue : Obligations.MatrixWaitsAndQueue := by
  unfold Obligations.MatrixWaitsAndQueue
  refine ⟨?instructions, fun s team tid n op pc tm => sign_counts tid op pc, fun s team tid n op pc tm => sign_completes tid op pc,
    ?start, ?complete, fun k r l => setRow_rows⟩
  case instructions =>
    intro pair
    have hpair (e : Bool) (len : Nat) (f : Nat → Nat → Team → Nat → Thread → State → State) (c team : Nat) (tm : Team) (tid : Nat)
        (t : Thread) (s : State) : pair e len f c team tm tid t s = s.ifEngine team tid tm t len e (f c team tm tid t s) :=
      (ifEngine_eq ..).symm
    clear_value pair
    refine ⟨?macrd, mfence_onLanes, ?mwait, ?mwaitCv, ?mqry, ?cvset, ?sign⟩
    case macrd =>
      intro h e d a b
      rw [← lenB_eq]
      intro s c slot g tm hr cause live good bad hroom
      exact macrd_ends (cause := cause) (fun x => (macrdCause_eq ..).symm) hr hroom
    case mwait =>
      intro h e
      refine onLanes_of none none (fun s => (show exec _ s = execMwait h e s from rfl).trans (execMwait.eq_1 ..)) (fun _ => rfl)
        fun c team tm tid t s => ?_
      rw [hpair]
      simp only [openWait_matrix, cmpReached, decide_eq_true_eq]
      rfl
    case mwaitCv =>
      intro h e n b
      rw [← lenB_eq]
      refine onLanes_of none none (fun s => (show exec _ s = execMwaitCv h e n b s from rfl).trans (execMwaitCv.eq_1 ..)) (fun _ => rfl)
        fun c team tm tid t s => ?_
      rw [hpair]
      simp only [openWait_conv]
    case mqry =>
      intro h clr e d
      refine onLive_of none none (fun s => (show exec _ s = execMqry h clr e d s from rfl).trans (execMqry.eq_1 ..)) (fun _ => rfl)
        fun c g tm live s => ?_
      simp only [Bool.and_eq_true, Bool.not_eq_true', List.isEmpty_eq_false_iff]
      rfl
    case cvset =>
      intro h d b
      rw [← lenB_eq]
      exact onLive_of none none (fun s => (show exec _ s = execCvset h d b s from rfl).trans (execCvset.eq_1 ..)) (fun _ => rfl)
        fun c g tm live s => rfl
    case sign =>
      intro h d a
      refine onLive_of none none (fun s => (show exec _ s = execSign h d a s from rfl).trans (execSign.eq_1 ..)) (fun _ => rfl)
        fun c g tm live s => ?_
      simp only [Bool.and_eq_true, Bool.not_eq_true', List.isEmpty_eq_false_iff, beq_iff_eq]
      rfl
  case start =>
    intro s o hfind hnew hage earlier hstarted hswap hload hread
    exact matrixOperationStart_starts hfind hnew (mayStart_of hage hstarted hswap hload hread)
  case complete =>
    intro s o rest tm hqueue hid hstarted hfresh hcovered u hteam hclean v
    show execMatrixOperationComplete s = _
    simp only [execMatrixOperationComplete, hqueue]
    exact congrArg Host.Outcome.next ((if_pos ⟨hid, hstarted⟩).trans (matComplete_done hteam hclean hfresh hcovered))

end Sys2Proof.Machine
end

section
/-! ### Fields, codes and operands are read back (R66, R69 to R74, R84, R85, R202, R363) -/

namespace Sys2Proof

/-! #### Fields of MOD and XMOD

`no_index` lets `simp` use the laws of an append whose width is written as a number. -/

@[simp] theorem field_append_hi {n m : Nat} (x : BitVec n) (y : BitVec m) (s w : Nat) (h : m ≤ s) :
    BitVec.extractLsb' s w (no_index (x ++ y)) = x.extractLsb' (s - m) w := ext_append_hi x y s w h
@[simp] theorem field_append_lo {n m : Nat} (x : BitVec n) (y : BitVec m) (s w : Nat) (h : s + w ≤ m) :
    BitVec.extractLsb' s w (no_index (x ++ y)) = y.extractLsb' s w := ext_append_lo x y s w h
@[simp] theorem bitOf_append_hi {n m : Nat} (x : BitVec n) (y : BitVec m) (s : Nat) (h : m ≤ s) :
    BitVec.getLsbD (no_index (x ++ y)) s = x.getLsbD (s - m) := bit_append_hi x y s h
@[simp] theorem bitOf_append_lo {n m : Nat} (x : BitVec n) (y : BitVec m) (s : Nat) (h : s < m) :
    BitVec.getLsbD (no_index (x ++ y)) s = y.getLsbD s := bit_append_lo x y s h
@[simp] theorem field_whole {n : Nat} (x : BitVec n) : x.extractLsb' 0 n = x := ext_self x
@[simp] theorem getLsbD_bit1 (b : Bool) : (bit1 b).getLsbD 0 = b := bit1_get b
@[simp] theorem bit1_false : bit1 false = 0#1 := rfl
@[simp] theorem bit1_true : bit1 true = 1#1 := rfl

/-! #### Codes are read back -/

@[simp] theorem scopeOf_code (x : Scope) : scopeOf x.code = some x := by cases x <;> rfl
@[simp] theorem orderOf_code (x : Order) : orderOf x.code = x := by cases x <;> rfl
@[simp] theorem fenceOrderOf_code (x : FenceOrder) : fenceOrderOf x.code = some x := by cases x <;> rfl
@[simp] theorem roundOf_code (x : RoundCode) : roundOf x.code = some x := by cases x <;> rfl
@[simp] theorem intTyOf_code (x : IntTy) : intTyOf x.code = x := by cases x <;> rfl
@[simp] theorem icondOf_code (x : ICond) : icondOf x.code = some x := by cases x <;> rfl
@[simp] theorem fcondOf_code (x : FCond) : fcondOf x.code = x := by cases x <;> rfl
@[simp] theorem fnameOf_code (x : FName) : fnameOf x.code = x := by cases x <;> rfl
@[simp] theorem cvtSrcOf_code (x : CvtSrc) : cvtSrcOf x.code = x := by cases x <;> rfl
@[simp] theorem qfmtOf_code (x : QFmt) : qfmtOf x.code = some x := by cases x <;> rfl
@[simp] theorem cvtpOf_code (x : CvtpOp) : cvtpOf x.code = some x := by cases x <;> rfl
@[simp] theorem crcWOf_code (x : CrcW) : crcWOf x.code = some x := by cases x <;> rfl
@[simp] theorem movWOf_code (x : MovW) : movWOf x.code = some x := by cases x <;> rfl
@[simp] theorem movlTyOf_code (x : MovlTy) : movlTyOf x.code = some x := by cases x <;> rfl
@[simp] theorem sregOf_code (x : SReg) : sregOf x.code = some x := by cases x <;> rfl
@[simp] theorem accOf_code (x : AccCode) : accOf x.code = x := by cases x <;> rfl
@[simp] theorem spOf_code (x : SpCode) : spOf x.code = some x := by cases x <;> rfl
@[simp] theorem pfHintOf_code (x : PfHint) : pfHintOf x.code = some x := by cases x <;> rfl
@[simp] theorem cctlOf_code (x : CctlOp) : cctlOf x.code = some x := by cases x <;> rfl
@[simp] theorem atomOf_code (x : AtomOp) : atomOf x.code = x := by cases x <;> rfl
@[simp] theorem redOf_code (x : RedOp) : redOf x.code = x := by cases x <;> rfl
@[simp] theorem wcondOf_code (x : WCond) : wcondOf x.code = x := by cases x <;> rfl
@[simp] theorem partOf_code (x : PartOp) : partOf x.code = x := by cases x <;> rfl
@[simp] theorem voteOf_code (x : VoteOp) : voteOf x.code = x := by cases x <;> rfl
@[simp] theorem pickOf_code (x : PickMode) : pickOf x.code = x := by cases x <;> rfl
@[simp] theorem redKindOf_code (x : RedKind) : redKindOf x.code = some x := by cases x <;> rfl
@[simp] theorem redTyOf_code (x : RedTy) : redTyOf x.code = some x := by cases x <;> rfl
@[simp] theorem barLevelOf_code (x : BarLevel) : barLevelOf x.code = x := by cases x <;> rfl
@[simp] theorem mfmtOf_code (x : MFmt) : mfmtOf x.code = some x := by cases x <;> rfl
@[simp] theorem ofmtOf_code (x : OFmt) : ofmtOf x.code = some x := by cases x <;> rfl
@[simp] theorem rowOpOf_code (x : RowOp) : rowOpOf x.code = some x := by cases x <;> rfl
@[simp] theorem stRmOf_code (x : StRm) : stRmOf x.code = some x := by cases x <;> rfl

/-! #### Operands are read back -/

/-- A number of few bits fits a register field and is read back from it. -/
theorem narrow {n N : Nat} (k : BitVec n) (hn : n ≤ 11) (hN : N = 2 ^ n) :
    (k.setWidth 11).toNat < N ∧ (k.setWidth 11).setWidth n = k :=
  ⟨by rw [hN, BitVec.toNat_setWidth_of_le hn]; exact k.isLt, by rw [BitVec.setWidth_setWidth_of_le _ hn, BitVec.setWidth_eq]⟩

@[simp] theorem algn_one (r : VReg) : algn 1 r = true := by simp [algn, Nat.mod_one]

variable {opc : BitVec 10} {h : Hdr} {d a b : BitVec 11} {md : BitVec 8}

theorem srcBOf_mk {w64 : Bool} {b : SrcB} (hb : b.ok w64 = true) :
    srcBOf w64 { opc := opc, h := h, d := d, a := a, b := b.enc.1, md := md, t := b.enc.2 } = some b := srcBOf_enc hb rfl rfl

@[simp] theorem oneExtOf_mk (e : Bool) :
    oneExtOf { opc := opc, h := h, d := d, a := a, b := 0#11, md := md, t := oneExtEnc e } = some e := by cases e <;> rfl

/-- A memory operand is read back, with operand C 0 but for CAS (R84, R85). -/
theorem memOf_mk {m : MemForms} {cas : Bool} {mo : MemOp} {c : BitVec 11} (hm : mo.ok m = true) (hc : cas = false → c = 0) :
    memOf m cas { opc := opc, h := h, d := d, a := a, b := (mo.enc c).1, md := md, t := (mo.enc c).2 } = some mo := by
  cases mo with
  | base | off _ => simpa [memOf, MemOp.enc, chk, MemOp.ok] using hm
  | index b s =>
    simp only [MemOp.ok, Bool.and_eq_true, decide_eq_true_eq] at hm
    obtain ⟨⟨hi, hb⟩, hs⟩ := hm
    simpa [memOf, MemOp.enc, chk, hi, hs, extBOf_enc hb] using hc
  | post _ | modulo _ _ =>
    simp only [MemOp.ok] at hm
    simpa [memOf, MemOp.enc, chk, hm] using hc

/-- A memory instruction is read back, with its order and scope (R273). -/
theorem memIns_enc {m : MemForms} {cas : Bool} {ok : Order → Bool} {o : MemIns} {op : BitVec 3} {c : BitVec 11}
    (k : MemIns → Option Instr) (hm : o.mem.ok m = true) (hc : cas = false → c = 0) (ho : ok o.ord = true) :
    memIns m cas ok (o.enc opc op c) k = k o := by
  simp [memIns, MemIns.enc, memMd, memOf_mk hm hc, chk, ho]

@[simp] theorem MemIns.enc_opc (m : MemIns) (opc : BitVec 10) (op : BitVec 3) (c : BitVec 11) : (m.enc opc op c).opc = opc := rfl
@[simp] theorem MemIns.enc_h (m : MemIns) (opc : BitVec 10) (op : BitVec 3) (c : BitVec 11) : (m.enc opc op c).h = m.h := rfl
@[simp] theorem MemIns.enc_md (m : MemIns) (opc : BitVec 10) (op : BitVec 3) (c : BitVec 11) :
    (m.enc opc op c).md = memMd op m.ord m.scope := rfl

/-- The operand of CAS takes an extension word, which holds its operand C (R272). -/
theorem casForms_enc {mo : MemOp} (hm : mo.ok casForms = true) (c : BitVec 11) : ∃ xm cls, (mo.enc c).2 = .ext xm cls c := by
  cases mo with
  | base | off _ | modulo _ _ => cases hm
  | index b s | post _ => exact ⟨_, _, rfl⟩

@[simp] theorem Order.rmw_eq (o : Order) : o.rmw = true := by cases o <;> rfl

/-- TRED's MOD holds nothing below its type (R239). -/
theorem tredMd_low (op : RedKind) (ty : RedTy) : (op.code ++ ty.code ++ 0#1 ++ 0#2).extractLsb' 0 3 = 0#3 := by
  cases op <;> cases ty <;> rfl

/-- The bits of XMOD below a convergence field are those of RM (R363). -/
theorem cvEnc_low (cv : Option (BitVec 4)) : (cvEnc cv 0#3).extractLsb' 0 14 = 0#14 := by
  cases cv with
  | none => rfl
  | some n => revert n; decide

theorem cvEnc_mid (cv : Option (BitVec 4)) (rm : BitVec 3) : (cvEnc cv rm).extractLsb' 3 11 = 0#11 := by
  cases cv <;> simp [cvEnc]

theorem cvEnc_rm (cv : Option (BitVec 4)) (rm : BitVec 3) : (cvEnc cv rm).extractLsb' 0 3 = rm := by
  cases cv <;> simp [cvEnc]

theorem cvOf_enc (cv : Option (BitVec 4)) (rm : BitVec 3) : cvOf (cvEnc cv rm) = some cv := by
  cases cv <;> simp [cvOf, cvEnc, chk, -BitVec.getLsbD_eq_getElem]

theorem cvFormOf_mk (x : CvForm) :
    cvFormOf { opc := opc, h := h, d := d, a := a, b := 0#11, md := md, t := x.enc } = some x := by
  cases x <;> simp [cvFormOf, CvForm.enc, chk, cvOf_enc, cvEnc_low]

theorem cvSrcOf_mk {b : SrcB} {cv : Option (BitVec 4)} (hb : b.ok false = true) (hcv : cvSrcOk b cv = true) :
    cvSrcOf { opc := opc, h := h, d := d, a := a, b := (cvSrcEnc b cv).1, md := md, t := (cvSrcEnc b cv).2 } = some (b, cv) := by
  cases b with
  | reg r | lit w =>
    obtain rfl : cv = none := by simpa [cvSrcOk] using hcv
    rfl
  | xreg r =>
    have hx : extBOf false r 0#2 = some (.v r) := extBOf_enc (b := .v r) hb
    simp [cvSrcOf, cvSrcEnc, chk, cvOf_enc, cvEnc_low, hx]
  | xk i =>
    have hx : extBOf false (i.setWidth 11) 1#2 = some (.k i) := extBOf_enc (b := .k i) hb
    simp [cvSrcOf, cvSrcEnc, chk, cvOf_enc, cvEnc_low, hx]

end Sys2Proof
end

section
/-! ### Every well-formed S-form or L-form instruction is read back from its fields (R65 to R76, R91, R93) -/

namespace Sys2Proof

/-- The sequencer, launch, integer, logic and move instructions. -/
theorem decFields_encFields_low {i : Instr} {f : Fields} (hw : i.wf = true) (hf : encFields i = some f)
    (hb : decide (f.opc.toNat < 0x180) = true) : decFields f = some i := by
  cases i with
  | nop h | ret h | reform h | exit h | yield h | rgn h | tret h | tretSkip h | tretRgn h =>
    cases hf
    change guardOk _ = true at hw
    simp [-BitVec.getLsbD_eq_getElem, decFields, chk, hw, decSeq, s000, sEnc]
  | bra h w | call h w =>
    cases hf
    change (_ && _) = true at hw
    simp only [Bool.and_eq_true] at hw
    simp [-BitVec.getLsbD_eq_getElem, decFields, chk, hw, decSeq]
  | brx h a | callx h a =>
    cases hf
    change (_ && _) = true at hw
    simp only [Bool.and_eq_true] at hw
    simp [-BitVec.getLsbD_eq_getElem, decFields, chk, hw, decSeq, sB0, sEnc]
  | sleep h b | trap h b | trapRgn h b | bkpt h b =>
    cases hf
    change (_ && _) = true at hw
    simp only [Bool.and_eq_true] at hw
    simp [-BitVec.getLsbD_eq_getElem, decFields, chk, hw, decSeq, bEnc, srcBOf_mk]
  | tretRd h d | gets h d s =>
    cases hf
    change (_ && _) = true at hw
    simp only [Bool.and_eq_true] at hw
    simp [-BitVec.getLsbD_eq_getElem, decFields, chk, hw, decSeq, sB0, sEnc]
  | sets h s b =>
    cases hf
    change (_ && _) = true at hw
    simp only [Bool.and_eq_true] at hw
    simp [-BitVec.getLsbD_eq_getElem, decFields, chk, hw, decSeq, bEnc, srcBOf_mk]
  | movk h k b =>
    change (_ && _) = true at hw
    simp only [Bool.and_eq_true] at hw
    cases k <;>
    · cases hf
      simp [-BitVec.toNat_setWidth, decFields, chk, hw, decSeq, bEnc, srcBOf_mk, narrow (n := 6) (N := 64), narrow (n := 4) (N := 16)]
  | iadd o ty sat | isub o ty sat | imul o ty sat | imulh o ty | imin o ty | imax o ty | icmp o cc ty | iaddc o sub p ty =>
    cases hf
    change (_ && _) = true at hw
    simp only [Bool.and_eq_true, decide_eq_true_eq, Two.ok] at hw
    simp [-BitVec.getLsbD_eq_getElem, decFields, chk, hw, decInt, twoOf, Two.enc, srcBOf_mk, intMd, intOpt]
  | iadd3 o ty sat | imad o ty sat | imadw o ty sat | isad o ty =>
    cases hf
    change (_ && _) = true at hw
    simp only [Bool.and_eq_true, Three.ok] at hw
    simp [-BitVec.getLsbD_eq_getElem, decFields, chk, hw, decInt, threeOf, Three.enc, extBOf_enc, intMd, intOpt]
  | iabs o ty sat | ineg o ty sat =>
    cases hf
    change (_ && _) = true at hw
    simp only [Bool.and_eq_true, One.ok] at hw
    simp [-BitVec.getLsbD_eq_getElem, decFields, chk, hw, decInt, oneOf, One.enc, intMd, intOpt]
  | and o w | or o w | xor o w | shl o w | shr o w | sar o w | rotl o w | bfx o sx =>
    cases hf
    change (_ && _) = true at hw
    simp only [Bool.and_eq_true, Two.ok] at hw
    simp [-BitVec.getLsbD_eq_getElem, decFields, chk, hw, decLogic, twoOf, Two.enc, srcBOf_mk, md0, only0]
  | tern o tbl w | fshl o | bfi o | prmt o =>
    cases hf
    change (_ && _) = true at hw
    simp only [Bool.and_eq_true, Three.ok] at hw
    simp [-BitVec.getLsbD_eq_getElem, decFields, chk, hw, decLogic, threeOf, Three.enc, extBOf_enc]
  | not o w | popc o w | clz o w | ctz o w | brev o w =>
    cases hf
    change (_ && _) = true at hw
    simp only [Bool.and_eq_true, One.ok] at hw
    simp [-BitVec.getLsbD_eq_getElem, decFields, chk, hw, decLogic, oneOf, One.enc, md0, only0]
  | mov o w =>
    cases hf
    change (_ && _) = true at hw
    simp only [Bool.and_eq_true, One.ok] at hw
    simp [-BitVec.getLsbD_eq_getElem, decFields, chk, hw, decMove, oneOf, One.enc]
  | movl h d w ty =>
    cases hf
    change (_ && _) = true at hw
    simp only [Bool.and_eq_true] at hw
    simp [-BitVec.getLsbD_eq_getElem, decFields, chk, hw, decMove]
  | sel o p neg w | lea o s w zx | pset o z w =>
    cases hf
    change (_ && _) = true at hw
    simp only [Bool.and_eq_true, decide_eq_true_eq, Two.ok] at hw
    simp [-BitVec.getLsbD_eq_getElem, decFields, chk, hw, decMove, twoOf, Two.enc, srcBOf_mk]
  | plop h d a b lut =>
    cases hf
    change guardOk _ = true at hw
    simp [-BitVec.getLsbD_eq_getElem, decFields, chk, hw, decMove, isS, sEnc, -BitVec.toNat_setWidth, narrow (n := 3) (N := 8)]
  | p2v h d e | v2p h a m e =>
    cases hf
    change guardOk _ = true at hw
    simp [-BitVec.getLsbD_eq_getElem, decFields, chk, hw, decMove]
  | launch h sys res d a b | qres h d b =>
    cases hf
    change (_ && _) = true at hw
    simp only [Bool.and_eq_true] at hw
    simp [-BitVec.getLsbD_eq_getElem, decFields, chk, hw, decLaunch, bEnc, srcBOf_mk]
  | qfree h =>
    cases hf
    change guardOk _ = true at hw
    simp [-BitVec.getLsbD_eq_getElem, decFields, chk, hw, decLaunch, s000, sEnc]
  | _ => cases hf <;> exact nomatch (show false = true from hb)

/-- The floating-point, packed, special and conversion instructions. -/
theorem decFields_encFields_mid {i : Instr} {f : Fields} (hw : i.wf = true) (hf : encFields i = some f)
    (hb : decide (0x180 ≤ f.opc.toNat ∧ f.opc.toNat < 0x300) = true) : decFields f = some i := by
  cases i with
  | fadd o m | fmul o m | fmin o m | fmax o m | fcmp o cc m | fscale o rm na aa | dadd o m | dmul o m | dmin o m | dmax o m
    | dcmp o cc m =>
    cases hf
    change (_ && _) = true at hw
    simp only [Bool.and_eq_true, decide_eq_true_eq, Two.ok] at hw
    simp [-BitVec.getLsbD_eq_getElem, decFields, chk, hw, decFp, twoOf, Two.enc, srcBOf_mk, frmOf, FRm.enc, FMods.enc, fmodsOf]
  | ffma o m c | dfma o m c =>
    cases hf
    change (_ && _) = true at hw
    simp only [Bool.and_eq_true, Three.ok] at hw
    simp [-BitVec.getLsbD_eq_getElem, decFields, chk, hw, decFp, threeOf, Three.enc, extBOf_enc, frmOf, FRm.enc, FMods.enc,
      fmodsOf, fcmOf, FCm.enc]
  | fclass o | frnd o rm | ffrexp o e =>
    cases hf
    change guardOk _ = true at hw
    simp [-BitVec.getLsbD_eq_getElem, decFields, chk, hw, decFp, oneOf, One.enc, md0, only0]
  | hadd2 o bf rm na nb | hmul2 o bf rm na nb | hmin2 o bf na nb | hmax2 o bf na nb =>
    cases hf
    change (_ && _) = true at hw
    simp only [Bool.and_eq_true, Two.ok] at hw
    simp [-BitVec.getLsbD_eq_getElem, decFields, chk, hw, decPacked, twoOf, Two.enc, srcBOf_mk, packMd]
  | hfma2 o bf rm na nb nc =>
    cases hf
    change (_ && _) = true at hw
    simp only [Bool.and_eq_true, Three.ok] at hw
    simp [-BitVec.getLsbD_eq_getElem, decFields, chk, hw, decPacked, threeOf, Three.enc, extBOf_enc, packMd]
  | rcp o | rsq o | sqrt o | exp2 o | log2 o | sin o | cos o | tanh o =>
    cases hf
    change guardOk _ = true at hw
    simp [-BitVec.getLsbD_eq_getElem, decFields, chk, hw, decPacked, oneOf, One.enc]
  | cvti o src ty rm | cvtf o src dst rm =>
    cases hf
    change (_ && _) = true at hw
    simp only [Bool.and_eq_true, One.ok] at hw
    simp [-BitVec.getLsbD_eq_getElem, decFields, chk, hw, decConv, oneOf, One.enc, cvtiMd, cvtfMd]
  | cvtq o fmt sat rm | cvtp o op rm | hash o k h | crc32c o w =>
    cases hf
    change (_ && _) = true at hw
    simp only [Bool.and_eq_true, Two.ok] at hw
    simp [-BitVec.getLsbD_eq_getElem, decFields, chk, hw, decConv, twoOf, Two.enc, srcBOf_mk, cvtqMd, cvtpMd]
  | rand h d b e =>
    cases hf
    change (_ && _) = true at hw
    simp only [Bool.and_eq_true] at hw
    simp [-BitVec.getLsbD_eq_getElem, decFields, chk, hw, decConv, md0, only0]
  | spack o e =>
    cases hf
    change guardOk _ = true at hw
    simp [-BitVec.getLsbD_eq_getElem, decFields, chk, hw, decConv, oneOf, One.enc, md0, only0]
  | movk h k b => cases k <;> cases hf <;> exact nomatch (show false = true from hb)
  | _ => cases hf <;> exact nomatch (show false = true from hb)

/-- The load-store, lane exchange, matrix and copy instructions. -/
theorem decFields_encFields_high {i : Instr} {f : Fields} (hw : i.wf = true) (hf : encFields i = some f)
    (hb : decide (0x300 ≤ f.opc.toNat) = true) : decFields f = some i := by
  cases i with
  | part h op d =>
    cases hf
    change (_ && _) = true at hw
    simp only [Bool.and_eq_true] at hw
    simp [-BitVec.getLsbD_eq_getElem, decFields, chk, hw, decLane, sB0, sEnc]
  | vote h op neg d p b =>
    cases hf
    change (_ && _) = true at hw
    simp only [Bool.and_eq_true] at hw
    by_cases hop : op = .ballot <;>
    · simp only [hop, if_true, if_false, decide_eq_true_eq] at hw
      simp [-BitVec.getLsbD_eq_getElem, -BitVec.toNat_setWidth, decFields, chk, hw, decLane, bEnc, srcBOf_mk, hop,
        narrow (n := 3) (N := 8)]
  | pick h mode delta d a b =>
    cases hf
    change (_ && _) = true at hw
    simp only [Bool.and_eq_true] at hw
    obtain ⟨⟨hg, hb⟩, hu⟩ := hw
    rw [Bool.or_eq_true, or_iff_not_imp_left] at hu
    simpa [-BitVec.getLsbD_eq_getElem, decFields, chk, hg, hb, decLane, bEnc, srcBOf_mk] using hu
  | tred h op ty d a b | tscan h op ty exc d a b | matchEq h w d a b =>
    cases hf
    change (_ && _) = true at hw
    simp only [Bool.and_eq_true] at hw
    simp [-BitVec.getLsbD_eq_getElem, decFields, chk, hw, decLane, bEnc, srcBOf_mk, tredMd, tredMd_low, md0, only0]
  | barArv h l i d | barWait h l i a | barSync h l i | barQ h l i d =>
    cases hf
    change (_ && _) = true at hw
    simp only [Bool.and_eq_true] at hw
    simp [-BitVec.getLsbD_eq_getElem, decFields, chk, hw, decLane, sB0, s000, sEnc, barMd]
  | ld m ac | st m ac | lds m sc | sts m sc | atom m op | red m op =>
    cases hf
    change (_ && _) = true at hw
    simp only [Bool.and_eq_true] at hw
    simp [-BitVec.getLsbD_eq_getElem, decFields, chk, hw, decMem, memIns_enc, memMd]
  | cas m w c =>
    cases hf
    change (_ && _) = true at hw
    simp only [Bool.and_eq_true] at hw
    obtain ⟨⟨hg, hm⟩, hc⟩ := hw
    obtain ⟨xm, cls, hx⟩ := casForms_enc hm c
    have ht : (m.enc (0x30A#10) (0#2 ++ bit1 w) c).t = .ext xm cls c := hx
    simp [-BitVec.getLsbD_eq_getElem, decFields, chk, decMem, memIns_enc, memMd, hg, hm, hc, ht]
  | pfch h a mo ex hint sc | cctl h a mo op sc =>
    cases hf
    change (_ && _) = true at hw
    simp only [Bool.and_eq_true] at hw
    simp [-BitVec.getLsbD_eq_getElem, decFields, chk, hw, decMem, memOf_mk]
  | pin h a b i | waitw h cond o sc d a b | txq h d a | frq h d a =>
    cases hf
    change (_ && _) = true at hw
    simp only [Bool.and_eq_true] at hw
    simp [-BitVec.getLsbD_eq_getElem, decFields, chk, hw, decMem, isS, sB0, sEnc, memMd]
  | unpin h i | fence h o sc =>
    cases hf
    change guardOk _ = true at hw
    simp [-BitVec.getLsbD_eq_getElem, decFields, chk, hw, decMem, s000, sEnc]
  | kick h a mo =>
    cases hf
    change (_ && _) = true at hw
    simp only [Bool.and_eq_true] at hw
    simp [-BitVec.getLsbD_eq_getElem, decFields, chk, hw, decCopy, memOf_mk]
  | landi h sc a b | lwait h d a b | lpoll h d a b | binc h d a b | brel h clr b =>
    cases hf
    change (_ && _) = true at hw
    simp only [Bool.and_eq_true] at hw
    simp [-BitVec.getLsbD_eq_getElem, decFields, chk, hw, decCopy, bEnc, srcBOf_mk, md0, only0]
  | bhold h i a =>
    cases hf
    change guardOk _ = true at hw
    simp [-BitVec.getLsbD_eq_getElem, decFields, chk, hw, decCopy, sB0, sEnc]
  | cpyq h d =>
    cases hf
    change (_ && _) = true at hw
    simp only [Bool.and_eq_true] at hw
    simp [-BitVec.getLsbD_eq_getElem, decFields, chk, hw, decCopy, sB0, sEnc]
  | mldw h fmt ns e d a b cv =>
    cases hf
    change (_ && _) = true at hw
    simp only [Bool.and_eq_true] at hw
    obtain ⟨⟨⟨⟨hg, hs⟩, hu⟩, hb⟩, hv⟩ := hw
    rw [Bool.or_eq_true, or_iff_not_imp_left] at hu
    simpa [-BitVec.getLsbD_eq_getElem, decFields, chk, hg, hs, hb, hv, decMat, cvSrcOf_mk, mmaMd] using hu
  | mldws h e5 e d a b cv | macld h acc e d a b cv =>
    cases hf
    change (_ && _) = true at hw
    simp only [Bool.and_eq_true] at hw
    simp [-BitVec.getLsbD_eq_getElem, decFields, chk, hw, decMat, cvSrcOf_mk, eMd]
  | mswap h e x | mclr h e d x | mrow h op acc e d a x =>
    cases hf
    change guardOk _ = true at hw
    simp [-BitVec.getLsbD_eq_getElem, decFields, chk, hw, decMat, cvFormOf_mk, eMd]
  | mma h fmt ns z e d a b c cv =>
    cases hf
    change (_ && _) = true at hw
    simp only [Bool.and_eq_true] at hw
    obtain ⟨⟨⟨hg, hs⟩, hu⟩, hb⟩ := hw
    rw [Bool.or_eq_true, or_iff_not_imp_left] at hu
    simpa [-BitVec.getLsbD_eq_getElem, decFields, chk, hg, hs, hb, decMat, mExtOf, extBOf_enc, cvOf_enc, cvEnc_low, mmaMd] using hu
  | mgmm h fmt ns bin e d a b c cv =>
    cases hf
    change (_ && _) = true at hw
    simp only [Bool.and_eq_true] at hw
    obtain ⟨⟨⟨⟨hg, hs⟩, hu⟩, hb⟩, hd⟩ := hw
    rw [Bool.or_eq_true, or_iff_not_imp_left] at hu
    simpa [-BitVec.getLsbD_eq_getElem, decFields, chk, hg, hs, hb, hd, decMat, mExtOf, extBOf_enc, cvOf_enc, cvEnc_low, mmaMd] using hu
  | macst h o sx e sat clr d a b c cv rm =>
    cases hf
    change (_ && _) = true at hw
    simp only [Bool.and_eq_true] at hw
    obtain ⟨⟨⟨hg, hu⟩, hs⟩, hb⟩ := hw
    rw [Bool.or_eq_true, or_iff_not_imp_left] at hu
    simpa [-BitVec.getLsbD_eq_getElem, decFields, chk, hg, hs, hb, decMat, mExtOf, extBOf_enc, cvOf_enc, cvEnc_mid,
      cvEnc_rm, macstMd] using hu
  | macrd h e d a b =>
    cases hf
    change (_ && _) = true at hw
    simp only [Bool.and_eq_true] at hw
    obtain ⟨⟨⟨hg, hd⟩, _⟩, hb⟩ := hw
    cases b with
    | lit w => cases hb
    | reg r | xreg r | xk k =>
      simp [-BitVec.getLsbD_eq_getElem, -BitVec.toNat_setWidth, decFields, chk, hg, hd, decMat, bEnc, SrcB.enc, srcBOf, extBOf, wAl,
        eMd, narrow (n := 6) (N := 64)]
  | mfence h | mwait h e =>
    cases hf
    change guardOk _ = true at hw
    simp [-BitVec.getLsbD_eq_getElem, decFields, chk, hw, decMat, s000, sEnc, eMd]
  | mwaitCv h e n b | cvset h d b =>
    cases hf
    change (_ && _) = true at hw
    simp only [Bool.and_eq_true] at hw
    simp [-BitVec.getLsbD_eq_getElem, decFields, chk, hw, decMat, bEnc, srcBOf_mk, -BitVec.toNat_setWidth, narrow (n := 4) (N := 16)]
  | mqry h clr e d =>
    cases hf
    change (_ && _) = true at hw
    simp only [Bool.and_eq_true] at hw
    simp [-BitVec.getLsbD_eq_getElem, decFields, chk, hw, decMat, sB0, sEnc, eMd]
  | sign h d a =>
    cases hf
    change guardOk _ = true at hw
    simp [-BitVec.getLsbD_eq_getElem, decFields, chk, hw, decMat, sB0, sEnc, -BitVec.toNat_setWidth, narrow (n := 4) (N := 16)]
  | movk h k b => cases k <;> cases hf <;> exact nomatch (show false = true from hb)
  | _ => cases hf <;> exact nomatch (show false = true from hb)

theorem decFields_encFields {i : Instr} {f : Fields} (hw : i.wf = true) (hf : encFields i = some f) : decFields f = some i := by
  rcases Nat.lt_or_ge f.opc.toNat 0x180 with hlow | hge
  · exact decFields_encFields_low hw hf (decide_eq_true hlow)
  · rcases Nat.lt_or_ge f.opc.toNat 0x300 with hmid | hhigh
    · exact decFields_encFields_mid hw hf (decide_eq_true ⟨hge, hmid⟩)
    · exact decFields_encFields_high hw hf (decide_eq_true hhigh)

/-- The opcodes of the encoder are ones that R91 assigns. -/
theorem assigned_encFields {i : Instr} {f : Fields} (hf : encFields i = some f) : assigned f.opc.toNat = true := by
  cases i with
  | movk h k b => cases k <;> cases hf <;> rfl
  | _ => cases hf <;> rfl

/-- Settles O3: the words of the fields are as many as the form says, the fields are read back from them, and the instruction from the
fields, bank by bank of the opcodes. -/
theorem encodeDecode : Obligations.EncodeDecode := by
  unfold Obligations.EncodeDecode
  exact fun _ f hw hf => ⟨decode_wordsOf (assigned_encFields hf) (decFields_encFields hw hf), Laws.length_wordsOf f⟩

end Sys2Proof
end

section
/-! ### The C form, and words written out (R66 to R76, R93) -/

namespace Sys2Proof

/-- Settles O2: the short opcode in a word of a C form selects the form, and its operands are read back by
`decode_cTwo` or `decode_cOne`. -/
theorem compactEncoding : Obligations.CompactEncoding := by
  unfold Obligations.CompactEncoding
  intro i w h
  cases i with
  | iaddC c | isubC c | imulC c | iminI32C c | iminN32C c | imaxI32C c | imaxN32C c | imulhI32C c | imulhN32C c | iaddSatI32C c
    | isubSatI32C c | iaddSatN32C c | isubSatN32C c | andC c | orC c | xorC c | shlC c | shrC c | sarC c | rotlC c | faddC c
    | fmulC c | fminC c | fmaxC c | fscaleC c | hadd2F16C c | hmul2F16C c | hmin2F16C c | hmax2F16C c | hadd2Bf16C c
    | hmul2Bf16C c | hmin2Bf16C c | hmax2Bf16C c | crc32cC c =>
    obtain rfl := Option.some.inj h
    exact decode_cTwo _ (fun w hw => by rw [decShort, hw]; rfl) rfl
  | iabsC c | inegC c | notC c | popcC c | clzC c | ctzC c | brevC c | movC c | frndRnC c | cvtfF32I32C c | cvtfF32N32C c
    | cvtiI32F32RzC c | cvtiN32F32RzC c =>
    obtain rfl := Option.some.inj h
    exact decode_cOne _ (fun w hw => by rw [decShort, hw]; rfl) rfl
  | _ => cases h

end Sys2Proof

namespace Sys2Proof.Machine

/-- Settles O1: each of the words is decoded. -/
theorem decodeWords : Obligations.DecodeWords := by
  unfold Obligations.DecodeWords
  decide

end Sys2Proof.Machine
end

section
/-! ### The vector ALU's integer instructions (R206 to R209) -/

namespace Sys2Proof.Machine

open Sys2Proof.Say

theorem lenExt_eq (e : Bool) : lenExt e = if e then 3 else 2 := rfl
theorem nReg_eq (w64 : Bool) : nReg w64 = nr w64 := rfl

/-- The integers that an instruction reads are the ones its type reads in registers and pairs (R206, R208). -/
theorem intOf_rdReg (ty : IntTy) (t : Thread) (a : VReg) : intOf ty (rdReg ty.w64 t a) = intA ty t a := by
  cases ty
  · exact intOf_i32 _
  · exact intOf_n32 _
  · rfl
  · rfl

theorem intOf_rdSrc (ty : IntTy) (tm : Team) (t : Thread) (b : SrcB) : intOf ty (rdSrc ty.w64 (litOf ty) tm t b) = intB ty tm t b := by
  cases ty
  · exact intOf_i32 _
  · exact intOf_n32 _
  · rfl
  · rfl

theorem intOf_rdExt (ty : IntTy) (tm : Team) (t : Thread) (b : ExtB) : intOf ty (rdExt ty.w64 tm t b) = intX ty tm t b := by
  cases ty
  · exact intOf_i32 _
  · exact intOf_n32 _
  · rfl
  · rfl

theorem intMin_eq (ty : IntTy) : intMin ty = least ty := by cases ty <;> rfl
theorem intMax_eq (ty : IntTy) : intMax ty = greatest ty := by cases ty <;> rfl

/-- A narrowed exact value is the result that the statements give, where the function on words, or on pairs, is the exact one wrapped. -/
theorem intEff_narrow {ty : IntTy} {sat : Bool} {d : VReg} {w : Word} {x : DWord} {e : Int}
    (hw : ty.w64 = false → BitVec.ofInt 32 e = w) (hx : ty.w64 = true → BitVec.ofInt 64 e = x) :
    intEff ty d (narrow ty sat e) = result ty sat d w x e := by
  cases sat with
  | true => rw [intEff_sat, intMin_eq, intMax_eq]; rfl
  | false =>
    rw [intEff_wrap]
    cases h : ty.w64 with
    | true => simp [result, h, hx h]
    | false => simp [result, h, hw h]

/-- The word, or the pair, that an integer was read from is the integer wrapped. -/
theorem ofInt_int32 {ty : IntTy} (h : ty.w64 = false) (w : Word) (x : DWord) : BitVec.ofInt 32 (int ty w x) = w := by
  cases ty
  · exact BitVec.ofInt_toInt
  · exact BitVec.ofInt_natCast ..|>.trans (BitVec.ofNat_toNat ..) |>.trans (BitVec.setWidth_eq _)
  · cases h
  · cases h

theorem ofInt_int64 {ty : IntTy} (h : ty.w64 = true) (w : Word) (x : DWord) : BitVec.ofInt 64 (int ty w x) = x := by
  cases ty
  · cases h
  · cases h
  · exact BitVec.ofInt_toInt
  · exact BitVec.ofInt_natCast ..|>.trans (BitVec.ofNat_toNat ..) |>.trans (BitVec.setWidth_eq _)

/-- An integer of a 32-bit type is read in the word alone, one of a 64-bit type in the pair alone. -/
theorem int_word {ty : IntTy} (h : ty.w64 = false) (w : Word) (x y : DWord) : int ty w x = int ty w y := by
  cases ty <;> first | rfl | cases h

theorem int_pair {ty : IntTy} (h : ty.w64 = true) (w v : Word) (x : DWord) : int ty w x = int ty v x := by
  cases ty <;> first | rfl | cases h

/-- A two-source integer instruction. -/
theorem int2_of {i : Instr} {o : Two} {len : Nat} {ty : IntTy} {sat : Bool} {f : Word → Word → Word} {g : DWord → DWord → DWord}
    {op : Int → Int → Int} (hx : ∀ s, exec i s = runInt2 op o len ty sat s)
    (hf : ∀ x y, BitVec.ofInt 32 (op x y) = f (BitVec.ofInt 32 x) (BitVec.ofInt 32 y))
    (hg : ∀ x y, BitVec.ofInt 64 (op x y) = g (BitVec.ofInt 64 x) (BitVec.ofInt 64 y)) : Int2 i o len ty sat f g op := by
  refine gives_of (some o.a) _ hx fun s c slot g tm id t _ => congrArg Except.ok ?_
  rw [intOf_rdReg, intOf_rdSrc]
  refine intEff_narrow (fun h => ?_) fun h => ?_
  · rw [hf, intA, intB, ofInt_int32 h, ofInt_int32 h]
  · rw [hg, intA, intB, ofInt_int64 h, ofInt_int64 h]

theorem int2x_of {i : Instr} {o : Two} {len : Nat} {ty : IntTy} {op : Int → Int → Int}
    (hx : ∀ s, exec i s = runInt2 op o len ty false s) : Int2x i o len ty op := by
  refine gives_of (some o.a) _ hx fun s c slot g tm id t _ => congrArg Except.ok ?_
  rw [intOf_rdReg, intOf_rdSrc]
  exact intEff_narrow (fun _ => rfl) fun _ => rfl

/-- A three-source integer instruction. -/
theorem int3_of {i : Instr} {o : Three} {ty : IntTy} {sat : Bool} {f : Word → Word → Word → Word}
    {g : DWord → DWord → DWord → DWord} {op : Int → Int → Int → Int} (hx : ∀ s, exec i s = runInt3 op o ty sat s)
    (hf : ty.w64 = false → ∀ a b c, BitVec.ofInt 32 (op (int ty a 0) (int ty b 0) (int ty c 0)) = f a b c)
    (hg : ty.w64 = true → ∀ a b c, BitVec.ofInt 64 (op (int ty 0 a) (int ty 0 b) (int ty 0 c)) = g a b c) :
    Int3 i o ty sat f g op := by
  refine gives_of (some o.a) _ hx fun s c slot g tm id t _ => congrArg Except.ok ?_
  rw [intOf_rdReg, intOf_rdReg, intOf_rdExt]
  refine intEff_narrow (fun h => ?_) fun h => ?_
  · rw [← hf h, intA, intA, intX, int_word h _ _ 0, int_word h _ (xVal64 tm t o.b) 0, int_word h _ (t.reg64 o.c.toNat) 0]
  · rw [← hg h, intA, intA, intX, int_pair h _ 0, int_pair h (xVal tm t o.b) 0, int_pair h (t.reg o.c.toNat) 0]

/-- A one-source integer instruction. -/
theorem int1_of {i : Instr} {o : One} {len : Nat} {ty : IntTy} {sat : Bool} {e : Thread → Eff} (op : Int → Int)
    (hx : ∀ s, exec i s = runInt1 op o len ty sat s) (he : ∀ t, intEff ty o.d (narrow ty sat (op (intA ty t o.a))) = e t) :
    Gives i o.h len false [vW o.d (nr ty.w64), vR o.a (nr ty.w64)] fun _ _ _ _ t => e t :=
  gives_of (some o.a) _ hx fun s c slot g tm id t _ => congrArg Except.ok (by rw [intOf_rdReg, he])

theorem mulHigh_eq (ty : IntTy) : mulHigh ty = high ty := rfl

/-- Settles O11: each instruction computes the exact value, and sums, differences and products wrap as their operands do. -/
theorem integerSums : Obligations.IntegerSums := by
  unfold Obligations.IntegerSums
  have hsum {ty : IntTy} (h : ty.w64 = false) (a b c : Word) :
      BitVec.ofInt 32 (int ty a 0 + int ty b 0 + int ty c 0) = a + b + c := by
    rw [BitVec.ofInt_add, BitVec.ofInt_add, ofInt_int32 h, ofInt_int32 h, ofInt_int32 h]
  have hsum64 {ty : IntTy} (h : ty.w64 = true) (a b c : DWord) :
      BitVec.ofInt 64 (int ty 0 a + int ty 0 b + int ty 0 c) = a + b + c := by
    rw [BitVec.ofInt_add, BitVec.ofInt_add, ofInt_int64 h, ofInt_int64 h, ofInt_int64 h]
  have hmad {ty : IntTy} (h : ty.w64 = false) (a b c : Word) :
      BitVec.ofInt 32 (int ty a 0 * int ty b 0 + int ty c 0) = a * b + c := by
    rw [BitVec.ofInt_add, BitVec.ofInt_mul, ofInt_int32 h, ofInt_int32 h, ofInt_int32 h]
  have hmad64 {ty : IntTy} (h : ty.w64 = true) (a b c : DWord) :
      BitVec.ofInt 64 (int ty 0 a * int ty 0 b + int ty 0 c) = a * b + c := by
    rw [BitVec.ofInt_add, BitVec.ofInt_mul, ofInt_int64 h, ofInt_int64 h, ofInt_int64 h]
  have hsub {n : Nat} (x y : Int) : BitVec.ofInt n (x - y) = BitVec.ofInt n x - BitVec.ofInt n y := by
    rw [Int.sub_eq_add_neg, BitVec.ofInt_add, BitVec.ofInt_neg, BitVec.sub_eq_add_neg]
  have hadd {n : Nat} (x y : Int) : BitVec.ofInt n (x + y) = BitVec.ofInt n x + BitVec.ofInt n y := BitVec.ofInt_add ..
  have hmul {n : Nat} (x y : Int) : BitVec.ofInt n (x * y) = BitVec.ofInt n x * BitVec.ofInt n y := BitVec.ofInt_mul ..
  exact ⟨fun o _ _ => int2_of (fun _ => lenB_eq o.b ▸ rfl) hadd hadd, fun o _ _ => int2_of (fun _ => lenB_eq o.b ▸ rfl) hsub hsub,
    fun o _ _ => int2_of (fun _ => lenB_eq o.b ▸ rfl) hmul hmul, fun _ _ _ => int3_of (fun _ => rfl) hsum hsum64,
    fun _ _ _ => int3_of (fun _ => rfl) hmad hmad64, fun _ => int2_of (fun _ => rfl) hadd hadd,
    fun _ => int2_of (fun _ => rfl) hsub hsub, fun _ => int2_of (fun _ => rfl) hmul hmul,
    fun _ => int2_of (fun _ => rfl) hadd hadd, fun _ => int2_of (fun _ => rfl) hsub hsub,
    fun _ => int2_of (fun _ => rfl) hadd hadd, fun _ => int2_of (fun _ => rfl) hsub hsub⟩

/-- Settles O12: each instruction narrows the exact value. -/
theorem integerProductsAndOrder : Obligations.IntegerProductsAndOrder := by
  unfold Obligations.IntegerProductsAndOrder
  refine ⟨?imulh, fun o ty => int2x_of fun _ => lenB_eq o.b ▸ rfl,
    fun o ty => int2x_of fun _ => lenB_eq o.b ▸ rfl, fun o ty => int3_of (fun _ => rfl) (fun _ _ _ _ => rfl) fun _ _ _ _ => rfl, ?imadw,
    ?iabs, ?ineg, ?imulhI32C, ?imulhN32C, fun _ => int2x_of fun _ => rfl, fun _ => int2x_of fun _ => rfl, fun _ => int2x_of fun _ => rfl,
    fun _ => int2x_of fun _ => rfl, ?iabsC, ?inegC⟩
  case imulh =>
    intro o ty
    rw [← lenB_eq, ← mulHigh_eq]
    exact int2x_of fun _ => rfl
  case imulhI32C => exact fun c => mulHigh_eq .i32 ▸ int2x_of fun _ => rfl
  case imulhN32C => exact fun c => mulHigh_eq .n32 ▸ int2x_of fun _ => rfl
  case imadw =>
    intro o ty wide sat hty
    refine gives_of (some o.a) _ (fun _ => rfl) fun s c slot g tm id t _ => congrArg Except.ok ?_
    have hwide : wideTy ty = wide := by rcases hty with ⟨rfl, rfl⟩ | ⟨rfl, rfl⟩ <;> rfl
    have h32 : ty.w64 = false := by rcases hty with ⟨rfl, _⟩ | ⟨rfl, _⟩ <;> rfl
    have h64 : wide.w64 = true := by rcases hty with ⟨_, rfl⟩ | ⟨_, rfl⟩ <;> rfl
    have ha : intOf ty (rdReg false t o.a) = intA ty t o.a := h32 ▸ intOf_rdReg ty t o.a
    have hb : intOf ty (rdExt false tm t o.b) = intX ty tm t o.b := h32 ▸ intOf_rdExt ty tm t o.b
    have hc : intOf wide (t.reg64 o.c.toNat) = intA wide t o.c := by
      rw [← intOf_rdReg, h64]
      rfl
    rw [hwide, ha, hb, hc]
    exact intEff_narrow (fun h => absurd (h.symm.trans h64) (by decide)) fun _ => rfl
  case iabs =>
    exact fun o ty sat _ => int1_of (fun a => a.natAbs) (fun _ => rfl) fun t => intEff_narrow (fun _ => rfl) fun _ => rfl
  case ineg =>
    exact fun o ty sat _ => int1_of (fun a => -a) (fun _ => rfl) fun t =>
      intEff_narrow (fun h => by rw [BitVec.ofInt_neg, intA, ofInt_int32 h]) fun h => by rw [BitVec.ofInt_neg, intA, ofInt_int64 h]
  case iabsC =>
    refine fun c => int1_of (o := one c) (ty := .i32) (sat := false) (fun a => a.natAbs) (fun _ => rfl) fun t => ?_
    rw [intEff_wrap, BitVec.ofInt_natCast]
    rfl
  case inegC =>
    exact fun c => int1_of (o := one c) (ty := .i32) (sat := false) (fun a => -a) (fun _ => rfl) fun t =>
      intEff_narrow (w := -t.reg _) (x := 0) (fun h => by rw [BitVec.ofInt_neg, intA, ofInt_int32 h]) fun h => absurd h (by decide)

theorem icond_eq (cc : ICond) (a b : Int) : icond cc a b = holds cc a b := by
  cases cc with
  | eq | ne => simp [icond, holds, beq_eq_decide, bne]
  | lt | le | gt | ge => rfl

/-- The low bits and the carry of a sum are those of the sum in one bit more (R209). -/
theorem carry_sum {w : Nat} (a b : BitVec w) (c : Bool) :
    let x : BitVec (w + 1) := a.setWidth (w + 1) + b.setWidth (w + 1) + (BitVec.ofBool c).setWidth (w + 1)
    x.setWidth w = BitVec.ofNat w (a.toNat + b.toNat + b2n c) ∧ x.getLsbD w = decide (2 ^ w ≤ a.toNat + b.toNat + b2n c) := by
  intro x
  have hc : BitVec.ofBool c = BitVec.ofNat 1 (b2n c) ∧ b2n c < 2 ^ 1 := by cases c <;> decide
  have hx : x = BitVec.ofNat (w + 1) (a.toNat + b.toNat + b2n c) := by
    rw [BitVec.ofNat_add, BitVec.ofNat_add, BitVec.ofNat_toNat, BitVec.ofNat_toNat, ← Nat.mod_eq_of_lt hc.2, ← BitVec.toNat_ofNat,
      BitVec.ofNat_toNat, ← hc.1]
  have hlt : (a.toNat + b.toNat + b2n c) / 2 ^ w < 2 := by
    rw [Nat.div_lt_iff_lt_mul (Nat.two_pow_pos w)]
    have := a.isLt
    have := b.isLt
    omega
  rw [hx]
  refine ⟨BitVec.setWidth_ofNat_of_le (Nat.le_succ w) _, ?_⟩
  rw [BitVec.getLsbD_ofNat, Nat.testBit_eq_decide_div_mod_eq, Nat.mod_eq_of_lt hlt, decide_eq_true (Nat.lt_succ_self w), Bool.true_and]
  refine decide_eq_decide.mpr ?_
  rw [← Nat.one_le_div_iff (Nat.two_pow_pos w)]
  omega

/-- IADDC on operands of `w` bits: the complement of B is 2^w - 1 - B. -/
theorem carry_of {w : Nat} (a b : BitVec w) (sub c : Bool) :
    let y := if sub then ~~~b else b
    let x : BitVec (w + 1) := a.setWidth (w + 1) + y.setWidth (w + 1) + (BitVec.ofBool c).setWidth (w + 1)
    let n := a.toNat + (if sub then 2 ^ w - 1 - b.toNat else b.toNat) + b2n c
    x.setWidth w = BitVec.ofNat w n ∧ x.getLsbD w = decide (2 ^ w ≤ n) := by
  have hy : (if sub then ~~~b else b).toNat = if sub then 2 ^ w - 1 - b.toNat else b.toNat := by
    cases sub with
    | true => exact BitVec.toNat_not
    | false => rfl
  simpa only [hy] using carry_sum a (if sub then ~~~b else b) c

/-- Settles O13: ICMP compares the two integers; IADDC's sum and carry are those of `carry_sum`. -/
theorem compareAndCarry : Obligations.CompareAndCarry := by
  unfold Obligations.CompareAndCarry
  refine ⟨?icmp, ?carry32, ?carry64⟩
  case icmp =>
    intro o cc ty
    rw [← lenB_eq]
    refine gives_of (some o.a) _ (fun _ => rfl) fun s c slot g tm id t _ => congrArg Except.ok ?_
    rw [intOf_rdReg, intOf_rdSrc, icond_eq]
    rfl
  case carry32 =>
    intro o sub p
    rw [← lenB_eq]
    refine gives_of (some o.a) _ (fun _ => rfl) fun s c slot g tm id t _ => congrArg Except.ok ?_
    obtain ⟨hsum, hcarry⟩ := carry_of (t.reg o.a.toNat) (bVal tm t o.b) sub (t.pred p.toNat)
    have hlo (n : Nat) : loW (BitVec.ofNat 64 (n % 2 ^ 32)) = BitVec.ofNat 32 n := by
      rw [loW_ofNat, ← BitVec.toNat_ofNat n 32, BitVec.ofNat_toNat, BitVec.setWidth_eq]
    simp only [hsum, hcarry, wrReg_eq, IntTy.w64, rdReg, rdSrc, if_false, Bool.false_eq_true, hlo, BitVec.toNat_setWidth_of_le,
      Nat.reduceLeDiff]
  case carry64 =>
    intro o sub p
    rw [← lenB_eq]
    refine gives_of (some o.a) _ (fun _ => rfl) fun s c slot g tm id t _ => congrArg Except.ok ?_
    obtain ⟨hsum, hcarry⟩ := carry_of (t.reg64 o.a.toNat) (bVal64 .sign tm t o.b) sub (t.pred p.toNat)
    have hlo (n : Nat) : BitVec.ofNat 64 (n % 2 ^ 64) = BitVec.ofNat 64 n := by
      rw [← BitVec.toNat_ofNat n 64, BitVec.ofNat_toNat, BitVec.setWidth_eq]
    simp only [hsum, hcarry, wrReg_eq, IntTy.w64, rdReg, rdSrc, if_true, hlo, litOf]

end Sys2Proof.Machine
end

section
/-! ### The vector ALU's logic instructions and shifts (R210) -/

namespace Sys2Proof.Machine

open Sys2Proof.Say

/-! #### Numbers and strings of bits -/

theorem toNat_loW (x : DWord) : (loW x).toNat = x.toNat % 2 ^ 32 := BitVec.toNat_setWidth 32 x

theorem getLsbD_loW (x : DWord) (i : Nat) : (loW x).getLsbD i = (decide (i < 32) && x.getLsbD i) := BitVec.getLsbD_setWidth ..

/-- A number given bit by bit, as the sum of its bits' weights. -/
def bitSum (n : Nat) (f : Nat → Bool) : Nat := ((List.range n).map fun i => if f i then 2 ^ i else 0).sum

theorem ofBits_eq (w : Nat) (f : Nat → Bool) : Say.ofBits w f = BitVec.ofNat w (bitSum w f) := rfl

theorem bitSum_succ (n : Nat) (f : Nat → Bool) : bitSum (n + 1) f = 2 ^ n * (f n).toNat + bitSum n f := by
  cases h : f n <;> simp [bitSum, List.range_succ, h, Nat.add_comm]

theorem bitSum_lt (n : Nat) (f : Nat → Bool) : bitSum n f < 2 ^ n := by
  induction n with
  | zero => exact Nat.one_pos
  | succ n ih =>
    rw [bitSum_succ, Nat.pow_succ]
    cases f n <;> simp <;> omega

theorem bitSum_congr {n : Nat} {f g : Nat → Bool} (h : ∀ i, i < n → f i = g i) : bitSum n f = bitSum n g := by
  unfold bitSum
  rw [List.map_congr_left fun i hi => by rw [h i (List.mem_range.mp hi)]]

theorem testBit_bitSum (n : Nat) (f : Nat → Bool) (i : Nat) : (bitSum n f).testBit i = (decide (i < n) && f i) := by
  induction n with
  | zero => simp [bitSum]
  | succ n ih =>
    rw [bitSum_succ, Nat.testBit_two_pow_mul_add _ (bitSum_lt n f), ih]
    rcases Nat.lt_trichotomy i n with h | rfl | h
    · simp [h, Nat.lt_succ_of_lt h]
    · cases f i <;> simp
    · have : ¬ i < n + 1 := by omega
      have hb : ((f n).toNat).testBit (i - n) = false :=
        Nat.testBit_lt_two_pow (Nat.lt_of_le_of_lt (Bool.toNat_le _) (Nat.one_lt_two_pow (by omega)))
      simp [this, Nat.not_lt_of_gt h, hb]

theorem getLsbD_ofBits (w : Nat) (f : Nat → Bool) (i : Nat) : (Say.ofBits w f).getLsbD i = (decide (i < w) && f i) := by
  rw [ofBits_eq, BitVec.getLsbD_ofNat, testBit_bitSum]
  simp

/-- A string of bits is the number given by its bits. -/
theorem eq_ofBits {w : Nat} {x : BitVec w} {f : Nat → Bool} (h : ∀ i, i < w → x.getLsbD i = f i) : x = Say.ofBits w f := by
  apply BitVec.eq_of_getLsbD_eq
  intro i hi
  rw [getLsbD_ofBits, h i hi, decide_eq_true hi, Bool.true_and]

/-! #### Shifts -/

theorem shl_toNat {w : Nat} (a : BitVec w) (n : Nat) : BitVec.ofNat w (if w ≤ n then 0 else a.toNat * 2 ^ n % 2 ^ w) = a <<< n := by
  split
  · next h => rw [BitVec.shiftLeft_eq_zero h]
  · rw [← BitVec.toNat_ofNat (a.toNat * 2 ^ n) w, BitVec.ofNat_toNat, BitVec.setWidth_eq]
    apply BitVec.eq_of_toNat_eq
    rw [BitVec.toNat_ofNat, BitVec.toNat_shiftLeft, Nat.shiftLeft_eq]

theorem shr_toNat {w : Nat} (a : BitVec w) (n : Nat) : BitVec.ofNat w (if w ≤ n then 0 else a.toNat / 2 ^ n) = a >>> n := by
  have h : (a >>> n).toNat = if w ≤ n then 0 else a.toNat / 2 ^ n := by
    rw [BitVec.toNat_ushiftRight, Nat.shiftRight_eq_div_pow]
    split
    · next h => exact Nat.div_eq_of_lt (Nat.lt_of_lt_of_le a.isLt (Nat.pow_le_pow_right Nat.two_pos h))
    · rfl
  rw [← h, BitVec.ofNat_toNat, BitVec.setWidth_eq]

theorem signed_toNat {w : Nat} (a : BitVec w) : signed w a.toNat = a.toInt := by
  rw [signed, Nat.mod_eq_of_lt a.isLt, BitVec.toInt_eq_toNat_cond]
  rcases Nat.eq_zero_or_pos w with rfl | hw
  · have ha : a.toNat = 0 := by have := a.isLt; omega
    simp [ha]
  · obtain ⟨v, rfl⟩ := Nat.exists_eq_succ_of_ne_zero (Nat.pos_iff_ne_zero.mp hw)
    have h : a.toNat < 2 ^ (v + 1 - 1) ↔ 2 * a.toNat < 2 ^ (v + 1) := by rw [Nat.add_sub_cancel, Nat.pow_succ]; omega
    simp only [h, Nat.succ_eq_add_one]

theorem sar_toInt {w : Nat} (a : BitVec w) (n : Nat) :
    BitVec.ofInt w (if w ≤ n then (if a.toInt < 0 then -1 else 0) else a.toInt / 2 ^ n) = a.sshiftRight n := by
  have h : (a.sshiftRight n).toInt = if w ≤ n then (if a.toInt < 0 then -1 else 0) else a.toInt / 2 ^ n := by
    rw [BitVec.toInt_sshiftRight, Int.shiftRight_eq_div_pow]
    split
    · next hn =>
      have hpow : (2 : Int) ^ (w - 1) ≤ 2 ^ n := pow_le_pow_right₀ (by decide) (by omega)
      have hpos : (0 : Int) < 2 ^ n := Int.pow_pos (by decide)
      have hlt := BitVec.toInt_lt (x := a)
      have hge := BitVec.le_toInt (x := a)
      push_cast
      split
      · next hneg =>
        have hneg' := Int.ediv_neg_of_neg_of_pos hneg hpos
        have hge' : -1 ≤ a.toInt / 2 ^ n := Int.le_ediv_of_mul_le hpos (by omega)
        omega
      · next hnn => exact Int.ediv_eq_zero_of_lt (by omega) (by omega)
    · push_cast
      rfl
  rw [← h, BitVec.ofInt_toInt]

theorem rotl_toNat {w : Nat} (hw : 0 < w) (a : BitVec w) (n : Nat) :
    BitVec.ofNat w (a.toNat * 2 ^ (n % w) % 2 ^ w + a.toNat / 2 ^ (w - n % w)) = a.rotateLeft n := by
  have hn : n % w ≤ w := (Nat.mod_lt n hw).le
  have hlo : a.toNat / 2 ^ (w - n % w) < 2 ^ (n % w) := by
    rw [Nat.div_lt_iff_lt_mul (Nat.two_pow_pos _), ← Nat.pow_add, Nat.add_sub_cancel' hn]
    exact a.isLt
  have hhi : a.toNat * 2 ^ (n % w) % 2 ^ w = a.toNat % 2 ^ (w - n % w) * 2 ^ (n % w) := by
    rw [← Nat.mul_mod_mul_right, ← Nat.pow_add, Nat.sub_add_cancel hn]
  have h : (a.rotateLeft n).toNat = a.toNat * 2 ^ (n % w) % 2 ^ w + a.toNat / 2 ^ (w - n % w) := by
    rw [BitVec.toNat_rotateLeft, Nat.shiftLeft_eq, Nat.shiftRight_eq_div_pow, hhi, ← Nat.shiftLeft_eq,
      Nat.shiftLeft_add_eq_or_of_lt hlo]
  rw [← h, BitVec.ofNat_toNat, BitVec.setWidth_eq]

/-! #### Instructions on strings of bits, from their operations on 64 bits -/

theorem bits2_of {i : Instr} {o : Two} {len : Nat} {w64 b64 : Bool} {op : DWord → DWord → DWord} {f : Word → Word → Word}
    {g : DWord → DWord → DWord} (hx : ∀ s, exec i s = runBits2 op o len w64 b64 s) (hb : w64 = false → b64 = false)
    (hf : w64 = false → ∀ a b : Word, loW (op (a.setWidth 64) (b.setWidth 64)) = f a b)
    (hg : w64 = true → ∀ a b, op a b = g a b) : Bits2 i o len w64 b64 f g := by
  refine gives_of (some o.a) _ hx fun s c slot gr tm id t _ => congrArg Except.ok ?_
  cases w64 with
  | true => rw [wrReg_eq, hg rfl]; rfl
  | false => rw [hb rfl, wrReg_eq]; exact congrArg (fun x => ({ regs := [(o.d.toNat, x)] } : Eff)) (hf rfl _ _)

theorem bits3_of {i : Instr} {o : Three} {op : DWord → DWord → DWord → DWord} {f : Word → Word → Word → Word}
    (hx : ∀ s, exec i s = runBits3 op o false s)
    (hf : ∀ a b c : Word, loW (op (a.setWidth 64) (b.setWidth 64) (c.setWidth 64)) = f a b c) : Bits3 i o f :=
  gives_of (some o.a) _ hx fun _ _ _ _ _ _ _ _ =>
    congrArg Except.ok (congrArg (fun x => ({ regs := [(o.d.toNat, x)] } : Eff)) (hf _ _ _))

/-- A shift, whose count is a number of 32 bits. -/
theorem shift_of {i : Instr} {o : Two} {len : Nat} {w64 : Bool} {op : Bool → DWord → DWord → DWord}
    {f : (w : Nat) → BitVec w → Nat → BitVec w} (hx : ∀ s, exec i s = runBits2 (op w64) o len w64 false s)
    (hf : ∀ a b : Word, loW (op false (a.setWidth 64) (b.setWidth 64)) = f 32 a b.toNat)
    (hg : ∀ a b : DWord, op true a b = f 64 a b.toNat) :
    Bits2 i o len w64 false (fun a n => f 32 a n.toNat) fun a n => f 64 a n.toNat := by
  refine bits2_of hx (fun _ => rfl) (fun h => ?_) fun h => ?_
  · exact h ▸ hf
  · exact h ▸ hg

theorem toNat_wide (a : Word) : (a.setWidth 64 : DWord).toNat = a.toNat := BitVec.toNat_setWidth_of_le (by decide)

theorem shlOp_word (a b : Word) : loW (shlOp false (a.setWidth 64) (b.setWidth 64)) = a <<< b.toNat := by
  rw [← shl_toNat, shlOp, toNat_wide, toNat_wide, wBits, if_neg Bool.false_ne_true, ← loW_ofNat]
  split <;> rfl

theorem shlOp_pair (a b : DWord) : shlOp true a b = a <<< b.toNat := by
  rw [← shl_toNat, shlOp, wBits, if_pos rfl]
  split <;> rfl

theorem shrOp_word (a b : Word) : loW (shrOp false (a.setWidth 64) (b.setWidth 64)) = a >>> b.toNat := by
  rw [← shr_toNat, shrOp, toNat_wide, toNat_wide, wBits, if_neg Bool.false_ne_true, ← loW_ofNat]
  split <;> rfl

theorem shrOp_pair (a b : DWord) : shrOp true a b = a >>> b.toNat := by
  rw [← shr_toNat, shrOp, wBits, if_pos rfl]
  split <;> rfl

theorem sarOp_word (a b : Word) : loW (sarOp false (a.setWidth 64) (b.setWidth 64)) = a.sshiftRight b.toNat := by
  rw [← sar_toInt, ← signed_toNat, sarOp, toNat_wide, toNat_wide, wBits, if_neg Bool.false_ne_true, loW_ofInt]

theorem sarOp_pair (a b : DWord) : sarOp true a b = a.sshiftRight b.toNat := by
  rw [← sar_toInt, ← signed_toNat, sarOp, wBits, if_pos rfl]

theorem rotlOp_word (a b : Word) : loW (rotlOp false (a.setWidth 64) (b.setWidth 64)) = a.rotateLeft b.toNat := by
  rw [← rotl_toNat (by decide), rotlOp, toNat_wide, toNat_wide, wBits, if_neg Bool.false_ne_true, loW_ofNat]

theorem rotlOp_pair (a b : DWord) : rotlOp true a b = a.rotateLeft b.toNat := by
  rw [← rotl_toNat (by decide), rotlOp, wBits, if_pos rfl]

theorem fshlOp_word (a b c : Word) :
    loW (fshlOp (a.setWidth 64) (b.setWidth 64) (c.setWidth 64)) = ((a ++ b) <<< (c.toNat % 32)).extractLsb' 32 32 := by
  apply BitVec.eq_of_toNat_eq
  have hab : (a ++ b).toNat = a.toNat * 2 ^ 32 + b.toNat := by
    rw [BitVec.toNat_append, ← Nat.shiftLeft_add_eq_or_of_lt b.isLt, Nat.shiftLeft_eq]
  rw [fshlOp, toNat_wide, toNat_wide, toNat_wide, loW_ofNat, BitVec.extractLsb'_toNat, BitVec.toNat_ofNat, BitVec.toNat_shiftLeft, hab,
    Nat.shiftLeft_eq, Nat.shiftRight_eq_div_pow]

/-- A one-source instruction with a result as wide as its operand. -/
theorem bits1_of {i : Instr} {o : One} {len : Nat} {w64 : Bool} {op : DWord → DWord} {f : Word → Word} {g : DWord → DWord}
    (hx : ∀ s, exec i s = runBits1 op o len w64 w64 s) (hf : w64 = false → ∀ a : Word, loW (op (a.setWidth 64)) = f a)
    (hg : w64 = true → ∀ a, op a = g a) :
    Gives i o.h len false [vW o.d (nr w64), vR o.a (nr w64)] fun _ _ _ _ t =>
      { regs := if w64 then wr64 o.d.toNat (g (t.reg64 o.a.toNat)) else [(o.d.toNat, f (t.reg o.a.toNat))] } := by
  refine gives_of (some o.a) _ hx fun s c slot gr tm id t _ => congrArg Except.ok ?_
  cases w64 with
  | true => rw [wrReg_eq, hg rfl]; rfl
  | false => exact congrArg (fun x => ({ regs := [(o.d.toNat, x)] } : Eff)) (hf rfl _)

/-- TERN, bit by bit (R210). -/
theorem getLsbD_ternBits (tbl : BitVec 8) (a b c : DWord) {i : Nat} (hi : i < 64) :
    (ternBits tbl a b c).getLsbD i
      = tbl.getLsbD (4 * (c.getLsbD i).toNat + 2 * (b.getLsbD i).toNat + (a.getLsbD i).toNat) := by
  have hif (p : Bool) (x : DWord) : (if p then x else 0).getLsbD i = (p && x.getLsbD i) := by cases p <;> simp
  have hnot (x : DWord) : (~~~x).getLsbD i = !x.getLsbD i := by simp [hi]
  simp only [ternBits, BitVec.getLsbD_or, hif, BitVec.getLsbD_and, hnot]
  cases a.getLsbD i <;> cases b.getLsbD i <;> cases c.getLsbD i <;> simp

theorem ternBits_word (tbl : BitVec 8) (a b c : Word) :
    loW (ternBits tbl (a.setWidth 64) (b.setWidth 64) (c.setWidth 64))
      = Say.ofBits 32 fun i => tbl.getLsbD (4 * (c.getLsbD i).toNat + 2 * (b.getLsbD i).toNat + (a.getLsbD i).toNat) := by
  refine eq_ofBits fun i hi => ?_
  rw [getLsbD_loW, getLsbD_ternBits _ _ _ _ (by omega)]
  have hw (x : Word) : (x.setWidth 64 : DWord).getLsbD i = x.getLsbD i := by rw [BitVec.getLsbD_setWidth]; simp; omega
  simp only [hw, hi, decide_true, Bool.true_and]

/-- Settles O14: an operation on 64 bits gives the low word on words and the pair on pairs. -/
theorem logicAndShifts : Obligations.LogicAndShifts := by
  unfold Obligations.LogicAndShifts
  have hand (a b : Word) : loW ((a.setWidth 64) &&& (b.setWidth 64)) = a &&& b := by unfold loW; simp
  have hor (a b : Word) : loW ((a.setWidth 64) ||| (b.setWidth 64)) = a ||| b := by unfold loW; simp
  have hxor (a b : Word) : loW ((a.setWidth 64) ^^^ (b.setWidth 64)) = a ^^^ b := by unfold loW; simp
  have hnot (a : Word) : loW (~~~(a.setWidth 64)) = ~~~a := by unfold loW; simp
  refine ⟨⟨fun o w => ?and, fun o w => ?or, fun o w => ?xor, ?not, ?tern, ?tern64, ?andC, ?orC, ?xorC, ?notC⟩,
    ⟨fun o w => ?shl, fun o w => ?shr, fun o w => ?sar, fun o w => ?rotl, fun o => bits3_of (fun _ => rfl) fshlOp_word,
      fun c => shift_of (op := shlOp) (f := fun _ a n => a <<< n) (fun _ => rfl) shlOp_word shlOp_pair,
      fun c => shift_of (op := shrOp) (f := fun _ a n => a >>> n) (fun _ => rfl) shrOp_word shrOp_pair,
      fun c => shift_of (op := sarOp) (f := fun _ a n => a.sshiftRight n) (fun _ => rfl) sarOp_word sarOp_pair,
      fun c => shift_of (op := rotlOp) (f := fun _ a n => a.rotateLeft n) (fun _ => rfl) rotlOp_word rotlOp_pair⟩⟩
  case and => exact lenB_eq o.b ▸ bits2_of (fun _ => rfl) id (fun _ => hand) fun _ _ _ => rfl
  case or => exact lenB_eq o.b ▸ bits2_of (fun _ => rfl) id (fun _ => hor) fun _ _ _ => rfl
  case xor => exact lenB_eq o.b ▸ bits2_of (fun _ => rfl) id (fun _ => hxor) fun _ _ _ => rfl
  case not => exact fun o w => bits1_of (fun _ => rfl) (fun _ => hnot) fun _ _ => rfl
  case tern => exact fun o tbl => bits3_of (fun _ => rfl) (ternBits_word tbl)
  case tern64 =>
    refine fun o tbl => gives_of (some o.a) _ (fun _ => rfl) fun s c slot g tm id t _ => congrArg Except.ok ?_
    rw [wrReg_eq, eq_ofBits fun i hi => getLsbD_ternBits tbl _ _ _ hi]
    rfl
  case andC => exact fun c => bits2_of (fun _ => rfl) id (fun _ => hand) fun _ _ _ => rfl
  case orC => exact fun c => bits2_of (fun _ => rfl) id (fun _ => hor) fun _ _ _ => rfl
  case xorC => exact fun c => bits2_of (fun _ => rfl) id (fun _ => hxor) fun _ _ _ => rfl
  case notC => exact fun c => bits1_of (w64 := false) (g := fun a => ~~~a) (fun _ => rfl) (fun _ => hnot) fun _ _ => rfl
  case shl => exact lenB_eq o.b ▸ shift_of (op := shlOp) (f := fun _ a n => a <<< n) (fun _ => rfl) shlOp_word shlOp_pair
  case shr => exact lenB_eq o.b ▸ shift_of (op := shrOp) (f := fun _ a n => a >>> n) (fun _ => rfl) shrOp_word shrOp_pair
  case sar => exact lenB_eq o.b ▸ shift_of (op := sarOp) (f := fun _ a n => a.sshiftRight n) (fun _ => rfl) sarOp_word sarOp_pair
  case rotl => exact lenB_eq o.b ▸ shift_of (op := rotlOp) (f := fun _ a n => a.rotateLeft n) (fun _ => rfl) rotlOp_word rotlOp_pair

end Sys2Proof.Machine
end

section
/-! ### The vector ALU's bit counts and bit fields (R210, R211) -/

namespace Sys2Proof.Machine

open Sys2Proof.Say

/-! #### Counts -/

theorem popCount_eq (n x : Nat) : popCount n x = ones n x.testBit := by
  induction n generalizing x with
  | zero => rfl
  | succ n ih =>
    rw [popCount, ih, ones, ones, List.range_succ_eq_map, List.filter_cons, List.filter_map, Nat.testBit_zero]
    have htail : x.testBit ∘ Nat.succ = (x / 2).testBit := by
      funext i
      exact Nat.testBit_succ x i
    rw [htail]
    rcases Nat.mod_two_eq_zero_or_one x with h | h <;> simp [h, Nat.add_comm]

theorem ctzNat_eq (n x : Nat) : ctzNat n x = trailing n x.testBit := by
  induction n generalizing x with
  | zero => rfl
  | succ n ih =>
    rw [ctzNat, ih, trailing, trailing, List.range_succ_eq_map, List.takeWhile_cons, List.takeWhile_map, Nat.testBit_zero]
    have htail : (fun i => !x.testBit i) ∘ Nat.succ = fun i => !(x / 2).testBit i := by
      funext i
      exact congrArg (!·) (Nat.testBit_succ x i)
    rw [htail]
    rcases Nat.mod_two_eq_zero_or_one x with h | h <;> simp [h, Nat.add_comm]

/-- As many numbers from 0 satisfy a test as lie below the first that does not. -/
theorem length_takeWhile_range {p : Nat → Bool} {k n : Nat} (hk : k ≤ n) (hp : ∀ i, i < k → p i = true)
    (hn : k < n → p k = false) : ((List.range n).takeWhile p).length = k := by
  obtain ⟨m, rfl⟩ := Nat.exists_eq_add_of_le hk
  rw [List.range_add, List.takeWhile_append_of_pos fun i hi => hp i (List.mem_range.mp hi), List.length_append, List.length_range]
  cases m with
  | zero => simp
  | succ m => rw [List.range_succ_eq_map, List.map_cons, List.takeWhile_cons, Nat.add_zero, hn (by omega)]; simp

/-- Leading zeros are the digits that a number lacks (R210). -/
theorem leading_eq {n x : Nat} (hx : x < 2 ^ n) : n - bitLen x = leading n x.testBit := by
  symm
  rcases Nat.eq_zero_or_pos x with rfl | hpos
  · exact length_takeWhile_range (Nat.sub_le ..) (fun i _ => by simp) fun h => absurd h (by simp [bitLen])
  · have h0 : x ≠ 0 := by omega
    have hlog : Nat.log2 x < n := (Nat.log2_lt h0).mpr hx
    have hlen : bitLen x = Nat.log2 x + 1 := by rw [bitLen, if_neg h0]
    rw [hlen]
    refine length_takeWhile_range (Nat.sub_le ..) (fun i hi => ?_) fun _ => ?_
    · have hlt : x < 2 ^ (n - 1 - i) := (Nat.log2_lt h0).mp (by omega)
      simp [Nat.testBit_lt_two_pow hlt]
    · have he : n - 1 - (n - (Nat.log2 x + 1)) = Nat.log2 x := by omega
      simp [he, Nat.testBit_log2 h0]

/-- The bits of a number in reverse order. -/
theorem brevNat_eq (n x : Nat) : brevNat n x = bitSum n fun i => x.testBit (n - 1 - i) := by
  induction n generalizing x with
  | zero => rfl
  | succ n ih =>
    have htail : bitSum n (fun i => x.testBit (n - i)) = bitSum n fun i => (x / 2).testBit (n - 1 - i) :=
      bitSum_congr fun i hi => by
        rw [← Nat.testBit_succ]
        congr 1
        omega
    rw [brevNat, ih, bitSum_succ, Nat.add_sub_cancel, htail, Nat.sub_self, Nat.testBit_zero, Nat.mul_comm]
    rcases Nat.mod_two_eq_zero_or_one x with h | h <;> simp [h]

theorem testBit_toNat {w : Nat} (x : BitVec w) : x.toNat.testBit = x.getLsbD := rfl

/-- A one-source instruction that counts bits. -/
theorem count_of {i : Instr} {o : One} {len : Nat} {w64 : Bool} {op : DWord → DWord} {f : (w : Nat) → (Nat → Bool) → Nat}
    (hx : ∀ s, exec i s = runBits1 op o len w64 false s)
    (hf : ∀ x : DWord, x.toNat < 2 ^ wBits w64 → op x = BitVec.ofNat 64 (f (wBits w64) x.toNat.testBit)) : Count i o len w64 f := by
  refine gives_of (some o.a) _ hx fun s c slot g tm id t _ => congrArg Except.ok ?_
  rw [wrReg_eq]
  cases w64 with
  | true => rw [hf _ (BitVec.isLt _), if_neg Bool.false_ne_true, loW_ofNat]; rfl
  | false =>
    have hn : (rdReg false t o.a).toNat = (t.reg o.a.toNat).toNat := toNat_wide _
    rw [hf _ (by rw [hn]; exact (t.reg o.a.toNat).isLt), if_neg Bool.false_ne_true, loW_ofNat, hn]
    rfl

theorem brevOp_pair (a : DWord) : brevOp true a = Say.ofBits 64 fun i => a.getLsbD (63 - i) :=
  congrArg (BitVec.ofNat 64) (brevNat_eq 64 a.toNat)

theorem brevOp_word (a : Word) : loW (brevOp false (a.setWidth 64)) = Say.ofBits 32 fun i => a.getLsbD (31 - i) := by
  rw [brevOp, loW_ofNat, toNat_wide]
  exact congrArg (BitVec.ofNat 32) (brevNat_eq 32 a.toNat)

/-! #### Fields -/

/-- The low bits of an integer that a string of bits denotes are the string's. -/
theorem wrapInt_toInt {w l : Nat} (y : BitVec w) (h : l ≤ w) : wrapInt l y.toInt = y.toNat % 2 ^ l := by
  have hd : ((2 ^ l : Nat) : Int) ∣ ((2 ^ w : Nat) : Int) := Int.natCast_dvd_natCast.mpr (pow_dvd_pow 2 h)
  have hm : y.toInt % ((2 ^ l : Nat) : Int) = (y.toNat : Int) % ((2 ^ l : Nat) : Int) := by
    rw [← Int.emod_emod_of_dvd _ hd, ← Int.emod_emod_of_dvd (y.toNat : Int) hd, BitVec.toInt_eq_toNat_bmod, Int.bmod_emod]
  rw [wrapInt, hm, ← Int.natCast_emod, Int.toNat_natCast]

theorem wrapInt_natCast (l n : Nat) : wrapInt l (n : Int) = n % 2 ^ l := by
  rw [wrapInt, ← Int.natCast_emod, Int.toNat_natCast]

/-- The word that BFX takes its field from the low end of: A shifted down, filled with zeros or with its top bit. -/
def bfxSource (sx : Bool) (a : Word) (p : Nat) : Word := if sx then a.sshiftRight p else a >>> p

theorem getLsbD_bfxSource (sx : Bool) (a : Word) (p : Nat) {i : Nat} (hi : i < 32) :
    (bfxSource sx a p).getLsbD i = if p + i ≤ 31 then a.getLsbD (p + i) else sx && a.getLsbD 31 := by
  have hlt : p + i < 32 ↔ p + i ≤ 31 := Nat.lt_succ_iff
  have hnot : ¬ 32 ≤ i := Nat.not_le_of_lt hi
  unfold bfxSource
  cases sx with
  | true => rw [if_pos rfl, BitVec.getLsbD_sshiftRight]; simp only [hlt, hnot, decide_false, Bool.not_false, Bool.true_and]; rfl
  | false =>
    rw [if_neg Bool.false_ne_true, BitVec.getLsbD_ushiftRight]
    split
    · rfl
    · exact BitVec.getLsbD_of_ge _ _ (by omega)

/-- The field of BFX is the low bits of its source. -/
theorem wrapInt_bfxSource (sx : Bool) (a : Word) (p : Nat) {l : Nat} (hl : l ≤ 32) :
    wrapInt l ((if sx then signed 32 a.toNat else (a.toNat : Int)) / 2 ^ p) = ((bfxSource sx a p).setWidth l).toNat := by
  rw [BitVec.toNat_setWidth]
  cases sx with
  | true =>
    rw [if_pos rfl, signed_toNat, bfxSource, if_pos rfl, ← wrapInt_toInt _ hl, BitVec.toInt_sshiftRight, Int.shiftRight_eq_div_pow]
    push_cast
    rfl
  | false =>
    rw [if_neg Bool.false_ne_true, bfxSource, if_neg Bool.false_ne_true, BitVec.toNat_ushiftRight, Nat.shiftRight_eq_div_pow,
      ← wrapInt_natCast]
    push_cast
    rfl

theorem ofNat_wrapInt (x : Int) : BitVec.ofNat 32 (wrapInt 32 x) = BitVec.ofInt 32 x := by
  apply BitVec.eq_of_toNat_eq
  rw [BitVec.toNat_ofNat, BitVec.toNat_ofInt, wrapInt]
  omega

theorem bfxOp_word (sx : Bool) (a b : Word) : loW (bfxOp sx (a.setWidth 64) (b.setWidth 64)) = Say.bfx sx a b := by
  have hp : (b.extractLsb' 0 8).toNat = b.toNat % 256 := rfl
  have hl : (b.extractLsb' 8 8).toNat = b.toNat / 256 % 256 := by rw [BitVec.extractLsb'_toNat, Nat.shiftRight_eq_div_pow]
  simp only [bfxOp, Say.bfx, toNat_wide, hp, hl]
  generalize b.toNat % 256 = p
  generalize hlen : min (b.toNat / 256 % 256) 32 = l
  have hl32 : l ≤ 32 := hlen ▸ Nat.min_le_right ..
  rw [wrapInt_bfxSource sx a p hl32]
  refine eq_ofBits fun i hi => ?_
  simp only [← getLsbD_bfxSource sx a p hi]
  rcases Nat.eq_zero_or_pos l with rfl | hpos
  · simp [loW]
  · have hlast : (if p + (l - 1) ≤ 31 then a.getLsbD (p + (l - 1)) else sx && a.getLsbD 31) = (bfxSource sx a p).getLsbD (l - 1) :=
      (getLsbD_bfxSource sx a p (by omega)).symm
    rw [if_neg (by omega), hlast]
    cases sx with
    | true =>
      rw [if_pos rfl, loW_ofNat, signed_toNat, ofNat_wrapInt, ← BitVec.signExtend, BitVec.getLsbD_signExtend, BitVec.msb_eq_getLsbD_last,
        BitVec.getLsbD_setWidth, BitVec.getLsbD_setWidth, decide_eq_true hi, decide_eq_true (by omega : l - 1 < l)]
      split
      · next h => simp [h]
      · simp [Nat.pos_iff_ne_zero.mp hpos]
    | false =>
      rw [if_neg Bool.false_ne_true, loW_ofNat, BitVec.ofNat_toNat, BitVec.getLsbD_setWidth, BitVec.getLsbD_setWidth, decide_eq_true hi]
      by_cases h : i < l <;> simp [h]

theorem bfiOp_word (a b c : Word) : loW (bfiOp (a.setWidth 64) (b.setWidth 64) (c.setWidth 64)) = Say.bfi a b c := by
  have hp : (b.extractLsb' 0 8).toNat = b.toNat % 256 := rfl
  have hl : (b.extractLsb' 8 8).toNat = b.toNat / 256 % 256 := by rw [BitVec.extractLsb'_toNat, Nat.shiftRight_eq_div_pow]
  simp only [bfiOp, Say.bfi, toNat_wide, hp, hl]
  generalize b.toNat % 256 = p
  generalize min (b.toNat / 256 % 256) 32 = l
  refine eq_ofBits fun i hi => ?_
  have hm : ((2 ^ l - 1) * 2 ^ p % 2 ^ 32).testBit i = decide (p ≤ i ∧ i < p + l) := by
    rw [Nat.testBit_mod_two_pow, Nat.testBit_mul_two_pow, Nat.testBit_two_pow_sub_one, decide_eq_true hi, Bool.true_and,
      ← Bool.decide_and]
    exact decide_eq_decide.mpr (by omega)
  have hnm : (2 ^ 32 - 1 - (2 ^ l - 1) * 2 ^ p % 2 ^ 32).testBit i = !((2 ^ l - 1) * 2 ^ p % 2 ^ 32).testBit i := by
    rw [Nat.sub_sub, Nat.add_comm 1, Nat.testBit_two_pow_sub_succ (Nat.mod_lt _ (Nat.two_pow_pos 32)), decide_eq_true hi, Bool.true_and]
  rw [loW_ofNat, BitVec.getLsbD_ofNat, decide_eq_true hi, Bool.true_and, Nat.testBit_or, Nat.testBit_and, Nat.testBit_and, hnm, hm,
    Nat.testBit_mul_two_pow, testBit_toNat, testBit_toNat]
  by_cases h : p ≤ i ∧ i < p + l
  · simp [h]
  · simp [h]

/-- Four bytes side by side. -/
theorem testBit_fourBytes {f : Nat → Nat} (hf : ∀ i, f i < 2 ^ 8) {j : Nat} (hj : j < 32) :
    (f 0 * 256 ^ 0 + f 1 * 256 ^ 1 + f 2 * 256 ^ 2 + f 3 * 256 ^ 3).testBit j = (f (j / 8)).testBit (j % 8) := by
  have hsum : f 0 * 256 ^ 0 + f 1 * 256 ^ 1 + f 2 * 256 ^ 2 + f 3 * 256 ^ 3
      = 2 ^ 8 * (2 ^ 8 * (2 ^ 8 * f 3 + f 2) + f 1) + f 0 := by ring
  rw [hsum, Nat.testBit_two_pow_mul_add _ (hf 0), Nat.testBit_two_pow_mul_add _ (hf 1), Nat.testBit_two_pow_mul_add _ (hf 2)]
  have hq : j / 8 < 4 := by omega
  have hr : j % 8 = j - 8 * (j / 8) := by omega
  split
  · rw [show j / 8 = 0 by omega, hr, show j / 8 = 0 by omega]; rfl
  · split
    · rw [show j / 8 = 1 by omega, hr, show j / 8 = 1 by omega]
    · split
      · rw [show j / 8 = 2 by omega, hr, show j / 8 = 2 by omega, Nat.sub_sub]
      · rw [show j / 8 = 3 by omega, hr, show j / 8 = 3 by omega, Nat.sub_sub, Nat.sub_sub]

/-- The bits of a byte of PRMT's result (R211). -/
theorem testBit_prmtByte (a b : Word) (c k : Nat) {j : Nat} (hj : j < 8) :
    (prmtByte a.toNat b.toNat c k).testBit j
      = (b ++ a).getLsbD (c / 16 ^ k % 16 % 8 * 8 + if 8 ≤ c / 16 ^ k % 16 then 7 else j) := by
  have hx : a.toNat + b.toNat * 2 ^ 32 = (b ++ a).toNat := by
    rw [BitVec.toNat_append, ← Nat.shiftLeft_add_eq_or_of_lt a.isLt, Nat.shiftLeft_eq, Nat.add_comm]
  rw [prmtByte, hx]
  generalize c / 16 ^ k % 16 = sel
  have hy (i : Nat) (hi : i < 8) : ((b ++ a).toNat / 256 ^ (sel % 8) % 256).testBit i = (b ++ a).getLsbD (sel % 8 * 8 + i) := by
    rw [show 256 = 2 ^ 8 from rfl, Nat.testBit_mod_two_pow, ← Nat.pow_mul, Nat.testBit_div_two_pow, decide_eq_true hi, Bool.true_and,
      Nat.mul_comm, Nat.add_comm i]
    rfl
  have htop : decide (128 ≤ (b ++ a).toNat / 256 ^ (sel % 8) % 256) = (b ++ a).getLsbD (sel % 8 * 8 + 7) := by
    rw [← hy 7 (by decide), Nat.testBit_eq_decide_div_mod_eq]
    exact decide_eq_decide.mpr (by omega)
  by_cases h : 8 ≤ sel
  · rw [if_pos h, if_pos h, ← htop]
    split
    · next ht => rw [decide_eq_true ht, show 255 = 2 ^ 8 - 1 from rfl, Nat.testBit_two_pow_sub_one, decide_eq_true hj]
    · next ht => rw [decide_eq_false ht, Nat.zero_testBit]
  · rw [if_neg h, if_neg h, hy j hj]

theorem prmtByte_lt (a b c k : Nat) : prmtByte a b c k < 2 ^ 8 := by
  unfold prmtByte
  dsimp only
  split
  · split <;> decide
  · exact Nat.mod_lt _ (by decide)

theorem prmtOp_word (a b c : Word) : loW (prmtOp (a.setWidth 64) (b.setWidth 64) (c.setWidth 64)) = Say.prmt a b c := by
  refine eq_ofBits fun i hi => ?_
  have hsel : (c.extractLsb' (i / 8 * 4) 4).toNat = c.toNat / 16 ^ (i / 8) % 16 := by
    rw [BitVec.extractLsb'_toNat, Nat.shiftRight_eq_div_pow, Nat.mul_comm, Nat.pow_mul]
  rw [prmtOp, loW_ofNat, toNat_wide, toNat_wide, toNat_wide, BitVec.getLsbD_ofNat, decide_eq_true hi, Bool.true_and,
    testBit_fourBytes (prmtByte_lt _ _ _) hi, testBit_prmtByte _ _ _ _ (Nat.mod_lt _ (by decide)), hsel]

/-- Settles O15: counts by the digits they count, fields and permutations bit by bit. -/
theorem bitCountsAndFields : Obligations.BitCountsAndFields := by
  unfold Obligations.BitCountsAndFields
  have hpopc (w : Bool) (x : DWord) (_ : x.toNat < 2 ^ wBits w) : popcOp w x = BitVec.ofNat 64 (ones (wBits w) x.toNat.testBit) :=
    congrArg _ (popCount_eq ..)
  have hclz (w : Bool) (x : DWord) (hx : x.toNat < 2 ^ wBits w) : clzOf (wBits w) x = BitVec.ofNat 64 (leading (wBits w) x.toNat.testBit) :=
    congrArg _ (leading_eq hx)
  have hctz (w : Bool) (x : DWord) (_ : x.toNat < 2 ^ wBits w) : ctzOp w x = BitVec.ofNat 64 (trailing (wBits w) x.toNat.testBit) :=
    congrArg _ (ctzNat_eq ..)
  refine ⟨⟨fun _ w => count_of (fun _ => rfl) (hpopc w), fun _ w => count_of (fun _ => rfl) (hclz w),
    fun _ w => count_of (fun _ => rfl) (hctz w), fun o w => ?brev, fun _ => count_of (fun _ => rfl) (hpopc false),
    fun _ => count_of (fun _ => rfl) (hclz false), fun _ => count_of (fun _ => rfl) (hctz false), fun c => ?brevC⟩,
    fun o sx => ?bfx, fun _ => bits3_of (fun _ => rfl) bfiOp_word, fun _ => bits3_of (fun _ => rfl) prmtOp_word⟩
  case brev =>
    exact bits1_of (op := brevOp w) (f := fun a => Say.ofBits 32 fun i => a.getLsbD (31 - i))
      (g := fun a => Say.ofBits 64 fun i => a.getLsbD (63 - i)) (fun _ => rfl) (fun h => h ▸ brevOp_word) fun h => h ▸ brevOp_pair
  case brevC =>
    exact bits1_of (w64 := false) (op := brevOp false) (f := fun a => Say.ofBits 32 fun i => a.getLsbD (31 - i)) (g := id)
      (fun _ => rfl) (fun _ => brevOp_word) fun h => absurd h Bool.false_ne_true
  case bfx => exact lenB_eq o.b ▸ bits2_of (fun _ => rfl) id (fun _ => bfxOp_word sx) fun h => absurd h Bool.false_ne_true

end Sys2Proof.Machine
end

section
/-! ### The vector ALU's moves and predicate instructions (R212) -/

namespace Sys2Proof.Machine

open Sys2Proof.Say

theorem loW_litWide (e : LitExt) (w : Word) : loW (litWide e w) = w := by
  cases e with
  | zero => exact loW_wide w
  | sign =>
    refine BitVec.eq_of_getLsbD_eq fun i hi => ?_
    rw [getLsbD_loW, litWide, BitVec.getLsbD_signExtend, if_pos hi, decide_eq_true hi, decide_eq_true (by omega : i < 64)]
    rfl

theorem hiW_litWide_zero (w : Word) : hiW (litWide .zero w) = 0 := by
  apply BitVec.eq_of_toNat_eq
  have := w.isLt
  simp [hiW, litWide, Nat.shiftRight_eq_div_pow]
  omega

theorem hiW_litWide_sign (w : Word) : hiW (litWide .sign w) = if w.msb then 0xFFFFFFFF else 0 := by
  refine BitVec.eq_of_getLsbD_eq fun i hi => ?_
  have hones : (if w.msb then 0xFFFFFFFF else 0 : Word).getLsbD i = w.msb := by
    cases w.msb with
    | false => exact BitVec.getLsbD_zero
    | true => exact (BitVec.getLsbD_allOnes (v := 32) (i := i)).trans (decide_eq_true hi)
  rw [hones, hiW, BitVec.getLsbD_setWidth, BitVec.getLsbD_ushiftRight, litWide, BitVec.getLsbD_signExtend, if_neg (by omega),
    decide_eq_true hi, decide_eq_true (by omega : 32 + i < 64)]
  rfl

theorem shiftLeft_eq_mul_pow {w : Nat} (x : BitVec w) (n : Nat) : x <<< n = x * 2 ^ n := by
  induction n with
  | zero => simp
  | succ n ih =>
    have h2 : BitVec.twoPow w 1 = 2 := BitVec.eq_of_toNat_eq (by simp [BitVec.toNat_twoPow])
    rw [BitVec.shiftLeft_add, ih, BitVec.shiftLeft_eq_mul_twoPow, h2, BitVec.mul_assoc, BitVec.pow_succ]

/-- LEA on words (R212). -/
theorem loW_lea (a : Word) (i : DWord) (n : Nat) : loW (a.setWidth 64 + i <<< n) = a + loW i * 2 ^ n := by
  rw [loW, BitVec.setWidth_add _ _ (by decide), BitVec.setWidth_shiftLeft_of_le (by decide), shiftLeft_eq_mul_pow]
  exact congrArg (· + _) (loW_wide a)

/-- The predicates with p7 set, bit by bit (R212). -/
theorem p2v_bits (p : BitVec 8) : (p ||| 0x80).setWidth 32 = Say.ofBits 32 fun i => i == 7 || (i < 7 && p.getLsbD i) := by
  refine eq_ofBits fun i hi => ?_
  have h7 : (0x80 : BitVec 8).getLsbD i = decide (7 = i) := BitVec.getLsbD_twoPow (w := 8) 7 i
  rw [BitVec.getLsbD_setWidth, BitVec.getLsbD_or, h7, decide_eq_true hi, Bool.true_and, Bool.or_comm]
  rcases Nat.lt_trichotomy i 7 with h | rfl | h
  · simp [h, Nat.ne_of_lt h, Nat.ne_of_gt h]
  · simp
  · simp [Nat.not_lt_of_gt h, Nat.ne_of_gt h, Nat.ne_of_lt h, BitVec.getLsbD_of_ge p i h]

theorem wide_and_ne (a b : Word) : ((a.setWidth 64 : DWord) &&& b.setWidth 64 != 0) = (a &&& b != 0) := by
  have h0 (x : Word) : (x.setWidth 64 : DWord) = 0 ↔ x = 0 :=
    ⟨fun h => by rw [← loW_wide x, h]; rfl, fun h => by rw [h]; rfl⟩
  rw [← BitVec.setWidth_and, Bool.eq_iff_iff, bne_iff_ne, bne_iff_ne, Ne, h0]

/-- Settles O16: each instruction by its own results; predicates are read and written bit by bit. -/
theorem movesAndPredicates : Obligations.MovesAndPredicates := by
  unfold Obligations.MovesAndPredicates
  refine ⟨?mov, ?movC, ?movl32, ?movlI64, ?movlN64, ?sel, ?lea, ?pset, ?plop, ?p2v, ?v2p⟩
  case mov => exact fun o w => gives_of (some o.a) _ (fun _ => rfl) fun _ _ _ _ _ _ _ _ => rfl
  case movC => exact fun c => gives_of (some (one c).a) _ (fun _ => rfl) fun _ _ _ _ _ _ _ _ => rfl
  case movl32 => exact fun h d lit => gives_of none _ (fun _ => rfl) fun _ _ _ _ _ _ _ _ => rfl
  case movlI64 =>
    refine fun h d lit => gives_of none _ (fun _ => rfl) fun _ _ _ _ _ _ _ _ => congrArg Except.ok ?_
    rw [← hiW_litWide_sign]
    simp only [wr64, loW_litWide]
  case movlN64 =>
    refine fun h d lit => gives_of none _ (fun _ => rfl) fun _ _ _ _ _ _ _ _ => congrArg Except.ok ?_
    rw [← hiW_litWide_zero lit]
    simp only [wr64, loW_litWide]
  case sel =>
    intro o p neg w
    rw [← lenB_eq]
    refine gives_of (some o.a) _ (fun _ => rfl) fun s c slot g tm id t _ => congrArg Except.ok ?_
    rw [wrReg_eq]
    cases w with
    | true => rfl
    | false => exact congrArg (fun x => ({ regs := [(o.d.toNat, x)] } : Eff)) ((apply_ite loW ..).trans (by simp [rdReg, rdSrc]))
  case lea =>
    intro o sh w zx
    rw [← lenB_eq]
    refine gives_of (some o.a) _ (fun _ => rfl) fun s c slot g tm id t _ => congrArg Except.ok ?_
    rw [wrReg_eq]
    cases w with
    | true => rw [shiftLeft_eq_mul_pow]; rfl
    | false =>
      have hi : loW (if zx then (bVal tm t o.b).setWidth 64 else (bVal tm t o.b).signExtend 64) = bVal tm t o.b := by
        cases zx with
        | true => exact loW_litWide .zero _
        | false => exact loW_litWide .sign _
      exact congrArg (fun x => ({ regs := [(o.d.toNat, x)] } : Eff)) ((loW_lea ..).trans (by rw [hi]))
  case pset =>
    intro o z w
    rw [← lenB_eq]
    refine gives_of (some o.a) _ (fun _ => rfl) fun s c slot g tm id t _ => congrArg Except.ok ?_
    cases w with
    | true => rfl
    | false => exact congrArg (fun x => ({ preds := [(o.d.toNat % 8, x != z)] } : Eff)) (wide_and_ne ..)
  case plop =>
    refine fun h d a b lut => gives_of none _ (fun _ => rfl) fun s c slot g tm id t _ => congrArg Except.ok ?_
    cases t.pred a.toNat <;> cases t.pred b.toNat <;> rfl
  case p2v =>
    refine fun h d e => gives_of none _ (fun _ => rfl) fun s c slot g tm id t _ => congrArg Except.ok ?_
    rw [p2v_bits]
  case v2p => exact fun h a mask e => gives_of (some a) _ (fun _ => rfl) fun _ _ _ _ _ _ _ _ => rfl

end Sys2Proof.Machine
end

section
/-! ### The vector ALU's floating-point instructions and packed pairs (R213 to R219) -/

namespace Sys2Proof.Machine

open Sys2Proof.Say

/-! #### Operands, draws and results -/

theorem curKey_eq {s : State} {c slot : Nat} {g : Group} {tm : Team} (h : s.curGroup = some (c, slot, g, tm)) :
    s.curKey = (s.ctx tm.ctx).rngkey := by rw [State.curKey, h]

theorem draw_curKey {s : State} {c slot : Nat} {g : Group} {tm : Team} (h : s.curGroup = some (c, slot, g, tm)) (t : Thread)
    (tid n : Nat) : t.draw s.curKey tid n = Say.draw s tm tid t n := by rw [curKey_eq h]; rfl

theorem drawsOf_eq (m : RMode) (n : Nat) : drawsOf m n = if m = .sr then n else 0 := by cases m <;> rfl

/-- A result's registers hold its code. -/
theorem wrReg_ofNat (w64 : Bool) (d : VReg) (n : Nat) :
    wrReg w64 d (BitVec.ofNat 64 n) = if w64 then wr64 d.toNat (BitVec.ofNat 64 n) else [(d.toNat, BitVec.ofNat 32 n)] := by
  rw [wrReg_eq, loW_ofNat]

theorem fpEff_eq (f : Fmt) (w64 : Bool) (t : Thread) (rm : RoundCode) (d : VReg) (r : FRes) :
    fpEff f w64 t (t.mode rm) d r = rounded f w64 t rm d r := by simp only [fpEff, rounded, wrReg_ofNat, drawsOf_eq]

theorem rdF_word (t : Thread) (r : VReg) : rdF false t r = (t.reg r.toNat).toNat := toNat_wide _

theorem rdFB_pair (tm : Team) (t : Thread) (b : SrcB) : rdFB true tm t b = wideB tm t b := by cases b <;> rfl

/-- A rounded FP32 instruction of two sources. -/
theorem fp32x2_of {i : Instr} {o : Two} {len : Nat} {m : FRm} {op : Fmt → RMode → Nat → FVal → FVal → FRes}
    (hx : ∀ s, exec i s = runF2 false op o len m s) : Fp32x2 i o len m op :=
  gives_of (some o.a) _ hx fun s c slot g tm id t hg => congrArg Except.ok (by
    rw [fpEff_eq, draw_curKey hg, rdF_word]
    rfl)

theorem fp64x2_of {i : Instr} {o : Two} {m : FRm} {op : Fmt → RMode → Nat → FVal → FVal → FRes}
    (hx : ∀ s, exec i s = runF2 true op o (lenB o.b) m s) : Fp64x2 i o m op := by
  unfold Fp64x2
  rw [← lenB_eq]
  exact gives_of (some o.a) _ hx fun s c slot g tm id t hg => congrArg Except.ok (by
    rw [fpEff_eq, draw_curKey hg, rdFB_pair]
    rfl)

theorem toNat_rdExt_word (tm : Team) (t : Thread) (b : ExtB) : (rdExt false tm t b).toNat = (xVal tm t b).toNat := toNat_wide _

/-- Settles O17: each instruction rounds the exact value of its prepared operands once. -/
theorem floatArithmetic : Obligations.FloatArithmetic := by
  unfold Obligations.FloatArithmetic
  refine ⟨fun o m => lenB_eq o.b ▸ fp32x2_of fun _ => rfl, fun o m => lenB_eq o.b ▸ fp32x2_of fun _ => rfl,
    fun _ => fp32x2_of fun _ => rfl, fun _ => fp32x2_of fun _ => rfl, fun _ _ => fp64x2_of fun _ => rfl,
    fun _ _ => fp64x2_of fun _ => rfl, ?ffma, ?dfma⟩
  case ffma =>
    refine fun o m k => gives_of (some o.a) _ (fun _ => rfl) fun s c slot g tm id t hg => congrArg Except.ok ?_
    rw [fpEff_eq, draw_curKey hg, rdF_word, rdF_word, toNat_rdExt_word]
    rfl
  case dfma =>
    refine fun o m k => gives_of (some o.a) _ (fun _ => rfl) fun s c slot g tm id t hg => congrArg Except.ok ?_
    rw [fpEff_eq, draw_curKey hg]
    rfl

/-- FMIN or FMAX on FP32, from the operands' codes prepared. -/
theorem pick32_of {i : Instr} {o : Two} {len : Nat} {m : FMods} {mx : Bool} (hx : ∀ s, exec i s = runFMinMax false mx o len m s) :
    Pick32 i o len m mx :=
  gives_of (some o.a) _ hx fun s c slot g tm id t _ => congrArg Except.ok (by
    rw [wrReg_ofNat, rdF_word]
    rfl)

/-- DMIN or DMAX. -/
theorem pick64_of {i : Instr} {o : Two} {m : FMods} {mx : Bool} (hx : ∀ s, exec i s = runFMinMax true mx o (lenB o.b) m s) :
    Gives i o.h (lenOfB o.b) false (twoOps o 2 2 2) fun _ _ tm _ t =>
      let r := minMaxF fp64 mx (prepCode fp64 t m.aa m.na (t.reg64 o.a.toNat).toNat) (prepCode fp64 t m.ab m.nb (wideB tm t o.b))
      { regs := wr64 o.d.toNat (BitVec.ofNat 64 r.code), flags := r.fl } := by
  rw [← lenB_eq]
  exact gives_of (some o.a) _ hx fun s c slot g tm id t _ => congrArg Except.ok (by
    rw [rdFB_pair]
    rfl)

theorem frnd_of {i : Instr} {o : One} {len : Nat} {rm : RoundCode} (hx : ∀ s, exec i s = runFrnd o len rm s) :
    Gives i o.h len false [vW o.d, vR o.a] fun _ s tm tid t =>
      rounded fp32 false t rm o.d
        (frndVal fp32 (t.mode rm) (draw s tm tid t 0) (prepCode fp32 t false false (t.reg o.a.toNat).toNat)) :=
  gives_of (some o.a) _ hx fun s c slot g tm id t hg => congrArg Except.ok (by
    rw [fpEff_eq, draw_curKey hg, rdF_word]
    rfl)

theorem fscale_of {i : Instr} {o : Two} {len : Nat} {rm : RoundCode} {na aa : Bool}
    (hx : ∀ s, exec i s = runFscale o len rm na aa s) :
    Gives i o.h len false (twoOps o 1 1 1) fun _ s tm tid t =>
      rounded fp32 false t rm o.d (cvtVal fp32 (t.mode rm) false (draw s tm tid t 0)
        (scaleVal (prep fp32 t aa na (t.reg o.a.toNat).toNat) (max (-1024) (min 1024 (bVal tm t o.b).toInt)))) :=
  gives_of (some o.a) _ hx fun s c slot g tm id t hg => congrArg Except.ok (by
    rw [fpEff_eq, draw_curKey hg, rdF_word]
    rfl)

/-- Settles O18: each instruction by its operation on prepared operands. -/
theorem floatOrderAndForm : Obligations.FloatOrderAndForm := by
  unfold Obligations.FloatOrderAndForm
  refine ⟨fun o m => lenB_eq o.b ▸ pick32_of fun _ => rfl, fun o m => lenB_eq o.b ▸ pick32_of fun _ => rfl,
    fun _ => pick32_of fun _ => rfl, fun _ => pick32_of fun _ => rfl, fun _ _ => pick64_of fun _ => rfl,
    fun _ _ => pick64_of fun _ => rfl, ?fcmp, ?dcmp, ?fclass, fun _ _ => frnd_of fun _ => rfl, fun _ => frnd_of fun _ => rfl,
    fun o rm na aa => lenB_eq o.b ▸ fscale_of fun _ => rfl, fun _ => fscale_of fun _ => rfl, ?ffrexp⟩
  case fcmp =>
    intro o cc m
    rw [← lenB_eq]
    exact gives_of (some o.a) _ (fun _ => rfl) fun s c slot g tm id t _ => congrArg Except.ok (by
      rw [rdF_word]
      rfl)
  case dcmp =>
    intro o cc m
    rw [← lenB_eq]
    exact gives_of (some o.a) _ (fun _ => rfl) fun s c slot g tm id t _ => congrArg Except.ok (by
      rw [rdFB_pair]
      rfl)
  case fclass => exact fun o => gives_of (some o.a) _ (fun _ => rfl) fun _ _ _ _ _ _ _ _ => rfl
  case ffrexp =>
    refine fun o e => gives_of (some o.a) _ (fun _ => rfl) fun s c slot g tm id t _ => congrArg Except.ok ?_
    rw [rdF_word]
    cases e <;> rfl

/-! #### Packed pairs (R219) -/

theorem elem16_eq (f : Fmt) (t : Thread) (ng : Bool) (w : Word) (i : Nat) : elem16 f t ng w i = half f t ng w i := by
  rw [elem16, half, bits, BitVec.extractLsb'_toNat, show 16 * i + 15 + 1 - 16 * i = 16 by omega]
  rfl

theorem pairEff_eq (f : Fmt) (t : Thread) (d : VReg) (n : Nat) (r0 r1 : FRes) :
    pairEff f t d n true r0 r1 = packed d n (flushRes f (t.fz f) r0) (flushRes f (t.fz f) r1) := by
  simp only [pairEff, packed, if_true, Nat.mul_comm 65536]

theorem half2_of {i : Instr} {o : Two} {len : Nat} {bf : Bool} {rm : RoundCode} {na nb : Bool}
    {op : Fmt → RMode → Nat → FVal → FVal → FRes} (hx : ∀ s, exec i s = runH2 op o len bf rm na nb s) :
    Half2 i o len bf rm na nb op :=
  gives_of (some o.a) _ hx fun s c slot g tm id t hg => congrArg Except.ok (by
    simp only [pairEff_eq, elem16_eq, draw_curKey hg, drawsOf_eq]
    rfl)

theorem halfPick_of {i : Instr} {o : Two} {len : Nat} {bf na nb mx : Bool} (hx : ∀ s, exec i s = runHMinMax mx o len bf na nb s) :
    HalfPick i o len bf na nb mx :=
  gives_of (some o.a) _ hx fun s c slot g tm id t _ => congrArg Except.ok (by
    simp only [pairEff, packed, elem16_eq, Nat.mul_comm 65536]
    rfl)

/-- Settles O19: each instruction computes on the two elements apart. -/
theorem packedPairs : Obligations.PackedPairs := by
  unfold Obligations.PackedPairs
  refine ⟨fun o _ _ _ _ => lenB_eq o.b ▸ half2_of fun _ => rfl, fun o _ _ _ _ => lenB_eq o.b ▸ half2_of fun _ => rfl, ?hfma2,
    fun o _ _ _ => lenB_eq o.b ▸ halfPick_of fun _ => rfl, fun o _ _ _ => lenB_eq o.b ▸ halfPick_of fun _ => rfl,
    fun _ => half2_of fun _ => rfl, fun _ => half2_of fun _ => rfl, fun _ => half2_of fun _ => rfl, fun _ => half2_of fun _ => rfl,
    fun _ => halfPick_of fun _ => rfl, fun _ => halfPick_of fun _ => rfl, fun _ => halfPick_of fun _ => rfl,
    fun _ => halfPick_of fun _ => rfl⟩
  case hfma2 =>
    refine fun o bf rm na nb nc => gives_of (some o.a) _ (fun _ => rfl) fun s c slot g tm id t hg => congrArg Except.ok ?_
    simp only [pairEff_eq, elem16_eq, draw_curKey hg, drawsOf_eq]
    rfl

end Sys2Proof.Machine
end

section
/-! ### The vector ALU's conversions (R222 to R225) -/

namespace Sys2Proof.Machine

open Sys2Proof.Say

/-! #### Integers and floating point (R222, R223) -/

theorem rdName_eq (n : FName) (t : Thread) (r : VReg) :
    rdName n t r = if n.w64 then (t.reg64 r.toNat).toNat
      else if n = .f32 then (t.reg r.toNat).toNat else ((t.reg r.toNat).setWidth 16).toNat := by
  cases n with
  | f32 | f64 => rfl
  | f16 | bf16 => exact (BitVec.toNat_setWidth 16 (t.reg r.toNat)).symm

theorem signedTy_eq (ty : IntTy) : signedTy ty = decide (ty = .i32 ∨ ty = .i64) := by cases ty <;> rfl

theorem cvti_of {i : Instr} {o : One} {len : Nat} {n : FName} {ty : IntTy} {rm : RoundCode} {x : Thread → FVal}
    (hx : ∀ s, exec i s = runCvti o len n ty rm s)
    (hv : ∀ t, decodeF (nameFmt n) (flushIn (nameFmt n) (t.fz (nameFmt n)) (rdName n t o.a)) = x t) :
    Gives i o.h len false [vW o.d (nr ty.w64), vR o.a (nr n.w64)] fun _ s tm tid t =>
      let r := cvtInt (if ty.w64 then 64 else 32) (decide (ty = .i32 ∨ ty = .i64)) (t.mode rm) (draw s tm tid t 0) (x t)
      { regs := if ty.w64 then wr64 o.d.toNat (BitVec.ofNat 64 r.code) else [(o.d.toNat, BitVec.ofNat 32 r.code)]
        flags := r.fl, draws := if t.mode rm = .sr then 1 else 0 } :=
  gives_of (some o.a) _ hx fun s c slot g tm id t hg => congrArg Except.ok (by
    simp only [hv, wrReg_ofNat, draw_curKey hg, drawsOf_eq, signedTy_eq, wBits])

theorem cvtf_of {i : Instr} {o : One} {len : Nat} {src : CvtSrc} {n : FName} {rm : RoundCode} {x : Thread → FVal}
    (hx : ∀ s, exec i s = runCvtf o len src n rm s) (hv : ∀ t, cvtfSrc src t o.a = x t) :
    Gives i o.h len false [vW o.d (nr n.w64), vR o.a (nr src.w64)] fun _ s tm tid t =>
      rounded (nameFmt n) n.w64 t rm o.d (cvtVal (nameFmt n) (t.mode rm) false (draw s tm tid t 0) (x t)) :=
  gives_of (some o.a) _ hx fun s c slot g tm id t hg => congrArg Except.ok (by
    rw [fpEff_eq, draw_curKey hg, hv])

/-! #### Packed codes (R224, R225) -/

/-- The codes and the conditions of packed results, element by element (R102). -/
theorem packRes_codes (w n : Nat) (r : Nat → FRes) :
    (packRes w ((List.range n).map r)).1 = ((List.range n).map fun i => 2 ^ (w * i) * (r i).code).sum := by
  induction n generalizing r with
  | zero => rfl
  | succ n ih =>
    rw [List.range_succ_eq_map, List.map_cons, List.map_map, List.map_cons, List.map_map, List.sum_cons]
    have htail : ((List.range n).map ((fun i => 2 ^ (w * i) * (r i).code) ∘ Nat.succ)).sum
        = ((List.range n).map fun i => 2 ^ (w * i) * (r (i + 1)).code).sum * 2 ^ w := by
      rw [← List.sum_map_mul_right]
      refine congrArg List.sum (List.map_congr_left fun i _ => ?_)
      simp only [Function.comp_apply, Nat.succ_eq_add_one, Nat.mul_add, Nat.pow_add, Nat.mul_one]
      ring
    rw [htail, ← ih fun i => r (i + 1)]
    simp [packRes, Function.comp_def]

theorem packRes_flags (w n : Nat) (r : Nat → FRes) :
    (packRes w ((List.range n).map r)).2 = (List.range n).foldr (fun i f => (r i).fl ||| f) 0 := by
  have h (l : List FRes) : (packRes w l).2 = l.foldr (fun x f => x.fl ||| f) 0 := by
    induction l with
    | nil => rfl
    | cons x l ih => exact congrArg (x.fl ||| ·) ih
  rw [h, List.foldr_map]

theorem toNat_low8 (x : Word) : x.toNat % 256 = (x.setWidth 8).toNat := (BitVec.toNat_setWidth 8 x).symm

theorem bits_field (x : Word) (i : Nat) {w : Nat} (hw : 0 < w) :
    bits x.toNat (w * i + w - 1) (w * i) = (x.extractLsb' (w * i) w).toNat := by
  rw [bits, BitVec.extractLsb'_toNat, show w * i + w - 1 + 1 - w * i = w by omega]

/-- What an instruction gives, its effect said in other words. -/
theorem gives_congr {i : Instr} {h : Hdr} {len : Nat} {long : Bool} {vs : List VOp}
    {e e' : Nat → State → Team → Nat → Thread → Eff}
    (hg : Gives i h len long vs e) (he : ∀ c s tm tid t, e c s tm tid t = e' c s tm tid t) : Gives i h len long vs e' := by
  have : e = e' := by
    funext c s tm tid t
    exact he c s tm tid t
  exact this ▸ hg

theorem sum_range_four (f : Nat → Nat) : ((List.range 4).map f).sum = f 0 + f 1 + f 2 + f 3 := by simp [List.range_succ, Nat.add_assoc]

theorem or_range_four (f : Nat → Conds) : (List.range 4).foldr (fun i x => f i ||| x) 0#6 = f 0 ||| f 1 ||| f 2 ||| f 3 := by
  simp [List.range_succ, BitVec.or_assoc]

/-- The registers of CVTP's widened elements (R225). -/
theorem wideRegs_eq (d n : Nat) (r : Nat → FRes) :
    ((List.range n).map fun i => (d + i, BitVec.ofNat 32 ((((List.range n).map r).getD i ⟨0, 0⟩).code)))
      = (List.range n).map fun i => (d + i, BitVec.ofNat 32 (r i).code) :=
  List.map_congr_left fun i hi => by simp [List.mem_range.mp hi]

/-- Settles O20: conversions to and from integers by their source, packed codes and widened values element by element. -/
theorem allConversions : Obligations.AllConversions := by
  unfold Obligations.AllConversions
  refine ⟨?numbers, ?packed⟩
  case numbers =>
    intro src toInt toFp exact_
    have hsrc (n : FName) (t : Thread) (r : VReg) :
        decodeF (nameFmt n) (flushIn (nameFmt n) (t.fz (nameFmt n)) (rdName n t r)) = src n t r := by rw [rdName_eq]
    have hi32 (t : Thread) (r : VReg) : intOf .i32 (rdReg false t r) = (t.reg r.toNat).toInt := intOf_rdReg .i32 t r
    have hn32 (t : Thread) (r : VReg) : intOf .n32 (rdReg false t r) = (t.reg r.toNat).toNat := intOf_rdReg .n32 t r
    exact ⟨fun o n ty rm => cvti_of (fun _ => rfl) fun t => hsrc n t o.a, fun c => cvti_of (fun _ => rfl) fun t => hsrc .f32 t (one c).a,
      fun c => cvti_of (fun _ => rfl) fun t => hsrc .f32 t (one c).a,
      fun o n rm => cvtf_of (fun _ => rfl) fun t => congrArg intVal (hi32 t o.a),
      fun o n rm => cvtf_of (fun _ => rfl) fun t => congrArg intVal (hn32 t o.a), fun o n rm => cvtf_of (fun _ => rfl) fun t => rfl,
      fun o n rm => cvtf_of (fun _ => rfl) fun t => rfl, fun o n rm => cvtf_of (fun _ => rfl) fun t => hsrc .f32 t o.a,
      fun o n rm => cvtf_of (fun _ => rfl) fun t => hsrc .f64 t o.a, fun o n rm => cvtf_of (fun _ => rfl) fun t => hsrc .f16 t o.a,
      fun o n rm => cvtf_of (fun _ => rfl) fun t => hsrc .bf16 t o.a,
      fun c => cvtf_of (fun _ => rfl) fun t => congrArg intVal (hi32 t (one c).a),
      fun c => cvtf_of (fun _ => rfl) fun t => congrArg intVal (hn32 t (one c).a)⟩
  case packed =>
    intro elem
    have hcvtq (o : Two) (q : QFmt) (sat : Bool) (rm : RoundCode) :
        Gives (.cvtq o q sat rm) o.h (lenOfB o.b) true (twoOps o 1 (qCount q) 1) fun _ s tm tid t =>
          let r := elem (qFmt q) sat s tm tid t o rm
          { regs := [(o.d.toNat, BitVec.ofNat 32 ((List.range (qCount q)).map fun i => 2 ^ (32 / qCount q * i) * (r i).code).sum)]
            flags := (List.range (qCount q)).foldr (fun i f => (r i).fl ||| f) 0
            draws := if t.mode rm = .sr then qCount q else 0 } := by
      rw [← lenB_eq]
      refine gives_of (some o.a) _ (fun _ => rfl) fun s c slot g tm id t hg => congrArg Except.ok ?_
      simp only [upTo, packRes_codes, packRes_flags, draw_curKey hg, drawsOf_eq, toNat_low8]
      rfl
    refine ⟨?fp8, fun o sat rm => hcvtq o .e2m1 sat rm, ?wide, ?pack, ?exactWide⟩
    case fp8 =>
      rintro o q sat rm (rfl | rfl)
      · exact gives_congr (hcvtq o .e4m3 sat rm) fun c s tm tid t => by simp [qCount, qFmt, sum_range_four, or_range_four]
      · exact gives_congr (hcvtq o .e5m2 sat rm) fun c s tm tid t => by simp [qCount, qFmt, sum_range_four, or_range_four]
    case wide =>
      intro o op n f w rm hop
      have hw : 0 < w ∧ vW o.d n :: vR o.a :: srcOps o.b = vW o.d (cvtpDst op) :: vR o.a 1 :: (if op.usesB then srcOps o.b 1 else [])
          ∧ ∀ mode key tm tid t, cvtpEff op o mode key tm tid t =
            let rs := (upTo n).map fun i =>
              wideElem f t ((bVal tm t o.b).toNat % 256) (bits (t.reg o.a.toNat).toNat (w * i + w - 1) (w * i))
            { regs := (upTo n).map fun i => (o.d.toNat + i, BitVec.ofNat 32 ((rs.getD i ⟨0, 0⟩).code))
              flags := (packRes 0 rs).2 } := by
        simp only [List.mem_cons, Prod.mk.injEq, List.not_mem_nil, or_false] at hop
        rcases hop with ⟨rfl, rfl, rfl, rfl⟩ | ⟨rfl, rfl, rfl, rfl⟩ | ⟨rfl, rfl, rfl, rfl⟩ <;>
          exact ⟨by decide, rfl, fun _ _ _ _ _ => rfl⟩
      obtain ⟨hpos, hops, heff⟩ := hw
      rw [← lenB_eq, hops]
      refine gives_of (some o.a) _ (fun _ => rfl) fun s c slot g tm id t hg => congrArg Except.ok ?_
      simp only [heff, upTo, wideRegs_eq, packRes_flags, toNat_low8, bits_field _ _ hpos]
    case pack =>
      intro o op f rm hop
      have hw : vW o.d :: vR o.a :: srcOps o.b = vW o.d (cvtpDst op) :: vR o.a 1 :: (if op.usesB then srcOps o.b 1 else [])
          ∧ ∀ mode key tm tid t, cvtpEff op o mode key tm tid t =
            let r (i : Nat) (x : Word) : FRes := cvtVal f mode false (t.draw key tid i) (decodeF fp32 (flushIn fp32 t.fz32 x.toNat))
            pairEff f t o.d (drawsOf mode 2) true (r 0 (t.reg o.a.toNat)) (r 1 (bVal tm t o.b)) := by
        simp only [List.mem_cons, Prod.mk.injEq, List.not_mem_nil, or_false] at hop
        rcases hop with ⟨rfl, rfl⟩ | ⟨rfl, rfl⟩ <;> exact ⟨rfl, fun _ _ _ _ _ => rfl⟩
      obtain ⟨hops, heff⟩ := hw
      rw [← lenB_eq, hops]
      refine gives_of (some o.a) _ (fun _ => rfl) fun s c slot g tm id t hg => congrArg Except.ok ?_
      simp only [heff, pairEff_eq, draw_curKey hg, drawsOf_eq]
    case exactWide =>
      intro o op f rm hop
      have hw : vW o.d 2 :: vR o.a :: [] = vW o.d (cvtpDst op) :: vR o.a 1 :: (if op.usesB then srcOps o.b 1 else [])
          ∧ ∀ mode key tm tid t, cvtpEff op o mode key tm tid t =
            let r (i : Nat) : FRes := flushRes fp32 t.fz32
              (cvtVal fp32 .rn false 0 (decodeF f (flushIn f (t.fz f) (bits (t.reg o.a.toNat).toNat (16 * i + 16 - 1) (16 * i)))))
            { regs := [(o.d.toNat, BitVec.ofNat 32 (r 0).code), (o.d.toNat + 1, BitVec.ofNat 32 (r 1).code)]
              flags := (r 0).fl ||| (r 1).fl } := by
        simp only [List.mem_cons, Prod.mk.injEq, List.not_mem_nil, or_false] at hop
        rcases hop with ⟨rfl, rfl⟩ | ⟨rfl, rfl⟩ <;> exact ⟨rfl, fun _ _ _ _ _ => rfl⟩
      obtain ⟨hops, heff⟩ := hw
      rw [← lenB_eq, hops]
      refine gives_of (some o.a) _ (fun _ => rfl) fun s c slot g tm id t hg => congrArg Except.ok ?_
      simp only [heff, bits_field _ _ (by decide : 0 < 16)]

end Sys2Proof.Machine
end

section
/-! ### Special functions, HASH, CRC32C, RAND and SPACK (R220, R221, R226 to R229) -/

namespace Sys2Proof.Machine

open Sys2Proof.Say

/-- A code whose sign is neither cleared nor inverted is as it was. -/
theorem prepSign_keeps (f : Fmt) {x : Nat} (hx : x < 2 ^ (f.eb + f.fb + 1)) : prepSign f false false x = x := by
  rw [Nat.pow_succ] at hx
  have hsplit := Nat.div_add_mod x (2 ^ (f.eb + f.fb))
  have hdiv : x / 2 ^ (f.eb + f.fb) < 2 := (Nat.div_lt_iff_lt_mul (Nat.two_pow_pos _)).mpr (by omega)
  have hsign : signBit f (bitOf x (f.eb + f.fb)) = 2 ^ (f.eb + f.fb) * (x / 2 ^ (f.eb + f.fb)) := by
    rw [signBit, bitOf, Nat.testBit_eq_decide_div_mod_eq, Nat.mod_eq_of_lt hdiv]
    rcases Nat.le_one_iff_eq_zero_or_eq_one.mp (Nat.lt_succ_iff.mp hdiv) with h | h <;> simp [h]
  simp only [prepSign, Bool.false_eq_true, if_false, Bool.bne_false, hsign]
  rw [Nat.add_comm]
  exact hsplit

theorem flushIn_le (f : Fmt) (fz : Bool) (x : Nat) : flushIn f fz x ≤ x := by
  unfold flushIn
  dsimp only
  split
  · exact Nat.sub_le ..
  · exact Nat.le_refl x

theorem special_of {i : Instr} {o : One} {fn : FVal → FRes} (hx : ∀ s, exec i s = runSpecial fn o s) : Special i o fn :=
  gives_of (some o.a) _ hx fun s c slot g tm id t _ => congrArg Except.ok (by
    have hprep : prepF fp32 t false false (t.reg o.a.toNat).toNat = flushIn fp32 t.fz32 (t.reg o.a.toNat).toNat :=
      prepSign_keeps fp32 (Nat.lt_of_le_of_lt (flushIn_le ..) (t.reg o.a.toNat).isLt)
    rw [rdF_word, hprep]
    simp only [fpEff, wrReg_ofNat]
    rfl)

/-- One byte of a word, in the low byte of a word (R227). -/
theorem byte_of_word (b : Word) (k : Nat) : (b >>> (8 * k)) &&& 0xFF = (b.extractLsb' (8 * k) 8).setWidth 32 := by
  apply BitVec.eq_of_toNat_eq
  rw [BitVec.toNat_and, BitVec.toNat_ushiftRight, BitVec.toNat_setWidth_of_le (by decide), BitVec.extractLsb'_toNat]
  exact Nat.and_two_pow_sub_one_eq_mod _ 8

/-- CRC32C takes its bytes one after another, the lowest first (R227). -/
theorem crcBytes_eq (b : Word) (n i : Nat) (c : Word) :
    crcBytes b n i c = (List.range n).foldl (fun c k => iter crcBit 8 (c ^^^ (b.extractLsb' (8 * (i + k)) 8).setWidth 32)) c := by
  induction n generalizing i c with
  | zero => rfl
  | succ n ih =>
    rw [crcBytes, ih, byte_of_word, List.range_succ_eq_map, List.foldl_cons, List.foldl_map]
    simp only [Nat.add_zero, Nat.succ_eq_add_one, Nat.add_comm 1, Nat.add_assoc]

/-- The elements that rank above an element never include itself (R229). -/
theorem packKept_eq (r : Nat → Nat) :
    packKept r = fun i => decide (((List.range 4).filter fun j => decide (r i < r j) || (r i == r j && decide (j < i))).length < 2) := by
  funext i
  have h : (fun j => j != i && (decide (r i < r j) || (r j == r i && decide (j < i))))
      = fun j => decide (r i < r j) || (r i == r j && decide (j < i)) := by
    funext j
    rw [BEq.comm (a := r j)]
    by_cases hj : j = i
    · simp [hj]
    · simp [hj]
  rw [packKept, h]
  rfl

/-- Settles O21: special functions round their value once, CRC32C goes byte by byte, SPACK keeps the two elements ranked highest. -/
theorem specialFunctionsAndHashes : Obligations.SpecialFunctionsAndHashes := by
  unfold Obligations.SpecialFunctionsAndHashes
  refine ⟨⟨fun _ => special_of fun _ => rfl, fun _ => special_of fun _ => rfl, fun _ => special_of fun _ => rfl,
    fun _ => special_of fun _ => rfl, fun _ => special_of fun _ => rfl, fun _ => special_of fun _ => rfl,
    fun _ => special_of fun _ => rfl, fun _ => special_of fun _ => rfl⟩, ?_⟩
  intro mix step byte crc
  have hcrc (i : Instr) (o : Two) (len : Nat) (w : CrcW) (hx : ∀ s, exec i s = runCrc o len w s) : crc i o len (crcCount w) :=
    gives_of (some o.a) _ hx fun s c slot g tm id t _ => congrArg Except.ok (by
      simp only [crcBytes_eq, Nat.zero_add]
      rfl)
  refine ⟨?hash, fun o => lenB_eq o.b ▸ hcrc _ o _ .b32 fun _ => rfl, fun o => lenB_eq o.b ▸ hcrc _ o _ .b8 fun _ => rfl,
    fun o => lenB_eq o.b ▸ hcrc _ o _ .b16 fun _ => rfl, fun c => hcrc _ (two c) 1 .b32 fun _ => rfl, ?rand, ?spack⟩
  case hash =>
    intro o k64 h64
    rw [← lenB_eq]
    exact gives_of (some o.a) _ (fun _ => rfl) fun _ _ _ _ _ _ _ _ => rfl
  case rand =>
    refine fun h d b64 e => gives_of none _ (fun _ => rfl) fun s c slot g tm id t hg => congrArg Except.ok ?_
    have hctr : t.rngctr + BitVec.ofNat 40 0 = t.rngctr := BitVec.add_zero _
    rw [curKey_eq hg, Thread.draw64, hctr]
    rfl
  case spack =>
    refine fun o e5 => gives_of (some o.a) _ (fun _ => rfl) fun s c slot g tm id t _ => congrArg Except.ok ?_
    have hx (i : Nat) : bits (t.reg o.a.toNat).toNat (8 * i + 7) (8 * i) = ((t.reg o.a.toNat).extractLsb' (8 * i) 8).toNat :=
      bits_field _ i (by decide : 0 < 8)
    simp only [spackOf, hx, packKept_eq, upTo, Nat.mul_comm _ (2 ^ _)]

end Sys2Proof.Machine
end

section
/-! ### GETS, SETS and MOVK (R78, R79, R171 to R173, R232) -/

namespace Sys2Proof.Machine

open Sys2Proof.Say

/-- The bits of a word from `n` up are clear where the word lies below 2^n. -/
theorem and_highMask_eq_zero_iff (w : Word) {n : Nat} (hn : n ≤ 32) : w &&& (BitVec.allOnes 32 <<< n) = 0 ↔ w.toNat < 2 ^ n := by
  constructor
  · intro h
    by_contra hge
    obtain ⟨i, hni, hbit⟩ := Nat.exists_ge_and_testBit_of_ge_two_pow (Nat.le_of_not_lt hge)
    have hi : i < 32 := BitVec.lt_of_getLsbD (x := w) hbit
    have hclear : (w &&& (BitVec.allOnes 32 <<< n)).getLsbD i = false := by rw [h]; exact BitVec.getLsbD_zero
    have hset : w.getLsbD i = true := hbit
    rw [BitVec.getLsbD_and, hset, BitVec.getLsbD_shiftLeft, BitVec.getLsbD_allOnes] at hclear
    simp [hi] at hclear
    omega
  · intro h
    ext i hi
    rw [BitVec.getElem_and, BitVec.getElem_shiftLeft]
    by_cases hin : i < n
    · simp [hin]
    · have hclear : w.toNat.testBit i = false :=
        Nat.testBit_lt_two_pow (Nat.lt_of_lt_of_le h (Nat.pow_le_pow_right (by decide) (by omega)))
      have : w[i] = false := hclear
      simp [this]

theorem flagsOk_iff (w : Word) : flagsOk w = true ↔ w.toNat < 64 := by
  rw [flagsOk, beq_iff_eq]
  exact and_highMask_eq_zero_iff w (n := 6) (by decide)

theorem mgnLimitOk_iff (w : Word) : mgnLimitOk w = true ↔ w.toNat < 2 ^ 24 := by
  rw [mgnLimitOk, beq_iff_eq]
  exact and_highMask_eq_zero_iff w (n := 24) (by decide)

theorem parkThOk_iff (w : Word) : parkThOk w = true ↔ w.toNat ≤ 64 := by
  have hmask : w &&& 0xFFFFFF80 = 0 ↔ w.toNat < 2 ^ 7 := and_highMask_eq_zero_iff w (n := 7) (by decide)
  rw [parkThOk, Bool.and_eq_true, beq_iff_eq, decide_eq_true_iff, hmask]
  omega

theorem ageLimitOk_iff (w : Word) : ageLimitOk w = true ↔ 16 ≤ w.toNat ∧ w.toNat < 2 ^ 16 := by
  have hmask : w &&& 0xFFFF0000 = 0 ↔ w.toNat < 2 ^ 16 := and_highMask_eq_zero_iff w (n := 16) (by decide)
  rw [ageLimitOk, Bool.and_eq_true, beq_iff_eq, decide_eq_true_iff, hmask, and_comm]

theorem fpctlOk_iff (w : Word) : fpctlOk w = true ↔ w &&& 0xFFFFE088 = 0 ∧ w.toNat % 8 ≤ 4 := by
  simp [fpctlOk]

theorem setMgnStat_eq (k : Core) (w : Word) :
    k.setMgnStat w = { k with serr := w.toNat / 2 ^ 24, esc := w.toNat / 2 ^ 16 % 256 } := by
  have := w.isLt
  rw [Core.setMgnStat, bits_eq, bits_eq, Nat.mod_eq_of_lt (a := w.toNat / 2 ^ 24) (by omega)]
  rfl

theorem setMgnLimit_eq (k : Core) {w : Word} (hw : w.toNat < 2 ^ 24) :
    k.setMgnLimit w = { k with relax := w.toNat / 2 ^ 16, limit := w.toNat % 2 ^ 16 } := by
  rw [Core.setMgnLimit, bits_eq, Nat.mod_eq_of_lt (a := w.toNat / 2 ^ 16) (by omega)]
  rfl

/-- A small number read by GETS is its word (R171). -/
theorem loW_small (x : Nat) : loW (BitVec.ofNat 64 (x % 2 ^ 32)) = BitVec.ofNat 32 x := by
  rw [loW_ofNat]
  exact BitVec.eq_of_toNat_eq (by simp)

/-- A privileged selector is checked with its code as INFO, another one is not (R79). -/
theorem selPriv_none {sel : SReg} (hp : sel.privileged = false) : selPriv sel = none := if_neg (by rw [hp]; decide)

theorem gets_live {h : Hdr} {d : VReg} {sel : SReg} {f : Nat → Group → Team → List (Nat × Nat × Thread) → State → State}
    (hf : ∀ c g tm live s, live.foldl (fun s x => s.modThread g.team x.2.1 fun u =>
      u.writeRegs (if sel.regs = 2 then wr64 d.toNat (getsVal s c x.1 x.2.1 tm x.2.2 sel)
        else [(d.toNat, loW (getsVal s c x.1 x.2.1 tm x.2.2 sel))])) s = f c g tm live s) :
    OnLive (.gets h d sel) h 2 sel.privileged [vW d sel.regs] f :=
  onLive_of (selPriv sel) none (fun s => (gets_eq h d sel s).trans (execGets.eq_1 ..)) selPriv_none hf

/-- SETS of a register held per thread (R172). -/
theorem sets_perThread {h : Hdr} {sel : SReg} {b : SrcB} {f : Nat → Nat → Team → Nat → Thread → State → State}
    (hsel : SReg.perThread sel = true)
    (hf : ∀ c team tm tid t s, s.setsThread team tid tm t sel (bVal tm t b) (lenB b) = f c team tm tid t s) :
    OnLanes (.sets h sel b) h (lenB b) sel.privileged (srcOps b) f := by
  refine onLanes_of (selPriv sel) none (fun s => (show exec _ s = execSets h sel b s from rfl).trans ?_) selPriv_none hf
  rw [execSets]
  simp only [hsel, if_true]
  rfl

theorem movk_live (h : Hdr) (dst : MovkDst) (b : SrcB) : OnLive (.movk h dst b) h (lenOfB b) false (srcOps b) fun _ g tm live s =>
    match live.getLast? with
    | none => s
    | some x => s.modTeam g.team fun t => t.setUniform dst (bVal tm x.2.2 b) := by
  rw [← lenB_eq]
  exact onLive_of none none (fun s => (show exec _ s = execMovk h dst b s from rfl).trans (execMovk.eq_1 ..)) (fun _ => rfl)
    fun _ _ _ _ _ => rfl

/-- Settles O28: GETS by its selector, SETS by the register's check and its write, MOVK by its destination. -/
theorem specialRegisters : Obligations.SpecialRegisters := by
  unfold Obligations.SpecialRegisters
  refine ⟨?gets, ?sets⟩
  case gets =>
    intro val
    have hval (s : State) (c lane tid : Nat) (tm : Team) (t : Thread) (sel : SReg) :
        loW (getsVal s c lane tid tm t sel) = val s c lane tid tm t sel := by
      cases sel with
      | tid | lane | slot | team | nteams | gwidth | core | clus | die | pkg | ctxid | part | parkTh | ageLimit =>
        simp only [getsVal, loW_small]
        rfl
      | fpctl | flags | rngkey | region | mgnCtl | mgnStat | mgnLimit =>
        simp only [getsVal, loW_wide]
        rfl
      | clock => rfl
      | tdm => exact BitVec.setWidth_setWidth_of_le _ (by decide)
    refine ⟨fun h d sel hsel => ?_, fun h d => gets_live fun c g tm live s => ?_⟩
    · have hregs : sel.regs = 1 := if_neg hsel
      have hone := gets_live (h := h) (d := d) (sel := sel) fun c g tm live s => rfl
      simp only [hregs, hval] at hone
      exact hone
    · rfl
  case sets =>
    intro bad one
    have hsets {h : Hdr} (sel : SReg) {b : SrcB} (p : Bool) {k : Nat → Nat → Team → Word → State → Option State}
        (hsel : SReg.perThread sel = false) (hp : sel.privileged = p)
        (hk : ∀ c team tm w s, (if setsOk tm sel w then some (s.setSpecial c team sel w) else none) = k c team tm w s) :
        OnLive (.sets h sel b) h (lenOfB b) p (srcOps b) (one sel b k) := by
      rw [← lenB_eq, ← hp]
      refine onLive_of (selPriv sel) none (fun s => (show exec _ s = execSets h sel b s from rfl).trans (execSets.eq_1 ..))
        selPriv_none fun c g tm live s => ?_
      simp only [hsel, Bool.false_eq_true, if_false, one, ← hk]
      cases live.getLast? with
      | none => rfl
      | some x =>
        by_cases hok : setsOk tm sel (bVal tm x.2.2 b) = true
        · simp only [hok, if_true]
          rfl
        · simp only [hok, Bool.false_eq_true, if_false, lenB_eq]
          rfl
    -- opaque from here on, so that `hsets` finds the write in its argument
    clear_value one
    refine ⟨fun h b => lenB_eq b ▸ sets_perThread rfl fun _ _ _ _ _ _ => ?toFpctl,
      fun h b => lenB_eq b ▸ sets_perThread rfl fun _ _ _ _ _ _ => ?toFlags, fun h b => hsets .part false rfl rfl fun _ _ _ _ _ => rfl,
      fun h b => ?toMgnCtl, fun h b => ?toMgnStat, fun h b => ?toMgnLimit, fun h b => ?toParkTh, fun h b => ?toAgeLimit,
      fun h b i => movk_live h (.k i) b, fun h b i => movk_live h (.mb i) b, fun h b i => movk_live h (.ml i) b⟩
    case toFpctl =>
      simp only [State.setsThread, setsOk, fpctlOk_iff]
      rfl
    case toFlags =>
      simp only [State.setsThread, setsOk, flagsOk_iff]
      rfl
    case toMgnCtl =>
      refine hsets .mgnCtl true rfl rfl fun _ _ _ w _ => ?_
      simp only [setsOk, mgnCtlOk, beq_iff_eq]
      rfl
    case toMgnStat =>
      refine hsets .mgnStat true rfl rfl fun _ _ _ w _ => ?_
      simp only [setsOk, if_true, State.setSpecial, setMgnStat_eq]
    case toMgnLimit =>
      refine hsets .mgnLimit true rfl rfl fun _ _ _ w _ => ?_
      simp only [setsOk, mgnLimitOk_iff]
      split
      · next hw => simp only [State.setSpecial, setMgnLimit_eq _ hw]
      · rfl
    case toParkTh =>
      refine hsets .parkTh true rfl rfl fun _ _ _ w _ => ?_
      simp only [setsOk, parkThOk_iff]
      rfl
    case toAgeLimit =>
      refine hsets .ageLimit true rfl rfl fun _ _ _ w _ => ?_
      simp only [setsOk, ageLimitOk_iff]
      rfl

end Sys2Proof.Machine
end

section
/-! ### Effective addresses, and the checks of a global access (R86, R276) -/

namespace Sys2Proof.Machine

/-- A modulo update steps the base inside its buffer: modulo the buffer's size, by the increment (R86). -/
theorem modulo_step {b n base : Word} (i : Int) (hlo : b.toNat ≤ base.toNat) (hhi : base.toNat < b.toNat + n.toNat)
    (hbuf : b.toNat + n.toNat < 2 ^ 32) :
    let x := b + BitVec.ofInt 32 (((base.toNat : Int) - b.toNat + i) % n.toNat)
    b.toNat ≤ x.toNat ∧ x.toNat < b.toNat + n.toNat ∧ ((x.toNat : Int) - base.toNat - i) % n.toNat = 0 := by
  intro x
  have hn : (0 : Int) < n.toNat := by omega
  obtain ⟨k, hk⟩ := Int.eq_ofNat_of_zero_le (Int.emod_nonneg ((base.toNat : Int) - b.toNat + i) hn.ne')
  have hkn : k < n.toNat := by
    have := Int.emod_lt_of_pos ((base.toNat : Int) - b.toNat + i) hn
    omega
  have hx : x.toNat = b.toNat + k := by
    simp only [x, hk, BitVec.ofInt_natCast, BitVec.toNat_add, BitVec.toNat_ofNat]
    omega
  refine ⟨by omega, by omega, ?_⟩
  have hdiff : (x.toNat : Int) - base.toNat - i = -(n.toNat * (((base.toNat : Int) - b.toNat + i) / n.toNat)) := by
    have := Int.mul_ediv_add_emod ((base.toNat : Int) - b.toNat + i) n.toNat
    omega
  rw [hdiff]
  exact Int.emod_eq_zero_of_dvd (Int.dvd_neg.mpr (Int.dvd_mul_right ..))

/-- An address that is not canonical is a page fault before any translation (R85, R276). -/
theorem access_nonCanonical {s : State} {die ctx : Nat} {core : Option Nat} {k : AccKind} {va : DWord}
    (hva : va.extractLsb' 55 9 ≠ 0) : s.access die core ctx k va = (.pageFault 2, s) := by
  rw [State.access, State.check, if_pos ((nonCanonical_iff va).mpr hva)]

/-- Settles O36: addresses by the form of the memory operand, the checks by what the access finds. -/
theorem addressesAndChecks : Obligations.AddressesAndChecks := by
  unfold Obligations.AddressesAndChecks
  refine ⟨fun tm t a => ⟨?global, fun _ => rfl, ?offset, fun _ => rfl, fun _ _ _ => ⟨rfl, rfl, rfl, rfl, rfl, rfl⟩, ?plain, ?modulo⟩,
    ?checks⟩
  case global =>
    intro m
    cases m with
    | off | index => rfl
    | base | post | modulo => exact (BitVec.add_zero _).symm
  case offset =>
    intro m
    cases m with
    | off | index => rfl
    | base | post | modulo => exact (BitVec.add_zero _).symm
  case plain =>
    intro i inc hn
    simp only [eaLocal, hn, if_true]
  case modulo =>
    intro i inc b n hreg hlo hhi hbuf
    have hn : n ≠ 0 := by
      rintro rfl
      simp at hhi
      omega
    exact ⟨_, by simp only [eaLocal, hreg, if_neg hn], modulo_step inc.toInt hlo hhi hbuf⟩
  case checks =>
    intro s c team tid ctx write posted pci len va check acc
    have found {o : Access} (ho : acc.1 = o) :
        s.access (dieOf c) (some c) ctx (if write then .write else .read) va = (o, acc.2) := ho ▸ rfl
    refine ⟨rfl, fun hva => ?_, fun k hk => ?_, fun k i hk => ?_, fun gpa x hok hpath => ?_, fun gpa x hok hpath => ?_⟩
    · simp only [check, State.checkVa, access_nonCanonical hva]
      rfl
    · simp only [check, State.checkVa, found hk]
      rfl
    · simp only [check, State.checkVa, found hk]
      rfl
    · simp only [check, State.checkVa, found hok, hpath]
      rfl
    · simp only [check, State.checkVa, found hok, hpath]
      rfl

end Sys2Proof.Machine
end
